-- ==== Sys2Proof/Word.lean ====
section
/-! DEFINITION. The word types of the FSV1-864 and their plainest arithmetic (00_scope R5, 02_numbers R37). -/

namespace Sys2Proof

/-- One byte. -/
abbrev Byte := BitVec 8
/-- A 32-bit word: a vector lane, a syllable, a local address. -/
abbrev Word := BitVec 32
/-- A 64-bit word: a scalar register, a mask, a program counter. -/
abbrev DWord := BitVec 64
/-- A 64-byte structure read as one little-endian value: a descriptor, a forme, a record. -/
abbrev Line := BitVec 512

/-- Field [lo + n - 1 : lo] of a natural number (R10: a bit field is a natural number). -/
def fld (x lo n : Nat) : Nat := x / 2 ^ lo % 2 ^ n

/-- `x` rounded up to a multiple of `m`. -/
def roundUp (x m : Nat) : Nat := (x + m - 1) / m * m

/-- Little-endian value of a byte list (R5). -/
def leNat : List Byte → Nat
  | [] => 0
  | b :: bs => b.toNat + 256 * leNat bs

/-- The `n` little-endian bytes of a natural number. -/
def leBytes : Nat → Nat → List Byte
  | 0, _ => []
  | n + 1, x => BitVec.ofNat 8 x :: leBytes n (x / 256)

/-- Number of one bits among bits [n-1:0]. -/
def popCount : Nat → Nat → Nat
  | 0, _ => 0
  | n + 1, x => x % 2 + popCount n (x / 2)

/-- The 64-bit value whose bits [w-1:0] are one (07 R163, lanes(W)). -/
def lanesMask (w : Nat) : DWord := BitVec.ofNat 64 (2 ^ w - 1)

end Sys2Proof
end

