-- ==== Sys2Proof/Syntax.lean ====
section
/-! DEFINITION. The abstract syntax: operand classes, type codes and the ONE inductive `Instr`, one
constructor per row of spec/opcode_table.json. Rows 0 to 229, TQNEXT_READ and FEVNEXT_READ are
instructions a core issues; the other rows are events of the device, with the data that names which
one takes place and what the outside world brings to it. -/

namespace Sys2Proof

/-- Scalar register s0-s127 (05 R127). -/
abbrev SReg := BitVec 7
/-- Vector register v0-v255. -/
abbrev VReg := BitVec 8
/-- Mask register m0-m15. -/
abbrev MReg := BitVec 4
/-- Rejoin register j0-j7. -/
abbrev JReg := BitVec 3
/-- Forme register fm0-fm15. -/
abbrev FReg := BitVec 4
/-- Galley tile; 0-47 is valid (R127). -/
abbrev GReg := BitVec 6
/-- A source named through the 6-bit field E of the short form (R123). -/
abbrev EReg := BitVec 6

/-- Integer types (02 R37). -/
inductive ITy | i8 | i16 | i32 | i64 | n8 | n16 | n32 | n64
  deriving DecidableEq, Repr

/-- Floating-point formats (02 R39). -/
inductive FTy | f32 | f16 | bf16 | e5m2 | e4m3 | e3m2 | e2m3 | e2m1
  deriving DecidableEq, Repr

/-- A type suffix other than none (05 R125). -/
inductive Ty | int (t : ITy) | flt (f : FTy)
  deriving DecidableEq, Repr

/-- Rounding modes (02 R42, 05 R125). -/
inductive RMode | rn | rz | ru | rd
  deriving DecidableEq, Repr

/-- Scopes (04 R96, 05 R125). -/
inductive Scope | grp | team | pair | clu | pkg | dom | sys
  deriving DecidableEq, Repr

/-- Short scope codes of VATOM and SATOM (08 R192). -/
inductive AScope | team | clu | pkg | sys
  deriving DecidableEq, Repr

/-- Order of a scratch atomic (08 R192). -/
inductive AOrd | none | acq | rel | acqrel
  deriving DecidableEq, Repr

/-- Kind of a FENCE (08 R196). -/
inductive FenceKind | acq | rel | acqrel
  deriving DecidableEq, Repr

/-- Integer comparison (06 R145). -/
inductive ICond | eq | ne | lt | le | gt | ge
  deriving DecidableEq, Repr

/-- Floating-point comparison (06 R158). -/
inductive FCond | eq | ne | lt | le | gt | ge | un | ord
  deriving DecidableEq, Repr

/-- Condition of BRS (07 R170). -/
inductive SCond | z | nz | lt | ge
  deriving DecidableEq, Repr

/-- Condition of BRM (07 R170). -/
inductive MCond | any | all | none
  deriving DecidableEq, Repr

/-- Mode of VSHFL (07 R166). -/
inductive ShflMode | idx | xor | up | down
  deriving DecidableEq, Repr

/-- Operator of VRED and VSCAN (07 R167). -/
inductive RedOp | add | min | max | and | or | xor | fadd | fmin | fmax
  deriving DecidableEq, Repr

/-- Operation of a scratch or far atomic (08 R192). -/
inductive AtOp | add | sub | min | max | and | or | xor | exch | cas | fadd
  deriving DecidableEq, Repr

/-- Operation of TREDUCE (08 R198). -/
inductive FarRed | add | min | max
  deriving DecidableEq, Repr

/-- Access width (08 R182). -/
inductive Width | b | h | w | d
  deriving DecidableEq, Repr

/-- Address mode of VLD (08 R182). -/
inductive VMode | unit | offset (b : VReg) | bcast
  deriving DecidableEq, Repr

/-- Signedness of an integer MMA (09 R210): A's letter, then B's. -/
inductive MmaSign | ss | us | su | uu
  deriving DecidableEq, Repr

/-- Special registers (07 R179). -/
inductive SpReg
  | clock | lane | group | team | core | cluster | fstat | kdata | ngroups | width | vregs | kargs | dsel | ddata
  deriving DecidableEq, Repr

/-- Proof-core control and status registers other than TQNEXT and FEVNEXT (14 R291, 17 R362). -/
inductive Csr
  | pcid | treca | trecb | trecc | trecd | tqcount | orphovf | dbgstat | predl
  | feva | fevb | fevcount | fevovf | preach0 | preach1 | fepid
  deriving DecidableEq, Repr

/-- A line-relative target (05 R130). -/
structure Target where
  line : BitVec 28
  syl : BitVec 4
  deriving DecidableEq, Repr

/-- Who issues: a group in a slot of a core, or the proof core of a cluster. -/
inductive Agent
  | group (core slot : Nat)
  | proof (cluster : Nat)
  deriving DecidableEq, Repr

/-- What a module's surroundings bring to its answer: a refusal hint (0 none; R335, R385) and the
chunks of the answer that carry an uncorrectable data error (03 R71). -/
structure Answer where
  hint : Nat
  bad : List Nat
  deriving DecidableEq, Repr

/-- What happens to a burst's flits on their way (17 R351, R352): nothing, a codeword that the decoder cannot correct, or bytes
that arrive as others. -/
inductive Transit where
  | intact
  | uncorrected
  | changed (bytes : List (Nat × Byte))
  deriving DecidableEq, Repr

/-- One reading of the power manager's monitors (18 R386-R388). -/
structure Monitors where
  dieTemp : List Nat      -- 1/16 degree C, hottest sensor of each die
  dieVolt : List Nat      -- mV
  dieProc : List Nat
  inlet : Nat             -- 1/16 degree C
  flow : Nat              -- 0.01 L/min
  avgPower : Nat          -- W, 10 ms average
  nowPower : Nat          -- W
  predicted : Nat         -- the lowest level at which the prediction keeps the envelope (R386)
  deriving DecidableEq, Repr

/-- One constructor per row of spec/opcode_table.json. -/
inductive Instr
  -- control (07 R169-R176)
  | nop
  | bra (t : Target)
  | brs (c : SCond) (a : SReg) (t : Target)
  | brm (c : MCond) (a : MReg) (t : Target)
  | jmp (a : SReg)
  | callLong (d a : SReg)
  | callLiteral (d : SReg) (t : Target)
  | ret (e : EReg)
  | enrol (g : MReg) (d : JReg) (t : Target)
  | park (g : MReg) (d : JReg)
  | strike (g : MReg) (d : JReg)
  | safept (idx : Byte)
  | yield
  | exit
  -- scalar arithmetic (06 R142-R149)
  | smovShort (d : SReg) (e : EReg)
  | smovLong (t : Option ITy) (d a : SReg)
  | sli (t : ITy) (d : SReg) (lit : Word)
  | saddLong (t : ITy) (d a b : SReg)
  | saddLiteral (t : ITy) (d a : SReg) (lit : Word)
  | ssubLong (t : ITy) (d a b : SReg)
  | ssubLiteral (t : ITy) (d a : SReg) (lit : Word)
  | smulLong (t : ITy) (d a b : SReg)
  | smulLiteral (t : ITy) (d a : SReg) (lit : Word)
  | smulhLong (t : ITy) (d a b : SReg)
  | smulhLiteral (t : ITy) (d a : SReg) (lit : Word)
  | sdivLong (la : BitVec 4) (t : ITy) (d a b : SReg)
  | sdivLiteral (la : BitVec 4) (t : ITy) (d a : SReg) (lit : Word)
  | sremLong (la : BitVec 4) (t : ITy) (d a b : SReg)
  | sremLiteral (la : BitVec 4) (t : ITy) (d a : SReg) (lit : Word)
  | sandLong (t : ITy) (d a b : SReg)
  | sandLiteral (t : ITy) (d a : SReg) (lit : Word)
  | sorLong (t : ITy) (d a b : SReg)
  | sorLiteral (t : ITy) (d a : SReg) (lit : Word)
  | sxorLong (t : ITy) (d a b : SReg)
  | sxorLiteral (t : ITy) (d a : SReg) (lit : Word)
  | sshlLong (t : ITy) (d a b : SReg)
  | sshlLiteral (t : ITy) (d a : SReg) (lit : Word)
  | sshrLong (t : ITy) (d a b : SReg)
  | sshrLiteral (t : ITy) (d a : SReg) (lit : Word)
  | ssarLong (t : ITy) (d a b : SReg)
  | ssarLiteral (t : ITy) (d a : SReg) (lit : Word)
  | sminLong (t : ITy) (d a b : SReg)
  | sminLiteral (t : ITy) (d a : SReg) (lit : Word)
  | smaxLong (t : ITy) (d a b : SReg)
  | smaxLiteral (t : ITy) (d a : SReg) (lit : Word)
  | scmpLong (c : ICond) (t : ITy) (d a b : SReg)
  | scmpLiteral (c : ICond) (t : ITy) (d a : SReg) (lit : Word)
  | ssel (d a b c : SReg)
  | spopcShort (d : SReg) (e : EReg)
  | spopcLong (t : ITy) (d a : SReg)
  | sclzShort (d : SReg) (e : EReg)
  | sclzLong (t : ITy) (d a : SReg)
  | sbfx (t : ITy) (d a : SReg) (pos : BitVec 6) (len : BitVec 7)
  | sbfi (t : ITy) (d a : SReg) (pos : BitVec 6) (len : BitVec 7)
  | saddr (t : ITy) (d a b c : SReg) (k : BitVec 3)
  -- vector integer (06 R143-R154)
  | vmovShort (g : MReg) (d : VReg) (e : EReg)
  | vmovLong (g : MReg) (d a : VReg)
  | vmovBcast (g : MReg) (d : VReg) (a : SReg)
  | vli (g : MReg) (t : Ty) (d : VReg) (lit : Word)
  | vaddLong (g : MReg) (t : ITy) (d a b : VReg)
  | vaddLiteral (g : MReg) (t : ITy) (d a : VReg) (lit : Word)
  | vsubLong (g : MReg) (t : ITy) (d a b : VReg)
  | vsubLiteral (g : MReg) (t : ITy) (d a : VReg) (lit : Word)
  | vmulLong (g : MReg) (t : ITy) (d a b : VReg)
  | vmulLiteral (g : MReg) (t : ITy) (d a : VReg) (lit : Word)
  | vmulhLong (g : MReg) (t : ITy) (d a b : VReg)
  | vmulhLiteral (g : MReg) (t : ITy) (d a : VReg) (lit : Word)
  | vmad (g : MReg) (t : ITy) (d a b c : VReg)
  | vaddsatLong (g : MReg) (t : ITy) (d a b : VReg)
  | vaddsatLiteral (g : MReg) (t : ITy) (d a : VReg) (lit : Word)
  | vsubsatLong (g : MReg) (t : ITy) (d a b : VReg)
  | vsubsatLiteral (g : MReg) (t : ITy) (d a : VReg) (lit : Word)
  | vandLong (g : MReg) (t : ITy) (d a b : VReg)
  | vandLiteral (g : MReg) (t : ITy) (d a : VReg) (lit : Word)
  | vorLong (g : MReg) (t : ITy) (d a b : VReg)
  | vorLiteral (g : MReg) (t : ITy) (d a : VReg) (lit : Word)
  | vxorLong (g : MReg) (t : ITy) (d a b : VReg)
  | vxorLiteral (g : MReg) (t : ITy) (d a : VReg) (lit : Word)
  | vshlLong (g : MReg) (t : ITy) (d a b : VReg)
  | vshlLiteral (g : MReg) (t : ITy) (d a : VReg) (lit : Word)
  | vshrLong (g : MReg) (t : ITy) (d a b : VReg)
  | vshrLiteral (g : MReg) (t : ITy) (d a : VReg) (lit : Word)
  | vsarLong (g : MReg) (t : ITy) (d a b : VReg)
  | vsarLiteral (g : MReg) (t : ITy) (d a : VReg) (lit : Word)
  | vminLong (g : MReg) (t : ITy) (d a b : VReg)
  | vminLiteral (g : MReg) (t : ITy) (d a : VReg) (lit : Word)
  | vmaxLong (g : MReg) (t : ITy) (d a b : VReg)
  | vmaxLiteral (g : MReg) (t : ITy) (d a : VReg) (lit : Word)
  | vabsShort (g : MReg) (d : VReg) (e : EReg)
  | vabsLong (g : MReg) (t : ITy) (d a : VReg)
  | vcmpLong (g : MReg) (c : ICond) (t : ITy) (d : MReg) (a b : VReg)
  | vcmpLiteral (g : MReg) (c : ICond) (t : ITy) (d : MReg) (a : VReg) (lit : Word)
  | vsel (g : MReg) (d a b : VReg) (c : MReg)
  | vpopcShort (g : MReg) (d : VReg) (e : EReg)
  | vpopcLong (g : MReg) (t : ITy) (d a : VReg)
  | vclzShort (g : MReg) (d : VReg) (e : EReg)
  | vclzLong (g : MReg) (t : ITy) (d a : VReg)
  | vbfx (g : MReg) (t : ITy) (d a : VReg) (pos : BitVec 6) (len : BitVec 7)
  | vdot4 (g : MReg) (sgn mix sat : Bool) (d a b c : VReg)
  -- floating point (06 R155-R161)
  | vfaddLong (g : MReg) (t : FTy) (rm : RMode) (d a b : VReg)
  | vfaddLiteral (g : MReg) (t : FTy) (rm : RMode) (d a : VReg) (lit : Word)
  | vfsubLong (g : MReg) (t : FTy) (rm : RMode) (d a b : VReg)
  | vfsubLiteral (g : MReg) (t : FTy) (rm : RMode) (d a : VReg) (lit : Word)
  | vfmulLong (g : MReg) (t : FTy) (rm : RMode) (d a b : VReg)
  | vfmulLiteral (g : MReg) (t : FTy) (rm : RMode) (d a : VReg) (lit : Word)
  | vfma (g : MReg) (t : FTy) (rm : RMode) (d a b c : VReg)
  | vfminLong (g : MReg) (t : FTy) (d a b : VReg)
  | vfminLiteral (g : MReg) (t : FTy) (d a : VReg) (lit : Word)
  | vfmaxLong (g : MReg) (t : FTy) (d a b : VReg)
  | vfmaxLiteral (g : MReg) (t : FTy) (d a : VReg) (lit : Word)
  | vfabsShort (g : MReg) (d : VReg) (e : EReg)
  | vfabsLong (g : MReg) (t : FTy) (d a : VReg)
  | vfnegShort (g : MReg) (d : VReg) (e : EReg)
  | vfnegLong (g : MReg) (t : FTy) (d a : VReg)
  | vfcmpLong (g : MReg) (c : FCond) (t : FTy) (d : MReg) (a b : VReg)
  | vfcmpLiteral (g : MReg) (c : FCond) (t : FTy) (d : MReg) (a : VReg) (lit : Word)
  | vrcpShort (g : MReg) (la : BitVec 4) (d : VReg) (e : EReg)
  | vrcpLong (g : MReg) (la : BitVec 4) (t : FTy) (rm : RMode) (d a : VReg)
  | vrsqShort (g : MReg) (la : BitVec 4) (d : VReg) (e : EReg)
  | vrsqLong (g : MReg) (la : BitVec 4) (t : FTy) (rm : RMode) (d a : VReg)
  | vsqrtShort (g : MReg) (la : BitVec 4) (d : VReg) (e : EReg)
  | vsqrtLong (g : MReg) (la : BitVec 4) (t : FTy) (rm : RMode) (d a : VReg)
  | vdivShort (g : MReg) (la : BitVec 4) (d : VReg) (e : EReg)
  | vdivLong (g : MReg) (la : BitVec 4) (t : FTy) (rm : RMode) (d a b : VReg)
  | vexp2Short (g : MReg) (la : BitVec 4) (d : VReg) (e : EReg)
  | vexp2Long (g : MReg) (la : BitVec 4) (t : FTy) (d a : VReg)
  | vlog2Short (g : MReg) (la : BitVec 4) (d : VReg) (e : EReg)
  | vlog2Long (g : MReg) (la : BitVec 4) (t : FTy) (d a : VReg)
  | vsinShort (g : MReg) (la : BitVec 4) (d : VReg) (e : EReg)
  | vsinLong (g : MReg) (la : BitVec 4) (t : FTy) (d a : VReg)
  | vcosShort (g : MReg) (la : BitVec 4) (d : VReg) (e : EReg)
  | vcosLong (g : MReg) (la : BitVec 4) (t : FTy) (d a : VReg)
  | vtanhShort (g : MReg) (la : BitVec 4) (d : VReg) (e : EReg)
  | vtanhLong (g : MReg) (la : BitVec 4) (t : FTy) (d a : VReg)
  | vcvt (g : MReg) (td ts : Ty) (rm : RMode) (sat : Bool) (d a : VReg)
  | vfrint (g : MReg) (t : FTy) (rm : RMode) (d a : VReg)
  -- masks (07 R162-R163)
  | mand (d a b : MReg)
  | mor (d a b : MReg)
  | mxor (d a b : MReg)
  | mandn (d a b : MReg)
  | mnot (d e : MReg)
  | mmovToMask (d : MReg) (a : SReg)
  | mmovToScalar (d : SReg) (a : MReg)
  | mballot (d : MReg) (a : VReg) (k : MReg)
  | mpopc (d : SReg) (a : MReg)
  | mfirst (d : SReg) (a : MReg)
  | mset (d : MReg) (first : BitVec 6) (count : BitVec 7)
  -- cross-lane (07 R164-R168)
  | vshfl (g : MReg) (la : BitVec 4) (md : ShflMode) (d a b : VReg) (k : MReg)
  | vrotLong (g : MReg) (la : BitVec 4) (d a : VReg) (b : SReg) (k : MReg)
  | vrotLiteral (g : MReg) (la : BitVec 4) (d a : VReg) (lit : Word) (k : MReg)
  | vbcast (g : MReg) (la : BitVec 4) (d a : VReg) (b : SReg) (k : MReg)
  | vred (g : MReg) (la : BitVec 4) (op : RedOp) (t : Ty) (d a : VReg) (k : MReg)
  | vscan (g : MReg) (la : BitVec 4) (op : RedOp) (excl : Bool) (t : Ty) (d a : VReg) (k : MReg)
  | vcompact (g : MReg) (la : BitVec 4) (d a : VReg) (k : MReg)
  | vexpand (g : MReg) (la : BitVec 4) (d a : VReg) (k : MReg)
  -- local access (08 R182-R193)
  | vldLong (g : MReg) (la : BitVec 4) (md : VMode) (wd : Width) (sx : Bool) (d : VReg) (a : SReg) (disp : Byte)
  | vldLiteral (g : MReg) (la : BitVec 4) (md : VMode) (wd : Width) (sx : Bool) (d : VReg) (a : SReg) (lit : Word)
  | vstLong (g : MReg) (off : Option VReg) (wd : Width) (d : VReg) (a : SReg) (disp : Byte)
  | vstLiteral (g : MReg) (off : Option VReg) (wd : Width) (d : VReg) (a : SReg) (lit : Word)
  | sldLong (la : BitVec 4) (wd : Width) (sx : Bool) (d a : SReg) (disp : Byte)
  | sldLiteral (la : BitVec 4) (wd : Width) (sx : Bool) (d a : SReg) (lit : Word)
  | sstLong (wd : Width) (d a : SReg) (disp : Byte)
  | sstLiteral (wd : Width) (d a : SReg) (lit : Word)
  | ll (la : BitVec 4) (dbl : Bool) (acq : Option Scope) (d a : SReg) (disp : Byte)
  | su (dbl : Bool) (rel : Option Scope) (d a : SReg) (disp : Byte)
  | vatom (g : MReg) (la : BitVec 4) (op : AtOp) (ord : AOrd) (sc : AScope) (t : Ty) (d a b c : VReg)
  | satom (la : BitVec 4) (op : AtOp) (ord : AOrd) (sc : AScope) (t : Ty) (d a b c : SReg)
  -- arrival words, barriers, fences (08 R194-R196)
  | arinitLong (a : SReg) (off : Byte) (b : SReg)
  | arinitLiteral (a : SReg) (off : Byte) (lit : Word)
  | arwait (sc : Scope) (d a : SReg) (off : Byte) (b : SReg)
  | artest (sc : Scope) (d a : SReg) (off : Byte) (b : SReg)
  | araddLong (sc : Scope) (a : SReg) (off : Byte) (b : SReg)
  | araddLiteral (sc : Scope) (a : SReg) (off : Byte) (lit : Word)
  | tmbar
  | clbar
  | fence (k : FenceKind) (sc : Scope)
  -- engine commands (08 R197-R203)
  | tfetch (d a b c : SReg)
  | tmcast (mask : BitVec 4) (d a b c : SReg)
  | tgather (d a b c : SReg)
  | tstore (d a b c : SReg)
  | treduce (op : FarRed) (d a b c : SReg)
  | tfill (d a b c : SReg)
  | tcopy (d a b c : SReg)
  | tatom (op : AtOp) (t : Ty) (d a b c : SReg)
  | bulkld (d a b c : SReg)
  | bulkst (d a b c : SReg)
  | pagereq (d a b c : SReg)
  | twinLim (d : SReg)
  | twinOut (d : SReg)
  | twinSet (d a : SReg)
  | thint (a b : SReg)
  -- matrix (09 R207, R214-R221)
  | forme (la : BitVec 4) (d : FReg) (a : SReg) (m : Byte)
  | formeR (la : BitVec 4) (d : FReg) (a : SReg)
  | mma (pair : Bool) (sg : MmaSign) (d : GReg) (a b : FReg) (c : SReg)
  | mzero (d : GReg)
  | mldg (d : GReg) (a : FReg) (b : SReg)
  | mstg (d : FReg) (a : GReg) (b : SReg)
  | mcvt (relu : Bool) (rm : RMode) (d : FReg) (a : GReg) (c : SReg)
  | maddg (isInt : Bool) (rm : RMode) (d a b : GReg)
  | mwait
  -- ligatures (10 R232-R240)
  | ligbind (c : BitVec 2) (a b : SReg)
  | ligeval (a : SReg)
  | ligemit (bf : Bool) (a b : SReg)
  | ligwait
  | ligclr
  -- handoff, tasks, allocation (11 R244-R266)
  | handoff (idx : BitVec 3) (a : SReg) (m : Byte)
  | taskq (d a b : SReg)
  | taskpush (d a b : SReg)
  | taskdone (d a : SReg)
  | launch (d a b : SReg)
  | grow (d : SReg) (m : Byte)
  | shrink (m : Byte)
  -- traps and special registers (07 R177-R179)
  | trap (code : Byte)
  | brk (code : Byte)
  | rdsr (g : MReg) (r : SpReg) (d : Byte)
  | wrsr (r : SpReg) (a : SReg)
  -- proof core (14 R291-R300, 16 R341)
  | dbgmap (d a : SReg)
  | dbgmapU (d : SReg)
  | dbgrd (la : BitVec 4) (wd : Width) (d a : SReg) (m : Byte)
  | dbgwr (wd : Width) (d a : SReg) (m : Byte)
  | tret
  | tretExit
  | preempt (d a b : SReg)
  | preemptQ (d a : SReg)
  | xlatinvPg (d a : SReg)
  | xlatinvAll (d a : SReg)
  | xlatinvUnreach (d a : SReg)
  | xlatinvReach (d a : SReg)
  | csrrd (d : SReg) (r : Csr)
  | csrwr (r : Csr) (a : SReg)
  | tqnextRead (d : SReg)
  | tqnextWaitEnd (cluster : Nat)
  | fevnextRead (d : SReg)
  | fevnextWaitEnd (cluster : Nat)
  -- events of a core and its engines
  | lookaheadCommit (uid : Nat)
  | localAccessPerform (uid : Nat)
  | fenceWaitEnd (ag : Agent)
  | chaseWaitEnd (core slot : Nat)
  | matrixQueueEnter (core slot : Nat)
  | matrixOpStart (core : Nat)
  | matrixOpRetire (uid : Nat)
  | ligQueueEnter (core slot : Nat)
  | ligOpStart (core : Nat)
  | ligOpComplete (uid : Nat)
  | ligclrClear (core slot : Nat)
  -- events of the fetch path and the fabric's transport
  | requestSend (cmd req : Nat)
  | requestRetry (cmd req : Nat)
  | translationWalkComplete (cmd unit : Nat)
  | responseBurstReceive (n : Nat) (t : Transit)
  | ackOnlyReceive (n : Nat) (t : Transit)
  | zeroFillAddition (cmd : Nat)
  | replayTimeout (stream : Nat)
  | resumeReceive (stream : Nat) (r : Word)
  | grantRequestReceive (src plane slot vc bursts : Nat) (refuse : Nat)
  | grantReceive (peer plane slot vc bursts : Nat)
  | grantRefusalReceive (peer plane vc hint : Nat)
  | grantRetry (peer plane vc : Nat)
  | completionNoticeReceive (cmd req : Nat)
  -- events of the modules
  | moduleRead (ep n : Nat) (w : Answer)
  | moduleWrite (ep n : Nat) (w : Answer)
  | moduleReduce (ep n : Nat) (w : Answer)
  | moduleFill (ep n : Nat) (w : Answer)
  | moduleAtomic (ep n : Nat) (w : Answer)
  | moduleCopy (ep n : Nat) (w : Answer)
  | moduleHint (ep n : Nat) (drop : Bool)
  | moduleTableRead (ep addr : Nat)
  | moduleTableWrite (ep : Nat)
  | pageMoveComplete (ep page : Nat)
  | moduleThermalStep (ep stack temp : Nat)
  -- handoff and allocation events
  | handoffTransfer (team : Nat)
  | successorStart (team : Nat)
  | scrubWrite (core granule : Nat)
  | growRecheck (core slot : Nat)
  | allWaitingFailure (core : Nat)
  -- imposer events
  | taskqAnswer (cluster n : Nat)
  | pendingRecordMove (cluster index : Nat)
  | imposerBalance (part : Nat)
  | movedRecordArrive (n : Nat)
  -- queue and placement events
  | notifyWrite (part q : Nat) (x : DWord)
  | packetKernel (slot : Nat)
  | packetWait (slot : Nat)
  | waitPacketPoll (slot idx : Nat)
  | packetNoop (slot : Nat)
  | packetReserveLanes (slot : Nat)
  | packetReleaseLanes (slot : Nat)
  | laneReservationPin (slot : Nat)
  | packetComplete (slot idx : Nat)
  | teamPlace (launch : Nat)
  | placementRetry (part : Nat)
  | bindingIssue (team : Nat)
  | queueMap (part slot : Nat)
  | priorityEviction (part : Nat)
  | sliceEviction (slot : Nat)
  | idleUnmap (slot : Nat)
  | leaseExpire (slot : Nat)
  -- pre-emption events
  | preemptDeadline (n : Nat)
  | contextSave (n : Nat)
  | saveComplete (n : Nat)
  -- translation events
  | xinvWrite (part : Nat) (x : DWord)
  | shootdownComplete (part : Nat)
  | fresolveWrite (part : Nat) (x : DWord)
  | fbgetWrite (part : Nat) (x : DWord)
  -- host and boot events
  | registerWrite (off : Nat) (x : DWord)
  | mailboxRead (win off size : Nat)
  | mailboxWrite (win off size x : Nat)
  | proofCoreRestart (cluster : Nat)
  | bootVerifyFirmware
  | bootVerifyConfiguration
  | firmwareVerifyDone
  | configurationBringupDone (selfTestOk : Bool)
  | featureLock
  | attestGo
  | attestReportDone
  | mmgmtSend
  | packageReset
  -- socket and lane events
  | sockGo (s : Nat)
  | sockQuiesce (s : Nat)
  | sockReset (s : Nat)
  | engineInsert (s : Nat) (rom : List Byte)
  | engineRemove (s : Nat)
  | romVerifyDone (s : Nat)
  | drainComplete (s : Nat)
  | drainTimeout (s : Nat)
  | laneFail (s lane reason : Nat)
  | spareLock (s lane spare : Nat)
  | laneRetry (s lane : Nat) (pass : Bool)
  | retrain (s lane : Nat) (pass : Bool)
  | ageingUpdate (s lane current : Nat)
  | laserRetire (s lane spare : Nat)
  -- cadence, power, memory health
  | cadenceTickSend
  | cadenceTickReceive (n level : Nat)
  | levelApply
  | demandReceive (member level : Nat)
  | cadenceLost
  | thermalEmergency
  | powerSample (m : Monitors)
  | rowSelfTestDone (core row : Nat) (pass : Bool)
  | throttleDemandReceive (ep : Nat) (on : Bool)
  deriving DecidableEq, Repr

end Sys2Proof
end

