-- ==== Sys2Proof/WellFormed.lean ====
section
/-! DEFINITION. Which terms of `Instr` are instructions: the static conditions of 05_encoding R125, R126,
R130 and of each entry that the types of the operands do not already express. Register classes that
depend on the issuing group (R127: its vector register count, its kernel's scalar count, its declared
tiles) are checked at issue (Machine/Operands). Events carry no encoding and no condition here. -/

namespace Sys2Proof

/-- Width n of an integer type (02 R37). -/
def ITy.width : ITy → Nat
  | .i8 | .n8 => 8
  | .i16 | .n16 => 16
  | .i32 | .n32 => 32
  | .i64 | .n64 => 64

/-- Whether an integer type is two's complement (02 R37). -/
def ITy.signed : ITy → Bool
  | .i8 | .i16 | .i32 | .i64 => true
  | .n8 | .n16 | .n32 | .n64 => false

/-- The vector integer types (06 R140): all but .i64 and .n64. -/
def ITy.vec (t : ITy) : Bool := t.width ≤ 32

/-- The "float" types of 06 R140. -/
def FTy.wide : FTy → Bool
  | .f32 | .f16 | .bf16 => true
  | _ => false

/-- Number of bits of a code of a format (02 R39). -/
def FTy.bits : FTy → Nat
  | .f32 => 32
  | .f16 | .bf16 => 16
  | .e5m2 | .e4m3 => 8
  | .e3m2 | .e2m3 => 6
  | .e2m1 => 4

/-- A float literal has no bit above the code (05 R126). -/
def litFits (f : FTy) (lit : Word) : Bool := lit.toNat < 2 ^ f.bits

/-- A target names a syllable 0-14 (05 R130). -/
def Target.wf (t : Target) : Bool := t.syl != 15#4

/-- Position and length of a bit field inside n bits (06 R148). -/
def fieldFits (n : Nat) (pos : BitVec 6) (len : BitVec 7) : Bool :=
  len.toNat != 0 && pos.toNat + len.toNat ≤ n

/-- Type set of a reduction or scan operator (07 R167). -/
def RedOp.accepts : RedOp → Ty → Bool
  | .add, .int t | .min, .int t | .max, .int t | .and, .int t | .or, .int t | .xor, .int t => t.vec
  | .fadd, .flt f | .fmin, .flt f | .fmax, .flt f => f == .f32
  | _, _ => false

/-- Type set of an atomic (08 R192): 32-bit integers, 64-bit ones where `wide`, .f32 for fadd only. -/
def AtOp.accepts (wide : Bool) : AtOp → Ty → Bool
  | .fadd, .flt f => f == .f32
  | .fadd, .int _ => false
  | _, .int t => t.width == 32 || (wide && t.width == 64)
  | _, .flt _ => false

/-- An order without .acq or .rel has no scope code (08 R192). -/
def atomScopeOk (ord : AOrd) (sc : AScope) : Bool := ord != .none || sc == .team

/-- .sx of a vector load is for widths b and h (08 R182). -/
def sxVec (wd : Width) (sx : Bool) : Bool := !sx || wd == .b || wd == .h

/-- .sx of a scalar load is for widths b, h and w (08 R182). -/
def sxScalar (wd : Width) (sx : Bool) : Bool := !sx || wd != .d

/-- A galley field names g0-g47 (05 R127). -/
def tileOk (g : GReg) : Bool := g.toNat < 48

/-- Types and rounding fields of VCVT (06 R160). -/
def vcvtOk (td ts : Ty) (rm : RMode) (sat : Bool) : Bool :=
  match td, ts with
  | .flt _, .flt _ => true
  | .flt _, .int s => s.vec
  | .int t, .flt _ => t.vec && !sat
  | .int t, .int s => t.vec && s.vec && rm == .rn

/-- Special registers WRSR may name (07 R179): those marked RW, and %ddata, whose WRSR takes PRIV or ILLOP by the group's grants when it
issues (14 R284, log 33); a WRSR of any other takes ILLOP as it is decoded. -/
def SpReg.writable : SpReg → Bool
  | .fstat | .dsel | .ddata => true
  | _ => false

/-- Control and status registers CSRWR may name (14 R291, 17 R362). -/
def Csr.writable : Csr → Bool
  | .orphovf | .predl | .fevovf => true
  | _ => false

/-- The static conditions on a term. -/
def Instr.wf : Instr → Bool
  | .bra t | .brs _ _ t | .brm _ _ t | .callLiteral _ t | .enrol _ _ t => t.wf
  | .sbfx t _ _ p l | .sbfi t _ _ p l => fieldFits t.width p l
  | .saddr t _ _ _ _ _ => t.width == 32 || t.width == 64
  | .vli _ t _ lit =>
    match t with
    | .int i => i.vec
    | .flt f => litFits f lit
  | .vaddLong _ t _ _ _ | .vaddLiteral _ t _ _ _ | .vsubLong _ t _ _ _ | .vsubLiteral _ t _ _ _
  | .vmulLong _ t _ _ _ | .vmulLiteral _ t _ _ _ | .vmulhLong _ t _ _ _ | .vmulhLiteral _ t _ _ _
  | .vmad _ t _ _ _ _ | .vaddsatLong _ t _ _ _ | .vaddsatLiteral _ t _ _ _
  | .vsubsatLong _ t _ _ _ | .vsubsatLiteral _ t _ _ _ | .vandLong _ t _ _ _ | .vandLiteral _ t _ _ _
  | .vorLong _ t _ _ _ | .vorLiteral _ t _ _ _ | .vxorLong _ t _ _ _ | .vxorLiteral _ t _ _ _
  | .vshlLong _ t _ _ _ | .vshlLiteral _ t _ _ _ | .vshrLong _ t _ _ _ | .vshrLiteral _ t _ _ _
  | .vsarLong _ t _ _ _ | .vsarLiteral _ t _ _ _ | .vminLong _ t _ _ _ | .vminLiteral _ t _ _ _
  | .vmaxLong _ t _ _ _ | .vmaxLiteral _ t _ _ _ | .vcmpLong _ _ t _ _ _ | .vcmpLiteral _ _ t _ _ _
  | .vpopcLong _ t _ _ | .vclzLong _ t _ _ => t.vec
  | .vabsLong _ t _ _ => t.vec && t.signed
  | .vbfx _ t _ _ p l => t.vec && fieldFits t.width p l
  | .vfaddLong _ t _ _ _ _ | .vfsubLong _ t _ _ _ _ | .vfmulLong _ t _ _ _ _ | .vfma _ t _ _ _ _ _
  | .vfminLong _ t _ _ _ | .vfmaxLong _ t _ _ _ | .vfabsLong _ t _ _ | .vfnegLong _ t _ _
  | .vfcmpLong _ _ t _ _ _ | .vrcpLong _ _ t _ _ _ | .vrsqLong _ _ t _ _ _ | .vsqrtLong _ _ t _ _ _
  | .vdivLong _ _ t _ _ _ _ | .vexp2Long _ _ t _ _ | .vlog2Long _ _ t _ _ | .vsinLong _ _ t _ _
  | .vcosLong _ _ t _ _ | .vtanhLong _ _ t _ _ | .vfrint _ t _ _ _ => t.wide
  | .vfaddLiteral _ t _ _ _ lit | .vfsubLiteral _ t _ _ _ lit | .vfmulLiteral _ t _ _ _ lit
  | .vfminLiteral _ t _ _ lit | .vfmaxLiteral _ t _ _ lit | .vfcmpLiteral _ _ t _ _ lit =>
    t.wide && litFits t lit
  | .vcvt _ td ts rm sat _ _ => vcvtOk td ts rm sat
  | .mset _ first count => count.toNat ≤ 64 && first.toNat + count.toNat ≤ 64
  | .vred _ _ op t _ _ _ | .vscan _ _ op _ t _ _ _ => op.accepts t
  | .vldLong _ _ _ wd sx _ _ _ | .vldLiteral _ _ _ wd sx _ _ _ => sxVec wd sx
  | .sldLong _ wd sx _ _ _ | .sldLiteral _ wd sx _ _ _ => sxScalar wd sx
  | .vatom _ _ op ord sc t _ _ _ c => op.accepts false t && atomScopeOk ord sc && (op == .cas || c == 0)
  | .satom _ op ord sc t _ _ _ c => op.accepts true t && atomScopeOk ord sc && (op == .cas || c == 0)
  | .tmcast mask _ _ _ _ => mask != 0
  | .tatom op t _ _ _ c => op.accepts true t && (op == .cas || c == 0)
  | .mma _ _ d _ _ _ | .mzero d | .mldg d _ _ => tileOk d
  | .mstg _ a _ | .mcvt _ _ _ a _ => tileOk a
  | .maddg isInt rm d a b => tileOk d && tileOk a && tileOk b && (!isInt || rm == .rn)
  | .rdsr g r d => r == .lane || (g == 0 && d.toNat < 128)
  | .wrsr r _ => r.writable
  | .csrwr r _ => r.writable
  | _ => true

/-- Events of the device: rows of the opcode table that no word encodes. -/
def Instr.isEvent : Instr → Bool
  | .tqnextWaitEnd _ | .fevnextWaitEnd _ | .lookaheadCommit _ | .localAccessPerform _ | .fenceWaitEnd _
  | .chaseWaitEnd .. | .matrixQueueEnter .. | .matrixOpStart _ | .matrixOpRetire _ | .ligQueueEnter ..
  | .ligOpStart _ | .ligOpComplete _ | .ligclrClear .. | .requestSend .. | .requestRetry ..
  | .translationWalkComplete .. | .responseBurstReceive .. | .ackOnlyReceive .. | .zeroFillAddition _
  | .replayTimeout _ | .resumeReceive .. | .grantRequestReceive .. | .grantReceive ..
  | .grantRefusalReceive .. | .grantRetry .. | .completionNoticeReceive .. | .moduleRead .. | .moduleWrite ..
  | .moduleReduce .. | .moduleFill .. | .moduleAtomic .. | .moduleCopy .. | .moduleHint .. | .moduleTableRead ..
  | .moduleTableWrite _ | .pageMoveComplete .. | .moduleThermalStep .. | .handoffTransfer _ | .successorStart _
  | .scrubWrite .. | .growRecheck .. | .allWaitingFailure _ | .taskqAnswer .. | .pendingRecordMove ..
  | .imposerBalance _ | .movedRecordArrive _ | .notifyWrite .. | .packetKernel _ | .packetWait _
  | .waitPacketPoll .. | .packetNoop _ | .packetReserveLanes _ | .packetReleaseLanes _ | .laneReservationPin _
  | .packetComplete .. | .teamPlace _ | .placementRetry _ | .bindingIssue _ | .queueMap .. | .priorityEviction _
  | .sliceEviction _ | .idleUnmap _ | .leaseExpire _ | .preemptDeadline _ | .contextSave _ | .saveComplete _
  | .xinvWrite .. | .shootdownComplete _ | .fresolveWrite .. | .fbgetWrite .. | .registerWrite ..
  | .mailboxRead .. | .mailboxWrite .. | .proofCoreRestart _ | .bootVerifyFirmware | .bootVerifyConfiguration
  | .firmwareVerifyDone | .configurationBringupDone _ | .featureLock | .attestGo | .attestReportDone
  | .mmgmtSend | .packageReset | .sockGo _ | .sockQuiesce _ | .sockReset _ | .engineInsert .. | .engineRemove _
  | .romVerifyDone _ | .drainComplete _ | .drainTimeout _ | .laneFail .. | .spareLock .. | .laneRetry ..
  | .retrain .. | .ageingUpdate .. | .laserRetire .. | .cadenceTickSend | .cadenceTickReceive .. | .levelApply
  | .demandReceive .. | .cadenceLost | .thermalEmergency | .powerSample _ | .rowSelfTestDone ..
  | .throttleDemandReceive .. => true
  | _ => false

end Sys2Proof
end

