-- ==== Sys2Proof/Decode.lean ====
section
/-! DEFINITION. The decoder from syllables to instructions (05_encoding R117, R121-R133 and the field tables of
each entry), and after it the encoder. `Raw` holds the fields of one instruction as numbers; `Lim` gives,
for one entry, the number of values each field may take: a field the entry does not use must be zero. -/

namespace Sys2Proof

/-- The three shapes of an instruction: one, two or three syllables (R121). -/
inductive Form | short | long | lit
  deriving DecidableEq, Repr

/-- The fields of one instruction (R122-R124). -/
structure Raw where
  form : Form := .short
  op : Nat := 0
  la : Nat := 0
  g : Nat := 0
  e : Nat := 0
  d : Nat := 0
  f : Nat := 0
  sat : Nat := 0
  rm : Nat := 0
  t : Nat := 0
  m : Nat := 0
  b : Nat := 0
  a : Nat := 0
  lit : Nat := 0
  deriving DecidableEq, Repr

/-- Why an instruction position holds no instruction (R133 steps 3 to 8). -/
inductive DecErr
  /-- A filler where an instruction should begin (R121). -/
  | filler
  /-- The length carries the instruction beyond the syllables at hand (R121). -/
  | beyond
  /-- Unassigned or reserved opcode (step 4). -/
  | opcode
  /-- A length the opcode does not allow (step 5). -/
  | form
  /-- A field, selector, type, mode, scope or literal outside its set (steps 7 and 8). -/
  | field
  deriving DecidableEq, Repr

/-- Number of values each field may take in an entry; 1 means the field must be zero. -/
structure Lim where
  la : Nat := 1
  g : Nat := 1
  e : Nat := 1
  d : Nat := 1
  f : Nat := 1
  sat : Nat := 1
  rm : Nat := 1
  t : Nat := 1
  m : Nat := 1
  b : Nat := 1
  a : Nat := 1

/-- Every field is below its limit. -/
def Raw.within (r : Raw) (l : Lim) : Bool :=
  r.la < l.la && r.g < l.g && r.e < l.e && r.d < l.d && r.f < l.f && r.sat < l.sat && r.rm < l.rm
    && r.t < l.t && r.m < l.m && r.b < l.b && r.a < l.a

/-- An entry whose fields fit gives its instruction, if that is well formed. -/
def Raw.entry (r : Raw) (l : Lim) (i : Instr) : Except DecErr Instr :=
  if r.within l && i.wf then .ok i else .error .field

/-- The fields of a one-syllable instruction (R122, R123). -/
def unpackShort (x : Nat) : Raw :=
  { form := .short, op := fld x 2 8, la := fld x 10 4, g := fld x 14 4, d := fld x 18 8, e := fld x 26 6 }

/-- The fields of a two-syllable instruction (R124). -/
def unpackLong (x y : Nat) : Raw :=
  { form := .long, op := fld x 2 8, la := fld x 10 4, g := fld x 14 4, t := fld x 18 6, rm := fld x 24 2,
    sat := fld x 26 1, f := fld x 27 5, d := fld y 0 8, a := fld y 8 8, b := fld y 16 8, m := fld y 24 8 }

/-- The fields of a three-syllable instruction (R124). -/
def unpackLit (x y z : Nat) : Raw :=
  { unpackLong x y with form := .lit, lit := z }

/-! ### Codes of R125 and of the entries -/

/-- Integer type of a T code. -/
def ityOf : Nat → Option ITy
  | 1 => some .i8 | 2 => some .i16 | 3 => some .i32 | 4 => some .i64
  | 5 => some .n8 | 6 => some .n16 | 7 => some .n32 | 8 => some .n64
  | _ => none

/-- Float format of a T code. -/
def ftyOf : Nat → Option FTy
  | 9 => some .f32 | 10 => some .f16 | 11 => some .bf16 | 12 => some .e5m2 | 13 => some .e4m3
  | 14 => some .e3m2 | 15 => some .e2m3 | 16 => some .e2m1
  | _ => none

/-- Type of a T code other than none. -/
def tyOf (x : Nat) : Option Ty :=
  match ityOf x with
  | some t => some (.int t)
  | none => (ftyOf x).map .flt

/-- Rounding mode of an RM field. -/
def rmOf : Nat → RMode
  | 0 => .rn | 1 => .rz | 2 => .ru | _ => .rd

/-- Scope of a scope code 0-6. -/
def scopeOf : Nat → Scope
  | 0 => .grp | 1 => .team | 2 => .pair | 3 => .clu | 4 => .pkg | 5 => .dom | _ => .sys

/-- Scope of a short scope code (08 R192). -/
def ascopeOf : Nat → AScope
  | 0 => .team | 1 => .clu | 2 => .pkg | _ => .sys

/-- Order of an RM field (08 R192). -/
def aordOf : Nat → AOrd
  | 0 => .none | 1 => .acq | 2 => .rel | _ => .acqrel

/-- Integer condition of F (06 R145). -/
def icondOf : Nat → ICond
  | 0 => .eq | 1 => .ne | 2 => .lt | 3 => .le | 4 => .gt | _ => .ge

/-- Float condition of F (06 R158). -/
def fcondOf : Nat → FCond
  | 0 => .eq | 1 => .ne | 2 => .lt | 3 => .le | 4 => .gt | 5 => .ge | 6 => .un | _ => .ord

/-- Condition of BRS (07 R170). -/
def scondOf : Nat → SCond
  | 0 => .z | 1 => .nz | 2 => .lt | _ => .ge

/-- Condition of BRM (07 R170). -/
def mcondOf : Nat → MCond
  | 0 => .any | 1 => .all | _ => .none

/-- Mode of VSHFL (07 R166). -/
def shflOf : Nat → ShflMode
  | 0 => .idx | 1 => .xor | 2 => .up | _ => .down

/-- Operator of VRED and VSCAN (07 R167). -/
def redOf : Nat → Option RedOp
  | 0 => some .add | 1 => some .min | 2 => some .max | 3 => some .and | 4 => some .or | 5 => some .xor
  | 6 => some .fadd | 7 => some .fmin | 8 => some .fmax | _ => none

/-- Operation of an atomic (08 R192). -/
def atopOf : Nat → Option AtOp
  | 0 => some .add | 1 => some .sub | 2 => some .min | 3 => some .max | 4 => some .and | 5 => some .or
  | 6 => some .xor | 7 => some .exch | 8 => some .cas | 9 => some .fadd | _ => none

/-- Operation of TREDUCE (08 R198). -/
def farRedOf : Nat → FarRed
  | 0 => .add | 1 => .min | _ => .max

/-- Access width (08 R182). -/
def widthOf : Nat → Width
  | 0 => .b | 1 => .h | 2 => .w | _ => .d

/-- Signedness of an integer MMA (09 R210). -/
def signOf : Nat → MmaSign
  | 0 => .ss | 1 => .us | 2 => .su | _ => .uu

/-- Kind of a FENCE (08 R196). -/
def fenceOf : Nat → Option FenceKind
  | 1 => some .acq | 2 => some .rel | 3 => some .acqrel | _ => none

/-- Special register number (07 R179). -/
def spOf : Nat → Option SpReg
  | 0x00 => some .clock | 0x01 => some .lane | 0x02 => some .group | 0x03 => some .team | 0x04 => some .core
  | 0x05 => some .cluster | 0x06 => some .fstat | 0x07 => some .kdata | 0x08 => some .ngroups
  | 0x09 => some .width | 0x0A => some .vregs | 0x0B => some .kargs | 0x40 => some .dsel | 0x41 => some .ddata
  | _ => none

/-- Proof-core register number other than TQNEXT and FEVNEXT (14 R291, 17 R362). -/
def csrOf : Nat → Option Csr
  | 0x00 => some .pcid | 0x02 => some .treca | 0x03 => some .trecb | 0x04 => some .trecc | 0x05 => some .trecd
  | 0x06 => some .tqcount | 0x07 => some .orphovf | 0x08 => some .dbgstat | 0x09 => some .predl
  | 0x11 => some .feva | 0x12 => some .fevb | 0x13 => some .fevcount | 0x14 => some .fevovf
  | 0x15 => some .preach0 | 0x16 => some .preach1 | 0x17 => some .fepid
  | _ => none

/-- Target of a control-transfer literal (R130). -/
def targetOf (x : Nat) : Target := { line := .ofNat 28 (x / 16), syl := .ofNat 4 x }

/-! ### Fields as operands -/

/-- A scalar register field. -/
def Raw.sD (r : Raw) : SReg := .ofNat 7 r.d
/-- Scalar field A. -/
def Raw.sA (r : Raw) : SReg := .ofNat 7 r.a
/-- Scalar field B. -/
def Raw.sB (r : Raw) : SReg := .ofNat 7 r.b
/-- Scalar field C, which is the M byte (R124). -/
def Raw.sC (r : Raw) : SReg := .ofNat 7 r.m
/-- Vector field D. -/
def Raw.vD (r : Raw) : VReg := .ofNat 8 r.d
/-- Vector field A. -/
def Raw.vA (r : Raw) : VReg := .ofNat 8 r.a
/-- Vector field B. -/
def Raw.vB (r : Raw) : VReg := .ofNat 8 r.b
/-- Vector field C. -/
def Raw.vC (r : Raw) : VReg := .ofNat 8 r.m
/-- Mask field D. -/
def Raw.mD (r : Raw) : MReg := .ofNat 4 r.d
/-- Mask field A. -/
def Raw.mA (r : Raw) : MReg := .ofNat 4 r.a
/-- Mask field B. -/
def Raw.mB (r : Raw) : MReg := .ofNat 4 r.b
/-- Mask named by M: the member mask, or field C. -/
def Raw.mK (r : Raw) : MReg := .ofNat 4 r.m
/-- Guard. -/
def Raw.gd (r : Raw) : MReg := .ofNat 4 r.g
/-- Lookahead count. -/
def Raw.lk (r : Raw) : BitVec 4 := .ofNat 4 r.la
/-- Field E. -/
def Raw.eE (r : Raw) : EReg := .ofNat 6 r.e
/-- Literal. -/
def Raw.li (r : Raw) : Word := .ofNat 32 r.lit
/-- Byte field M. -/
def Raw.mM (r : Raw) : Byte := .ofNat 8 r.m
/-- Rounding mode. -/
def Raw.rd (r : Raw) : RMode := rmOf r.rm

/-- An entry with an integer type. -/
def Raw.withI (r : Raw) (k : ITy → Except DecErr Instr) : Except DecErr Instr :=
  match ityOf r.t with
  | some t => k t
  | none => .error .field

/-- An entry with a float type. -/
def Raw.withF (r : Raw) (k : FTy → Except DecErr Instr) : Except DecErr Instr :=
  match ftyOf r.t with
  | some t => k t
  | none => .error .field

/-- An entry with any type but none. -/
def Raw.withT (r : Raw) (k : Ty → Except DecErr Instr) : Except DecErr Instr :=
  match tyOf r.t with
  | some t => k t
  | none => .error .field

/-- An entry whose selector must name a value. -/
def withSome {α : Type} (o : Option α) (k : α → Except DecErr Instr) : Except DecErr Instr :=
  match o with
  | some x => k x
  | none => .error .field

/-! ### Moulds shared by many opcodes: long and literal form of one operation -/

/-- Fields of a scalar binary operation in the long form. -/
def limS : Lim := { t := 64, d := 128, a := 128, b := 128 }
/-- ... in the literal form. -/
def limSK : Lim := { t := 64, d := 128, a := 128 }
/-- Fields of a vector binary operation in the long form. -/
def limV : Lim := { g := 16, t := 64, d := 256, a := 256, b := 256 }
/-- ... in the literal form. -/
def limVK : Lim := { g := 16, t := 64, d := 256, a := 256 }

/-- A scalar integer operation of 06 R143. -/
def decS (r : Raw) (l : ITy → SReg → SReg → SReg → Instr) (k : ITy → SReg → SReg → Word → Instr) :
    Except DecErr Instr :=
  match r.form with
  | .short => .error .form
  | .long => r.withI fun t => r.entry limS (l t r.sD r.sA r.sB)
  | .lit => r.withI fun t => r.entry limSK (k t r.sD r.sA r.li)

/-- A vector integer operation of 06 R143 or R152. -/
def decV (r : Raw) (l : MReg → ITy → VReg → VReg → VReg → Instr) (k : MReg → ITy → VReg → VReg → Word → Instr) :
    Except DecErr Instr :=
  match r.form with
  | .short => .error .form
  | .long => r.withI fun t => r.entry limV (l r.gd t r.vD r.vA r.vB)
  | .lit => r.withI fun t => r.entry limVK (k r.gd t r.vD r.vA r.li)

/-- VFADD, VFSUB, VFMUL (06 R156). -/
def decFR (r : Raw) (l : MReg → FTy → RMode → VReg → VReg → VReg → Instr)
    (k : MReg → FTy → RMode → VReg → VReg → Word → Instr) : Except DecErr Instr :=
  match r.form with
  | .short => .error .form
  | .long => r.withF fun t => r.entry { limV with rm := 4 } (l r.gd t r.rd r.vD r.vA r.vB)
  | .lit => r.withF fun t => r.entry { limVK with rm := 4 } (k r.gd t r.rd r.vD r.vA r.li)

/-- VFMIN, VFMAX (06 R157). -/
def decFM (r : Raw) (l : MReg → FTy → VReg → VReg → VReg → Instr)
    (k : MReg → FTy → VReg → VReg → Word → Instr) : Except DecErr Instr :=
  match r.form with
  | .short => .error .form
  | .long => r.withF fun t => r.entry limV (l r.gd t r.vD r.vA r.vB)
  | .lit => r.withF fun t => r.entry limVK (k r.gd t r.vD r.vA r.li)

/-- SPOPC, SCLZ (06 R147): short over .n64, long with a type. -/
def decSU (r : Raw) (s : SReg → EReg → Instr) (l : ITy → SReg → SReg → Instr) : Except DecErr Instr :=
  match r.form with
  | .short => r.entry { d := 128, e := 64 } (s r.sD r.eE)
  | .long => r.withI fun t => r.entry limSK (l t r.sD r.sA)
  | .lit => .error .form

/-- VABS, VPOPC, VCLZ (06 R147, R153). -/
def decVU (r : Raw) (s : MReg → VReg → EReg → Instr) (l : MReg → ITy → VReg → VReg → Instr) :
    Except DecErr Instr :=
  match r.form with
  | .short => r.entry { g := 16, d := 256, e := 64 } (s r.gd r.vD r.eE)
  | .long => r.withI fun t => r.entry limVK (l r.gd t r.vD r.vA)
  | .lit => .error .form

/-- VFABS, VFNEG (06 R157). -/
def decFU (r : Raw) (s : MReg → VReg → EReg → Instr) (l : MReg → FTy → VReg → VReg → Instr) :
    Except DecErr Instr :=
  match r.form with
  | .short => r.entry { g := 16, d := 256, e := 64 } (s r.gd r.vD r.eE)
  | .long => r.withF fun t => r.entry limVK (l r.gd t r.vD r.vA)
  | .lit => .error .form

/-- VRCP, VRSQ, VSQRT (06 R159): a rounding mode in the long form. -/
def decLR (r : Raw) (s : MReg → BitVec 4 → VReg → EReg → Instr)
    (l : MReg → BitVec 4 → FTy → RMode → VReg → VReg → Instr) : Except DecErr Instr :=
  match r.form with
  | .short => r.entry { g := 16, la := 16, d := 256, e := 64 } (s r.gd r.lk r.vD r.eE)
  | .long => r.withF fun t => r.entry { limVK with la := 16, rm := 4 } (l r.gd r.lk t r.rd r.vD r.vA)
  | .lit => .error .form

/-- VEXP2 to VTANH (06 R159): .rn only. -/
def decLU (r : Raw) (s : MReg → BitVec 4 → VReg → EReg → Instr)
    (l : MReg → BitVec 4 → FTy → VReg → VReg → Instr) : Except DecErr Instr :=
  match r.form with
  | .short => r.entry { g := 16, la := 16, d := 256, e := 64 } (s r.gd r.lk r.vD r.eE)
  | .long => r.withF fun t => r.entry { limVK with la := 16 } (l r.gd r.lk t r.vD r.vA)
  | .lit => .error .form

/-- An opcode with the short form only. -/
def onlyShort (r : Raw) (x : Except DecErr Instr) : Except DecErr Instr :=
  match r.form with
  | .short => x
  | _ => .error .form

/-- An opcode with the two-syllable form only. -/
def onlyLong (r : Raw) (x : Except DecErr Instr) : Except DecErr Instr :=
  match r.form with
  | .long => x
  | _ => .error .form

/-- An opcode with the literal form only. -/
def onlyLit (r : Raw) (x : Except DecErr Instr) : Except DecErr Instr :=
  match r.form with
  | .lit => x
  | _ => .error .form

/-- An opcode with the long and the literal form. -/
def longOrLit (r : Raw) (l k : Except DecErr Instr) : Except DecErr Instr :=
  match r.form with
  | .short => .error .form
  | .long => l
  | .lit => k

/-! ### The opcode map (R131), sixteen opcodes at a time -/

/-- Control (07 R169). -/
def dec0 (r : Raw) : Nat → Except DecErr Instr
  | 0x0 => onlyShort r <| r.entry {} .nop
  | 0x1 => onlyLit r <| r.entry {} (.bra (targetOf r.lit))
  | 0x2 => onlyLit r <| r.entry { f := 4, a := 128 } (.brs (scondOf r.f) r.sA (targetOf r.lit))
  | 0x3 => onlyLit r <| r.entry { f := 3, a := 16 } (.brm (mcondOf r.f) r.mA (targetOf r.lit))
  | 0x4 => onlyLong r <| r.entry { a := 128 } (.jmp r.sA)
  | 0x5 => longOrLit r (r.entry { d := 128, a := 128 } (.callLong r.sD r.sA))
      (r.entry { d := 128 } (.callLiteral r.sD (targetOf r.lit)))
  | 0x6 => onlyShort r <| r.entry { e := 64 } (.ret r.eE)
  | 0x7 => onlyLit r <| r.entry { g := 16, d := 8 } (.enrol r.gd (.ofNat 3 r.d) (targetOf r.lit))
  | 0x8 => onlyShort r <| r.entry { g := 16, d := 8 } (.park r.gd (.ofNat 3 r.d))
  | 0x9 => onlyShort r <| r.entry { g := 16, d := 8 } (.strike r.gd (.ofNat 3 r.d))
  | 0xA => onlyShort r <| r.entry { d := 256 } (.safept (.ofNat 8 r.d))
  | 0xB => onlyShort r <| r.entry {} .yield
  | 0xC => onlyShort r <| r.entry {} .exit
  | _ => .error .opcode

/-- Scalar integer (06 R142-R144). -/
def dec2 (r : Raw) : Nat → Except DecErr Instr
  | 0x0 =>
    match r.form with
    | .short => r.entry { d := 128, e := 64 } (.smovShort r.sD r.eE)
    | .long =>
      if r.t = 0 then r.entry limSK (.smovLong none r.sD r.sA)
      else r.withI fun t => r.entry limSK (.smovLong (some t) r.sD r.sA)
    | .lit => .error .form
  | 0x1 => onlyLit r <| r.withI fun t => r.entry { t := 64, d := 128 } (.sli t r.sD r.li)
  | 0x2 => decS r .saddLong .saddLiteral
  | 0x3 => decS r .ssubLong .ssubLiteral
  | 0x4 => decS r .smulLong .smulLiteral
  | 0x5 => decS r .smulhLong .smulhLiteral
  | 0x6 => longOrLit r
      (r.withI fun t => r.entry { limS with la := 16 } (.sdivLong r.lk t r.sD r.sA r.sB))
      (r.withI fun t => r.entry { limSK with la := 16 } (.sdivLiteral r.lk t r.sD r.sA r.li))
  | 0x7 => longOrLit r
      (r.withI fun t => r.entry { limS with la := 16 } (.sremLong r.lk t r.sD r.sA r.sB))
      (r.withI fun t => r.entry { limSK with la := 16 } (.sremLiteral r.lk t r.sD r.sA r.li))
  | 0x8 => decS r .sandLong .sandLiteral
  | 0x9 => decS r .sorLong .sorLiteral
  | 0xA => decS r .sxorLong .sxorLiteral
  | 0xB => decS r .sshlLong .sshlLiteral
  | 0xC => decS r .sshrLong .sshrLiteral
  | 0xD => decS r .ssarLong .ssarLiteral
  | 0xE => decS r .sminLong .sminLiteral
  | 0xF => decS r .smaxLong .smaxLiteral
  | _ => .error .opcode

/-- Position of the field of an SBFX literal (06 R148). -/
def fieldPos (x : Nat) : BitVec 6 := .ofNat 6 x
/-- Length of the field of an SBFX literal. -/
def fieldLen (x : Nat) : BitVec 7 := .ofNat 7 (x / 256)
/-- The bits of an SBFX literal that must be zero are. -/
def fieldLitOk (x : Nat) : Bool := x / 2 ^ 15 == 0 && fld x 6 2 == 0

/-- An entry whose literal must satisfy a condition. -/
def litOk (c : Bool) (x : Except DecErr Instr) : Except DecErr Instr := if c then x else .error .field

/-- Scalar integer, second part (06 R145-R149). -/
def dec3 (r : Raw) : Nat → Except DecErr Instr
  | 0x0 => longOrLit r
      (r.withI fun t => r.entry { limS with f := 6 } (.scmpLong (icondOf r.f) t r.sD r.sA r.sB))
      (r.withI fun t => r.entry { limSK with f := 6 } (.scmpLiteral (icondOf r.f) t r.sD r.sA r.li))
  | 0x1 => onlyLong r <| r.entry { d := 128, a := 128, b := 128, m := 128 } (.ssel r.sD r.sA r.sB r.sC)
  | 0x2 => decSU r .spopcShort .spopcLong
  | 0x3 => decSU r .sclzShort .sclzLong
  | 0x4 => onlyLit r <| litOk (fieldLitOk r.lit) <|
      r.withI fun t => r.entry limSK (.sbfx t r.sD r.sA (fieldPos r.lit) (fieldLen r.lit))
  | 0x5 => onlyLit r <| litOk (fieldLitOk r.lit) <|
      r.withI fun t => r.entry limSK (.sbfi t r.sD r.sA (fieldPos r.lit) (fieldLen r.lit))
  | 0x6 => onlyLong r <| r.withI fun t =>
      r.entry { limS with f := 8, m := 128 } (.saddr t r.sD r.sA r.sB r.sC (.ofNat 3 r.f))
  | _ => .error .opcode

/-- Vector integer (06 R143, R150-R152). -/
def dec4 (r : Raw) : Nat → Except DecErr Instr
  | 0x0 =>
    match r.form with
    | .short => r.entry { g := 16, d := 256, e := 64 } (.vmovShort r.gd r.vD r.eE)
    | .long =>
      if r.m = 0 then r.entry { g := 16, d := 256, a := 256 } (.vmovLong r.gd r.vD r.vA)
      else r.entry { g := 16, d := 256, a := 128, m := 2 } (.vmovBcast r.gd r.vD r.sA)
    | .lit => .error .form
  | 0x1 => onlyLit r <| r.withT fun t => r.entry { g := 16, t := 64, d := 256 } (.vli r.gd t r.vD r.li)
  | 0x2 => decV r .vaddLong .vaddLiteral
  | 0x3 => decV r .vsubLong .vsubLiteral
  | 0x4 => decV r .vmulLong .vmulLiteral
  | 0x5 => decV r .vmulhLong .vmulhLiteral
  | 0x6 => onlyLong r <| r.withI fun t => r.entry { limV with m := 256 } (.vmad r.gd t r.vD r.vA r.vB r.vC)
  | 0x7 => decV r .vaddsatLong .vaddsatLiteral
  | 0x8 => decV r .vsubsatLong .vsubsatLiteral
  | 0x9 => decV r .vandLong .vandLiteral
  | 0xA => decV r .vorLong .vorLiteral
  | 0xB => decV r .vxorLong .vxorLiteral
  | 0xC => decV r .vshlLong .vshlLiteral
  | 0xD => decV r .vshrLong .vshrLiteral
  | 0xE => decV r .vsarLong .vsarLiteral
  | 0xF => decV r .vminLong .vminLiteral
  | _ => .error .opcode

/-- Vector integer, second part (06 R143-R154). -/
def dec5 (r : Raw) : Nat → Except DecErr Instr
  | 0x0 => decV r .vmaxLong .vmaxLiteral
  | 0x1 => decVU r .vabsShort .vabsLong
  | 0x2 => longOrLit r
      (r.withI fun t => r.entry { limV with f := 6, d := 16 } (.vcmpLong r.gd (icondOf r.f) t r.mD r.vA r.vB))
      (r.withI fun t => r.entry { limVK with f := 6, d := 16 } (.vcmpLiteral r.gd (icondOf r.f) t r.mD r.vA r.li))
  | 0x3 => onlyLong r <|
      r.entry { g := 16, d := 256, a := 256, b := 256, m := 16 } (.vsel r.gd r.vD r.vA r.vB r.mK)
  | 0x4 => decVU r .vpopcShort .vpopcLong
  | 0x5 => decVU r .vclzShort .vclzLong
  | 0x6 => onlyLit r <| litOk (fieldLitOk r.lit) <|
      r.withI fun t => r.entry limVK (.vbfx r.gd t r.vD r.vA (fieldPos r.lit) (fieldLen r.lit))
  | 0x7 => onlyLong r <| r.withI fun t =>
      if t = .i8 ∨ t = .n8 then
        r.entry { limV with f := 2, sat := 2, m := 256 }
          (.vdot4 r.gd t.signed (r.f == 1) (r.sat == 1) r.vD r.vA r.vB r.vC)
      else .error .field
  | _ => .error .opcode

/-- Floating point (06 R156-R159). -/
def dec6 (r : Raw) : Nat → Except DecErr Instr
  | 0x0 => decFR r .vfaddLong .vfaddLiteral
  | 0x1 => decFR r .vfsubLong .vfsubLiteral
  | 0x2 => decFR r .vfmulLong .vfmulLiteral
  | 0x3 => onlyLong r <| r.withF fun t =>
      r.entry { limV with rm := 4, m := 256 } (.vfma r.gd t r.rd r.vD r.vA r.vB r.vC)
  | 0x4 => decFM r .vfminLong .vfminLiteral
  | 0x5 => decFM r .vfmaxLong .vfmaxLiteral
  | 0x6 => decFU r .vfabsShort .vfabsLong
  | 0x7 => decFU r .vfnegShort .vfnegLong
  | 0x8 => longOrLit r
      (r.withF fun t => r.entry { limV with f := 8, d := 16 } (.vfcmpLong r.gd (fcondOf r.f) t r.mD r.vA r.vB))
      (r.withF fun t => r.entry { limVK with f := 8, d := 16 } (.vfcmpLiteral r.gd (fcondOf r.f) t r.mD r.vA r.li))
  | 0x9 => decLR r .vrcpShort .vrcpLong
  | 0xA => decLR r .vrsqShort .vrsqLong
  | 0xB => decLR r .vsqrtShort .vsqrtLong
  | 0xC =>
    match r.form with
    | .short => r.entry { g := 16, la := 16, d := 256, e := 64 } (.vdivShort r.gd r.lk r.vD r.eE)
    | .long => r.withF fun t =>
        r.entry { limV with la := 16, rm := 4 } (.vdivLong r.gd r.lk t r.rd r.vD r.vA r.vB)
    | .lit => .error .form
  | 0xD => decLU r .vexp2Short .vexp2Long
  | 0xE => decLU r .vlog2Short .vlog2Long
  | 0xF => decLU r .vsinShort .vsinLong
  | _ => .error .opcode

/-- Floating point, second part (06 R159-R161). -/
def dec7 (r : Raw) : Nat → Except DecErr Instr
  | 0x0 => decLU r .vcosShort .vcosLong
  | 0x1 => decLU r .vtanhShort .vtanhLong
  | 0x2 => onlyLong r <| r.withT fun ts => withSome (tyOf r.m) fun td =>
      r.entry { limVK with rm := 4, sat := 2, m := 64 } (.vcvt r.gd td ts r.rd (r.sat == 1) r.vD r.vA)
  | 0x3 => onlyLong r <| r.withF fun t => r.entry { limVK with rm := 4 } (.vfrint r.gd t r.rd r.vD r.vA)
  | _ => .error .opcode

/-- Masks (07 R162). -/
def dec8 (r : Raw) : Nat → Except DecErr Instr
  | 0x0 => onlyLong r <| r.entry { d := 16, a := 16, b := 16 } (.mand r.mD r.mA r.mB)
  | 0x1 => onlyLong r <| r.entry { d := 16, a := 16, b := 16 } (.mor r.mD r.mA r.mB)
  | 0x2 => onlyLong r <| r.entry { d := 16, a := 16, b := 16 } (.mxor r.mD r.mA r.mB)
  | 0x3 => onlyLong r <| r.entry { d := 16, a := 16, b := 16 } (.mandn r.mD r.mA r.mB)
  | 0x4 => onlyShort r <| r.entry { d := 16, e := 16 } (.mnot r.mD (.ofNat 4 r.e))
  | 0x5 => onlyLong r <|
      if r.m = 0 then r.entry { d := 16, a := 128 } (.mmovToMask r.mD r.sA)
      else r.entry { d := 128, a := 16, m := 2 } (.mmovToScalar r.sD r.mA)
  | 0x6 => onlyLong r <| r.entry { d := 16, a := 256, m := 16 } (.mballot r.mD r.vA r.mK)
  | 0x7 => onlyLong r <| r.entry { d := 128, a := 16 } (.mpopc r.sD r.mA)
  | 0x8 => onlyLong r <| r.entry { d := 128, a := 16 } (.mfirst r.sD r.mA)
  | 0x9 => onlyLit r <| litOk (r.lit / 2 ^ 14 == 0 && fld r.lit 7 1 == 0) <|
      r.entry { d := 16 } (.mset r.mD (.ofNat 6 (r.lit / 256)) (.ofNat 7 r.lit))
  | _ => .error .opcode

/-- Fields of a cross-lane instruction (07 R165). -/
def limX : Lim := { g := 16, la := 16, d := 256, a := 256, m := 16 }

/-- Across lanes (07 R165). -/
def dec9 (r : Raw) : Nat → Except DecErr Instr
  | 0x0 => onlyLong r <|
      r.entry { limX with b := 256, f := 4 } (.vshfl r.gd r.lk (shflOf r.f) r.vD r.vA r.vB r.mK)
  | 0x1 => longOrLit r (r.entry { limX with b := 128 } (.vrotLong r.gd r.lk r.vD r.vA r.sB r.mK))
      (r.entry limX (.vrotLiteral r.gd r.lk r.vD r.vA r.li r.mK))
  | 0x2 => onlyLong r <| r.entry { limX with b := 128 } (.vbcast r.gd r.lk r.vD r.vA r.sB r.mK)
  | 0x3 => onlyLong r <| r.withT fun t => withSome (redOf r.f) fun op =>
      r.entry { limX with t := 64, f := 9 } (.vred r.gd r.lk op t r.vD r.vA r.mK)
  | 0x4 => onlyLong r <| r.withT fun t => withSome (redOf (r.f % 16)) fun op =>
      r.entry { limX with t := 64, f := 32 } (.vscan r.gd r.lk op (r.f / 16 == 1) t r.vD r.vA r.mK)
  | 0x5 => onlyLong r <| r.entry limX (.vcompact r.gd r.lk r.vD r.vA r.mK)
  | 0x6 => onlyLong r <| r.entry limX (.vexpand r.gd r.lk r.vD r.vA r.mK)
  | _ => .error .opcode

/-- Address mode of VLD: F[3:2] and vB (08 R182). -/
def vmodeOf (r : Raw) : Option VMode :=
  match r.f / 4 % 4 with
  | 0 => some .unit
  | 1 => some (.offset r.vB)
  | 2 => some .bcast
  | _ => none

/-- Address mode of VST (08 R182). -/
def vstModeOf (r : Raw) : Option (Option VReg) :=
  match r.f / 4 % 4 with
  | 0 => some none
  | 1 => some (some r.vB)
  | _ => none

/-- Field B holds an offset register in mode 1 only. -/
def modeB (r : Raw) : Nat := if r.f / 4 % 4 = 1 then 256 else 1

/-- LL and SU: width 2 or 3, a scope code only with an order (08 R189). -/
def llScope (r : Raw) (code : Nat) : Option (Option Scope) :=
  if r.rm = 0 then (if r.f / 4 = 0 then some none else none)
  else if r.rm = code ∧ r.f / 4 < 7 then some (some (scopeOf (r.f / 4)))
  else none

/-- Local access (08 R182, R189, R192). -/
def decA (r : Raw) : Nat → Except DecErr Instr
  | 0x0 => longOrLit r
      (withSome (vmodeOf r) fun md => r.entry { g := 16, la := 16, d := 256, a := 128, b := modeB r, m := 256, f := 32 }
        (.vldLong r.gd r.lk md (widthOf (r.f % 4)) (r.f / 16 == 1) r.vD r.sA r.mM))
      (withSome (vmodeOf r) fun md => r.entry { g := 16, la := 16, d := 256, a := 128, b := modeB r, f := 32 }
        (.vldLiteral r.gd r.lk md (widthOf (r.f % 4)) (r.f / 16 == 1) r.vD r.sA r.li))
  | 0x1 => longOrLit r
      (withSome (vstModeOf r) fun o => r.entry { g := 16, d := 256, a := 128, b := modeB r, m := 256, f := 16 }
        (.vstLong r.gd o (widthOf (r.f % 4)) r.vD r.sA r.mM))
      (withSome (vstModeOf r) fun o => r.entry { g := 16, d := 256, a := 128, b := modeB r, f := 16 }
        (.vstLiteral r.gd o (widthOf (r.f % 4)) r.vD r.sA r.li))
  | 0x2 => litOk (r.f / 4 % 4 == 0) <| longOrLit r
      (r.entry { la := 16, d := 128, a := 128, m := 256, f := 32 }
        (.sldLong r.lk (widthOf (r.f % 4)) (r.f / 16 == 1) r.sD r.sA r.mM))
      (r.entry { la := 16, d := 128, a := 128, f := 32 }
        (.sldLiteral r.lk (widthOf (r.f % 4)) (r.f / 16 == 1) r.sD r.sA r.li))
  | 0x3 => longOrLit r
      (r.entry { d := 128, a := 128, m := 256, f := 4 } (.sstLong (widthOf (r.f % 4)) r.sD r.sA r.mM))
      (r.entry { d := 128, a := 128, f := 4 } (.sstLiteral (widthOf (r.f % 4)) r.sD r.sA r.li))
  | 0x4 => onlyLong r <| litOk (2 ≤ r.f % 4) <| withSome (llScope r 1) fun o =>
      r.entry { la := 16, d := 128, a := 128, m := 256, f := 32, rm := 4 } (.ll r.lk (r.f % 4 == 3) o r.sD r.sA r.mM)
  | 0x5 => onlyLong r <| litOk (2 ≤ r.f % 4) <| withSome (llScope r 2) fun o =>
      r.entry { d := 128, a := 128, m := 256, f := 32, rm := 4 } (.su (r.f % 4 == 3) o r.sD r.sA r.mM)
  | 0x6 => onlyLong r <| r.withT fun t => withSome (atopOf (r.f % 16)) fun op =>
      r.entry { g := 16, la := 16, t := 64, f := 32, sat := 2, rm := 4, d := 256, a := 256, b := 256, m := 256 }
        (.vatom r.gd r.lk op (aordOf r.rm) (ascopeOf (r.f / 16 * 2 + r.sat)) t r.vD r.vA r.vB r.vC)
  | 0x7 => onlyLong r <| r.withT fun t => withSome (atopOf (r.f % 16)) fun op =>
      r.entry { la := 16, t := 64, f := 32, sat := 2, rm := 4, d := 128, a := 128, b := 128, m := 128 }
        (.satom r.lk op (aordOf r.rm) (ascopeOf (r.f / 16 * 2 + r.sat)) t r.sD r.sA r.sB r.sC)
  | _ => .error .opcode

/-- Arrival words, barriers and fences (08 R194-R196). -/
def decC (r : Raw) : Nat → Except DecErr Instr
  | 0x0 => longOrLit r (r.entry { a := 128, b := 128, m := 256 } (.arinitLong r.sA r.mM r.sB))
      (r.entry { a := 128, m := 256 } (.arinitLiteral r.sA r.mM r.li))
  | 0x1 => onlyLong r <|
      r.entry { f := 7, d := 128, a := 128, b := 128, m := 256 } (.arwait (scopeOf r.f) r.sD r.sA r.mM r.sB)
  | 0x2 => onlyLong r <|
      r.entry { f := 7, d := 128, a := 128, b := 128, m := 256 } (.artest (scopeOf r.f) r.sD r.sA r.mM r.sB)
  | 0x3 => longOrLit r (r.entry { f := 7, a := 128, b := 128, m := 256 } (.araddLong (scopeOf r.f) r.sA r.mM r.sB))
      (r.entry { f := 7, a := 128, m := 256 } (.araddLiteral (scopeOf r.f) r.sA r.mM r.li))
  | 0x4 => onlyShort r <| r.entry {} .tmbar
  | 0x5 => onlyShort r <| r.entry {} .clbar
  | 0x6 => onlyShort r <| withSome (fenceOf (r.d % 4)) fun k => r.entry { d := 28 } (.fence k (scopeOf (r.d / 4)))
  | _ => .error .opcode

/-- Fields of an engine command (08 R197). -/
def limE : Lim := { d := 128, a := 128, b := 128, m := 128 }

/-- Engine commands (08 R197-R203). -/
def decD (r : Raw) : Nat → Except DecErr Instr
  | 0x0 => onlyLong r <| r.entry limE (.tfetch r.sD r.sA r.sB r.sC)
  | 0x1 => onlyLong r <| r.entry { limE with f := 16 } (.tmcast (.ofNat 4 r.f) r.sD r.sA r.sB r.sC)
  | 0x2 => onlyLong r <| r.entry limE (.tgather r.sD r.sA r.sB r.sC)
  | 0x3 => onlyLong r <| r.entry limE (.tstore r.sD r.sA r.sB r.sC)
  | 0x4 => onlyLong r <| r.entry { limE with f := 3 } (.treduce (farRedOf r.f) r.sD r.sA r.sB r.sC)
  | 0x5 => onlyLong r <| r.entry limE (.tfill r.sD r.sA r.sB r.sC)
  | 0x6 => onlyLong r <| r.entry limE (.tcopy r.sD r.sA r.sB r.sC)
  | 0x7 => onlyLong r <| r.withT fun t => withSome (atopOf r.f) fun op =>
      r.entry { limE with f := 10, t := 64 } (.tatom op t r.sD r.sA r.sB r.sC)
  | 0x8 => onlyLong r <| r.entry limE (.bulkld r.sD r.sA r.sB r.sC)
  | 0x9 => onlyLong r <| r.entry limE (.bulkst r.sD r.sA r.sB r.sC)
  | 0xA => onlyLong r <| r.entry limE (.pagereq r.sD r.sA r.sB r.sC)
  | 0xB => onlyLong r <|
    match r.f with
    | 0 => r.entry { d := 128 } (.twinLim r.sD)
    | 1 => r.entry { d := 128, f := 2 } (.twinOut r.sD)
    | 2 => r.entry { d := 128, a := 128, f := 3 } (.twinSet r.sD r.sA)
    | _ => .error .field
  | 0xC => onlyLong r <| r.entry { a := 128, b := 128 } (.thint r.sA r.sB)
  | _ => .error .opcode

/-- Matrix, ligature, handoff and task instructions (09 R214, 10 R232, 11 R244). -/
def decE (r : Raw) : Nat → Except DecErr Instr
  | 0x0 => onlyLong r <|
      if r.f = 0 then r.entry { la := 16, d := 16, a := 128, m := 256 } (.forme r.lk r.mD r.sA r.mM)
      else r.entry { la := 16, d := 16, a := 128, f := 2 } (.formeR r.lk r.mD r.sA)
  | 0x1 => onlyLong r <| r.entry { f := 8, d := 48, a := 16, b := 16, m := 128 }
      (.mma (r.f % 2 == 1) (signOf (r.f / 2)) (.ofNat 6 r.d) r.mA r.mB r.sC)
  | 0x2 => onlyShort r <| r.entry { d := 48 } (.mzero (.ofNat 6 r.d))
  | 0x3 => onlyLong r <| r.entry { d := 48, a := 16, b := 128 } (.mldg (.ofNat 6 r.d) r.mA r.sB)
  | 0x4 => onlyLong r <| r.entry { d := 16, a := 48, b := 128 } (.mstg r.mD (.ofNat 6 r.a) r.sB)
  | 0x5 => onlyLong r <| r.entry { f := 2, rm := 4, d := 16, a := 48, m := 128 }
      (.mcvt (r.f == 1) r.rd r.mD (.ofNat 6 r.a) r.sC)
  | 0x6 => onlyLong r <|
      if r.t = 9 ∨ r.t = 3 then
        r.entry { rm := 4, t := 10, d := 48, a := 48, b := 48 }
          (.maddg (r.t == 3) r.rd (.ofNat 6 r.d) (.ofNat 6 r.a) (.ofNat 6 r.b))
      else .error .field
  | 0x7 => onlyShort r <| r.entry {} .mwait
  | 0x8 => onlyLong r <| r.entry { f := 4, a := 128, b := 128 } (.ligbind (.ofNat 2 r.f) r.sA r.sB)
  | 0x9 => onlyLong r <| r.entry { a := 128 } (.ligeval r.sA)
  | 0xA => onlyLong r <|
      if r.t = 9 ∨ r.t = 11 then r.entry { t := 12, a := 128, b := 128 } (.ligemit (r.t == 11) r.sA r.sB)
      else .error .field
  | 0xB => onlyShort r <|
    match r.e with
    | 0 => r.entry {} .ligwait
    | 1 => r.entry { e := 2 } .ligclr
    | _ => .error .field
  | 0xC => onlyLong r <| r.entry { f := 8, a := 128, m := 256 } (.handoff (.ofNat 3 r.f) r.sA r.mM)
  | 0xD => onlyLong r <|
    match r.f with
    | 0 => r.entry { d := 128, a := 128, b := 128 } (.taskq r.sD r.sA r.sB)
    | 1 => r.entry { d := 128, a := 128, b := 128, f := 2 } (.taskpush r.sD r.sA r.sB)
    | 2 => r.entry { d := 128, a := 128, f := 3 } (.taskdone r.sD r.sA)
    | _ => .error .field
  | 0xE => onlyLong r <| r.entry { d := 128, a := 128, b := 128 } (.launch r.sD r.sA r.sB)
  | 0xF => onlyLong r <|
    match r.f with
    | 0 => r.entry { d := 128, m := 256 } (.grow r.sD r.mM)
    | 1 => r.entry { m := 256, f := 2 } (.shrink r.mM)
    | _ => .error .field
  | _ => .error .opcode

/-- Traps, special registers and the privileged opcodes (07 R177-R178, 14 R291-R300, 16 R341). -/
def decF (r : Raw) : Nat → Except DecErr Instr
  | 0x0 => onlyShort r <| r.entry { d := 256 } (.trap (.ofNat 8 r.d))
  | 0x1 => onlyShort r <| r.entry { d := 256 } (.brk (.ofNat 8 r.d))
  | 0x2 => onlyLong r <| withSome (spOf r.m) fun x => r.entry { g := 16, d := 256, m := 256 } (.rdsr r.gd x (.ofNat 8 r.d))
  | 0x3 => onlyLong r <| withSome (spOf r.m) fun x => r.entry { a := 128, m := 256 } (.wrsr x r.sA)
  | 0x4 => onlyLong r <|
    match r.f with
    | 0 => r.entry { d := 128, a := 128 } (.dbgmap r.sD r.sA)
    | 1 => r.entry { d := 128, f := 2 } (.dbgmapU r.sD)
    | _ => .error .field
  | 0x5 => onlyLong r <|
      r.entry { la := 16, f := 4, d := 128, a := 128, m := 256 } (.dbgrd r.lk (widthOf r.f) r.sD r.sA r.mM)
  | 0x6 => onlyLong r <| r.entry { f := 4, d := 128, a := 128, m := 256 } (.dbgwr (widthOf r.f) r.sD r.sA r.mM)
  | 0x7 => onlyShort r <|
    match r.e with
    | 0 => r.entry {} .tret
    | 1 => r.entry { e := 2 } .tretExit
    | _ => .error .field
  | 0x8 => onlyLong r <|
    match r.f with
    | 0 => r.entry { d := 128, a := 128, b := 128 } (.preempt r.sD r.sA r.sB)
    | 1 => r.entry { d := 128, a := 128, f := 2 } (.preemptQ r.sD r.sA)
    | _ => .error .field
  | 0x9 => onlyLong r <|
    match r.f with
    | 0 => r.entry { d := 128, a := 128 } (.xlatinvPg r.sD r.sA)
    | 1 => r.entry { d := 128, a := 128, f := 2 } (.xlatinvAll r.sD r.sA)
    | 2 => r.entry { d := 128, a := 128, f := 3 } (.xlatinvUnreach r.sD r.sA)
    | 3 => r.entry { d := 128, a := 128, f := 4 } (.xlatinvReach r.sD r.sA)
    | _ => .error .field
  | 0xA => onlyLong r <|
    match r.m with
    | 0x01 => r.entry { d := 128, m := 2 } (.tqnextRead r.sD)
    | 0x10 => r.entry { d := 128, m := 0x11 } (.fevnextRead r.sD)
    | m => withSome (csrOf m) fun x => r.entry { d := 128, m := 256 } (.csrrd r.sD x)
  | 0xB => onlyLong r <| withSome (csrOf r.m) fun x => r.entry { a := 128, m := 256 } (.csrwr x r.sA)
  | _ => .error .opcode

/-- The opcode map. -/
def decodeRaw (r : Raw) : Except DecErr Instr :=
  match r.op / 16 with
  | 0x0 => dec0 r (r.op % 16)
  | 0x2 => dec2 r (r.op % 16)
  | 0x3 => dec3 r (r.op % 16)
  | 0x4 => dec4 r (r.op % 16)
  | 0x5 => dec5 r (r.op % 16)
  | 0x6 => dec6 r (r.op % 16)
  | 0x7 => dec7 r (r.op % 16)
  | 0x8 => dec8 r (r.op % 16)
  | 0x9 => dec9 r (r.op % 16)
  | 0xA => decA r (r.op % 16)
  | 0xC => decC r (r.op % 16)
  | 0xD => decD r (r.op % 16)
  | 0xE => decE r (r.op % 16)
  | 0xF => decF r (r.op % 16)
  | _ => .error .opcode

/-- Length in syllables that bits [1:0] of a first syllable give; 0 for a filler (R121). -/
def sylLen (x : Nat) : Nat := (x + 1) % 4

/-- The fields of the instruction that begins a list of syllables. -/
def unpack (ws : List Word) : Except DecErr Raw :=
  match ws with
  | [] => .error .beyond
  | w :: rest =>
    match w.toNat % 4, rest with
    | 0, _ => .ok (unpackShort w.toNat)
    | 1, x :: _ => .ok (unpackLong w.toNat x.toNat)
    | 2, x :: y :: _ => .ok (unpackLit w.toNat x.toNat y.toNat)
    | 3, _ => .error .filler
    | _, _ => .error .beyond

/-- The instruction that begins a list of syllables (R121-R133). -/
def decode (ws : List Word) : Except DecErr Instr :=
  match unpack ws with
  | .ok r => decodeRaw r
  | .error e => .error e

/-- Opcodes 0xF4-0xFB are privileged (R131). -/
def privilegedOp (w : Word) : Bool := 0xF4 ≤ fld w.toNat 2 8 && fld w.toNat 2 8 ≤ 0xFB

/-- The host's way of asking the decoder: `w` holds the instruction's bits, the first syllable lowest. -/
def decodeTableWord (nbits w : Nat) : Option Instr :=
  let x := w % 2 ^ nbits
  match decode [.ofNat 32 x, .ofNat 32 (x / 2 ^ 32), .ofNat 32 (x / 2 ^ 64)] with
  | .ok i => some i
  | .error _ => none

/-! ### The encoder -/

/-- T code of an integer type (R125). -/
def ITy.code : ITy → Nat
  | .i8 => 1 | .i16 => 2 | .i32 => 3 | .i64 => 4 | .n8 => 5 | .n16 => 6 | .n32 => 7 | .n64 => 8

/-- T code of a float format. -/
def FTy.code : FTy → Nat
  | .f32 => 9 | .f16 => 10 | .bf16 => 11 | .e5m2 => 12 | .e4m3 => 13 | .e3m2 => 14 | .e2m3 => 15 | .e2m1 => 16

/-- T code of a type. -/
def Ty.code : Ty → Nat
  | .int t => t.code
  | .flt f => f.code

/-- RM code. -/
def RMode.code : RMode → Nat
  | .rn => 0 | .rz => 1 | .ru => 2 | .rd => 3

/-- Scope code. -/
def Scope.code : Scope → Nat
  | .grp => 0 | .team => 1 | .pair => 2 | .clu => 3 | .pkg => 4 | .dom => 5 | .sys => 6

/-- Short scope code. -/
def AScope.code : AScope → Nat
  | .team => 0 | .clu => 1 | .pkg => 2 | .sys => 3

/-- Order code. -/
def AOrd.code : AOrd → Nat
  | .none => 0 | .acq => 1 | .rel => 2 | .acqrel => 3

/-- Integer condition code. -/
def ICond.code : ICond → Nat
  | .eq => 0 | .ne => 1 | .lt => 2 | .le => 3 | .gt => 4 | .ge => 5

/-- Float condition code. -/
def FCond.code : FCond → Nat
  | .eq => 0 | .ne => 1 | .lt => 2 | .le => 3 | .gt => 4 | .ge => 5 | .un => 6 | .ord => 7

/-- BRS condition code. -/
def SCond.code : SCond → Nat
  | .z => 0 | .nz => 1 | .lt => 2 | .ge => 3

/-- BRM condition code. -/
def MCond.code : MCond → Nat
  | .any => 0 | .all => 1 | .none => 2

/-- VSHFL mode code. -/
def ShflMode.code : ShflMode → Nat
  | .idx => 0 | .xor => 1 | .up => 2 | .down => 3

/-- Reduction operator code. -/
def RedOp.code : RedOp → Nat
  | .add => 0 | .min => 1 | .max => 2 | .and => 3 | .or => 4 | .xor => 5 | .fadd => 6 | .fmin => 7 | .fmax => 8

/-- Atomic operation code. -/
def AtOp.code : AtOp → Nat
  | .add => 0 | .sub => 1 | .min => 2 | .max => 3 | .and => 4 | .or => 5 | .xor => 6 | .exch => 7 | .cas => 8 | .fadd => 9

/-- TREDUCE operation code. -/
def FarRed.code : FarRed → Nat
  | .add => 0 | .min => 1 | .max => 2

/-- Width code. -/
def Width.code : Width → Nat
  | .b => 0 | .h => 1 | .w => 2 | .d => 3

/-- Signedness code. -/
def MmaSign.code : MmaSign → Nat
  | .ss => 0 | .us => 1 | .su => 2 | .uu => 3

/-- FENCE kind code. -/
def FenceKind.code : FenceKind → Nat
  | .acq => 1 | .rel => 2 | .acqrel => 3

/-- Special register number. -/
def SpReg.code : SpReg → Nat
  | .clock => 0x00 | .lane => 0x01 | .group => 0x02 | .team => 0x03 | .core => 0x04 | .cluster => 0x05
  | .fstat => 0x06 | .kdata => 0x07 | .ngroups => 0x08 | .width => 0x09 | .vregs => 0x0A | .kargs => 0x0B
  | .dsel => 0x40 | .ddata => 0x41

/-- Proof-core register number. -/
def Csr.code : Csr → Nat
  | .pcid => 0x00 | .treca => 0x02 | .trecb => 0x03 | .trecc => 0x04 | .trecd => 0x05 | .tqcount => 0x06
  | .orphovf => 0x07 | .dbgstat => 0x08 | .predl => 0x09 | .feva => 0x11 | .fevb => 0x12 | .fevcount => 0x13
  | .fevovf => 0x14 | .preach0 => 0x15 | .preach1 => 0x16 | .fepid => 0x17

/-- Literal of a target. -/
def Target.code (t : Target) : Nat := t.line.toNat * 16 + t.syl.toNat

/-- F bits [3:2] and field B of a VLD. -/
def VMode.code : VMode → Nat
  | .unit => 0 | .offset _ => 1 | .bcast => 2

/-- Field B of a VLD. -/
def VMode.fieldB : VMode → Nat
  | .offset b => b.toNat
  | _ => 0

/-- F bits [3:2] and field B of a VST. -/
def offCode : Option VReg → Nat × Nat
  | none => (0, 0)
  | some b => (1, b.toNat)

/-- RM and the scope part of F of LL (code 1) and SU (code 2). -/
def llCode (code : Nat) : Option Scope → Nat × Nat
  | none => (0, 0)
  | some sc => (code, sc.code)

/-- Long or triple form with D, A, B, M given as numbers. -/
def rawL (op d a b m : Nat) : Raw := { form := .long, op := op, d := d, a := a, b := b, m := m }
/-- Literal form. -/
def rawK (op d a : Nat) (lit : Nat) : Raw := { form := .lit, op := op, d := d, a := a, lit := lit }
/-- Short form. -/
def rawS (op d e : Nat) : Raw := { form := .short, op := op, d := d, e := e }

/-- The fields of an instruction, entry by entry; an event has none. -/
def Instr.raw : Instr → Raw
  | .nop => rawS 0x00 0 0
  | .bra t => rawK 0x01 0 0 t.code
  | .brs c a t => { rawK 0x02 0 a.toNat t.code with f := c.code }
  | .brm c a t => { rawK 0x03 0 a.toNat t.code with f := c.code }
  | .jmp a => rawL 0x04 0 a.toNat 0 0
  | .callLong d a => rawL 0x05 d.toNat a.toNat 0 0
  | .callLiteral d t => rawK 0x05 d.toNat 0 t.code
  | .ret e => rawS 0x06 0 e.toNat
  | .enrol g d t => { rawK 0x07 d.toNat 0 t.code with g := g.toNat }
  | .park g d => { rawS 0x08 d.toNat 0 with g := g.toNat }
  | .strike g d => { rawS 0x09 d.toNat 0 with g := g.toNat }
  | .safept i => rawS 0x0A i.toNat 0
  | .yield => rawS 0x0B 0 0
  | .exit => rawS 0x0C 0 0
  | .smovShort d e => rawS 0x20 d.toNat e.toNat
  | .smovLong none d a => rawL 0x20 d.toNat a.toNat 0 0
  | .smovLong (some t) d a => { rawL 0x20 d.toNat a.toNat 0 0 with t := t.code }
  | .sli t d lit => { rawK 0x21 d.toNat 0 lit.toNat with t := t.code }
  | .saddLong t d a b => { rawL 0x22 d.toNat a.toNat b.toNat 0 with t := t.code }
  | .saddLiteral t d a lit => { rawK 0x22 d.toNat a.toNat lit.toNat with t := t.code }
  | .ssubLong t d a b => { rawL 0x23 d.toNat a.toNat b.toNat 0 with t := t.code }
  | .ssubLiteral t d a lit => { rawK 0x23 d.toNat a.toNat lit.toNat with t := t.code }
  | .smulLong t d a b => { rawL 0x24 d.toNat a.toNat b.toNat 0 with t := t.code }
  | .smulLiteral t d a lit => { rawK 0x24 d.toNat a.toNat lit.toNat with t := t.code }
  | .smulhLong t d a b => { rawL 0x25 d.toNat a.toNat b.toNat 0 with t := t.code }
  | .smulhLiteral t d a lit => { rawK 0x25 d.toNat a.toNat lit.toNat with t := t.code }
  | .sdivLong la t d a b => { rawL 0x26 d.toNat a.toNat b.toNat 0 with t := t.code, la := la.toNat }
  | .sdivLiteral la t d a lit => { rawK 0x26 d.toNat a.toNat lit.toNat with t := t.code, la := la.toNat }
  | .sremLong la t d a b => { rawL 0x27 d.toNat a.toNat b.toNat 0 with t := t.code, la := la.toNat }
  | .sremLiteral la t d a lit => { rawK 0x27 d.toNat a.toNat lit.toNat with t := t.code, la := la.toNat }
  | .sandLong t d a b => { rawL 0x28 d.toNat a.toNat b.toNat 0 with t := t.code }
  | .sandLiteral t d a lit => { rawK 0x28 d.toNat a.toNat lit.toNat with t := t.code }
  | .sorLong t d a b => { rawL 0x29 d.toNat a.toNat b.toNat 0 with t := t.code }
  | .sorLiteral t d a lit => { rawK 0x29 d.toNat a.toNat lit.toNat with t := t.code }
  | .sxorLong t d a b => { rawL 0x2A d.toNat a.toNat b.toNat 0 with t := t.code }
  | .sxorLiteral t d a lit => { rawK 0x2A d.toNat a.toNat lit.toNat with t := t.code }
  | .sshlLong t d a b => { rawL 0x2B d.toNat a.toNat b.toNat 0 with t := t.code }
  | .sshlLiteral t d a lit => { rawK 0x2B d.toNat a.toNat lit.toNat with t := t.code }
  | .sshrLong t d a b => { rawL 0x2C d.toNat a.toNat b.toNat 0 with t := t.code }
  | .sshrLiteral t d a lit => { rawK 0x2C d.toNat a.toNat lit.toNat with t := t.code }
  | .ssarLong t d a b => { rawL 0x2D d.toNat a.toNat b.toNat 0 with t := t.code }
  | .ssarLiteral t d a lit => { rawK 0x2D d.toNat a.toNat lit.toNat with t := t.code }
  | .sminLong t d a b => { rawL 0x2E d.toNat a.toNat b.toNat 0 with t := t.code }
  | .sminLiteral t d a lit => { rawK 0x2E d.toNat a.toNat lit.toNat with t := t.code }
  | .smaxLong t d a b => { rawL 0x2F d.toNat a.toNat b.toNat 0 with t := t.code }
  | .smaxLiteral t d a lit => { rawK 0x2F d.toNat a.toNat lit.toNat with t := t.code }
  | .scmpLong c t d a b => { rawL 0x30 d.toNat a.toNat b.toNat 0 with t := t.code, f := c.code }
  | .scmpLiteral c t d a lit => { rawK 0x30 d.toNat a.toNat lit.toNat with t := t.code, f := c.code }
  | .ssel d a b c => rawL 0x31 d.toNat a.toNat b.toNat c.toNat
  | .spopcShort d e => rawS 0x32 d.toNat e.toNat
  | .spopcLong t d a => { rawL 0x32 d.toNat a.toNat 0 0 with t := t.code }
  | .sclzShort d e => rawS 0x33 d.toNat e.toNat
  | .sclzLong t d a => { rawL 0x33 d.toNat a.toNat 0 0 with t := t.code }
  | .sbfx t d a pos len => { rawK 0x34 d.toNat a.toNat (pos.toNat + 256 * len.toNat) with t := t.code }
  | .sbfi t d a pos len => { rawK 0x35 d.toNat a.toNat (pos.toNat + 256 * len.toNat) with t := t.code }
  | .saddr t d a b c k => { rawL 0x36 d.toNat a.toNat b.toNat c.toNat with t := t.code, f := k.toNat }
  | .vmovShort g d e => { rawS 0x40 d.toNat e.toNat with g := g.toNat }
  | .vmovLong g d a => { rawL 0x40 d.toNat a.toNat 0 0 with g := g.toNat }
  | .vmovBcast g d a => { rawL 0x40 d.toNat a.toNat 0 1 with g := g.toNat }
  | .vli g t d lit => { rawK 0x41 d.toNat 0 lit.toNat with g := g.toNat, t := t.code }
  | .vaddLong g t d a b => { rawL 0x42 d.toNat a.toNat b.toNat 0 with g := g.toNat, t := t.code }
  | .vaddLiteral g t d a lit => { rawK 0x42 d.toNat a.toNat lit.toNat with g := g.toNat, t := t.code }
  | .vsubLong g t d a b => { rawL 0x43 d.toNat a.toNat b.toNat 0 with g := g.toNat, t := t.code }
  | .vsubLiteral g t d a lit => { rawK 0x43 d.toNat a.toNat lit.toNat with g := g.toNat, t := t.code }
  | .vmulLong g t d a b => { rawL 0x44 d.toNat a.toNat b.toNat 0 with g := g.toNat, t := t.code }
  | .vmulLiteral g t d a lit => { rawK 0x44 d.toNat a.toNat lit.toNat with g := g.toNat, t := t.code }
  | .vmulhLong g t d a b => { rawL 0x45 d.toNat a.toNat b.toNat 0 with g := g.toNat, t := t.code }
  | .vmulhLiteral g t d a lit => { rawK 0x45 d.toNat a.toNat lit.toNat with g := g.toNat, t := t.code }
  | .vmad g t d a b c => { rawL 0x46 d.toNat a.toNat b.toNat c.toNat with g := g.toNat, t := t.code }
  | .vaddsatLong g t d a b => { rawL 0x47 d.toNat a.toNat b.toNat 0 with g := g.toNat, t := t.code }
  | .vaddsatLiteral g t d a lit => { rawK 0x47 d.toNat a.toNat lit.toNat with g := g.toNat, t := t.code }
  | .vsubsatLong g t d a b => { rawL 0x48 d.toNat a.toNat b.toNat 0 with g := g.toNat, t := t.code }
  | .vsubsatLiteral g t d a lit => { rawK 0x48 d.toNat a.toNat lit.toNat with g := g.toNat, t := t.code }
  | .vandLong g t d a b => { rawL 0x49 d.toNat a.toNat b.toNat 0 with g := g.toNat, t := t.code }
  | .vandLiteral g t d a lit => { rawK 0x49 d.toNat a.toNat lit.toNat with g := g.toNat, t := t.code }
  | .vorLong g t d a b => { rawL 0x4A d.toNat a.toNat b.toNat 0 with g := g.toNat, t := t.code }
  | .vorLiteral g t d a lit => { rawK 0x4A d.toNat a.toNat lit.toNat with g := g.toNat, t := t.code }
  | .vxorLong g t d a b => { rawL 0x4B d.toNat a.toNat b.toNat 0 with g := g.toNat, t := t.code }
  | .vxorLiteral g t d a lit => { rawK 0x4B d.toNat a.toNat lit.toNat with g := g.toNat, t := t.code }
  | .vshlLong g t d a b => { rawL 0x4C d.toNat a.toNat b.toNat 0 with g := g.toNat, t := t.code }
  | .vshlLiteral g t d a lit => { rawK 0x4C d.toNat a.toNat lit.toNat with g := g.toNat, t := t.code }
  | .vshrLong g t d a b => { rawL 0x4D d.toNat a.toNat b.toNat 0 with g := g.toNat, t := t.code }
  | .vshrLiteral g t d a lit => { rawK 0x4D d.toNat a.toNat lit.toNat with g := g.toNat, t := t.code }
  | .vsarLong g t d a b => { rawL 0x4E d.toNat a.toNat b.toNat 0 with g := g.toNat, t := t.code }
  | .vsarLiteral g t d a lit => { rawK 0x4E d.toNat a.toNat lit.toNat with g := g.toNat, t := t.code }
  | .vminLong g t d a b => { rawL 0x4F d.toNat a.toNat b.toNat 0 with g := g.toNat, t := t.code }
  | .vminLiteral g t d a lit => { rawK 0x4F d.toNat a.toNat lit.toNat with g := g.toNat, t := t.code }
  | .vmaxLong g t d a b => { rawL 0x50 d.toNat a.toNat b.toNat 0 with g := g.toNat, t := t.code }
  | .vmaxLiteral g t d a lit => { rawK 0x50 d.toNat a.toNat lit.toNat with g := g.toNat, t := t.code }
  | .vabsShort g d e => { rawS 0x51 d.toNat e.toNat with g := g.toNat }
  | .vabsLong g t d a => { rawL 0x51 d.toNat a.toNat 0 0 with g := g.toNat, t := t.code }
  | .vcmpLong g c t d a b => { rawL 0x52 d.toNat a.toNat b.toNat 0 with g := g.toNat, t := t.code, f := c.code }
  | .vcmpLiteral g c t d a lit => { rawK 0x52 d.toNat a.toNat lit.toNat with g := g.toNat, t := t.code, f := c.code }
  | .vsel g d a b c => { rawL 0x53 d.toNat a.toNat b.toNat c.toNat with g := g.toNat }
  | .vpopcShort g d e => { rawS 0x54 d.toNat e.toNat with g := g.toNat }
  | .vpopcLong g t d a => { rawL 0x54 d.toNat a.toNat 0 0 with g := g.toNat, t := t.code }
  | .vclzShort g d e => { rawS 0x55 d.toNat e.toNat with g := g.toNat }
  | .vclzLong g t d a => { rawL 0x55 d.toNat a.toNat 0 0 with g := g.toNat, t := t.code }
  | .vbfx g t d a pos len =>
    { rawK 0x56 d.toNat a.toNat (pos.toNat + 256 * len.toNat) with g := g.toNat, t := t.code }
  | .vdot4 g sgn mix sat d a b c =>
    { rawL 0x57 d.toNat a.toNat b.toNat c.toNat with
      g := g.toNat, t := if sgn then 1 else 5, f := mix.toNat, sat := sat.toNat }
  | .vfaddLong g t rm d a b => { rawL 0x60 d.toNat a.toNat b.toNat 0 with g := g.toNat, t := t.code, rm := rm.code }
  | .vfaddLiteral g t rm d a lit =>
    { rawK 0x60 d.toNat a.toNat lit.toNat with g := g.toNat, t := t.code, rm := rm.code }
  | .vfsubLong g t rm d a b => { rawL 0x61 d.toNat a.toNat b.toNat 0 with g := g.toNat, t := t.code, rm := rm.code }
  | .vfsubLiteral g t rm d a lit =>
    { rawK 0x61 d.toNat a.toNat lit.toNat with g := g.toNat, t := t.code, rm := rm.code }
  | .vfmulLong g t rm d a b => { rawL 0x62 d.toNat a.toNat b.toNat 0 with g := g.toNat, t := t.code, rm := rm.code }
  | .vfmulLiteral g t rm d a lit =>
    { rawK 0x62 d.toNat a.toNat lit.toNat with g := g.toNat, t := t.code, rm := rm.code }
  | .vfma g t rm d a b c => { rawL 0x63 d.toNat a.toNat b.toNat c.toNat with g := g.toNat, t := t.code, rm := rm.code }
  | .vfminLong g t d a b => { rawL 0x64 d.toNat a.toNat b.toNat 0 with g := g.toNat, t := t.code }
  | .vfminLiteral g t d a lit => { rawK 0x64 d.toNat a.toNat lit.toNat with g := g.toNat, t := t.code }
  | .vfmaxLong g t d a b => { rawL 0x65 d.toNat a.toNat b.toNat 0 with g := g.toNat, t := t.code }
  | .vfmaxLiteral g t d a lit => { rawK 0x65 d.toNat a.toNat lit.toNat with g := g.toNat, t := t.code }
  | .vfabsShort g d e => { rawS 0x66 d.toNat e.toNat with g := g.toNat }
  | .vfabsLong g t d a => { rawL 0x66 d.toNat a.toNat 0 0 with g := g.toNat, t := t.code }
  | .vfnegShort g d e => { rawS 0x67 d.toNat e.toNat with g := g.toNat }
  | .vfnegLong g t d a => { rawL 0x67 d.toNat a.toNat 0 0 with g := g.toNat, t := t.code }
  | .vfcmpLong g c t d a b => { rawL 0x68 d.toNat a.toNat b.toNat 0 with g := g.toNat, t := t.code, f := c.code }
  | .vfcmpLiteral g c t d a lit => { rawK 0x68 d.toNat a.toNat lit.toNat with g := g.toNat, t := t.code, f := c.code }
  | .vrcpShort g la d e => { rawS 0x69 d.toNat e.toNat with g := g.toNat, la := la.toNat }
  | .vrcpLong g la t rm d a =>
    { rawL 0x69 d.toNat a.toNat 0 0 with g := g.toNat, la := la.toNat, t := t.code, rm := rm.code }
  | .vrsqShort g la d e => { rawS 0x6A d.toNat e.toNat with g := g.toNat, la := la.toNat }
  | .vrsqLong g la t rm d a =>
    { rawL 0x6A d.toNat a.toNat 0 0 with g := g.toNat, la := la.toNat, t := t.code, rm := rm.code }
  | .vsqrtShort g la d e => { rawS 0x6B d.toNat e.toNat with g := g.toNat, la := la.toNat }
  | .vsqrtLong g la t rm d a =>
    { rawL 0x6B d.toNat a.toNat 0 0 with g := g.toNat, la := la.toNat, t := t.code, rm := rm.code }
  | .vdivShort g la d e => { rawS 0x6C d.toNat e.toNat with g := g.toNat, la := la.toNat }
  | .vdivLong g la t rm d a b =>
    { rawL 0x6C d.toNat a.toNat b.toNat 0 with g := g.toNat, la := la.toNat, t := t.code, rm := rm.code }
  | .vexp2Short g la d e => { rawS 0x6D d.toNat e.toNat with g := g.toNat, la := la.toNat }
  | .vexp2Long g la t d a => { rawL 0x6D d.toNat a.toNat 0 0 with g := g.toNat, la := la.toNat, t := t.code }
  | .vlog2Short g la d e => { rawS 0x6E d.toNat e.toNat with g := g.toNat, la := la.toNat }
  | .vlog2Long g la t d a => { rawL 0x6E d.toNat a.toNat 0 0 with g := g.toNat, la := la.toNat, t := t.code }
  | .vsinShort g la d e => { rawS 0x6F d.toNat e.toNat with g := g.toNat, la := la.toNat }
  | .vsinLong g la t d a => { rawL 0x6F d.toNat a.toNat 0 0 with g := g.toNat, la := la.toNat, t := t.code }
  | .vcosShort g la d e => { rawS 0x70 d.toNat e.toNat with g := g.toNat, la := la.toNat }
  | .vcosLong g la t d a => { rawL 0x70 d.toNat a.toNat 0 0 with g := g.toNat, la := la.toNat, t := t.code }
  | .vtanhShort g la d e => { rawS 0x71 d.toNat e.toNat with g := g.toNat, la := la.toNat }
  | .vtanhLong g la t d a => { rawL 0x71 d.toNat a.toNat 0 0 with g := g.toNat, la := la.toNat, t := t.code }
  | .vcvt g td ts rm sat d a =>
    { rawL 0x72 d.toNat a.toNat 0 td.code with g := g.toNat, t := ts.code, rm := rm.code, sat := sat.toNat }
  | .vfrint g t rm d a => { rawL 0x73 d.toNat a.toNat 0 0 with g := g.toNat, t := t.code, rm := rm.code }
  | .mand d a b => rawL 0x80 d.toNat a.toNat b.toNat 0
  | .mor d a b => rawL 0x81 d.toNat a.toNat b.toNat 0
  | .mxor d a b => rawL 0x82 d.toNat a.toNat b.toNat 0
  | .mandn d a b => rawL 0x83 d.toNat a.toNat b.toNat 0
  | .mnot d e => rawS 0x84 d.toNat e.toNat
  | .mmovToMask d a => rawL 0x85 d.toNat a.toNat 0 0
  | .mmovToScalar d a => rawL 0x85 d.toNat a.toNat 0 1
  | .mballot d a k => rawL 0x86 d.toNat a.toNat 0 k.toNat
  | .mpopc d a => rawL 0x87 d.toNat a.toNat 0 0
  | .mfirst d a => rawL 0x88 d.toNat a.toNat 0 0
  | .mset d first count => rawK 0x89 d.toNat 0 (first.toNat * 256 + count.toNat)
  | .vshfl g la md d a b k =>
    { rawL 0x90 d.toNat a.toNat b.toNat k.toNat with g := g.toNat, la := la.toNat, f := md.code }
  | .vrotLong g la d a b k => { rawL 0x91 d.toNat a.toNat b.toNat k.toNat with g := g.toNat, la := la.toNat }
  | .vrotLiteral g la d a lit k =>
    { rawK 0x91 d.toNat a.toNat lit.toNat with g := g.toNat, la := la.toNat, m := k.toNat }
  | .vbcast g la d a b k => { rawL 0x92 d.toNat a.toNat b.toNat k.toNat with g := g.toNat, la := la.toNat }
  | .vred g la op t d a k =>
    { rawL 0x93 d.toNat a.toNat 0 k.toNat with g := g.toNat, la := la.toNat, t := t.code, f := op.code }
  | .vscan g la op excl t d a k =>
    { rawL 0x94 d.toNat a.toNat 0 k.toNat with
      g := g.toNat, la := la.toNat, t := t.code, f := op.code + 16 * excl.toNat }
  | .vcompact g la d a k => { rawL 0x95 d.toNat a.toNat 0 k.toNat with g := g.toNat, la := la.toNat }
  | .vexpand g la d a k => { rawL 0x96 d.toNat a.toNat 0 k.toNat with g := g.toNat, la := la.toNat }
  | .vldLong g la md wd sx d a disp =>
    { rawL 0xA0 d.toNat a.toNat md.fieldB disp.toNat with
      g := g.toNat, la := la.toNat, f := 16 * sx.toNat + 4 * md.code + wd.code }
  | .vldLiteral g la md wd sx d a lit =>
    { rawK 0xA0 d.toNat a.toNat lit.toNat with
      g := g.toNat, la := la.toNat, f := 16 * sx.toNat + 4 * md.code + wd.code, b := md.fieldB }
  | .vstLong g o wd d a disp =>
    { rawL 0xA1 d.toNat a.toNat (offCode o).2 disp.toNat with g := g.toNat, f := 4 * (offCode o).1 + wd.code }
  | .vstLiteral g o wd d a lit =>
    { rawK 0xA1 d.toNat a.toNat lit.toNat with
      g := g.toNat, f := 4 * (offCode o).1 + wd.code, b := (offCode o).2 }
  | .sldLong la wd sx d a disp =>
    { rawL 0xA2 d.toNat a.toNat 0 disp.toNat with la := la.toNat, f := 16 * sx.toNat + wd.code }
  | .sldLiteral la wd sx d a lit =>
    { rawK 0xA2 d.toNat a.toNat lit.toNat with la := la.toNat, f := 16 * sx.toNat + wd.code }
  | .sstLong wd d a disp => { rawL 0xA3 d.toNat a.toNat 0 disp.toNat with f := wd.code }
  | .sstLiteral wd d a lit => { rawK 0xA3 d.toNat a.toNat lit.toNat with f := wd.code }
  | .ll la dbl acq d a disp =>
    { rawL 0xA4 d.toNat a.toNat 0 disp.toNat with
      la := la.toNat, rm := (llCode 1 acq).1, f := 4 * (llCode 1 acq).2 + 2 + dbl.toNat }
  | .su dbl rel d a disp =>
    { rawL 0xA5 d.toNat a.toNat 0 disp.toNat with
      rm := (llCode 2 rel).1, f := 4 * (llCode 2 rel).2 + 2 + dbl.toNat }
  | .vatom g la op ord sc t d a b c =>
    { rawL 0xA6 d.toNat a.toNat b.toNat c.toNat with
      g := g.toNat, la := la.toNat, t := t.code, rm := ord.code, f := op.code + 16 * (sc.code / 2), sat := sc.code % 2 }
  | .satom la op ord sc t d a b c =>
    { rawL 0xA7 d.toNat a.toNat b.toNat c.toNat with
      la := la.toNat, t := t.code, rm := ord.code, f := op.code + 16 * (sc.code / 2), sat := sc.code % 2 }
  | .arinitLong a off b => rawL 0xC0 0 a.toNat b.toNat off.toNat
  | .arinitLiteral a off lit => { rawK 0xC0 0 a.toNat lit.toNat with m := off.toNat }
  | .arwait sc d a off b => { rawL 0xC1 d.toNat a.toNat b.toNat off.toNat with f := sc.code }
  | .artest sc d a off b => { rawL 0xC2 d.toNat a.toNat b.toNat off.toNat with f := sc.code }
  | .araddLong sc a off b => { rawL 0xC3 0 a.toNat b.toNat off.toNat with f := sc.code }
  | .araddLiteral sc a off lit => { rawK 0xC3 0 a.toNat lit.toNat with f := sc.code, m := off.toNat }
  | .tmbar => rawS 0xC4 0 0
  | .clbar => rawS 0xC5 0 0
  | .fence k sc => rawS 0xC6 (k.code + 4 * sc.code) 0
  | .tfetch d a b c => rawL 0xD0 d.toNat a.toNat b.toNat c.toNat
  | .tmcast mask d a b c => { rawL 0xD1 d.toNat a.toNat b.toNat c.toNat with f := mask.toNat }
  | .tgather d a b c => rawL 0xD2 d.toNat a.toNat b.toNat c.toNat
  | .tstore d a b c => rawL 0xD3 d.toNat a.toNat b.toNat c.toNat
  | .treduce op d a b c => { rawL 0xD4 d.toNat a.toNat b.toNat c.toNat with f := op.code }
  | .tfill d a b c => rawL 0xD5 d.toNat a.toNat b.toNat c.toNat
  | .tcopy d a b c => rawL 0xD6 d.toNat a.toNat b.toNat c.toNat
  | .tatom op t d a b c => { rawL 0xD7 d.toNat a.toNat b.toNat c.toNat with f := op.code, t := t.code }
  | .bulkld d a b c => rawL 0xD8 d.toNat a.toNat b.toNat c.toNat
  | .bulkst d a b c => rawL 0xD9 d.toNat a.toNat b.toNat c.toNat
  | .pagereq d a b c => rawL 0xDA d.toNat a.toNat b.toNat c.toNat
  | .twinLim d => rawL 0xDB d.toNat 0 0 0
  | .twinOut d => { rawL 0xDB d.toNat 0 0 0 with f := 1 }
  | .twinSet d a => { rawL 0xDB d.toNat a.toNat 0 0 with f := 2 }
  | .thint a b => rawL 0xDC 0 a.toNat b.toNat 0
  | .forme la d a m => { rawL 0xE0 d.toNat a.toNat 0 m.toNat with la := la.toNat }
  | .formeR la d a => { rawL 0xE0 d.toNat a.toNat 0 0 with la := la.toNat, f := 1 }
  | .mma pair sg d a b c => { rawL 0xE1 d.toNat a.toNat b.toNat c.toNat with f := pair.toNat + 2 * sg.code }
  | .mzero d => rawS 0xE2 d.toNat 0
  | .mldg d a b => rawL 0xE3 d.toNat a.toNat b.toNat 0
  | .mstg d a b => rawL 0xE4 d.toNat a.toNat b.toNat 0
  | .mcvt relu rm d a c => { rawL 0xE5 d.toNat a.toNat 0 c.toNat with f := relu.toNat, rm := rm.code }
  | .maddg isInt rm d a b =>
    { rawL 0xE6 d.toNat a.toNat b.toNat 0 with t := if isInt then 3 else 9, rm := rm.code }
  | .mwait => rawS 0xE7 0 0
  | .ligbind c a b => { rawL 0xE8 0 a.toNat b.toNat 0 with f := c.toNat }
  | .ligeval a => rawL 0xE9 0 a.toNat 0 0
  | .ligemit bf a b => { rawL 0xEA 0 a.toNat b.toNat 0 with t := if bf then 11 else 9 }
  | .ligwait => rawS 0xEB 0 0
  | .ligclr => rawS 0xEB 0 1
  | .handoff idx a m => { rawL 0xEC 0 a.toNat 0 m.toNat with f := idx.toNat }
  | .taskq d a b => rawL 0xED d.toNat a.toNat b.toNat 0
  | .taskpush d a b => { rawL 0xED d.toNat a.toNat b.toNat 0 with f := 1 }
  | .taskdone d a => { rawL 0xED d.toNat a.toNat 0 0 with f := 2 }
  | .launch d a b => rawL 0xEE d.toNat a.toNat b.toNat 0
  | .grow d m => rawL 0xEF d.toNat 0 0 m.toNat
  | .shrink m => { rawL 0xEF 0 0 0 m.toNat with f := 1 }
  | .trap c => rawS 0xF0 c.toNat 0
  | .brk c => rawS 0xF1 c.toNat 0
  | .rdsr g r d => { rawL 0xF2 d.toNat 0 0 r.code with g := g.toNat }
  | .wrsr r a => rawL 0xF3 0 a.toNat 0 r.code
  | .dbgmap d a => rawL 0xF4 d.toNat a.toNat 0 0
  | .dbgmapU d => { rawL 0xF4 d.toNat 0 0 0 with f := 1 }
  | .dbgrd la wd d a m => { rawL 0xF5 d.toNat a.toNat 0 m.toNat with la := la.toNat, f := wd.code }
  | .dbgwr wd d a m => { rawL 0xF6 d.toNat a.toNat 0 m.toNat with f := wd.code }
  | .tret => rawS 0xF7 0 0
  | .tretExit => rawS 0xF7 0 1
  | .preempt d a b => rawL 0xF8 d.toNat a.toNat b.toNat 0
  | .preemptQ d a => { rawL 0xF8 d.toNat a.toNat 0 0 with f := 1 }
  | .xlatinvPg d a => rawL 0xF9 d.toNat a.toNat 0 0
  | .xlatinvAll d a => { rawL 0xF9 d.toNat a.toNat 0 0 with f := 1 }
  | .xlatinvUnreach d a => { rawL 0xF9 d.toNat a.toNat 0 0 with f := 2 }
  | .xlatinvReach d a => { rawL 0xF9 d.toNat a.toNat 0 0 with f := 3 }
  | .csrrd d r => rawL 0xFA d.toNat 0 0 r.code
  | .csrwr r a => rawL 0xFB 0 a.toNat 0 r.code
  | .tqnextRead d => rawL 0xFA d.toNat 0 0 0x01
  | .fevnextRead d => rawL 0xFA d.toNat 0 0 0x10
  | _ => {}

/-- First syllable of the long and literal forms. -/
def packHead (r : Raw) (len : Nat) : Nat :=
  len + 4 * r.op + 1024 * r.la + 16384 * r.g + 262144 * r.t + 16777216 * r.rm + 67108864 * r.sat + 134217728 * r.f

/-- Second syllable of the long and literal forms. -/
def packTail (r : Raw) : Nat := r.d + 256 * r.a + 65536 * r.b + 16777216 * r.m

/-- The syllables of a set of fields (R122-R124). -/
def pack (r : Raw) : List Word :=
  match r.form with
  | .short => [.ofNat 32 (4 * r.op + 1024 * r.la + 16384 * r.g + 262144 * r.d + 67108864 * r.e)]
  | .long => [.ofNat 32 (packHead r 1), .ofNat 32 (packTail r)]
  | .lit => [.ofNat 32 (packHead r 2), .ofNat 32 (packTail r), .ofNat 32 r.lit]

/-- The syllables of an instruction; an event has none. -/
def encode (i : Instr) : List Word := if i.isEvent then [] else pack i.raw

end Sys2Proof
end

