-- ==== Sys2Proof/Config.lean ====
section
/-! DEFINITION. What an implementation fixes and the spec leaves open: opaque constants that nothing in Lean
can evaluate, each named in a row of notes/assumptions. -/

namespace Sys2Proof.Config

/-- Free 64-bit values, numbered by the state's counter `fresh` (log 3). -/
opaque freeValue : Nat → DWord

/-- Free bytes, numbered by the state's counter `fresh` (log 3). -/
opaque freeByte : Nat → Nat → Byte

/-- The tag that a fetch engine gives a command (17 R352; log 32). -/
opaque engineTag : Nat → BitVec 9

/-- The detail byte of a request body for an operation and a type, whose bits the spec does not give (18 R380; log 32). -/
opaque reqDetail : Nat → Nat → Byte

/-- How far the press-clock counter of a die stands from die 0's (07 R179: the dies' counters are not
aligned to one another; log 9). -/
opaque dieClockOffset : Nat → DWord

/-- The state of the running lanes that BRM reads on a proof core, which has no lanes (14 R285; log 16). -/
opaque proofMask : Nat → DWord

/-- SHAKE256 with a 256-bit output over a byte string (18 R376-R378; log 10). -/
opaque shake256 : List Byte → List Byte

/-- SLH-DSA verification: key digest, message, signature (18 R376, R377; log 10). -/
opaque slhVerify : List Byte → List Byte → List Byte → Bool

/-- The signature of an attestation report: report, private key of the package (18 R378; log 10). -/
opaque attestSign : List Byte → List Byte

/-- Fields of an image header: 0 magic, 1 kind, 2 version, 3 body length, 4 digest of the body (18 R377 gives no
offsets; log 10). -/
opaque headerField : List Byte → Nat → Nat

/-- Key that a firmware image carries: 0 the vendor public key, 1 the vendor key for identity ROMs and configuration
images (18 R377; log 10). -/
opaque firmwareKey : List Byte → Nat → List Byte

/-- Byte of the proof-core firmware that a firmware image's body holds: a 64 KiB memory (14 R287, 18 R377; log 10). -/
opaque firmwareByte : List Byte → Nat → Byte

/-- Whether a firmware image lists a part number for a socket (17 R364; log 10). -/
opaque partListed : List Byte → Nat → List Byte → Bool

/-- SHAKE256 digest of the vendor public key in the boot ROM (18 R377; log 10). -/
opaque romDigest : List Byte

/-- Setting of a configuration image's body, by number (18 R379 gives no layout; log 10). -/
opaque setting : List Byte → Nat → Nat

/-- The package's public identity key, derived from the firmware image's table (18 R378; log 10). -/
opaque publicKey : List Byte → List Byte

/-- Bias baseline I0 in a lane position's 32 bytes of the identity ROM (17 R364 gives no offsets; log 10). -/
opaque laneBaseline : List Byte → Nat

/-- Byte of a save area whose layout the spec leaves to the device: area, offset (14 R305; log 11). -/
opaque saveByte : Nat → Nat → Byte

end Sys2Proof.Config
end

