-- ==== Sys2Proof/Machine/Flags.lean ====
section
/-! DEFINITION. Status flags, integer helpers and floating-point numbers (02_numbers R37-R47): the flag set of
an instruction, Val, Put, Wrap, Sat, exact values, Dec, Round, ExactSum, FMin and FMax. -/

namespace Sys2Proof

/-! ### Formats (R39) -/

/-- Width of the mantissa field. -/
def FTy.mbits : FTy → Nat
  | .f32 => 23 | .f16 => 10 | .bf16 => 7 | .e5m2 => 2 | .e4m3 => 3 | .e3m2 => 2 | .e2m3 => 3 | .e2m1 => 1

/-- Width of the exponent field. -/
def FTy.ebits : FTy → Nat
  | .f32 => 8 | .f16 => 5 | .bf16 => 8 | .e5m2 => 5 | .e4m3 => 4 | .e3m2 => 3 | .e2m3 => 2 | .e2m1 => 2

/-- Exponent bias. -/
def FTy.bias : FTy → Int
  | .f32 => 127 | .f16 => 15 | .bf16 => 127 | .e5m2 => 15 | .e4m3 => 7 | .e3m2 => 3 | .e2m3 => 1 | .e2m1 => 1

/-- Whether the format has infinity. -/
def FTy.hasInf : FTy → Bool
  | .f32 | .f16 | .bf16 | .e5m2 => true
  | _ => false

/-- Code of the greatest finite value. -/
def FTy.maxCode : FTy → Nat
  | .f32 => 0x7F7FFFFF | .f16 => 0x7BFF | .bf16 => 0x7F7F | .e5m2 => 0x7B | .e4m3 => 0x7E
  | .e3m2 => 0x1F | .e2m3 => 0x1F | .e2m1 => 0x7

/-- Canonical NaN (R42 step 1), if the format has one. -/
def FTy.nanCode : FTy → Option Nat
  | .f32 => some 0x7FC00000 | .f16 => some 0x7E00 | .bf16 => some 0x7FC0 | .e5m2 => some 0x7E
  | .e4m3 => some 0x7F | _ => none

/-- Sign bit of a code. -/
def FTy.signBit (f : FTy) (c : Nat) : Bool := c / 2 ^ (f.bits - 1) % 2 == 1

end Sys2Proof

namespace Sys2Proof.Machine

/-- A flag set: IS, NV, DZ, OF, UF, NX in bits 5 to 0, as in %fstat (R46). -/
abbrev Flags := BitVec 6

/-- No flag. -/
def fNone : Flags := 0
/-- Inexact. -/
def fNX : Flags := 1
/-- Underflow. -/
def fUF : Flags := 2
/-- Overflow. -/
def fOF : Flags := 4
/-- Division by zero. -/
def fDZ : Flags := 8
/-- Invalid operation. -/
def fNV : Flags := 16
/-- Integer saturation. -/
def fIS : Flags := 32

/-! ### Integers (R37, R38) -/

/-- SExt(x, n). -/
def sext (x n : Nat) : Int :=
  let y := x % 2 ^ n
  if y < 2 ^ (n - 1) then (y : Int) else (y : Int) - 2 ^ n

/-- The value of a container read at a type (R138 Val). -/
def valI (t : ITy) (x : Nat) : Int := if t.signed then sext x t.width else ((x % 2 ^ t.width : Nat) : Int)

/-- y mod 2^n as a natural number: the bits of WrapIn and WrapNn. -/
def wrapN (y : Int) (n : Nat) : Nat := (y % (2 ^ n : Int)).toNat

/-- The container bits that a result of a type leaves in a container of `c` bits (R37, R138 Put). -/
def putI (t : ITy) (c : Nat) (y : Int) : Nat :=
  let w := wrapN y t.width
  if t.signed then wrapN (sext w t.width) c else w

/-- Least value of a type. -/
def minI (t : ITy) : Int := if t.signed then -(2 ^ (t.width - 1) : Int) else 0
/-- Greatest value of a type. -/
def maxI (t : ITy) : Int := if t.signed then (2 ^ (t.width - 1) : Int) - 1 else (2 ^ t.width : Int) - 1

/-- SatIn or SatNn, with the flag it raises (R38). -/
def satI (t : ITy) (y : Int) : Int × Flags :=
  if y < minI t then (minI t, fIS) else if maxI t < y then (maxI t, fIS) else (y, fNone)

/-- Number of binary digits: 0 for 0, else floor(log2 x) + 1. -/
def bitLen (x : Nat) : Nat := if x = 0 then 0 else x.log2 + 1

/-- An exact value: NaN, a signed infinity, a signed zero, or the non-zero number `m * 2 ^ e`. With
`more`, the number lies strictly between `m * 2 ^ e` and `(m + 1) * 2 ^ e`, and `m` has more digits than
any format keeps: the form in which quotients and roots are handed to `roundF`. -/
inductive XVal
  | nan
  | inf (neg : Bool)
  | zero (neg : Bool)
  | fin (neg : Bool) (m : Nat) (e : Int) (more : Bool)
  deriving DecidableEq, Repr

/-- The value `± m * 2 ^ e`, zero included. -/
def XVal.mk (neg : Bool) (m : Nat) (e : Int) : XVal := if m = 0 then .zero neg else .fin neg m e false

/-- Negation. -/
def XVal.negate : XVal → XVal
  | .nan => .nan
  | .inf s => .inf (!s)
  | .zero s => .zero (!s)
  | .fin s m e k => .fin (!s) m e k

/-- Sign. -/
def XVal.isNeg : XVal → Bool
  | .nan => false
  | .inf s | .zero s | .fin s _ _ _ => s

/-- Dec(F, c) (R40). -/
def decF (f : FTy) (c : Nat) : XVal :=
  let s := f.signBit c
  let m := c % 2 ^ f.mbits
  let e := c / 2 ^ f.mbits % 2 ^ f.ebits
  let mag := c % 2 ^ (f.bits - 1)
  if f.hasInf && e == 2 ^ f.ebits - 1 then (if m = 0 then .inf s else .nan)
  else if f == .e4m3 && mag == 0x7F then .nan
  else if e = 0 then .mk s m (1 - f.bias - f.mbits)
  else .mk s (2 ^ f.mbits + m) (e - f.bias - f.mbits)

/-- Whether the upper of two neighbouring candidates is picked: `odd` is the lower one's last bit, `r` the
remainder out of `den`, `more` whether something lies below the remainder (R42 step 4). -/
def roundUpP (mode : RMode) (neg odd : Bool) (r den : Nat) (more : Bool) : Bool :=
  match mode with
  | .rn => decide (den < 2 * r) || (decide (2 * r = den) && (more || odd))
  | .rz => false
  | .ru => !neg
  | .rd => neg

/-- A code with its sign; in .e2m1 no result is −0.0 (R42 step 3). -/
def signed (f : FTy) (neg : Bool) (mag : Nat) : Nat :=
  if neg && !(f == .e2m1 && mag == 0) then 2 ^ (f.bits - 1) + mag else mag

/-- Result of an overflow (R42 step 5). -/
def overflowF (f : FTy) (mode : RMode) (sat neg : Bool) : Nat :=
  if sat || !f.hasInf || mode == .rz || (mode == .ru && neg) || (mode == .rd && !neg) then signed f neg f.maxCode
  else signed f neg (f.maxCode + 1)

/-- Round of the non-zero number `± m * 2 ^ e` (R42 steps 4 to 7). -/
def roundFin (f : FTy) (mode : RMode) (sat neg : Bool) (m : Nat) (e : Int) (more : Bool) : Nat × Flags :=
  let top : Int := m.log2 + e
  let tiny : Bool := top < 1 - f.bias
  let q : Int := (if tiny then 1 - f.bias else top) - f.mbits
  let den := 2 ^ (q - e).toNat
  let lo := if q ≤ e then m * 2 ^ (e - q).toNat else m / den
  let r := if q ≤ e then 0 else m % den
  let inexact := more || decide (r ≠ 0)
  let up := inexact && roundUpP mode neg (lo % 2 == 1) r den more
  let mag := ((q + f.bias + f.mbits - 1).toNat) * 2 ^ f.mbits + (if up then lo + 1 else lo)
  if f.maxCode < mag then (overflowF f mode sat neg, fOF ||| fNX)
  else (signed f neg mag, if inexact then (if tiny then fUF ||| fNX else fNX) else fNone)

/-- Round(x, F, mode, sat) with the flags it raises (R42). -/
def roundF (f : FTy) (mode : RMode) (sat : Bool) : XVal → Nat × Flags
  | .nan =>
    match f.nanCode with
    | some c => (c, fNone)
    | none => (0, fNV)
  | .inf s => if f.hasInf then (signed f s (f.maxCode + 1), fNone) else (signed f s f.maxCode, fOF ||| fNX)
  | .zero s => (signed f s 0, fNone)
  | .fin s m e more => roundFin f mode sat s m e more

/-! ### Exact arithmetic (R44) -/

/-- Exact product, with NV for 0 × ∞. -/
def mulX : XVal → XVal → XVal × Flags
  | .nan, _ | _, .nan => (.nan, fNone)
  | .inf a, .inf b | .inf a, .fin b _ _ _ | .fin a _ _ _, .inf b => (.inf (a != b), fNone)
  | .inf _, .zero _ | .zero _, .inf _ => (.nan, fNV)
  | .zero a, .zero b | .zero a, .fin b _ _ _ | .fin a _ _ _, .zero b => (.zero (a != b), fNone)
  | .fin a m e k, .fin b n g l => (.fin (a != b) (m * n) (e + g) (k || l), fNone)

/-- Lowest exponent among the finite terms. -/
def lowExp : List XVal → Int → Int
  | [], e => e
  | .fin _ _ e _ :: xs, d => lowExp xs (if e < d then e else d)
  | _ :: xs, d => lowExp xs d

/-- Sum of the finite terms in units of 2^e, for e no greater than their exponents. -/
def sumAt (e : Int) : List XVal → Int
  | [] => 0
  | .fin s m g _ :: xs => (if s then -1 else 1) * ((m * 2 ^ (g - e).toNat : Nat) : Int) + sumAt e xs
  | _ :: xs => sumAt e xs

/-- ExactSum (R44): `mode` decides the sign of an exact zero. -/
def sumX (mode : RMode) (xs : List XVal) : XVal × Flags :=
  if xs.any (· == .nan) then (.nan, fNone)
  else if xs.any (· == .inf false) && xs.any (· == .inf true) then (.nan, fNV)
  else if xs.any (· == .inf false) then (.inf false, fNone)
  else if xs.any (· == .inf true) then (.inf true, fNone)
  else
    let e := lowExp xs 0
    let v := sumAt e xs
    if v = 0 then (.zero (xs.all (· == .zero true) || mode == .rd), fNone)
    else (.fin (decide (v < 0)) v.natAbs e false, fNone)

/-- Order of two values neither of which is NaN: less than. −0.0 and +0.0 are equal. -/
def ltX (a b : XVal) : Bool :=
  match a, b with
  | .nan, _ | _, .nan => false
  | .inf s, .inf t => s && !t
  | .inf s, _ => s
  | _, .inf t => !t
  | a, b => decide ((sumAt (lowExp [a, b] 0) [a, b.negate]) < 0)

/-- FMin and FMax select the left operand (R45): `−0.0` is below `+0.0`. -/
def pickLeft (isMax : Bool) (a b : XVal) : Bool :=
  match a, b with
  | .zero s, .zero t => if isMax then !s || t else s || !t
  | a, b => if isMax then !ltX a b else !ltX b a

/-- FMin or FMax over codes of one format: the chosen operand's code, canonical NaN when both are NaN (R45, R157). -/
def fminmax (f : FTy) (isMax : Bool) (a b : Nat) : Nat :=
  match decF f a, decF f b with
  | .nan, .nan => f.nanCode.getD 0
  | .nan, _ => b
  | _, .nan => a
  | x, y => if pickLeft isMax x y then a else b

/-- Round the sum of two codes, .rn (RN32 of R42 when f is .f32). -/
def faddRN (f : FTy) (a b : Nat) : Nat × Flags :=
  let s := sumX .rn [decF f a, decF f b]
  let r := roundF f .rn false s.1
  (r.1, s.2 ||| r.2)

/-- Truncated magnitude, remainder and divisor of a finite value (for rounding to an integer). -/
def intParts (m : Nat) (e : Int) : Nat × Nat × Nat :=
  if 0 ≤ e then (m * 2 ^ e.toNat, 0, 1) else (m / 2 ^ (-e).toNat, m % 2 ^ (-e).toNat, 2 ^ (-e).toNat)

/-- The integer a mode selects for `± m * 2 ^ e`, as a magnitude, and whether it differs. -/
def toIntMag (mode : RMode) (neg : Bool) (m : Nat) (e : Int) : Nat × Bool :=
  let p := intParts m e
  let inexact := p.2.1 != 0
  (if inexact && roundUpP mode neg (p.1 % 2 == 1) p.2.1 p.2.2 false then p.1 + 1 else p.1, inexact)

/-- Conversion of a value to an integer type (R43). -/
def toInt (t : ITy) (mode : RMode) : XVal → Int × Flags
  | .nan => (0, fNV)
  | .inf s => (if s then minI t else maxI t, fNV)
  | .zero _ => (0, fNone)
  | .fin s m e _ =>
    let p := toIntMag mode s m e
    let y : Int := if s then -(p.1 : Int) else (p.1 : Int)
    if y < minI t then (minI t, fNV) else if maxI t < y then (maxI t, fNV)
    else (y, if p.2 then fNX else fNone)

/-- The exact value of an integer. -/
def ofIntX (y : Int) : XVal := .mk (decide (y < 0)) y.natAbs 0

end Sys2Proof.Machine
end

