-- ==== Sys2Proof/Machine/Elementary.lean ====
section
/-! DEFINITION. The exactly rounded functions of 06 R159 and the float operations of R156 to R161, over the
codes of one lane: each answers a code and the flags it raises. Quotients and roots are exact with a
remainder; the transcendental ones come from a fixed-point value of `fxP` fraction bits whose error is
below 2^40 units, rounded from both ends of that interval, and by an exact comparison where the ends round apart. -/

namespace Sys2Proof.Machine

/-- Fraction bits of the fixed-point values. -/
def fxP : Nat := 384

/-- Slack of a fixed-point result, in units. -/
def fxSlack : Nat := 2 ^ 40

/-- Floor of the square root, `n` steps of one result bit each, from bit `n - 1` down. -/
def isqrtGo : Nat → Nat → Nat → Nat
  | 0, _, r => r
  | n + 1, x, r => if (r + 2 ^ n) * (r + 2 ^ n) ≤ x then isqrtGo n x (r + 2 ^ n) else isqrtGo n x r

/-- Floor of the square root. -/
def isqrt (x : Nat) : Nat := isqrtGo (x.log2 / 2 + 1) x 0

/-- Sum of `t^k / k!` for a fixed-point t in [0, 2): `n` terms, `term` the k-th one. -/
def expGo : Nat → Nat → Nat → Nat → Nat → Nat
  | 0, _, _, _, acc => acc
  | n + 1, t, k, term, acc => expGo n t (k + 1) (term * t / 2 ^ fxP / (k + 1)) (acc + term)

/-- e^t of a fixed-point t in [0, 2). -/
def fxExp (t : Nat) : Nat := expGo 110 t 0 (2 ^ fxP) 0

/-- Sum of `z^(2k+1) / (2k+1)`, z2 the square of z. -/
def atanhGo : Nat → Nat → Nat → Nat → Nat → Nat
  | 0, _, _, _, acc => acc
  | n + 1, z2, k, pw, acc => atanhGo n z2 (k + 1) (pw * z2 / 2 ^ fxP) (acc + pw / (2 * k + 1))

/-- atanh z of a fixed-point z in [0, 1/3]. -/
def fxAtanh (z : Nat) : Nat := atanhGo 125 (z * z / 2 ^ fxP) 0 z 0

/-- ln 2. -/
def fxLn2 : Nat := 2 * fxAtanh (2 ^ fxP / 3)

/-- Even and odd partial sums of atan(1/n): (added, subtracted). -/
def atanGo : Nat → Nat → Nat → Nat → Nat × Nat → Nat × Nat
  | 0, _, _, _, acc => acc
  | n + 1, d2, k, pw, acc =>
    atanGo n d2 (k + 1) (pw / d2)
      (if k % 2 = 0 then (acc.1 + pw / (2 * k + 1), acc.2) else (acc.1, acc.2 + pw / (2 * k + 1)))

/-- atan(1/d). -/
def fxAtanInv (d : Nat) : Nat :=
  let p := atanGo 90 (d * d) 0 (2 ^ fxP / d) (0, 0)
  p.1 - p.2

/-- π. -/
def fxPi : Nat := 16 * fxAtanInv 5 - 4 * fxAtanInv 239

/-- Added and subtracted terms of the sine series. -/
def sinGo : Nat → Nat → Nat → Nat → Nat × Nat → Nat × Nat
  | 0, _, _, _, acc => acc
  | n + 1, t2, k, term, acc =>
    sinGo n t2 (k + 1) (term * t2 / 2 ^ fxP / ((2 * k + 2) * (2 * k + 3)))
      (if k % 2 = 0 then (acc.1 + term, acc.2) else (acc.1, acc.2 + term))

/-- sin t of a fixed-point t in [0, 2). -/
def fxSin (t : Nat) : Nat :=
  let p := sinGo 60 (t * t / 2 ^ fxP) 0 t (0, 0)
  p.1 - p.2

/-- The last of the `2 ^ n` numbers from `a` up for which `le` holds, as of a property that holds up to some number: one step a bit. -/
def lastLe (le : Nat → Bool) : Nat → Nat → Nat
  | 0, a => a
  | n + 1, a => lastLe le n (if le (a + 2 ^ n) then a + 2 ^ n else a)

/-- Round the irrational value `± v * 2 ^ e` known to lie between two bounds, .rn. Its result differs from it, so NX is raised (R159). Where
the two ends round alike that is the result. Elsewhere the exact comparison `le w`, whether `w * 2 ^ e` is at most the value, finds the
value's own digits, which round as it does (log 15). -/
def roundBetween (le : Nat → Bool) (f : FTy) (neg : Bool) (v w : Nat) (e : Int) : Nat × Flags :=
  let lo := roundFin f .rn false neg v e true
  let hi := roundFin f .rn false neg w e true
  if lo = hi then lo else roundFin f .rn false neg (lastLe le ((w - v).log2 + 1) v) e true

/-- Round the irrational value `± v * 2 ^ e` known to `fxSlack` units, .rn. -/
def roundFx (le : Nat → Bool) (f : FTy) (neg : Bool) (v : Nat) (e : Int) : Nat × Flags :=
  roundBetween le f neg (v - fxSlack) (v + fxSlack) e

/-! Exact comparisons with an elementary function, in units of `2 ^ -fxP`: they ask for numbers far too long to be written out, and no operand
is known that needs one (log 15). -/

/-- `w ≤ 2 ^ fr` of two fixed-point numbers: both sides to the power `2 ^ fxP`. -/
def exp2Le (fr w : Nat) : Bool := decide (w ^ 2 ^ fxP ≤ 2 ^ (fr + fxP * 2 ^ fxP))

/-- `w ≤ |log2 (m * 2 ^ e)|`, the sign of the logarithm given. -/
def log2Le (neg : Bool) (m : Nat) (e : Int) (w : Nat) : Bool :=
  let k : Int := e * 2 ^ fxP + if neg then (w : Int) else -(w : Int)
  let x := m ^ 2 ^ fxP * 2 ^ k.toNat
  if neg then decide (x ≤ 2 ^ (-k).toNat) else decide (2 ^ (-k).toNat ≤ x)

/-- How `p / d` compares with cos(π t / 2^k), t at most 2^k: by cos 2x = 2 cos² x - 1. -/
def cosCmp : Nat → Nat → Int → Int → Ordering
  | 0, t, p, d => compare p (if t = 0 then d else -d)
  | k + 1, t, p, d =>
    if t ≤ 2 ^ k then (if p < 0 then .lt else cosCmp k t (2 * p * p - d * d) (d * d))
    else if 0 < p then .gt else (cosCmp k (2 ^ (k + 1) - t) (2 * p * p - d * d) (d * d)).swap

/-- `w ≤ sin (π r)` for a fixed-point r of at most a half. -/
def sinLe (r w : Nat) : Bool := cosCmp fxP (2 ^ (fxP - 1) - r) w (2 ^ fxP) != .gt

/-- Sum of `(a / b)^k / k!` for k up to n: numerator and denominator. -/
def expSum (a b : Nat) : Nat → Nat × Nat
  | 0 => (1, 1)
  | n + 1 =>
    let s := expSum a b n
    (s.1 * b * (n + 1) + a ^ (n + 1), s.2 * b * (n + 1))

/-- `w ≤ tanh x` of two fixed-point numbers: `(1 + w) / (1 - w) ≤ e^(2x)`, by a sum whose rest is below every distance that a number of this
size can have from e^(2x). -/
def tanhLe (x w : Nat) : Bool :=
  let s := expSum (2 * x) (2 ^ fxP) (2 ^ fxP)
  decide (w < 2 ^ fxP ∧ (2 ^ fxP + w) * s.2 ≤ s.1 * (2 ^ fxP - w))

/-- The fixed-point value of `m * 2 ^ e`, exact for every operand of R159. -/
def fxOf (m : Nat) (e : Int) : Nat := m * 2 ^ (e + fxP).toNat / 2 ^ (-(e + fxP)).toNat

/-- Clamp of an exponent far outside every format. -/
def clampE (n : Int) : Int := if n < -2000 then -2000 else if 2000 < n then 2000 else n

/-- VEXP2 of a finite non-zero value. -/
def exp2Fin (f : FTy) (neg : Bool) (m : Nat) (e : Int) : Nat × Flags :=
  let v : Int := if neg then -(fxOf m e : Int) else (fxOf m e : Int)
  let n := v / (2 ^ fxP : Int)
  let fr := (v % (2 ^ fxP : Int)).toNat
  if fr = 0 then roundFin f .rn false false 1 (clampE n) false
  else roundFx (exp2Le fr) f false (fxExp (fr * fxLn2 / 2 ^ fxP)) (clampE n - fxP)

/-- VLOG2 of a positive finite value other than 1. -/
def log2Fin (f : FTy) (m : Nat) (e : Int) : Nat × Flags :=
  let l := m.log2
  let n : Int := l + e
  if m = 2 ^ l then roundF f .rn false (ofIntX n)
  else
    let y := m * 2 ^ (fxP - l)
    let z := (y - 2 ^ fxP) * 2 ^ fxP / (y + 2 ^ fxP)
    let v : Int := n * 2 ^ fxP + ((2 * fxAtanh z * 2 ^ fxP / fxLn2 : Nat) : Int)
    roundFx (log2Le (decide (v < 0)) m e) f (decide (v < 0)) v.natAbs (-fxP)

/-- sin(π v) for a fixed-point v ≥ 0, the sign given. -/
def sinPi (f : FTy) (neg : Bool) (v : Nat) : Nat × Flags :=
  let r := v % 2 ^ (fxP + 1)
  let s := neg != decide (2 ^ fxP ≤ r)
  let r := r % 2 ^ fxP
  let r := if 2 ^ (fxP - 1) < r then 2 ^ fxP - r else r
  if r = 0 then roundF f .rn false (.zero s)
  else if r = 2 ^ (fxP - 1) then roundF f .rn false (.fin s 1 0 false)
  else roundFx (sinLe r) f s (fxSin (r * fxPi / 2 ^ fxP)) (-fxP)

/-- x to the power 2^n in fixed point. -/
def fxPow2 : Nat → Nat → Nat
  | 0, x => x
  | n + 1, x => fxPow2 n (x * x / 2 ^ fxP)

/-- VTANH of a finite non-zero value: its magnitude is below the operand's. -/
def tanhFin (f : FTy) (neg : Bool) (m : Nat) (e : Int) : Nat × Flags :=
  if 32 ≤ (m.log2 : Int) + e ∨ 32 * 2 ^ fxP ≤ fxOf m e then roundFin f .rn false neg (2 ^ 64 - 1) (-64) true
  else
    let x := fxPow2 6 (fxExp (fxOf m e / 32))
    let v := (x - 2 ^ fxP) * 2 ^ fxP / (x + 2 ^ fxP)
    roundBetween (tanhLe (fxOf m e)) f neg (v - fxSlack) (min (v + fxSlack) (fxOf m e - 1)) (-fxP)

/-- a / b of two finite non-zero values: a quotient of at least 64 digits and whether a remainder is left. -/
def quotX (s : Bool) (m : Nat) (e : Int) (n : Nat) (g : Int) : XVal :=
  let k := 64 + n.log2
  .fin s (m * 2 ^ k / n) (e - g - k) (m * 2 ^ k % n != 0)

/-- √(m * 2 ^ e). -/
def rootX (m : Nat) (e : Int) : XVal :=
  let k : Int := if e % 2 = 0 then 128 else 129
  let x := m * 2 ^ k.toNat
  let r := isqrt x
  .fin false r ((e - k) / 2) (r * r != x)

/-- 1/√(m * 2 ^ e): floor(√(2^k / m)) and whether it is exact. -/
def invRootX (m : Nat) (e : Int) : XVal :=
  let k : Int := 160 + 2 * m.log2 + (if e % 2 = 0 then 0 else 1)
  let r := isqrt (2 ^ k.toNat / m)
  .fin false r (-((e + k) / 2)) (r * r * m != 2 ^ k.toNat)

/-- A signed zero or infinity, NaN: results of the special operands. -/
def xOut (f : FTy) (x : XVal) (fl : Flags) : Nat × Flags := ((roundF f .rn false x).1, fl)

/-- VDIV (R159); VRCP is VDIV of 1.0. -/
def fdiv (f : FTy) (mode : RMode) (a b : XVal) : Nat × Flags :=
  let s := a.isNeg != b.isNeg
  match a, b with
  | .nan, _ | _, .nan => xOut f .nan fNone
  | .zero _, .zero _ | .inf _, .inf _ => xOut f .nan fNV
  | .inf _, _ => xOut f (.inf s) fNone
  | .zero _, _ | _, .inf _ => xOut f (.zero s) fNone
  | .fin .., .zero _ => xOut f (.inf s) fDZ
  | .fin _ m e _, .fin _ n g _ => roundF f mode false (quotX s m e n g)

/-- VRCP (R159). -/
def frcp (f : FTy) (mode : RMode) (x : XVal) : Nat × Flags := fdiv f mode (.fin false 1 0 false) x

/-- VSQRT (R159). -/
def fsqrt (f : FTy) (mode : RMode) : XVal → Nat × Flags
  | .nan => xOut f .nan fNone
  | .zero s => xOut f (.zero s) fNone
  | .inf true | .fin true _ _ _ => xOut f .nan fNV
  | .inf false => xOut f (.inf false) fNone
  | .fin false m e _ => roundF f mode false (rootX m e)

/-- VRSQ (R159). -/
def frsq (f : FTy) (mode : RMode) : XVal → Nat × Flags
  | .nan => xOut f .nan fNone
  | .zero s => xOut f (.inf s) fDZ
  | .inf true | .fin true _ _ _ => xOut f .nan fNV
  | .inf false => xOut f (.zero false) fNone
  | .fin false m e _ => roundF f mode false (invRootX m e)

/-- VEXP2 (R159). -/
def fexp2 (f : FTy) (c : Nat) : Nat × Flags :=
  match decF f c with
  | .nan => xOut f .nan fNone
  | .inf true => xOut f (.zero false) fNone
  | .inf false => xOut f (.inf false) fNone
  | .zero _ => xOut f (.fin false 1 0 false) fNone
  | .fin s m e _ => exp2Fin f s m e

/-- VLOG2 (R159). -/
def flog2 (f : FTy) (c : Nat) : Nat × Flags :=
  match decF f c with
  | .nan => xOut f .nan fNone
  | .zero _ => xOut f (.inf true) fDZ
  | .inf true | .fin true _ _ _ => xOut f .nan fNV
  | .inf false => xOut f (.inf false) fNone
  | .fin false m e _ => log2Fin f m e

/-- VSIN (R159): sin(πx). -/
def fsin (f : FTy) (c : Nat) : Nat × Flags :=
  match decF f c with
  | .nan => xOut f .nan fNone
  | .inf _ => xOut f .nan fNV
  | .zero s => xOut f (.zero s) fNone
  | .fin s m e _ => if fxOf m e % 2 ^ fxP = 0 then xOut f (.zero s) fNone else sinPi f s (fxOf m e)

/-- VCOS (R159): cos(πx). -/
def fcos (f : FTy) (c : Nat) : Nat × Flags :=
  match decF f c with
  | .nan => xOut f .nan fNone
  | .inf _ => xOut f .nan fNV
  | .zero _ => xOut f (.fin false 1 0 false) fNone
  | .fin _ m e _ =>
    if fxOf m e % 2 ^ fxP = 2 ^ (fxP - 1) then xOut f (.zero false) fNone
    else sinPi f false (fxOf m e + 2 ^ (fxP - 1))

/-- VTANH (R159). -/
def ftanh (f : FTy) (c : Nat) : Nat × Flags :=
  match decF f c with
  | .nan => xOut f .nan fNone
  | .inf s => xOut f (.fin s 1 0 false) fNone
  | .zero s => xOut f (.zero s) fNone
  | .fin s m e _ => tanhFin f s m e

/-- VFRINT (R161). -/
def frint (f : FTy) (mode : RMode) (c : Nat) : Nat × Flags :=
  match decF f c with
  | .fin s m e _ =>
    let p := toIntMag mode s m e
    ((roundF f .rn false (.mk s p.1 0)).1, if p.2 then fNX else fNone)
  | x => xOut f x fNone

/-- VFADD to VFMA (R156): round an exact value and keep the flags of its forming. -/
def roundWith (f : FTy) (mode : RMode) (x : XVal × Flags) : Nat × Flags :=
  let r := roundF f mode false x.1
  (r.1, x.2 ||| r.2)

/-- VFADD. -/
def fadd (f : FTy) (mode : RMode) (a b : XVal) : Nat × Flags := roundWith f mode (sumX mode [a, b])
/-- VFSUB. -/
def fsub (f : FTy) (mode : RMode) (a b : XVal) : Nat × Flags := roundWith f mode (sumX mode [a, b.negate])
/-- VFMUL. -/
def fmul (f : FTy) (mode : RMode) (a b : XVal) : Nat × Flags := roundWith f mode (mulX a b)
/-- VFMA: one rounding; a NaN operand gives NaN with no flag, whatever the product (R155). -/
def ffma (f : FTy) (mode : RMode) (a b c : XVal) : Nat × Flags :=
  let p := mulX a b
  let s := sumX mode [p.1, c]
  roundWith f mode (s.1, if c == .nan then fNone else p.2 ||| s.2)

/-- VFABS and VFNEG (R157): the code with its sign bit cleared or inverted, canonical NaN for a NaN. -/
def fsignOp (f : FTy) (neg : Bool) (c : Nat) : Nat :=
  match decF f c with
  | .nan => f.nanCode.getD 0
  | _ => signed f (neg && !f.signBit c) (c % 2 ^ (f.bits - 1))

/-- VFCMP (R158). -/
def fcmp (f : FTy) (c : FCond) (a b : Nat) : Bool :=
  let x := decF f a
  let y := decF f b
  let un := x == .nan || y == .nan
  let lt := ltX x y
  let gt := ltX y x
  match c with
  | .un => un
  | .ord => !un
  | .eq => !un && !lt && !gt
  | .ne => un || lt || gt
  | .lt => !un && lt
  | .le => !un && !gt
  | .gt => !un && gt
  | .ge => !un && !lt

/-- VCVT of one lane (R160). -/
def vcvtLane (td ts : Ty) (mode : RMode) (sat : Bool) (c : Nat) : Nat × Flags :=
  match ts, td with
  | .flt s, .flt d => roundF d mode (sat || !d.hasInf) (decF s c)
  | .int s, .flt d => roundF d mode (sat || !d.hasInf) (ofIntX (valI s c))
  | .flt s, .int d => let r := toInt d mode (decF s c); (putI d 32 r.1, r.2)
  | .int s, .int d =>
    let r := if sat then satI d (valI s c) else (valI s c, fNone)
    (putI d 32 r.1, r.2)

end Sys2Proof.Machine
end

