-- ==== Sys2Proof/Machine/State.lean ====
section
/-! DEFINITION. The state of the machine as plain data: every piece of state that spec/ gives it, under
INVENTORY.md's '## State', and the model's own scheduler fields (log 2, 3, 6). Sparse parts (groups,
teams, engines, queues, sockets) are lists that hold what exists; what is not listed has its reset value. -/

namespace Sys2Proof.Machine

/-! ### Groups (01 R13) -/

/-- An issued instruction on its way: who issued it, its pc, the pc of the next instruction (05 R116),
the pc of a broken filler tail behind it (05 R121), and its previous issue cycle. -/
structure Cur where
  agent : Agent
  pc : DWord
  next : DWord
  tail : Option DWord
  last : Option Nat     -- cycle of the agent's previous issue, for an instruction that does not issue after all
  deriving DecidableEq, Repr

/-- A rejoin register (01 R30), with the lanes parked on it. -/
structure Rejoin where
  enrolled : DWord
  arrived : DWord
  point : DWord
  parked : DWord
  valid : Bool
  deriving DecidableEq, Repr

/-- A trap record, TRECA to TRECD (14 R290). -/
structure TrapRec where
  a : DWord
  b : DWord
  c : DWord
  d : DWord
  deriving DecidableEq, Repr

/-- How a group stopped for a save (14 R301, R307). -/
inductive StopKind | safept (idx : Nat) | wait | trap | forced
  deriving DecidableEq, Repr

/-- A matrix operation's work, with the formes and the step read at issue (09 R206, R211). -/
inductive MatKind
  | mma (sg : MmaSign) (a b : Line) (k : Nat)
  | mzero
  | mldg (a : Line) (k : Nat)
  | mstg (d : Line) (k : Nat)
  | mcvt (relu : Bool) (rm : RMode) (d : Line) (k : Nat)
  | maddg (isInt : Bool) (rm : RMode) (a b : Nat)
  deriving DecidableEq, Repr

/-- A matrix operation; tiles are physical (01 R16). A paired MMA sits in both queues under one uid (09 R216). -/
structure MatOp where
  uid : Nat
  core : Nat
  slot : Nat
  team : Nat
  kind : MatKind
  tile : Nat            -- destination tile, or the source tile of MSTG and MCVT
  pairTile : Option Nat -- the follower's destination tile of a paired MMA
  folio : Nat           -- memory key of the issuing team's folio on the core, as it stood at issue
  folio2 : Nat          -- on the other core of the pair
  issued : Nat          -- cycle of issue
  start : Option Nat    -- cycle of start
  retire : Nat          -- cycle of retire, once started
  cells : List Host.Cell -- folio and galley writes, known from the start
  flags : Flags
  bad : Option (Nat × Nat) -- an uncorrectable granule it read: its place, which state (09 R224)
  gate : Option (List (Nat × Nat)) -- of a predecessor after a handoff: the keys [lo, hi) its writes still reach (09 R222)
  deriving DecidableEq, Repr

/-- A ligature operation's work (10 R231-R236): folio offsets of the input, the sheet or the destination. -/
inductive LigKind
  | bind (c n p base : Nat)
  | eval (sheet hi : Nat)
  | emit (bf : Bool) (dst first count pitch cols : Nat)
  deriving DecidableEq, Repr

/-- A fault found in an engine's occupancy (10 R237): cause and record details. -/
structure LigFault where
  cause : Nat
  c : DWord
  d : DWord
  deriving DecidableEq, Repr

/-- A ligature operation. -/
structure LigOp where
  uid : Nat
  core : Nat
  slot : Nat
  team : Nat
  kind : LigKind
  folio : Nat                   -- memory key of the issuing team's folio, as it stood at issue
  issued : Nat
  start : Option Nat
  finish : Nat
  cells : List Host.Cell        -- folio writes of a LIGEMIT, performed at completion
  flags : Flags
  fault : Option LigFault
  bad : Option (Nat × Nat)
  gate : Option (List (Nat × Nat))
  deriving DecidableEq, Repr

/-- The tensor commands and the others of 08 R198-R203. -/
inductive CmdKind
  | fetch | mcast | gather | store | reduce (op : FarRed) | fill | copy | atom (op : AtOp) (t : Ty) | bulkld | bulkst
  | pagereq | taskq
  deriving DecidableEq, Repr

/-- A span of local bytes a command reads or writes (03 R80); `core` holds the bytes, `lo` and `hi` are store offsets. -/
structure Span where
  core : Nat
  lo : Nat
  hi : Nat
  dest : Bool
  deriving DecidableEq, Repr

/-- An entry of a chase table (03 R80). -/
structure Chase where
  span : Span
  team : Nat
  tag : Nat
  deriving DecidableEq, Repr

/-- What a waiting group waits for (01 R34); where the instruction completes on release it is kept as `cur`. -/
inductive Wait
  /-- ARWAIT on the arrival word at a memory key; released by a firing, issues again (08 R194). -/
  | arrival (word : Nat)
  /-- Held until the group's own local writes to `n` bytes at a key are performed (R194, 04 R98); issues again. -/
  | ownWrites (key n : Nat)
  /-- LL or a scratch atomic waiting for lock bits; issues again once it holds them (R191). -/
  | lock
  | tmbar (cur : Cur)
  | clbar (cur : Cur)
  /-- FENCE until the listed local accesses are performed (04 R103). -/
  | fence (cur : Cur) (uids : List Nat)
  /-- A command at R197 step 2. -/
  | chase (cur : Cur) (status : SReg) (uid : Nat)
  /-- TASKQ waiting for a chase entry (11 R262). -/
  | taskq (cur : Cur) (status : SReg) (slot word : Nat)
  | matrixQ (cur : Cur) (op : MatOp)
  | mwait (cur : Cur)
  | ligQ (cur : Cur) (op : LigOp)
  | ligwait (cur : Cur)
  | ligclr (cur : Cur)
  /-- GROW; `since` orders the first attempts (11 R257). -/
  | grow (cur : Cur) (status : SReg) (count since : Nat)
  /-- SAFEPT until the group's commits are complete (07 R174). -/
  | safept (cur : Cur) (idx : Nat)
  /-- HANDOFF: before its commits complete, then arrived (11 R247). -/
  | handoff (cur : Cur) (idx addr : Nat) (arrived : Bool)
  deriving DecidableEq, Repr

/-- Run state of a group. -/
inductive Run
  | ready
  | waiting (w : Wait)
  /-- Stopped by a trap (14 R288); `queued` once its record is in the trap queue. -/
  | trapped (r : TrapRec) (queued : Bool)
  /-- Stopped for a context save (14 R301); a waiting instruction issues again. -/
  | saving (k : StopKind) (r : Option TrapRec)
  /-- Exited, the slot held by matrix or ligature operations (07 R176). -/
  | exited
  deriving DecidableEq, Repr

/-- A group in a slot of a core. -/
structure Group where
  core : Nat
  slot : Nat
  team : Nat              -- uid of its team
  index : Nat             -- %group
  width : Nat             -- W
  sregs : Nat             -- declared scalar registers
  win : Nat               -- store offset of the register window
  sblk : Nat              -- store offset of the scalar block
  vregs : Nat             -- current vector register count
  pc : DWord
  masks : Vector DWord 16
  rejoins : Vector Rejoin 8
  fstat : BitVec 6
  late : Nat × Flags      -- the cycle of the last commits into %fstat, and the flags they brought in it (02 R47)
  dsel : DWord
  run : Run
  lock : Option (Nat × Nat) -- core and store offset of the granule its LL holds (08 R189)
  lockLost : Bool
  uncorrM : List (Nat × Nat) -- late UNCORRs of the matrix array not yet taken: place, state (09 R224)
  uncorrL : List (Nat × Nat) -- late UNCORRs of the ligature engine (10 R238)
  bundle : Nat            -- bundle it belongs to (01 R27)
  pos : Nat               -- member position
  placed : Nat            -- placement order, for ties (15 R323)
  lastIssue : Option Nat  -- cycle of its last issue
  readySince : Nat        -- issue cycles of its core when its bundle last issued, or when it became ready since (15 R323)
  waitSince : Nat         -- issue cycles of its core when it last issued itself, or when it became ready since (01 R33)
  yielded : Option (Nat × List Nat) -- YIELD: issue cycle count at it, slots ready then that have not issued (07 R175)
  fresh : Bool            -- no instruction issued yet: the entry is checked under 05 R119
  checkPc : Bool          -- the pc was written by DBGWR: checked at the next issue (14 R296)
  line : Option (Nat × Nat × List Nat) -- the fetch line it executes: address, pc of the last issue in it, words as they stood when the
                                       -- group entered it (05 R116)
  notBefore : Nat         -- earliest cycle of its next issue
  held : Bool             -- its instruction was held by a bank when it last tried (15 R323)
  deriving DecidableEq, Repr

/-! ### Pending results (01 R31) and local accesses in flight (04 R92) -/

/-- A long-latency result before its commit. -/
structure Commit where
  uid : Nat
  agent : Agent
  due : Nat                 -- commits at the end of this cycle at the earliest
  left : Nat                -- instructions of the window still to issue
  cells : List Host.Cell    -- register bytes it writes, in the store
  regs : List (Nat × DWord) -- proof-core registers it writes
  formes : List (Nat × Nat × Line) -- team, forme register, image
  reserved : Bool           -- a forme image will be added
  flags : Flags
  deriving DecidableEq, Repr

/-- What a local access does when it is performed. -/
inductive LocalOp
  /-- Read `size` bytes, extend, and give the destination bytes (keys) or proof-core register the value. -/
  | load (sx : Bool) (dst : List Nat) (reg : Option Nat)
  | store (bytes : List Byte)
  /-- A counted addition (03 R73). -/
  | count (n : Nat)
  /-- ARINIT (03 R74). -/
  | init (target : Nat)
  /-- FORME: read 64 bytes into a team's forme register (09 R207). -/
  | forme (team r : Nat)
  /-- A scratch atomic (08 R193): operation, type, operand, compare value, destination bytes of the old value. -/
  | atomic (op : AtOp) (t : Ty) (b c : Nat) (dst : List Nat) (reg : Option Nat)
  /-- A debug access to a stopped group's state (14 R294): core, slot, offset, bytes to write or none for a read. -/
  | debug (core slot off : Nat) (wr : Option (List Byte)) (reg : Nat)
  deriving DecidableEq, Repr

/-- A local access in flight. -/
structure Local where
  uid : Nat
  agent : Agent
  due : Nat         -- performed at the end of this cycle
  commit : Nat      -- uid of the commit it feeds, for loads and atomics
  addr : Nat        -- memory key of its first byte
  size : Nat
  acq : Bool        -- the read part is an acquire (04 R101)
  op : LocalOp
  deriving DecidableEq, Repr

/-- A held lock bit of a bank (08 R188): by an LL of an agent; or, `atomic`, to the end of a cycle by a scratch
atomic or an SU in flight, or, `until_` 0, granted to an instruction that is still to issue (R191). -/
structure Lock where
  core : Nat
  bank : Nat
  bit : Nat
  holder : Agent
  atomic : Bool
  until_ : Nat
  ll : Bool       -- held by an LL until its SU is performed, or granted for one
  deriving DecidableEq, Repr

/-- A place in the queue of a lock bit (08 R191). -/
structure LockReq where
  core : Nat
  bank : Nat
  bit : Nat
  agent : Agent
  since : Nat
  ll : Bool       -- for an LL, not an atomic
  deriving DecidableEq, Repr

/-! ### Teams and launches (01 R13-R17, 15 R316) -/

/-- A transform binding of a kernel record (15 R317). -/
structure Binding where
  desc : Nat
  plane : Nat
  origins : List Nat
  deriving DecidableEq, Repr

/-- A kernel record, decoded (15 R316). -/
structure KRec where
  addr : Nat
  entry : Nat
  kdata : Nat
  safetab : Nat
  nsafe : Nat
  width : Nat
  paired : Bool
  lig : Bool
  nsucc : Nat
  groups : Nat
  vregs : Nat
  sregs : Nat
  galley : Nat
  folio : Nat           -- bytes per core
  binds : List Binding  -- NBIND of them; an all-zero one is empty
  succs : List Nat      -- NSUCC successor entries
  deriving DecidableEq, Repr

/-- What a team holds on one core: folio base, and the physical tile of each declared tile (01 R15, R16). -/
structure Seat where
  core : Nat
  folio : Nat
  tiles : List Nat
  deriving DecidableEq, Repr

/-- A handoff under way: checked, waiting for chase entries and space (11 R251, R252). -/
structure Hand where
  idx : Nat
  addr : Nat
  succ : KRec
  vmap : Nat
  smap : Nat
  gmap : Nat
  ranges : List (Nat × Nat) -- inherited folio bytes, [lo, hi)
  since : Nat
  deriving DecidableEq, Repr

/-- A resident team. -/
structure Team where
  uid : Nat
  launch : Nat
  num : Nat               -- %team
  krec : KRec
  seats : List Seat       -- leader first
  cset : Option Nat       -- cluster set: number of the set within its launch (01 R17)
  formes : Vector Line 16
  limB : Nat              -- byte limit (03 R85)
  limC : Nat
  tqOut : Nat             -- TASKQ answers outstanding (11 R262)
  bound : Nat             -- bindings issued so far (15 R317)
  started : Bool          -- its groups may issue, bindings apart (11 R253)
  hand : Option Hand
  notBefore : Nat
  exited : Bool           -- all its groups have exited; folio and tiles held as 03 R84 states
  deriving DecidableEq, Repr

/-- A launch and its task domain (15 R312, 11 R261). -/
structure Launch where
  uid : Nat
  hw : Nat                -- hardware queue slot
  part : Nat
  queue : Nat
  packet : Nat            -- ring index of its packet
  krec : KRec
  kargs : DWord
  teams : Nat
  cset : Nat
  next : Nat              -- next team to place
  priv : Bool
  diag : Bool
  prio : Nat
  held : Option Nat       -- cycle since when placement is held (15 R322)
  lastCore : Nat
  descs : List Nat        -- descriptors of its bindings, read once (15 R317)
  sealed : Bool
  ended : Bool
  outstanding : Nat
  deriving DecidableEq, Repr

/-! ### The cluster's engines -/

/-- How translation of a unit ends (16 R333): served by a module page, with the first unit and the number of
units its leaf covers and the tables above it (level, module, byte offset), or refused with reason, level and endpoint. -/
inductive XOut
  | ok (ep page cls : Nat) (cmp wr : Bool) (first count : Nat) (tables : List (Nat × Nat × Nat))
  | bad (reason level ep : Nat)
  deriving DecidableEq, Repr

/-- Translation of a unit: not begun, at a table (level, module, byte offset, tables so far), ended, or in force. -/
inductive Xlat
  | pending
  | walking (level ep addr : Nat) (tables : List (Nat × Nat × Nat))
  | ended (o : XOut)
  | served (o : XOut)
  deriving DecidableEq, Repr

/-- A 64 KiB unit of a command (16 R331): virtual address of the first byte touched, read or written. -/
structure FUnit where
  va : Nat
  write : Bool
  res : Xlat
  done : Bool    -- PAGEREQ: resident or refused
  refused : Bool
  posted : Bool  -- a PAGEREQ's fault was posted
  faulted : Bool -- PAGEREQ: it was found non-resident, and waits for the driver (16 R340)
  lost : Bool    -- bytes of it that translation served were zero-filled: its residency bit is cleared (16 R331)
  deriving DecidableEq, Repr

/-- How an item's far bytes and local bytes correspond (03 R67-R69). -/
inductive Form | plain | record (f : FTy) | sparse (size : Nat)
  deriving DecidableEq, Repr

/-- One indivisible piece of a command: an element run within 4 KiB, a record, a tile. `loc` and `aux` are folio
offsets of element bytes and of scale-entry bytes; `far2` is the destination of a copy. -/
structure Item where
  far : Option Nat
  far2 : Option Nat
  len : Nat
  form : Form
  loc : List Nat
  aux : List Nat
  cnt : Nat
  fill : Bool     -- no request serves it: it is zero-filled, or not written, and counted
  nrf : Bool      -- counting it sets NRF
  bad : Bool      -- far bytes of it came with an uncorrectable data error (03 R71)
  done : Bool
  box : Nat × Nat -- its place in the order of the box: the item it is part of, and how far in it begins
  deriving DecidableEq, Repr

/-- Where a command writes: a receiving core, its folio base, arrival and residency words (store offsets). -/
structure Recv where
  core : Nat
  folio : Nat
  arr : Nat
  resw : Option Nat
  deriving DecidableEq, Repr

/-- An engine command that has been taken up (08 R197). -/
structure Cmd where
  uid : Nat               -- its tag
  kind : CmdKind
  agent : Agent
  cluster : Nat
  team : Nat
  launch : Nat
  recvs : List Recv
  spans : List Span       -- chase entries it registers
  items : List Item
  pads : List Nat         -- folio offsets of padding bytes (03 R65)
  units : List FUnit
  operand : DWord         -- fill value or atomic operand
  compare : DWord
  esize : Nat             -- element size in far bytes
  efmt : Nat
  bytes : Nat             -- counted bytes: its charge
  charged : Bool
  issued : Nat            -- cycle of issue
  fences : List (FenceKind × Nat) -- earlier commands that a FENCE orders before this one's events (04 R103)
  behind : List FenceKind -- FENCEs of package scope or wider that its group has issued since
  resDone : Bool          -- residency word written
  err : Bool
  held : List Nat         -- matrix and ligature operations and local writes its reads wait for (04 R98)
  src : List Host.Cell    -- source bytes once read
  got : List Host.Cell    -- far bytes received, by virtual address
  finished : Bool
  bindingOf : Option Nat
  desc : Nat              -- its descriptor's 512 bits, 0 for a command without one (14 R307)
  deriving DecidableEq, Repr

/-- What a request asks of a module (18 R380). -/
inductive ReqOp | read | write | reduce (op : FarRed) | fill | atomic (op : AtOp) (t : Ty) | copy
  deriving DecidableEq, Repr

/-- State of a request (03 R86): `there` once its module has every chunk of it. -/
inductive ReqRun
  | unsent
  | sent
  | there
  | accepted
  | refused (hint due : Nat)
  | finished
  deriving DecidableEq, Repr

/-- A request of a command to one module (03 R86). -/
structure Req where
  cmd : Nat
  n : Nat
  team : Nat
  ep : Nat
  page : Nat          -- module page
  leaf : Nat          -- first unit of the leaf: pages of 2 MiB and 1 GiB are one page (04 R105)
  cls : Nat
  cmp : Bool          -- the page is compressed
  part : Nat
  va : Nat
  len : Nat
  op : ReqOp
  items : List Nat    -- indices of the items it serves
  run : ReqRun
  tries : Nat         -- refusals in a row (16 R335)
  hint : Nat          -- hint of the last refusal (17 R354)
  left : List Nat     -- blocks of a copy that are not yet copied (16 R336)
  owed : List (Nat × Nat) -- far bytes, [lo, hi), of the parts of its answer that are not yet delivered
  piece : List Byte × Bool -- what has come of a coded block in more chunks than one, and whether in error
  data : List Host.Cell -- write data that has reached the module, by far address
  stream : Nat
  seq : BitVec 32     -- sequence number of its first chunk on its stream
  deriving DecidableEq, Repr

/-- A cached translation of a cluster's translation unit (16 R332). -/
structure Cached where
  cluster : Nat
  unit : Nat          -- virtual address / 65536 of the first unit it covers
  count : Nat         -- units covered
  ep : Nat
  page : Nat
  cls : Nat
  cmp : Bool
  wr : Bool
  tables : List (Nat × Nat × Nat) -- the tables above it: level, module, byte offset
  ptrs : List Nat     -- levels of those whose pointers are cached with it (16 R332, R341)
  deriving DecidableEq, Repr

/-- A record in a ready queue, in transit (with its arrival cycle), or in a pending table (11 R261). -/
structure TaskRec where
  cluster : Nat
  launch : Nat
  image : Line
  idx : Nat           -- pending-table index, or arrival cycle in transit
  count : Nat
  zeroAt : Option Nat -- order in which a pending entry's count reached zero
  deriving DecidableEq, Repr

/-- A TASKQ request waiting for a record (11 R262). -/
structure TaskReq where
  uid : Nat           -- tag of its chase entry
  cluster : Nat
  launch : Nat
  team : Nat
  core : Nat
  slot : Nat          -- store offset of the answer slot
  word : Nat          -- store offset of the arrival word
  deriving DecidableEq, Repr

/-- The ligature engine of a core (10 R226-R240). -/
structure LigEngine where
  core : Nat
  team : Option Nat
  bound : Option (Nat × Nat × Nat × Nat)     -- C, N, P, base for the checks of later instructions
  run : Option (Nat × Nat × Nat × Nat)       -- the binding of the operations in occupancy
  levels : List (Nat × Nat)                  -- valid indices with their levels
  mark : Nat                                 -- level mark of the operations that have entered the queue
  marked : Nat                               -- uid counter when the mark last became 0
  fault : Option LigFault
  faultBy : Option Nat                       -- slot of the group whose operation faulted, until it takes the cause
  freeAt : Nat                               -- first cycle after the last occupancy
  stale : Bool                               -- holds a predecessor's values until the successor's first operation (R242)
  deriving DecidableEq, Repr

/-! ### Proof cores (14 R285-R297, 17 R362) -/

/-- What a proof core waits for. -/
inductive PWait
  | tqnext (cur : Cur) (d : SReg)
  | fevnext (cur : Cur) (d : SReg)
  | xlat (cur : Cur) (d : SReg) (id : Nat)
  | fence (cur : Cur) (uids : List Nat)
  | lock
  | tret (cur : Cur) (exit : Bool)
  deriving DecidableEq, Repr

/-- The proof core of a cluster. -/
structure ProofCore where
  cluster : Nat
  pc : DWord
  sregs : Vector DWord 128
  halted : Bool
  wait : Option PWait
  lock : Option Nat             -- granule its LL holds
  queue : List (Bool × TrapRec) -- true: a NOSTOP record (14 R290)
  trec : TrapRec
  orphovf : BitVec 32
  dbgstat : DWord
  predl : DWord
  map : Option (Nat × Nat)      -- debug mapping: core, slot
  fev : List (DWord × DWord)
  feva : DWord
  fevb : DWord
  fevovf : BitVec 32
  notBefore : Nat
  deriving DecidableEq, Repr

/-! ### Partitions, queues and contexts -/

/-- A fault record (16 R337) as the fields that identify it. -/
structure FaultRec where
  seq : Nat
  addr : Nat
  team : Nat       -- %team, 32 bits
  hw : Nat
  cluster : Nat
  core : Nat
  ep : Nat
  level : Nat
  reason : Nat
  access : Nat
  deriving DecidableEq, Repr

/-- A shootdown (16 R341, R342): kind, operand, the proof core that waits for it or none for the host. -/
structure Shoot where
  id : Nat
  kind : Nat
  operand : Nat
  from_ : Option Nat
  begun : Bool
  reqs : List (Nat × Nat)  -- requests that used a dropped entry
  deriving DecidableEq, Repr

/-- A partition (16 R344). -/
structure Partition where
  p : Nat
  dies : List Nat
  hw : List Nat        -- hardware queue slots
  tslice : Nat         -- in time units
  ceilB : Nat
  ceilC : Nat
  pinShare : Nat
  xroot : DWord
  reach0 : DWord
  reach1 : DWord
  lost : Bool
  fbput : BitVec 32
  fbget : BitVec 32
  fbovf : BitVec 32
  fbctl : BitVec 2
  fseq : Nat
  fb : List (Nat × FaultRec) -- slot, record
  shoots : List Shoot
  qtbase : DWord
  qtcount : Nat
  deriving DecidableEq, Repr

/-- A packet in progress (15 R313). -/
structure Packet where
  idx : Nat
  type : Nat
  header : Nat
  words : List DWord    -- its eight doublewords
  launch : Option Nat
  placed : Bool         -- its last team is placed
  done : Bool           -- complete
  consumed : Bool       -- RIDX has passed it
  pollAt : Nat
  deriving DecidableEq, Repr

/-- A lane reservation (15 R325). -/
structure Resv where
  ends : List Nat
  lanes : Nat
  pinned : List (Nat × Nat × Nat) -- endpoint, plane, transmit slot
  until_ : Nat
  waiting : Bool
  lapsing : Bool        -- its queue has been evicted: the lease runs out (R326)
  deriving DecidableEq, Repr

/-- A mapped user queue (15 R318). -/
structure Mapped where
  q : Nat
  prio : Nat
  priv : Bool
  diag : Bool
  since : Nat
  evicting : Bool
  stopped : Bool        -- by a queue error
  cursor : Nat          -- ring index of the next packet to start
  packets : List Packet
  replay : Option (List Nat × Nat) -- its lane reservation: endpoints, lanes for each (15 R326)
  deriving DecidableEq, Repr

/-- A hardware queue slot (15 R318). -/
structure HwSlot where
  n : Nat
  part : Nat
  queue : Option Mapped
  lastCore : Option Nat
  resv : Option Resv
  deriving DecidableEq, Repr

/-- What is live of a group: bit masks of vector and scalar registers, and of team tiles (14 R302). -/
structure Live where
  v : Nat
  s : Nat
  g : Nat
  deriving DecidableEq, Repr

/-- A pre-emption of one context (14 R299-R306): `st` is the query state of R300. -/
structure Preempt where
  id : Nat
  hw : Nat
  cluster : Nat
  root : Nat
  space : Option Nat
  teams : List Nat
  at_ : Nat
  st : Nat
  forced : Nat
  sched : Bool
  live : List (Nat × Nat × Live) -- core, slot, and what the save found live of the group (R302, R307)
  deriving DecidableEq, Repr

/-- A saved context (14 R305-R308): teams and groups as they stood, with the bytes of their registers, folios and tiles. -/
structure Saved where
  hw : Nat
  part : Nat
  queue : Nat
  cluster : Nat
  root : Nat
  teams : List (Team × List Group)
  cells : List (Nat × Nat × Host.Cell) -- team, seat number, offset in a save image of that seat, byte
  chases : List Chase
  cmds : List Cmd
  reqs : List Req
  ligs : List LigEngine
  treqs : List TaskReq
  launches : List Nat
  held : Bool            -- saved while its queue stays mapped: it waits for the next mapping (15 R320)
  deriving DecidableEq, Repr

/-- A queue waiting to be mapped: when it became pending, and what it keeps from an earlier mapping. -/
structure PendingQ where
  part : Nat
  q : Nat
  since : Nat
  prio : Nat
  cursor : Option Nat
  packets : List Packet
  replay : Option (List Nat × Nat)
  idle : Bool           -- it is not pending, but keeps its lane request for its next mapping; a notify write makes it pending
  deriving DecidableEq, Repr

/-! ### Modules (18 R380-R385) -/

/-- A module endpoint. -/
structure Module where
  ep : Nat
  table : List (Nat × DWord)           -- module page, entry
  manager : Nat
  moves : List (Nat × Nat × Nat)       -- page, new frame, time at which the copy ends
  staged : List (Nat × Nat)            -- staged ranges: module byte, length, oldest first
  temps : List (Nat × Nat)             -- stack, step (0 normal, 1-4 of R385)
  pendingWrite : Option (Nat × DWord)  -- a table write on its way
  deriving DecidableEq, Repr

/-! ### The fabric (17) -/

/-- A part of a chunk: the far bytes [lo, hi) that it serves or reports performed, how many bytes of the chunk are of it, whether these are
of a coded block (18 R382), and whether more of that block follows in the next chunk (log 17). -/
structure Part where
  lo : Nat
  hi : Nat
  n : Nat
  coded : Bool
  more : Bool
  deriving DecidableEq, Repr

/-- A chunk of a stream (17 R352): 256 bytes of its transaction, fewer in the last one, none in a write completion. -/
structure Chunk where
  seq : BitVec 32
  cmd : Nat
  req : Nat
  no : Nat                 -- chunk number within its transaction
  bytes : List Byte
  parts : List Part        -- of an answer: what it carries for the package's engine
  bad : Bool               -- uncorrectable data error (03 R71)
  lane : Option (Nat × Nat) -- of a sender's copy: the lane by which it went last
  deriving DecidableEq, Repr

/-- A stream as its sender holds it (17 R357). -/
structure TxStream where
  src : Nat
  dst : Nat
  stream : Nat
  vc : Nat
  next : BitVec 32
  copies : List Chunk      -- unacknowledged, oldest first
  waiting : List Chunk     -- not yet sent
  progress : Nat           -- time of the last acknowledgement progress
  lane : Option (Nat × Nat)
  deriving DecidableEq, Repr

/-- A stream as its receiver, the package or a module, holds it (17 R356). -/
structure RxStream where
  dst : Nat
  src : Nat
  stream : Nat
  vc : Nat
  next : BitVec 32
  owes : Bool              -- an acknowledgement is due (17 R356)
  deriving DecidableEq, Repr

/-- A burst in flight (17 R352), on the wavelength of its lane's transmitter (R347). -/
structure Burst where
  src : Nat
  dst : Nat
  wave : Nat
  stream : Nat
  vc : Nat
  lane : Nat × Nat
  chunks : List Chunk
  ack : Option (Nat × Nat × BitVec 32) -- acknowledged stream, channel, ACKSEQ
  pin : Option Nat         -- the hardware queue slot whose reservation carries it (15 R325)
  deriving DecidableEq, Repr

/-- A grant held (17 R355). -/
structure Grant where
  peer : Nat
  plane : Nat
  slot : Nat
  vc : Nat
  bursts : Nat
  deriving DecidableEq, Repr

/-- An optical engine's socket (17 R365). -/
structure Socket where
  s : Nat
  st : Nat
  badcmd : Bool
  retire : Nat
  warn : Nat
  romaddr : Nat
  rom : List Byte
  present : Bool
  drainAt : Nat
  moved : Nat
  resumes : Nat
  discards : Nat
  deriving DecidableEq, Repr

/-- A lane position: `st` as diagnostic kind 2 codes it (17 R367). -/
structure Lane where
  s : Nat
  pos : Nat
  st : Nat
  plane : Nat
  replaced : Nat
  age : Nat
  warned : Bool
  failAt : Option Nat  -- time of a failure that the device still has to try again (17 R360)
  bad : Nat            -- consecutive bursts discarded
  streams : List (Nat × Nat × Nat × Nat) -- streams it was carrying when it failed: sender, receiver, number, channel (17 R358)
  deriving DecidableEq, Repr

/-- Cadence (17 R368, R369). -/
structure Cadence where
  tick : BitVec 32
  level : Nat
  pending : List (Nat × Nat × Nat) -- tick, level, time to apply
  demands : List (Nat × Nat)
  own : Nat
  emerg : Bool
  lost : Bool
  lastTick : Nat
  sent : Nat                       -- ticks the leader has sent
  nextSend : Nat
  deriving DecidableEq, Repr

/-! ### Host, boot, power, errors (18) -/

/-- A verified image: kind 1 firmware, 2 configuration. -/
structure Image where
  version : Nat
  digest : List Byte
  body : List Byte
  deriving DecidableEq, Repr

/-- The global block and boot state. -/
structure Boot where
  st : Nat
  code : Nat
  featacc : Nat
  lock : Bool
  mbwin : Vector DWord 8
  halt : Nat                -- HALTSTAT, 96 bits
  nonce : Nat               -- ATTNONCE, 256 bits
  attBusy : Bool
  attNonce : Nat            -- the nonce of the report being signed
  attrep : List Byte
  mmEp : DWord
  mmPage : DWord
  mmEntry : DWord
  mmStat : Nat
  unc : BitVec 32
  cor : BitVec 32
  spares : Nat
  tests : List (Nat × Nat)       -- rows under self-test: SRAM by number, row
  spareRows : List (Nat × Nat)   -- persistent: SRAM by number, row
  raslog : List (Nat × Nat)      -- store offset, state
  msix : List Nat                -- vectors raised, oldest first
  fw : Option Image
  cfg : Option Image
  endpoint : Nat
  leader : Bool
  members : List Nat
  mon : Option Monitors
  throttle : List Nat            -- modules whose throttle demand stands
  limits : Nat × Nat × Nat       -- inlet, die, emergency, as R387 or lowered by the configuration image
  lastRead : List Byte
  deriving DecidableEq, Repr

/-- A host access at the mailbox engine's ordering point (04 R112). -/
inductive HostOp
  /-- A write to a register at a BAR0 offset. -/
  | reg (off : Nat) (x : DWord)
  /-- A notify write. -/
  | notify (part q : Nat) (x : DWord)
  /-- A read of some bytes through a window. -/
  | read (win off size : Nat)
  /-- A write of bytes through a window. -/
  | write (win off : Nat) (bytes : List Byte)
  deriving DecidableEq, Repr

/-- A write of a packet processor to far memory that waits for a page that moves (16 R335). -/
structure PpWrite where
  part : Nat
  hw : Nat
  va : Nat
  bytes : List Byte
  deriving DecidableEq, Repr

/-! ### Turns -/

/-- One thing that happens: an agent issues, or a row of the table that no word encodes takes place, or
something comes from outside the device that is no row. -/
inductive Turn
  | issue (a : Agent)
  | event (i : Instr)
  /-- A burst of the package reaches its module: its number in the state's list, and what the link does to it (17 R356). -/
  | carry (n : Nat) (t : Transit)
  /-- A RESUME of a stream reaches its sender: the stream's number in the state's list, the next sequence (17 R358). -/
  | resume (stream : Nat) (r : Word)
  /-- The eighth burst in a row of a lane is discarded: the lane fails (17 R360). -/
  | laneLost (socket lane : Nat)
  /-- End of a press-clock cycle. -/
  | tick
  /-- Time passes without a press-clock cycle of the die the model counts: `n` units. -/
  | elapse (n : Nat)
  /-- An SRAM word shows a corrected error (18 R389): its memory key. -/
  | corrected (key : Nat)
  /-- A word becomes uncorrectable (R390): its memory key. -/
  | uncorrectable (key : Nat)
  deriving DecidableEq, Repr

/-! ### The machine -/

/-- The state of the package, its modules as far as it meets them, and the model's scheduler. -/
structure State where
  cycle : Nat
  time : Nat
  issues : List (Nat × Nat)      -- issue cycles of each core so far
  agenda : List Turn
  plan : Option (List Agent)     -- who still issues in this cycle; none before the choice
  cur : Option Cur
  uid : Nat
  fresh : Nat
  mem : List Host.Cell
  poison : List Nat              -- memory keys / 8 of poisoned words
  scrub : List (Nat × Nat)       -- runs (first, count) of granules, memory key / 16, whose scrub tag is set
  groups : List Group
  teams : List Team
  launches : List Launch
  commits : List Commit
  locals : List Local
  locks : List Lock
  lockReqs : List LockReq
  chases : List Chase
  mats : List MatOp
  arrayFree : List (Nat × Nat)   -- core, first cycle after the last occupancy
  ligs : List LigEngine
  ligOps : List LigOp
  cmds : List Cmd
  reqs : List Req
  hints : List (Nat × Nat × Nat × Nat) -- prefetch hints on their way: endpoint, module byte, length, partition (08 R203)
  cached : List Cached
  tready : List TaskRec
  tpending : List TaskRec
  ttransit : List TaskRec
  treqs : List TaskReq
  proofs : List ProofCore
  parts : List Partition
  hws : List HwSlot
  pendq : List PendingQ
  preempts : List Preempt
  saved : List Saved
  modules : List Module
  tx : List TxStream
  rx : List RxStream
  wire : List Burst              -- bursts on their way to the package
  out : List Burst               -- bursts on their way from the package to modules
  grants : List Grant            -- grants the package holds
  given : List Grant             -- grants the package has issued
  asks : List Grant              -- requests for grants that wait for a receive slot of the package
  granted : List (Nat × Nat × Nat × Nat) -- plane, receive slot, channel: who got the last grant (17 R355: round-robin)
  grantWait : List (Nat × Nat × Nat × Nat) -- refused grant requests: peer, plane, channel, time to ask again
  sockets : List Socket
  lanes : List Lane
  fevput : BitVec 32
  fevget : BitVec 32
  fevhovf : BitVec 32
  fevrec : List (Nat × DWord × DWord)
  eseq : Nat                     -- events of the package so far
  cadence : Cadence
  boot : Boot
  hostq : List HostOp            -- host accesses that wait, oldest first
  ppw : List PpWrite             -- writes of packet processors that wait, oldest first
  deriving DecidableEq, Repr

/-- Why the machine stops. -/
inductive Fault
  /-- `exec` was asked to run an instruction while no agent issues (`State.cur` is none). Raised by every
  meaning of an issued instruction. Safe: the hardware has no such moment, so nothing true of it is lost. -/
  | noAgent
  deriving DecidableEq, Repr

/-- Why an instruction has no meaning. -/
inductive Refusal
  /-- The instruction is not modelled. Raised by a refused arm of `exec` only. Safe: the model stops where
  the hardware goes on. -/
  | notModelled (mnemonic : String)
  deriving DecidableEq, Repr

/-- One nanosecond in time units: a whole number of units for the period of every level (17 R368): the period
of level L is 32 * 1000 / (2050 * (32 - L)) ns. -/
def nsUnits : Nat := 144403552893600 * 41

/-- The press-clock period at a level, in time units. -/
def periodUnits (level : Nat) : Nat := 32 * 20 * nsUnits / (41 * (32 - level))

/-- A rejoin register at group start (07 R173). -/
def Rejoin.off : Rejoin := { enrolled := 0, arrived := 0, point := 0, parked := 0, valid := false }

/-- An empty trap record. -/
def TrapRec.zero : TrapRec := { a := 0, b := 0, c := 0, d := 0 }

/-- A proof core right after reset (14 R287, R291, 17 R362); its entry is pc 4 (log 7). -/
def ProofCore.init (c : Nat) : ProofCore :=
  { cluster := c, pc := 4, sregs := .replicate 128 0, halted := false, wait := none, lock := none, queue := []
    trec := .zero, orphovf := 0, dbgstat := 0, predl := 100, map := none, fev := [], feva := 0, fevb := 0
    fevovf := 0, notBefore := 0 }

/-- The allowance maxima of 08 R202. -/
def maxCeilB : Nat := 2 ^ 32 - 1

/-- A partition with the register values of reset (15 R310, 16 R339). Its register block is there from reset; the configuration
image gives it dies and slots (R344). -/
def Partition.init (p : Nat) (dies hw : List Nat) : Partition :=
  { p := p, dies := dies, hw := hw, tslice := 100000 * nsUnits, ceilB := maxCeilB, ceilC := 65535, pinShare := 256
    xroot := 0, reach0 := .allOnes 64, reach1 := .allOnes 64, lost := false, fbput := 0, fbget := 0, fbovf := 0
    fbctl := 0, fseq := 0, fb := [], shoots := [], qtbase := 0, qtcount := 0 }

/-- The host-visible state at reset (18 R372, R376). -/
def Boot.init : Boot :=
  { st := 1, code := 0, featacc := 0, lock := false, mbwin := .replicate 8 0, halt := 0, nonce := 0, attBusy := false
    attNonce := 0, attrep := [], mmEp := 0, mmPage := 0, mmEntry := 0, mmStat := 0, unc := 0, cor := 0, spares := 0
    tests := [], spareRows := [], raslog := [], msix := [], fw := none, cfg := none, endpoint := 0, leader := false
    members := [], mon := none, throttle := [], limits := (55, 100, 110), lastRead := [] }

/-- Cadence state at reset (17 R366). -/
def Cadence.init : Cadence :=
  { tick := 0, level := 0, pending := [], demands := [], own := 0, emerg := false, lost := false, lastTick := 0
    sent := 0, nextSend := 0 }

/-- The machine right after reset: BOOTSTAT.STATE 1, nothing resident, no socket present (18 R376, 17 R366). -/
def State.reset : State :=
  { cycle := 0, time := 0, issues := [], agenda := [], plan := none, cur := none, uid := 0, fresh := 0, mem := []
    poison := [], scrub := [], groups := [], teams := [], launches := [], commits := [], locals := [], locks := []
    lockReqs := [], chases := [], mats := [], arrayFree := [], ligs := [], ligOps := [], cmds := [], reqs := []
    hints := [], cached := [], tready := [], tpending := [], ttransit := [], treqs := [], proofs := []
    parts := (List.range 8).map fun p => Partition.init p [] [], hws := []
    pendq := [], preempts := [], saved := [], modules := [], tx := [], rx := [], wire := [], out := [], grants := []
    given := [], asks := [], granted := [], grantWait := [], sockets := [], lanes := [], fevput := 0, fevget := 0, fevhovf := 0, fevrec := []
    eseq := 0, cadence := .init, boot := .init, hostq := [], ppw := [] }

end Sys2Proof.Machine
end

