-- ==== Sys2Proof/Machine/Ops.lean ====
section
/-! DEFINITION. The named operations over memory, registers and groups that every meaning is written with:
the one memory and its keys, register bytes (01 R19), the end of an instruction (05 R116, R121), pending
commits (01 R31), taking a trap and halting a proof core (14 R287, R288), events and interrupts. -/

namespace Sys2Proof.Machine

/-- The outcome of an instruction or event. -/
abbrev Out := Host.Outcome State Fault Refusal

/-! ### Lists of records -/

/-- Replace the first record that satisfies `p`. -/
def replaceBy {α : Type} (p : α → Bool) (x : α) : List α → List α
  | [] => []
  | y :: ys => if p y then x :: ys else y :: replaceBy p x ys

/-- The n-th element, if there is one. -/
def nth {α : Type} : List α → Nat → Option α
  | [], _ => none
  | x :: _, 0 => some x
  | _ :: xs, n + 1 => nth xs n

/-- The list without its n-th element. -/
def dropNth {α : Type} : List α → Nat → List α
  | [], _ => []
  | _ :: xs, 0 => xs
  | x :: xs, n + 1 => x :: dropNth xs n

/-- No element twice. -/
def dedup : List Nat → List Nat
  | [] => []
  | x :: xs => x :: (dedup xs).filter (· != x)

/-- Sum of a list. -/
def sumL (xs : List Nat) : Nat := xs.foldl (· + ·) 0

/-- Greatest element, 0 for none. -/
def maxL (xs : List Nat) : Nat := xs.foldl max 0

/-! ### Memory: one list of cells in canonical form (log 4) -/

/-- The byte at a key; an unlisted key reads as 0. -/
def memGet : List Host.Cell → Nat → Byte
  | [], _ => 0
  | (k, v) :: m, a => if k = a then v else memGet m a

/-- Write a byte, keeping the keys rising and no entry 0. -/
def memSet : List Host.Cell → Nat → Byte → List Host.Cell
  | [], a, b => if b = 0 then [] else [(a, b)]
  | (k, v) :: m, a, b =>
    if a < k then (if b = 0 then (k, v) :: m else (a, b) :: (k, v) :: m)
    else if a = k then (if b = 0 then m else (a, b) :: m)
    else (k, v) :: memSet m a b

/-- Keys above a bound, strictly rising, no entry 0. -/
def memAbove : Nat → List Host.Cell → Bool
  | _, [] => true
  | lo, (k, v) :: m => decide (lo ≤ k) && v != 0 && memAbove (k + 1) m

/-- The canonical form of memory. -/
def Memory.wf (m : List Host.Cell) : Bool := memAbove 0 m

/-- Write several bytes, the first cell first. -/
def memSetAll (m : List Host.Cell) (cs : List Host.Cell) : List Host.Cell :=
  cs.foldl (fun m c => memSet m c.1 c.2) m

/-- Key of a byte of core k's store (01 R18). -/
def storeKey (k off : Nat) : Nat := k * 2 ^ 22 + off
/-- Key of byte 0 of a physical tile of core k (09 R204). -/
def tileKey (k tile : Nat) : Nat := 2 ^ 32 + k * 2 ^ 18 + tile * 4096
/-- Key of word (m, n) of a tile. -/
def tileWord (k tile m n : Nat) : Nat := tileKey k tile + 128 * m + 4 * n
/-- Key of a word of core k's value file (10 R230). -/
def valueKey (k i : Nat) : Nat := 2 ^ 33 + k * 2 ^ 16 + 4 * i
/-- Key of a byte of a proof core's memory (14 R286). -/
def proofKey (c off : Nat) : Nat := 2 ^ 34 + c * 2 ^ 16 + off
/-- Key of a byte of the boot staging store (18 R376). -/
def stagingKey (off : Nat) : Nat := 2 ^ 35 + off
/-- Key of a byte of a module's HBM4E (16 R334). The frame field of a table entry has 24 bits, and a module's 256 GiB hold 2^22 frames;
what a frame of 2^22 or more names is not stated, and the model gives each its own bytes (log 35). -/
def hbmKey (ep frame off : Nat) : Nat := 2 ^ 48 + ep * 2 ^ 40 + frame * 65536 + off

/-- One byte of memory. -/
def State.byte (s : State) (a : Nat) : Byte := memGet s.mem a

/-- `n` bytes from a key up. -/
def State.bytes (s : State) (a : Nat) : Nat → List Byte
  | 0 => []
  | n + 1 => s.byte a :: s.bytes (a + 1) n

/-- Little-endian value of `n` bytes. -/
def State.le (s : State) (a n : Nat) : Nat := leNat (s.bytes a n)

/-- Cells of consecutive bytes. -/
def cellsAt (a : Nat) : List Byte → List Host.Cell
  | [] => []
  | b :: bs => (a, b) :: cellsAt (a + 1) bs

/-- Cells of the `n` low bytes of a value. -/
def cellsLE (a n x : Nat) : List Host.Cell := cellsAt a (leBytes n x)

/-- The writes of an operation that still land (09 R222): all of them, or those inside the inherited keys. -/
def gated (g : Option (List (Nat × Nat))) (cs : List Host.Cell) : List Host.Cell :=
  match g with
  | none => cs
  | some rs => cs.filter fun c => rs.any fun r => decide (r.1 ≤ c.1) && decide (c.1 < r.2)

/-- Memory as an operation reads it: of what a handoff took from a predecessor's operation, zero, one of the two results that 09
R222 allows. -/
def State.gateView (s : State) (g : Option (List (Nat × Nat))) : State :=
  match g with
  | none => s
  | some rs =>
    { s with
      mem := s.mem.filter fun c => rs.any fun r => decide (r.1 ≤ c.1) && decide (c.1 < r.2)
      poison := s.poison.filter fun w => rs.any fun r => decide (r.1 < 8 * w + 8) && decide (8 * w < r.2) }

/-- A poisoned word is clean once a write covers all its 8 bytes (18 R390). -/
def covered (w : Nat) (cs : List Host.Cell) : Bool :=
  [0, 1, 2, 3, 4, 5, 6, 7].all fun i => cs.any (·.1 == 8 * w + i)

/-- Take one granule out of the runs of tagged granules. -/
def untag (rs : List (Nat × Nat)) (g : Nat) : List (Nat × Nat) :=
  rs.flatMap fun r =>
    if r.1 ≤ g ∧ g < r.1 + r.2 then
      (if r.1 < g then [(r.1, g - r.1)] else []) ++ (if g + 1 < r.1 + r.2 then [(g + 1, r.1 + r.2 - (g + 1))] else [])
    else [r]

/-- Take `n` granules from `g` up out of the runs. -/
def untagRun (rs : List (Nat × Nat)) (g n : Nat) : List (Nat × Nat) :=
  rs.flatMap fun r =>
    if g < r.1 + r.2 ∧ r.1 < g + n then
      (if r.1 < g then [(r.1, g - r.1)] else []) ++ (if g + n < r.1 + r.2 then [(g + n, r.1 + r.2 - (g + n))] else [])
    else [r]

/-- Write bytes; a write clears the scrub tag of its granule (11 R254) and the poison of a word it covers. -/
def State.write (s : State) (cs : List Host.Cell) : State :=
  { s with
    mem := memSetAll s.mem cs
    poison := s.poison.filter fun w => !covered w cs
    scrub := cs.foldl (fun rs c => untag rs (c.1 / 16)) s.scrub }

/-- Zero `n` bytes from a key up, and set the scrub tags of their granules (11 R254): a tagged granule reads as
zero, so the bytes are zeroed here and the tag is kept until a write or the scrubber clears it. -/
def State.zero (s : State) (a n : Nat) : State :=
  { s with
    mem := s.mem.filter fun c => !(decide (a ≤ c.1) && decide (c.1 < a + n))
    poison := s.poison.filter fun w => !(decide (a ≤ 8 * w) && decide (8 * w + 8 ≤ a + n))
    scrub := untagRun s.scrub (a / 16) ((n + 15) / 16) ++ [(a / 16, (n + 15) / 16)] }

/-- Whether one of `n` bytes lies in a poisoned word (18 R390). -/
def State.poisoned (s : State) (a n : Nat) : Bool :=
  s.poison.any fun w => decide (8 * w < a + n) && decide (a < 8 * w + 8)

/-- Key of the first poisoned word that some bytes meet. -/
def State.badKey (s : State) (a n : Nat) : Option Nat :=
  match s.poison.filter fun w => decide (8 * w < a + n) && decide (a < 8 * w + 8) with
  | [] => none
  | w :: ws => some (8 * ws.foldl min w)

/-- A free 64-bit value and the state that has used it up (log 3). -/
def State.freeWord (s : State) : DWord × State := (Config.freeValue s.fresh, { s with fresh := s.fresh + 1 })

/-! ### Finding and replacing -/

/-- The group in a slot. -/
def State.group? (s : State) (core slot : Nat) : Option Group :=
  s.groups.find? fun g => g.core == core && g.slot == slot

/-- Put a group back. -/
def State.setGroup (s : State) (g : Group) : State :=
  { s with groups := replaceBy (fun h => h.core == g.core && h.slot == g.slot) g s.groups }

/-- A team by uid. -/
def State.team? (s : State) (u : Nat) : Option Team := s.teams.find? (·.uid == u)
/-- Put a team back. -/
def State.setTeam (s : State) (t : Team) : State := { s with teams := replaceBy (·.uid == t.uid) t s.teams }
/-- A launch by uid. -/
def State.launch? (s : State) (u : Nat) : Option Launch := s.launches.find? (·.uid == u)
/-- Put a launch back. -/
def State.setLaunch (s : State) (l : Launch) : State := { s with launches := replaceBy (·.uid == l.uid) l s.launches }
/-- The proof core of a cluster; one that is not listed is as reset leaves it. -/
def State.proof (s : State) (c : Nat) : ProofCore := (s.proofs.find? (·.cluster == c)).getD (.init c)
/-- Put a proof core back. -/
def State.setProof (s : State) (p : ProofCore) : State :=
  { s with
    proofs := if s.proofs.any (·.cluster == p.cluster) then replaceBy (·.cluster == p.cluster) p s.proofs
              else s.proofs ++ [p] }
/-- A partition. -/
def State.part? (s : State) (p : Nat) : Option Partition := s.parts.find? (·.p == p)
/-- Put a partition back. -/
def State.setPart (s : State) (p : Partition) : State := { s with parts := replaceBy (·.p == p.p) p s.parts }
/-- A hardware queue slot. -/
def State.hw? (s : State) (n : Nat) : Option HwSlot := s.hws.find? (·.n == n)
/-- Put a slot back. -/
def State.setHw (s : State) (h : HwSlot) : State := { s with hws := replaceBy (·.n == h.n) h s.hws }
/-- A command by uid. -/
def State.cmd? (s : State) (u : Nat) : Option Cmd := s.cmds.find? (·.uid == u)
/-- Put a command back. -/
def State.setCmd (s : State) (c : Cmd) : State := { s with cmds := replaceBy (·.uid == c.uid) c s.cmds }
/-- A request. -/
def State.req? (s : State) (c n : Nat) : Option Req := s.reqs.find? fun r => r.cmd == c && r.n == n
/-- Put a request back. -/
def State.setReq (s : State) (r : Req) : State :=
  { s with reqs := replaceBy (fun q => q.cmd == r.cmd && q.n == r.n) r s.reqs }

/-- Die of a cluster and cluster of a core (01 R12). -/
def dieOf (cluster : Nat) : Nat := cluster / 12
/-- Cluster of a core. -/
def clusterOf (core : Nat) : Nat := core / 4

/-- The partition that holds a die (16 R344); 0 before the configuration image divides the package. -/
def State.partOfDie (s : State) (d : Nat) : Nat :=
  match s.parts.find? (fun p => p.dies.any (· == d)) with
  | some p => p.p
  | none => 0

/-- The partition of a core. -/
def State.partOf (s : State) (core : Nat) : Nat := s.partOfDie (dieOf (clusterOf core))

/-- Groups of a team. -/
def State.members (s : State) (team : Nat) : List Group := s.groups.filter (·.team == team)

/-- Seat of a team on a core. -/
def Team.seat? (t : Team) (core : Nat) : Option Seat := t.seats.find? (·.core == core)

/-- A team is paired when it sits on two cores (01 R14). -/
def Team.paired (t : Team) : Bool := decide (1 < t.seats.length)

/-- The other core of a paired team. -/
def Team.partner? (t : Team) (core : Nat) : Option Seat := t.seats.find? (·.core != core)

/-! ### Registers (01 R19, R29) -/

/-- Key of a scalar register's bytes. -/
def Group.skey (g : Group) (r : Nat) : Nat := storeKey g.core (g.sblk + 8 * r)
/-- Key of lane i of a vector register. -/
def Group.vkey (g : Group) (v i : Nat) : Nat := storeKey g.core (g.win + v * 4 * g.width + 4 * i)

/-- A scalar register; s0 reads as zero. -/
def State.sreg (s : State) (g : Group) (r : Nat) : DWord := if r = 0 then 0 else .ofNat 64 (s.le (g.skey r) 8)
/-- Lane i of a vector register. -/
def State.vlane (s : State) (g : Group) (v i : Nat) : Nat := s.le (g.vkey v i) 4
/-- The bytes that a write of a scalar register changes; none for s0. -/
def Group.scells (g : Group) (r : Nat) (x : DWord) : List Host.Cell := if r = 0 then [] else cellsLE (g.skey r) 8 x.toNat
/-- The bytes that a write of a lane changes. -/
def Group.vcells (g : Group) (v i x : Nat) : List Host.Cell := cellsLE (g.vkey v i) 4 x

/-- A mask register; m0 reads as all lanes. -/
def Group.mask (g : Group) (m : MReg) : DWord := if m = 0 then lanesMask g.width else g.masks[m.toNat]
/-- Write a mask register; m0 ignores it, and bits [63:W] are written as zero. -/
def Group.setMask (g : Group) (m : MReg) (x : DWord) : Group :=
  if m = 0 then g else { g with masks := g.masks.set m.toNat (x &&& lanesMask g.width) }

/-- Lanes parked on some rejoin register (01 R30). -/
def Group.parked (g : Group) : DWord := g.rejoins.toList.foldl (fun x j => x ||| j.parked) 0
/-- Running lanes below W (07 R170). -/
def Group.running (g : Group) : DWord := lanesMask g.width &&& ~~~ g.parked
/-- Active lanes under a guard (01 R29). -/
def Group.active (g : Group) (gd : MReg) : DWord := g.mask gd &&& g.running

/-- Whether bit i of a mask is set. -/
def inMask (x : DWord) (i : Nat) : Bool := x.toNat / 2 ^ i % 2 == 1
/-- The lanes below `w` in a mask, in increasing order. -/
def lanesIn (w : Nat) (x : DWord) : List Nat := (List.range w).filter (inMask x)
/-- The mask of a list of lanes. -/
def maskOf (ls : List Nat) : DWord := ls.foldl (fun x i => x ||| BitVec.ofNat 64 (2 ^ i)) 0

/-- A scalar register of the agent that issues. -/
def State.sregA (s : State) (a : Agent) (r : Nat) : DWord :=
  match a with
  | .group k n =>
    match s.group? k n with
    | some g => s.sreg g r
    | none => 0
  | .proof c => if r = 0 then 0 else (s.proof c).sregs.toList.getD r 0

/-- Write a scalar register of the agent that issues; s0 discards it. -/
def State.setSregA (s : State) (a : Agent) (r : Nat) (x : DWord) : State :=
  match a with
  | .group k n =>
    match s.group? k n with
    | some g => s.write (g.scells r x)
    | none => s
  | .proof c =>
    if r = 0 then s
    else let p := s.proof c; s.setProof { p with sregs := p.sregs.setIfInBounds r x }

/-- The flags that commits of a cycle have brought into %fstat. -/
def Group.lateIn (g : Group) (cycle : Nat) : Flags := if g.late.1 = cycle then g.late.2 else 0

/-- OR a flag set into %fstat of the issuing group (02 R47); a proof core has none. -/
def State.raise (s : State) (a : Agent) (f : Flags) : State :=
  match a with
  | .group k n =>
    match s.group? k n with
    | some g => s.setGroup { g with fstat := g.fstat ||| f }
    | none => s
  | .proof _ => s

/-- OR a flag set into a group's %fstat at a commit, and keep it for a WRSR that issues in the same cycle: the value that WRSR
writes applies first, whichever turn comes first (02 R47). -/
def Group.commitFlags (g : Group) (cycle : Nat) (f : Flags) : Group :=
  { g with fstat := g.fstat ||| f, late := (cycle, g.lateIn cycle ||| f) }

/-- The same for the group of an agent. -/
def State.raiseLate (s : State) (a : Agent) (f : Flags) : State :=
  match a with
  | .group k n =>
    match s.group? k n with
    | some g => s.setGroup (g.commitFlags s.cycle f)
    | none => s
  | .proof _ => s

/-! ### Interrupts and halts -/

/-- Raise an MSI-X vector (18 R374). -/
def State.msix (s : State) (v : Nat) : State := { s with boot := { s.boot with msix := s.boot.msix ++ [v] } }

/-- Halt a proof core at an instruction (14 R287) and report it to the host (18 R372, R374). A core that waits in an instruction
leaves it. -/
def State.halt (s : State) (c : Nat) : State :=
  let s := s.setProof { s.proof c with halted := true, wait := none }
  State.msix { s with boot := { s.boot with halt := s.boot.halt ||| 2 ^ c } } 1

/-! ### Traps (14 R288-R290) -/

/-- Put a record into a proof core's trap queue; the NOSTOP part holds 32, and ORPHOVF counts what it cannot take. -/
def State.queueRecord (s : State) (cluster : Nat) (nostop : Bool) (r : TrapRec) : State :=
  let p := s.proof cluster
  if nostop && decide (32 ≤ (p.queue.filter (·.1)).length) then s.setProof { p with orphovf := p.orphovf + 1 }
  else s.setProof { p with queue := p.queue ++ [(nostop, r)] }

/-- Pending commits of an agent. -/
def State.commitsOf (s : State) (a : Agent) : List Commit := s.commits.filter (·.agent == a)

/-- TRECA (14 R290). -/
def recordA (team part : Nat) (paired nostop : Bool) (core slot hw code cause : Nat) : DWord :=
  .ofNat 64 (cause + 2 ^ 8 * code + 2 ^ 16 * hw + 2 ^ 22 * slot + 2 ^ 27 * (core % 4) + 2 ^ 29 * nostop.toNat
    + 2 ^ 30 * paired.toNat + 2 ^ 32 * part + 2 ^ 48 * (team % 2 ^ 16))

/-- The record of a stopped group. -/
def State.trapRecord (s : State) (g : Group) (cause code : Nat) (pc x y : DWord) : TrapRec :=
  let num := ((s.team? g.team).map (·.num)).getD 0
  let hw := (((s.team? g.team).bind fun t => s.launch? t.launch).map (·.hw)).getD 0
  let paired := ((s.team? g.team).map (·.paired)).getD false
  { a := recordA num (s.partOf g.core) paired false g.core g.slot hw code cause
    b := pc &&& lanesMask 57, c := x, d := y }

/-- Queue the record of a trapped group once its pending commits are complete (14 R288, R290). -/
def State.settleTrap (s : State) (core slot : Nat) : State :=
  match s.group? core slot with
  | some g =>
    match g.run with
    | .trapped r false =>
      if (s.commitsOf (.group core slot)).isEmpty then
        State.queueRecord (s.setGroup { g with run := .trapped r true }) (clusterOf core) false r
      else s
    | _ => s
  | none => s

/-- Take a trap at the issuing instruction: the pc that is kept and reported, the cause, the code of TRAP and
BRK, and the details TRECC and TRECD. A group stops; a proof core halts. -/
def State.trapAt (s : State) (c : Cur) (pc : DWord) (cause code : Nat) (x y : DWord) : State :=
  match c.agent with
  | .proof k => State.halt (s.setProof { s.proof k with pc := pc }) k
  | .group k n =>
    match s.group? k n with
    | none => s
    | some g =>
      let r := s.trapRecord g cause code pc x y
      let s := { s with commits := s.commits.map fun (m : Commit) => if m.agent == c.agent then { m with left := 0 } else m }
      State.settleTrap (s.setGroup { g with pc := pc, run := .trapped r false }) k n

/-- Take a trap with no details, the pc at the instruction. -/
def State.trap (s : State) (c : Cur) (cause : Nat) : State := s.trapAt c c.pc cause 0 0 0

/-- Causes (14 R289). -/
def cILLOP : Nat := 0x01
/-- BADTARGET. -/
def cBADTARGET : Nat := 0x02
/-- LINEPARITY. -/
def cLINEPARITY : Nat := 0x03
/-- PRIV. -/
def cPRIV : Nat := 0x04
/-- ALIGN. -/
def cALIGN : Nat := 0x05
/-- LOCALRANGE. -/
def cLOCALRANGE : Nat := 0x06
/-- EARLYTOUCH. -/
def cEARLYTOUCH : Nat := 0x07
/-- ABSENTPEER. -/
def cABSENTPEER : Nat := 0x08
/-- FORMAT. -/
def cFORMAT : Nat := 0x09
/-- DESCRIPTOR. -/
def cDESCRIPTOR : Nat := 0x0A
/-- SHAPE. -/
def cSHAPE : Nat := 0x0B
/-- LIGORDER. -/
def cLIGORDER : Nat := 0x0C
/-- LIGDEPTH. -/
def cLIGDEPTH : Nat := 0x0D
/-- UNCORR. -/
def cUNCORR : Nat := 0x0E
/-- BREAK. -/
def cBREAK : Nat := 0x0F
/-- TRAPI. -/
def cTRAPI : Nat := 0x10
/-- FORMEFAULT. -/
def cFORMEFAULT : Nat := 0x11
/-- PREEMPTLATE. -/
def cPREEMPTLATE : Nat := 0x12
/-- STRANDED. -/
def cSTRANDED : Nat := 0x13
/-- REJOIN. -/
def cREJOIN : Nat := 0x14
/-- LOCK. -/
def cLOCK : Nat := 0x15
/-- CODEFAULT. -/
def cCODEFAULT : Nat := 0x16
/-- ORPHAN. -/
def cORPHAN : Nat := 0x17
/-- SAVEFAIL. -/
def cSAVEFAIL : Nat := 0x18

/-! ### The end of an instruction -/

/-- An instruction of an agent has issued: it counts in each window (01 R31). -/
def countWindow (cycle : Nat) (a : Agent) (m : Commit) : Commit :=
  if m.agent == a && decide (0 < m.left) then
    { m with left := m.left - 1, due := if m.left = 1 then max m.due cycle else m.due }
  else m

/-- Set the pc of an agent. -/
def State.setPc (s : State) (a : Agent) (pc : DWord) : State :=
  match a with
  | .proof k => s.setProof { s.proof k with pc := pc }
  | .group k n =>
    match s.group? k n with
    | some g => s.setGroup { g with pc := pc, fresh := false, checkPc := false }
    | none => s

/-- The instruction completes and control goes to `pc` (07 R170). -/
def State.goTo (s : State) (c : Cur) (pc : DWord) : State :=
  State.setPc { s with commits := s.commits.map (countWindow s.cycle c.agent) } c.agent pc

/-- A group begins anew to issue from a line: the one it is in is read and checked again (05 R118). -/
def State.leaveLine (s : State) (a : Agent) : State :=
  match a with
  | .group k n =>
    match s.group? k n with
    | some g => s.setGroup { g with line := none }
    | none => s
  | .proof _ => s

/-- The instruction completes and transfers control (07 R170): its target's line is entered, be it the line it stands in (05 R118). -/
def State.jump (s : State) (c : Cur) (pc : DWord) : State := (s.goTo c pc).leaveLine c.agent

/-- A broken filler tail behind a completed instruction takes ILLOP at its first offending syllable (05 R121). -/
def State.tailTrap (s : State) (c : Cur) : State :=
  match c.tail with
  | none => s
  | some p => s.trapAt c p cILLOP 0 0 0

/-- The instruction completes and the next one follows (05 R116); a broken filler tail behind it takes ILLOP
at its first offending syllable, and the completed instruction keeps its effect (05 R121). -/
def State.finish (s : State) (c : Cur) : State := (s.goTo c (c.tail.getD c.next)).tailTrap c

/-- Issue cycles of a core so far. -/
def State.issueCount (s : State) (core : Nat) : Nat :=
  match s.issues.find? (·.1 == core) with
  | some x => x.2
  | none => 0

/-- A group becomes ready, its instruction complete. An instruction that has waited counts in earlier windows here, at its
completion, while the cycle of its issue is that of its arrival (log 34). -/
def State.resume (s : State) (c : Cur) : State :=
  match c.agent with
  | .proof k => State.finish (s.setProof { s.proof k with wait := none }) c
  | .group k n =>
    match s.group? k n with
    | some g => State.finish (s.setGroup { g with run := .ready, notBefore := s.cycle + 1 }) c
    | none => s

/-- The group of an instruction waits. -/
def State.wait (s : State) (c : Cur) (w : Wait) : State :=
  match c.agent with
  | .group k n =>
    match s.group? k n with
    | some g => s.setGroup { g with run := .waiting w }
    | none => s
  | .proof _ => s

/-- The instruction does not issue after all: the agent's issue record is as before (01 R28). -/
def State.unissue (s : State) (c : Cur) : State :=
  match c.agent with
  | .group k n =>
    match s.group? k n with
    | some g => s.setGroup { g with lastIssue := c.last }
    | none => s
  | .proof _ => s

/-- The instruction does not issue before a cycle (04 R100, R101). -/
def State.retryAt (s : State) (c : Cur) (t : Nat) : State :=
  match c.agent with
  | .group k n =>
    match s.group? k n with
    | some g => s.setGroup { g with lastIssue := c.last, notBefore := max t (s.cycle + 1) }
    | none => s
  | .proof k => s.setProof { s.proof k with notBefore := max t (s.cycle + 1) }

/-- The instruction is held by a bank: its unit stays chosen, and each held cycle is a retry (01 R21, 15 R323). -/
def State.bankRetry (s : State) (c : Cur) : State :=
  match c.agent with
  | .group k n =>
    match s.group? k n with
    | some g => s.setGroup { g with lastIssue := c.last, notBefore := s.cycle + 1, held := true }
    | none => s
  | .proof _ => s

/-- The group waits, and the instruction issues again when it is released. -/
def State.waitAgain (s : State) (c : Cur) (w : Wait) : State := State.unissue (s.wait c w) c

/-- A waiting group becomes ready; its instruction issues again, no earlier than the next cycle. -/
def State.wake (s : State) (g : Group) : State :=
  s.setGroup { g with run := .ready, notBefore := s.cycle + 1 }

/-- An instruction waits at its proof core. -/
def State.pwait (s : State) (k : Nat) (w : PWait) : State := s.setProof { s.proof k with wait := some w }

/-- A fresh number for a command, an access or a team. -/
def State.newUid (s : State) : Nat × State := (s.uid, { s with uid := s.uid + 1 })

/-- A pending commit with nothing to write yet. -/
def Commit.of (uid : Nat) (a : Agent) (due left : Nat) : Commit :=
  { uid := uid, agent := a, due := due, left := left, cells := [], regs := [], formes := [], reserved := false
    flags := 0 }

/-- The bytes or register that a scalar result changes, as part of a commit. -/
def Commit.withScalar (m : Commit) (s : State) (r : Nat) (x : DWord) : Commit :=
  match m.agent with
  | .group k n =>
    match s.group? k n with
    | some g => { m with cells := m.cells ++ g.scells r x }
    | none => m
  | .proof _ => { m with regs := if r = 0 then m.regs else m.regs ++ [(r, x)] }

/-- Complete a long-latency instruction: its result commits later (01 R31). Its commit is pending before a broken tail behind
it takes its trap, which waits for it (R32). -/
def State.later (s : State) (c : Cur) (lat la : Nat) (k : Commit → Commit) : State :=
  let m := k (Commit.of s.uid c.agent (s.cycle + lat - 1) la)
  let s := State.goTo { s with uid := s.uid + 1 } c (c.tail.getD c.next)
  State.tailTrap { s with commits := s.commits ++ [m] } c

/-! ### Who may issue an instruction -/

/-- An instruction of a compute core only: on a proof core it halts the proof core (14 R285, R287). -/
def withGroup (s : State) (k : Cur → Group → State) : Out :=
  match s.cur with
  | none => .fault .noAgent
  | some c =>
    match c.agent with
    | .proof _ => .next (s.trap c cILLOP)
    | .group core slot =>
      match s.group? core slot with
      | none => .fault .noAgent
      | some g => .next (k c g)

/-- An instruction of groups and proof cores. -/
def withAgent (s : State) (k : Cur → State) : Out :=
  match s.cur with
  | none => .fault .noAgent
  | some c =>
    match c.agent with
    | .proof _ => .next (k c)
    | .group core slot =>
      match s.group? core slot with
      | none => .fault .noAgent
      | some _ => .next (k c)

/-- A privileged instruction: on a compute core it takes PRIV at either privilege (14 R284, 05 R133 step 6). -/
def withProof (s : State) (k : Cur → ProofCore → State) : Out :=
  match s.cur with
  | none => .fault .noAgent
  | some c =>
    match c.agent with
    | .proof p => .next (k c (s.proof p))
    | .group core slot =>
      match s.group? core slot with
      | none => .fault .noAgent
      | some _ => .next (s.trap c cPRIV)

/-! ### Chase tables (03 R80, R81) -/

/-- Whether bytes [lo, lo + n) of a core's store overlap a span. -/
def Span.overlaps (x : Span) (core lo n : Nat) : Bool :=
  x.core == core && decide (lo < x.hi) && decide (x.lo < lo + n)

/-- An access to bytes of a core takes EARLYTOUCH (R81). -/
def State.early (s : State) (store : Bool) (core lo n : Nat) : Bool :=
  s.chases.any fun e => (e.span.dest || store) && e.span.overlaps core lo n

/-! ### Local addresses (01 R22, R23) -/

/-- The bytes an aperture selects: core, store offset, size. -/
structure Region where
  core : Nat
  base : Nat
  size : Nat
  lat : Nat
  deriving DecidableEq, Repr

/-- What an aperture selects for a group. -/
inductive Aperture | none | absent | region (r : Region)
  deriving DecidableEq, Repr

/-- The folio of a team on a core as a region; empty when it has none there. -/
def Team.folioOn (t : Team) (core lat : Nat) : Region :=
  match t.seat? core with
  | some x => { core := core, base := x.folio, size := t.krec.folio, lat := lat }
  | none => { core := core, base := 0, size := 0, lat := lat }

/-- A member of the cluster set of a team that sits on a core and has not exited (R23, 03 R90). -/
def State.peer? (s : State) (t : Team) (core : Nat) : Option Team :=
  match t.cset with
  | none => none
  | some n => s.teams.find? fun u => u.launch == t.launch && u.cset == some n && !u.exited && (u.seat? core).isSome

/-- The aperture that bits [31:28] of a local address select (R22). -/
def State.aperture (s : State) (g : Group) (a : Nat) : Aperture :=
  match s.team? g.team with
  | none => .none
  | some t =>
    let ap := a / 2 ^ 28 % 16
    if ap = 0 ∨ ap = 8 then .region (t.folioOn g.core 20)
    else if ap = 1 then .region { core := g.core, base := g.win, size := g.vregs * 4 * g.width, lat := 20 }
    else if ap = 2 then .region { core := g.core, base := g.sblk, size := 1024, lat := 20 }
    else if ap = 3 then
      match t.partner? g.core with
      | some x => .region { core := x.core, base := x.folio, size := t.krec.folio, lat := 34 }
      | none => .region { core := g.core, base := 0, size := 0, lat := 34 }
    else if 4 ≤ ap ∧ ap ≤ 7 then
      let k := 4 * clusterOf g.core + (ap - 4)
      if k = g.core then .region (t.folioOn k 20)
      else if (t.partner? g.core).any (·.core == k) then .region (t.folioOn k 34)
      else
        match s.peer? t k with
        | some u => .region (u.folioOn k (if k / 2 = g.core / 2 then 34 else 60))
        | none => .absent
    else .none

/-- The first step of R181 that an access of `n` bytes at a local address fails: 0 for none. `acc` are the
apertures the entry accepts, `plain8` says that it keeps the aperture 0x8 rules. -/
def State.addrStep (s : State) (g : Group) (acc : List Nat) (store plain8 : Bool) (a n : Nat) : Nat :=
  let ap := a / 2 ^ 28 % 16
  let off := a % 2 ^ 28
  if !acc.any (· == ap) then 1
  else
    match s.aperture g a with
    | .none => 1
    | .absent => 2
    | .region r =>
      if a % n ≠ 0 ∨ (ap = 8 ∧ !plain8) then 3
      else if r.size < off + n then 4
      else if s.early store r.core (r.base + off) n then 5
      else 0

/-- Cause of a failed step of R181. -/
def stepCause : Nat → Nat
  | 1 => cLOCALRANGE
  | 2 => cABSENTPEER
  | 3 => cALIGN
  | 4 => cLOCALRANGE
  | _ => cEARLYTOUCH

/-- Memory key and latency of a checked local address. -/
def State.locate (s : State) (g : Group) (a : Nat) : Nat × Nat :=
  match s.aperture g a with
  | .region r => (storeKey r.core (r.base + a % 2 ^ 28), r.lat)
  | _ => (0, 20)

/-- Core that holds a memory key of a store, and the offset in it. -/
def keyCore (key : Nat) : Nat := key / 2 ^ 22
/-- Store offset of a key. -/
def keyOff (key : Nat) : Nat := key % 2 ^ 22

/-- All the local apertures. -/
def apAll : List Nat := [0, 1, 2, 3, 4, 5, 6, 7, 8]
/-- Aperture 0x0 only. -/
def ap0 : List Nat := [0]

/-- Take the trap of a failed group-level address check. -/
def State.addrTrap (s : State) (c : Cur) (step a : Nat) : State :=
  s.trapAt c c.pc (stepCause step) 0 (.ofNat 64 a) 1

/-! ### Barriers (08 R195) -/

/-- Whether a group waits at TMBAR. -/
def Group.inTmbar (g : Group) : Bool :=
  match g.run with
  | .waiting (.tmbar _) => true
  | _ => false

/-- Whether a group waits at CLBAR. -/
def Group.inClbar (g : Group) : Bool :=
  match g.run with
  | .waiting (.clbar _) => true
  | _ => false

/-- The instruction a barrier completes. -/
def Group.barCur (g : Group) : Option Cur :=
  match g.run with
  | .waiting (.tmbar c) => some c
  | .waiting (.clbar c) => some c
  | _ => none

/-- Teams of the cluster set of a team, itself included (01 R17). -/
def State.setOf (s : State) (t : Team) : List Nat :=
  match t.cset with
  | none => [t.uid]
  | some n => (s.teams.filter fun u => u.launch == t.launch && u.cset == some n).map (·.uid)

/-- Release the given groups from their barrier. -/
def State.release (s : State) (gs : List Group) : State :=
  gs.foldl (fun s g => match g.barCur with
    | some c => s.resume c
    | none => s) s

/-- A group's arrival counts: the arrival is a release, so its local accesses are performed first (04 R114). -/
def State.arrived (s : State) (g : Group) : Bool := !s.locals.any (·.agent == .group g.core g.slot)

/-- Complete the team's barriers if every group that has not exited has arrived (R195). -/
def State.barriers (s : State) (team : Nat) : State :=
  match s.team? team with
  | none => s
  | some t =>
    let live := (s.members team).filter (·.run != .exited)
    let s := if !live.isEmpty && live.all (fun g => g.inTmbar && s.arrived g) then s.release live else s
    let set := s.setOf t
    let all := (s.groups.filter fun g => set.any (· == g.team)).filter (·.run != .exited)
    if !all.isEmpty && all.all (fun g => g.inClbar && s.arrived g) then s.release all else s

end Sys2Proof.Machine
end

