-- ==== Sys2Proof/Machine/Operands.lean ====
section
/-! DEFINITION. The operands of every instruction: the registers each one names, with the checks of 05 R127 at
issue and of 18 R390 on the registers it reads, and the shared moulds of scalar and vector results
(06 R138, R139): operand B of a literal form, short-latency writes, and results that commit later. -/

namespace Sys2Proof.Machine

/-- A register an instruction names: scalar or vector, read or written, or a galley tile. -/
inductive Opd | sr (r : Nat) | sw (r : Nat) | vr (v : Nat) | vw (v : Nat) | tile (n : Nat)
  deriving DecidableEq, Repr

/-- A block of scalar registers; a block field of 0 names none (08 R197). -/
def blockOf (r k : Nat) : List Opd := if r = 0 then [] else (List.range k).map fun i => .sr (r + i)

/-- The offset register of a vector load. -/
def modeOpds : VMode → List Opd
  | .offset b => [.vr b.toNat]
  | _ => []

/-- The offset register of a vector store. -/
def offOpds : Option VReg → List Opd
  | some b => [.vr b.toNat]
  | none => []

/-- The second data register of width d (08 R182). -/
def wideOpd (store : Bool) (wd : Width) (d : Nat) : List Opd :=
  if wd = .d then [if store then .vr (d + 1) else .vw (d + 1)] else []

/-- The registers an instruction names. -/
def Instr.opds : Instr → List Opd
  | .brs _ a _ | .jmp a | .mmovToMask _ a | .arinitLiteral a _ _ | .araddLiteral _ a _ _ | .forme _ _ a _
  | .ligeval a | .handoff _ a _ | .wrsr _ a | .csrwr _ a => [.sr a.toNat]
  | .callLong d a | .smovLong _ d a | .saddLiteral _ d a _ | .ssubLiteral _ d a _ | .smulLiteral _ d a _
  | .smulhLiteral _ d a _ | .sdivLiteral _ _ d a _ | .sremLiteral _ _ d a _ | .sandLiteral _ d a _
  | .sorLiteral _ d a _ | .sxorLiteral _ d a _ | .sshlLiteral _ d a _ | .sshrLiteral _ d a _
  | .ssarLiteral _ d a _ | .sminLiteral _ d a _ | .smaxLiteral _ d a _ | .scmpLiteral _ _ d a _
  | .spopcLong _ d a | .sclzLong _ d a | .sbfx _ d a _ _ | .sldLong _ _ _ d a _ | .sldLiteral _ _ _ d a _
  | .ll _ _ _ d a _ | .twinSet d a | .taskdone d a | .dbgmap d a | .dbgrd _ _ d a _ | .preemptQ d a
  | .xlatinvPg d a | .xlatinvAll d a | .xlatinvUnreach d a | .xlatinvReach d a => [.sw d.toNat, .sr a.toNat]
  | .callLiteral d _ | .sli _ d _ | .mmovToScalar d _ | .mpopc d _ | .mfirst d _ | .twinLim d | .twinOut d
  | .grow d _ | .dbgmapU d | .csrrd d _ | .tqnextRead d | .fevnextRead d => [.sw d.toNat]
  | .ret e => [.sr e.toNat]
  | .smovShort d e | .spopcShort d e | .sclzShort d e => [.sw d.toNat, .sr e.toNat]
  | .saddLong _ d a b | .ssubLong _ d a b | .smulLong _ d a b | .smulhLong _ d a b | .sdivLong _ _ d a b
  | .sremLong _ _ d a b | .sandLong _ d a b | .sorLong _ d a b | .sxorLong _ d a b | .sshlLong _ d a b
  | .sshrLong _ d a b | .ssarLong _ d a b | .sminLong _ d a b | .smaxLong _ d a b | .scmpLong _ _ d a b
  | .arwait _ d a _ b | .artest _ d a _ b | .taskq d a b | .taskpush d a b | .launch d a b | .preempt d a b
    => [.sw d.toNat, .sr a.toNat, .sr b.toNat]
  | .ssel d a b c | .saddr _ d a b c _ | .satom _ _ _ _ _ d a b c | .tgather d a b c | .bulkld d a b c
  | .bulkst d a b c => [.sw d.toNat, .sr a.toNat, .sr b.toNat, .sr c.toNat]
  | .sbfi _ d a _ _ => [.sr d.toNat, .sw d.toNat, .sr a.toNat]
  | .vmovShort _ d e | .vabsShort _ d e | .vpopcShort _ d e | .vclzShort _ d e | .vfabsShort _ d e
  | .vfnegShort _ d e | .vrcpShort _ _ d e | .vrsqShort _ _ d e | .vsqrtShort _ _ d e | .vexp2Short _ _ d e
  | .vlog2Short _ _ d e | .vsinShort _ _ d e | .vcosShort _ _ d e | .vtanhShort _ _ d e
    => [.vw d.toNat, .vr e.toNat]
  | .vmovLong _ d a | .vaddLiteral _ _ d a _ | .vsubLiteral _ _ d a _ | .vmulLiteral _ _ d a _
  | .vmulhLiteral _ _ d a _ | .vaddsatLiteral _ _ d a _ | .vsubsatLiteral _ _ d a _ | .vandLiteral _ _ d a _
  | .vorLiteral _ _ d a _ | .vxorLiteral _ _ d a _ | .vshlLiteral _ _ d a _ | .vshrLiteral _ _ d a _
  | .vsarLiteral _ _ d a _ | .vminLiteral _ _ d a _ | .vmaxLiteral _ _ d a _ | .vabsLong _ _ d a
  | .vpopcLong _ _ d a | .vclzLong _ _ d a | .vbfx _ _ d a _ _ | .vfaddLiteral _ _ _ d a _
  | .vfsubLiteral _ _ _ d a _ | .vfmulLiteral _ _ _ d a _ | .vfminLiteral _ _ d a _ | .vfmaxLiteral _ _ d a _
  | .vfabsLong _ _ d a | .vfnegLong _ _ d a | .vrcpLong _ _ _ _ d a | .vrsqLong _ _ _ _ d a
  | .vsqrtLong _ _ _ _ d a | .vexp2Long _ _ _ d a | .vlog2Long _ _ _ d a | .vsinLong _ _ _ d a
  | .vcosLong _ _ _ d a | .vtanhLong _ _ _ d a | .vcvt _ _ _ _ _ d a | .vfrint _ _ _ d a
  | .vrotLiteral _ _ d a _ _ | .vred _ _ _ _ d a _ | .vscan _ _ _ _ _ d a _ | .vcompact _ _ d a _
  | .vexpand _ _ d a _ => [.vw d.toNat, .vr a.toNat]
  | .vmovBcast _ d a => [.vw d.toNat, .sr a.toNat]
  | .vli _ _ d _ => [.vw d.toNat]
  | .vaddLong _ _ d a b | .vsubLong _ _ d a b | .vmulLong _ _ d a b | .vmulhLong _ _ d a b
  | .vaddsatLong _ _ d a b | .vsubsatLong _ _ d a b | .vandLong _ _ d a b | .vorLong _ _ d a b
  | .vxorLong _ _ d a b | .vshlLong _ _ d a b | .vshrLong _ _ d a b | .vsarLong _ _ d a b
  | .vminLong _ _ d a b | .vmaxLong _ _ d a b | .vsel _ d a b _ | .vfaddLong _ _ _ d a b
  | .vfsubLong _ _ _ d a b | .vfmulLong _ _ _ d a b | .vfminLong _ _ d a b | .vfmaxLong _ _ d a b
  | .vdivLong _ _ _ _ d a b | .vshfl _ _ _ d a b _ => [.vw d.toNat, .vr a.toNat, .vr b.toNat]
  | .vmad _ _ d a b c | .vdot4 _ _ _ _ d a b c | .vfma _ _ _ d a b c | .vatom _ _ _ _ _ _ d a b c
    => [.vw d.toNat, .vr a.toNat, .vr b.toNat, .vr c.toNat]
  | .vcmpLong _ _ _ _ a b | .vfcmpLong _ _ _ _ a b => [.vr a.toNat, .vr b.toNat]
  | .vcmpLiteral _ _ _ _ a _ | .vfcmpLiteral _ _ _ _ a _ | .mballot _ a _ => [.vr a.toNat]
  | .vdivShort _ _ d e => [.vr d.toNat, .vw d.toNat, .vr e.toNat]
  | .vrotLong _ _ d a b _ | .vbcast _ _ d a b _ => [.vw d.toNat, .vr a.toNat, .sr b.toNat]
  | .vldLong _ _ md wd _ d a _ | .vldLiteral _ _ md wd _ d a _
    => [.vw d.toNat, .sr a.toNat] ++ modeOpds md ++ wideOpd false wd d.toNat
  | .vstLong _ off wd d a _ | .vstLiteral _ off wd d a _
    => [.vr d.toNat, .sr a.toNat] ++ offOpds off ++ wideOpd true wd d.toNat
  | .sstLong _ d a _ | .sstLiteral _ d a _ | .su _ _ d a _ | .dbgwr _ d a _ => [.sr d.toNat, .sr a.toNat]
  | .arinitLong a _ b | .araddLong _ a _ b | .thint a b | .ligbind _ a b | .ligemit _ a b
    => [.sr a.toNat, .sr b.toNat]
  | .tfetch d a b c | .tmcast _ d a b c | .tstore d a b c | .treduce _ d a b c | .tfill d a b c
  | .pagereq d a b c => [.sw d.toNat, .sr a.toNat, .sr b.toNat] ++ blockOf c.toNat 3
  | .tcopy d a b c => [.sw d.toNat, .sr a.toNat, .sr b.toNat] ++ blockOf c.toNat 6
  | .tatom _ _ d a b c => [.sw d.toNat, .sr b.toNat, .sr c.toNat] ++ blockOf a.toNat 2
  | .formeR _ _ a => blockOf a.toNat 8
  | .mma _ _ d _ _ c => [.tile d.toNat, .sr c.toNat]
  | .mzero d => [.tile d.toNat]
  | .mldg d _ b => [.tile d.toNat, .sr b.toNat]
  | .mstg _ a b => [.tile a.toNat, .sr b.toNat]
  | .mcvt _ _ _ a c => [.tile a.toNat, .sr c.toNat]
  | .maddg _ _ d a b => [.tile d.toNat, .tile a.toNat, .tile b.toNat]
  | .rdsr _ r d => if r = .lane then [.vw d.toNat] else [.sw d.toNat]
  | _ => []

/-- Whether a register or tile is one the group has (05 R127). -/
def Opd.ok (g : Group) (tiles : Nat) : Opd → Bool
  | .sr r | .sw r => decide (r < g.sregs)
  | .vr v | .vw v => decide (v < g.vregs)
  | .tile n => decide (n < tiles)

/-- The bytes a source register occupies: key and length. -/
def Opd.bytes (g : Group) : Opd → Option (Nat × Nat)
  | .sr r => if r = 0 then none else some (g.skey r, 8)
  | .vr v => some (g.vkey v 0, 4 * g.width)
  | _ => none

/-- The first poisoned granule among source registers, as its store offset (18 R390). -/
def State.badSource (s : State) (g : Group) (os : List Opd) : Option Nat :=
  (os.filterMap (Opd.bytes g)).findSome? fun b =>
    (s.poison.find? fun w => decide (8 * w < b.1 + b.2) && decide (b.1 < 8 * w + 8)).map fun w => keyOff (8 * w / 16 * 16)

/-- Step 8 of 05 R133 and the read of the source registers: the trapped state, if the instruction traps here. -/
def State.operandTrap (s : State) (c : Cur) (i : Instr) : Option State :=
  match c.agent with
  | .proof _ => none
  | .group k n =>
    match s.group? k n with
    | none => none
    | some g =>
      let tiles := ((s.team? g.team).map (·.krec.galley)).getD 0
      if !(Instr.opds i).all (Opd.ok g tiles) then some (s.trap c cILLOP)
      else
        match s.badSource g (Instr.opds i) with
        | some x => some (s.trapAt c c.pc cUNCORR 0 (.ofNat 64 x) 0)
        | none => none

/-! ### Literals and containers (R126, R138) -/

/-- An integer literal in a 64-bit container: sign-extended for .i types, zero-extended for .n types. -/
def litI (t : ITy) (lit : Word) : Nat := if t.signed then wrapN (sext lit.toNat 32) 64 else lit.toNat

/-- A register or a literal as operand B. -/
inductive SrcB | reg (r : Nat) | lit (x : Nat)
  deriving DecidableEq, Repr

/-- Value of a scalar operand B. -/
def State.srcS (s : State) (a : Agent) : SrcB → Nat
  | .reg r => (s.sregA a r).toNat
  | .lit x => x

/-- Value of a vector operand B in lane i. -/
def State.srcV (s : State) (g : Group) (i : Nat) : SrcB → Nat
  | .reg v => s.vlane g v i
  | .lit x => x

/-! ### Moulds -/

/-- Write a scalar destination and complete. -/
def State.putS (s : State) (c : Cur) (d : SReg) (x : Nat) : State :=
  State.finish (s.setSregA c.agent d.toNat (.ofNat 64 x)) c

/-- A short-latency scalar instruction: its result from the issuing agent's registers. -/
def scalarOp (s : State) (d : SReg) (f : Agent → Nat) : Out := withAgent s fun c => s.putS c d (f c.agent)

/-- A scalar instruction of one source. -/
def scalar1 (s : State) (d a : SReg) (f : Nat → Nat) : Out := scalarOp s d fun ag => f (s.sregA ag a.toNat).toNat

/-- A scalar instruction of two sources. -/
def scalar2 (s : State) (d a : SReg) (b : SrcB) (f : Nat → Nat → Nat) : Out :=
  scalarOp s d fun ag => f (s.sregA ag a.toNat).toNat (s.srcS ag b)

/-- The union of flag sets. -/
def orFlags (fs : List Flags) : Flags := fs.foldl (· ||| ·) 0

/-- The lanes that an instruction's guard makes active, in increasing order (01 R29). -/
def Group.lanes (g : Group) (gd : MReg) : List Nat := lanesIn g.width (g.active gd)

/-- The bytes that lane results change in a vector register. -/
def Group.laneCells (g : Group) (d : Nat) (rs : List (Nat × Nat)) : List Host.Cell := rs.flatMap fun r => g.vcells d r.1 r.2

/-- Write lane results with the flags they raise, and complete. -/
def State.putV (s : State) (c : Cur) (g : Group) (d : Nat) (ls : List Nat) (f : Nat → Nat × Flags) : State :=
  let s := s.write (g.laneCells d (ls.map fun i => (i, (f i).1)))
  State.finish (s.raise c.agent (orFlags (ls.map fun i => (f i).2))) c

/-- A short-latency vector instruction: result and flags of each active lane. -/
def vectorOp (s : State) (gd : MReg) (d : VReg) (f : Group → Nat → Nat × Flags) : Out :=
  withGroup s fun c g => s.putV c g d.toNat (g.lanes gd) (f g)

/-- A vector instruction of one source. -/
def vector1 (s : State) (gd : MReg) (d : VReg) (a : Nat) (f : Nat → Nat × Flags) : Out :=
  vectorOp s gd d fun g i => f (s.vlane g a i)

/-- A vector instruction of two sources. -/
def vector2 (s : State) (gd : MReg) (d a : VReg) (b : SrcB) (f : Nat → Nat → Nat × Flags) : Out :=
  vectorOp s gd d fun g i => f (s.vlane g a.toNat i) (s.srcV g i b)

/-- A vector instruction of three sources. -/
def vector3 (s : State) (gd : MReg) (d a b x : VReg) (f : Nat → Nat → Nat → Nat × Flags) : Out :=
  vectorOp s gd d fun g i => f (s.vlane g a.toNat i) (s.vlane g b.toNat i) (s.vlane g x.toNat i)

/-- Lane results that commit after `lat` cycles and `la` instructions (01 R31), flags with them (02 R47). -/
def State.laterV (s : State) (c : Cur) (g : Group) (d lat la : Nat) (rs : List (Nat × Nat)) (fl : Flags) : State :=
  s.later c lat la fun m => { m with cells := g.laneCells d rs, flags := fl }

/-- A long-latency vector instruction: result and flags of each active lane. -/
def vectorLater (s : State) (gd : MReg) (la : BitVec 4) (lat : Nat) (d : VReg) (f : Group → Nat → Nat × Flags) : Out :=
  withGroup s fun c g =>
    s.laterV c g d.toNat lat la.toNat ((g.lanes gd).map fun i => (i, (f g i).1)) (orFlags ((g.lanes gd).map fun i => (f g i).2))

/-- Lane results without flags. -/
def noFlags (f : Nat → Nat) (x : Nat) : Nat × Flags := (f x, fNone)

/-- Write a mask register and complete. -/
def State.putM (s : State) (c : Cur) (g : Group) (d : MReg) (x : DWord) : State := State.finish (s.setGroup (g.setMask d x)) c

/-- A comparison: bit i of the destination mask holds for active lanes (06 R145). -/
def compareOp (s : State) (gd : MReg) (d : MReg) (p : Group → Nat → Bool) : Out :=
  withGroup s fun c g => s.putM c g d (maskOf ((g.lanes gd).filter (p g)))

end Sys2Proof.Machine
end

