-- ==== Sys2Proof/Machine/Translate.lean ====
section
/-! DEFINITION. Translation (16_translation): page-table entries and the walk, cached leaves, the module's own page
table (R334, 18 R383), fault records (R337, R338), and the reads that go through translation at once: fetch lines,
packets and the mailbox. -/

namespace Sys2Proof.Machine

/-- Far addresses are modulo 2^57. -/
def farWrap (va : Nat) : Nat := va % 2 ^ 57

/-! ### Features and modules -/

/-- Whether an offered feature bit is accepted (18 R375). -/
def State.feature (s : State) (n : Nat) : Bool := s.boot.featacc / 2 ^ n % 2 == 1

/-- A module endpoint's record; one that is not listed has an empty table. -/
def State.module (s : State) (ep : Nat) : Module :=
  (s.modules.find? (·.ep == ep)).getD
    { ep := ep, table := [], manager := 128, moves := [], staged := [], temps := [], pendingWrite := none }

/-- Put a module back. -/
def State.setModule (s : State) (m : Module) : State :=
  { s with modules := if s.modules.any (·.ep == m.ep) then replaceBy (·.ep == m.ep) m s.modules else s.modules ++ [m] }

/-- A module table entry; 0, absent, where none is written (18 R383). -/
def Module.entry (m : Module) (page : Nat) : Nat :=
  match m.table.find? (fun x => x.1 == page) with
  | some x => x.2.toNat
  | none => 0

/-- Temperature step of a module: the hottest of its stacks (18 R385). -/
def Module.step (m : Module) : Nat := maxL (m.temps.map (·.2))

/-- What a module answers for a page (16 R335): mapped to a frame, moving with a hint, or absent. -/
inductive PageAns | mapped (frame : Nat) | moving (hint : Nat) | absent
  deriving DecidableEq, Repr

/-- Remaining copy time of a move as a hint: ⌈remaining / 64 ns⌉, 1 to 255 (R383). -/
def moveHint (now until_ : Nat) : Nat := max 1 (min 255 ((until_ - now + (64 * nsUnits - 1)) / (64 * nsUnits)))

/-- The answer of a module's table to a partition of this package for a page. -/
def State.entryAns (s : State) (ep part page : Nat) : PageAns :=
  let m := s.module ep
  let e := m.entry page
  let admitted := fld e 61 1 == 1 || (fld e 51 7 == s.boot.endpoint && fld e 58 3 == part)
  if !admitted then .absent
  else if fld e 62 2 = 1 then .mapped (fld e 0 24)
  else if fld e 62 2 = 2 then
    .moving (match m.moves.find? (·.1 == page) with
      | some v => moveHint s.time v.2.2
      | none => 1)
  else .absent

/-- The answer of a module to a request; one above 110 °C refuses every new request with h = 255 (18 R385). -/
def State.pageAns (s : State) (ep part page : Nat) : PageAns :=
  if (s.module ep).step = 4 then .moving 255 else s.entryAns ep part page

/-! ### The walk (R328-R330, R333) -/

/-- Bit of a module's reach in a partition (R341). -/
def Partition.reach (p : Partition) (ep : Nat) : Bool :=
  if ep < 64 then p.reach0.getLsbD ep else p.reach1.getLsbD (ep - 64)

/-- Index of an address at a level (R328). -/
def walkIndex (level va : Nat) : Nat :=
  if level = 0 then fld va 16 5 else fld va (12 + 9 * level) 9

/-- 64 KiB units a leaf at a level covers. -/
def leafUnits (level : Nat) : Nat := if level = 0 then 1 else if level = 1 then 32 else 16384

/-- A valid entry is malformed (R330), compressed leaves without the codec feature included (18 R375). -/
def malformed (codec : Bool) (level e : Nat) : Bool :=
  if fld e 62 1 = 1 then level == 0 || fld e 37 25 != 0 || (decide (2 ≤ level) && fld e 0 30 % 16 != 0)
  else fld e 29 27 != 0 || fld e 59 2 == 3 || decide (3 ≤ level) || fld e 0 22 % leafUnits level != 0
    || (!codec && fld e 57 1 == 1)

/-- Outcome of a leaf for a read or a write (R333). -/
def leafOut (p : Partition) (write : Bool) (level va e : Nat) (tables : List (Nat × Nat × Nat)) : XOut :=
  let n := leafUnits level
  let u := va / 65536
  let ep := fld e 22 7
  if fld e 58 1 = 0 ∨ !p.reach ep then .bad 3 level ep
  else if fld e 61 1 = 0 then .bad 4 level ep
  else if write ∧ fld e 56 1 = 0 then .bad 5 level ep
  else .ok ep (fld e 0 22 + u % n) (fld e 59 2) (fld e 57 1 == 1) (fld e 56 1 == 1) (u / n * n) n tables

/-- What reading one entry leads to: the next table, or the end of the walk. -/
def entryStep (p : Partition) (codec write : Bool) (level ep va e : Nat) (tables : List (Nat × Nat × Nat)) : Xlat :=
  if fld e 63 1 = 0 then .ended (.bad 1 level ep)
  else if malformed codec level e then .ended (.bad 2 level ep)
  else if fld e 62 1 = 0 then .ended (leafOut p write level va e tables)
  else .walking (level - 1) (fld e 30 7) (256 * fld e 0 30) ((level - 1, fld e 30 7, 256 * fld e 0 30) :: tables)

/-- Where a walk starts (R328, R339). -/
def Partition.walkStart (p : Partition) : Xlat :=
  let x := p.xroot.toNat
  if fld x 63 1 = 0 then .ended (.bad 1 4 (fld x 30 7))
  else .walking 4 (fld x 30 7) (256 * fld x 0 30) [(4, fld x 30 7, 256 * fld x 0 30)]

/-- Read 8 bytes of a page table; the module refuses a page that is absent or moves. -/
def State.tableRead (s : State) (ep part addr : Nat) : PageAns × Nat :=
  match s.pageAns ep part (addr / 65536) with
  | .mapped f => (.mapped f, s.le (hbmKey ep f (addr % 65536)) 8)
  | a => (a, 0)

/-- What a module's answer for the entry of a table, with the entry, leads to. A moving table page leaves the walk where it is. -/
def tableStep (p : Partition) (codec write : Bool) (va level ep addr : Nat) (tables : List (Nat × Nat × Nat)) : PageAns × Nat → Xlat
  | (.mapped _, e) => entryStep p codec write level ep va e tables
  | (.absent, _) => .ended (.bad 6 7 ep)
  | (.moving _, _) => .walking level ep addr tables

/-- One step of a walk: the read of the entry at its table. -/
def State.walkStep (s : State) (p : Partition) (write : Bool) (va : Nat) : Xlat → Xlat
  | .pending => p.walkStart
  | .walking level ep addr tables =>
    if !p.reach ep then .ended (.bad 3 level ep)
    else tableStep p (s.feature 1) write va level ep addr tables (s.tableRead ep p.p (addr + 8 * walkIndex level va))
  | x => x

/-- A whole walk at once; `walking` left over means that a table page is moving. -/
def State.walkAll (s : State) (p : Partition) (write : Bool) (va : Nat) : Nat → Xlat → Xlat
  | 0, x => x
  | n + 1, x =>
    match x with
    | .ended o => .ended o
    | .served o => .served o
    | x => s.walkAll p write va n (s.walkStep p write va x)

/-! ### Cached leaves (R332) -/

/-- The cached leaf of a cluster that covers a unit. -/
def State.cachedFor (s : State) (cluster va : Nat) : Option Cached :=
  s.cached.find? fun c => c.cluster == cluster && decide (c.unit ≤ va / 65536) && decide (va / 65536 < c.unit + c.count)

/-- Level of a leaf that covers `n` units. -/
def levelOf (n : Nat) : Nat := if n = 1 then 0 else if n = 32 then 1 else 2

/-- Outcome served by a cached leaf. -/
def Cached.out (c : Cached) (write : Bool) (va : Nat) : XOut :=
  if write && !c.wr then .bad 5 (levelOf c.count) c.ep
  else .ok c.ep (c.page + (va / 65536 - c.unit)) c.cls c.cmp c.wr c.unit c.count c.tables

/-- Keep the leaf of a successful walk. -/
def State.cache (s : State) (cluster va : Nat) (o : XOut) : State :=
  match o with
  | .ok ep page cls cmp wr first count tables =>
    if (s.cachedFor cluster va).isSome then s
    else { s with cached := s.cached ++ [{ cluster := cluster, unit := first, count := count, ep := ep
                                           page := page - (va / 65536 - first), cls := cls, cmp := cmp, wr := wr
                                           tables := tables, ptrs := tables.map (·.1) }] }
  | .bad .. => s

/-- A cached leaf's table of a level is on the way to an address: both lie in the range that the table covers. -/
def Cached.passes (c : Cached) (level va : Nat) : Bool := c.unit * 65536 / 2 ^ (21 + 9 * level) == va / 2 ^ (21 + 9 * level)

/-- Where a walk of a cluster's unit starts: at the cached table pointer nearest to the leaf, or at the root (R332). -/
def State.walkFrom (s : State) (p : Partition) (cluster va : Nat) : Xlat :=
  let found := [0, 1, 2, 3].findSome? fun l =>
    ((s.cached.find? fun c => c.cluster == cluster && c.passes l va && c.ptrs.any (· == l)).map fun c =>
      c.tables.filter fun t => decide (l ≤ t.1))
  match found with
  | some (t :: ts) => .walking t.1 t.2.1 t.2.2 (t :: ts)
  | _ => p.walkStart

/-- Translate at once for a requester of a cluster: cached leaf, else a walk. -/
def State.translate (s : State) (p : Partition) (cluster : Nat) (write : Bool) (va : Nat) : Xlat :=
  match s.cachedFor cluster va with
  | some c => .ended (c.out write va)
  | none => s.walkAll p write va 7 (s.walkFrom p cluster va)

/-- The translation unit that serves a partition's packet processors: that of its first cluster. The spec does not say in which
cluster a packet processor stands (log 35). A partition without dies has no cluster, and what it translates by its own root is kept under
a number that no cluster has. -/
def Partition.ppUnit (p : Partition) : Nat :=
  match p.dies with
  | [] => 128 + p.p
  | d :: ds => 12 * ds.foldl min d

/-- The module's answer joined to translation (R335): the key of a far byte, a reason, or `none` while a page
moves. -/
inductive FarAns | key (k : Nat) | bad (reason level ep : Nat) | busy
  deriving DecidableEq, Repr

/-- Where a byte of a module's page lies, by the module's answer. -/
def placeOf (ep va : Nat) : PageAns → FarAns
  | .mapped f => .key (hbmKey ep f (va % 65536))
  | .moving _ => .busy
  | .absent => .bad 6 7 ep

/-- Where a translated byte lies. -/
def State.farOf (s : State) (part va : Nat) : XOut → FarAns
  | .ok ep page .. => placeOf ep va (s.pageAns ep part page)
  | .bad r l ep => .bad r l ep

/-- A far byte for an access that is made at once. -/
def State.farKey (s : State) (p : Partition) (cluster : Nat) (write : Bool) (va : Nat) : FarAns :=
  match s.translate p cluster write va with
  | .ended o | .served o => s.farOf p.p va o
  | _ => .busy

/-- Keep what an access at once has walked. -/
def State.farCache (s : State) (p : Partition) (cluster : Nat) (write : Bool) (va : Nat) : State :=
  match s.translate p cluster write va with
  | .ended o => s.cache cluster va o
  | _ => s

/-! ### Fault records (R337, R338) -/

/-- Slots of the buffer that hold unconsumed records. -/
def Partition.unread (p : Partition) : List Nat :=
  (List.range (p.fbput - p.fbget).toNat).map fun i => (p.fbget + .ofNat 32 i).toNat % 256

/-- Post a fault: merged, posted or counted as overflow. -/
def State.postFault (s : State) (part : Nat) (r : FaultRec) : State :=
  match s.part? part with
  | none => s
  | some p =>
    let live := p.unread
    if p.fb.any fun x => live.any (· == x.1) && x.2.addr / 65536 == r.addr / 65536 && x.2.access == r.access
        && x.2.reason == r.reason then s
    else if live.length < 256 then
      let slot := p.fbput.toNat % 256
      let s := s.setPart { p with
        fb := (p.fb.filter (·.1 != slot)) ++ [(slot, { r with seq := p.fseq })], fbput := p.fbput + 1, fseq := p.fseq + 1 }
      if p.fbctl.getLsbD 0 then s.msix (2 + part) else s
    else
      let s := s.setPart { p with fbovf := p.fbovf + 1, fseq := p.fseq + 1 }
      if p.fbctl.getLsbD 1 then s.msix (2 + part) else s

/-- Whether a record for the fault stands unconsumed, so that the fault is posted or merged (R338). -/
def Partition.holds (p : Partition) (r : FaultRec) : Bool :=
  p.fb.any fun x => p.unread.any (· == x.1) && x.2.addr / 65536 == r.addr / 65536 && x.2.access == r.access
    && x.2.reason == r.reason

/-- The record of a requester that is a group of a team. -/
def State.faultOf (s : State) (team core : Nat) (va reason level ep access : Nat) : FaultRec :=
  let t := s.team? team
  { seq := 0, addr := va, team := (t.map (·.num)).getD 0
    hw := ((t.bind fun t => s.launch? t.launch).map (·.hw)).getD 0, cluster := clusterOf core, core := core % 4
    ep := ep, level := level, reason := reason, access := access }

/-- A fault record as 256 bits (R337). -/
def FaultRec.value (r : FaultRec) : Nat :=
  r.access + 2 ^ 4 * r.reason + 2 ^ 12 * r.level + 2 ^ 15 * r.ep + 2 ^ 22 * (r.team / 2 ^ 16 % 2 ^ 16) + 2 ^ 97 * r.core
    + 2 ^ 99 * r.cluster + 2 ^ 106 * r.hw + 2 ^ 112 * (r.team % 2 ^ 16) + 2 ^ 128 * r.addr + 2 ^ 192 * (r.seq % 2 ^ 64)

/-! ### Far bytes at once -/

/-- Read `n` consecutive far bytes of one 64 KiB unit, or why they cannot be read. -/
def State.farRead (s : State) (p : Partition) (cluster va n : Nat) : Except FarAns (List Byte) :=
  match s.farKey p cluster false va with
  | .key k => .ok (s.bytes k n)
  | a => .error a

/-- Write bytes of one 64 KiB unit. -/
def State.farWrite (s : State) (p : Partition) (cluster va : Nat) (bs : List Byte) : Except FarAns State :=
  match s.farKey p cluster true va with
  | .key k => .ok (State.write (s.farCache p cluster true va) (cellsAt k bs))
  | a => .error a

end Sys2Proof.Machine
end

