-- ==== Sys2Proof/Machine/Code.lean ====
section
/-! DEFINITION. Fetch lines (05_encoding R115 to R121, R133): reading a line, its checks, where its instructions
begin, control-transfer targets (R119, 07 R171), and the instruction at a program counter. -/

namespace Sys2Proof.Machine

/-- What reading a fetch line gives: its sixteen words, a reason of 16 R333, a moving page, or nothing at all
(a proof core beyond its memory, or an uncorrectable word there). -/
inductive LineAns | line (ws : List Nat) | bad (reason level ep : Nat) | busy | none
  deriving DecidableEq, Repr

/-- Words of 4 bytes from a key up. -/
def State.words (s : State) (key : Nat) : Nat → List Nat
  | 0 => []
  | n + 1 => s.le key 4 :: s.words (key + 4) n

/-- The line at an address, as an agent reads it. -/
def State.readLine (s : State) (a : Agent) (va : Nat) : LineAns :=
  match a with
  | .proof c =>
    if 65536 < va + 64 ∨ s.poisoned (proofKey c va) 64 then .none else .line (s.words (proofKey c va) 16)
  | .group k _ =>
    match s.part? (s.partOf k) with
    | none => .bad 1 4 0
    | some p =>
      match s.farKey p (clusterOf k) false va with
      | .key x => .line (s.words x 16)
      | .bad r l e => .bad r l e
      | .busy => .busy

/-- Parity group p of a line holds an even number of ones, its parity bit included (R118). -/
def parityOk (ws : List Nat) (p : Nat) : Bool :=
  let w := ws.getD 0 0
  let n := if p = 7 then popCount 32 (ws.getD 15 0) + popCount 24 (fld w 0 24)
    else popCount 32 (ws.getD (2 * p + 1) 0) + popCount 32 (ws.getD (2 * p + 2) 0)
  (n + fld w (24 + p) 1) % 2 == 0

/-- Syllables on which instructions begin: up to the first filler, or to an instruction that runs beyond
syllable 14, which is the last one (R119, R121). -/
def instrStarts (ws : List Nat) : Nat → Nat → List Nat
  | 0, _ => []
  | n + 1, k =>
    if 14 < k then []
    else
      let len := sylLen (ws.getD (k + 1) 0)
      if len = 0 then [] else k :: instrStarts ws n (k + len)

/-- Whole instructions of a line (R120): one that runs beyond syllable 14 is no whole one (log 33). -/
def instrCount (ws : List Nat) : Nat :=
  ((instrStarts ws 15 0).filter fun k => decide (k + sylLen (ws.getD (k + 1) 0) ≤ 15)).length

/-- Cause of a failed check of the whole line, 0 for none (R133 steps 1 and 2). -/
def lineCause (ws : List Nat) : Nat :=
  let w := ws.getD 0 0
  if !([0, 1, 2, 3, 4, 5, 6, 7].all (parityOk ws)) then cLINEPARITY
  else if fld w 20 4 ≠ 0 ∨ 7 < fld w 15 5 ∨ instrCount ws < 2 * fld w 15 5 then cILLOP
  else 0

/-- R119 for syllable k of a line: 0, BADTARGET or ILLOP. -/
def syllableCause (ws : List Nat) (k : Nat) : Nat :=
  if fld (ws.getD 0 0) k 1 = 0 then cBADTARGET
  else if (instrStarts ws 15 0).any (· == k) then 0
  else cILLOP

/-- Address of the line that holds a program counter, and the syllable it names. -/
def lineOf (pc : Nat) : Nat := pc / 64 * 64
/-- Syllable of a program counter. -/
def sylOf (pc : Nat) : Nat := (pc % 64 - 4) / 4

/-- The form of a register-held target (07 R171 step 1). -/
def targetForm (a : Nat) : Bool := decide (a < 2 ^ 57) && a % 4 == 0 && a % 64 != 0

/-- Whether control may be transferred to an address: allowed, a trap cause, a line that cannot be read, or a page
that moves. -/
inductive TargetAns | ok | cause (n : Nat) | fault (reason level ep : Nat) | busy
  deriving DecidableEq, Repr

/-- R171 and R119 for a target. A filler at syllable 0 whose TARGET bit is set takes R119's ILLOP here, at the transferring
instruction (log 33). -/
def State.targetOk (s : State) (a : Agent) (addr : Nat) : TargetAns :=
  if !targetForm addr then .cause cBADTARGET
  else
    match s.readLine a (lineOf addr) with
    | .none => .cause cBADTARGET
    | .busy => .busy
    | .bad r l e => .fault r l e
    | .line ws => if syllableCause ws (sylOf addr) = 0 then .ok else .cause (syllableCause ws (sylOf addr))

/-- The address a line-relative target names, from the line that holds the instruction (R130). -/
def targetAddr (pc : DWord) (t : Target) : Nat :=
  let l : Int := (lineOf pc.toNat : Int) + 64 * sext t.line.toNat 28
  (wrapN l 57) + 4 + 4 * t.syl.toNat

/-- Take CODEFAULT for the line at an address (14 R289, 16 R333), with its fault record. -/
def State.codeFault (s : State) (c : Cur) (va reason level ep : Nat) : State :=
  match c.agent with
  | .proof _ => s.trap c cCODEFAULT
  | .group k n =>
    let team := ((s.group? k n).map (·.team)).getD 0
    let s := s.postFault (s.partOf k) (s.faultOf team k va reason level ep 3)
    s.trapAt c c.pc cCODEFAULT 0 (.ofNat 64 va) 0

/-- Transfer control to an address after the checks of R119 and R171; `eff` is the instruction's other effect. While
the target's page moves the instruction stays where it is and issues again. A target line that translation does not serve is a CODEFAULT of
the transferring instruction, which cannot be checked without the line: R171 and R172 do not say so (DESIGN CHOICE, log 33). -/
def State.transfer (s : State) (c : Cur) (addr : Nat) (eff : State → State) : State :=
  match s.targetOk c.agent addr with
  | .ok => (eff s).jump c (.ofNat 64 addr)
  | .cause n => s.trap c n
  | .fault r l e => s.codeFault c (lineOf addr) r l e
  | .busy => s.retryAt c 0

/-! ### The instruction at a program counter -/

/-- What issuing at a program counter meets. -/
inductive FetchAns
  /-- An instruction, with the pc after it and a broken filler tail (R116, R121). -/
  | instr (ws : List Word) (next : DWord) (tail : Option DWord)
  | trap (cause : Nat)
  | fault (reason level ep : Nat)
  | busy
  deriving DecidableEq, Repr

/-- First syllable at or after k, up to 14, that is not 0x3. -/
def brokenTail (ws : List Nat) : Nat → Nat → Option Nat
  | 0, _ => none
  | n + 1, k => if 14 < k then none else if ws.getD (k + 1) 0 = 3 then brokenTail ws n (k + 1) else some k

/-- Syllable 0 of the line after the one at `l`; after the last line of the address space comes the first (log 28). -/
def nextLine (l : Nat) : DWord := .ofNat 64 ((l + 64) % 2 ^ 57 + 4)

/-- What follows an instruction that ends before syllable k of the line at `l`. -/
def afterSyl (ws : List Nat) (l k : Nat) : DWord × Option DWord :=
  if 14 < k then (nextLine l, none)
  else if sylLen (ws.getD (k + 1) 0) ≠ 0 then (.ofNat 64 (l + 4 + 4 * k), none)
  else (nextLine l, (brokenTail ws 15 k).map fun j => .ofNat 64 (l + 4 + 4 * j))

/-- The instruction at syllable k of a line whose checks passed (R133 step 3). -/
def fetchSyl (ws : List Nat) (l k : Nat) : FetchAns :=
  let len := sylLen (ws.getD (k + 1) 0)
  if len = 0 ∨ 15 < k + len then .trap cILLOP
  else
    let n := afterSyl ws l (k + len)
    .instr (((ws.drop (k + 1)).take len).map (.ofNat 32)) n.1 n.2

/-- The line that an agent executes at a program counter: a group that goes on inside a line executes it as it stood when the
group entered it, and one that goes back in it enters it anew (R116, log 13). -/
def State.lineFor (s : State) (a : Agent) (pc : Nat) : LineAns :=
  match a with
  | .proof _ => s.readLine a (lineOf pc)
  | .group k n =>
    match (s.group? k n).bind (·.line) with
    | some l => if l.1 = lineOf pc ∧ l.2.1 ≤ pc then .line l.2.2 else s.readLine a (lineOf pc)
    | none => s.readLine a (lineOf pc)

/-- The line to keep while the group at a program counter is inside it: one whose checks passed. -/
def State.latch (s : State) (a : Agent) (pc : Nat) : Option (Nat × Nat × List Nat) :=
  match s.lineFor a pc with
  | .line ws => if lineCause ws = 0 then some (lineOf pc, pc, ws) else none
  | _ => none

/-- The first checks of an instruction at issue (R133 steps 1 to 3, R119 for an entry and for a pc that the proof
core wrote). R133 does not place R119's check of an entry: it stands between steps 2 and 3 (log 33). -/
def State.fetchPc (s : State) (a : Agent) (pc : Nat) (entry checkPc : Bool) : FetchAns :=
  if checkPc && !targetForm pc then .trap cBADTARGET
  else
    match s.lineFor a pc with
    | .none => .trap cILLOP
    | .busy => .busy
    | .bad r l e => .fault r l e
    | .line ws =>
      if lineCause ws ≠ 0 then .trap (lineCause ws)
      else if checkPc ∧ syllableCause ws (sylOf pc) ≠ 0 then .trap (syllableCause ws (sylOf pc))
      else if entry ∧ fld (ws.getD 0 0) (sylOf pc) 1 = 0 then .trap cBADTARGET
      else if (instrStarts ws 15 0).any (· == sylOf pc) then fetchSyl ws (lineOf pc) (sylOf pc)
      else .trap cILLOP

end Sys2Proof.Machine
end

