-- ==== Sys2Proof/Machine/Scalar.lean ====
section
/-! DEFINITION. The scalar integer instructions (06_isa_arithmetic R142 to R149): the functions they compute on
64-bit containers, then one meaning per form. -/

namespace Sys2Proof.Machine

/-- The binary integer operations of R143. -/
inductive IBin | add | sub | mul | mulh | and | or | xor | shl | shr | sar | min | max
  deriving DecidableEq, Repr

/-- The unwrapped result y of R143, from two containers read at a type. -/
def ibin (op : IBin) (t : ITy) (a b : Nat) : Int :=
  let n := t.width
  let x := valI t a
  let y := valI t b
  let u := a % 2 ^ n
  let v := b % 2 ^ n
  match op with
  | .add => x + y
  | .sub => x - y
  | .mul => x * y
  | .mulh => x * y / (2 ^ n : Int)
  | .and => ((u &&& v : Nat) : Int)
  | .or => ((u ||| v : Nat) : Int)
  | .xor => ((u ^^^ v : Nat) : Int)
  | .shl => if n ≤ v then 0 else x * (2 ^ v : Int)
  | .shr => if n ≤ v then 0 else ((u / 2 ^ v : Nat) : Int)
  | .sar => if n ≤ v then (if sext u n < 0 then -1 else 0) else sext u n / (2 ^ v : Int)
  | .min => if x ≤ y then x else y
  | .max => if x ≤ y then y else x

/-- Quotient of R144. -/
def idiv (t : ITy) (a b : Nat) : Int :=
  if valI t b = 0 then (if t.signed then -1 else (2 ^ t.width : Int) - 1) else Int.tdiv (valI t a) (valI t b)

/-- Remainder of R144. -/
def irem (t : ITy) (a b : Nat) : Int := if valI t b = 0 then valI t a else valI t a - idiv t a b * valI t b

/-- DZ when the divisor is zero. -/
def divFlags (t : ITy) (b : Nat) : Flags := if valI t b = 0 then fDZ else fNone

/-- The conditions of R145. -/
def icond (c : ICond) (x y : Int) : Bool :=
  match c with
  | .eq => decide (x = y)
  | .ne => decide (x ≠ y)
  | .lt => decide (x < y)
  | .le => decide (x ≤ y)
  | .gt => decide (y < x)
  | .ge => decide (y ≤ x)

/-- Number of zero bits above the highest one bit of an n-bit field (R147). -/
def clz (n x : Nat) : Nat := n - bitLen (x % 2 ^ n)

/-- Number of one bits of an n-bit field (R147). -/
def popc (n x : Nat) : Nat := popCount n (x % 2 ^ n)

/-- The extracted field, extended (R148), in a container of c bits. -/
def bfx (t : ITy) (c a pos len : Nat) : Nat :=
  let f := fld a pos len
  putI t c (if t.signed then sext f len else (f : Int))

/-- The low n bits of `d` with a field replaced (R148). -/
def bfi (t : ITy) (d a pos len : Nat) : Nat :=
  let u := d % 2 ^ t.width
  putI t 64 (valI t (u - fld u pos len * 2 ^ pos + a % 2 ^ len * 2 ^ pos))

/-- SADDR (R149). -/
def addrOf (t : ITy) (a b x k : Nat) : Nat := wrapN ((a : Int) + valI t b * (2 ^ k : Int) + (x : Int)) 64

/-- A binary scalar instruction of R143. -/
def scalarBin (s : State) (op : IBin) (t : ITy) (d a : SReg) (b : SrcB) : Out :=
  scalar2 s d a b fun x y => putI t 64 (ibin op t x y)

/-- SDIV and SREM (R144): results and DZ commit after 24 cycles. -/
def scalarDiv (s : State) (la : BitVec 4) (t : ITy) (d a : SReg) (b : SrcB) (f : ITy → Nat → Nat → Int) : Out :=
  withAgent s fun c =>
    let x := (s.sregA c.agent a.toNat).toNat
    let y := s.srcS c.agent b
    s.later c 24 la.toNat fun m => { m.withScalar s d.toNat (.ofNat 64 (putI t 64 (f t x y))) with flags := divFlags t y }

/-- SCMP (R145). -/
def scalarCmp (s : State) (cd : ICond) (t : ITy) (d a : SReg) (b : SrcB) : Out :=
  scalar2 s d a b fun x y => (icond cd (valI t x) (valI t y)).toNat


/-- SMOV, short form: all 64 bits (R142). -/
def execSmovShort (d : SReg) (e : EReg) (s : State) : Out :=
  scalarOp s d fun ag => (s.sregA ag e.toNat).toNat

/-- SMOV, long form: all 64 bits, or the value at a type (R142). -/
def execSmovLong (t : Option ITy) (d a : SReg) (s : State) : Out :=
  scalar1 s d a fun x => match t with
    | none => x
    | some t => putI t 64 (valI t x)

/-- SLI (R142). -/
def execSli (t : ITy) (d : SReg) (lit : Word) (s : State) : Out :=
  scalarOp s d fun _ => putI t 64 (valI t (litI t lit))

/-- SADD of registers (R143). -/
def execSaddLong (t : ITy) (d a b : SReg) (s : State) : Out :=
  scalarBin s .add t d a (.reg b.toNat)

/-- SADD with a literal (R143). -/
def execSaddLiteral (t : ITy) (d a : SReg) (lit : Word) (s : State) : Out :=
  scalarBin s .add t d a (.lit (litI t lit))

/-- SSUB of registers (R143). -/
def execSsubLong (t : ITy) (d a b : SReg) (s : State) : Out :=
  scalarBin s .sub t d a (.reg b.toNat)

/-- SSUB with a literal (R143). -/
def execSsubLiteral (t : ITy) (d a : SReg) (lit : Word) (s : State) : Out :=
  scalarBin s .sub t d a (.lit (litI t lit))

/-- SMUL of registers (R143). -/
def execSmulLong (t : ITy) (d a b : SReg) (s : State) : Out :=
  scalarBin s .mul t d a (.reg b.toNat)

/-- SMUL with a literal (R143). -/
def execSmulLiteral (t : ITy) (d a : SReg) (lit : Word) (s : State) : Out :=
  scalarBin s .mul t d a (.lit (litI t lit))

/-- SMULH of registers (R143). -/
def execSmulhLong (t : ITy) (d a b : SReg) (s : State) : Out :=
  scalarBin s .mulh t d a (.reg b.toNat)

/-- SMULH with a literal (R143). -/
def execSmulhLiteral (t : ITy) (d a : SReg) (lit : Word) (s : State) : Out :=
  scalarBin s .mulh t d a (.lit (litI t lit))

/-- SAND of registers (R143). -/
def execSandLong (t : ITy) (d a b : SReg) (s : State) : Out :=
  scalarBin s .and t d a (.reg b.toNat)

/-- SAND with a literal (R143). -/
def execSandLiteral (t : ITy) (d a : SReg) (lit : Word) (s : State) : Out :=
  scalarBin s .and t d a (.lit (litI t lit))

/-- SOR of registers (R143). -/
def execSorLong (t : ITy) (d a b : SReg) (s : State) : Out :=
  scalarBin s .or t d a (.reg b.toNat)

/-- SOR with a literal (R143). -/
def execSorLiteral (t : ITy) (d a : SReg) (lit : Word) (s : State) : Out :=
  scalarBin s .or t d a (.lit (litI t lit))

/-- SXOR of registers (R143). -/
def execSxorLong (t : ITy) (d a b : SReg) (s : State) : Out :=
  scalarBin s .xor t d a (.reg b.toNat)

/-- SXOR with a literal (R143). -/
def execSxorLiteral (t : ITy) (d a : SReg) (lit : Word) (s : State) : Out :=
  scalarBin s .xor t d a (.lit (litI t lit))

/-- SSHL of registers (R143). -/
def execSshlLong (t : ITy) (d a b : SReg) (s : State) : Out :=
  scalarBin s .shl t d a (.reg b.toNat)

/-- SSHL with a literal (R143). -/
def execSshlLiteral (t : ITy) (d a : SReg) (lit : Word) (s : State) : Out :=
  scalarBin s .shl t d a (.lit (litI t lit))

/-- SSHR of registers (R143). -/
def execSshrLong (t : ITy) (d a b : SReg) (s : State) : Out :=
  scalarBin s .shr t d a (.reg b.toNat)

/-- SSHR with a literal (R143). -/
def execSshrLiteral (t : ITy) (d a : SReg) (lit : Word) (s : State) : Out :=
  scalarBin s .shr t d a (.lit (litI t lit))

/-- SSAR of registers (R143). -/
def execSsarLong (t : ITy) (d a b : SReg) (s : State) : Out :=
  scalarBin s .sar t d a (.reg b.toNat)

/-- SSAR with a literal (R143). -/
def execSsarLiteral (t : ITy) (d a : SReg) (lit : Word) (s : State) : Out :=
  scalarBin s .sar t d a (.lit (litI t lit))

/-- SMIN of registers (R143). -/
def execSminLong (t : ITy) (d a b : SReg) (s : State) : Out :=
  scalarBin s .min t d a (.reg b.toNat)

/-- SMIN with a literal (R143). -/
def execSminLiteral (t : ITy) (d a : SReg) (lit : Word) (s : State) : Out :=
  scalarBin s .min t d a (.lit (litI t lit))

/-- SMAX of registers (R143). -/
def execSmaxLong (t : ITy) (d a b : SReg) (s : State) : Out :=
  scalarBin s .max t d a (.reg b.toNat)

/-- SMAX with a literal (R143). -/
def execSmaxLiteral (t : ITy) (d a : SReg) (lit : Word) (s : State) : Out :=
  scalarBin s .max t d a (.lit (litI t lit))

/-- SDIV of registers (R144). -/
def execSdivLong (la : BitVec 4) (t : ITy) (d a b : SReg) (s : State) : Out :=
  scalarDiv s la t d a (.reg b.toNat) idiv

/-- SDIV with a literal (R144). -/
def execSdivLiteral (la : BitVec 4) (t : ITy) (d a : SReg) (lit : Word) (s : State) : Out :=
  scalarDiv s la t d a (.lit (litI t lit)) idiv

/-- SREM of registers (R144). -/
def execSremLong (la : BitVec 4) (t : ITy) (d a b : SReg) (s : State) : Out :=
  scalarDiv s la t d a (.reg b.toNat) irem

/-- SREM with a literal (R144). -/
def execSremLiteral (la : BitVec 4) (t : ITy) (d a : SReg) (lit : Word) (s : State) : Out :=
  scalarDiv s la t d a (.lit (litI t lit)) irem

/-- SCMP of registers (R145). -/
def execScmpLong (cd : ICond) (t : ITy) (d a b : SReg) (s : State) : Out :=
  scalarCmp s cd t d a (.reg b.toNat)

/-- SCMP with a literal (R145). -/
def execScmpLiteral (cd : ICond) (t : ITy) (d a : SReg) (lit : Word) (s : State) : Out :=
  scalarCmp s cd t d a (.lit (litI t lit))

/-- SSEL (R146). -/
def execSsel (d a b x : SReg) (s : State) : Out :=
  scalarOp s d fun ag =>
    (if s.sregA ag x.toNat ≠ 0 then s.sregA ag a.toNat else s.sregA ag b.toNat).toNat

/-- SPOPC, short form: 64 bits (R147). -/
def execSpopcShort (d : SReg) (e : EReg) (s : State) : Out :=
  scalarOp s d fun ag => popc 64 (s.sregA ag e.toNat).toNat

/-- SPOPC (R147). -/
def execSpopcLong (t : ITy) (d a : SReg) (s : State) : Out :=
  scalar1 s d a (popc t.width)

/-- SCLZ, short form: 64 bits (R147). -/
def execSclzShort (d : SReg) (e : EReg) (s : State) : Out :=
  scalarOp s d fun ag => clz 64 (s.sregA ag e.toNat).toNat

/-- SCLZ (R147). -/
def execSclzLong (t : ITy) (d a : SReg) (s : State) : Out :=
  scalar1 s d a (clz t.width)

/-- SBFX (R148). -/
def execSbfx (t : ITy) (d a : SReg) (pos : BitVec 6) (len : BitVec 7) (s : State) : Out :=
  scalar1 s d a fun x => bfx t 64 x pos.toNat len.toNat

/-- SBFI (R148): the destination is read too. -/
def execSbfi (t : ITy) (d a : SReg) (pos : BitVec 6) (len : BitVec 7) (s : State) : Out :=
  scalar2 s d d (.reg a.toNat) fun x y => bfi t x y pos.toNat len.toNat

/-- SADDR (R149). -/
def execSaddr (t : ITy) (d a b x : SReg) (k : BitVec 3) (s : State) : Out :=
  scalarOp s d fun ag =>
    addrOf t (s.sregA ag a.toNat).toNat (s.sregA ag b.toNat).toNat (s.sregA ag x.toNat).toNat k.toNat

end Sys2Proof.Machine
end

