-- ==== Sys2Proof/Machine/Local.lean ====
section
/-! DEFINITION. Local access (08_isa_memory R181 to R193, 04 R92, R97 to R101): address checks, accesses in flight and
what they do when they are performed, counted additions (03 R73, R74), lock bits (R188 to R191), and one
meaning per load, store, lock and scratch-atomic instruction. -/

namespace Sys2Proof.Machine

/-! ### Arrival words (03 R72 to R74) -/

/-- Wake the groups that wait on an arrival word. -/
def State.fire (s : State) (word : Nat) : State :=
  (s.groups.filter fun g => g.run == .waiting (.arrival word)).foldl (fun s g => s.wake g) s

/-- The part of R73 and R74 that follows the addition: flags and fields for a count, a generation and a target
other than zero. -/
def passTarget (count gen target flags : Nat) : List Host.Cell → List Host.Cell :=
  fun z => z ++ cellsLE 4 4 (count % target) ++ cellsLE 8 4 ((gen + count / target) % 2 ^ 32)
    ++ cellsLE 12 4 (if target < count then flags ||| 2 else flags)

/-- Move cells up to a key. -/
def cellsFrom (key : Nat) (cs : List Host.Cell) : List Host.Cell := cs.map fun c => (key + c.1, c.2)

/-- A counted addition of `n` bytes to the word at a key, with flag bits to set (R73). -/
def State.countAdd (s : State) (word n flags : Nat) : State :=
  let target := s.le word 4
  let count := (s.le (word + 4) 4 + n) % 2 ^ 32
  let fl := s.le (word + 12) 4 ||| flags
  if fl % 2 = 0 ∨ target = 0 then s.write (cellsFrom word (cellsLE 4 4 count ++ cellsLE 12 4 (fl ||| 16)))
  else
    let t := s.write (cellsFrom word (passTarget count (s.le (word + 8) 4) target fl []))
    if target ≤ count then t.fire word else t

/-- ARINIT's step with a target (R74). -/
def State.initWord (s : State) (word target : Nat) : State :=
  let count := s.le (word + 4) 4
  let fl := s.le (word + 12) 4 / 16 * 16 + 1
  if target = 0 then s.write (cellsFrom word (cellsLE 0 4 0 ++ cellsLE 12 4 fl))
  else
    let t := s.write (cellsFrom word (passTarget count (s.le (word + 8) 4) target fl (cellsLE 0 4 target)))
    if target ≤ count then t.fire word else t

/-! ### Lock bits (R188, R191) -/

/-- Lock bit of the granule at a store offset: bank and bit. -/
def lockBit (off : Nat) : Nat × Nat :=
  let r := off / 16 / 48
  (off / 16 % 48, fld r 0 3 ^^^ fld r 3 3 ^^^ fld r 6 3 ^^^ fld r 9 3)

/-- A lock bit of a core in one number, in the order of core, bank and bit. -/
def lockId (key : Nat) : Nat × Nat × Nat := (keyCore key, lockBit (keyOff key))

/-- Whether a lock record is of a bit. -/
def Lock.at_ (l : Lock) (b : Nat × Nat × Nat) : Bool := l.core == b.1 && l.bank == b.2.1 && l.bit == b.2.2
/-- Whether a queued request is for a bit. -/
def LockReq.at_ (l : LockReq) (b : Nat × Nat × Nat) : Bool := l.core == b.1 && l.bank == b.2.1 && l.bit == b.2.2

/-- The record of a held bit. -/
def State.lockOf (s : State) (b : Nat × Nat × Nat) : Option Lock := s.locks.find? (·.at_ b)

/-- An agent holds a bit by its LL, or it has been granted it. -/
def Lock.ownedBy (l : Lock) (a : Agent) : Bool := l.holder == a && (!l.atomic || l.until_ == 0)

/-- Core and slot of an agent, for ties. -/
def agentOrder : Agent → Nat
  | .group k n => 32 * k + n
  | .proof c => 32 * 384 + c

/-- A queued request comes before another (R191). -/
def LockReq.before (x y : LockReq) : Bool := decide (x.since < y.since) || (x.since == y.since && decide (agentOrder x.agent < agentOrder y.agent))

/-- Number of a bit in increasing order of core, bank and bit. -/
def LockReq.rank (x : LockReq) : Nat := (x.core * 48 + x.bank) * 8 + x.bit

/-- A request that may be granted now: its bit is free, it heads that bit's queue, and it is its agent's lowest. A free bit whose
head still lacks a lower one stays free for it. -/
def State.grantable (s : State) : Option LockReq :=
  s.lockReqs.find? fun x => (s.lockOf (x.core, x.bank, x.bit)).isNone
    && s.lockReqs.all fun y => (y == x || y.rank != x.rank || x.before y) && (!(y.agent == x.agent) || decide (x.rank ≤ y.rank))

/-- Wake an agent that waits for lock bits once none of its requests is left: its unit issues in the next cycle (R191). -/
def State.lockReady (s : State) (a : Agent) : State :=
  if s.lockReqs.any (·.agent == a) then s
  else
    match a with
    | .group k n =>
      match s.group? k n with
      | some g => if g.run == .waiting .lock then s.setGroup { g with run := .ready, notBefore := s.cycle + 1, held := true } else s
      | none => s
    | .proof _ => s

/-- Grant free bits to the heads of their queues. -/
def State.grantLocks (s : State) : Nat → State
  | 0 => s
  | n + 1 =>
    match s.grantable with
    | none => s
    | some x =>
      State.grantLocks (State.lockReady { s with
        locks := s.locks ++ [{ core := x.core, bank := x.bank, bit := x.bit, holder := x.agent, atomic := true, until_ := 0, ll := x.ll }]
        lockReqs := s.lockReqs.filter (· != x) } x.agent) n

/-- Remove lock records and grant what they free. -/
def State.freeLocks (s : State) (p : Lock → Bool) : State :=
  State.grantLocks { s with locks := s.locks.filter fun l => !p l } s.lockReqs.length

/-- Release every bit an agent holds and every request it has queued. -/
def State.dropLocks (s : State) (a : Agent) : State :=
  State.freeLocks { s with lockReqs := s.lockReqs.filter fun r => !(r.agent == a) } fun l => l.ownedBy a

/-- Release the bits granted to an agent whose instruction did not use them, and its places in queues. -/
def State.dropGrants (s : State) (a : Agent) : State :=
  State.freeLocks { s with lockReqs := s.lockReqs.filter fun r => !(r.agent == a) } fun l => l.holder == a && l.atomic && l.until_ == 0

/-- At the end of a cycle, the holds of atomics and SUs that end with it are released. -/
def State.expireLocks (s : State) : State := s.freeLocks fun l => l.atomic && l.until_ != 0 && decide (l.until_ ≤ s.cycle)

/-- Bits that an agent still lacks: what it holds itself, by its LL, a grant, or an access of its own in flight, keeps it from
nothing (R191). -/
def State.lacking (s : State) (a : Agent) (bs : List (Nat × Nat × Nat)) : List (Nat × Nat × Nat) :=
  bs.filter fun b => !(s.lockOf b).any (·.holder == a)

/-- Whether every lacking bit is free now, no one queued before. -/
def State.allFree (s : State) (bs : List (Nat × Nat × Nat)) : Bool :=
  bs.all fun b => (s.lockOf b).isNone && !s.lockReqs.any (·.at_ b)

/-- No bit twice. -/
def dedupBits : List (Nat × Nat × Nat) → List (Nat × Nat × Nat)
  | [] => []
  | b :: bs => b :: (dedupBits bs).filter (· != b)

/-- What keeps an agent's instruction from its lowest missing bit is an LL: the agent waits, and does not try again in each cycle
(R191). -/
def State.behindLL (s : State) (a : Agent) : Bool :=
  s.lockReqs.any fun x => x.agent == a && (s.lockReqs.all fun y => !(y.agent == a) || decide (x.rank ≤ y.rank))
    && (s.lockOf (x.core, x.bank, x.bit)).any (·.ll)

/-- Join the queues of the bits an instruction lacks, where it has not yet, and take those that are free: where an LL holds the next one
the group waits; one that an atomic holds, or that stands free for an atomic before it, is a bank retry in each cycle (R191). -/
def State.queueLocks (s : State) (c : Cur) (ll : Bool) (bs : List (Nat × Nat × Nat)) : State :=
  let new := bs.filter fun b => !s.lockReqs.any fun r => r.agent == c.agent && r.at_ b
  let rs := new.map fun b => ({ core := b.1, bank := b.2.1, bit := b.2.2, agent := c.agent, since := s.cycle, ll := ll } : LockReq)
  let t := State.grantLocks { s with lockReqs := s.lockReqs ++ rs } (s.lockReqs.length + rs.length)
  if t.behindLL c.agent then t.waitAgain c .lock else t.bankRetry c

/-- A group that waits behind an LL tries again in each cycle once an atomic has the bit instead (R191). -/
def State.retryLocks (s : State) : State :=
  (s.groups.filter fun g => g.run == .waiting .lock && !s.behindLL (.group g.core g.slot)).foldl
    (fun s g => s.setGroup { g with run := .ready, notBefore := s.cycle + 1, held := true }) s

/-- Take lock bits for an atomic to the end of a cycle: the bits of the agent's LL stay the LL's, and those of its accesses in flight
are held on. -/
def State.holdBits (s : State) (a : Agent) (bs : List (Nat × Nat × Nat)) (until_ : Nat) : State :=
  let fresh := bs.filter fun b => (s.lockOf b).isNone
  { s with
    locks := (s.locks.map fun l => if l.holder == a && l.atomic && bs.any l.at_ then { l with until_ := max l.until_ until_ } else l)
      ++ fresh.map fun b => { core := b.1, bank := b.2.1, bit := b.2.2, holder := a, atomic := true, until_ := until_, ll := false } }

/-! ### Accesses in flight -/

/-- An access writes memory when it is performed. -/
def LocalOp.writes : LocalOp → Bool
  | .load .. | .forme .. | .debug _ _ _ none _ => false
  | _ => true

/-- An access reads memory. -/
def LocalOp.reads : LocalOp → Bool
  | .load .. | .forme .. | .atomic .. | .debug _ _ _ none _ => true
  | _ => false

/-- The local accesses of an agent in flight. -/
def State.localsOf (s : State) (a : Agent) : List Local := s.locals.filter (·.agent == a)

/-- A debug access (14 R294). -/
def LocalOp.isDebug : LocalOp → Bool
  | .debug .. => true
  | _ => false

/-- The cycle before which an access of latency `lat` may not issue: after the acquires in flight (04 R101), for a release so that
earlier accesses are performed no later (R100), and after a proof core's debug accesses, which are performed in issue order with its
others (14 R296; log 22). 0 when it may issue. -/
def State.orderHold (s : State) (a : Agent) (rel : Bool) (lat : Nat) : Nat :=
  let acq := maxL (((s.localsOf a).filter (·.acq)).map fun l => l.due + 3 - lat)
  let rl := if rel then maxL ((s.localsOf a).map fun l => l.due + 2 - lat) else 0
  let dbg := maxL (((s.localsOf a).filter (·.op.isDebug)).map fun l => l.due + 3 - lat)
  max dbg (max acq rl)

/-- Hold an instruction that 04 R100 or R101 does not let issue yet. -/
def State.ordered (s : State) (c : Cur) (rel : Bool) (lat : Nat) (k : State) : State :=
  if s.cycle < s.orderHold c.agent rel lat then s.retryAt c (s.orderHold c.agent rel lat) else k

/-- Whether an agent's own writes to bytes are still to be performed. -/
def State.ownPending (s : State) (a : Agent) (key n : Nat) : Bool :=
  (s.localsOf a).any fun l => l.op.writes && decide (l.addr < key + n) && decide (key < l.addr + l.size)

/-- Result of a scratch atomic (R193): the new code, the old one as the destination holds it, flags. -/
def atomicStep (op : AtOp) (t : Ty) (old b x : Nat) : Nat × Flags :=
  match t with
  | .flt f =>
    match op with
    | .fadd => faddRN f old b
    | _ => (old, fNone)
  | .int t =>
    let m := t.width
    match op with
    | .add => (wrapN (valI t old + valI t b) m, fNone)
    | .sub => (wrapN (valI t old - valI t b) m, fNone)
    | .min => (wrapN (ibin .min t old b) m, fNone)
    | .max => (wrapN (ibin .max t old b) m, fNone)
    | .and => ((old &&& b) % 2 ^ m, fNone)
    | .or => ((old ||| b) % 2 ^ m, fNone)
    | .xor => ((old ^^^ b) % 2 ^ m, fNone)
    | .exch => (b % 2 ^ m, fNone)
    | .cas => (if old % 2 ^ m = x % 2 ^ m then b % 2 ^ m else old % 2 ^ m, fNone)
    | .fadd => (old, fNone)

/-- The old value of an atomic in a destination of `n` bytes. -/
def atomicOld (t : Ty) (old n : Nat) : Nat :=
  match t with
  | .int t => putI t (8 * n) (valI t old)
  | .flt _ => old

/-- Add result bytes, a register and flags to a pending commit. -/
def State.feed (s : State) (uid : Nat) (cs : List Host.Cell) (rs : List (Nat × DWord)) (f : Flags) : State :=
  { s with commits := s.commits.map fun (m : Commit) =>
      if m.uid == uid then { m with cells := m.cells ++ cs, regs := m.regs ++ rs, flags := m.flags ||| f } else m }

/-- Add a forme image to a pending commit. -/
def State.feedForme (s : State) (uid team r : Nat) (x : Line) : State :=
  { s with commits := s.commits.map fun (m : Commit) =>
      if m.uid == uid then { m with formes := m.formes ++ [(team, r, x)] } else m }

/-- Cells of destination bytes with the bytes of a value. -/
def dstCells (dst : List Nat) (x : Nat) : List Host.Cell := dst.zip (leBytes dst.length x)

/-- A loaded value in `n` destination bytes. -/
def loadValue (sx : Bool) (size n x : Nat) : Nat := if sx then wrapN (sext x (8 * size)) (8 * n) else x

/-- Registers of a proof core that a value goes to. -/
def dstReg (reg : Option Nat) (x : Nat) : List (Nat × DWord) :=
  match reg with
  | some r => if r = 0 then [] else [(r, .ofNat 64 x)]
  | none => []

/-- Perform one access (04 R92). -/
def State.performOne (s : State) (l : Local) : State :=
  match l.op with
  | .load sx dst reg =>
    let x := s.le l.addr l.size
    s.feed l.commit (dstCells dst (loadValue sx l.size dst.length x)) (dstReg reg (loadValue sx l.size 8 x)) fNone
  | .store bs => s.write (cellsAt l.addr bs)
  | .count n => s.countAdd (l.addr / 16 * 16) n 0
  | .forme team r => s.feedForme l.commit team r (.ofNat 512 (s.le l.addr 64))
  | .init t => s.initWord l.addr t
  | .atomic op t b x dst reg =>
    let old := s.le l.addr l.size
    let r := atomicStep op t old b x
    State.feed (s.write (cellsLE l.addr l.size r.1)) l.commit (dstCells dst (atomicOld t old dst.length))
      (dstReg reg (atomicOld t old 8)) r.2
  | .debug .. => s

/-- A group waits for its own writes, and none is left. -/
def State.ownDone (s : State) (g : Group) : Bool :=
  match g.run with
  | .waiting (.ownWrites key n) => !s.ownPending (.group g.core g.slot) key n
  | _ => false

/-- Wake the groups whose own writes are all performed. -/
def State.wakeOwn (s : State) : State := (s.groups.filter s.ownDone).foldl (fun s g => s.wake g) s

/-- Write a commit's results: bytes, registers of a proof core, formes, flags (01 R31, 02 R47). The registers of a group are bytes. -/
def State.applyCommit (s : State) (m : Commit) : State :=
  let s := s.write m.cells
  let s := match m.agent with
    | .proof _ => m.regs.foldl (fun (s : State) (r : Nat × DWord) => s.setSregA m.agent r.1 r.2) s
    | .group .. => s
  let s := m.formes.foldl (fun s f =>
    match s.team? f.1 with
    | some t => s.setTeam { t with formes := t.formes.setIfInBounds f.2.1 f.2.2 }
    | none => s) s
  s.raiseLate m.agent m.flags

/-! ### Address checks of a group (R181) -/

/-- The lanes that fail the deciding step: the step, the lowest one's address, their mask. -/
def State.laneFails (s : State) (g : Group) (acc : List Nat) (store plain8 : Bool) (n : Nat) (as : List (Nat × Nat)) :
    Option (Nat × Nat × DWord) :=
  let ks := as.map fun a => (a, s.addrStep g acc store plain8 a.2 n)
  let bad := ks.filter (·.2 != 0)
  let step := bad.foldl (fun m k => min m k.2) 9
  let fs := bad.filter (·.2 == step)
  match fs with
  | [] => none
  | f :: _ => some (step, f.1.2, maskOf (fs.map (·.1.1)))

/-- First poisoned granule that reads of runs of keys would meet (18 R390). -/
def State.badRead (s : State) (rs : List (Nat × Nat)) : Option Nat :=
  rs.findSome? fun r => (s.badKey r.1 r.2).map fun k => keyOff k / 16 * 16

/-- Check lane accesses and go on, or trap. Granted lock bits of a trapped instruction are released. -/
def State.checked (s : State) (c : Cur) (g : Group) (acc : List Nat) (store plain8 : Bool) (n : Nat)
    (as : List (Nat × Nat)) (k : State) : State :=
  match s.laneFails g acc store plain8 n as with
  | some f => State.dropGrants (s.trapAt c c.pc (stepCause f.1) 0 (.ofNat 64 f.2.1) f.2.2) c.agent
  | none => k

/-- An instruction that reads runs of keys, or UNCORR at it for an uncorrectable word among them (18 R390). The words are looked at when the
instruction issues, after every wait before its issue. A load in flight reads later: that a write of the same group which is in flight
at the load's issue, and lands before it reads, does not lift the trap is the model's choice, since the spec does not say when the error is
met (DESIGN CHOICE, log 35). -/
def State.sound (s : State) (c : Cur) (rs : List (Nat × Nat)) (k : State) : State :=
  match s.badRead rs with
  | some x => State.dropGrants (s.trapAt c c.pc cUNCORR 0 (.ofNat 64 x) 0) c.agent
  | none => k

/-- The runs of keys that lane accesses of `n` bytes reach. -/
def State.runsAt (s : State) (g : Group) (n : Nat) (as : List (Nat × Nat)) : List (Nat × Nat) := as.map fun a => ((s.locate g a.2).1, n)

/-- Greatest latency of lane accesses, 0 for none. -/
def State.latOf (s : State) (g : Group) (as : List (Nat × Nat)) : Nat := maxL (as.map fun a => (s.locate g a.2).2)

/-- An access through aperture 0x2 to the bytes of s0 (01 R19). -/
def isZeroReg (a n : Nat) : Bool := a / 2 ^ 28 % 16 == 2 && decide (a % 2 ^ 28 + n ≤ 8)

/-- Put a group of lane accesses in flight under one number, each lane due by its own latency. -/
def State.launchLocals (s : State) (ls : List Local) : State := { s with locals := s.locals ++ ls }

/-! ### Sizes and addresses (R182, R183) -/

/-- Access size in bytes. -/
def wsize : Width → Nat
  | .b => 1
  | .h => 2
  | .w => 4
  | .d => 8

/-- Address of lane i. -/
def vaddr (s : State) (g : Group) (md : VMode) (base size i : Nat) : Nat :=
  match md with
  | .unit => (base + i * size) % 2 ^ 32
  | .offset b => (base + s.vlane g b.toNat i) % 2 ^ 32
  | .bcast => base % 2 ^ 32

/-- Base of an access: sA[31:0] plus the displacement. -/
def baseOf (s : State) (a : Agent) (r : SReg) (disp : Nat) : Nat := (s.sregA a r.toNat).toNat % 2 ^ 32 + disp

/-- Displacement of the long form, in units of the size. -/
def dispOf (wd : Width) (m : Byte) : Nat := m.toNat * (wsize wd)

/-- Keys of the destination bytes of a loaded lane. -/
def laneDst (g : Group) (d i size : Nat) : List Nat :=
  (List.range 4).map (g.vkey d i + ·) ++ (if size = 8 then (List.range 4).map (g.vkey (d + 1) i + ·) else [])

/-- VLD (R184, R186). -/
def vectorLoad (s : State) (gd : MReg) (la : BitVec 4) (md : VMode) (wd : Width) (sx : Bool) (d : VReg) (a : SReg)
    (disp : Nat) : Out :=
  withGroup s fun c g =>
    let ls := g.lanes gd
    let as := ls.map fun i => (i, vaddr s g md (baseOf s c.agent a disp) (wsize wd) i)
    let lat := s.latOf g as
    s.checked c g apAll false (wd == .w) (wsize wd) as <| s.ordered c false (min lat 20) <| s.sound c (s.runsAt g (wsize wd) as) <|
      if as.isEmpty then s.finish c
      else
        let u := s.uid
        let t := State.later { s with uid := u + 1 } c lat la.toNat id
        t.launchLocals (as.map fun x =>
          let k := s.locate g x.2
          { uid := u, agent := c.agent, due := s.cycle + k.2 - 2, commit := u + 1, addr := k.1, size := (wsize wd), acq := false
            op := .load sx (laneDst g d.toNat x.1 (wsize wd)) none })

/-- The value a lane stores. -/
def storeValue (s : State) (g : Group) (d i size : Nat) : Nat :=
  s.vlane g d i + (if size = 8 then 2 ^ 32 * s.vlane g (d + 1) i else 0)

/-- What a 4-byte store through aperture 0x8 does (03 R75): a store to COUNT counts, unless the whole word is written
at once. -/
def apStore (whole : Bool) (addr x size : Nat) : LocalOp :=
  if isZeroReg addr size then .store []
  else if addr / 2 ^ 28 % 16 = 8 ∧ addr % 16 = 4 ∧ !whole then .count (x % 2 ^ 32)
  else .store (leBytes size x)

/-- All four words of the arrival word of an address are among the addresses (R187). -/
def wholeWord (as : List (Nat × Nat)) (addr : Nat) : Bool :=
  [0, 4, 8, 12].all fun o => as.any fun x => x.2 == addr / 16 * 16 + o

/-- A lane store of R187 that counts is a release (04 R99). -/
def countsAt (unit : Bool) (as : List (Nat × Nat)) (x : Nat × Nat) : Bool :=
  x.2 / 2 ^ 28 % 16 == 8 && x.2 % 16 == 4 && !(unit && wholeWord as x.2)

/-- VST (R185, R186): lanes in increasing order, so that the higher lane's byte stays. -/
def vectorStore (s : State) (gd : MReg) (off : Option VReg) (wd : Width) (d : VReg) (a : SReg) (disp : Nat) : Out :=
  withGroup s fun c g =>
    let ls := g.lanes gd
    let md : VMode := match off with
      | some b => .offset b
      | none => .unit
    let as := ls.map fun i => (i, vaddr s g md (baseOf s c.agent a disp) (wsize wd) i)
    let rel := as.any (countsAt off.isNone as)
    s.checked c g apAll true (wd == .w) (wsize wd) as <| s.ordered c rel 20 <|
      let t := State.finish { s with uid := s.uid + 1 } c
      t.launchLocals (as.map fun x =>
        let k := s.locate g x.2
        { uid := s.uid, agent := c.agent, due := s.cycle + k.2 - 1, commit := 0, addr := k.1, size := (wsize wd), acq := false
          op := apStore (off.isNone && wholeWord as x.2) x.2 (storeValue s g d.toNat x.1 (wsize wd) % 2 ^ (8 * (wsize wd))) (wsize wd) })

/-! ### Scalar accesses of groups and proof cores -/

/-- A scalar access after its checks: memory key and latency. On a proof core only aperture 0x0 of its 64 KiB is
there (14 R286); what would trap halts it. -/
def State.scalarAccess (s : State) (c : Cur) (acc : List Nat) (store plain8 : Bool) (addr n : Nat)
    (k : Nat → Nat → State) : State :=
  match c.agent with
  | .proof p =>
    if addr % n ≠ 0 ∨ 65536 < addr + n then s.trap c (if 65536 < addr + n then cLOCALRANGE else cALIGN)
    else k (proofKey p addr) 20
  | .group core slot =>
    match s.group? core slot with
    | none => s
    | some g => s.checked c g acc store plain8 n [(0, addr)] (k (s.locate g addr).1 (s.locate g addr).2)

/-- Keys of the bytes of a scalar destination of the issuing agent, and its proof-core register. -/
def scalarDst (s : State) (a : Agent) (r : Nat) : List Nat × Option Nat :=
  match a with
  | .proof _ => ([], some r)
  | .group k n =>
    match s.group? k n with
    | some g => (if r = 0 then [] else (List.range 8).map (g.skey r + ·), none)
    | none => ([], none)

/-- A scalar read in flight with its commit. -/
def State.launchLoad (s : State) (c : Cur) (la key lat size : Nat) (sx acq : Bool) (d : Nat) : State :=
  let u := s.uid
  let dst := scalarDst s c.agent d
  let t := State.later { s with uid := u + 1 } c lat la id
  t.launchLocals [{ uid := u, agent := c.agent, due := s.cycle + lat - 2, commit := u + 1, addr := key, size := size
                    acq := acq, op := .load sx dst.1 dst.2 }]

/-- SLD (R184). -/
def scalarLoad (s : State) (la : BitVec 4) (wd : Width) (sx : Bool) (d a : SReg) (disp : Nat) : Out :=
  withAgent s fun c =>
    let addr := baseOf s c.agent a disp % 2 ^ 32
    s.scalarAccess c apAll false (wd == .w) addr (wsize wd) fun key lat =>
      s.ordered c false lat <| s.sound c [(key, wsize wd)] (s.launchLoad c la.toNat key lat (wsize wd) sx false d.toNat)

/-- A store in flight. -/
def State.launchStore (s : State) (c : Cur) (key lat size : Nat) (op : LocalOp) : State :=
  let t := State.finish { s with uid := s.uid + 1 } c
  t.launchLocals [{ uid := s.uid, agent := c.agent, due := s.cycle + lat - 1, commit := 0, addr := key, size := size
                    acq := false, op := op }]

/-- SST (R185). -/
def scalarStore (s : State) (wd : Width) (d a : SReg) (disp : Nat) : Out :=
  withAgent s fun c =>
    let addr := baseOf s c.agent a disp % 2 ^ 32
    let x := (s.sregA c.agent d.toNat).toNat % 2 ^ (8 * (wsize wd))
    let counts := addr / 2 ^ 28 % 16 == 8 && addr % 16 == 4
    s.scalarAccess c apAll true (wd == .w) addr (wsize wd) fun key lat =>
      s.ordered c counts lat (s.launchStore c key lat (wsize wd) (apStore false addr x (wsize wd)))

/-! ### LL, SU (R189, R190) -/

/-- The granule an agent's LL holds: its core and store offset (a proof core's memory stands for core 0). -/
def State.heldLock (s : State) (a : Agent) : Option (Nat × Nat) :=
  match a with
  | .group k n => (s.group? k n).bind (·.lock)
  | .proof c => (s.proof c).lock.map fun x => (0, x)

/-- Set the granule an agent's LL holds. -/
def State.setHeld (s : State) (a : Agent) (x : Option (Nat × Nat)) : State :=
  match a with
  | .group k n =>
    match s.group? k n with
    | some g => s.setGroup { g with lock := x }
    | none => s
  | .proof c => s.setProof { s.proof c with lock := x.map (·.2) }

/-- An instruction that may not run under a lock (R190). -/
def State.unlocked (s : State) (c : Cur) (k : State) : State :=
  if (s.heldLock c.agent).isSome then s.trap c cLOCK else k

/-- Take the lock bits an instruction needs and go on, or queue for them (R191). A proof core's own memory has one user. -/
def State.withBits (s : State) (c : Cur) (ll : Bool) (keys : List Nat) (k : State) : State :=
  match c.agent with
  | .proof _ => k
  | .group .. =>
    let lack := s.lacking c.agent (dedupBits (keys.map lockId))
    if lack.isEmpty || s.allFree lack then k else s.queueLocks c ll lack

/-- LL's bit is the agent's until its SU. -/
def State.holdLL (s : State) (a : Agent) (b : Nat × Nat × Nat) : State :=
  { s with locks := (s.locks.filter fun l => !l.at_ b) ++
      [{ core := b.1, bank := b.2.1, bit := b.2.2, holder := a, atomic := false, until_ := 0, ll := true }] }

/-- LL (R189). LOCK is decided before the address checks (R190); among those LL is a load (R81). -/
def execLl (la : BitVec 4) (dbl : Bool) (acq : Option Scope) (d a : SReg) (disp : Byte) (s : State) : Out :=
  withAgent s fun c =>
    let n := if dbl then 8 else 4
    let addr := baseOf s c.agent a (disp.toNat * n) % 2 ^ 32
    if (s.heldLock c.agent).isSome then s.trap c cLOCK
    else
      s.scalarAccess c [0, 1, 2, 3, 4, 5, 6, 7, 8] false false addr n fun key lat =>
        s.withBits c true [key] <| s.ordered c false lat <| s.sound c [(key, n)] <|
          let t := s.launchLoad c la.toNat key lat n false acq.isSome d.toNat
          match c.agent with
          | .proof _ => t.setHeld c.agent (some (0, addr / 16 * 16))
          | .group .. => State.setHeld (t.holdLL c.agent (lockId key)) c.agent (some (keyCore key, keyOff key / 16 * 16))

/-- The granule an SU names is the one its LL took. -/
def sameGranule (s : State) (a : Agent) (addr : Nat) : Bool :=
  match a with
  | .proof _ => s.heldLock a == some (0, addr / 16 * 16)
  | .group k n =>
    match s.group? k n with
    | none => false
    | some g =>
      match s.aperture g addr with
      | .region r => s.heldLock a == some (r.core, (r.base + addr % 2 ^ 28) / 16 * 16)
      | _ => false

/-- SU (R189): the bit is released at the end of the cycle in which the store is performed. For the LOCK checks of later
instructions the group holds no lock from the issue of its SU on (log 35). -/
def execSu (dbl : Bool) (rel : Option Scope) (d a : SReg) (disp : Byte) (s : State) : Out :=
  withAgent s fun c =>
    let n := if dbl then 8 else 4
    let addr := baseOf s c.agent a (disp.toNat * n) % 2 ^ 32
    let x := (s.sregA c.agent d.toNat).toNat % 2 ^ (8 * n)
    if !sameGranule s c.agent addr then s.trap c cLOCK
    else
      s.scalarAccess c [0, 1, 2, 3, 4, 5, 6, 7, 8] true false addr n fun key lat =>
        s.ordered c rel.isSome lat <|
          let t := State.setHeld (s.launchStore c key lat n (if isZeroReg addr n then .store [] else .store (leBytes n x))) c.agent none
          { t with locks := t.locks.map fun l =>
              if l.at_ (lockId key) && l.holder == c.agent && !l.atomic then { l with atomic := true, until_ := s.cycle + lat - 1 } else l }

/-! ### Scratch atomics (R192, R193) -/

/-- An order has an acquire part. -/
def orderAcq : AOrd → Bool
  | .acq | .acqrel => true
  | _ => false

/-- An order has a release part. -/
def orderRel : AOrd → Bool
  | .rel | .acqrel => true
  | _ => false

/-- Bytes of an atomic's location. -/
def atomicSize : Ty → Nat
  | .int t => t.width / 8
  | .flt _ => 4

/-- An atomic on the bytes of s0 reads zero and writes nothing. -/
def atomicOp (op : AtOp) (t : Ty) (b x addr : Nat) (dst : List Nat) (reg : Option Nat) : LocalOp :=
  if isZeroReg addr (atomicSize t) then .load false dst reg else .atomic op t b x dst reg

/-- VATOM: each active lane in increasing order. -/
def execVatom (gd : MReg) (la : BitVec 4) (op : AtOp) (ord : AOrd) (_sc : AScope) (t : Ty) (d a b x : VReg) (s : State) : Out :=
  withGroup s fun c g =>
    let as := (g.lanes gd).map fun i => (i, s.vlane g a.toNat i)
    let lat := s.latOf g as
    let n := (atomicSize t)
    s.checked c g apAll true false n as <|
      if as.isEmpty then s.finish c
      else
        let keys := as.map fun y => (s.locate g y.2).1
        s.withBits c false keys <| s.ordered c (orderRel ord) (min lat 20) <| s.sound c (s.runsAt g n as) <|
          let u := s.uid
          let r := State.holdBits { s with uid := u + 1 } c.agent (dedupBits (keys.map lockId)) (s.cycle + lat - 1)
          let r := r.later c lat la.toNat id
          r.launchLocals (as.map fun y =>
            let k := s.locate g y.2
            { uid := u, agent := c.agent, due := s.cycle + k.2 - 1, commit := u + 1, addr := k.1, size := n, acq := (orderAcq ord)
              op := atomicOp op t (s.vlane g b.toNat y.1) (s.vlane g x.toNat y.1) y.2 ((List.range 4).map (g.vkey d.toNat y.1 + ·)) none })

/-- SATOM: one group-level access. -/
def execSatom (la : BitVec 4) (op : AtOp) (ord : AOrd) (_sc : AScope) (t : Ty) (d a b x : SReg) (s : State) : Out :=
  withAgent s fun c =>
    let n := (atomicSize t)
    let addr := baseOf s c.agent a 0
    s.scalarAccess c apAll true false addr n fun key lat =>
      s.withBits c false [key] <| s.ordered c (orderRel ord) lat <| s.sound c [(key, n)] <|
        let u := s.uid
        let dst := scalarDst s c.agent d.toNat
        let r := match c.agent with
          | .proof _ => { s with uid := u + 1 }
          | .group .. => State.holdBits { s with uid := u + 1 } c.agent [lockId key] (s.cycle + lat - 1)
        let r := r.later c lat la.toNat id
        r.launchLocals [{ uid := u, agent := c.agent, due := s.cycle + lat - 1, commit := u + 1, addr := key, size := n
                          acq := (orderAcq ord)
                          op := atomicOp op t (s.sregA c.agent b.toNat).toNat (s.sregA c.agent x.toNat).toNat addr dst.1 dst.2 }]

/-! ### Loads and stores -/

/-- VLD, long form. -/
def execVldLong (g : MReg) (la : BitVec 4) (md : VMode) (wd : Width) (sx : Bool) (d : VReg) (a : SReg) (disp : Byte) (s : State) : Out :=
  vectorLoad s g la md wd sx d a (dispOf wd disp)

/-- VLD, literal form. -/
def execVldLiteral (g : MReg) (la : BitVec 4) (md : VMode) (wd : Width) (sx : Bool) (d : VReg) (a : SReg) (lit : Word) (s : State) : Out :=
  vectorLoad s g la md wd sx d a lit.toNat

/-- VST, long form. -/
def execVstLong (g : MReg) (off : Option VReg) (wd : Width) (d : VReg) (a : SReg) (disp : Byte) (s : State) : Out :=
  vectorStore s g off wd d a (dispOf wd disp)

/-- VST, literal form. -/
def execVstLiteral (g : MReg) (off : Option VReg) (wd : Width) (d : VReg) (a : SReg) (lit : Word) (s : State) : Out :=
  vectorStore s g off wd d a lit.toNat

/-- SLD, long form. -/
def execSldLong (la : BitVec 4) (wd : Width) (sx : Bool) (d a : SReg) (disp : Byte) (s : State) : Out :=
  scalarLoad s la wd sx d a (dispOf wd disp)

/-- SLD, literal form. -/
def execSldLiteral (la : BitVec 4) (wd : Width) (sx : Bool) (d a : SReg) (lit : Word) (s : State) : Out :=
  scalarLoad s la wd sx d a lit.toNat

/-- SST, long form. -/
def execSstLong (wd : Width) (d a : SReg) (disp : Byte) (s : State) : Out := scalarStore s wd d a (dispOf wd disp)

/-- SST, literal form. -/
def execSstLiteral (wd : Width) (d a : SReg) (lit : Word) (s : State) : Out := scalarStore s wd d a lit.toNat

end Sys2Proof.Machine
end

