-- ==== Sys2Proof/Machine/Life.lean ====
section
/-! DEFINITION. The end of groups and teams (07 R176, 03 R84, R90, 09 R222, 10 R242): freeing store regions and tiles,
NOSTOP records of errors that no group takes (14 R289, R290), and EXIT's effect. -/

namespace Sys2Proof.Machine

/-- Bytes of a window, rounded as placement takes them (01 R18). -/
def windowBytes (vregs width : Nat) : Nat := roundUp (vregs * 4 * width) 768

/-- An access to a core's store, not to the state behind the debug window, whose offset is no key (14 R294). -/
def Local.onStore (l : Local) : Bool :=
  match l.op with
  | .debug .. => false
  | _ => true

/-- An access in flight to freed bytes: a write is discarded (11 R259); an atomic still reads. -/
def Local.dropIn (lo n : Nat) (l : Local) : Option Local :=
  if l.addr < lo + n ∧ lo < l.addr + l.size then
    match l.op with
    | .load .. | .forme .. | .debug .. => some l
    | .atomic _ _ _ _ dst reg => some { l with op := .load false dst reg }
    | _ => none
  else some l

/-- Free a region of a core's store: it is zeroed before anything is given it (07 R176, 11 R254). -/
def State.freeRegion (s : State) (core lo n : Nat) : State :=
  if n = 0 then s
  else
    let k := storeKey core lo
    State.zero { s with locals := s.locals.filterMap (Local.dropIn k n) } k n

/-- Zero a tile (09 R222). -/
def State.freeTile (s : State) (core tile : Nat) : State := s.zero (tileKey core tile) 4096

/-- Zero regions of a core, as (store offset, bytes), and tiles, before they are given out (07 R176, 09 R222, 11 R254). -/
def State.give (s : State) (core : Nat) (rs : List (Nat × Nat)) (tiles : List Nat) : State :=
  let s := rs.foldl (fun s r => if r.2 = 0 then s else s.zero (storeKey core r.1) r.2) s
  tiles.foldl (fun s n => s.freeTile core n) s

/-- A NOSTOP record (14 R290). -/
def State.nostop (s : State) (g : Group) (cause : Nat) (x y : DWord) : State :=
  let num := ((s.team? g.team).map (·.num)).getD 0
  let hw := (((s.team? g.team).bind fun t => s.launch? t.launch).map (·.hw)).getD 0
  let paired := ((s.team? g.team).map (·.paired)).getD false
  s.queueRecord (clusterOf g.core) true
    { a := recordA num (s.partOf g.core) paired true g.core g.slot hw 0 cause, b := 0, c := x, d := y }

/-- ORPHAN: an error whose issuing group has gone (R289). -/
def State.orphan (s : State) (g : Group) (e : Nat × Nat) : State :=
  let num := ((s.team? g.team).map (·.num)).getD 0
  s.nostop g cORPHAN (.ofNat 64 e.1) (.ofNat 64 (e.2 + 2 ^ 48 * (num / 2 ^ 16 % 2 ^ 16)))

/-- ORPHAN of a ligature fault (10 R242): an UNCORR names its bad granule; for another cause the record's place is not given, and is
free (log 3). -/
def State.orphanFault (s : State) (g : Group) (f : LigFault) : State :=
  if f.cause = cUNCORR then s.orphan g (f.c.toNat, f.d.toNat)
  else
    let x := s.freeWord
    let t : State := x.2
    let num := ((s.team? g.team).map (·.num)).getD 0
    t.nostop g cORPHAN x.1 (x.1 &&& 3 ||| BitVec.ofNat 64 (2 ^ 48 * (num / 2 ^ 16 % 2 ^ 16)))

/-- The fault that a group's operation left in its engine goes with the group, if it has not taken it. -/
def State.orphanLig (s : State) (g : Group) : State :=
  match (s.ligs.find? fun e => e.core == g.core && e.team == some g.team && e.faultBy == some g.slot).bind (·.fault) with
  | some f =>
    State.orphanFault { s with ligs := s.ligs.map fun (e : LigEngine) => if e.core == g.core then { e with faultBy := none } else e } g f
  | none => s

/-- Report the errors a group has not taken (09 R224, 10 R238, R242). -/
def State.orphans (s : State) (g : Group) : State :=
  ((g.uncorrM ++ g.uncorrL).foldl (fun s e => s.orphan g e) s).orphanLig g

/-- Whether matrix or ligature operations of a group are outstanding. -/
def State.opsOf (s : State) (core slot : Nat) : Bool :=
  (s.mats.any fun m => m.core == core && m.slot == slot)
    || s.ligOps.any fun m => m.core == core && m.slot == slot

/-- The engine of a core as LIGCLR leaves it, its owner kept (10 R240). -/
def LigEngine.cleared (e : LigEngine) : LigEngine :=
  { e with bound := none, run := none, levels := [], mark := 0, fault := none, faultBy := none, stale := false }

/-- Clear a core's ligature engine: every value +0.0 (10 R240). -/
def State.clearLig (s : State) (core : Nat) : State :=
  { s with
    mem := s.mem.filter fun c => !(decide (valueKey core 0 ≤ c.1) && decide (c.1 < valueKey core 16384))
    poison := s.poison.filter fun w => !(decide (valueKey core 0 ≤ 8 * w) && decide (8 * w < valueKey core 16384))
    ligs := s.ligs.map fun (e : LigEngine) => if e.core == core then { e.cleared with marked := s.uid } else e }

/-- A local access in flight reaches a team's folio: it is performed before the folio is freed (04 R92). -/
def State.folioBusy (s : State) (t : Team) : Bool :=
  t.seats.any fun x => s.locals.any fun l => l.onStore && decide (storeKey x.core x.folio < l.addr + l.size)
    && decide (l.addr < storeKey x.core (x.folio + t.krec.folio))

/-- Whether a team still holds its place: groups, chase entries, matrix or ligature operations, accesses in flight (03 R84, 04 R92,
09 R222, 10 R242). -/
def State.holdsPlace (s : State) (t : Team) : Bool :=
  (s.groups.any (·.team == t.uid)) || (s.chases.any (·.team == t.uid)) || (s.mats.any (·.team == t.uid))
    || s.ligOps.any (·.team == t.uid) || (s.cmds.any fun m => m.team == t.uid && m.charged) || s.folioBusy t

/-- Give up an exited team's folio, tiles and engine once nothing holds them. The bytes of its folio and tiles stay until they are given
out again (`State.give`), as 12 R273 finds them at exit. -/
def State.reap (s : State) (team : Nat) : State :=
  match s.team? team with
  | none => s
  | some t =>
    if !t.exited || s.holdsPlace t then s
    else
      let s := t.seats.foldl (fun s x =>
        if s.ligs.any fun e => e.core == x.core && e.team == some team then
          let s := s.clearLig x.core
          { s with ligs := s.ligs.filter fun e => e.core != x.core }
        else s) s
      { s with teams := s.teams.filter (·.uid != team) }

/-- Release the slot of an exited group once its operations are over, and its team after it. -/
def State.releaseSlot (s : State) (core slot : Nat) : State :=
  match s.group? core slot with
  | none => s
  | some g =>
    if g.run == .exited && !s.opsOf core slot then
      State.reap { s with groups := s.groups.filter fun h => !(h.core == core && h.slot == slot) } g.team
    else s

/-- The pending commits of a group that ends: only forme images, which are team state, are still written. -/
def Commit.ending (a : Agent) (m : Commit) : Option Commit :=
  if m.agent == a then
    if m.formes.isEmpty && !m.reserved then none else some { m with cells := [], regs := [], flags := 0, left := 0 }
  else some m

/-- The reads in flight of a group that ends write nothing. -/
def Local.ending (a : Agent) (l : Local) : Local :=
  if l.agent == a then
    match l.op with
    | .load sx _ _ => { l with op := .load sx [] none }
    | .atomic op t b x _ _ => { l with op := .atomic op t b x [] none }
    | _ => l
  else l

/-- A group ends (07 R176): its window and scalar block are freed, and its slot unless operations hold it; the team
exits with its last group. -/
def State.endGroup (s : State) (core slot : Nat) : State :=
  match s.group? core slot with
  | none => s
  | some g =>
    let a := Agent.group core slot
    let s := s.orphans g
    let s := s.dropLocks a
    let s := { s with commits := s.commits.filterMap (Commit.ending a), locals := s.locals.map (Local.ending a) }
    let s := s.freeRegion core g.win (windowBytes g.vregs g.width)
    let s := s.freeRegion core g.sblk 1024
    let s := s.setGroup { g with run := .exited, uncorrM := [], uncorrL := [], lock := none }
    let s := if (s.members g.team).all (·.run == .exited) then
        match s.team? g.team with
        | some t => s.setTeam { t with exited := true }
        | none => s
      else s
    let peers := ((s.team? g.team).map s.setOf).getD []
    peers.foldl State.barriers (s.releaseSlot core slot)

end Sys2Proof.Machine
end

