-- ==== Sys2Proof/Machine/Flow.lean ====
section
/-! DEFINITION. Control instructions (07 R169 to R175), traps and breakpoints (R177), and special registers (R178,
R179), with the diagnostic counters of 17 R367. -/

namespace Sys2Proof.Machine

/-! ### Branches (R170, R171) -/

/-- Condition of BRS. -/
def scondHolds (k : SCond) (x : DWord) : Bool :=
  match k with
  | .z => x == 0
  | .nz => x != 0
  | .lt => decide (x.toInt < 0)
  | .ge => decide (0 ≤ x.toInt)

/-- Condition of BRM over the running lanes. -/
def mcondHolds (k : MCond) (m run : DWord) : Bool :=
  match k with
  | .any => m &&& run != 0
  | .all => run &&& ~~~m == 0
  | .none => m &&& run == 0

/-- Transfer to a line-relative target, or go on. -/
def State.branch (s : State) (c : Cur) (taken : Bool) (t : Target) : State :=
  if taken then s.transfer c (targetAddr c.pc t) id else s.finish c

/-- NOP. -/
def execNop (s : State) : Out := withAgent s fun c => s.finish c

/-- BRA. -/
def execBra (t : Target) (s : State) : Out := withAgent s fun c => s.branch c true t

/-- BRS. -/
def execBrs (k : SCond) (a : SReg) (t : Target) (s : State) : Out :=
  withAgent s fun c => s.branch c (scondHolds k (s.sregA c.agent a.toNat)) t

/-- BRM; a proof core has neither masks nor lanes, and both are free values there (log 16). -/
def execBrm (k : MCond) (a : MReg) (t : Target) (s : State) : Out :=
  withAgent s fun c =>
    match c.agent with
    | .proof _ =>
      State.branch { s with fresh := s.fresh + 2 } c (mcondHolds k (Config.proofMask s.fresh) (Config.proofMask (s.fresh + 1))) t
    | .group core slot =>
      match s.group? core slot with
      | none => s
      | some g => s.branch c (mcondHolds k (g.mask a) g.running) t

/-- JMP. -/
def execJmp (a : SReg) (s : State) : Out :=
  withAgent s fun c => s.transfer c (s.sregA c.agent a.toNat).toNat id

/-- CALL through a register: the return address is written after the target is read. -/
def execCallLong (d a : SReg) (s : State) : Out :=
  withAgent s fun c => s.transfer c (s.sregA c.agent a.toNat).toNat fun s => s.setSregA c.agent d.toNat c.next

/-- CALL to a literal target. -/
def execCallLiteral (d : SReg) (t : Target) (s : State) : Out :=
  withAgent s fun c => s.transfer c (targetAddr c.pc t) fun s => s.setSregA c.agent d.toNat c.next

/-- RET. -/
def execRet (e : EReg) (s : State) : Out :=
  withAgent s fun c => s.transfer c (s.sregA c.agent e.toNat).toNat id

/-! ### Divergence (01 R30, R172) -/

/-- Put a rejoin register back. -/
def Group.setRejoin (g : Group) (d : JReg) (j : Rejoin) : Group := { g with rejoins := g.rejoins.set d.toNat j }

/-- Release(j): free the parked lanes and go to the rejoin point, or go on. -/
def State.releaseJoin (s : State) (c : Cur) (g : Group) (d : JReg) (j : Rejoin) : State :=
  if j.enrolled &&& ~~~j.arrived = 0 then
    State.jump (s.setGroup (g.setRejoin d { j with parked := 0, valid := false })) c j.point
  else State.finish (s.setGroup (g.setRejoin d j)) c

/-- ENROL. The rejoin point is checked first. -/
def execEnrol (gd : MReg) (d : JReg) (t : Target) (s : State) : Out :=
  withGroup s fun c g =>
    let addr := targetAddr c.pc t
    let j := g.rejoins[d.toNat]
    match s.targetOk c.agent addr with
    | .cause n => s.trap c n
    | .fault r l e => s.codeFault c (lineOf addr) r l e
    | .busy => s.retryAt c 0
    | .ok =>
      if j.valid && j.parked != 0 then s.trap c cREJOIN
      else
        State.finish (s.setGroup (g.setRejoin d
          { enrolled := g.active gd, arrived := 0, point := .ofNat 64 addr, parked := j.parked, valid := true })) c

/-- PARK. -/
def execPark (gd : MReg) (d : JReg) (s : State) : Out :=
  withGroup s fun c g =>
    let j := g.rejoins[d.toNat]
    let act := g.active gd
    s.unlocked c <|
      if !j.valid then s.trap c cREJOIN
      else if g.running &&& ~~~act = 0 ∧ j.enrolled &&& ~~~(j.arrived ||| act) ≠ 0 then s.trap c cSTRANDED
      else s.releaseJoin c g d { j with arrived := j.arrived ||| act, parked := j.parked ||| act }

/-- STRIKE. -/
def execStrike (gd : MReg) (d : JReg) (s : State) : Out :=
  withGroup s fun c g =>
    let j := g.rejoins[d.toNat]
    if !j.valid then s.trap c cREJOIN
    else s.releaseJoin c g d { j with enrolled := j.enrolled &&& ~~~g.active gd }

/-! ### Safe points and yielding (R174, R175) -/

/-- Whether a pre-emption request is pending for the context of a team (14 R301). -/
def State.preempting (s : State) (team : Nat) : Bool :=
  s.preempts.any fun p => (p.st == 1 || p.st == 2) && p.teams.any (· == team)

/-- Every group of a context being saved has stopped: its unsent requests stay (14 R305). -/
def State.draining (s : State) (team : Nat) : Bool :=
  s.preempts.any fun p => (p.st == 2 || p.st == 3) && p.teams.any (· == team)
    && s.groups.all fun g => !p.teams.any (· == g.team) || (match g.run with
      | .saving .. | .exited => true
      | _ => false)

/-- The context of a team is being written to its save area: nothing of it changes any more (14 R305 step 3). -/
def State.saving (s : State) (team : Nat) : Bool := s.preempts.any fun p => p.st == 3 && p.teams.any (· == team)

/-- A group stops for a pre-emption request; a wait that is left issues again after the save (14 R301). -/
def State.stopGroup (s : State) (core slot : Nat) (k : StopKind) (r : Option TrapRec) : State :=
  match s.group? core slot with
  | none => s
  | some g =>
    let s := s.setGroup { g with run := .saving k r }
    { s with preempts := s.preempts.map fun (p : Preempt) => if p.st == 1 && p.teams.any (· == g.team) then { p with st := 2 } else p }

/-- The completion of SAFEPT: go on, or stop at the safe point. -/
def State.safeptEnd (s : State) (c : Cur) (idx : Nat) : State :=
  let t := s.resume c
  match c.agent with
  | .proof _ => t
  | .group k n =>
    match t.group? k n with
    | none => t
    | some g => if g.run == .ready && t.preempting g.team then t.stopGroup k n (.safept idx) none else t

/-- SAFEPT. -/
def execSafept (idx : Byte) (s : State) : Out :=
  withGroup s fun c g =>
    if ((s.team? g.team).map (·.krec.nsafe)).getD 0 ≤ idx.toNat then s.trap c cILLOP
    else
      s.unlocked c <|
        if (s.commitsOf c.agent).isEmpty then s.safeptEnd c idx.toNat
        else State.wait { s with commits := s.commits.map fun (m : Commit) => if m.agent == c.agent then { m with left := 0 } else m } c (.safept c idx.toNat)

/-- A team's groups may issue: every binding's fetch has fired its word (15 R317), and a successor has started (11 R253). -/
def State.teamGoes (s : State) (team : Nat) : Bool :=
  (s.team? team).any fun t => t.started && t.bound == t.krec.binds.length
    && !s.cmds.any fun m => m.team == team && m.bindingOf.isSome

/-- A group does not wait: it is parked in no case in every one of its lanes and stands beyond no lookahead window (01 R34), and
its team has begun. -/
def State.unheld (s : State) (g : Group) : Bool :=
  g.run == .ready && g.running != 0 && s.teamGoes g.team && !(s.commits.any fun m => m.agent == .group g.core g.slot && m.left == 0)

/-- A group has an instruction to issue in this cycle, a YIELD apart (01 R28). -/
def State.canIssue (s : State) (g : Group) : Bool := s.unheld g && decide (g.notBefore ≤ s.cycle)

/-- A YIELD still holds its group back (R175), its other conditions apart. -/
def State.yieldOpen (s : State) (g : Group) : Bool :=
  match g.yielded with
  | none => false
  | some y => !y.2.isEmpty && decide (s.issueCount g.core < y.1 + 64)

/-- A group is ready: it can issue, and no YIELD holds it. -/
def State.isReady (s : State) (g : Group) : Bool := s.canIssue g && !s.yieldOpen g

/-- YIELD names the groups of its core that are ready; the issue stage clears from the list what has issued since. -/
def execYield (s : State) : Out :=
  withAgent s fun c =>
    s.unlocked c <|
      match c.agent with
      | .proof _ => s.finish c
      | .group k n =>
        match s.group? k n with
        | none => s
        | some g =>
          let others := (s.groups.filter fun h => h.core == k && h.slot != n && s.unheld h && !s.yieldOpen h).map (·.slot)
          State.finish (s.setGroup { g with yielded := some (s.issueCount k, others) }) c

/-! ### TRAP and BRK (R177) -/

/-- TRAP completes and reports the following instruction; with a broken filler tail behind it, the tail's first offending
syllable (log 33). -/
def execTrap (code : Byte) (s : State) : Out :=
  withAgent s fun c =>
    match c.agent with
    | .proof _ => s.trapAt c c.pc cTRAPI code.toNat 0 0
    | .group .. => (s.goTo c (c.tail.getD c.next)).trapAt c (c.tail.getD c.next) cTRAPI code.toNat 0 0

/-- BRK. -/
def execBrk (code : Byte) (s : State) : Out := withAgent s fun c => s.trapAt c c.pc cBREAK code.toNat 0 0

/-! ### Special registers (R178, R179) -/

/-- A lane position's record; one that is not listed is as its position starts: active, or a free spare. -/
def State.lane (s : State) (sk pos : Nat) : Lane :=
  (s.lanes.find? fun l => l.s == sk && l.pos == pos).getD
    { s := sk, pos := pos, st := if pos < (if sk < 16 then 64 else 256) ∨ 272 ≤ pos then 1 else 0
      plane := if sk < 16 then (if pos < 64 then 16 * sk + pos / 4 else 0x1FF) else if pos < 256 then pos else if 272 ≤ pos then pos - 16 else 0x1FF
      replaced := if sk < 16 then 127 else 511, age := 0, warned := false, failAt := none, bad := 0, streams := [] }

/-- Put a lane position's record back. -/
def State.setLane (s : State) (l : Lane) : State :=
  let p : Lane → Bool := fun m => m.s == l.s && m.pos == l.pos
  { s with lanes := if s.lanes.any p then replaceBy p l s.lanes else s.lanes ++ [l] }

/-- A socket's record; one that is not listed is Absent. -/
def State.socket (s : State) (n : Nat) : Socket :=
  (s.sockets.find? (·.s == n)).getD
    { s := n, st := 0, badcmd := false, retire := 307, warn := 205, romaddr := 0, rom := [], present := false
      drainAt := 0, moved := 0, resumes := 0, discards := 0 }

/-- Put a socket's record back. -/
def State.setSocket (s : State) (x : Socket) : State :=
  { s with sockets := if s.sockets.any (·.s == x.s) then replaceBy (·.s == x.s) x s.sockets else s.sockets ++ [x] }

/-- The counter that %dsel selects (17 R367). -/
def State.ddata (s : State) (sel : DWord) : DWord :=
  let x := sel.toNat
  let kind := fld x 12 4
  let sk := fld x 8 4
  let pos := fld x 0 7
  let l := s.lane sk pos
  if kind = 5 then .ofNat 64 (s.cadence.tick.toNat + 2 ^ 32 * s.cadence.level)
  else if kind = 3 then .ofNat 64 (s.socket sk).resumes
  else if kind = 4 then .ofNat 64 (s.socket sk).discards
  else if 67 < pos then .allOnes 64
  else if kind = 1 then .ofNat 64 l.age
  else if kind = 2 then
    .ofNat 64 (l.st + 2 ^ 8 * (if l.st = 2 then l.replaced else 0) + 2 ^ 16 * (if l.st = 0 then 0x1FF else l.plane))
  else .allOnes 64

/-- Bits of %dsel that are kept (R367). -/
def dselMask : DWord := 0xFF7F

/-- The launch of a group. -/
def State.launchOf (s : State) (g : Group) : Option Launch := (s.team? g.team).bind fun t => s.launch? t.launch

/-- %dsel and %ddata are open to a group: a diagnostic grant, or system privilege (14 R284). -/
def State.diagOk (s : State) (g : Group) : Bool := (s.launchOf g).any fun l => l.diag || l.priv

/-- %clock of a die (R179); the offsets between dies are free values (log 9). -/
def State.clock (s : State) (die : Nat) : DWord :=
  if die = 0 then .ofNat 64 s.cycle else .ofNat 64 s.cycle + Config.dieClockOffset die

/-- Value of a special register of a group, %lane apart. -/
def State.special (s : State) (g : Group) (r : SpReg) : DWord :=
  match r with
  | .clock => s.clock (dieOf (clusterOf g.core))
  | .lane => 0
  | .group => .ofNat 64 g.index
  | .team => .ofNat 64 (((s.team? g.team).map (·.num)).getD 0)
  | .core => .ofNat 64 g.core
  | .cluster => .ofNat 64 (clusterOf g.core)
  | .fstat => g.fstat.setWidth 64
  | .kdata => .ofNat 64 (((s.team? g.team).map (·.krec.kdata)).getD 0)
  | .ngroups => .ofNat 64 (((s.team? g.team).map (·.krec.groups)).getD 0)
  | .width => .ofNat 64 g.width
  | .vregs => .ofNat 64 g.vregs
  | .kargs => ((s.launchOf g).map (·.kargs)).getD 0
  | .dsel => g.dsel
  | .ddata => s.ddata g.dsel

/-- A diagnostic register. -/
def isDiag : SpReg → Bool
  | .dsel | .ddata => true
  | _ => false

/-- RDSR of a proof core: %clock and %cluster only (14 R285). -/
def State.proofRdsr (s : State) (c : Cur) (k : Nat) (r : SpReg) (d : Nat) : State :=
  match r with
  | .clock => State.finish (s.setSregA c.agent d (s.clock (dieOf k))) c
  | .cluster => State.finish (s.setSregA c.agent d (.ofNat 64 k)) c
  | _ => s.trap c cILLOP

/-- RDSR. -/
def execRdsr (gd : MReg) (r : SpReg) (d : Byte) (s : State) : Out :=
  withAgent s fun c =>
    match c.agent with
    | .proof k => s.proofRdsr c k r d.toNat
    | .group k n =>
      match s.group? k n with
      | none => s
      | some g =>
        if isDiag r && !s.diagOk g then s.trap c cPRIV
        else if r = .lane then s.putV c g d.toNat (g.lanes gd) fun i => (i, fNone)
        else State.finish (s.setSregA c.agent d.toNat (s.special g r)) c

/-- WRSR: %fstat keeps bits [5:0], with the flags that commit in the same cycle after it (02 R47), %dsel the bits of R367. A WRSR of %ddata takes PRIV without a
diagnostic grant (R179, 14 R284), and with one ILLOP, as the register is RO (R178; log 33); the decoder refuses the others. -/
def execWrsr (r : SpReg) (a : SReg) (s : State) : Out :=
  withGroup s fun c g =>
    let x := s.sreg g a.toNat
    match r with
    | .fstat => State.finish (s.setGroup { g with fstat := x.setWidth 6 ||| g.lateIn s.cycle }) c
    | .dsel => if s.diagOk g then State.finish (s.setGroup { g with dsel := x &&& dselMask }) c else s.trap c cPRIV
    | .ddata => s.trap c (if s.diagOk g then cILLOP else cPRIV)
    | _ => s.trap c cILLOP

end Sys2Proof.Machine
end

