-- ==== Sys2Proof/Machine/Arrival.lean ====
section
/-! DEFINITION. Arrival-word instructions (08 R194), barriers (R195, 04 R114) and FENCE (R196, 04 R103). -/

namespace Sys2Proof.Machine

/-! ### Arrival words (R194) -/

/-- Address of the arrival word an instruction names. -/
def arrAddr (s : State) (a : Agent) (r : SReg) (off : Byte) : Nat := baseOf s a r (16 * off.toNat) % 2 ^ 32

/-- Check an arrival word's address: apertures 0x0 and 0x8, 16 bytes. -/
def State.arrChecked (s : State) (c : Cur) (g : Group) (store : Bool) (addr : Nat) (k : Nat → State) : State :=
  s.checked c g [0, 8] store true 16 [(0, addr)] (k (s.locate g addr).1)

/-- ARINIT: R74 in cycle c + 19, as a plain store. -/
def arinit (s : State) (a : SReg) (off : Byte) (target : State → Agent → Nat) : Out :=
  withGroup s fun c g =>
    s.arrChecked c g true (arrAddr s c.agent a off) fun key =>
      s.ordered c false 20 <| s.sound c [(key, 16)] (s.launchStore c key 20 16 (.init (target s c.agent)))

/-- ARADD: a counted addition in cycle c + 19, as a release. -/
def aradd (s : State) (a : SReg) (off : Byte) (n : State → Agent → Nat) : Out :=
  withGroup s fun c g =>
    s.arrChecked c g true (arrAddr s c.agent a off) fun key =>
      s.ordered c true 20 <| s.sound c [(key, 16)] (s.launchStore c key 20 16 (.count (n s c.agent)))

/-- Low word of a scalar register. -/
def lowWord (b : SReg) (s : State) (a : Agent) : Nat := (s.sregA a b.toNat).toNat % 2 ^ 32

/-- The snapshot an arrival-word read takes: flag bits above GEN. -/
def State.snapshot (s : State) (key : Nat) : Nat := s.le (key + 8) 4 + 2 ^ 32 * (s.le (key + 12) 4 % 32)

/-- GEN has passed an expected generation. -/
def passed (gen expect : Nat) : Bool :=
  let d := (gen + 2 ^ 32 - expect) % 2 ^ 32
  decide (0 < d) && decide (d < 2 ^ 31)

/-- The read of ARWAIT and ARTEST: after the group's own writes to the word and after its acquires in flight. -/
def State.arrRead (s : State) (c : Cur) (g : Group) (addr : Nat) (k : Nat → State) : State :=
  s.arrChecked c g false addr fun key =>
    if s.ownPending c.agent key 16 then s.waitAgain c (.ownWrites key 16)
    else s.ordered c false 2 (s.sound c [(key, 16)] (k key))

/-- ARINIT, long form. -/
def execArinitLong (a : SReg) (off : Byte) (b : SReg) (s : State) : Out := arinit s a off (lowWord b)

/-- ARINIT, literal form. -/
def execArinitLiteral (a : SReg) (off : Byte) (lit : Word) (s : State) : Out := arinit s a off fun _ _ => lit.toNat

/-- ARADD, long form. -/
def execAraddLong (_sc : Scope) (a : SReg) (off : Byte) (b : SReg) (s : State) : Out := aradd s a off (lowWord b)

/-- ARADD, literal form. -/
def execAraddLiteral (_sc : Scope) (a : SReg) (off : Byte) (lit : Word) (s : State) : Out := aradd s a off fun _ _ => lit.toNat

/-- ARWAIT: waits while the condition fails; released by a firing, it issues again. -/
def execArwait (_sc : Scope) (d a : SReg) (off : Byte) (b : SReg) (s : State) : Out :=
  withGroup s fun c g =>
    s.unlocked c <|
      s.arrRead c g (arrAddr s c.agent a off) fun key =>
        let x := s.snapshot key
        if passed (x % 2 ^ 32) (lowWord b s c.agent) then s.putS c d x else s.waitAgain c (.arrival key)

/-- ARTEST: the same value, with bit 63 set when the condition holds. -/
def execArtest (_sc : Scope) (d a : SReg) (off : Byte) (b : SReg) (s : State) : Out :=
  withGroup s fun c g =>
    s.arrRead c g (arrAddr s c.agent a off) fun key =>
      let x := s.snapshot key
      s.putS c d (x + (if passed (x % 2 ^ 32) (lowWord b s c.agent) then 2 ^ 63 else 0))

/-! ### Barriers (R195) -/

/-- TMBAR. -/
def execTmbar (s : State) : Out :=
  withGroup s fun c g => s.unlocked c ((s.wait c (.tmbar c)).barriers g.team)

/-- CLBAR. -/
def execClbar (s : State) : Out :=
  withGroup s fun c g => s.unlocked c ((s.wait c (.clbar c)).barriers g.team)

/-! ### FENCE (04 R103) -/

/-- The local accesses in flight that a kind of FENCE names as earlier. -/
def fenceNames (k : FenceKind) (l : Local) : Bool :=
  match k with
  | .acq => l.op.reads
  | _ => true

/-- A scope at which a FENCE orders far events as well. -/
def farScope : Scope → Bool
  | .pkg | .dom | .sys => true
  | _ => false

/-- Record the FENCE with the group's commands: the fetch engine holds later commands' events behind them. -/
def State.fenceCmds (s : State) (a : Agent) (k : FenceKind) (sc : Scope) : State :=
  if farScope sc then
    { s with cmds := s.cmds.map fun (x : Cmd) =>
        if x.agent == a && !x.finished && !x.behind.any (· == k) then { x with behind := x.behind ++ [k] } else x }
  else s

/-- A FENCE at a scope waits for an access of an agent: at group scope only for one on another core's store, since R97, and the least
latency of the own core's, already order what is performed on the own one (R103). -/
def fenceWaits (a : Agent) (sc : Scope) (l : Local) : Bool :=
  sc != .grp || match a with
    | .group k _ => l.onStore && keyCore l.addr != k
    | .proof _ => false

/-- The accesses in flight that a FENCE of an agent waits for. -/
def State.fenceUids (s : State) (a : Agent) (k : FenceKind) (sc : Scope) : List Nat :=
  dedup (((s.localsOf a).filter fun l => fenceNames k l && fenceWaits a sc l).map (·.uid))

/-- FENCE. -/
def execFence (k : FenceKind) (sc : Scope) (s : State) : Out :=
  withAgent s fun c =>
    let s := s.fenceCmds c.agent k sc
    let us := s.fenceUids c.agent k sc
    if us = [] then s.finish c
    else
      match c.agent with
      | .group .. => s.wait c (.fence c us)
      | .proof p => s.pwait p (.fence c us)

/-- None of the accesses a FENCE waits for is left. -/
def State.fenceDone (s : State) (us : List Nat) : Bool := !s.locals.any fun l => us.any (· == l.uid)

/-- FENCE_WAIT_END: a waiting FENCE completes. -/
def execFenceWaitEnd (a : Agent) (s : State) : Out :=
  match a with
  | .group k n =>
    match s.group? k n with
    | none => .next s
    | some g =>
      match g.run with
      | .waiting (.fence c us) => .next (if s.fenceDone us then s.resume c else s)
      | _ => .next s
  | .proof p =>
    match (s.proof p).wait with
    | some (.fence c us) => .next (if s.fenceDone us then s.resume c else s)
    | _ => .next s

end Sys2Proof.Machine
end

