-- ==== Sys2Proof/Machine/Matrix.lean ====
section
/-! DEFINITION. Formes, the galley and the matrix instructions (09_isa_matrix), the canonical plane (02 R50, R52), and
the events of the matrix queue (R211 to R213). -/

namespace Sys2Proof.Machine

/-! ### Formes and planes -/

/-- Field of a 64-byte image. -/
def lfld (x : Line) (lo n : Nat) : Nat := fld x.toNat lo n

/-- Element size of a format code in the canonical plane, in half bytes (R62); 0 for a reserved code. -/
def elemHalves (c : Nat) : Nat :=
  match c with
  | 0 => 8 | 1 => 4 | 2 => 4 | 3 => 2 | 4 => 2 | 5 => 2 | 6 => 2 | 7 => 1 | 8 => 2 | 9 => 4 | 10 => 8 | _ => 0

/-- Float format of a code 0 to 7. -/
def efmtFloat (c : Nat) : FTy :=
  match c with
  | 0 => .f32 | 1 => .f16 | 2 => .bf16 | 3 => .e5m2 | 4 => .e4m3 | 5 => .e3m2 | 6 => .e2m3 | _ => .e2m1

/-- An 8- or 6-bit float format. -/
def isMid (c : Nat) : Bool := decide (3 ≤ c) && decide (c ≤ 6)

/-- Bytes of a row that one scale entry covers (03 R65). -/
def bytesPerBlock (c : Nat) : Nat := if c = 7 then 16 else 32

/-- Panel stride of a plane of `h` rows (02 R50). -/
def panelStride (h : Nat) : Nat := roundUp (128 * h) 768
/-- Scale panel stride (R52). -/
def scaleStride (h : Nat) : Nat := roundUp (16 * h) 768

/-- Folio offset of logical byte b of row r of a plane (02 R50). -/
def planeOff (base h r b : Nat) : Nat :=
  base + b / 128 * panelStride h + 128 * r + 16 * ((b % 128 / 16) ^^^ (r / 6 % 8)) + b % 16

/-- Folio offset of the scale entry of row r and block kb (R52). -/
def scaleOff (base h efmt r kb : Nat) : Nat :=
  let bpp := 128 / bytesPerBlock efmt
  base + kb / bpp * scaleStride h + 16 * r + 2 * (kb % bpp)

/-- Element plane base of a forme (R205). -/
def fEbase (f : Line) : Nat := lfld f 0 28
/-- Scale plane base. -/
def fSbase (f : Line) : Nat := lfld f 28 28
/-- Plane rows. -/
def fRows (f : Line) : Nat := lfld f 56 12
/-- First row. -/
def fRow0 (f : Line) : Nat := lfld f 68 12
/-- First logical byte. -/
def fKoff (f : Line) : Nat := lfld f 80 16
/-- Bytes an operand may span. -/
def fKlen (f : Line) : Nat := lfld f 96 16
/-- Element format. -/
def fEfmt (f : Line) : Nat := lfld f 112 4
/-- A scale plane applies. -/
def fScaled (f : Line) : Bool := lfld f 116 1 == 1

/-- Folio offset of byte j of the slice in row m of a forme at step k. -/
def sliceOff (f : Line) (w k m j : Nat) : Nat := planeOff (fEbase f) (fRows f) (fRow0 f + m) (fKoff f + w * k + j)

/-- Folio offset of scale entry i of the slice in row m. -/
def entryOff (f : Line) (w k m i : Nat) : Nat :=
  scaleOff (fSbase f) (fRows f) (fEfmt f) (fRow0 f + m) ((fKoff f + w * k) / bytesPerBlock (fEfmt f) + i)

/-- Runs of folio bytes a slice covers: its granules, row by row, and its scale entries. -/
def sliceRuns (f : Line) (w k : Nat) : List (Nat × Nat) :=
  (List.range 32).flatMap fun m =>
    (List.range ((w + 15) / 16)).map (fun i => (sliceOff f w k m (16 * i), 16)) ++
    (if fScaled f then (List.range (w / bytesPerBlock (fEfmt f))).map fun i => (entryOff f w k m i, 2) else [])

/-- The checks of R208 but for the format's fit to the use. -/
def formeOk (f : Line) (w k folio : Nat) : Bool :=
  lfld f 511 1 == 1 && lfld f 117 2 == 0 && lfld f 119 392 == 0 && elemHalves (fEfmt f) != 0
    && fEbase f % 768 == 0 && fSbase f % 16 == 0 && fRows f != 0 && decide (fRow0 f + 32 ≤ fRows f)
    && fKoff f % w == 0 && decide (fKoff f + w * (k + 1) ≤ fKoff f + fKlen f)
    && (if fEfmt f = 7 then fScaled f else if isMid (fEfmt f) then true else !fScaled f)
    && (sliceRuns f w k).all fun r => decide (r.1 + r.2 ≤ folio)

/-- Inner length K of a format pair, 0 for a pair MMA does not accept (R209). -/
def mmaK (a b : Nat) : Nat :=
  if (a = 1 ∨ a = 2) ∧ (b = 1 ∨ b = 2) then 32
  else if isMid a ∧ (isMid b ∨ b = 7) then 64
  else if a = 7 ∧ isMid b then 64
  else if a = 7 ∧ b = 7 then 128
  else if a = 8 ∧ b = 8 then 64
  else 0

/-- Slice width of an MMA operand (R206). -/
def mmaW (own other : Nat) : Nat := if own = 7 && isMid other then 32 else 64

/-- Slice width of MCVT's destination (R206). -/
def mcvtW (efmt : Nat) : Nat := if efmt = 7 then 16 else 32

/-! ### Operand values (R215, 02 R53) -/

/-- Code of element j of row m of a slice; `fk` is the memory key of the folio. -/
def State.elemCode (s : State) (fk : Nat) (f : Line) (w k m j : Nat) : Nat :=
  match elemHalves (fEfmt f) with
  | 1 => fld (s.byte (fk + sliceOff f w k m (j / 2))).toNat (4 * (j % 2)) 4
  | 2 => (s.byte (fk + sliceOff f w k m j)).toNat
  | 4 => s.le (fk + sliceOff f w k m (2 * j)) 2
  | _ => s.le (fk + sliceOff f w k m (4 * j)) 4

/-- Scale entry of block i of row m, 127 for a plain operand. -/
def State.entryCode (s : State) (fk : Nat) (f : Line) (w k m i : Nat) : Nat :=
  if fScaled f then s.le (fk + entryOff f w k m i) 2 else 127

/-- The FP4 special value of a scale entry (02 R48, R52). -/
def specialValue (e : Nat) : XVal :=
  let neg := fld e 10 1 == 1
  match fld e 8 2 with
  | 0 => .zero neg
  | 1 => .fin neg 8 0 false
  | 2 => .fin neg 12 0 false
  | _ => .fin neg 1 (-2) false

/-- Value of an element code under its block's entry, before scaling. -/
def elemValue (efmt entry code : Nat) : XVal :=
  if efmt = 7 ∧ code = 8 then specialValue entry else decF (efmtFloat efmt) (code % 2 ^ (efmtFloat efmt).bits)

/-- Scale of an entry (R53). -/
def scaleValue (entry : Nat) : XVal := if fld entry 0 8 = 255 then .nan else .fin false 1 ((fld entry 0 8 : Int) - 127) false

/-- One block's rounded sum (R53), with its flags. -/
def blockSum (as bs : List XVal) (sa sb : XVal) : Nat × Flags :=
  let ps := List.zipWith mulX as bs
  let sum := sumX .rn (ps.map (·.1))
  let x := mulX sum.1 sa
  let y := mulX x.1 sb
  let r := roundF .f32 .rn false y.1
  (r.1, orFlags (ps.map (·.2)) ||| sum.2 ||| x.2 ||| y.2 ||| r.2)

/-- The rows of an operand as blocks of 32 element values, with their scales. -/
def State.operandRow (s : State) (fk : Nat) (f : Line) (w k m nb : Nat) : List (List XVal × XVal) :=
  (List.range nb).map fun i =>
    let e := s.entryCode fk f w k m i
    ((List.range 32).map fun j => elemValue (fEfmt f) e (s.elemCode fk f w k m (32 * i + j)), scaleValue e)

/-- Accumulate the blocks of one output element. -/
def mmaFloat (acc : Nat) (as bs : List (List XVal × XVal)) : Nat × Flags :=
  (List.zip as bs).foldl (fun (r : Nat × Flags) p =>
    let t := blockSum p.1.1 p.2.1 p.1.2 p.2.2
    let y := faddRN .f32 r.1 t.1
    (y.1, r.2 ||| t.2 ||| y.2)) (acc, fNone)

/-- Signedness letters of R210. -/
def signA : MmaSign → Bool
  | .ss | .su => true
  | _ => false
/-- Signedness of B. -/
def signB : MmaSign → Bool
  | .ss | .us => true
  | _ => false

/-- Integer row of an operand. -/
def State.intRow (s : State) (fk : Nat) (f : Line) (k m : Nat) (sg : Bool) : List Int :=
  (List.range 64).map fun j => let c := s.elemCode fk f 64 k m j; if sg then sext c 8 else (c : Int)

/-- R54 for one output element. -/
def mmaInt (acc : Nat) (as bs : List Int) : Nat := wrapN ((List.zipWith (· * ·) as bs).foldl (· + ·) (acc : Int)) 32

/-- An accumulator word is canonical when it is a NaN (R53). -/
def canonF32 (x : Nat) : Nat := if decF .f32 x = .nan then 0x7FC00000 else x

/-- Whether some byte of row m's slice or entries is in a poisoned word (R224). -/
def State.rowBad (s : State) (fk : Nat) (f : Line) (w k m : Nat) : Bool :=
  !s.poison.isEmpty && ((List.range ((w + 15) / 16)).any (fun i => s.poisoned (fk + sliceOff f w k m (16 * i)) 16)
    || (fScaled f && (List.range (w / bytesPerBlock (fEfmt f))).any fun i => s.poisoned (fk + entryOff f w k m i) 2))

/-! ### Work of an operation at its start -/

/-- Results of an operation: cells, flags, and a bad granule it read. -/
structure MatOut where
  cells : List Host.Cell
  flags : Flags
  bad : Option (Nat × Nat)
  deriving DecidableEq, Repr

/-- Place of a bad granule for the record (14 R290): offset in its store or galley, and which. -/
def badPlace (key : Nat) : Nat × Nat :=
  if key < 2 ^ 32 then (keyOff key / 16 * 16, 0)
  else if key < 2 ^ 33 then (key % 2 ^ 18 / 16 * 16, 1)
  else (key % 2 ^ 16 / 16 * 16, 2)

/-- First poisoned place among runs of keys. An operation that reads several bad granules reports one, the first in the order of its runs:
the spec does not say which, nor that each is reported (DESIGN CHOICE, log 3). -/
def State.firstBad (s : State) (rs : List (Nat × Nat)) : Option (Nat × Nat) :=
  if s.poison.isEmpty then none
  else rs.findSome? fun r => (s.badKey r.1 r.2).map badPlace

/-- Cells and flags of an MMA into the tile of one core: A from folio key `fa`, B from `fb`. For what is computed from an uncorrectable
word R224 gives the values written and no flags: here, and in the other operations, such a word or row raises none (DESIGN CHOICE, log 35). -/
def State.mmaTile (s : State) (sg : MmaSign) (a b : Line) (k fa fb core tile : Nat) : List Host.Cell × Flags :=
  let wa := mmaW (fEfmt a) (fEfmt b)
  let wb := mmaW (fEfmt b) (fEfmt a)
  let nb := mmaK (fEfmt a) (fEfmt b) / 32
  let badB := (List.range 32).map fun n => s.rowBad fb b wb k n
  if fEfmt a = 8 then
    let bs := (List.range 32).map fun n => s.intRow fb b k n (signB sg)
    ((List.range 32).flatMap fun m =>
      let ra := s.intRow fa a k m (signA sg)
      let badA := s.rowBad fa a wa k m
      (List.range 32).flatMap fun n =>
        let key := tileWord core tile m n
        let y := if badA || badB.getD n false || s.poisoned key 4 then 0 else mmaInt (s.le key 4) ra (bs.getD n [])
        cellsLE key 4 y, fNone)
  else
    let bs := (List.range 32).map fun n => s.operandRow fb b wb k n nb
    let rs := (List.range 32).flatMap fun m =>
      let ra := s.operandRow fa a wa k m nb
      let badA := s.rowBad fa a wa k m
      (List.range 32).map fun n =>
        let key := tileWord core tile m n
        if badA || badB.getD n false || s.poisoned key 4 then (cellsLE key 4 0x7FC00000, fNone)
        else
          let y := mmaFloat (s.le key 4) ra (bs.getD n [])
          (cellsLE key 4 (canonF32 y.1), y.2)
    (rs.flatMap (·.1), orFlags (rs.map (·.2)))

/-- Runs of memory an operation reads, by key. -/
def matReads (op : MatOp) (fk fk2 : Nat) : List (Nat × Nat) :=
  let at_ := fun (k : Nat) (rs : List (Nat × Nat)) => rs.map fun r => (k + r.1, r.2)
  match op.kind with
  | .mma _ a b k =>
    at_ fk (sliceRuns a (mmaW (fEfmt a) (fEfmt b)) k) ++ at_ fk (sliceRuns b (mmaW (fEfmt b) (fEfmt a)) k)
      ++ [(tileKey op.core op.tile, 4096)]
      ++ (match op.pairTile with
          | some t => at_ fk2 (sliceRuns b (mmaW (fEfmt b) (fEfmt a)) k) ++ [(tileKey (op.core + 1) t, 4096)]
          | none => [])
  | .mzero => []
  | .mldg a k => at_ fk (sliceRuns a 128 k)
  | .mstg _ _ | .mcvt .. => [(tileKey op.core op.tile, 4096)]
  | .maddg _ _ a b => [(tileKey op.core a, 4096), (tileKey op.core b, 4096)]

/-- Least integer e with amax ≤ maxF * 2^e (R219), for amax = m * 2^g and maxF = n * 2^h. -/
def scaleExp (m : Nat) (g : Int) (n : Nat) (h : Int) : Int :=
  let e0 : Int := (m.log2 : Int) + g - (n.log2 : Int) - h
  let d := (g - h - e0)
  if m * 2 ^ d.toNat ≤ n * 2 ^ (-d).toNat then e0 else e0 + 1

/-- The larger of two magnitudes. -/
def maxMag (a b : XVal) : XVal :=
  let abs := fun (x : XVal) => if x.isNeg then x.negate else x
  if ltX (abs b) (abs a) then abs a else abs b

/-- Whether a value is finite and not zero. -/
def XVal.isFin : XVal → Bool
  | .fin .. => true
  | _ => false

/-- Divide by 2^n. -/
def scaleDown (n : Int) : XVal → XVal
  | .fin s m e k => .fin s m (e - n) k
  | x => x

/-- .relu of R219. -/
def reluX (relu : Bool) (x : XVal) : XVal := if relu && x != .nan && x.isNeg then .zero false else x

/-- MCVT of one row: Exponent, codes, flags (R219). -/
def mcvtRow (f : FTy) (mode : RMode) (xs : List XVal) : Nat × List Nat × Flags :=
  let amax := (xs.filter XVal.isFin).foldl maxMag (.zero false)
  let e : Int := match amax, decF f f.maxCode with
    | .fin _ m g _, .fin _ n h _ => scaleExp m g n h
    | _, _ => 0
  let lo : Int := if f = .e2m1 then 112 else 0
  let hi : Int := if f = .e2m1 then 143 else 254
  let ex := (min (max (e + 127) lo) hi)
  if f ≠ .e2m1 ∧ xs.any (· == .nan) then (255, xs.map fun _ => 0, fNone)
  else
    let rs := xs.map fun x => roundF f mode true (scaleDown (ex - 127) x)
    (ex.toNat, rs.map (·.1), orFlags (rs.map (·.2)))

/-- Plane bytes of a row of codes: one byte each, or two codes a byte. -/
def packCodes (half : Bool) : List Nat → List Byte
  | a :: b :: xs => if half then .ofNat 8 (a + 16 * b) :: packCodes half xs else .ofNat 8 a :: packCodes half (b :: xs)
  | [a] => [.ofNat 8 a]
  | [] => []

/-- MCVT of a tile. -/
def State.mcvtTile (s : State) (relu : Bool) (mode : RMode) (d : Line) (k fk core tile : Nat) : List Host.Cell × Flags :=
  let f := efmtFloat (fEfmt d)
  let w := mcvtW (fEfmt d)
  let rs := (List.range 32).map fun m =>
    let bad := s.poisoned (tileWord core tile m 0) 128
    let xs := (List.range 32).map fun n => reluX relu (decF .f32 (s.le (tileWord core tile m n) 4))
    let r := if bad then (0, xs.map fun _ => 0, fNone) else mcvtRow f mode xs
    let bs := packCodes (f == .e2m1) r.2.1
    (((List.range w).flatMap fun j => [(fk + sliceOff d w k m j, bs.getD j 0)]) ++ cellsLE (fk + entryOff d w k m 0) 2 r.1, r.2.2)
  (rs.flatMap (·.1), orFlags (rs.map (·.2)))

/-- MADDG of a tile. -/
def State.maddgTile (s : State) (isInt : Bool) (mode : RMode) (core tile a b : Nat) : List Host.Cell × Flags :=
  let rs := (List.range 1024).map fun i =>
    let ka := tileKey core a + 4 * i
    let kb := tileKey core b + 4 * i
    let bad := s.poisoned ka 4 || s.poisoned kb 4
    let x := s.le ka 4
    let y := s.le kb 4
    let r : Nat × Flags :=
      if bad then (if isInt then 0 else 0x7FC00000, fNone)
      else if isInt then ((x + y) % 2 ^ 32, fNone)
      else
        let z := sumX mode [decF .f32 x, decF .f32 y]
        let q := roundF .f32 mode false z.1
        (q.1, z.2 ||| q.2)
    (cellsLE (tileKey core tile + 4 * i) 4 r.1, r.2)
  (rs.flatMap (·.1), orFlags (rs.map (·.2)))

/-- Folio key of a team on a core. -/
def State.folioKey (s : State) (team core : Nat) : Nat :=
  match (s.team? team).bind fun t => t.seat? core with
  | some x => storeKey core x.folio
  | none => storeKey core 0

/-- What an operation writes, from memory as the earlier operations of the queue leave it (R212). -/
def State.matWork (s : State) (op : MatOp) : MatOut :=
  let fk := op.folio
  let fk2 := op.folio2
  let bad := s.firstBad (matReads op fk fk2)
  match op.kind with
  | .mma sg a b k =>
    let x := s.mmaTile sg a b k fk fk op.core op.tile
    match op.pairTile with
    | none => { cells := x.1, flags := x.2, bad := bad }
    | some t =>
      let y := s.mmaTile sg a b k fk fk2 (op.core + 1) t
      { cells := x.1 ++ y.1, flags := x.2 ||| y.2, bad := bad }
  | .mzero => { cells := (List.range 4096).map fun i => (tileKey op.core op.tile + i, 0), flags := 0, bad := none }
  | .mldg a k =>
    { cells := (List.range 32).flatMap fun m => (List.range 32).flatMap fun n =>
        let src := fk + sliceOff a 128 k m (4 * n)
        cellsLE (tileWord op.core op.tile m n) 4
          (if s.poisoned src 4 then (if fEfmt a = 10 then 0 else 0x7FC00000) else s.le src 4)
      flags := 0, bad := bad }
  | .mstg d k =>
    { cells := (List.range 32).flatMap fun m => (List.range 32).flatMap fun n =>
        let src := tileWord op.core op.tile m n
        cellsLE (fk + sliceOff d 128 k m (4 * n)) 4 (if s.poisoned src 4 then 0 else s.le src 4)
      flags := 0, bad := bad }
  | .mcvt relu mode d k =>
    let x := s.mcvtTile relu mode d k fk op.core op.tile
    { cells := x.1, flags := x.2, bad := bad }
  | .maddg isInt mode a b =>
    let x := s.maddgTile isInt mode op.core op.tile a b
    { cells := x.1, flags := x.2, bad := bad }

/-! ### The queue (R211) -/

/-- Whether an operation is in the queue of a core. -/
def MatOp.inQueue (m : MatOp) (core : Nat) : Bool := m.core == core || (m.pairTile.isSome && m.core + 1 == core)

/-- Operations waiting in a core's queue, head first. -/
def State.matQueue (s : State) (core : Nat) : List MatOp := s.mats.filter fun m => m.inQueue core && m.start.isNone

/-- Room for an operation in every queue it needs. -/
def State.matRoom (s : State) (op : MatOp) : Bool :=
  decide ((s.matQueue op.core).length < 8) && (op.pairTile.isNone || decide ((s.matQueue (op.core + 1)).length < 8))

/-- First cycle in which a core's array is free. -/
def State.arrayAt (s : State) (core : Nat) : Nat := ((s.arrayFree.find? (·.1 == core)).map (·.2)).getD 0

/-- Set that cycle. -/
def State.setArray (s : State) (core t : Nat) : State :=
  { s with arrayFree := (core, t) :: s.arrayFree.filter (·.1 != core) }

/-- Occupancy P (R211). -/
def matP : MatKind → Nat
  | .maddg .. => 4
  | .mzero => 1
  | _ => 8

/-- Every local write that the issuing group issued before the operation has been performed. -/
def State.ownBefore (s : State) (core slot uid : Nat) : Bool :=
  !s.locals.any fun l => l.agent == .group core slot && l.op.writes && decide (l.uid < uid)

/-- Conditions of a start: head of its queues, arrays free, own writes performed, a later cycle than its issue. -/
def State.matStarts (s : State) (op : MatOp) : Bool :=
  decide (op.issued < s.cycle) && decide (s.arrayAt op.core ≤ s.cycle) && s.ownBefore op.core op.slot op.uid
    && (op.pairTile.isNone || (decide (s.arrayAt (op.core + 1) ≤ s.cycle)
      && ((s.matQueue (op.core + 1)).head?.map (·.uid)) == some op.uid))

/-- MATRIX_OP_START: the head of a core's queue starts; it reads its operands, forwarding earlier results. -/
def execMatrixOpStart (core : Nat) (s : State) : Out :=
  match (s.matQueue core).head? with
  | none => .next s
  | some op =>
    if op.core != core || !s.matStarts op then .next s
    else
      let before := (s.mats.filter (·.start.isSome)).foldl (fun (t : State) o => t.write (gated o.gate o.cells)) s
      let w := (before.gateView op.gate).matWork op
      let r := s.cycle + matP op.kind + 7
      let op := { op with start := some s.cycle, retire := r, cells := w.cells, flags := w.flags, bad := w.bad }
      let s := { s with mats := replaceBy (·.uid == op.uid) op s.mats }
      let s := s.setArray core (s.cycle + matP op.kind)
      .next (if op.pairTile.isSome then s.setArray (core + 1) (r + 1) else s)

/-- A matrix operation that a group of the present kernel issued from a slot: not a predecessor's (R222). -/
def State.ownMats (s : State) (core slot : Nat) : Bool := s.mats.any fun m => m.core == core && m.slot == slot && m.gate.isNone

/-- A late error is taken at the next matrix instruction or MWAIT, the oldest first (R224). -/
def State.lateM (s : State) (c : Cur) (g : Group) (k : State) : State :=
  match g.uncorrM with
  | e :: es => State.trapAt (s.setGroup { g with uncorrM := es }) c c.pc cUNCORR 0 (.ofNat 64 e.1) (.ofNat 64 e.2)
  | [] => k

/-- MWAIT's group is released when none of its operations is left: the MWAIT issues from the next cycle on (R221), and takes a late error
then. -/
def State.mwaitDone (s : State) (core slot : Nat) : State :=
  match s.group? core slot with
  | none => s
  | some g =>
    match g.run with
    | .waiting (.mwait _) => if s.ownMats core slot then s else s.wake g
    | _ => s

/-- Deliver an error to its group, or as an ORPHAN (R224); `old` tells of a predecessor's operation. -/
def State.lateError (s : State) (core slot team : Nat) (old : Bool) (e : Option (Nat × Nat)) : State :=
  match e, s.group? core slot with
  | some x, some g =>
    if !old && g.team == team && g.run != .exited then s.setGroup { g with uncorrM := g.uncorrM ++ [x] } else s.orphan g x
  | _, _ => s

/-- Deliver flags to the issuing group; those of an exited group are discarded (02 R47, R222). -/
def State.lateFlags (s : State) (core slot : Nat) (f : Flags) : State :=
  match s.group? core slot with
  | some g => if g.run == .exited then s else s.setGroup (g.commitFlags s.cycle f)
  | none => s

/-- An earlier operation of a queue that the operation stood in has not retired (R212). -/
def State.matBefore (s : State) (op : MatOp) : Bool :=
  (s.mats.takeWhile fun o => o.uid != op.uid).any fun o => o.inQueue op.core || (op.pairTile.isSome && o.inQueue (op.core + 1))

/-- MATRIX_OP_RETIRE: galley and folio writes, flags, a late error, MWAIT, a held slot; operations of one queue retire in its order (R212). -/
def execMatrixOpRetire (uid : Nat) (s : State) : Out :=
  match s.mats.find? (·.uid == uid) with
  | none => .next s
  | some op =>
    if op.start.isNone || decide (s.cycle < op.retire) || s.matBefore op then .next s
    else
      let s := State.write { s with mats := s.mats.filter (·.uid != uid) } (gated op.gate op.cells)
      let s := if op.gate.isSome then s else s.lateFlags op.core op.slot op.flags
      let s := s.lateError op.core op.slot op.team op.gate.isSome op.bad
      let s := s.mwaitDone op.core op.slot
      .next (State.reap (s.releaseSlot op.core op.slot) op.team)

/-- MATRIX_QUEUE_ENTER: a waiting operation enters the queue, and its instruction completes (R211); a late error that has come in the
meantime is taken instead (R224). -/
def execMatrixQueueEnter (core slot : Nat) (s : State) : Out :=
  match s.group? core slot with
  | none => .next s
  | some g =>
    match g.run with
    | .waiting (.matrixQ c op) =>
      if s.matRoom op then .next (s.lateM c g (State.resume { s with mats := s.mats ++ [{ op with issued := s.cycle }] } c))
      else .next s
    | _ => .next s

/-! ### Issue -/

/-- EARLYTOUCH of an operation's folio accesses on a core (R211 step 1); the address reported is in aperture 0x0. -/
def State.touchedRun (s : State) (store : Bool) (core base : Nat) (rs : List (Nat × Nat)) : Option Nat :=
  if s.chases.isEmpty then none
  else (rs.find? fun r => s.early store core (base + r.1) r.2).map (·.1)

/-- Enter the queue, or wait for it. -/
def State.enterMat (s : State) (c : Cur) (op : MatOp) : State :=
  if s.matRoom op then State.finish { s with mats := s.mats ++ [op], uid := s.uid + 1 } c
  else State.wait { s with uid := s.uid + 1 } c (.matrixQ c op)

/-- A matrix operation at issue: forme checks, folio accesses as (store, core, runs), the operation. One that accesses the folio
issues after the read of an earlier acquire (04 R101). -/
def State.issueMat (s : State) (c : Cur) (g : Group) (t : Team) (ok : Bool) (acc : List (Bool × Nat × List (Nat × Nat)))
    (kind : MatKind) (tile : Nat) (pairTile : Option Nat) : State :=
  if !ok then s.trap c cFORMEFAULT
  else
    match acc.findSome? fun a => s.touchedRun a.1 a.2.1 (((t.seat? a.2.1).map (·.folio)).getD 0) a.2.2 with
    | some off => s.trapAt c c.pc cEARLYTOUCH 0 (.ofNat 64 off) 1
    | none =>
      let go := s.enterMat c { uid := s.uid, core := g.core, slot := g.slot, team := t.uid, kind := kind, tile := tile
                               pairTile := pairTile, folio := s.folioKey t.uid g.core, folio2 := s.folioKey t.uid (g.core + 1)
                               issued := s.cycle, start := none, retire := 0, cells := [], flags := 0, bad := none, gate := none }
      if acc.isEmpty then go else s.ordered c false 2 go

/-- A matrix instruction: the group's team, then a late error, then the operation. R224 does not place the late UNCORR among the other traps
of its instruction: here it comes after the ILLOP of a pair's MMA, and before FORMEFAULT, EARLYTOUCH and the address traps of FORME (DESIGN
CHOICE, log 35). -/
def matrixOp (s : State) (k : Cur → Group → Team → State) : Out :=
  withGroup s fun c g =>
    match s.team? g.team with
    | none => s
    | some t => s.lateM c g (k c g t)

/-- Physical tile of a declared tile on a core. -/
def Team.tile (t : Team) (core n : Nat) : Nat := (((t.seat? core).map (·.tiles)).getD []).getD n 0

/-- Image of a forme register. -/
def Team.forme (t : Team) (f : FReg) : Line := t.formes[f.toNat]

/-- Step of a matrix instruction (R206). -/
def State.stepOf (s : State) (g : Group) (r : SReg) : Nat := (s.sreg g r.toNat).toNat % 2 ^ 16

/-- MMA (R215, R216). -/
def execMma (pair : Bool) (sg : MmaSign) (d : GReg) (a b : FReg) (x : SReg) (s : State) : Out :=
  withGroup s fun c g =>
    match s.team? g.team with
    | none => s
    | some t =>
      if pair && (!t.paired || g.core % 2 == 1) then s.trap c cILLOP
      else s.lateM c g <|
        let fa := t.forme a
        let fb := t.forme b
        let k := s.stepOf g x
        let wa := mmaW (fEfmt fa) (fEfmt fb)
        let wb := mmaW (fEfmt fb) (fEfmt fa)
        let ok := formeOk fa wa k t.krec.folio && formeOk fb wb k t.krec.folio && mmaK (fEfmt fa) (fEfmt fb) != 0
          && (fEfmt fa == 8 || sg == .ss)
        let acc := [(false, g.core, sliceRuns fa wa k), (false, g.core, sliceRuns fb wb k)]
          ++ (if pair then [(false, g.core + 1, sliceRuns fb wb k)] else [])
        s.issueMat c g t ok acc (.mma sg fa fb k) (t.tile g.core d.toNat) (if pair then some (t.tile (g.core + 1) d.toNat) else none)

/-- MZERO (R217). -/
def execMzero (d : GReg) (s : State) : Out :=
  matrixOp s fun c g t => s.issueMat c g t true [] .mzero (t.tile g.core d.toNat) none

/-- A 32-bit plane for MLDG and MSTG (R218). -/
def wordPlane (f : Line) (k folio : Nat) : Bool := formeOk f 128 k folio && (fEfmt f == 0 || fEfmt f == 10)

/-- MLDG (R218). -/
def execMldg (d : GReg) (a : FReg) (b : SReg) (s : State) : Out :=
  matrixOp s fun c g t =>
    let f := t.forme a
    let k := s.stepOf g b
    s.issueMat c g t (wordPlane f k t.krec.folio) [(false, g.core, sliceRuns f 128 k)] (.mldg f k) (t.tile g.core d.toNat) none

/-- MSTG (R218). -/
def execMstg (d : FReg) (a : GReg) (b : SReg) (s : State) : Out :=
  matrixOp s fun c g t =>
    let f := t.forme d
    let k := s.stepOf g b
    s.issueMat c g t (wordPlane f k t.krec.folio) [(true, g.core, sliceRuns f 128 k)] (.mstg f k) (t.tile g.core a.toNat) none

/-- MCVT (R219). -/
def execMcvt (relu : Bool) (rm : RMode) (d : FReg) (a : GReg) (x : SReg) (s : State) : Out :=
  matrixOp s fun c g t =>
    let f := t.forme d
    let k := s.stepOf g x
    let w := mcvtW (fEfmt f)
    let ok := formeOk f w k t.krec.folio && (isMid (fEfmt f) || fEfmt f == 7) && fScaled f
    s.issueMat c g t ok [(true, g.core, sliceRuns f w k)] (.mcvt relu rm f k) (t.tile g.core a.toNat) none

/-- MADDG (R220). -/
def execMaddg (isInt : Bool) (rm : RMode) (d a b : GReg) (s : State) : Out :=
  matrixOp s fun c g t =>
    s.issueMat c g t true [] (.maddg isInt rm (t.tile g.core a.toNat) (t.tile g.core b.toNat)) (t.tile g.core d.toNat) none

/-- MWAIT (R221): LOCK first (08 R190), then a late error. -/
def execMwait (s : State) : Out :=
  withGroup s fun c g =>
    s.unlocked c <| s.lateM c g <|
      if s.ownMats g.core g.slot then s.waitAgain c (.mwait c) else s.finish c

/-- FORME from the folio (R207). -/
def execForme (la : BitVec 4) (d : FReg) (a : SReg) (m : Byte) (s : State) : Out :=
  matrixOp s fun c g t =>
    let addr := baseOf s c.agent a (64 * m.toNat) % 2 ^ 32
    s.checked c g ap0 false true 64 [(0, addr)] <| s.ordered c false 20 <| s.sound c [((s.locate g addr).1, 64)] <|
      let u := s.uid
      let r := State.later { s with uid := u + 1 } c (if t.paired then 34 else 20) la.toNat fun m => { m with reserved := true }
      r.launchLocals [{ uid := u, agent := c.agent, due := s.cycle + 18, commit := u + 1, addr := (s.locate g addr).1, size := 64
                        acq := false, op := .forme t.uid d.toNat }]

/-- FORME from eight scalar registers (R207); a block field of s0 is the zero image. -/
def execFormeR (la : BitVec 4) (d : FReg) (a : SReg) (s : State) : Out :=
  matrixOp s fun c g t =>
    let x : Nat := if a = 0 then 0 else
      (List.range 8).foldl (fun y i => y + (s.sreg g (a.toNat + i)).toNat * 2 ^ (64 * i)) 0
    s.later c (if t.paired then 18 else 4) la.toNat fun m => { m with formes := [(t.uid, d.toNat, .ofNat 512 x)] }

end Sys2Proof.Machine
end

