-- ==== Sys2Proof/Machine/Ligature.lean ====
section
/-! DEFINITION. The ligature engine (10_ligature): sheets, binding, evaluation (R235, 02 R57), LIGEMIT, the queue and its
events, the faulted state (R237). -/

namespace Sys2Proof.Machine

/-! ### The engine -/

/-- Engine of a core as a team's first instruction finds it (R226). -/
def LigEngine.fresh (core : Nat) (team : Option Nat) : LigEngine :=
  { core := core, team := team, bound := none, run := none, levels := [], mark := 0, marked := 0, fault := none, faultBy := none, freeAt := 0
    stale := false }

/-- The engine of a core. -/
def State.lig (s : State) (core : Nat) : LigEngine := (s.ligs.find? (·.core == core)).getD (.fresh core none)

/-- Put an engine back. -/
def State.setLig (s : State) (e : LigEngine) : State :=
  { s with ligs := if s.ligs.any (·.core == e.core) then replaceBy (·.core == e.core) e s.ligs else s.ligs ++ [e] }

/-- Operations waiting in an engine's queue. -/
def State.ligQueue (s : State) (core : Nat) : List LigOp := s.ligOps.filter fun o => o.core == core && o.start.isNone

/-- Entries of each part of the value file (R230). -/
def ligCap (c : Nat) : Nat := 16384 / c

/-- Key of index i of column c. -/
def ligKey (core cols c i : Nat) : Nat := valueKey core (c * ligCap cols + i)

/-! ### LIGEVAL (R235) -/

/-- State of an evaluation: where it is in the sheet, what it has written, and how it ended. -/
structure LigEval where
  st : State               -- the machine as the ligatures so far leave it
  out : List Host.Cell     -- value-file bytes written
  levels : List (Nat × Nat)
  pos : Nat                -- offset of the next ligature from the sheet's start
  prev : Nat
  cycle : Nat              -- cycles of occupancy used
  flags : Flags
  late : Option (Nat × Nat)
  fault : Option LigFault
  deriving DecidableEq, Repr

/-- Fault details of a LIGEVAL (14 R290): sheet address, ordinal, item position. -/
def evalDetail (sheet j item : Nat) : DWord := .ofNat 64 (sheet + 2 ^ 32 * j + 2 ^ 46 * item)

/-- Stop an evaluation with a fault found `cyc` cycles into the ligature's items. -/
def LigEval.stop (v : LigEval) (cause sheet j item cyc : Nat) : LigEval :=
  { v with cycle := v.cycle + cyc, fault := some { cause := cause, c := evalDetail sheet j item, d := 0 } }

/-- Size of a terminal value. -/
def termSize (tfmt : Nat) : Nat := match tfmt with | 0 => 4 | 2 => 2 | _ => 1

/-- First item with a set reserved bit or a reserved KIND (R228). -/
def badItem (items : List Nat) : Option Nat :=
  items.findIdx? fun w => decide (2 ≤ w / 2 ^ 30) || (w / 2 ^ 30 == 0 && fld w 20 10 != 0) || (w / 2 ^ 30 == 1 && fld w 14 16 != 0)

/-- Check an item (R235): the fault cause, or the level it references (-1 for a terminal). -/
def itemCheck (n cap lev : Nat) (levels : List (Nat × Nat)) (w : Nat) : Except Nat Int :=
  if w / 2 ^ 30 = 0 then (if n ≤ fld w 0 20 then .error cDESCRIPTOR else .ok (-1))
  else
    let q := fld w 0 14
    if cap ≤ q then .error cDESCRIPTOR
    else
      match levels.find? fun p => p.1 == q with
      | none => .error cLIGORDER
      | some p => if p.2 = 15 then .error cLIGDEPTH else if lev ≤ p.2 then .error cLIGORDER else .ok p.2

/-- Check the items in order: the first faulting position and its cause, or the highest level referenced. -/
def itemsCheck (n cap lev : Nat) (levels : List (Nat × Nat)) : Nat → List Nat → Int → Except (Nat × Nat) Int
  | _, [], top => .ok top
  | i, w :: ws, top =>
    match itemCheck n cap lev levels w with
    | .error c => .error (i, c)
    | .ok l => itemsCheck n cap lev levels (i + 1) ws (if top < l then l else top)

/-- One step of LigSum (R57): an exact product or a referenced value, added with one rounding. -/
def ligAdd (acc : Nat) (x : XVal × Flags) : Nat × Flags :=
  let s := sumX .rn [decF .f32 acc, x.1]
  let r := roundF .f32 .rn false s.1
  (r.1, x.2 ||| s.2 ||| r.2)

/-- A bad word met while a value is formed, and the word's place. -/
def State.badAt (s : State) (key n : Nat) : Option (Nat × Nat) := if s.poisoned key n then some (badPlace key) else none

/-- LigSum of a ligature for one column: `terms` are the memory keys of the terminals' values, in order. -/
def State.ligSum (s : State) (core cols c tfmt inKey : Nat) : List Nat → Nat → Nat → Flags → Option (Nat × Nat) → Nat × Flags × Option (Nat × Nat)
  | [], _, acc, fl, bad => (acc, fl, bad)
  | w :: ws, tk, acc, fl, bad =>
    if w / 2 ^ 30 = 0 then
      let vk := tk
      let xk := inKey + 4 * fld w 0 20
      let size := termSize tfmt
      let p := mulX (decF (efmtFloat tfmt) (s.le vk size)) (decF .f32 (s.le xk 4))
      let r := ligAdd acc p
      s.ligSum core cols c tfmt inKey ws (tk + size) r.1 (fl ||| r.2) (bad.or ((s.badAt vk size).or (s.badAt xk 4)))
    else
      let k := ligKey core cols c (fld w 0 14)
      let r := ligAdd acc (decF .f32 (s.le k 4), fNone)
      s.ligSum core cols c tfmt inKey ws tk r.1 (fl ||| r.2) (bad.or (s.badAt k 4))

/-- Evaluate one checked ligature in every column. -/
def State.ligColumns (s : State) (core cols tfmt inKey pitch idx termKey : Nat) (items : List Nat) (v : LigEval) : LigEval :=
  let rs := (List.range cols).map fun c =>
    let r := s.ligSum core cols c tfmt (inKey + c * pitch) items termKey 0x80000000 fNone none
    (cellsLE (ligKey core cols c idx) 4 (if r.2.2.isSome then 0x7FC00000 else r.1), if r.2.2.isSome then fNone else r.2.1, r.2.2)
  { v with
    st := s.write (rs.flatMap (·.1))
    out := v.out ++ rs.flatMap (·.1)
    flags := v.flags ||| orFlags (rs.map (·.2.1))
    late := v.late.or (rs.findSome? (·.2.2)) }

/-- Evaluate ligature j of a sheet (R235); `fk` is the folio key, `bnd` the binding C, N, P, base. An item word with an uncorrectable error
faults before the reserved bits, the KIND and the LIGORDER checks of its ligature: the spec does not order them (DESIGN CHOICE, log 35). -/
def LigEval.one (v : LigEval) (core fk sheet tfmt base hi bytes j : Nat) (bnd : Nat × Nat × Nat × Nat) : LigEval :=
  let s := v.st
  let key := fk + sheet + v.pos
  let v := { v with cycle := v.cycle + 1 }
  let uncorr := fun (k cyc : Nat) (v : LigEval) =>
    { v with cycle := v.cycle + cyc, fault := some { cause := cUNCORR, c := .ofNat 64 (badPlace k).1, d := .ofNat 64 (badPlace k).2 } }
  if bytes < v.pos + 4 then v.stop cDESCRIPTOR sheet j 0 0
  else if s.poisoned key 4 then uncorr key 0 v
  else
    let h := s.le key 4
    let n := fld h 0 12
    let items := s.words (key + 4) n
    let terms := (items.filter fun w => w / 2 ^ 30 == 0).length
    let size := 4 + 4 * n + 4 * ((terms * termSize tfmt + 3) / 4)
    let lev := fld h 28 4
    if bytes < v.pos + 4 + 4 * n ∨ bytes < v.pos + size ∨ fld h 12 16 ≠ 0 then v.stop cDESCRIPTOR sheet j 0 0
    else
      match (List.range n).find? fun i => s.poisoned (key + 4 + 4 * i) 4 with
      | some i => uncorr (key + 4 + 4 * i) (i + 1) v
      | none =>
        match badItem items with
        | some i => v.stop cDESCRIPTOR sheet j (i + 1) (i + 1)
        | none =>
          if lev < v.prev ∨ hi < lev then v.stop cLIGORDER sheet j 0 0
          else
            match itemsCheck bnd.2.1 (ligCap bnd.1) lev v.levels 0 items (-1) with
            | .error e => v.stop e.2 sheet j (e.1 + 1) (e.1 + 1)
            | .ok top =>
              if (lev : Int) ≠ top + 1 then v.stop cLIGDEPTH sheet j 0 n
              else
                let v := s.ligColumns core bnd.1 tfmt (fk + bnd.2.2.2) bnd.2.2.1 (base + j) (key + 4 + 4 * n) items v
                { v with
                  levels := (base + j, lev) :: v.levels.filter (·.1 != base + j), pos := v.pos + size, prev := lev, cycle := v.cycle + n }

/-- Evaluate `n` ligatures from ordinal j on, stopping at a fault. -/
def ligRun (core fk sheet tfmt base hi bytes : Nat) (bnd : Nat × Nat × Nat × Nat) : Nat → Nat → LigEval → LigEval
  | 0, _, v => v
  | n + 1, j, v =>
    let v := v.one core fk sheet tfmt base hi bytes j bnd
    if v.fault.isSome then v else ligRun core fk sheet tfmt base hi bytes bnd n (j + 1) v

/-- The fields of a sheet header (R227). -/
structure Sheet where
  bytes : Nat
  count : Nat
  base : Nat
  hi : Nat
  lo : Nat
  tfmt : Nat
  reserved : Bool
  deriving DecidableEq, Repr

/-- Read a sheet header. -/
def State.sheet (s : State) (key : Nat) : Sheet :=
  let x := s.le key 16
  { bytes := fld x 96 32, count := fld x 64 15, base := fld x 32 14, hi := fld x 28 4, lo := fld x 24 4, tfmt := fld x 20 4
    reserved := fld x 79 17 != 0 || fld x 46 18 != 0 || fld x 0 20 != 0 }

/-! ### Queue events (R231) -/

/-- Start of a LIGBIND: R230. -/
def State.startBind (s : State) (op : LigOp) (b : Nat × Nat × Nat × Nat) : State × LigOp :=
  (s.setLig { s.lig op.core with run := some b, levels := [], freeAt := s.cycle + 1 }, { op with finish := s.cycle + 8 })

/-- Memory as an operation reads it: a predecessor's reads what its successor inherits (09 R222) and the value file. -/
def State.ligView (s : State) (op : LigOp) : State :=
  s.gateView (op.gate.map fun rs => (valueKey op.core 0, valueKey op.core 16384) :: rs)

/-- Start of a LIGEVAL: the whole sheet is evaluated; value-file writes are ordered by the queue alone (R241). Three points are the model's
(DESIGN CHOICE, log 35). The header is read again here, with the sheet, and the checks of its fields that execLigeval made are not repeated: the
spec does not say which reading counts. A header in an uncorrectable word is checked at issue by its bytes as they are stored, and is the fault
UNCORR here. That fault is found in the last cycle of the header's overhead. -/
def State.startEval (s : State) (op : LigOp) (sheet : Nat) : State × LigOp :=
  let e := s.lig op.core
  let fk := op.folio
  let x := s.ligView op
  let h := x.sheet (fk + sheet)
  let v0 : LigEval := { st := x, out := [], levels := e.levels, pos := 16, prev := h.lo, cycle := 4, flags := 0, late := none, fault := none }
  let v := if x.poisoned (fk + sheet) 16 then
      { v0 with fault := some { cause := cUNCORR, c := .ofNat 64 (badPlace (fk + sheet)).1, d := 0 } }
    else ligRun op.core fk sheet h.tfmt h.base h.hi h.bytes (e.run.getD (1, 0, 0, 0)) h.count 0 v0
  let last := s.cycle + v.cycle - 1
  let t := State.setLig (s.write v.out) { e with levels := v.levels, freeAt := last + 1 }
  (t, { op with finish := if v.fault.isSome then last else last + 8, flags := v.flags, fault := v.fault, bad := v.late })

/-- Start of a LIGEMIT (R236). -/
def State.startEmit (s : State) (op : LigOp) (bf : Bool) (dst first count pitch cols : Nat) : State × LigOp :=
  let e := s.lig op.core
  let fk := op.folio
  match (List.range count).find? fun j => !e.levels.any (·.1 == first + j) with
  | some j =>
    (s.setLig { e with freeAt := s.cycle + 1 },
     { op with finish := s.cycle, fault := some { cause := cLIGORDER, c := .ofNat 64 (2 ^ 32 * (first + j) + 2 ^ 63), d := 0 } })
  | none =>
    let size := if bf then 2 else 4
    let rs := (List.range cols).flatMap fun c => (List.range count).map fun j =>
      let k := ligKey op.core cols c (first + j)
      let bad := s.badAt k 4
      let x := if bad.isSome then 0x7FC00000 else s.le k 4
      let y : Nat × Flags := if bf then roundF .bf16 .rn false (decF .f32 x) else (x, fNone)
      (cellsLE (fk + dst + c * pitch + size * j) size y.1, y.2, bad)
    let p := (cols * count + 15) / 16
    (s.setLig { e with freeAt := s.cycle + p },
     { op with finish := s.cycle + p + 7, cells := rs.flatMap (·.1), flags := orFlags (rs.map (·.2.1)), bad := rs.findSome? (·.2.2) })

/-- The successor finds its engine cleared before its first operation starts (R242). -/
def State.freshLig (s : State) (core : Nat) (op : LigOp) : State :=
  if (s.lig core).stale && op.gate.isNone then
    { s with
      mem := s.mem.filter fun c => !(decide (valueKey core 0 ≤ c.1) && decide (c.1 < valueKey core 16384))
      poison := s.poison.filter fun w => !(decide (valueKey core 0 ≤ 8 * w) && decide (8 * w < valueKey core 16384))
      ligs := s.ligs.map fun (e : LigEngine) => if e.core == core then { e with run := none, levels := [], stale := false } else e }
  else s

/-- LIG_OP_START: the head of an engine's queue starts. -/
def execLigOpStart (core : Nat) (s : State) : Out :=
  match (s.ligQueue core).head? with
  | none => .next s
  | some op =>
    if decide (s.cycle ≤ op.issued) || decide (s.cycle < (s.lig core).freeAt) || !s.ownBefore op.core op.slot op.uid then .next s
    else
      let s := s.freshLig core op
      let r := match op.kind with
        | .bind c n p base => s.startBind op (c, n, p, base)
        | .eval sheet _ => s.startEval op sheet
        | .emit bf dst first count pitch cols => s.startEmit op bf dst first count pitch cols
      .next { r.1 with ligOps := replaceBy (·.uid == op.uid) { r.2 with start := some s.cycle } r.1.ligOps }

/-- Trap a waiting group at its instruction with the engine's cause (R237). -/
def State.ligTrap (s : State) (c : Cur) (core slot : Nat) (f : LigFault) : State :=
  let e := s.lig core
  let s := s.setLig { e with faultBy := if e.faultBy == some slot then none else e.faultBy }
  s.trapAt c c.pc f.cause 0 f.c f.d

/-- The instruction at which a group waits for the engine. -/
def Group.ligCur (g : Group) : Option Cur :=
  match g.run with
  | .waiting (.ligwait c) => some c
  | .waiting (.ligQ c _) => some c
  | _ => none

/-- A ligature operation that a group of the present kernel issued from a slot: not a predecessor's (R242). -/
def State.ownLigs (s : State) (core slot : Nat) : Bool := s.ligOps.any fun m => m.core == core && m.slot == slot && m.gate.isNone

/-- A late error is taken at the next ligature instruction or LIGWAIT, the oldest first (R238). -/
def State.lateL (s : State) (c : Cur) (g : Group) (k : State) : State :=
  match g.uncorrL with
  | e :: es => State.trapAt (s.setGroup { g with uncorrL := es }) c c.pc cUNCORR 0 (.ofNat 64 e.1) (.ofNat 64 e.2)
  | [] => k

/-- LIGWAIT's group is released when none of its operations is left: the LIGWAIT issues from the next cycle on (R239), and takes a late error
then. -/
def State.ligwaitDone (s : State) (core slot : Nat) : State :=
  match s.group? core slot with
  | none => s
  | some g =>
    match g.run with
    | .waiting (.ligwait _) => if s.ownLigs core slot then s else s.wake g
    | _ => s

/-- Deliver an engine's late error (R238); `old` tells of a predecessor's operation. -/
def State.lateErrorL (s : State) (core slot team : Nat) (old : Bool) (e : Option (Nat × Nat)) : State :=
  match e, s.group? core slot with
  | some x, some g =>
    if !old && g.team == team && g.run != .exited then s.setGroup { g with uncorrL := g.uncorrL ++ [x] } else s.orphan g x
  | _, _ => s

/-- A predecessor's operation faults after the handoff: its queue is discarded, with the slots it held, and the proof core has the
fault (R242). -/
def State.oldLigFault (s : State) (op : LigOp) (f : LigFault) : State :=
  let gone := (s.ligQueue op.core).filter (·.gate.isSome)
  let s := { s with ligOps := s.ligOps.filter fun o => !(o.core == op.core && o.start.isNone && o.gate.isSome) }
  let s := match s.group? op.core op.slot with
    | some g => s.orphanFault g f
    | none => s
  gone.foldl (fun s o => (s.releaseSlot o.core o.slot).reap o.team) s

/-- Enter the faulted state (R237): the queue is discarded and waiting groups take the cause. -/
def State.ligFault (s : State) (op : LigOp) (f : LigFault) : State :=
  let gone := s.ligQueue op.core
  let e := s.lig op.core
  let live := (s.group? op.core op.slot).any fun g => g.team == op.team && g.run != .exited
  let s := State.setLig { s with ligOps := s.ligOps.filter fun o => !(o.core == op.core && o.start.isNone) }
    { e with fault := some f, faultBy := some op.slot }
  let s := if live then s else
    match s.group? op.core op.slot with
    | some g => s.orphanLig g
    | none => s
  let s := (s.groups.filter fun g => g.core == op.core && g.team == op.team).foldl (fun s g =>
    match g.ligCur with
    | some c => s.ligTrap c g.core g.slot f
    | none => s) s
  gone.foldl (fun s o => (s.releaseSlot o.core o.slot).reap o.team) s

/-- The engine that a predecessor's operations kept for a team whose kernel no longer declares .ligature is freed with the last of them
(R226, R242; log 35). -/
def State.freeOldLig (s : State) (core team : Nat) : State :=
  if (s.ligs.any fun e => e.core == core && e.team == some team) && !(s.ligOps.any (·.core == core)) && (s.team? team).any (fun t => !t.krec.lig) then
    let t := s.clearLig core
    { t with ligs := t.ligs.filter (·.core != core) }
  else s

/-- LIG_OP_COMPLETE: emitted bytes, flags, a late error, a fault, LIGWAIT, a held slot. -/
def execLigOpComplete (uid : Nat) (s : State) : Out :=
  match s.ligOps.find? (·.uid == uid) with
  | none => .next s
  | some op =>
    if op.start.isNone || decide (s.cycle < op.finish) then .next s
    else
      let s := State.write { s with ligOps := s.ligOps.filter (·.uid != uid) } (gated op.gate op.cells)
      let s := if op.gate.isSome then s else s.lateFlags op.core op.slot op.flags
      let s := s.lateErrorL op.core op.slot op.team op.gate.isSome op.bad
      let s := match op.fault with
        | some f => if op.gate.isSome then s.oldLigFault op f else s.ligFault op f
        | none => s
      let s := (s.ligwaitDone op.core op.slot).freeOldLig op.core op.team
      .next (State.reap (s.releaseSlot op.core op.slot) op.team)

/-- What an operation's issue does for the checks of later instructions: a LIGBIND sets the binding and takes the level mark to 0
(R233), a LIGEVAL raises the mark (R234), unless a LIGBIND or LIGCLR has come since. -/
def LigEngine.issue (e : LigEngine) (op : LigOp) : LigEngine :=
  if op.uid < e.marked then e
  else
    match op.kind with
    | .bind c n p base => { e with bound := some (c, n, p, base), mark := 0, marked := op.uid }
    | .eval _ hi => { e with mark := max e.mark hi }
    | .emit .. => e

/-- Insert an operation by its number. -/
def LigOp.insert (op : LigOp) : List LigOp → List LigOp
  | [] => [op]
  | x :: xs => if op.uid < x.uid then op :: x :: xs else x :: op.insert xs

/-- The operations that wait for a core's queue, in the order of their issue. -/
def State.ligWaiters (s : State) (core : Nat) : List LigOp :=
  ((s.groups.filter (·.core == core)).filterMap fun g => match g.run with
    | .waiting (.ligQ _ op) => some op
    | _ => none).foldr LigOp.insert []

/-- An operation may enter the queue: it has a free entry, and no operation that issued earlier waits for one. -/
def State.ligRoom (s : State) (core uid : Nat) : Bool :=
  decide ((s.ligQueue core).length < 8) && (s.ligWaiters core).all fun o => decide (uid ≤ o.uid)

/-- An operation enters its queue, with what its issue does. -/
def State.pushLig (s : State) (op : LigOp) : State :=
  State.setLig { s with ligOps := s.ligOps ++ [op] } ((s.lig op.core).issue op)

/-- The queue is empty, no operation waits for a place in it, and nothing is in occupancy (R240). -/
def State.ligIdle (s : State) (core : Nat) : Bool :=
  (s.ligQueue core).isEmpty && (s.ligWaiters core).isEmpty && decide ((s.lig core).freeAt ≤ s.cycle)

/-- LIGCLR_CLEAR: a waiting LIGCLR clears its engine. -/
def execLigclrClear (core slot : Nat) (s : State) : Out :=
  match s.group? core slot with
  | none => .next s
  | some g =>
    match g.run with
    | .waiting (.ligclr c) => if s.ligIdle core then .next (State.resume (s.clearLig core) c) else .next s
    | _ => .next s

/-! ### Issue -/

/-- A ligature instruction of a group whose kernel declares the engine (R226); other groups take ILLOP. -/
def ligatureOp (s : State) (k : Cur → Group → Team → State) : Out :=
  withGroup s fun c g =>
    match s.team? g.team with
    | none => s
    | some t => if t.krec.lig then k c g t else s.trap c cILLOP

/-- The engine is faulted: the recorded cause; then a late error (R237, R238). -/
def State.ligReady (s : State) (c : Cur) (g : Group) (k : State) : State :=
  match (s.lig g.core).fault with
  | some f => s.ligTrap c g.core g.slot f
  | none => s.lateL c g k

/-- Steps 1, 3 and 4 of R181 for a span in aperture 0x0 at a multiple of 16: 0 or the failing step. -/
def spanStep (folio addr n : Nat) : Nat :=
  if addr / 2 ^ 28 ≠ 0 then 1 else if addr % 16 ≠ 0 then 3 else if folio < addr + n then 4 else 0

/-- Enter the queue, or wait for it at issue (R231); `since` orders those that wait. -/
def State.enterLig (s : State) (c : Cur) (g : Group) (since : Nat) (kind : LigKind) : State :=
  let op : LigOp := { uid := s.uid, core := g.core, slot := g.slot, team := g.team, kind := kind, folio := s.folioKey g.team g.core
                      issued := s.cycle, start := none, finish := 0, cells := [], flags := 0, fault := none, bad := none, gate := none }
  if s.ligRoom g.core since then State.finish (State.pushLig { s with uid := s.uid + 1 } op) c
  else State.wait { s with uid := s.uid + 1 } c (.ligQ c op)

/-- LIGBIND (R233). -/
def execLigbind (cc : BitVec 2) (a b : SReg) (s : State) : Out :=
  ligatureOp s fun c g t =>
    s.ligReady c g <|
      let cols := 2 ^ cc.toNat
      let addr := (s.sreg g a.toNat).toNat % 2 ^ 32
      let n := (s.sreg g b.toNat).toNat % 2 ^ 32
      let p := (s.sreg g b.toNat).toNat / 2 ^ 32
      if n = 0 ∨ 1048576 < n ∨ p % 16 ≠ 0 ∨ (1 < cols ∧ p < 4 * n) then s.trap c cDESCRIPTOR
      else if spanStep t.krec.folio addr ((cols - 1) * p + 4 * n) ≠ 0 then
        s.addrTrap c (spanStep t.krec.folio addr ((cols - 1) * p + 4 * n)) addr
      else s.enterLig c g s.uid (.bind cols n p addr)

/-- The checks of a LIGEVAL of the sheet at an address from the binding on, then its queue (R234). The header read of the checks follows the
read of an earlier acquire (04 R101). -/
def State.ligevalAt (s : State) (c : Cur) (g : Group) (t : Team) (since addr : Nat) : State :=
  let e := s.lig g.core
  let folio := t.krec.folio
  match e.bound with
  | none => s.trap c cLIGORDER
  | some b =>
    if spanStep folio addr 16 ≠ 0 then s.addrTrap c (spanStep folio addr 16) addr
    else s.ordered c false 2 <|
      let base := ((t.seat? g.core).map (·.folio)).getD 0
      let key := storeKey g.core (base + addr)
      if s.ownPending c.agent key 16 then s.waitAgain c (.ownWrites key 16)
      else
        let h := s.sheet key
        if h.reserved || h.count == 0 || decide (16384 < h.count) || decide (h.bytes < 16) || h.bytes % 4 != 0
            || decide (ligCap b.1 < h.base + h.count) then s.trap c cDESCRIPTOR
        else if !(h.tfmt == 0 || h.tfmt == 2 || h.tfmt == 3 || h.tfmt == 4) then s.trap c cFORMAT
        else if folio < addr + h.bytes then s.addrTrap c 4 addr
        else if h.hi < h.lo then s.trap c cLIGDEPTH
        else if h.lo < e.mark then s.trap c cLIGORDER
        else if s.early false g.core (base + addr) h.bytes then s.addrTrap c 5 addr
        else if s.early false g.core (base + b.2.2.2) ((b.1 - 1) * b.2.2.1 + 4 * b.2.1) then s.addrTrap c 5 b.2.2.2
        else s.enterLig c g since (.eval addr h.hi)

/-- LIGEVAL (R234). -/
def execLigeval (a : SReg) (s : State) : Out :=
  ligatureOp s fun c g t => s.ligReady c g (s.ligevalAt c g t s.uid ((s.sreg g a.toNat).toNat % 2 ^ 32))

/-- The checks of a LIGEMIT from the binding on, then its queue (R236). -/
def State.ligemitAt (s : State) (c : Cur) (g : Group) (t : Team) (since : Nat) (bf : Bool) (addr f n q : Nat) : State :=
  let size := if bf then 2 else 4
  match (s.lig g.core).bound with
  | none => s.trap c cLIGORDER
  | some bd =>
    let span := (bd.1 - 1) * q + size * n
    if n = 0 ∨ ligCap bd.1 < f + n ∨ q % 16 ≠ 0 ∨ (1 < bd.1 ∧ q < size * n) then s.trap c cDESCRIPTOR
    else if spanStep t.krec.folio addr span ≠ 0 then s.addrTrap c (spanStep t.krec.folio addr span) addr
    else if s.early true g.core (((t.seat? g.core).map (·.folio)).getD 0 + addr) span then s.addrTrap c 5 addr
    else s.ordered c false 2 (s.enterLig c g since (.emit bf addr f n q bd.1))

/-- LIGEMIT (R236). -/
def execLigemit (bf : Bool) (a b : SReg) (s : State) : Out :=
  ligatureOp s fun c g t =>
    s.ligReady c g <|
      let x := (s.sreg g b.toNat).toNat
      s.ligemitAt c g t s.uid bf ((s.sreg g a.toNat).toNat % 2 ^ 32) (fld x 0 16) (fld x 16 16) (fld x 32 32)

/-- LIG_QUEUE_ENTER: a waiting operation issues now that its queue has an entry (R231). Its checks are those of this moment: what its engine
and the binding in force have become since it began to wait decides them (R233, R234, R237, R238). -/
def execLigQueueEnter (core slot : Nat) (s : State) : Out :=
  match s.group? core slot with
  | none => .next s
  | some g =>
    match g.run, s.team? g.team with
    | .waiting (.ligQ c op), some t =>
      if !s.ligRoom core op.uid then .next s
      else
        let g := { g with run := .ready, notBefore := s.cycle + 1 }
        let s := s.setGroup g
        .next <| s.ligReady c g <|
          match op.kind with
          | .bind .. => s.enterLig c g op.uid op.kind
          | .eval addr _ => s.ligevalAt c g t op.uid addr
          | .emit bf addr f n q _ => s.ligemitAt c g t op.uid bf addr f n q
    | _, _ => .next s

/-- LIGWAIT (R239): LOCK first (08 R190). -/
def execLigwait (s : State) : Out :=
  ligatureOp s fun c g _ =>
    s.unlocked c <| s.ligReady c g <|
      if s.ownLigs g.core g.slot then s.waitAgain c (.ligwait c) else s.finish c

/-- LIGCLR (R240). -/
def execLigclr (s : State) : Out :=
  ligatureOp s fun c g _ =>
    if s.ligIdle g.core then State.finish (s.clearLig g.core) c else s.wait c (.ligclr c)

end Sys2Proof.Machine
end

