-- ==== Sys2Proof/Machine/Tensor.lean ====
section
/-! DEFINITION. Tensor descriptors (03 R60 to R69): fields, the checks of R66, the box as a list of items that join
far bytes to folio bytes, residency units (R77), padding (R65), and records and sparse tiles in both directions
(R68, R69, 08 R198). -/

namespace Sys2Proof.Machine

/-- A tensor descriptor (R61); dimension 0 of `ext`, `stride` and `box` first, `stride` 0 for dimension 0. -/
structure Desc where
  arrw : Nat
  resw : Nat
  ext : List Nat
  stride : List Nat
  box : List Nat
  dbyte : Nat
  drow : Nat
  ph : Nat
  pw : Nat
  efmt : Nat
  padz : Bool
  rowmode : Bool
  store : Nat
  ndim : Nat
  base : Nat
  raw : Nat     -- the 512 bits
  deriving DecidableEq, Repr

/-- The fields of a descriptor's 512 bits. -/
def descOf (x : Nat) : Desc :=
  { arrw := fld x 494 18, resw := fld x 476 18
    ext := [fld x 336 28, fld x 364 28, fld x 392 28, fld x 420 28, fld x 448 28]
    stride := [0, fld x 176 40, fld x 216 40, fld x 256 40, fld x 296 40]
    box := [fld x 112 16, fld x 128 12, fld x 140 12, fld x 152 12, fld x 164 12]
    dbyte := fld x 96 16, drow := fld x 84 12, ph := fld x 72 12, pw := fld x 68 4, efmt := fld x 64 4
    padz := fld x 63 1 == 1, rowmode := fld x 62 1 == 1, store := fld x 60 2, ndim := fld x 57 3, base := fld x 0 57, raw := x }

/-- Box size of a dimension (R63). -/
def Desc.boxN (d : Desc) (i : Nat) : Nat := if i < d.ndim then d.box.getD i 1 else 1
/-- Stride of a dimension. -/
def Desc.strideN (d : Desc) (i : Nat) : Nat := if i < d.ndim then d.stride.getD i 0 else 0
/-- Origin of a dimension. -/
def Desc.orgN (d : Desc) (org : List Nat) (i : Nat) : Nat := if i < d.ndim then org.getD i 0 else 0

/-- Bytes of an element in far memory, for formats that plain storage holds. -/
def Desc.esize (d : Desc) : Nat := elemHalves d.efmt / 2
/-- Bytes of a block record (R68). -/
def recSize (efmt : Nat) : Nat := if efmt = 7 then 17 else if efmt = 5 ∨ efmt = 6 then 25 else 33
/-- Bytes of a sparse tile (R69). -/
def tileSize (efmt : Nat) : Nat := if elemHalves efmt = 2 then 40 else 72
/-- Elements along dimension 0 that are stored together. -/
def Desc.unitElems (d : Desc) : Nat := if d.store = 0 then 1 else if d.store = 1 then 32 else 64
/-- Far bytes of such a unit. -/
def Desc.unitBytes (d : Desc) : Nat := if d.store = 0 then d.esize else if d.store = 1 then recSize d.efmt else tileSize d.efmt

/-- Rows of the box (R65). -/
def Desc.rowsH (d : Desc) : Nat := (if d.rowmode then d.boxN 0 else d.boxN 1) * d.boxN 2 * d.boxN 3 * d.boxN 4
/-- Bytes of a box row. -/
def Desc.rowBytes (d : Desc) : Nat := (if d.rowmode then d.boxN 1 else d.boxN 0) * elemHalves d.efmt / 2
/-- End of the plane with its scale plane. -/
def Desc.planeEnd (d : Desc) (b : Nat) : Nat :=
  b + (d.pw + 1) * panelStride d.ph + (if d.store = 1 then (d.pw + 1) * scaleStride d.ph else 0)
/-- Base of the scale plane. -/
def Desc.scaleBase (d : Desc) (b : Nat) : Nat := b + (d.pw + 1) * panelStride d.ph

/-- Step 1 of R66; `plane` tells that the command has a local plane. -/
def Desc.step1 (d : Desc) (plane : Bool) : Bool :=
  d.ndim == 0 || decide (5 < d.ndim) || d.store == 3 || decide (10 < d.efmt) || (List.range d.ndim).any (fun i => d.boxN i == 0)
    || (plane && d.ph == 0)

/-- Step 2 of R66. -/
def Desc.step2 (d : Desc) (plane : Bool) (o0 : Nat) : Bool :=
  let n := d.unitElems
  let u := d.unitBytes
  let strides := (List.range (d.ndim - 1)).map fun i => d.strideN (i + 1)
  (d.store == 0 && (d.efmt == 5 || d.efmt == 6 || d.efmt == 7))
    || (d.store == 1 && !(decide (3 ≤ d.efmt) && decide (d.efmt ≤ 7)))
    || (d.store == 2 && !([1, 2, 3, 4, 8, 9].any (· == d.efmt)))
    || (plane && d.rowmode && (d.store != 0 || !(elemHalves d.efmt == 2 || elemHalves d.efmt == 4) || decide (d.ndim < 2)))
    || (d.store == 0 && d.base % u != 0) || strides.any (fun x => x % u != 0)
    || (d.store != 0 && (o0 % n != 0 || d.boxN 0 % n != 0 || d.ext.getD 0 0 % n != 0))
    || (plane && d.dbyte % (if d.store = 1 then bytesPerBlock d.efmt else 16) != 0)

/-- The part of step 3 of R66 that needs no item: placement in the plane and of the two words. -/
def Desc.step3 (d : Desc) (plane : Bool) (b folio : Nat) : Bool :=
  (plane && (decide (d.ph < d.drow + d.rowsH) || decide (128 * (d.pw + 1) < d.dbyte + d.rowBytes) || decide (folio < d.planeEnd b)))
    || decide (folio < 16 * d.arrw + 16) || decide (folio < 16 * d.resw + 8)

/-! ### Items -/

/-- A row of the box along dimension 0: x1, the row number of the outer dimensions, the far address of element
c0 = 0, and whether its outer coordinates lie inside the tensor. -/
structure BoxRow where
  x1 : Nat
  rest : Nat
  far : Nat
  inside : Bool
  deriving DecidableEq, Repr

/-- The rows of a box in box order; `idx` gives the coordinates c1 of a gather. -/
def Desc.boxRows (d : Desc) (org : List Nat) (idx : Option (List Nat)) : List BoxRow :=
  (List.range (d.boxN 4)).flatMap fun x4 => (List.range (d.boxN 3)).flatMap fun x3 =>
    (List.range (d.boxN 2)).flatMap fun x2 => (List.range (d.boxN 1)).map fun x1 =>
      let c1 := match idx with
        | some l => l.getD x1 0
        | none => d.orgN org 1 + x1
      let cs := [(1, c1), (2, d.orgN org 2 + x2), (3, d.orgN org 3 + x3), (4, d.orgN org 4 + x4)]
      { x1 := x1, rest := x2 + d.boxN 2 * (x3 + d.boxN 3 * x4)
        far := d.base + sumL (cs.map fun c => c.2 * d.strideN c.1)
        inside := cs.all fun c => decide (d.ndim ≤ c.1) || decide (c.2 < d.ext.getD c.1 0) }

/-- Row and logical byte of element (x0, x1) of a box row (R65). -/
def Desc.place (d : Desc) (r : BoxRow) (x0 : Nat) : Nat × Nat :=
  if d.rowmode then (d.drow + x0 + d.boxN 0 * r.rest, d.dbyte + r.x1 * elemHalves d.efmt / 2)
  else (d.drow + r.x1 + d.boxN 1 * r.rest, d.dbyte + x0 * elemHalves d.efmt / 2)

/-- Folio offsets of the bytes of element x0 of a plain box row, or of a unit's element bytes from x0 on. -/
def Desc.locBytes (d : Desc) (b : Nat) (r : BoxRow) (x0 n : Nat) : List Nat :=
  let p := d.place r x0
  (List.range n).map fun j => planeOff b d.ph p.1 (p.2 + j)

/-- Pieces of `n` far bytes from an address that lie within 4 KiB (R86): offset and length. -/
def cutRun (va : Nat) : Nat → Nat → List (Nat × Nat)
  | 0, _ => []
  | f + 1, n =>
    if n = 0 then []
    else
      let k := min n (4096 - va % 4096)
      (0, k) :: (cutRun (va + k) f (n - k)).map fun p => (p.1 + k, p.2)

/-- An item with far bytes. -/
def itemAt (va len : Nat) (form : Form) (loc aux : List Nat) (cnt : Nat) : Item :=
  { far := some (farWrap va), far2 := none, len := len, form := form, loc := loc, aux := aux, cnt := cnt, fill := false
    nrf := false, bad := false, done := false, box := (0, 0) }

/-- An item outside the tensor (R64). -/
def itemOut (loc aux : List Nat) (cnt : Nat) : Item :=
  { far := none, far2 := none, len := 0, form := .plain, loc := loc, aux := aux, cnt := cnt, fill := true, nrf := false
    bad := false, done := false, box := (0, 0) }

/-- Plain runs of a row: `loc` are the folio offsets of all its bytes, none for a command without a plane. -/
def plainRuns (va inB total : Nat) (loc : List Nat) (local_ : Bool) : List Item :=
  (cutRun va (inB / 4096 + 2) inB).map (fun p =>
      itemAt (va + p.1) p.2 .plain (if local_ then (loc.drop p.1).take p.2 else []) [] p.2)
    ++ (if inB < total then [itemOut (if local_ then loc.drop inB else []) [] (total - inB)] else [])

/-- Units of a row inside the tensor. -/
def Desc.unitsIn (d : Desc) (org : List Nat) (r : BoxRow) : Nat :=
  let n := d.boxN 0 / d.unitElems
  if r.inside then min n ((d.ext.getD 0 0 + d.unitElems - 1 - d.orgN org 0) / d.unitElems) else 0

/-- What a command does with the box: whether it has a local plane, and whether a fetch writes it. -/
structure BoxUse where
  plane : Bool
  fetch : Bool
  deriving DecidableEq, Repr

/-- Bytes counted for a unit of records or tiles: element bytes and 2 for a scale entry (R76); far bytes for a
command without a plane. -/
def Desc.unitCount (d : Desc) (use : BoxUse) : Nat :=
  if !use.plane then d.unitBytes
  else d.unitElems * elemHalves d.efmt / 2 + (if d.store = 1 then 2 else 0)

/-- Items of one box row. -/
def Desc.rowItems (d : Desc) (use : BoxUse) (b : Nat) (org : List Nat) (r : BoxRow) : List Item :=
  let inn := d.unitsIn org r
  let u := d.unitBytes
  let o0 := d.orgN org 0
  if d.store = 0 then
    let loc := if use.plane then (List.range (d.boxN 0)).flatMap fun x0 => d.locBytes b r x0 u else []
    let its := plainRuns (r.far + o0 * u) (inn * u) (d.boxN 0 * u) loc use.plane
    if use.fetch then its else its.map fun i => if i.fill then { i with loc := [] } else i
  else
    (List.range (d.boxN 0 / d.unitElems)).map fun j =>
      let loc := if use.plane then d.locBytes b r (j * d.unitElems) (d.unitElems * elemHalves d.efmt / 2) else []
      let e := scaleOff (d.scaleBase b) d.ph d.efmt (d.place r 0).1 (d.dbyte / bytesPerBlock d.efmt + j)
      let aux := if use.plane && d.store == 1 then [e, e + 1] else []
      if j < inn then
        itemAt (r.far + (o0 / d.unitElems + j) * u) u (if !use.plane then .plain else if d.store = 1 then .record (efmtFloat d.efmt) else .sparse (elemHalves d.efmt / 2))
          loc aux (d.unitCount use)
      else itemOut (if use.fetch then loc else []) (if use.fetch then aux else []) (d.unitCount use)

/-- Padding of R65: to the end of each written row's panel row, and every scale entry of the row beyond its last block. -/
def Desc.padBytes (d : Desc) (b : Nat) : List Nat :=
  if !d.padz then []
  else
    let l := d.dbyte + d.rowBytes
    let bpp := 128 / bytesPerBlock d.efmt
    let k0 := d.dbyte / bytesPerBlock d.efmt + d.boxN 0 / 32
    (List.range d.rowsH).flatMap fun h =>
      (List.range (roundUp l 128 - l)).map (fun j => planeOff b d.ph (d.drow + h) (l + j)) ++
      (if d.store = 1 then (List.range ((d.pw + 1) * bpp - k0)).flatMap fun j =>
        let e := scaleOff (d.scaleBase b) d.ph d.efmt (d.drow + h) (k0 + j)
        [e, e + 1] else [])

/-- The 64 KiB units a run of far bytes touches. -/
def unitsOf (va len : Nat) : List Nat := (List.range ((va + len - 1) / 65536 - va / 65536 + 1)).map (· + va / 65536)

/-- The first touches of distinct units (R77): the address that first touches each. -/
def firstTouch (rs : List (Nat × Nat)) : List Nat :=
  (rs.flatMap fun r => (unitsOf r.1 r.2).map fun u => (u, if r.1 / 65536 = u then r.1 else u * 65536)).foldl
    (fun acc x => if acc.any (fun y => y / 65536 == x.1) then acc else acc ++ [x.2]) []

/-- Far runs that items read or write. -/
def itemRuns (is : List Item) : List (Nat × Nat) := is.filterMap fun i => i.far.map fun a => (a, i.len)
/-- Far runs of the destinations of a copy. -/
def itemRuns2 (is : List Item) : List (Nat × Nat) := is.filterMap fun i => i.far2.map fun a => (a, i.len)

/-- Folio bytes items touch. -/
def itemLocs (is : List Item) : List Nat := is.flatMap fun i => i.loc ++ i.aux

/-- Least element of a list, with a start. -/
def minL (x : Nat) (xs : List Nat) : Nat := xs.foldl min x

/-- A span over folio offsets: from the lowest to one past the highest; none for no byte (R80). -/
def spanOf (os : List Nat) : Option (Nat × Nat) :=
  match os with
  | [] => none
  | o :: rest => some (minL o rest, maxL (o :: rest) + 1)

/-- Two runs of bytes share one. -/
def meets (a n : Nat) (sp : Option (Nat × Nat)) : Bool :=
  match sp with
  | some x => decide (a < x.2) && decide (x.1 < a + n)
  | none => false

/-! ### Records and tiles (R68, R69, 02 R48, R52) -/

/-- Element bytes and scale entry of a record in the canonical plane. -/
def recordIn (f : FTy) (bs : List Byte) : List Byte × List Byte :=
  let b0 := (bs.getD 0 0).toNat
  match f with
  | .e2m1 => (bs.drop 1, leBytes 2 (b0 % 32 + 112 + 2 ^ 8 * (b0 / 32 % 4) + 2 ^ 10 * (b0 / 128)))
  | .e3m2 | .e2m3 => ((List.range 32).map fun j => .ofNat 8 (fld (leNat (bs.drop 1)) (6 * j) 6), leBytes 2 b0)
  | _ => (bs.drop 1, leBytes 2 b0)

/-- Pack 6-bit codes. -/
def packSix (bs : List Byte) : Nat := (bs.reverse).foldl (fun x b => x * 64 + b.toNat % 64) 0

/-- A record from element bytes and a scale entry, and whether an FP4 exponent was out of range (08 R198). -/
def recordOut (f : FTy) (es aux : List Byte) : List Byte × Bool :=
  let x := leNat aux
  let ex := fld x 0 8
  match f with
  | .e2m1 =>
    let bad := decide (ex < 112) || decide (143 < ex)
    let e := if ex < 112 then 0 else if 143 < ex then 31 else ex - 112
    (.ofNat 8 (e + 32 * fld x 8 2 + 128 * fld x 10 1) :: es, bad)
  | .e3m2 | .e2m3 => (.ofNat 8 ex :: leBytes 24 (packSix es), false)
  | _ => (.ofNat 8 ex :: es, false)

/-- The four elements of nibble j of a tile: its two kept values, or zeros and a fault. -/
def tileQuad (size : Nat) (bs : List Byte) (md j : Nat) : List Byte × Bool :=
  let a := fld md (4 * j) 2
  let b := fld md (4 * j + 2) 2
  let kept : Nat → List Byte := fun i => (bs.drop (i * size)).take size
  let z := List.replicate size (0 : Byte)
  if a < b then
    ((List.range 4).flatMap fun i => if i = a then kept (2 * j) else if i = b then kept (2 * j + 1) else z, false)
  else (List.replicate (4 * size) 0, true)

/-- A sparse tile expanded, and whether some nibble is broken. -/
def tileIn (size : Nat) (bs : List Byte) : List Byte × Bool :=
  let m := leNat (bs.drop (32 * size))
  let qs := (List.range 16).map (tileQuad size bs m)
  (qs.flatMap (·.1), qs.any (·.2))

end Sys2Proof.Machine
end

