-- ==== Sys2Proof/Machine/Engine.lean ====
section
/-! DEFINITION. The fetch engine's side of a command: local reads at issue (03 R60, 04 R98), the chase table and the
allowance (R80 to R85), registration and retirement, residency words (R77, R331), requests (R86), counted additions
(R391), and bytes that end without a module (R64, R78, R333). -/

namespace Sys2Proof.Machine

/-! ### Local reads at issue (R60, 04 R98) -/

/-- Folio runs a matrix operation writes. -/
def MatOp.folioRuns (m : MatOp) : List (Nat × Nat) :=
  match m.kind with
  | .mstg d k => sliceRuns d 128 k
  | .mcvt _ _ d k => sliceRuns d (mcvtW (fEfmt d)) k
  | _ => []

/-- Folio runs a ligature operation writes. -/
def LigOp.folioRuns (m : LigOp) : List (Nat × Nat) :=
  match m.kind with
  | .emit bf dst _ count pitch cols => (List.range cols).map fun c => (dst + c * pitch, count * (if bf then 2 else 4))
  | _ => []

/-- A run of bytes meets one of the runs of a folio. -/
def runsMeet (fk : Nat) (rs : List (Nat × Nat)) (key n : Nat) : Bool :=
  rs.any fun r => decide (fk + r.1 < key + n) && decide (key < fk + r.1 + r.2)

/-- Matrix and ligature operations of an agent whose folio writes meet `n` bytes at a key (04 R98). -/
def State.opsOver (s : State) (a : Agent) (key n : Nat) : List Nat :=
  ((s.mats.filter fun m => a == .group m.core m.slot && runsMeet m.folio m.folioRuns key n).map (·.uid))
    ++ ((s.ligOps.filter fun m => a == .group m.core m.slot && runsMeet m.folio m.folioRuns key n).map (·.uid))

/-- A group-level read of local bytes at issue, as a load with R98's holds, for a release (`rel`) or not; the value read is handed on. A 64-byte read through aperture
0x8 takes ALIGN, as R75 has it for a load of a size other than 4 and 16; R197 leaves step 3 of R181, which would say so, out for a
descriptor, and the spec does not say which holds (DESIGN CHOICE, log 35). -/
def State.readAtIssue (s : State) (c : Cur) (g : Group) (acc : List Nat) (rel : Bool) (addr n : Nat) (k : Nat → State) : State :=
  s.checked c g acc false false n [(0, addr)] <|
    let key := (s.locate g addr).1
    if s.ownPending c.agent key n then s.waitAgain c (.ownWrites key n)
    else if !(s.opsOver c.agent key n).isEmpty then s.retryAt c 0
    else s.ordered c rel 2 (s.sound c [(key, n)] (k (s.le key n)))

/-! ### Making a command -/

/-- A command with nothing to do yet. -/
def Cmd.of (uid : Nat) (kind : CmdKind) (a : Agent) (core : Nat) (t : Team) (recvs : List Recv) : Cmd :=
  { uid := uid, kind := kind, agent := a, cluster := clusterOf core, team := t.uid, launch := t.launch, recvs := recvs
    spans := [], items := [], pads := [], units := [], operand := 0, compare := 0, esize := 1, efmt := 0, bytes := 0
    charged := false, issued := 0, fences := [], behind := [], resDone := false, err := false, held := [], src := []
    got := [], finished := false, bindingOf := none, desc := 0 }

/-- Items with their numbers. -/
def Cmd.numbered (m : Cmd) : List (Item × Nat) := m.items.zip (List.range m.items.length)

/-- Commands that write far memory. -/
def CmdKind.writes : CmdKind → Bool
  | .store | .reduce _ | .fill | .atom .. | .bulkst => true
  | _ => false

/-- Commands that write fetched bytes into a folio. -/
def CmdKind.fetches : CmdKind → Bool
  | .fetch | .mcast | .gather | .bulkld => true
  | _ => false

/-- Units of items: those of the far side, then a copy's destinations (R331, 08 R198). -/
def itemUnits (kind : CmdKind) (is : List Item) : List FUnit :=
  let mk : Bool → Nat → FUnit := fun w va =>
    { va := va, write := w, res := .pending, done := false, refused := false, posted := false, faulted := false,
      lost := false }
  let zeroDst := is.filter fun i => kind == .copy && i.far2.isNone && i.far.isSome
  let srcs := is.filter fun i => !(kind == .copy && i.far2.isNone)
  (firstTouch (itemRuns srcs)).map (mk kind.writes)
    ++ (if kind = .copy then (firstTouch (is.filterMap fun i =>
          match i.far2 with
          | some b => some (b, i.len)
          | none => if zeroDst.any (· == i) then i.far.map fun a => (a, i.len) else none)).map (mk true) else [])

/-- Bytes counted by items. -/
def itemCount (is : List Item) : Nat := sumL (is.map (·.cnt))

/-- A receiver: a core's folio with the descriptor's words. -/
def recvOf (core folio arrw : Nat) (resw : Option Nat) : Recv :=
  { core := core, folio := folio, arr := folio + 16 * arrw, resw := resw.map fun r => folio + 16 * r }

/-- A chase span over folio offsets of a core. -/
def mkSpan (core folio : Nat) (dest : Bool) (sp : Option (Nat × Nat)) : List Span :=
  match sp with
  | some x => [{ core := core, lo := folio + x.1, hi := folio + x.2, dest := dest }]
  | none => []

/-! ### Chase table and allowance (R80 to R85) -/

/-- Entries fit and no conflict of R82 remains. -/
def State.chaseFits (s : State) (m : Cmd) : Bool :=
  m.spans.all fun x =>
    decide ((s.chases.filter (·.span.core == x.core)).length + (m.spans.filter (·.core == x.core)).length ≤ 64)
      && !s.chases.any fun e => e.span.dest != x.dest && e.span.overlaps x.core x.lo (x.hi - x.lo)

/-- Bytes and commands a team has charged and not had back: a charge is returned when the command's last chase entry retires (R85); that of a
command with no entry when it is over. -/
def State.outstanding (s : State) (team : Nat) : Nat × Nat :=
  let ms := s.cmds.filter fun m => m.team == team && m.charged && (m.spans.isEmpty || s.chases.any (·.tag == m.uid))
  (sumL (ms.map (·.bytes)), ms.length)

/-- The allowance's answer: 0 issued, 1 or 2 refused (08 R197). Where both limits are exhausted the command limit answers first: the spec
gives no precedence (log 35). -/
def State.allowance (s : State) (m : Cmd) : Nat :=
  match s.team? m.team with
  | none => 0
  | some t =>
    let o := s.outstanding m.team
    if t.limC < o.2 + 1 then 1
    else if t.limB < m.bytes then (if o.1 = 0 ∧ o.2 = 0 then 0 else 2)
    else if t.limB < o.1 + m.bytes then 2
    else 0

/-- Team whose folio holds a byte of a core. -/
def State.folioOwner (s : State) (core off dflt : Nat) : Nat :=
  match s.teams.find? fun t => t.seats.any fun x => x.core == core && decide (x.folio ≤ off) && decide (off < x.folio + t.krec.folio) with
  | some t => t.uid
  | none => dflt

/-- Whether bytes of a command's residency unit are served. -/
def FUnit.served (u : FUnit) : Bool :=
  match u.res with
  | .served (.ok ..) => true
  | _ => false

/-- Its residency bit (R77): served, and nothing of it zero-filled since (16 R331). -/
def FUnit.resident (u : FUnit) : Bool := u.served && !u.lost

/-- The outcome of a unit whose translation is over. -/
def FUnit.out (u : FUnit) : Option XOut :=
  match u.res with
  | .served o => some o
  | _ => none

/-- Whether a unit's translation is over. -/
def FUnit.over (u : FUnit) : Bool :=
  match u.res with
  | .served _ => true
  | _ => false

/-- The residency word (R77). -/
def resWord : List FUnit → Nat
  | [] => 0
  | u :: us => (if u.resident then 1 else 0) + 2 * resWord us

/-- Write a command's residency word into its receivers. -/
def State.writeRes (s : State) (m : Cmd) : State :=
  m.recvs.foldl (fun s r => match r.resw with
    | some w => s.write (cellsLE (storeKey r.core w) 8 (resWord m.units))
    | none => s) s

/-- A counted addition in every receiver (R73, R76); nothing for 0 bytes. -/
def State.countRecvs (s : State) (m : Cmd) (n flags : Nat) : State :=
  if n = 0 then s else m.recvs.foldl (fun s r => s.countAdd (storeKey r.core r.arr) n flags) s

/-- NRF and ERR of the flags word (R72). -/
def arrFlags (nrf err : Bool) : Nat := (if nrf then 8 else 0) + (if err then 4 else 0)

/-- Write folio bytes, by offset, in every receiver. -/
def State.writeFolio (s : State) (m : Cmd) (bs : List (Nat × Byte)) : State :=
  m.recvs.foldl (fun s r => s.write (bs.map fun b => (storeKey r.core (r.folio + b.1), b.2))) s

/-- Zero folio bytes in every receiver. -/
def State.zeroFolio (s : State) (m : Cmd) (os : List Nat) : State := s.writeFolio m (os.map fun o => (o, 0))

/-! ### Retirement (R83, R85) -/

/-- Retire a command: its entries, its charge, and the teams that waited only for it. -/
def State.retireCmd (s : State) (m : Cmd) : State :=
  let owners := (s.chases.filter (·.tag == m.uid)).map (·.team)
  let s := { s with
    chases := s.chases.filter (·.tag != m.uid)
    cmds := s.cmds.filter (·.uid != m.uid)
    reqs := s.reqs.filter (·.cmd != m.uid) }
  let s := if m.bindingOf.isSome then
      { s with groups := s.groups.map fun (g : Group) => if g.team == m.team then { g with notBefore := s.cycle + 1 } else g }
    else s
  (dedup (m.team :: owners)).foldl State.reap s

/-- Retire a command if every byte of it is counted. A source entry retires when its modules have acknowledged every chunk, be there
bytes that no module serves still to be counted (R83). -/
def State.settleCmd (s : State) (uid : Nat) : State :=
  match s.cmd? uid with
  | none => s
  | some m =>
    if m.kind == .pagereq || !m.resDone || s.reqs.any (fun r => r.cmd == uid && r.run != .finished) then s
    else if m.items.all fun i => !i.fill || i.done then s.retireCmd m
    else { s with chases := s.chases.filter fun e => !(e.tag == uid && !e.span.dest) }

/-! ### Requests (R86) -/

/-- Outcome of the unit that holds a far byte. -/
def Cmd.unitOf (m : Cmd) (write : Bool) (va : Nat) : Option FUnit :=
  m.units.find? fun u => u.va / 65536 == va / 65536 && u.write == write

/-- Every unit of a run is served. -/
def Cmd.runServed (m : Cmd) (write : Bool) (va len : Nat) : Bool :=
  (unitsOf va len).all fun u => (m.unitOf write (u * 65536)).any FUnit.served

/-- What an item becomes once its units are known: served, zero-filled, or, for a copy whose source cannot be read, a
write of zeros (R333). A copy's destination is the module engine's to look at, block by block (16 R336). A record or a tile of which some far
byte is not served is filled as a whole: R78 speaks of the destination bytes of a page, and a record or tile that lies on two pages has none
of its own (DESIGN CHOICE, log 35). -/
def Cmd.settleItem (m : Cmd) (i : Item) : Item :=
  match i.far with
  | none => i
  | some a =>
    match i.far2 with
    | some b =>
      if m.runServed false a i.len then i
      else if m.runServed true b i.len then { i with far := some b, far2 := none, nrf := true }
      else { i with fill := true, nrf := true }
    | none =>
      if m.runServed (m.kind.writes || m.kind == .copy) a i.len then i else { i with fill := true, nrf := true }

/-- A piece of an item within 4 KiB: item index, whether it is a copy's read, address and length. -/
structure Piece where
  idx : Nat
  zero : Bool
  va : Nat
  len : Nat
  deriving DecidableEq, Repr

/-- Pieces of the items that modules serve, in order, numbered from `n`. -/
def piecesOf (copy : Bool) : Nat → List Item → List Piece
  | _, [] => []
  | n, i :: is =>
    (match i.far with
      | some a => if i.fill then [] else
          (cutRun a (i.len / 4096 + 2) i.len).map fun p => { idx := n, zero := copy && i.far2.isNone, va := a + p.1, len := p.2 }
      | none => []) ++ piecesOf copy (n + 1) is

/-- Runs of pieces that share a request: contiguous, within 4 KiB. -/
def joinPieces : List Piece → List (Bool × Nat × Nat × List Nat)
  | [] => []
  | p :: ps =>
    match joinPieces ps with
    | [] => [(p.zero, p.va, p.len, [p.idx])]
    | q :: qs =>
      if p.zero = q.1 ∧ p.va + p.len = q.2.1 ∧ q.2.1 % 4096 ≠ 0 then (p.zero, p.va, p.len + q.2.2.1, p.idx :: q.2.2.2) :: qs
      else (p.zero, p.va, p.len, [p.idx]) :: q :: qs

/-- What the requests of a command ask for. -/
def reqOpOf (k : CmdKind) (zero : Bool) : ReqOp :=
  match k with
  | .store | .bulkst => .write
  | .reduce o => .reduce o
  | .fill => .fill
  | .copy => if zero then .fill else .copy
  | .atom o t => .atomic o t
  | _ => .read

/-- The requests of a command's settled items from the `i0`-th on, numbered from `n0`. -/
def Cmd.makeReqs (m : Cmd) (part i0 n0 : Nat) : List Req :=
  let qs := joinPieces (piecesOf (m.kind == .copy) i0 (m.items.drop i0))
  (List.range qs.length).zip qs |>.filterMap fun nq =>
    let q := nq.2
    match (m.unitOf (m.kind.writes || q.1) q.2.1).bind FUnit.out with
    | some (.ok ep page cls cmp _ first _ _) =>
      some { cmd := m.uid, n := n0 + nq.1, team := m.team, ep := ep, page := page, leaf := first, cls := cls, cmp := cmp, part := part
             va := q.2.1, len := q.2.2.1, op := reqOpOf m.kind q.1, items := dedup q.2.2.2, run := .unsent, tries := 0, hint := 0
             left := [], owed := [], piece := ([], false), data := [], stream := 0, seq := 0 }
    | _ => none

/-- The core of a requester. -/
def agentCore : Agent → Nat
  | .group k _ => k
  | .proof c => 4 * c

/-- Post a fault for a unit that is not served (R338). -/
def State.unitFault (s : State) (m : Cmd) (va reason level ep access : Nat) : State :=
  let core := agentCore m.agent
  s.postFault (s.partOf core) (s.faultOf m.team core va reason level ep access)

/-- Access code of a unit's fault. -/
def Cmd.accessOf (m : Cmd) (u : FUnit) : Nat := if m.kind = .pagereq then 2 else if u.write then 1 else 0

/-- Every unit is translated: faults, the residency word, padding, requests (R331, R77, R65). -/
def State.startData (s : State) (uid : Nat) : State :=
  match s.cmd? uid with
  | none => s
  | some m =>
    let m := { m with items := m.numbered.map fun p => { m.settleItem p.1 with box := (p.2, 0) }, resDone := true }
    let s := State.writeRes (s.setCmd m) m
    let s := if m.kind.fetches then s.zeroFolio m m.pads else s
    State.settleCmd { s with reqs := s.reqs ++ m.makeReqs (s.partOf (agentCore m.agent)) 0 0 } uid

/-- A local write that issued before a command or request, to `n` bytes at a key, is still in flight. -/
def State.writeOwed (s : State) (uid key n : Nat) : Bool :=
  s.locals.any fun l => l.op.writes && l.onStore && decide (l.uid < uid) && decide (l.addr < key + n) && decide (key < l.addr + l.size)

/-- What was written before a command to its arrival words and to its destination has been performed: an ARINIT of a word comes before the
additions (13 R276, R278), and a store to the destination before the engine's writes, so that a byte holds its final value once its entry
retires (04 R110). -/
def State.armed (s : State) (m : Cmd) : Bool :=
  !(m.recvs.any fun r => s.writeOwed m.uid (storeKey r.core r.arr) 16)
    && !m.spans.any fun x => x.dest && s.writeOwed m.uid (storeKey x.core x.lo) (x.hi - x.lo)

/-- A PAGEREQ is over once every unit is: the residency word, then one counted addition of 1 (08 R201). -/
def State.pagereqEnd (s : State) (uid : Nat) : State :=
  match s.cmd? uid with
  | none => s
  | some m =>
    if m.units.all (·.done) then
      let s := State.countRecvs (s.writeRes m) m 1 (arrFlags false (m.units.any fun u => u.refused && !u.served))
      s.retireCmd m
    else s

/-- Once every unit of a command is translated its data begins; a PAGEREQ ends. -/
def State.unitsDone (s : State) (uid : Nat) : State :=
  match s.cmd? uid with
  | none => s
  | some m =>
    if !s.armed m then s
    else if m.kind = .pagereq then s.pagereqEnd uid
    else if !m.resDone && m.units.all FUnit.over then s.startData uid
    else s

/-- Whether a unit's walk is in flight. -/
def FUnit.walks (u : FUnit) : Bool :=
  match u.res with
  | .walking .. => true
  | _ => false

/-- Walks in flight in a cluster's translation unit, which holds up to 32 (16 R332). -/
def State.walksIn (s : State) (cluster : Nat) : Nat :=
  sumL ((s.cmds.filter (·.cluster == cluster)).map fun m => (m.units.filter FUnit.walks).length)

/-- Begin the translation of units that have not begun: from the cluster's cache, or a walk while there is room for one (R332). -/
def State.beginList (s : State) (p : Partition) (cluster : Nat) : Nat → List FUnit → List FUnit
  | _, [] => []
  | room, u :: us =>
    if u.res ≠ .pending then u :: s.beginList p cluster room us
    else
      match s.cachedFor cluster u.va with
      | some c => { u with res := .ended (c.out u.write u.va) } :: s.beginList p cluster room us
      | none =>
        if room = 0 then u :: s.beginList p cluster 0 us
        else { u with res := s.walkFrom p cluster u.va } :: s.beginList p cluster (room - 1) us

/-- Begin a command's translation. -/
def State.beginUnits (s : State) (m : Cmd) : Cmd :=
  match s.part? (s.partOf (agentCore m.agent)) with
  | none => { m with units := m.units.map fun u => if u.res = .pending then { u with res := .ended (.bad 1 4 0) } else u }
  | some p => { m with units := s.beginList p m.cluster (32 - s.walksIn m.cluster) m.units }

/-- Fences of package scope or wider between an earlier command of the agent and a new one (04 R107). -/
def State.fencesFor (s : State) (a : Agent) : List (FenceKind × Nat) :=
  (s.cmds.filter fun m => m.agent == a && m.charged).flatMap fun m => m.behind.map fun k => (k, m.uid)

/-- Register and send a command (08 R197 step 4). -/
def State.sendCmd (s : State) (m : Cmd) : State :=
  let m := s.beginUnits { m with charged := true, issued := s.cycle, fences := s.fencesFor m.agent, behind := [] }
  let s := { s with
    chases := s.chases ++ m.spans.map fun x => { span := x, team := s.folioOwner x.core x.lo m.team, tag := m.uid }
    cmds := s.cmds.filter (·.uid != m.uid) ++ [m] }
  if m.units.isEmpty && m.kind != .pagereq then s.unitsDone m.uid else s

/-- Steps 2 to 4 of R197: wait for the chase table, ask the allowance, issue. A command that waits has not issued yet: it does so when its
core chooses its group again (01 R26, R34). -/
def State.takeUp (s : State) (c : Cur) (d : SReg) (m : Cmd) : State :=
  if !s.chaseFits m then
    State.waitAgain { s with cmds := s.cmds.filter (·.uid != m.uid) ++ [m] } c (.chase c d m.uid)
  else
    let s := { s with cmds := s.cmds.filter (·.uid != m.uid) }
    let x := s.allowance m
    let s := State.setSregA (if x = 0 then s.sendCmd m else s) c.agent d.toNat (.ofNat 64 x)
    s.resume c

/-- The command of an agent that waits at issue, past the checks of R197 step 1. -/
def State.heldCmd (s : State) (a : Agent) : Option Cmd := s.cmds.find? fun m => m.agent == a && !m.charged

/-- Forget it: its instruction is not issued again where it stood. -/
def State.dropHeld (s : State) (a : Agent) : State := { s with cmds := s.cmds.filter fun m => !(m.agent == a && !m.charged) }

/-- CHASE_WAIT_END: the group of a command that waits at issue becomes ready (R197 step 2); TASKQ's wait is in Tasks. -/
def State.chaseAgain (s : State) (g : Group) (uid : Nat) : State :=
  match s.cmd? uid with
  | some m => if s.chaseFits m then s.wake g else s
  | none => s

/-! ### Bytes that no module serves (R391) -/

/-- Bytes that one addition counts without a chunk. -/
structure Fill where
  items : List (Item × Nat) -- the items it touches, as they are after it
  count : Nat
  nrf : Bool
  err : Bool
  locs : List Nat           -- folio offsets of its bytes
  deriving DecidableEq, Repr

/-- Nothing. -/
def Fill.none_ : Fill := { items := [], count := 0, nrf := false, err := false, locs := [] }

/-- Take up to `n` counted bytes from items to be filled. -/
def takeFill : Nat → List (Item × Nat) → Fill
  | _, [] => .none_
  | n, p :: ps =>
    let i := p.1
    if i.cnt ≤ n then
      let r := takeFill (n - i.cnt) ps
      { items := ({ i with done := true }, p.2) :: r.items, count := i.cnt + r.count, nrf := i.nrf || r.nrf, err := i.bad || r.err
        locs := i.loc ++ i.aux ++ r.locs }
    else if n = 0 ∨ i.form ≠ .plain then .none_
    else { items := [({ i with loc := i.loc.drop n, cnt := i.cnt - n, box := (i.box.1, i.box.2 + n) }, p.2)], count := n, nrf := i.nrf
           err := false, locs := i.loc.take n }

/-- An item comes before another in the order of the box. -/
def Item.before (i j : Item) : Bool := decide (i.box.1 < j.box.1) || (i.box.1 == j.box.1 && decide (i.box.2 ≤ j.box.2))

/-- Put an item into a list in the order of the box. -/
def insertItem (p : Item × Nat) : List (Item × Nat) → List (Item × Nat)
  | [] => [p]
  | q :: qs => if p.1.before q.1 then p :: q :: qs else q :: insertItem p qs

/-- The items of a command to be filled now, in the order of the box. A record or a tile waits for the chunks of it that are on their
way, since one of them may be in error (R71). -/
def State.toFill (s : State) (m : Cmd) : List (Item × Nat) :=
  ((m.numbered.filter fun p => p.1.fill && !p.1.done
    && (p.1.form == .plain || !s.reqs.any fun r => r.cmd == m.uid && r.run != .finished && r.items.any (· == p.2))).foldr insertItem [])

/-- ZERO_FILL_ADDITION: up to 256 bytes, in box order. A store's bytes are not written. A PAGEREQ of no units ends here, and a command whose
data has waited for local writes to its destination goes on. -/
def execZeroFillAddition (uid : Nat) (s : State) : Out :=
  match s.cmd? uid with
  | none => .next s
  | some m =>
    if s.saving m.team then .next s
    else if m.kind = .pagereq ∧ m.charged then .next (if s.armed m then s.pagereqEnd uid else s)
    else if !m.charged || !s.armed m then .next s
    else if !m.resDone then .next (s.unitsDone uid)
    else
      let r := takeFill 256 (s.toFill m)
      let s := s.setCmd { m with items := m.numbered.map fun p => ((r.items.find? (·.2 == p.2)).map (·.1)).getD p.1 }
      let s := match m.kind with
        | .atom .. => s.zeroFolio m r.locs
        | k => if k.fetches then s.zeroFolio m r.locs else s
      .next (State.settleCmd (s.countRecvs m r.count (arrFlags r.nrf r.err)) uid)

/-! ### Chunks of a request (17 R352; their numbers are the model's, log 17) -/

/-- Whether a request reads a compressed page: its data comes in 512-byte blocks, each coded or not (03 R70). -/
def Req.blocks (r : Req) : Bool := r.cmp && (r.op == .read || r.op == .copy)

/-- How many blocks of 512 aligned bytes a request meets. -/
def Req.blockCount (r : Req) : Nat := (r.va + r.len - 1) / 512 - r.va / 512 + 1

/-- Far bytes of a request in its b-th block: first and one past the last. -/
def Req.blockWindow (r : Req) (b : Nat) : Nat × Nat :=
  (max r.va ((r.va / 512 + b) * 512), min (r.va + r.len) ((r.va / 512 + b + 1) * 512))

/-- Far bytes that chunk k of a request covers where none is coded: 256 bytes of its run. -/
def Req.window (r : Req) (k : Nat) : Nat × Nat := (r.va + 256 * k, min (r.va + r.len) (r.va + 256 * k + 256))

/-- Numbers of those chunks. -/
def Req.chunkNos (r : Req) : List Nat := List.range ((r.len + 255) / 256)

/-- Far bytes in runs of 256. -/
def runs256 (w : Nat × Nat) : List (Nat × Nat) :=
  (List.range ((w.2 - w.1 + 255) / 256)).map fun k => (w.1 + 256 * k, min w.2 (w.1 + 256 * k + 256))

/-- Blocks in which a module engine copies (16 R336): of 512 bytes from a compressed page, of 256 otherwise. -/
def Req.copyBlocks (r : Req) : List Nat := if r.blocks then List.range r.blockCount else r.chunkNos

/-- Far bytes of such a block. -/
def Req.copyWindow (r : Req) (k : Nat) : Nat × Nat := if r.blocks then r.blockWindow k else r.window k

/-- Nothing of an accepted request is outstanding. -/
def Req.over (r : Req) : Bool := r.left.isEmpty && r.owed.isEmpty

/-- A request that has nothing outstanding any more has ended. -/
def Req.settled (r : Req) : Req := if r.run = .accepted ∧ r.over then { r with run := .finished } else r

/-! ### Requests that end without an answer (R333, R335, R342) -/

/-- The part of a plain item inside a window: how far in it begins, and its length. -/
def Item.meet (i : Item) (w : Nat × Nat) : Option (Nat × Nat) :=
  match i.far with
  | none => none
  | some a =>
    let lo := max a w.1
    let hi := min (a + i.len) w.2
    if hi ≤ lo then none else some (lo - a, hi - lo)

/-- That part as an item to be filled. -/
def Item.cut (i : Item) (w : Nat × Nat) : List Item :=
  match i.meet w with
  | none => []
  | some x => [{ i with far := none, far2 := none, len := x.2, loc := if i.cnt = i.len then (i.loc.drop x.1).take x.2 else i.loc
                        cnt := if i.cnt = i.len then x.2 else i.cnt, fill := true, nrf := true, box := (i.box.1, i.box.2 + x.1) }]

/-- The part of a copy's item inside a window as a write of zeros to its destination, where that is served (R333). -/
def Cmd.zeroCut (m : Cmd) (i : Item) (w : Nat × Nat) : List Item :=
  match i.meet w, i.far2 with
  | some x, some b =>
    let d := farWrap (b + x.1)
    let j := { i with far := some d, far2 := none, len := x.2, cnt := x.2, nrf := true, box := (i.box.1, i.box.2 + x.1) }
    [if m.runServed true d x.2 then j else { j with far := none, fill := true }]
  | _, _ => []

/-- End a request under a reason: what is not delivered is filled or left unwritten and counted, a copy's bytes are written as
zero, the unit's residency bit is cleared and the word rewritten (R331), and a fault is posted. Of an accepted request the
answers on their way still come, unless they are lost. -/
def State.failReq (s : State) (r : Req) (reason level ep : Nat) (lost : Bool) : State :=
  match s.cmd? r.cmd with
  | none => s
  | some m =>
    let copy := r.op == .copy
    let acc := r.run == .accepted
    let whole := [(r.va, r.va + r.len)]
    let gone := if acc then (if lost then r.owed else []) else if copy then [] else whole
    let zeros := if !copy then [] else if acc then r.left.map r.copyWindow else whole
    let wr := r.op != .read && !copy
    let mine := (m.numbered.filter fun p => r.items.any (· == p.2)).map (·.1)
    let plain := mine.filter (·.form == .plain)
    let new := gone.flatMap (fun w => plain.flatMap fun i => i.cut w) ++ zeros.flatMap fun w => plain.flatMap fun i => m.zeroCut i w
    let items := m.numbered.map fun p =>
      if r.items.any (· == p.2) && p.1.form != .plain && !p.1.done then { p.1 with fill := true, nrf := true } else p.1
    let units := m.units.map fun u => if u.va / 65536 == r.va / 65536 && u.write == wr then { u with lost := true } else u
    let m := { m with items := items ++ new, units := units }
    let s := s.setCmd m
    let s := s.setReq (if acc && !lost then { r with left := [] }.settled else { r with run := .finished, left := [], owed := [] })
    let n0 := (s.reqs.filter fun (q : Req) => q.cmd == m.uid).length
    let s : State := { s with reqs := s.reqs ++ m.makeReqs r.part items.length n0 }
    let first := ((gone ++ zeros).head?.map (·.1)).getD r.va
    State.settleCmd (State.unitFault (s.writeRes m) m first reason level ep (if wr then 1 else 0)) m.uid

end Sys2Proof.Machine
end

