-- ==== Sys2Proof/Machine/Command.lean ====
section
/-! DEFINITION. Engine commands (08 R197 to R203): their checks in order, what each one moves, TWIN and THINT. -/

namespace Sys2Proof.Machine

/-! ### Shared steps -/

/-- The group and the team of an engine command; it does not issue before the group's acquires are performed (04 R101). One that has waited
for the chase table has its checks behind it (R197 step 1), and takes its number among what has issued now. -/
def engineOp (s : State) (d : SReg) (k : Cur → Group → Team → State) : Out :=
  withGroup s fun c g =>
    match s.team? g.team with
    | none => s
    | some t =>
      match s.heldCmd c.agent with
      | some m => State.takeUp { s.dropHeld c.agent with uid := s.uid + 1 } c d { m with uid := s.uid }
      | none => s.ordered c false 2 (k c g t)

/-- Two halves of a doubleword. -/
def halves (x : Nat) : List Nat := [x % 2 ^ 32, x / 2 ^ 32]

/-- The origin block at a register (R197); a block field of 0 is all zero. -/
def State.originAt (s : State) (g : Group) (r : Nat) : List Nat :=
  if r = 0 then [0, 0, 0, 0, 0]
  else halves (s.sreg g r).toNat ++ halves (s.sreg g (r + 1)).toNat ++ [(s.sreg g (r + 2)).toNat % 2 ^ 32]

/-- Trap at a faulting address of a command. -/
def State.cmdTrap (s : State) (c : Cur) (cause addr : Nat) : State := s.trapAt c c.pc cause 0 (.ofNat 64 addr) 1

/-- Folio base of a team on a core. -/
def Team.base (t : Team) (core : Nat) : Nat := ((t.seat? core).map (·.folio)).getD 0

/-- R66 for a command's items, once made: a word inside the command's span, or more than 64 pages, takes DESCRIPTOR. -/
def itemsOk (d : Desc) (sp : Option (Nat × Nat)) (us : List FUnit) : Bool :=
  !meets (16 * d.arrw) 16 sp && !meets (16 * d.resw) 8 sp && decide (us.length ≤ 64)

/-- Steps 1 to 3 of R66 but for the items: a cause, or none. -/
def Desc.check (d : Desc) (plane : Bool) (b folio o0 : Nat) : Option Nat :=
  if d.step1 plane then some cDESCRIPTOR
  else if d.step2 plane o0 then some cFORMAT
  else if d.step3 plane b folio then some cDESCRIPTOR
  else none

/-- The items of a box. -/
def Desc.items (d : Desc) (use : BoxUse) (b : Nat) (org : List Nat) (idx : Option (List Nat)) : List Item :=
  (d.boxRows org idx).flatMap (d.rowItems use b org)

/-- A tensor command read from its descriptor: the plane base, checked (R197 step 1). -/
def State.withPlane (s : State) (c : Cur) (g : Group) (a b : SReg) (k : Desc → Nat → State) : State :=
  s.readAtIssue c g apAll false ((s.sreg g a.toNat).toNat % 2 ^ 32) 64 fun x =>
    let base := (s.sreg g b.toNat).toNat
    if base % 768 ≠ 0 then s.cmdTrap c cALIGN base else k (descOf x) base

/-! ### TFETCH, TMCAST, TGATHER (R198) -/

/-- Admit a fetch of items into receivers' folios. -/
def State.fetchInto (s : State) (c : Cur) (g : Group) (t : Team) (kind : CmdKind) (d : SReg) (x : Desc) (base : Nat)
    (its : List Item) (cores : List (Nat × Nat)) : State :=
  let pads := x.padBytes base
  let sp := spanOf (itemLocs its ++ pads)
  let m := Cmd.of s.uid kind (.group g.core g.slot) g.core t (cores.map fun k => recvOf k.1 k.2 x.arrw (some x.resw))
  State.takeUp { s with uid := s.uid + 1 } c d { m with
    items := its, pads := pads, units := itemUnits kind its, bytes := itemCount its, esize := x.esize, efmt := x.efmt, desc := x.raw
    spans := cores.flatMap fun k => mkSpan k.1 k.2 true sp }

/-- TFETCH. -/
def execTfetch (d a b x : SReg) (s : State) : Out :=
  engineOp s d fun c g t => s.withPlane c g a b fun ds base =>
    let org := s.originAt g x.toNat
    match ds.check true base t.krec.folio (ds.orgN org 0) with
    | some n => s.trap c n
    | none =>
      let its := ds.items { plane := true, fetch := true } base org none
      if !itemsOk ds (spanOf (itemLocs its ++ ds.padBytes base)) (itemUnits .fetch its) then s.trap c cDESCRIPTOR
      else s.fetchInto c g t .fetch d ds base its [(g.core, t.base g.core)]

/-- The folio a multicast reaches on a core: its own, its partner's half, a peer's (R91). -/
def State.mcastFolio (s : State) (t : Team) (core : Nat) : Option (Nat × Nat) :=
  if (t.seat? core).isSome then some (core, t.base core)
  else (s.peer? t core).map fun u => (core, u.base core)

/-- TMCAST. -/
def execTmcast (mask : BitVec 4) (d a b x : SReg) (s : State) : Out :=
  engineOp s d fun c g t => s.withPlane c g a b fun ds base =>
    let org := s.originAt g x.toNat
    match ds.check true base t.krec.folio (ds.orgN org 0) with
    | some n => s.trap c n
    | none =>
      let its := ds.items { plane := true, fetch := true } base org none
      let ks := ((List.range 4).filter fun q => mask.getLsbD q).map fun q => 4 * clusterOf g.core + q
      let fs := ks.filterMap (s.mcastFolio t)
      if !itemsOk ds (spanOf (itemLocs its ++ ds.padBytes base)) (itemUnits .mcast its) then s.trap c cDESCRIPTOR
      else if fs.length < ks.length then s.cmdTrap c cABSENTPEER base
      else s.fetchInto c g t .mcast d ds base its fs

/-- First step of R181 that a read of `n` bytes at a multiple of 4 fails, 0 for none. Aperture 0x8 lets a load of 4 bytes pass, or
of 16 at a multiple of 16 (03 R75). -/
def State.listStep (s : State) (g : Group) (a n : Nat) : Nat :=
  match s.aperture g a with
  | .none => 1
  | .absent => 2
  | .region r =>
    if a % 4 ≠ 0 ∨ (a / 2 ^ 28 % 16 = 8 ∧ n ≠ 4 ∧ ¬(n = 16 ∧ a % 16 = 0)) then 3
    else if r.size < a % 2 ^ 28 + n then 4
    else if s.early false r.core (r.base + a % 2 ^ 28) n then 5
    else 0

/-- Read a list of 32-bit words at issue (R198). -/
def State.readList (s : State) (c : Cur) (g : Group) (a n : Nat) (k : List Nat → State) : State :=
  if s.listStep g a (4 * n) ≠ 0 then s.cmdTrap c (stepCause (s.listStep g a (4 * n))) a
  else
    let key := (s.locate g a).1
    if s.ownPending c.agent key (4 * n) then s.waitAgain c (.ownWrites key (4 * n))
    else if !(s.opsOver c.agent key (4 * n)).isEmpty then s.retryAt c 0
    else s.sound c [(key, 4 * n)] (k ((List.range n).map fun i => s.le (key + 4 * i) 4))

/-- TGATHER: the span does not depend on the indices, the pages do. -/
def execTgather (d a b x : SReg) (s : State) : Out :=
  engineOp s d fun c g t => s.withPlane c g a b fun ds base =>
    let y := (s.sreg g x.toNat).toNat
    let org := [y / 2 ^ 32, 0, 0, 0, 0]
    match ds.check true base t.krec.folio (ds.orgN org 0) with
    | some n => s.trap c n
    | none =>
      let its0 := ds.items { plane := true, fetch := true } base org (some [])
      if !itemsOk ds (spanOf (itemLocs its0 ++ ds.padBytes base)) [] then s.trap c cDESCRIPTOR
      else if ds.ndim ≠ 2 ∨ ds.rowmode ∨ ds.store ≠ 0 then s.trap c cDESCRIPTOR
      else
        s.readList c g (y % 2 ^ 32) (ds.boxN 1) fun idx =>
          let its := ds.items { plane := true, fetch := true } base org (some idx)
          if 64 < (itemUnits .gather its).length then s.trap c cDESCRIPTOR
          else s.fetchInto c g t .gather d ds base its [(g.core, t.base g.core)]

/-! ### TSTORE, TREDUCE (R198) -/

/-- Operations and own local writes that the reads of source bytes wait for (04 R98). -/
def State.sourceHolds (s : State) (a : Agent) (core folio : Nat) (os : List Nat) : List Nat :=
  let keys := os.map fun o => storeKey core (folio + o)
  dedup (keys.flatMap fun k => s.opsOver a k 1 ++ ((s.localsOf a).filter fun l => l.op.writes && decide (l.addr ≤ k) && decide (k < l.addr + l.size)).map (·.uid))

/-- Admit a command that sends source bytes: a source entry and a destination entry over the residency word. -/
def State.storeFrom (s : State) (c : Cur) (g : Group) (t : Team) (kind : CmdKind) (d : SReg) (x : Desc) (its : List Item) : State :=
  let f := t.base g.core
  let m := Cmd.of s.uid kind (.group g.core g.slot) g.core t [recvOf g.core f x.arrw (some x.resw)]
  State.takeUp { s with uid := s.uid + 1 } c d { m with
    items := its, units := itemUnits kind its, bytes := itemCount its, esize := x.esize, efmt := x.efmt, desc := x.raw
    held := s.sourceHolds c.agent g.core f (itemLocs its)
    spans := mkSpan g.core f false (spanOf (itemLocs its)) ++ mkSpan g.core f true (some (16 * x.resw, 16 * x.resw + 8)) }

/-- TSTORE and TREDUCE: `own` is the command's own check, after R66. -/
def storeOp (s : State) (kind : CmdKind) (own : Desc → Bool) (d a b x : SReg) : Out :=
  engineOp s d fun c g t => s.withPlane c g a b fun ds base =>
    let org := s.originAt g x.toNat
    match ds.check true base t.krec.folio (ds.orgN org 0) with
    | some n => s.trap c n
    | none =>
      let its := ds.items { plane := true, fetch := false } base org none
      if !itemsOk ds (spanOf (itemLocs its)) (itemUnits kind its) then s.trap c cDESCRIPTOR
      else if !own ds then s.trap c cFORMAT
      else s.storeFrom c g t kind d ds its

/-- TSTORE. -/
def execTstore (d a b x : SReg) (s : State) : Out := storeOp s .store (fun ds => ds.store != 2) d a b x

/-- TREDUCE. -/
def execTreduce (op : FarRed) (d a b x : SReg) (s : State) : Out :=
  storeOp s (.reduce op) (fun ds => ds.store == 0 && [0, 1, 2, 8, 9, 10].any (· == ds.efmt)) d a b x

/-! ### TFILL, TCOPY, PAGEREQ (R198, R201) -/

/-- Admit a command whose only local bytes are its words. -/
def State.farOnly (s : State) (c : Cur) (g : Group) (t : Team) (m : Cmd) (d : SReg) (x : Desc) : State :=
  State.takeUp { s with uid := s.uid + 1 } c d { m with
    spans := mkSpan g.core (t.base g.core) true (some (16 * x.resw, 16 * x.resw + 8)), esize := x.esize, efmt := x.efmt, desc := x.raw }

/-- TFILL. -/
def execTfill (d a b x : SReg) (s : State) : Out :=
  engineOp s d fun c g t => s.readAtIssue c g apAll false ((s.sreg g a.toNat).toNat % 2 ^ 32) 64 fun y =>
    let ds := descOf y
    let org := s.originAt g x.toNat
    match ds.check false 0 t.krec.folio (ds.orgN org 0) with
    | some n => s.trap c n
    | none =>
      let its := ds.items { plane := false, fetch := false } 0 org none
      if 64 < (itemUnits .fill its).length then s.trap c cDESCRIPTOR
      else if ds.store ≠ 0 then s.trap c cFORMAT
      else
        let m := Cmd.of s.uid .fill c.agent g.core t [recvOf g.core (t.base g.core) ds.arrw (some ds.resw)]
        s.farOnly c g t { m with items := its, units := itemUnits .fill its, bytes := itemCount its, operand := s.sreg g b.toNat } d ds

/-- Runs that lie within 4 KiB on both sides of a copy. -/
def cutBoth (src dst n : Nat) : List (Nat × Nat) :=
  (cutRun src (n / 4096 + 2) n).flatMap fun p => (cutRun (dst + p.1) (p.2 / 4096 + 2) p.2).map fun q => (p.1 + q.1, q.2)

/-- Items of one box row of a copy. Source elements that fall outside the destination tensor are neither read nor written, and the model gives
a source page that only they touch no place in the residency word and none in the page count: R198 does not say (DESIGN CHOICE, log 35). -/
def copyRow (x y : Desc) (ox oy : List Nat) (r q : BoxRow) : List Item :=
  let u := x.unitBytes
  let inn := min (x.unitsIn ox r) (y.unitsIn oy q)
  let ind := y.unitsIn oy q
  let src := r.far + x.orgN ox 0 / x.unitElems * u
  let dst := q.far + y.orgN oy 0 / y.unitElems * u
  let n := x.boxN 0 / x.unitElems
  (cutBoth src dst (inn * u)).map (fun p =>
      { itemAt (src + p.1) p.2 .plain [] [] p.2 with far2 := some (farWrap (dst + p.1)) })
    ++ (cutRun (dst + inn * u) ((ind - inn) * u / 4096 + 2) ((ind - inn) * u)).map (fun p =>
      itemAt (dst + inn * u + p.1) p.2 .plain [] [] p.2)
    ++ (if ind < n then [itemOut [] [] ((n - ind) * u)] else [])

/-- TCOPY. -/
def execTcopy (d a b x : SReg) (s : State) : Out :=
  engineOp s d fun c g t => s.readAtIssue c g apAll false ((s.sreg g a.toNat).toNat % 2 ^ 32) 64 fun y1 =>
    s.readAtIssue c g apAll false ((s.sreg g b.toNat).toNat % 2 ^ 32) 64 fun y2 =>
      let ds := descOf y1
      let dd := descOf y2
      let ox := s.originAt g x.toNat
      let oy := s.originAt g (if x.toNat = 0 then 0 else x.toNat + 3)
      if ds.step1 false then s.trap c cDESCRIPTOR
      else if ds.step2 false (ds.orgN ox 0) then s.trap c cFORMAT
      else if dd.step1 false then s.trap c cDESCRIPTOR
      else if dd.step2 false (dd.orgN oy 0) then s.trap c cFORMAT
      else if dd.efmt ≠ ds.efmt ∨ dd.store ≠ ds.store ∨ (List.range 5).any (fun i => dd.boxN i != ds.boxN i) then s.trap c cDESCRIPTOR
      else if ds.step3 false 0 t.krec.folio then s.trap c cDESCRIPTOR
      else
        let its := ((ds.boxRows ox none).zip (dd.boxRows oy none)).flatMap fun p => copyRow ds dd ox oy p.1 p.2
        if 64 < (itemUnits .copy its).length then s.trap c cDESCRIPTOR
        else
          let m := Cmd.of s.uid .copy c.agent g.core t [recvOf g.core (t.base g.core) ds.arrw (some ds.resw)]
          s.farOnly c g t { m with items := its, units := itemUnits .copy its, bytes := itemCount its } d ds

/-- Order of R181 for an address that must lie in aperture 0x0, at a multiple of `al`, within the folio. -/
def wordStep (folio a n al : Nat) : Nat :=
  if a / 2 ^ 28 ≠ 0 then 1 else if a % al ≠ 0 then 3 else if folio < a + n then 4 else 0

/-- PAGEREQ: its completion word is checked after the descriptor. -/
def execPagereq (d a b x : SReg) (s : State) : Out :=
  engineOp s d fun c g t => s.readAtIssue c g apAll false ((s.sreg g a.toNat).toNat % 2 ^ 32) 64 fun y =>
    let ds := descOf y
    let org := s.originAt g x.toNat
    let w := (s.sreg g b.toNat).toNat % 2 ^ 32
    match ds.check false 0 t.krec.folio (ds.orgN org 0) with
    | some n => s.trap c n
    | none =>
      let us := itemUnits .pagereq (ds.items { plane := false, fetch := false } 0 org none)
      if 64 < us.length then s.trap c cDESCRIPTOR
      else if wordStep t.krec.folio w 16 16 ≠ 0 then s.cmdTrap c (stepCause (wordStep t.krec.folio w 16 16)) w
      else
        let f := t.base g.core
        let m := Cmd.of s.uid .pagereq c.agent g.core t [{ core := g.core, folio := f, arr := f + w, resw := some (f + 16 * ds.resw) }]
        s.farOnly c g t { m with units := us } d ds

/-! ### TATOM, BULKLD, BULKST (R199, R200) -/

/-- TATOM. -/
def execTatom (op : AtOp) (ty : Ty) (d a b x : SReg) (s : State) : Out :=
  engineOp s d fun c g t =>
    let va := (s.sreg g a.toNat).toNat
    let w := if a = 0 then 0 else (s.sreg g (a.toNat + 1)).toNat
    let slot := w % 2 ^ 32
    let arr := w / 2 ^ 32
    let size := atomicSize ty
    let folio := t.krec.folio
    if slot / 2 ^ 28 ≠ 0 then s.cmdTrap c cLOCALRANGE slot
    else if arr / 2 ^ 28 ≠ 0 then s.cmdTrap c cLOCALRANGE arr
    else if va / 2 ^ 57 ≠ 0 ∨ va % size ≠ 0 then s.cmdTrap c cALIGN va
    else if slot % 8 ≠ 0 then s.cmdTrap c cALIGN slot
    else if arr % 16 ≠ 0 then s.cmdTrap c cALIGN arr
    else if folio < slot + 8 then s.cmdTrap c cLOCALRANGE slot
    else if folio < arr + 16 then s.cmdTrap c cLOCALRANGE arr
    else if meets slot 8 (some (arr, arr + 16)) then s.trap c cDESCRIPTOR
    else
      let f := t.base g.core
      let its := [{ itemAt va size .plain ((List.range 8).map (slot + ·)) [] 8 with far := some va }]
      let m := Cmd.of s.uid (.atom op ty) c.agent g.core t [{ core := g.core, folio := f, arr := f + arr, resw := none }]
      State.takeUp { s with uid := s.uid + 1 } c d { m with
        items := its, units := itemUnits (.atom op ty) its, bytes := 8, operand := s.sreg g b.toNat, compare := s.sreg g x.toNat
        esize := size, spans := mkSpan g.core f true (some (slot, slot + 8)) }

/-- Checks of R200 in order, then the command. -/
def bulkOp (s : State) (kind : CmdKind) (d a b x : SReg) : Out :=
  engineOp s d fun c g t =>
    let va := (s.sreg g a.toNat).toNat % 2 ^ 57
    let loc := (s.sreg g b.toNat).toNat % 2 ^ 32
    let n := (s.sreg g x.toNat).toNat % 2 ^ 32
    let arr := (s.sreg g x.toNat).toNat / 2 ^ 32
    let folio := t.krec.folio
    if loc / 2 ^ 28 ≠ 0 then s.cmdTrap c cLOCALRANGE loc
    else if arr / 2 ^ 28 ≠ 0 then s.cmdTrap c cLOCALRANGE arr
    else if va % 16 ≠ 0 then s.cmdTrap c cALIGN va
    else if loc % 16 ≠ 0 then s.cmdTrap c cALIGN loc
    else if n % 16 ≠ 0 then s.cmdTrap c cALIGN loc
    else if arr % 16 ≠ 0 then s.cmdTrap c cALIGN arr
    else if n = 0 ∨ 1048576 < n then s.trap c cDESCRIPTOR
    else if folio < loc + n then s.cmdTrap c cLOCALRANGE loc
    else if folio < arr + 16 then s.cmdTrap c cLOCALRANGE arr
    else if meets arr 16 (some (loc, loc + n)) then s.trap c cDESCRIPTOR
    else
      let f := t.base g.core
      let its := (cutRun va (n / 4096 + 2) n).map fun p => itemAt (va + p.1) p.2 .plain ((List.range p.2).map (loc + p.1 + ·)) [] p.2
      let m := Cmd.of s.uid kind c.agent g.core t [{ core := g.core, folio := f, arr := f + arr, resw := none }]
      State.takeUp { s with uid := s.uid + 1 } c d { m with
        items := its, units := itemUnits kind its, bytes := n
        held := if kind = .bulkst then s.sourceHolds c.agent g.core f ((List.range n).map (loc + ·)) else []
        spans := mkSpan g.core f (kind != .bulkst) (some (loc, loc + n)) }

/-- BULKLD. -/
def execBulkld (d a b x : SReg) (s : State) : Out := bulkOp s .bulkld d a b x

/-- BULKST. -/
def execBulkst (d a b x : SReg) (s : State) : Out := bulkOp s .bulkst d a b x

/-! ### TWIN, THINT (R202, R203) -/

/-- The layout of limits and counts, of bytes below 2^32. -/
def twinWord (bytes cmds : Nat) : Nat := bytes + 2 ^ 32 * cmds

/-- TWIN, query limits. -/
def execTwinLim (d : SReg) (s : State) : Out :=
  withGroup s fun c g =>
    match s.team? g.team with
    | some t => s.putS c d (twinWord t.limB t.limC)
    | none => s

/-- TWIN, query outstanding. A command that was admitted alone may have charged more bytes than the field holds: then the field is free
(log 3). -/
def execTwinOut (d : SReg) (s : State) : Out :=
  withGroup s fun c g =>
    let n := s.outstanding g.team
    if n.1 < 2 ^ 32 then s.putS c d (twinWord n.1 n.2)
    else
      let f := s.freeWord
      State.putS f.2 c d (twinWord (f.1.toNat % 2 ^ 32) n.2)

/-- A granted limit: the request cut to the ceiling, and no less than the floor. -/
def grantLimit (req ceil floor : Nat) : Nat := max floor (min req ceil)

/-- The allowance ceiling of a core's partition (18 R379). -/
def State.ceilings (s : State) (core : Nat) : Nat × Nat :=
  match s.part? (s.partOf core) with
  | some p => (p.ceilB, p.ceilC)
  | none => (maxCeilB, 65535)

/-- TWIN, set. -/
def execTwinSet (d a : SReg) (s : State) : Out :=
  withGroup s fun c g =>
    match s.team? g.team with
    | none => s
    | some t =>
      let x := (s.sreg g a.toNat).toNat
      let lb := grantLimit (fld x 0 32) (s.ceilings g.core).1 4096
      let lc := grantLimit (fld x 32 16) (s.ceilings g.core).2 1
      State.putS (s.setTeam { t with limB := lb, limC := lc }) c d (twinWord lb lc)

/-- Module runs of a hint: the parts that translation serves, each of at most 4,096 bytes, as a request is cut (03 R86, 18 R380). -/
def State.hintRuns (s : State) (p : Partition) (cluster va n : Nat) : List (Nat × Nat × Nat × Nat) :=
  if n = 0 then []
  else
    (unitsOf va n).flatMap fun u =>
      let lo := max va (u * 65536)
      let hi := min (va + n) ((u + 1) * 65536)
      match s.translate p cluster false (farWrap lo) with
      | .ended (.ok ep page ..) => (List.range 16).filterMap fun k =>
          let a := max lo (u * 65536 + 4096 * k)
          let b := min hi (u * 65536 + 4096 * k + 4096)
          if a < b then some (ep, page * 65536 + a % 65536, b - a, p.p) else none
      | _ => []

/-- THINT: nothing but a hint to the modules (04 R108). -/
def execThint (a b : SReg) (s : State) : Out :=
  withGroup s fun c g =>
    match s.part? (s.partOf g.core) with
    | none => s.finish c
    | some p =>
      let rs := s.hintRuns p (clusterOf g.core) ((s.sreg g a.toNat).toNat % 2 ^ 57) ((s.sreg g b.toNat).toNat % 2 ^ 32)
      State.finish { s with hints := s.hints ++ rs } c

end Sys2Proof.Machine
end

