-- ==== Sys2Proof/Machine/Kernel.lean ====
section
/-! DEFINITION. Kernel records (15 R316, R317), the free space of a core's store, and the placement of a team on a
core or a pair (01 R14 to R18, R27; 15 R321). -/

namespace Sys2Proof.Machine

/-! ### Kernel records -/

/-- Binding i of a record's bits. -/
def bindAt (x i : Nat) : Binding :=
  let b := x / 2 ^ (512 + 256 * i)
  { desc := fld b 0 57, plane := fld b 64 28, origins := (List.range 5).map fun j => fld b (96 + 32 * j) 32 }

/-- A kernel record's fields (R316). -/
def krecOf (addr x : Nat) : KRec :=
  { addr := addr, entry := fld x 0 57, kdata := fld x 64 57, safetab := fld x 128 57, nsafe := fld x 192 9
    width := 8 * 2 ^ fld x 201 2, paired := fld x 203 1 == 1, lig := fld x 204 1 == 1, nsucc := fld x 208 4
    groups := fld x 212 6, vregs := fld x 218 9, sregs := fld x 227 8, galley := fld x 235 6, folio := 768 * fld x 241 12
    binds := (List.range (fld x 205 3)).map (bindAt x)
    succs := (List.range (fld x 208 4)).map fun i => fld x (1536 + 64 * i) 57 }

/-- A team of the record sits on a pair (01 R14). -/
def KRec.onPair (k : KRec) : Bool := k.paired || decide (32 < k.groups)

/-- Groups on the leader and on the follower. -/
def KRec.shares (k : KRec) : List Nat := if k.onPair then [(k.groups + 1) / 2, k.groups / 2] else [k.groups]

/-- Store bytes of the largest per-core share. -/
def KRec.shareBytes (k : KRec) : Nat := maxL k.shares * (windowBytes k.vregs k.width + 1024) + k.folio

/-- Bytes of a core's store (01 R18). -/
def storeSize : Nat := 2359296

/-- Reserved bits of a record are zero: the header's, and those of the entries that are in use. -/
def krecReserved (x : Nat) : Bool :=
  fld x 253 259 == 0 && fld x 185 7 == 0 && fld x 121 7 == 0 && fld x 57 7 == 0
    && ((List.range (fld x 205 3)).all fun i => fld x (512 + 256 * i + 57) 7 == 0 && fld x (512 + 256 * i + 92) 4 == 0)
    && (List.range (fld x 208 4)).all fun i => fld x (1536 + 64 * i + 57) 7 == 0

/-- A record passes the checks of R316, the CSET one apart; the ligature engine needs its feature (18 R375). -/
def State.krecOk (s : State) (x : Nat) : Bool :=
  let k := krecOf 0 x
  krecReserved x && decide (k.galley ≤ 48) && decide (1 ≤ k.sregs) && decide (k.sregs ≤ 128) && decide (1 ≤ k.vregs)
    && decide (k.vregs ≤ 256) && decide (1 ≤ k.groups) && decide (k.groups ≤ 48) && decide (k.nsucc ≤ 8)
    && decide (k.binds.length ≤ 4) && decide (k.nsafe ≤ 256) && k.safetab % 64 == 0 && k.entry % 64 == 0
    && (k.binds.all fun b => b.desc % 64 == 0) && decide (maxL k.shares ≤ 32) && decide (k.shareBytes ≤ storeSize)
    && (!k.lig || s.feature 0)

/-- A binding whose bytes are all zero is empty (R317). -/
def Binding.isEmpty (b : Binding) : Bool := b.desc == 0 && b.plane == 0 && b.origins.all (· == 0)

/-! ### Space on a core -/

/-- Regions of a core that are taken: base and size. -/
def State.regions (s : State) (core : Nat) : List (Nat × Nat) :=
  ((s.groups.filter fun g => g.core == core && g.run != .exited).flatMap fun g =>
      [(g.win, windowBytes g.vregs g.width), (g.sblk, 1024)])
    ++ s.teams.flatMap fun t => (t.seats.filter fun x => x.core == core && t.krec.folio != 0).map fun x => (x.folio, t.krec.folio)

/-- The vector count a group waits to grow to. -/
def Group.growTo (g : Group) : Option Nat :=
  match g.run with
  | .waiting (.grow _ _ n _) => some n
  | _ => none

/-- Bytes above a window that a waiting GROW keeps from new regions (11 R257). -/
def State.guards (s : State) (core : Nat) : List (Nat × Nat) :=
  (s.groups.filter (·.core == core)).filterMap fun g => g.growTo.map fun n =>
    (g.win + windowBytes g.vregs g.width, windowBytes n g.width - windowBytes g.vregs g.width)

/-- `n` bytes at `lo` meet a region. -/
def clash (rs : List (Nat × Nat)) (lo n : Nat) : Bool := rs.any fun r => decide (lo < r.1 + r.2) && decide (r.1 < lo + n)

/-- The lowest offset at which `n` bytes are free. -/
def firstFit (rs : List (Nat × Nat)) (n align : Nat) : Option Nat :=
  match (0 :: rs.map fun r => roundUp (r.1 + r.2) align).filter fun c => decide (c + n ≤ storeSize) && !clash rs c n with
  | [] => none
  | c :: cs => some (cs.foldl min c)

/-- Take several regions one after the other. -/
def fitAll : List (Nat × Nat) → List (Nat × Nat) → Option (List Nat)
  | _, [] => some []
  | rs, x :: xs =>
    match firstFit rs x.1 x.2 with
    | none => none
    | some a => (fitAll ((a, x.1) :: rs) xs).map (a :: ·)

/-- Physical tiles of a core that no team has. -/
def State.freeTiles (s : State) (core : Nat) : List Nat :=
  (List.range 48).filter fun n => !s.teams.any fun t => t.seats.any fun x => x.core == core && x.tiles.any (· == n)

/-- Free group slots of a core. -/
def State.freeSlots (s : State) (core : Nat) : List Nat := (List.range 32).filter fun n => (s.group? core n).isNone

/-- The ligature engine of a core has no team. -/
def State.ligFree (s : State) (core : Nat) : Bool := !s.ligs.any fun e => e.core == core && e.team.isSome

/-! ### Bundles (R27) -/

/-- Groups of a kernel and width on a core that hold a bundle position. -/
def State.bundled (s : State) (core kaddr width : Nat) : List Group :=
  s.groups.filter fun g => g.core == core && g.run != .exited && g.width == width
    && (s.team? g.team).any fun t => t.krec.addr == kaddr

/-- The bundle and position a new group of a kernel joins: of its free positions the lowest, and a new bundle takes the lowest
number that the core has unused (log 34). -/
def State.joinBundle (s : State) (core kaddr width : Nat) : Nat × Nat :=
  let ms := s.bundled core kaddr width
  let spots := (List.range 32).flatMap fun b =>
    if ms.any (·.bundle == b) then
      ((List.range (64 / width)).filter fun p => !ms.any fun g => g.bundle == b && g.pos == p).map fun p => (b, p)
    else []
  match spots with
  | x :: _ => x
  | [] =>
    match (List.range 33).find? fun b => !s.groups.any fun g => g.core == core && g.run != .exited && g.bundle == b with
    | some b => (b, 0)
    | none => (32, 0)

/-! ### Placing a team (R321) -/

/-- A group as placement leaves it (07 R173, 02 R46). -/
def Group.new (core slot team index placed cycle : Nat) (k : KRec) (win sblk : Nat) (b : Nat × Nat) : Group :=
  { core := core, slot := slot, team := team, index := index, width := k.width, sregs := k.sregs, win := win, sblk := sblk
    vregs := k.vregs, pc := .ofNat 64 (k.entry + 4), masks := .replicate 16 0, rejoins := .replicate 8 .off, fstat := 0
    late := (0, 0), dsel := 0, run := .ready, lock := none, lockLost := false, uncorrM := [], uncorrL := [], bundle := b.1
    pos := b.2, placed := placed, lastIssue := none, readySince := 0, waitSince := 0, yielded := none, fresh := true, checkPc := false
    line := none, notBefore := cycle + 1, held := false }

/-- Add the groups of a share, each with its slot, scalar block and window. -/
def State.addGroups (s : State) (core team first : Nat) (k : KRec) : List (Nat × Nat × Nat) → State
  | [] => s
  | x :: xs =>
    let g := Group.new core x.1 team first team s.cycle k x.2.2 x.2.1 (s.joinBundle core k.addr k.width)
    State.addGroups { s with groups := s.groups ++ [g] } core team (first + 1) k xs

/-- Place a team's share of `n` groups, from group `first`, on a core. -/
def State.placeShare (s : State) (t : Team) (core n first : Nat) : Option State :=
  let k := t.krec
  let slots := s.freeSlots core
  let tiles := s.freeTiles core
  if slots.length < n ∨ tiles.length < k.galley ∨ (k.lig ∧ !s.ligFree core) then none
  else
    let sizes := (if k.folio = 0 then [] else [(k.folio, 768)]) ++ List.replicate n (1024, 256)
      ++ List.replicate n (windowBytes k.vregs k.width, 768)
    match fitAll (s.regions core ++ s.guards core) sizes with
    | none => none
    | some as =>
      let fs := if k.folio = 0 then 0 else 1
      let seat : Seat := { core := core, folio := if k.folio = 0 then 0 else as.getD 0 0, tiles := tiles.take k.galley }
      let s := { s with teams := if s.teams.any (·.uid == t.uid)
          then s.teams.map fun (u : Team) => if u.uid == t.uid then { u with seats := u.seats ++ [seat] } else u
          else s.teams ++ [{ t with seats := [seat] }] }
      let s := if k.lig then State.setLig s { s.lig core with core := core, team := some t.uid } else s
      let s := s.give core (as.zip (sizes.map (·.1))) seat.tiles
      some (s.addGroups core t.uid first k ((slots.take n).zip (((as.drop fs).take n).zip ((as.drop (fs + n)).take n))))

/-- A team of a launch before it has a seat. -/
def Team.fresh (uid : Nat) (l : Launch) (num : Nat) (cset : Option Nat) (limB limC : Nat) : Team :=
  { uid := uid, launch := l.uid, num := num, krec := l.krec, seats := [], cset := cset, formes := .replicate 16 0, limB := limB
    limC := limC, tqOut := 0, bound := 0, started := true, hand := none, notBefore := 0, exited := false }

/-- Place team `num` of a launch at a core, and its partner's for a pair. -/
def State.placeTeam (s : State) (l : Launch) (num : Nat) (cset : Option Nat) (core : Nat) : Option State :=
  match s.part? l.part with
  | none => none
  | some p =>
    let t := Team.fresh s.uid l num cset (min p.ceilB 262144) (min p.ceilC 64)
    let s := { s with uid := s.uid + 1 }
    let a := l.krec.shares.getD 0 0
    match s.placeShare t core a 0 with
    | none => none
    | some s =>
      let last := if l.krec.onPair then core + 1 else core
      let r := if l.krec.onPair then s.placeShare t (core + 1) (l.krec.groups - a) a else some s
      r.map fun s => { s with hws := s.hws.map fun (h : HwSlot) => if h.n == l.hw then { h with lastCore := some last } else h }

/-- The cores of a partition in increasing order. -/
def Partition.cores (p : Partition) : List Nat :=
  (List.range 8).flatMap fun d => if p.dies.any (· == d) then (List.range 48).map (48 * d + ·) else []

/-- Candidate cores, or leaders, in the order of R321. -/
def candidates (p : Partition) (pair : Bool) (last : Option Nat) : List Nat :=
  let cs := p.cores.filter fun k => !pair || k % 2 == 0
  match last with
  | none => cs
  | some n => cs.filter (fun k => decide (n < k)) ++ cs.filter fun k => decide (k ≤ n)

/-- The first of several states that is there. -/
def firstState {α : Type} (f : α → Option State) : List α → Option State
  | [] => none
  | x :: xs =>
    match f x with
    | some s => some s
    | none => firstState f xs

/-- Place teams of a set on the cores of one cluster, no two on one core. -/
def State.placeSet (s : State) (l : Launch) (set : Nat) (cs : List Nat) : List Nat → Option State
  | [] => some s
  | num :: nums => firstState (fun k => (s.placeTeam l num (some set) k).bind fun s =>
      s.placeSet l set (cs.filter (· != k)) nums) cs

/-- The teams placed next: one, or a whole set. -/
def Launch.batch (l : Launch) : List Nat :=
  let n := if l.cset = 0 then 1 else l.cset
  (List.range (min n (l.teams - l.next))).map (l.next + ·)

/-- Place the next team, or set, of a launch; none when no candidate has room. -/
def State.placeNext (s : State) (l : Launch) : Option State :=
  match s.part? l.part with
  | none => none
  | some p =>
    let cs := candidates p l.krec.onPair ((s.hw? l.hw).bind (·.lastCore))
    let r := if l.cset = 0 then firstState (s.placeTeam l l.next none) cs
      else firstState (fun c => s.placeSet l (l.next / l.cset) (cs.filter fun k => clusterOf k == c) l.batch) (dedup (cs.map clusterOf))
    r.map fun t => t.setLaunch { l with next := l.next + l.batch.length, held := none }

end Sys2Proof.Machine
end

