-- ==== Sys2Proof/Machine/Handoff.lean ====
section
/-! DEFINITION. HANDOFF (11 R246 to R256): arrival, checks, waits, the transfer to the successor, and its start; the
background scrubber (R254); EXIT (07 R176), after which a handoff may be checked. -/

namespace Sys2Proof.Machine

/-! ### Reading a record -/

/-- Read `n` far bytes that may cross units, `f` units at most. -/
def State.farReadN (s : State) (p : Partition) (cluster : Nat) : Nat → Nat → Nat → Except FarAns (List Byte)
  | 0, _, _ => .ok []
  | f + 1, va, n =>
    let k := min n (65536 - va % 65536)
    if n = 0 then .ok []
    else
      match s.farRead p cluster va k with
      | .error e => .error e
      | .ok bs =>
        match s.farReadN p cluster f (farWrap (va + k)) (n - k) with
        | .error e => .error e
        | .ok cs => .ok (bs ++ cs)

/-! ### Checks (R248, R249) -/

/-- The index and address a group has arrived with. -/
def Group.handed (g : Group) : Option (Nat × Nat) :=
  match g.run with
  | .waiting (.handoff _ i a true) => some (i, a)
  | _ => none

/-- The HANDOFF a group waits at. -/
def Group.handCur (g : Group) : Option Cur :=
  match g.run with
  | .waiting (.handoff c _ _ _) => some c
  | _ => none

/-- Groups of a team that have not exited, in %group order. -/
def State.live (s : State) (team : Nat) : List Group :=
  let gs := (s.members team).filter (·.run != .exited)
  (List.range 48).flatMap fun i => gs.filter (·.index == i)

/-- Every group of a team takes a cause at its HANDOFF, and nothing else changes. -/
def State.handTrap (s : State) (team cause : Nat) (x y : DWord) : State :=
  let s := match s.team? team with
    | some t => s.setTeam { t with hand := none }
    | none => s
  (s.live team).foldl (fun s g => match g.handCur with
    | some c => s.trapAt c c.pc cause 0 x y
    | none => s) s

/-- The indices of the predecessor groups that survive, in order of the successor's numbers (R250). -/
def survivors (old new : KRec) : List Nat :=
  let a := (old.groups + 1) / 2
  let b := (new.groups + 1) / 2
  (List.range new.groups).map fun g => if !old.onPair || decide (g < b) then g else a + g - b

/-- Fields of a handoff descriptor (R246). -/
structure HandDesc where
  reserved : Bool
  awcnt : Nat
  awlist : Nat
  range : Option (Nat × Nat)
  gmap : Nat
  smap : Nat
  vmap : Nat
  deriving DecidableEq, Repr

/-- The descriptor's bits. -/
def handDescOf (x : Nat) : HandDesc :=
  let len := fld x 450 18
  { reserved := fld x 491 21 != 0, awcnt := fld x 486 5, awlist := 16 * fld x 468 18
    range := if len = 0 then none else some (16 * fld x 432 18, 16 * (fld x 432 18 + len))
    gmap := fld x 384 48, smap := fld x 256 128 / 2 * 2, vmap := fld x 0 256 }

/-- Step 6: the shape rules. -/
def State.handShape (s : State) (t : Team) (k : KRec) (d : HandDesc) (ranges : List (Nat × Nat)) : Bool :=
  let p := t.krec
  let sv := survivors p k
  let counts := (s.live t.uid).filterMap fun g => if sv.any (· == g.index) then some g.vregs else none
  decide (k.width = p.width) && decide (k.groups ≤ p.groups) && (k.onPair == t.paired)
    && decide (d.vmap < 2 ^ (counts.foldl min k.vregs)) && decide (d.smap < 2 ^ (min k.sregs p.sregs))
    && decide (d.gmap < 2 ^ (min k.galley p.galley)) && ranges.all fun r => decide (r.2 ≤ min k.folio p.folio)

/-- What the checks end in: a cause with details, a page that moves, a page not served, or a handoff under way. -/
inductive HandAns | cause (n : Nat) (x y : DWord) | busy | fault (va reason level ep : Nat) | ok (h : Hand)
  deriving DecidableEq, Repr

/-- Steps 3 to 6, for the first group's index and address. -/
def State.handAns (s : State) (t : Team) (g : Group) (idx addr : Nat) : HandAns :=
  let step := s.addrStep g ap0 false true addr 64
  if step ≠ 0 then .cause (stepCause step) (.ofNat 64 addr) 1
  else
    let key := (s.locate g addr).1
    let d := handDescOf (s.le key 64)
    let words := (List.range d.awcnt).map fun i => d.awlist + 4 * i
    let lkey := fun a => (s.locate g a).1
    match s.badKey key 64 with
    | some k => .cause cUNCORR (.ofNat 64 (keyOff k / 16 * 16)) 0
    | none =>
      if d.reserved || decide (16 < d.awcnt) || (words.any fun a => s.addrStep g ap0 false true a 4 != 0) then .cause cDESCRIPTOR 0 0
      else match words.findSome? fun a => s.badKey (lkey a) 4 with
      | some k => .cause cUNCORR (.ofNat 64 (keyOff k / 16 * 16)) 0
      | none =>
      if words.any fun a => decide (2 ^ 18 ≤ s.le (lkey a) 4) then .cause cDESCRIPTOR 0 0
      else
        let ranges := d.range.toList ++ words.map fun a => (16 * s.le (lkey a) 4, 16 * s.le (lkey a) 4 + 16)
        let va := t.krec.succs.getD idx 0
        match s.part? (s.partOf g.core) with
        | none => .cause cDESCRIPTOR 0 0
        | some p =>
          if va = 0 then .cause cDESCRIPTOR 0 0
          else
            match s.farReadN p (clusterOf g.core) 2 va 256 with
            | .error .busy | .error (.key _) => .busy
            | .error (.bad r l e) => .fault va r l e
            | .ok bs =>
              if !s.krecOk (leNat bs) then .cause cDESCRIPTOR 0 0
              else
                let k := krecOf va (leNat bs)
                if !s.handShape t k d ranges then .cause cSHAPE 0 0
                else .ok { idx := idx, addr := addr, succ := k, vmap := d.vmap, smap := d.smap, gmap := d.gmap
                           ranges := ranges, since := s.cycle }

/-- Cycle h: every group that has not exited has arrived, and the checks run (R247, R248). -/
def State.handCheck (s : State) (team : Nat) : State :=
  match s.team? team with
  | none => s
  | some t =>
    let gs := s.live team
    if gs.isEmpty || t.hand.isSome || gs.any (·.handed.isNone) then s
    else
      match gs.head?, gs.head?.bind Group.handed with
      | some g, some x =>
        if gs.length < t.krec.groups ∨ gs.any (·.handed != some x) then s.handTrap team cSHAPE 0 0
        else
          match s.handAns t g x.1 x.2 with
          | .cause n a b => s.handTrap team n a b
          | .busy => s
          | .fault va r l e =>
            State.handTrap (s.postFault (s.partOf g.core) (s.faultOf team g.core va r l e 0)) team cDESCRIPTOR 0 0
          | .ok h => s.setTeam { t with hand := some h }
      | _, _ => s

/-- A group at HANDOFF arrives once its commits are complete and its local accesses, which the handoff's release
covers (04 R113), are performed. -/
def State.handArrive (s : State) (core slot : Nat) : State :=
  match s.group? core slot with
  | none => s
  | some g =>
    match g.run with
    | .waiting (.handoff c i a false) =>
      if (s.commitsOf (.group core slot)).isEmpty && (s.localsOf (.group core slot)).isEmpty then
        State.handCheck (s.setGroup { g with run := .waiting (.handoff c i a true) }) g.team
      else s
    | _ => s

/-- HANDOFF (R247). -/
def execHandoff (idx : BitVec 3) (a : SReg) (m : Byte) (s : State) : Out :=
  withGroup s fun c g =>
    if ((s.team? g.team).map (·.krec.nsucc)).getD 0 ≤ idx.toNat then s.trap c cILLOP
    else
      s.unlocked c <|
        let addr := baseOf s c.agent a (64 * m.toNat) % 2 ^ 32
        let s := { s with commits := s.commits.map fun (m : Commit) => if m.agent == c.agent then { m with left := 0 } else m }
        (s.wait c (.handoff c idx.toNat addr false)).handArrive g.core g.slot

/-- EXIT; a proof core has no group to end, and halts there (log 16). -/
def execExit (s : State) : Out :=
  withAgent s fun c =>
    s.unlocked c <|
      match c.agent with
      | .proof k => s.halt k
      | .group k n =>
        let team := (s.group? k n).map (·.team)
        (s.endGroup k n).handCheck (team.getD 0)

/-! ### Waits (R251, R252) -/

/-- Folio bytes [lo, hi) lie within the inherited bytes. -/
def inRanges (rs : List (Nat × Nat)) (lo hi : Nat) : Bool :=
  (List.range ((hi - lo + 15) / 16)).all fun i =>
    let a := lo + 16 * i
    let b := min hi (a + 16)
    rs.any fun r => (decide (r.1 ≤ a) && decide (b ≤ r.2))
      || (decide (r.1 ≤ a) && decide (a < r.2) && rs.any fun q => decide (q.1 ≤ r.2) && decide (b ≤ q.2))

/-- The words a chase entry's command writes in a core: first byte and length. -/
def State.entryWords (s : State) (tag core : Nat) : List (Nat × Nat) :=
  (((s.cmd? tag).map (·.recvs)).getD []).flatMap (fun r =>
      if r.core = core then (r.arr, 16) :: (r.resw.map fun w => (w, 8)).toList else [])
    ++ (s.treqs.filter (·.uid == tag)).map fun r => (r.word, 16)

/-- A chase entry of a team carries over to its successor. -/
def State.carried (s : State) (t : Team) (h : Hand) (e : Chase) : Bool :=
  match t.seat? e.span.core with
  | none => false
  | some x =>
    inRanges h.ranges (e.span.lo - x.folio) (e.span.hi - x.folio)
      && (s.entryWords e.tag e.span.core).all fun w => inRanges h.ranges (w.1 - x.folio) (w.1 - x.folio + w.2)

/-- Some chase entry holds the HANDOFF. -/
def State.handHeld (s : State) (t : Team) (h : Hand) : Bool :=
  s.chases.any fun e => e.team == t.uid && !s.carried t h e

/-- Regions of a core with a team's shrunk to what its successor keeps. -/
def State.keptRegions (s : State) (t : Team) (h : Hand) (core : Nat) : List (Nat × Nat) :=
  let sv := survivors t.krec h.succ
  ((s.groups.filter fun g => g.core == core && g.run != .exited).flatMap fun g =>
      if g.team = t.uid then
        (if sv.any (· == g.index) then [(g.win, min (windowBytes g.vregs g.width) (windowBytes h.succ.vregs g.width)), (g.sblk, 1024)] else [])
      else [(g.win, windowBytes g.vregs g.width), (g.sblk, 1024)])
    ++ (s.teams.flatMap fun u => (u.seats.filter fun x => x.core == core).map fun x =>
        (x.folio, if u.uid = t.uid then min u.krec.folio h.succ.folio else u.krec.folio)).filter (·.2 != 0)

/-- What the successor takes beyond that, windows first. -/
def State.handGrows (s : State) (t : Team) (h : Hand) (core : Nat) : List (Nat × Nat) :=
  let sv := survivors t.krec h.succ
  ((s.live t.uid).filter fun g => g.core == core && sv.any (· == g.index)).filterMap (fun g =>
      let a := windowBytes g.vregs g.width
      let b := windowBytes h.succ.vregs g.width
      if a < b then some (g.win + a, b - a) else none)
    ++ (t.seats.filter fun x => x.core == core && t.krec.folio != 0 && decide (t.krec.folio < h.succ.folio)).map fun x =>
      (x.folio + t.krec.folio, h.succ.folio - t.krec.folio)

/-- Regions fit among others and with one another. -/
def allFit : List (Nat × Nat) → List (Nat × Nat) → Bool
  | _, [] => true
  | rs, x :: xs => decide (x.1 + x.2 ≤ storeSize) && !clash rs x.1 x.2 && allFit (x :: rs) xs

/-- Where a new folio on a core goes, taken as placement takes it; the old place where there is one. -/
def State.newFolio (s : State) (t : Team) (h : Hand) (x : Seat) : Option Nat :=
  if t.krec.folio ≠ 0 ∨ h.succ.folio = 0 then some x.folio
  else firstFit (s.keptRegions t h x.core ++ s.handGrows t h x.core ++ s.guards x.core) h.succ.folio 768

/-- Every core of the team has what the successor needs; an engine it did not have must be free too (log 19). -/
def State.handFits (s : State) (t : Team) (h : Hand) : Bool :=
  t.seats.all fun x =>
    allFit (s.keptRegions t h x.core) (s.handGrows t h x.core) && (s.newFolio t h x).isSome
      && decide (h.succ.galley ≤ t.krec.galley + (s.freeTiles x.core).length)
      && (!h.succ.lig || t.krec.lig || s.ligFree x.core || s.ligs.any fun e => e.core == x.core && e.team == some t.uid)

/-! ### The transfer (R253 to R255) -/

/-- Runs of [0, n) outside ranges of whole granules. -/
def outside (rs : List (Nat × Nat)) (n : Nat) : List (Nat × Nat) :=
  let cuts := dedup ((0 :: n :: rs.flatMap fun r => [r.1, r.2]).filter fun c => decide (c ≤ n))
  cuts.filterMap fun a =>
    let b := (cuts.filter fun c => decide (a < c)).foldl min n
    if a < b ∧ !rs.any (fun r => decide (r.1 ≤ a) && decide (a < r.2)) then some (a, b - a) else none

/-- Intersections of two lists of runs of keys. -/
def meetRuns (xs ys : List (Nat × Nat)) : List (Nat × Nat) :=
  xs.flatMap fun x => ys.filterMap fun y => if max x.1 y.1 < min x.2 y.2 then some (max x.1 y.1, min x.2 y.2) else none

/-- The gate of a predecessor's operation. -/
def gateOf (old : Option (List (Nat × Nat))) (rs : List (Nat × Nat)) : Option (List (Nat × Nat)) :=
  match old with
  | none => some rs
  | some os => some (meetRuns os rs)

/-- Keys a seat's inherited state occupies. -/
def inheritedKeys (x : Seat) (h : Hand) : List (Nat × Nat) :=
  ((x.tiles.zip (List.range x.tiles.length)).filter fun p => fld h.gmap p.2 1 == 1).map (fun p => (tileKey x.core p.1, tileKey x.core p.1 + 4096))
    ++ h.ranges.map fun r => (storeKey x.core (x.folio + r.1), storeKey x.core (x.folio + r.2))

/-- A surviving group as a group of the successor; its register bytes are scrubbed apart. -/
def Group.succeed (g : Group) (k : KRec) (i cycle : Nat) (b : Nat × Nat) : Group :=
  { Group.new g.core g.slot g.team i g.placed cycle k g.win g.sblk b with width := g.width }

/-- Zero what a surviving group does not inherit. -/
def State.scrubGroup (s : State) (g : Group) (h : Hand) : State :=
  let s := ((List.range h.succ.vregs).filter fun n => fld h.vmap n 1 == 0).foldl (fun s n => s.zero (g.vkey n 0) (4 * g.width)) s
  ((List.range 128).filter fun n => n != 0 && fld h.smap n 1 == 0).foldl (fun s n => s.write (cellsLE (g.skey n) 8 0)) s

/-- Granules tagged for the count of R253 on a core. -/
def handGranules (h : Hand) (width groups : Nat) : Nat :=
  sumL ((outside h.ranges h.succ.folio).map (·.2)) / 16
    + groups * (h.succ.vregs - popCount 256 (h.vmap % 2 ^ h.succ.vregs)) * (width / 4)

/-- A seat's folio and tiles change hands. -/
def State.handSeat (s : State) (t : Team) (h : Hand) (x : Seat) (folio : Nat) : State × Seat :=
  let s := s.freeRegion x.core (x.folio + h.succ.folio) (t.krec.folio - h.succ.folio)
  let s := (outside h.ranges h.succ.folio).foldl (fun s r => s.zero (storeKey x.core (folio + r.1)) r.2) s
  let kept := x.tiles.take h.succ.galley
  let s := (x.tiles.drop h.succ.galley).foldl (fun s n => s.freeTile x.core n) s
  let s := ((kept.zip (List.range kept.length)).filter fun p => fld h.gmap p.2 1 == 0).foldl (fun s p => s.freeTile x.core p.1) s
  let more := (s.freeTiles x.core).take (h.succ.galley - kept.length)
  (s.give x.core [] more, { x with folio := if h.succ.folio = 0 then 0 else folio, tiles := kept ++ more })

/-- The ligature engine of a core changes hands (10 R242). Of a team whose successor does not declare .ligature it is freed at once where no
operation is outstanding, and otherwise with the last of the predecessor's operations: the spec does not say (DESIGN CHOICE, log 35). -/
def State.handLig (s : State) (t : Team) (h : Hand) (core : Nat) : State :=
  let mine := s.ligs.any fun e => e.core == core && e.team == some t.uid
  if mine then
    if s.ligOps.any fun o => o.core == core then
      let e := s.lig core
      s.setLig { e with bound := none, mark := 0, fault := none, faultBy := none, stale := true }
    else if h.succ.lig then s.clearLig core
    else
      let s := s.clearLig core
      { s with ligs := s.ligs.filter (·.core != core) }
  else if h.succ.lig then s.setLig { s.lig core with core := core, team := some t.uid }
  else s

/-- Cycle h2: the team becomes the successor's, as one step. -/
def State.handTransfer (s : State) (t : Team) (h : Hand) : State :=
  let sv := survivors t.krec h.succ
  let gs := s.live t.uid
  let keep := sv.filterMap fun i => gs.find? (·.index == i)
  let places := t.seats.map fun x => ((s.newFolio t h x).getD x.folio)
  let gates := t.seats.flatMap fun x => inheritedKeys x h
  let s := keep.foldl (fun s g => s.orphans g) s
  let s := (gs.filter fun g => !sv.any (· == g.index)).foldl (fun s g => s.endGroup g.core g.slot) s
  let s := keep.foldl (fun s g =>
    let a := windowBytes g.vregs g.width
    let b := windowBytes h.succ.vregs g.width
    s.freeRegion g.core (g.win + b) (a - b)) s
  let r := (t.seats.zip places).foldl (fun (r : State × List Seat) p =>
    let q := r.1.handSeat t h p.1 p.2
    (q.1, r.2 ++ [q.2])) (s, [])
  let s := t.seats.foldl (fun s x => s.handLig t h x.core) r.1
  let s := keep.foldl (fun s g => s.scrubGroup g h) s
  let s := { s with
    mats := s.mats.map fun (m : MatOp) => if m.team == t.uid then { m with gate := gateOf m.gate gates } else m
    ligOps := s.ligOps.map fun (m : LigOp) => if m.team == t.uid then { m with gate := gateOf m.gate gates } else m
    groups := s.groups.filter fun g => !keep.any fun k => k.core == g.core && k.slot == g.slot }
  let most := maxL (t.seats.map fun x => handGranules h t.krec.width ((keep.filter (·.core == x.core)).length))
  let s := s.setTeam { t with
    krec := h.succ, seats := r.2, formes := .replicate 16 0, bound := h.succ.binds.length, started := false, hand := none
    notBefore := s.cycle + 24 + (most + 767) / 768 }
  ((List.range keep.length).zip keep).foldl (fun s p =>
    { s with groups := s.groups ++ [p.2.succeed h.succ p.1 s.cycle (s.joinBundle p.2.core h.succ.addr p.2.width)] }) s

/-- HANDOFF_TRANSFER: the waits are over; while a record's page moves, the checks are tried again. -/
def execHandoffTransfer (team : Nat) (s : State) : Out :=
  match s.team? team with
  | none => .next s
  | some t =>
    match t.hand with
    | none => .next (s.handCheck team)
    | some h => .next (if s.handHeld t h || !s.handFits t h then s else s.handTransfer t h)

/-- SUCCESSOR_START: the successor's groups may issue (R253). -/
def execSuccessorStart (team : Nat) (s : State) : Out :=
  match s.team? team with
  | none => .next s
  | some t =>
    if t.started || decide (s.cycle < t.notBefore) then .next s
    else
      .next <| State.setTeam { s with groups := s.groups.map fun (g : Group) =>
        if g.team == team then { g with readySince := s.issueCount g.core, notBefore := s.cycle } else g } { t with started := true }

/-- SCRUB_WRITE: a tagged granule already reads as zero; its tag is cleared (R254). -/
def execScrubWrite (core granule : Nat) (s : State) : Out :=
  .next { s with scrub := untag s.scrub (storeKey core 0 / 16 + granule) }

end Sys2Proof.Machine
end

