-- ==== Sys2Proof/Machine/Mailbox.lean ====
section
/-! DEFINITION. The mailbox engine (04 R112, 18 R373): windows, the pieces of a host access, and the order in which host accesses are
applied; and the writes of packet processors that a moving page holds up (16 R335). -/

namespace Sys2Proof.Machine

/-! ### Windows (R373) -/

/-- Bytes of the staging store. -/
def stagingBytes : Nat := 2 ^ 25

/-- Where a window's byte lies. -/
inductive WinAns
  /-- The window is disabled, or nothing answers in this boot state. -/
  | none_
  /-- The boot staging store. -/
  | staging (off : Nat)
  /-- A far address of a partition. -/
  | far (p : Partition) (va : Nat)
  deriving DecidableEq, Repr

/-- Window `n` at an offset: window 0 maps the staging store until the package is ready (R376; log 8). -/
def State.window (s : State) (n off : Nat) : WinAns :=
  let w := (s.boot.mbwin.toList.getD n 0).toNat
  if fld w 63 1 = 0 ∨ 2 ^ 28 ≤ off then .none_
  else if s.boot.st = 5 then
    match s.part? (fld w 59 3) with
    | some p => .far p (farWrap (fld w 28 29 * 2 ^ 28 + off))
    | none => .none_
  else if n = 0 ∧ s.boot.st ≠ 7 ∧ off < stagingBytes then .staging off
  else .none_

/-- The fault of a mailbox access. -/
def State.hostFault (s : State) (part va reason level ep access : Nat) : State :=
  s.postFault part { seq := 0, addr := va, team := 0, hw := 0, cluster := 127, core := 0, ep := ep, level := level, reason := reason, access := access }

/-- The mailbox engine keeps no cached leaf: a cluster number that no cluster has. -/
def hostCluster : Nat := 254

/-- Pieces of an access: naturally aligned accesses of 8 bytes or less are one piece, others are bytes (R373). -/
def pieces (off size : Nat) : List (Nat × Nat) :=
  if (size = 1 ∨ size = 2 ∨ size = 4 ∨ size = 8) ∧ off % size = 0 then [(off, size)] else (List.range size).map fun i => (off + i, 1)

/-- Whether a piece meets a page that moves: the module refuses it, and it is made again later. -/
def State.windowBusy (s : State) (n : Nat) (write : Bool) (o : Nat) : Bool :=
  match s.window n o with
  | .far p va => s.farKey p hostCluster write va == .busy
  | _ => false

/-- Read a piece: a read that fails returns zero. -/
def State.windowRead (s : State) (n o k : Nat) : State × List Byte :=
  match s.window n o with
  | .none_ => (s, List.replicate k 0)
  | .staging x => (s, s.bytes (stagingKey x) k)
  | .far p va =>
    match s.farKey p hostCluster false va with
    | .key a => (s, s.bytes a k)
    | .bad r l e => (s.hostFault p.p va r l e 0, List.replicate k 0)
    | .busy => (s, List.replicate k 0)

/-- Write a piece: a write that fails is discarded. -/
def State.windowWrite (s : State) (n o : Nat) (bs : List Byte) : State :=
  match s.window n o with
  | .none_ => s
  | .staging x => s.write (cellsAt (stagingKey x) bs)
  | .far p va =>
    match s.farKey p hostCluster true va with
    | .key a => s.write (cellsAt a bs)
    | .bad r l e => s.hostFault p.p va r l e 1
    | .busy => s

/-- Read through a window, piece by piece: what was read stands in `lastRead`. -/
def State.hostRead (s : State) (win off size : Nat) : State :=
  let r := (pieces off size).foldl (fun (a : State × List Byte) p => let x := a.1.windowRead win p.1 p.2; (x.1, a.2 ++ x.2)) (s, [])
  { r.1 with boot := { r.1.boot with lastRead := r.2 } }

/-- Write through a window, piece by piece. -/
def State.hostWrite (s : State) (win off : Nat) (bs : List Byte) : State :=
  (pieces off bs.length).foldl (fun s p => s.windowWrite win p.1 ((bs.drop (p.1 - off)).take p.2)) s

/-! ### Writes of packet processors -/

/-- Address of a queue's descriptor (15 R309). -/
def Partition.qaddr (p : Partition) (q : Nat) : Nat := farWrap (p.qtbase.toNat + 64 * q)

/-- Post a fault of a packet processor; the record's cluster and core are not stated, and are free (log 3). -/
def State.ppFault (s : State) (part hw va reason level ep access : Nat) : State :=
  let f := s.freeWord
  State.postFault f.2 part
    { seq := 0, addr := va, team := 0, hw := hw, cluster := f.1.toNat % 128, core := f.1.toNat / 128 % 4, ep := ep, level := level
      reason := reason, access := access }

/-- Slot to which a queue is mapped. -/
def State.slotOf (s : State) (part q : Nat) : Option HwSlot :=
  s.hws.find? fun h => h.part == part && h.queue.any (·.q == q)

/-- Contexts of a queue that are saved. -/
def State.savedOf (s : State) (part q : Nat) : List Saved := s.saved.filter fun x => x.part == part && x.queue == q

/-- A queue with an error stops, and its interrupt is raised (15 R315). -/
def State.stopQueue (s : State) (part q : Nat) : State :=
  let s := { s with
    hws := s.hws.map fun (h : HwSlot) =>
      if h.part == part && h.queue.any (fun (m : Mapped) => m.q == q) then { h with queue := h.queue.map fun (m : Mapped) => { m with stopped := true } } else h
    pendq := s.pendq.filter fun x => !(x.part == part && x.q == q && x.packets.isEmpty && (s.savedOf part q).isEmpty) }
  s.msix (10 + part)

/-- The queue whose WIDX or RIDX lies at a far address (15 R309). -/
def Partition.indexAt (p : Partition) (va : Nat) : Option Nat :=
  let d := farWrap (va + 2 ^ 57 - farWrap p.qtbase.toNat)
  if d / 64 < p.qtcount ∧ (d % 64 = 12 ∨ d % 64 = 16) then some (d / 64) else none

/-- A packet processor's write to a page that translation does not serve is discarded, and a fault is posted (16 R338). One of WIDX or RIDX
gives its queue ERR 0x05 (R333): the queue stops; the code itself lies on the page that is not served. -/
def State.ppLost (s : State) (p : Partition) (hw va reason level ep : Nat) : State :=
  let s := s.ppFault p.p hw va reason level ep 1
  match p.indexAt va with
  | some q => s.stopQueue p.p q
  | none => s

/-- A write of a partition's packet processor to a range of far bytes still waits for a page that moves. -/
def State.ppOwes (s : State) (part va n : Nat) : Bool :=
  s.ppw.any fun w => w.part == part && decide (w.va < va + n) && decide (va < w.va + w.bytes.length)

/-- Bytes it writes, within one unit: while the page moves they wait (16 R335), behind earlier ones. -/
def State.ppWrite (s : State) (p : Partition) (hw va : Nat) (bs : List Byte) : State :=
  if s.ppOwes p.p va bs.length then { s with ppw := s.ppw ++ [{ part := p.p, hw := hw, va := va, bytes := bs }] }
  else
    match s.farKey p p.ppUnit true va with
    | .key k => State.write (s.farCache p p.ppUnit true va) (cellsAt k bs)
    | .bad r l e => s.ppLost p hw va r l e
    | .busy => { s with ppw := s.ppw ++ [{ part := p.p, hw := hw, va := va, bytes := bs }] }

/-- The writes that wait are tried again, in order. -/
def State.retryWrites (s : State) : State :=
  s.ppw.foldl (fun (s : State) w => match s.part? w.part with
    | some p => s.ppWrite p w.hw w.va w.bytes
    | none => s) { s with ppw := [] }

/-- A queue's descriptor cannot be read now: its page moves, or a write to it waits. -/
def State.tableBusy (s : State) (part q : Nat) : Bool :=
  (s.part? part).any fun p => s.ppOwes part (p.qaddr q) 64 || s.farKey p p.ppUnit false (p.qaddr q) == .busy

/-! ### The order of host accesses (R112) -/

/-- A host access meets a page that moves, and waits. -/
def State.hostBusy (s : State) : HostOp → Bool
  | .read win off n => (pieces off n).any fun p => s.windowBusy win false p.1
  | .write win off bs => (pieces off bs.length).any fun p => s.windowBusy win true p.1
  | .reg _ _ => false
  | .notify part q _ => s.boot.lock && s.tableBusy part q

/-- A host access takes place once those that arrived before it have; until then it waits in the mailbox engine. -/
def State.inOrder (s : State) (o : HostOp) (k : State) : State :=
  if s.hostq.isEmpty && !s.hostBusy o then k else { s with hostq := s.hostq ++ [o] }

/-- BAR0 offset of a register of a partition (18 R371). -/
def partReg (part o : Nat) : Nat := 0x100000 + 0x10000 * part + o

end Sys2Proof.Machine
end

