-- ==== Sys2Proof/Machine/Codec.lean ====
section
/-! DEFINITION. Bit-plane coding of compressed pages (03 R70, 18 R382): planes, tokens, CRC-32C, and the block both
ways. How a module chooses its tokens is its own (log 17). -/

namespace Sys2Proof.Machine

/-- One bit of CRC-32C, reflected. -/
def crcBit (x : Nat) : Nat := if x % 2 = 1 then (x / 2) ^^^ 0x82F63B78 else x / 2

/-- One byte of CRC-32C. -/
def crcByte (x : Nat) (b : Byte) : Nat :=
  crcBit (crcBit (crcBit (crcBit (crcBit (crcBit (crcBit (crcBit (x ^^^ b.toNat))))))))

/-- CRC-32C of bytes. -/
def crc32c (bs : List Byte) : Nat := (bs.foldl crcByte 0xFFFFFFFF) ^^^ 0xFFFFFFFF

/-- Little-endian words of bytes. -/
def wordsOf : Nat → List Byte → List Nat
  | 0, _ => []
  | n + 1, bs => leNat (bs.take 4) :: wordsOf n (bs.drop 4)

/-- Deltas of words (R70). -/
def deltas (prev : Nat) : List Nat → List Nat
  | [] => []
  | w :: ws => (w + 2 ^ 32 - prev) % 2 ^ 32 :: deltas w ws

/-- Words of deltas. -/
def undelta (prev : Nat) : List Nat → List Nat
  | [] => []
  | d :: ds => (prev + d) % 2 ^ 32 :: undelta ((prev + d) % 2 ^ 32) ds

/-- Plane p of the deltas: bit i is bit p of delta i. -/
def planeOf (p : Nat) (ds : List Nat) : Nat := ds.reverse.foldl (fun x d => 2 * x + fld d p 1) 0

/-- The 512 bytes of coded planes q31 down to q0. -/
def planeBytes (ds : List Nat) : List Byte :=
  (List.range 32).flatMap fun i =>
    let p := 31 - i
    leBytes 16 (if p = 31 then planeOf 31 ds else planeOf p ds ^^^ planeOf (p + 1) ds)

/-- Planes 31 down to 0 from coded planes. -/
def unplane (prev : Nat) : Nat → List Byte → List Nat
  | 0, _ => []
  | n + 1, bs =>
    let x := leNat (bs.take 16) ^^^ prev
    x :: unplane x n (bs.drop 16)

/-- Delta i from planes 31 down to 0. -/
def deltaAt (ps : List Nat) (i : Nat) : Nat := ps.foldl (fun x p => 2 * x + fld p i 1) 0

/-- Token bytes decoded (R382); none when they end inside a token. -/
def untoken : Nat → List Byte → Option (List Byte)
  | 0, ts => if ts.isEmpty then some [] else none
  | f + 1, ts =>
    match ts with
    | [] => some []
    | t :: rest =>
      let n := t.toNat % 128 + 1
      if t.toNat < 128 then (untoken f rest).map (List.replicate n 0 ++ ·)
      else if rest.length < n then none
      else (untoken f (rest.drop n)).map (rest.take n ++ ·)

/-- Length of the run of zero bytes, or of other bytes, at the head of a list. -/
def runLen (zero : Bool) : List Byte → Nat
  | [] => 0
  | b :: bs => if (b == 0) == zero then runLen zero bs + 1 else 0

/-- Tokens of a stream: runs of zero bytes and of literals, at most 128 each. -/
def tokens : Nat → List Byte → List Byte
  | 0, _ => []
  | f + 1, bs =>
    match bs with
    | [] => []
    | b :: _ =>
      let z := b == 0
      let n := min 128 (runLen z bs)
      if z then .ofNat 8 (n - 1) :: tokens f (bs.drop n)
      else .ofNat 8 (127 + n) :: bs.take n ++ tokens f (bs.drop n)

/-- A block of 512 bytes as a module codes it. -/
def codeBlock (bs : List Byte) : List Byte :=
  let ts := tokens 512 (planeBytes (deltas 0 (wordsOf 128 bs)))
  leBytes 4 ts.length ++ ts ++ leBytes 4 (crc32c bs)

/-- A block as it is sent: coded where that is shorter. -/
def sendBlock (bs : List Byte) : Bool × List Byte := if (codeBlock bs).length < 512 then (true, codeBlock bs) else (false, bs)

/-- Decode a coded block; none where the codec's check fails. -/
def decodeBlock (cs : List Byte) : Option (List Byte) :=
  let h := leNat (cs.take 4)
  let n := fld h 0 10
  if h / 2 ^ 10 ≠ 0 ∨ n = 0 ∨ 512 < n ∨ cs.length ≠ n + 8 then none
  else
    match untoken 512 ((cs.drop 4).take n) with
    | none => none
    | some st =>
      if st.length ≠ 512 then none
      else
        let ps := unplane 0 32 st
        let bs := (undelta 0 ((List.range 128).map (deltaAt ps))).flatMap (leBytes 4)
        if crc32c bs = leNat (cs.drop (n + 4)) then some bs else none

end Sys2Proof.Machine
end

