-- ==== Sys2Proof/Machine/Wire.lean ====
section
/-! DEFINITION. Bursts as they cross the planes (17 R347, R351, R352): wavelengths, the header flit, and the checks by which
a receiver discards a burst. -/

namespace Sys2Proof.Machine

/-- The wavelength on which endpoint e sends to endpoint d, on every plane (R347). -/
def wavelength (e d : Nat) : Nat := (d + 128 - e) % 128

/-- The port at which a burst leaves a plane (R347). -/
def planeExit (port w : Nat) : Nat := (port + w) % 128

/-- The fields of a header flit (R352), without its CRC. -/
structure Header where
  type : Nat
  vc : Nat
  src : Nat
  dst : Nat
  nflit : Nat
  stream : Nat
  seq : Nat
  ack : Option (Nat × Nat × BitVec 32)
  tag : Nat
  cluster : Nat
  offset : Nat
  deriving DecidableEq, Repr

/-- Bits [191:0] of a header flit. -/
def Header.low (h : Header) : Nat :=
  let a := match h.ack with
    | some a => 2 ^ 80 + a.2.1 % 2 * 2 ^ 81 + a.1 % 1024 * 2 ^ 82 + a.2.2.toNat * 2 ^ 96
    | none => 0
  h.type % 256 + h.vc % 2 * 2 ^ 8 + h.src % 128 * 2 ^ 9 + h.dst % 128 * 2 ^ 16 + h.nflit % 32 * 2 ^ 23 + h.stream % 1024 * 2 ^ 32
    + h.seq % 2 ^ 32 * 2 ^ 48 + a + h.tag % 512 * 2 ^ 128 + h.cluster % 128 * 2 ^ 137 + h.offset % 2 ^ 32 * 2 ^ 160

/-- The fields of a header flit's value. -/
def readHeader (x : Nat) : Header :=
  { type := fld x 0 8, vc := fld x 8 1, src := fld x 9 7, dst := fld x 16 7, nflit := fld x 23 5, stream := fld x 32 10
    seq := fld x 48 32, ack := if fld x 80 1 = 1 then some (fld x 82 10, fld x 81 1, .ofNat 32 (fld x 96 32)) else none
    tag := fld x 128 9, cluster := fld x 137 7, offset := fld x 160 32 }

/-- Data flits of a chunk, of 32 bytes. -/
def Chunk.flits (c : Chunk) : Nat := (c.bytes.length + 31) / 32

/-- A chunk's bytes in whole flits. -/
def Chunk.padded (c : Chunk) : List Byte := c.bytes ++ List.replicate (32 * c.flits - c.bytes.length) 0

/-- The header of a burst. The tag is the one that the engine gave the command (log 32). -/
def State.header (s : State) (b : Burst) : Header :=
  let c := b.chunks.head?
  let m := c.bind fun c => s.cmd? c.cmd
  { type := if b.chunks.isEmpty then 3 else if b.vc = 0 ∧ (c.map (·.no)) = some 0 then 1 else 2, vc := b.vc, src := b.src, dst := b.dst
    nflit := sumL (b.chunks.map Chunk.flits), stream := b.stream, seq := (c.map fun c => c.seq.toNat).getD 0, ack := b.ack
    tag := ((c.map fun c => (Config.engineTag c.cmd).toNat)).getD 0, cluster := (m.map (·.cluster)).getD 0
    offset := (c.map fun c => 256 * c.no).getD 0 }

/-- The bytes of a burst's flits: the header, with the CRC-32C of its bits [223:0] and of every data flit, then the data. -/
def State.flitBytes (s : State) (b : Burst) : List Byte :=
  let head := leBytes 28 (s.header b).low
  let data := b.chunks.flatMap Chunk.padded
  head ++ leBytes 4 (crc32c (head ++ data)) ++ data

/-- What a receiver requires of a burst's flits (R352): the CRC, zero reserved fields, a listed TYPE (without data flits for an
acknowledgement only), at most 16 data flits, all of them there, and its own index. -/
def flitsSound (own : Nat) (bs : List Byte) : Bool :=
  let x := leNat (bs.take 28)
  let h := readHeader x
  leNat ((bs.drop 28).take 4) == crc32c (bs.take 28 ++ bs.drop 32)
    && fld x 192 32 == 0 && fld x 144 16 == 0 && fld x 92 4 == 0 && fld x 42 6 == 0 && fld x 28 4 == 0
    && (h.type == 1 || h.type == 2 || (h.type == 3 && h.nflit == 0))
    && decide (h.nflit ≤ 16) && bs.length == 32 + 32 * h.nflit && h.dst == own

/-- Bytes with some of them replaced. -/
def damaged (xs : List (Nat × Byte)) (bs : List Byte) : List Byte :=
  (List.range bs.length).zip bs |>.map fun p => ((xs.find? (·.1 == p.1)).map (·.2)).getD p.2

/-- Chunks as the data flits of a burst give them, numbered from the header's SEQ. -/
def rereadChunks (seq : BitVec 32) : List Chunk → List Byte → List Chunk
  | [], _ => []
  | c :: cs, bs => { c with seq := seq, bytes := bs.take c.bytes.length } :: rereadChunks (seq + 1) cs (bs.drop (32 * c.flits))

/-- A burst as its flits give it; which request it answers stays as it was sent (log 32). -/
def Burst.reread (b : Burst) (bs : List Byte) : Burst :=
  let h := readHeader (leNat (bs.take 28))
  { b with src := h.src, stream := h.stream, vc := h.vc, ack := h.ack, chunks := rereadChunks (.ofNat 32 h.seq) b.chunks (bs.drop 32) }

/-- The burst that a receiver takes, if it takes one: it leaves its plane at the port that its wavelength leads to (R347). A codeword
that was not corrected makes every flit in it bad, and changed bytes count only where the checks do not see them (R351, R352). -/
def State.arrivedBurst (s : State) (own : Nat) (b : Burst) (t : Transit) : Option Burst :=
  if planeExit b.src b.wave ≠ own then none
  else
    match t with
    | .intact => some b
    | .uncorrected => none
    | .changed xs =>
      let bs := damaged xs (s.flitBytes b)
      if flitsSound own bs then some (b.reread bs) else none

/-- How many of a stream's next chunks travel in one burst: two of one transaction, whose TAG and OFFSET the header names, or one where two
have more than 16 flits (R352). -/
def burstSize : List Chunk → Nat
  | c :: d :: _ => if c.flits + d.flits ≤ 16 ∧ c.cmd = d.cmd ∧ c.req = d.req then 2 else 1
  | cs => cs.length

end Sys2Proof.Machine
end

