-- ==== Sys2Proof/Machine/Module.lean ====
section
/-! DEFINITION. Requests on their way to modules and back (03 R86, R87; 17 R352 to R359), and the modules
(16 R334 to R336; 18 R380 to R385). -/

namespace Sys2Proof.Machine

/-! ### Streams -/

/-- A stream record of a sender, if it has sent. -/
def State.tx? (s : State) (src dst stream vc : Nat) : Option TxStream :=
  s.tx.find? fun x => x.src == src && x.dst == dst && x.stream == stream && x.vc == vc

/-- A sender's stream, fresh if it has not sent. -/
def State.txOf (s : State) (src dst stream vc : Nat) : TxStream :=
  (s.tx? src dst stream vc).getD
    { src := src, dst := dst, stream := stream, vc := vc, next := 0, copies := [], waiting := [], progress := s.time, lane := none }

/-- Put a sender's stream back. -/
def State.setTx (s : State) (x : TxStream) : State :=
  let p : TxStream → Bool := fun y => y.src == x.src && y.dst == x.dst && y.stream == x.stream && y.vc == x.vc
  { s with tx := if s.tx.any p then replaceBy p x s.tx else s.tx ++ [x] }

/-- Next sequence number of a receiver's stream (17 R356). -/
def State.rxNext (s : State) (dst src stream vc : Nat) : BitVec 32 :=
  match s.rx.find? fun x => x.dst == dst && x.src == src && x.stream == stream && x.vc == vc with
  | some x => x.next
  | none => 0

/-- Set it. -/
def State.setRx (s : State) (x : RxStream) : State :=
  let p : RxStream → Bool := fun y => y.dst == x.dst && y.src == x.src && y.stream == x.stream && y.vc == x.vc
  { s with rx := if s.rx.any p then replaceBy p x s.rx else s.rx ++ [x] }

/-- Sequence q precedes n (R353). -/
def precedes (q n : BitVec 32) : Bool := q != n && decide ((n - q).toNat < 2 ^ 31)

/-! ### Lanes and grants (R346, R349, R355) -/

/-- The lane that serves a data plane's slot: the active position, or the spare that replaces it, of a Live socket (17 R346,
R349). -/
def State.planeLane (s : State) (plane slot : Nat) : Option (Nat × Nat) :=
  let sk := plane / 16
  let pos := 4 * (plane % 16) + slot
  if (s.socket sk).st ≠ 3 then none
  else if (s.lane sk pos).st = 1 then some (sk, pos)
  else ((List.range 68).find? fun q => (s.lane sk q).st == 2 && (s.lane sk q).replaced == pos).map fun q => (sk, q)

/-- A module's lane on a data plane is in service: its active lane, or the lane of the plane's group of 16 that replaces it. The
lanes of module endpoint e are listed as those of a socket 16 + e: positions 0 to 255 are its active lanes, 256 to 271 its spares, 272 to
279 its control lanes (R349). -/
def State.moduleLane (s : State) (ep plane : Nat) : Bool :=
  (s.lane (16 + ep) plane).st == 1
    || ((256 + plane / 16) :: (List.range 16).map (16 * (plane / 16) + ·)).any fun q =>
      (s.lane (16 + ep) q).st == 2 && (s.lane (16 + ep) q).replaced == plane

/-- The socket that drives a control plane: the lower-numbered Live one of the two that serve it (R349). -/
def State.controlDriver (s : State) (k : Nat) : Option Nat :=
  if (s.socket k).st = 3 then some k else if (s.socket (k + 8)).st = 3 then some (k + 8) else none

/-- Some control plane joins the package and an endpoint (R359). -/
def State.controlTo (s : State) (ep : Nat) : Bool :=
  (List.range 8).any fun k => (s.controlDriver k).isSome && (s.lane (16 + ep) (272 + k)).st == 1

/-- A lane carries bursts: it is active, or a spare in use, of a Live or Draining socket. -/
def State.laneUp (s : State) (l : Nat × Nat) : Bool :=
  ((s.socket l.1).st == 3 || (s.socket l.1).st == 4) && ((s.lane l.1 l.2).st == 1 || (s.lane l.1 l.2).st == 2)

/-- The hardware queue slot of a team. -/
def State.hwOf (s : State) (team : Nat) : Option Nat := ((s.team? team).bind fun t => s.launch? t.launch).map (·.hw)

/-- The lanes that a reservation holds now: it is not waiting, and its lease runs (15 R326). -/
def State.heldPins (s : State) (h : HwSlot) : List (Nat × Nat × Nat) :=
  match h.resv with
  | some v => if v.waiting || decide (v.until_ ≤ s.time) then [] else v.pinned
  | none => []

/-- A transmit slot of a plane is open to the commands of a hardware queue slot: pinned for it, or for none (15 R325). -/
def State.laneOpen (s : State) (hw : Option Nat) (plane slot : Nat) : Bool :=
  s.hws.all fun h => (some h.n == hw && !h.resv.any (·.lapsing)) || !(s.heldPins h).any fun x => x.2.1 == plane && x.2.2 == slot

/-- The lane by which the package sends on a plane to an endpoint: its lowest transmit slot that serves and is open. -/
def State.sendLane (s : State) (hw : Option Nat) (ep plane : Nat) : Option (Nat × Nat) :=
  if s.moduleLane ep plane then [0, 1, 2, 3].findSome? fun k => if s.laneOpen hw plane k then s.planeLane plane k else none else none

/-- Use one burst of a grant. -/
def useGrant (g : Grant) (gs : List Grant) : List Grant :=
  (replaceBy (· == g) { g with bursts := g.bursts - 1 } gs).filter fun h => decide (0 < h.bursts)

/-- How a burst may go: its lane, the reservation that is its standing grant, and the grants that are left, those the package
holds and those it has given. -/
structure Way where
  lane : Nat × Nat
  pin : Option Nat
  grants : List Grant
  given : List Grant
  deriving DecidableEq, Repr

/-- A reservation's lane to an endpoint: a standing grant of one receive slot there (R355). -/
def State.standing (s : State) (hw : Option Nat) (dst : Nat) : Option (Nat × (Nat × Nat)) :=
  s.hws.findSome? fun h =>
    if some h.n = hw ∧ !h.resv.any (·.lapsing) then ((s.heldPins h).filter fun x => x.1 == dst && s.moduleLane dst x.2.1).findSome? fun x => (s.planeLane x.2.1 x.2.2).map fun l => (h.n, l)
    else none

/-- The grant on the lowest-numbered plane and slot that a choice of lane can use (R358). -/
def lowestGrant (f : Grant → Option (Nat × Nat)) : List Grant → Option (Grant × (Nat × Nat))
  | [] => none
  | g :: gs =>
    match f g, lowestGrant f gs with
    | some l, some x => some (if 4 * x.1.plane + x.1.slot < 4 * g.plane + g.slot then x else (g, l))
    | some l, none => some (g, l)
    | none, x => x

/-- A way for a burst against a grant of its receiver (R355), for the commands of a hardware queue slot. -/
def State.way (s : State) (src dst vc : Nat) (hw : Option Nat) : Option Way :=
  if src = s.boot.endpoint then
    match s.standing hw dst with
    | some x => some { lane := x.2, pin := some x.1, grants := s.grants, given := s.given }
    | none =>
      (lowestGrant (fun g => s.sendLane hw dst g.plane) (s.grants.filter fun g => g.peer == dst && g.vc == vc && decide (0 < g.bursts))).map
        fun x => { lane := x.2, pin := none, grants := useGrant x.1 s.grants, given := s.given }
  else
    (lowestGrant (fun g => s.planeLane g.plane g.slot)
      (s.given.filter fun g => g.peer == src && g.vc == vc && decide (0 < g.bursts) && s.moduleLane src g.plane)).map
      fun x => { lane := x.2, pin := none, grants := s.grants, given := useGrant x.1 s.given }

/-- Use a way. -/
def State.use (s : State) (w : Way) : State := { s with grants := w.grants, given := w.given }

/-- The hardware queue slot whose command a chunk belongs to. -/
def State.chunkHw (s : State) (c : Chunk) : Option Nat := (s.cmd? c.cmd).bind fun m => s.hwOf m.team

/-- The acknowledgement that rides in a header from one endpoint to another: of a stream for which one is due (R356). -/
def State.ackFor (s : State) (src dst : Nat) : Option RxStream := s.rx.find? fun y => y.dst == src && y.src == dst && y.owes

/-- Its fields. -/
def RxStream.ack (y : RxStream) : Nat × Nat × BitVec 32 := (y.stream, y.vc, y.next)

/-- Send a burst on its way, with an acknowledgement that is due to its receiver. -/
def State.send (s : State) (w : Way) (src dst stream vc : Nat) (cs : List Chunk) : State :=
  let a := s.ackFor src dst
  let b : Burst := { src := src, dst := dst, wave := wavelength src dst, stream := stream, vc := vc, lane := w.lane, chunks := cs
                     ack := a.map RxStream.ack, pin := w.pin }
  let t := s.use w
  let t := match a with
    | some y => t.setRx { y with owes := false }
    | none => t
  if dst = s.boot.endpoint then { t with wire := t.wire ++ [b] } else { t with out := t.out ++ [b] }

/-- Send chunks of a stream in one burst, if it has a way; the lane it went by. -/
def State.emit (s : State) (x : TxStream) (cs : List Chunk) : Option (State × (Nat × Nat)) :=
  (s.way x.src x.dst x.vc (cs.head?.bind s.chunkHw)).map fun w => (s.send w x.src x.dst x.stream x.vc cs, w.lane)

/-- Send what is due in a burst that only acknowledges, against a grant of the response channel (R355, R356). -/
def State.ackOnly (s : State) (y : RxStream) : State :=
  match if (s.ackFor y.dst y.src).isSome then s.way y.dst y.src 1 none else none with
  | some w => s.send w y.dst y.src y.stream 1 []
  | none => s

/-- Every acknowledgement that is due and has a way goes out: at the end of a press-clock cycle, within the 200 ns of R356 (log 18). -/
def State.sendAcks (s : State) : State := (s.rx.filter (·.owes)).foldl State.ackOnly s

/-- Copies of chunks that went by a lane. -/
def onLane (l : Option (Nat × Nat)) (cs : List Chunk) : List Chunk := cs.map fun c => { c with lane := l }

/-- Send a stream's waiting chunks, against grants, 16 unacknowledged at most (R352, R355, R357); the number bounds the bursts. -/
def State.pump (s : State) : Nat → TxStream → State
  | 0, x => s.setTx x
  | n + 1, x =>
    let cs := x.waiting.take (min (burstSize x.waiting) (16 - x.copies.length))
    if cs.isEmpty then s.setTx x
    else
      match s.emit x cs with
      | none => s.setTx x
      | some r => r.1.pump n { x with copies := x.copies ++ onLane (some r.2) cs, waiting := x.waiting.drop cs.length, lane := some r.2
                                      progress := if x.copies.isEmpty then s.time else x.progress }

/-- Queue chunks on a stream and send what may go. -/
def State.queueChunks (s : State) (x : TxStream) (cs : List Chunk) : State :=
  let cs := (List.range cs.length).zip cs |>.map fun p => { p.2 with seq := x.next + .ofNat 32 p.1 }
  s.pump (x.waiting.length + cs.length) { x with next := x.next + .ofNat 32 cs.length, waiting := x.waiting ++ cs }

/-- Queue chunks on a module's response stream. -/
def State.respond (s : State) (ep : Nat) (cs : List Chunk) : State := s.queueChunks (s.txOf ep s.boot.endpoint 0 1) cs

/-- Send copies again, in bursts that each need a grant; the copies, each with its lane. -/
def State.emitAgain (s : State) (x : TxStream) : Nat → List Chunk → State × List Chunk
  | 0, cs => (s, onLane none cs)
  | n + 1, cs =>
    if cs.isEmpty then (s, [])
    else
      match s.emit x (cs.take (burstSize cs)) with
      | none => (s, onLane none cs)
      | some r =>
        let q := State.emitAgain r.1 x n (cs.drop (burstSize cs))
        (q.1, onLane (some r.2) (cs.take (burstSize cs)) ++ q.2)

/-- A sender sends its copies from some number of them on again (R357); the receiver discards duplicates. With no grant they wait until
there is one (R358). -/
def State.resend (s : State) (x : TxStream) (cs : List Chunk) : State :=
  let r := s.emitAgain x cs.length cs
  let l := if cs.isEmpty then x.lane else r.2.getLast?.bind (·.lane)
  r.1.setTx { x with progress := s.time, copies := x.copies.map fun c => (r.2.find? (·.seq == c.seq)).getD { c with lane := l }, lane := l }

/-- Copies of a stream stand on no lane. -/
def TxStream.adrift (x : TxStream) : Bool := !x.copies.isEmpty && (x.lane.isNone || x.copies.any (·.lane.isNone))

/-- A stream goes on once it may have a grant: copies that stand on no lane are sent again, then what waits is sent. -/
def State.flow (s : State) (p : TxStream → Bool) : State :=
  (s.tx.filter p).foldl (fun s x =>
    let t := if x.adrift then s.resend x x.copies else s
    let y := t.txOf x.src x.dst x.stream x.vc
    t.pump y.waiting.length y) s

/-- Acknowledge a stream: the sender drops the copies before ACKSEQ. -/
def TxStream.acked (x : TxStream) (now : Nat) (a : BitVec 32) : TxStream :=
  let rest := x.copies.filter fun c => !precedes c.seq a
  { x with copies := rest, progress := if rest.length < x.copies.length then now else x.progress }

/-- An acknowledgement in a burst's header (R357): the sender drops what it acknowledges, and what waited behind 16 unacknowledged chunks
goes on. -/
def State.takeAck (s : State) (b : Burst) : State :=
  match b.ack with
  | none => s
  | some a =>
    let x := (s.txOf b.dst b.src a.1 a.2.1).acked s.time a.2.2
    s.pump x.waiting.length x

/-- An intact burst with chunks has come: its stream is to be acknowledged, with the next sequence number that its receiver expects
(R356). -/
def State.oweAck (s : State) (b : Burst) : State :=
  if b.chunks.isEmpty then s
  else s.setRx { dst := b.dst, src := b.src, stream := b.stream, vc := b.vc, next := s.rxNext b.dst b.src b.stream b.vc, owes := true }

/-- How far an endpoint stands behind the one that got the last grant, in the order of their indices. -/
def turnsAfter (last src : Nat) : Nat := (src + 127 - last) % 128

/-- The next request for a grant of a receive slot whose turn has come: the slot has no grant open, and the senders are taken
round-robin (R355). -/
def State.nextAsk (s : State) : Option Grant :=
  s.asks.find? fun g =>
    let same : Grant → Bool := fun h => h.plane == g.plane && h.slot == g.slot && h.vc == g.vc
    let last := ((s.granted.find? fun x => x.1 == g.plane && x.2.1 == g.slot && x.2.2.1 == g.vc).map (·.2.2.2)).getD 127
    !s.given.any same && s.asks.all fun h => !same h || decide (turnsAfter last g.peer ≤ turnsAfter last h.peer)

/-- Issue the grants whose turn has come; the number bounds them. -/
def State.serveAsks (s : State) : Nat → State
  | 0 => s
  | n + 1 =>
    match s.nextAsk with
    | none => s
    | some g =>
      let t := { s with
        asks := s.asks.erase g, given := s.given ++ [g]
        granted := (g.plane, g.slot, g.vc, g.peer) :: s.granted.filter fun x => !(x.1 == g.plane && x.2.1 == g.slot && x.2.2.1 == g.vc) }
      (t.flow fun x => x.src == g.peer && x.vc == g.vc).serveAsks n

/-! ### Sending requests (R86, R87, R105, R354) -/

/-- A far event of a request: read, write, page class, leaf, place in its module, address, length. -/
structure FarEvent where
  rd : Bool
  wr : Bool
  cls : Nat
  leaf : Nat
  at_ : Nat
  len : Nat
  deriving DecidableEq, Repr

/-- Place of a far byte: module, module page, offset. -/
def farPlace (ep page va : Nat) : Nat := ep * 2 ^ 38 + page * 65536 + va % 65536

/-- A served unit's event. -/
def FUnit.event (u : FUnit) (rd wr : Bool) (va len : Nat) : Option FarEvent :=
  match u.out with
  | some (.ok ep page cls _ _ first _ _) => some { rd := rd, wr := wr, cls := cls, leaf := first, at_ := farPlace ep page va, len := len }
  | _ => none

/-- Items of a request. -/
def Cmd.itemsOf (m : Cmd) (r : Req) : List Item := (m.numbered.filter fun p => r.items.any (· == p.2)).map (·.1)

/-- Far events of a request (R103: an atomic and a reduction are both a read and a write). -/
def Cmd.events (m : Cmd) (r : Req) : List FarEvent :=
  let one := fun (rd wr : Bool) => { rd := rd, wr := wr, cls := r.cls, leaf := r.leaf, at_ := farPlace r.ep r.page r.va, len := r.len : FarEvent }
  match r.op with
  | .read => [one true false]
  | .write | .fill => [one false true]
  | .reduce _ | .atomic .. => [one true true]
  | .copy => one true false :: (m.itemsOf r).filterMap fun i => i.far2.bind fun b => (m.unitOf true b).bind fun u => u.event false true b i.len

/-- A request has been performed at its module. -/
def Req.performed (r : Req) : Bool :=
  match r.run with
  | .finished => true
  | .accepted => r.left.isEmpty
  | _ => false

/-- R105 orders an event before a later command's: same S page, or same C bytes, whatever addresses name them. -/
def pageOrders (e f : FarEvent) : Bool :=
  (e.cls == 0 && f.cls == 0 && (e.leaf == f.leaf || e.at_ / 65536 == f.at_ / 65536))
    || (e.cls == 1 && f.cls == 1 && decide (e.at_ < f.at_ + f.len) && decide (f.at_ < e.at_ + e.len))

/-- A FENCE orders an event before a later command's (04 R103). -/
def fenceOrders (k : FenceKind) (e f : FarEvent) : Bool :=
  match k with
  | .acq => e.rd
  | .rel => f.wr
  | .acqrel => e.rd || f.rd || e.wr || f.wr

/-- Commands that issued before one: the list of commands is in the order of their issue. -/
def State.cmdsBefore (s : State) (uid : Nat) : List Cmd := (s.cmds.takeWhile (·.uid != uid)).filter (·.charged)

/-- Two requests go on one stream to one S page (R354). -/
def sameStream (r q : Req) : Bool := r.cls == 0 && q.cls == 0 && q.team == r.team && q.ep == r.ep && q.leaf == r.leaf

/-- Events of a request are held behind those of an earlier command. On one S page the module's order suffices where
both are its own (R354). -/
def State.farHeld (s : State) (m : Cmd) (r : Req) : Bool :=
  let fs := m.events r
  (s.cmdsBefore m.uid).any fun p =>
    p.agent == m.agent &&
      (s.reqs.any fun q => q.cmd == p.uid && !q.performed &&
        (p.events q).any fun e => fs.any fun f =>
          (pageOrders e f && !(sameStream r q && r.op != .copy && q.op != .copy))
            || m.fences.any fun x => x.2 == p.uid && fenceOrders x.1 e f)

/-- Requests before one in the order of the fetch engine: the order in which their commands issued (R87, R270). -/
def State.reqsBefore (s : State) (r : Req) : List Req :=
  let older := (s.cmdsBefore r.cmd).map (·.uid)
  s.reqs.filter fun q => older.any (· == q.cmd) || (q.cmd == r.cmd && decide (q.n < r.n))

/-- A request that is to be sent: the first time, or again once its hint has passed. -/
def ReqRun.due (r : ReqRun) (now : Nat) : Bool := match r with
  | .unsent => true
  | .refused _ at_ => decide (at_ ≤ now)
  | _ => false

/-- A request has been sent, and its module has not answered. -/
def ReqRun.pends : ReqRun → Bool
  | .sent | .there => true
  | _ => false

/-- A request that was refused and is not yet accepted. -/
def Req.rejected (r : Req) : Bool := match r.run with
  | .refused .. => true
  | .sent | .there => decide (0 < r.tries)
  | _ => false

/-- A command that is still being translated, or is translated anew, may have requests to any module (log 17). -/
def Cmd.unknown (m : Cmd) : Bool := m.kind != .pagereq && !(m.resDone && m.units.all FUnit.over)

/-- Source bytes may be read: the operations and local writes before the command are over (04 R98). -/
def State.sourceReady (s : State) (m : Cmd) : Bool :=
  m.held.all fun u => !(s.mats.any (·.uid == u)) && !(s.ligOps.any (·.uid == u)) && !(s.locals.any (·.uid == u))

/-- A request may be sent now, grants apart: its team has a slot at the module (R86) and no earlier request that is to be sent
there (R87, R270), earlier requests of its stream to an S page are accepted, or, if it was refused itself, sent (R354), and what
R105 and R107 order before it is performed. -/
def State.maySend (s : State) (m : Cmd) (r : Req) : Bool :=
  let before := s.reqsBefore r
  let here : Req → Bool := fun q => q.team == r.team && q.ep == r.ep
  !s.draining r.team && decide ((s.reqs.filter fun q => here q && q.run.pends).length < 8)
    && !(before.any fun q => here q && q.run.due s.time)
    && !((s.cmdsBefore m.uid).any fun p => p.team == m.team && p.unknown)
    && !(before.any fun q => sameStream r q && (if r.run = .unsent then q.rejected else q.rejected && !q.run.pends))
    && s.sourceReady m && s.armed m && !m.unknown && !s.farHeld m r

/-- A source byte as the engine reads it; one in a poisoned word is free (log 3). -/
def State.engineByte (s : State) (key : Nat) : Byte := if s.poisoned key 1 then Config.freeByte s.fresh key else s.byte key

/-- Far bytes of an item of a store, and whether an exponent was out of range. -/
def State.itemOut (s : State) (key : Nat) (i : Item) : List Host.Cell × Bool :=
  let bs := fun (os : List Nat) => os.map fun o => s.engineByte (key + o)
  match i.far with
  | none => ([], false)
  | some a =>
    match i.form with
    | .record f =>
      let r := recordOut f (bs i.loc) (bs i.aux)
      (cellsAt a r.1, r.2)
    | _ => (cellsAt a (bs i.loc), false)

/-- Requests that carry source bytes. -/
def ReqOp.sends : ReqOp → Bool
  | .write | .reduce _ => true
  | _ => false

/-- Commands that read source bytes. -/
def CmdKind.sends : CmdKind → Bool
  | .store | .bulkst | .reduce _ => true
  | _ => false

/-- Read a command's source bytes (04 R98); an exponent out of range sets ERR (08 R198): of a record that is sent, since the spec does not say
whether one that is not written, its page not being served, is looked at (DESIGN CHOICE, log 35). -/
def State.readSource (s : State) (m : Cmd) : State :=
  if !m.kind.sends || !m.src.isEmpty then s
  else
    let key := (m.recvs.head?.map fun r => storeKey r.core r.folio).getD 0
    let xs := m.items.map (s.itemOut key)
    State.setCmd { s with fresh := s.fresh + 1 } { m with src := xs.flatMap (·.1), items := (m.items.zip xs).map fun p => if p.2.2 && !p.1.fill then { p.1 with bad := true } else p.1 }

/-- Number of the request stream of a request: one for a team and an S page while requests of theirs are under way (R354), else
a number that no request under way at the module has; while all are taken it shares the first. -/
def State.streamFor (s : State) (r : Req) : Nat :=
  let live := s.reqs.filter fun q => q.ep == r.ep && q.stream != 0 && q.run != .finished
  match live.find? fun q => sameStream r q with
  | some q => q.stream
  | none => (((List.range 1023).map (· + 1)).find? fun n => !live.any fun q => q.stream == n).getD 1

/-- OP of a request body, and its detail: the operation and its type, for a reduction the element format, in bits that the spec does not give
(18 R380, log 32). -/
def ReqOp.codes (efmt : Nat) : ReqOp → Nat × Byte
  | .read => (1, 0)
  | .write => (2, 0)
  | .reduce o => (3, Config.reqDetail o.code efmt)
  | .fill => (4, 0)
  | .atomic o t => (5, Config.reqDetail o.code t.code)
  | .copy => (6, 0)

/-- The fields of a request body (18 R380): OP and its detail, length, partition, module byte address, operand, compare value. -/
structure Body where
  op : Nat
  detail : Nat
  len : Nat
  part : Nat
  addr : Nat
  arg : Nat
  cmp : Nat
  deriving DecidableEq, Repr

/-- The body flit: the page of the module byte lies above the offset in it. -/
def Body.bytes (b : Body) : List Byte :=
  leBytes 32 (b.op % 2 ^ 8 + 2 ^ 8 * (b.detail % 2 ^ 8) + 2 ^ 16 * (b.len % 2 ^ 13) + 2 ^ 29 * (b.part % 2 ^ 3) + 2 ^ 32 * (b.addr % 2 ^ 38)
    + 2 ^ 128 * (b.arg % 2 ^ 64) + 2 ^ 192 * (b.cmp % 2 ^ 64))

/-- The body that a flit holds. -/
def readBody (bs : List Byte) : Body :=
  let x := leNat bs
  { op := fld x 0 8, detail := fld x 8 8, len := fld x 16 13, part := fld x 29 3, addr := fld x 32 38, arg := fld x 128 64, cmp := fld x 192 64 }

/-- The body of a request of a command. -/
def Cmd.body (m : Cmd) (r : Req) : Body :=
  let c := r.op.codes m.efmt
  { op := c.1, detail := if r.op = .fill then m.esize else c.2.toNat, len := r.len, part := r.part, addr := r.page * 65536 + r.va % 65536
    arg := (match r.op with
      | .copy => ((m.itemsOf r).head?.bind (·.far2)).getD 0
      | _ => m.operand.toNat), cmp := m.compare.toNat }

/-- The body of a prefetch hint, of the read of a table entry, and of a table write (OP 0x07 to 0x09). -/
def hintBody (part addr len : Nat) : Body := { op := 7, detail := 0, len := len, part := part, addr := addr, arg := 0, cmp := 0 }
/-- OP 0x08. -/
def tableReadBody (part addr : Nat) : Body := { op := 8, detail := 0, len := 8, part := part, addr := addr, arg := 0, cmp := 0 }
/-- OP 0x09: the entry of a module page. -/
def tableWriteBody (page : Nat) (e : DWord) : Body := { op := 9, detail := 0, len := 8, part := 0, addr := page * 65536, arg := e.toNat, cmp := 0 }

/-- An empty chunk of a request or of its answer. -/
def Req.chunk (r : Req) (k : Nat) : Chunk :=
  { seq := 0, cmd := r.cmd, req := r.n, no := k, bytes := [], parts := [], bad := false, lane := none }

/-- The bytes of a transaction in chunks of 256, the last of which may be shorter (17 R352). -/
def Req.chunksOf (r : Req) (bs : List Byte) : List Chunk :=
  (List.range ((bs.length + 255) / 256)).map fun k => { r.chunk k with bytes := (bs.drop (256 * k)).take 256 }

/-- The chunks by which a request goes out: its body, and its write data in the flits after it (18 R380). -/
def Cmd.sendChunks (m : Cmd) (r : Req) : List Chunk :=
  r.chunksOf ((m.body r).bytes ++ if r.op.sends then (List.range r.len).map fun j => memGet m.src (r.va + j) else [])

/-- Send a request against a grant: it takes a slot at its module. -/
def State.sendReq (s : State) (m : Cmd) (r : Req) : State :=
  let own := s.boot.endpoint
  let x := s.txOf own r.ep (s.streamFor r) 0
  if 16 ≤ x.copies.length ∨ (s.way own r.ep 0 (s.hwOf r.team)).isNone then s
  else
    let s := s.readSource m
    let m := (s.cmd? m.uid).getD m
    let r := { r with run := .sent, stream := x.stream, seq := x.next, data := [] }
    (s.setReq r).queueChunks x (m.sendChunks r)

/-- REQUEST_SEND. -/
def execRequestSend (cmd req : Nat) (s : State) : Out :=
  match s.cmd? cmd, s.req? cmd req with
  | some m, some r => .next (if r.run = .unsent ∧ s.maySend m r then s.sendReq m r else s)
  | _, _ => .next s

/-- REQUEST_RETRY: the hinted delay is over and the request is sent again (R86). -/
def execRequestRetry (cmd req : Nat) (s : State) : Out :=
  match s.cmd? cmd, s.req? cmd req with
  | some m, some r =>
    match r.run with
    | .refused _ due => .next (if due ≤ s.time ∧ s.maySend m r then s.sendReq m r else s)
    | _ => .next s
  | _, _ => .next s

/-! ### A request reaches its module (17 R356) -/

/-- A module takes a chunk of a request in sequence: write data is kept, and the request is there with its last chunk. -/
def State.takeRequest (s : State) (c : Chunk) : State :=
  match s.req? c.cmd c.req with
  | none => s
  | some r =>
    if r.run ≠ .sent then s
    else
      let last := (32 + (if r.op.sends then r.len else 0) + 255) / 256 - 1
      let new := if c.no = 0 then cellsAt r.va (c.bytes.drop 32) else cellsAt (r.va + 256 * c.no - 32) c.bytes
      s.setReq { r with data := r.data ++ new, run := if c.no = last then .there else .sent }

/-- Accept the chunks of an intact burst at a module in sequence, each exactly once (R356). -/
def State.takeChunks (s : State) (b : Burst) : List Chunk → State
  | [] => s
  | c :: cs =>
    let n := s.rxNext b.dst b.src b.stream b.vc
    let s := if c.seq = n then State.takeRequest (s.setRx { dst := b.dst, src := b.src, stream := b.stream, vc := b.vc, next := n + 1, owes := true }) c
      else s
    s.takeChunks b cs

/-- A burst's reservation has run out or was released: its receiver refuses it with a retry-after hint, which the spec leaves
open (15 R326, log 3). -/
def State.lapsed (s : State) (b : Burst) : Bool :=
  match b.pin with
  | none => false
  | some n => (s.hw? n).all fun h => !(s.heldPins h).any (·.1 == b.dst)

/-- A refused burst is sent again, upon a grant, once the hint has passed. -/
def State.refuseBurst (s : State) (b : Burst) : State :=
  let f := s.freeWord
  let t : State := f.2
  let x := t.txOf b.src b.dst b.stream b.vc
  t.setTx { x with lane := none } |> fun t => { t with grantWait := t.grantWait ++ [(b.dst, 16 * b.lane.1 + b.lane.2 / 4, b.vc, t.time + 64 * (1 + f.1.toNat % 255) * nsUnits)] }

/-- The n-th burst of the package reaches its module, which takes its acknowledgement and its chunks, and owes one for them. -/
def State.carry (s : State) (n : Nat) (t : Transit) : State :=
  match nth s.out n with
  | none => s
  | some b =>
    let got := s.arrivedBurst b.dst b t
    let s := { s with out := dropNth s.out n }
    match got with
    | none => s
    | some b =>
      if s.lapsed b then s.refuseBurst b
      else ((s.takeAck b).oweAck b).takeChunks b b.chunks

/-! ### Acceptance (16 R335) -/

/-- Refuse a request with a hint; the 256th refusal in a row ends it (R335). -/
def State.refuseReq (s : State) (r : Req) (h : Nat) : State :=
  if 255 ≤ r.tries then s.failReq r 6 7 r.ep false
  else s.setReq { r with run := .refused h (s.time + 64 * h * nsUnits), tries := r.tries + 1, hint := h }

/-- An earlier request of the same stream is at the module: it comes first (R354). -/
def State.streamWaits (s : State) (r : Req) : Bool :=
  s.reqs.any fun q => q.ep == r.ep && q.stream == r.stream && q.run == .there && precedes q.seq r.seq

/-- The hint of an earlier request of the stream to the S page that was refused and is not accepted again: every later one is
refused with it (R354). -/
def State.streamHint (s : State) (r : Req) : Option Nat := ((s.reqsBefore r).find? fun q => sameStream r q && q.rejected).map (·.hint)

/-- A request as its module accepts it. -/
def Req.accept (r : Req) : Req :=
  { r with run := .accepted, tries := 0, left := if r.op = .copy then r.copyBlocks else [], owed := if r.op = .copy then [] else r.chunkNos.map r.window
           piece := ([], false) }

/-- A module's answer to a request that has reached it: `k` carries it out in a frame. -/
def State.acceptReq (s : State) (r : Req) (w : Answer) (k : State → Req → Nat → State) : State :=
  if s.streamWaits r then s
  else
    match s.streamHint r with
    | some h => s.refuseReq r h
    | none =>
      if (s.module r.ep).step = 3 ∧ w.hint ≠ 0 then s.refuseReq r 16
      else
        match s.pageAns r.ep r.part r.page with
        | .moving h => s.refuseReq r h
        | .absent => s.failReq r 6 7 r.ep false
        | .mapped f => k (s.setReq r.accept) r.accept f

/-- The n-th request that has reached a module and asks for an operation of a kind. -/
def State.reqAt (s : State) (ep n : Nat) (p : ReqOp → Bool) : Option Req :=
  nth (s.reqs.filter fun r => r.ep == ep && r.run == .there && p r.op) n

/-- Key of a far byte of a request in its frame. -/
def Req.key (r : Req) (frame va : Nat) : Nat := hbmKey r.ep frame (va % 65536)

/-- A run of the bytes of an answer: the far bytes [lo, hi) that it serves, and the bytes that are sent for them. -/
structure DataRun where
  lo : Nat
  hi : Nat
  bytes : List Byte
  coded : Bool
  deriving DecidableEq, Repr

/-- A coded block begins a flit, and is filled up with zeros to whole flits, so that no plain element straddles two chunks (03 R71, log
17). -/
def padFlits (bs : List Byte) : List Byte := bs ++ List.replicate ((32 - bs.length % 32) % 32) 0

/-- Block b of a compressed page as it is sent: coded where coding shortens it, else the bytes of it that are asked for (18 R382). -/
def State.blockRun (s : State) (r : Req) (frame b : Nat) : DataRun :=
  let x := sendBlock (s.bytes (r.key frame ((r.va / 512 + b) * 512)) 512)
  let w := r.blockWindow b
  if x.1 then { lo := w.1, hi := w.2, bytes := padFlits x.2, coded := true }
  else { lo := w.1, hi := w.2, bytes := s.bytes (r.key frame w.1) (w.2 - w.1), coded := false }

/-- The runs that answer a read. -/
def State.readRuns (s : State) (r : Req) (frame : Nat) : List DataRun :=
  if r.blocks then (List.range r.blockCount).map (s.blockRun r frame)
  else [{ lo := r.va, hi := r.va + r.len, bytes := s.bytes (r.key frame r.va) r.len, coded := false }]

/-- What chunk k of a transaction has of a run that begins `o` bytes into it. -/
def DataRun.part (x : DataRun) (o k : Nat) : Option Part :=
  let a := max o (256 * k)
  let b := min (o + x.bytes.length) (256 * k + 256)
  if b ≤ a then none
  else if x.coded then some { lo := x.lo, hi := x.hi, n := b - a, coded := true, more := decide (b < o + x.bytes.length) }
  else some { lo := x.lo + (a - o), hi := x.lo + (b - o), n := b - a, coded := false, more := false }

/-- The parts of chunk k of a transaction of some runs. -/
def partsOf (k : Nat) : Nat → List DataRun → List Part
  | _, [] => []
  | o, x :: xs => (x.part o k).toList ++ partsOf k (o + x.bytes.length) xs

/-- The chunks of an answer of some runs; `bad` are those with an uncorrectable data error. -/
def Req.answer (r : Req) (xs : List DataRun) (bad : List Nat) : List Chunk :=
  (r.chunksOf (xs.flatMap (·.bytes))).map fun c => { c with parts := partsOf c.no 0 xs, bad := bad.any (· == c.no) }

/-- A request that awaits the parts of some chunks: a coded block is one delivery. -/
def Req.awaiting (r : Req) (cs : List Chunk) : Req :=
  { r with owed := ((cs.flatMap (·.parts)).filter fun p => !p.more).map fun p => (p.lo, p.hi) }

/-- MODULE_READ: the bytes as they stand at acceptance, in chunks; a block of a compressed page may be coded. -/
def execModuleRead (ep n : Nat) (w : Answer) (s : State) : Out :=
  match s.reqAt ep n (· == .read) with
  | none => .next s
  | some r =>
    .next <| s.acceptReq r w fun s r f =>
      let cs := r.answer (s.readRuns r f) w.bad
      (s.setReq (r.awaiting cs)).respond ep cs

/-- A chunk of no flits that reports far bytes performed (R352, R359). -/
def Req.completion (r : Req) (k : Nat) (w : Nat × Nat) (bad : Bool) : Chunk :=
  { r.chunk k with parts := [{ lo := w.1, hi := w.2, n := 0, coded := false, more := false }], bad := bad }

/-- Write-completion chunks of a request. -/
def Req.completions (r : Req) (bad : List Nat) : List Chunk := r.chunkNos.map fun k => r.completion k (r.window k) (bad.any (· == k))

/-- MODULE_WRITE: the write data that has come with the request. -/
def execModuleWrite (ep n : Nat) (w : Answer) (s : State) : Out :=
  match s.reqAt ep n (· == .write) with
  | none => .next s
  | some r => .next <| s.acceptReq r w fun s r f => (s.write (r.data.map fun c => (r.key f c.1, c.2))).respond ep (r.completions [])

/-- One reduction (08 R198): `e` is the element format. -/
def reduceElem (op : FarRed) (efmt old x : Nat) : Nat :=
  if 8 ≤ efmt then
    let n := 4 * elemHalves efmt
    match op with
    | .add => (old + x) % 2 ^ n
    | .min => if sext x n < sext old n then x else old
    | .max => if sext old n < sext x n then x else old
  else
    let f := efmtFloat efmt
    match op with
    | .add => (faddRN f old x).1
    | .min => fminmax f false old x
    | .max => fminmax f true old x

/-- Reduce the elements of a run, in increasing address; one whose far bytes `bad` names is written as zero (03 R71). -/
def State.reduceRun (s : State) (op : FarRed) (efmt size key : Nat) (src : List Host.Cell) (bad : Nat → Bool) (va : Nat) : Nat → State
  | 0 => s
  | n + 1 =>
    let x := leNat ((List.range size).map fun i => memGet src (va + i))
    let t := s.write (cellsLE key size (if bad va then 0 else reduceElem op efmt (s.le key size) x))
    t.reduceRun op efmt size (key + size) src bad (va + size) n

/-- A request is a reduction. -/
def ReqOp.isReduce : ReqOp → Bool
  | .reduce _ => true
  | _ => false

/-- A request is an atomic. -/
def ReqOp.isAtomic : ReqOp → Bool
  | .atomic .. => true
  | _ => false

/-- Far bytes of some chunks of a request. -/
def Req.within (r : Req) (ks : List Nat) (va : Nat) : Bool := ks.any fun k => decide ((r.window k).1 ≤ va) && decide (va < (r.window k).2)

/-- MODULE_REDUCE. -/
def execModuleReduce (ep n : Nat) (w : Answer) (s : State) : Out :=
  match s.reqAt ep n ReqOp.isReduce with
  | none => .next s
  | some r =>
    .next <| s.acceptReq r w fun s r f =>
      match s.cmd? r.cmd, r.op with
      | some m, .reduce op =>
        State.respond (s.reduceRun op m.efmt m.esize (r.key f r.va) r.data (r.within w.bad) r.va (r.len / m.esize)) ep (r.completions w.bad)
      | _, _ => s

/-- MODULE_FILL: the low bytes of the fill value in every element; zero for a copy's bytes outside its source. -/
def execModuleFill (ep n : Nat) (w : Answer) (s : State) : Out :=
  match s.reqAt ep n (· == .fill) with
  | none => .next s
  | some r =>
    .next <| s.acceptReq r w fun s r f =>
      let m := s.cmd? r.cmd
      let fill := (m.map fun m => if m.kind = .fill then m.operand.toNat else 0).getD 0
      let size := (m.map (·.esize)).getD 1
      let cs := (List.range r.len).map fun i => (r.key f (r.va + i), BitVec.ofNat 8 (fill / 2 ^ (8 * ((r.va + i) % size))))
      (s.write cs).respond ep (r.completions [])

/-- MODULE_ATOMIC: one read-modify-write; the old value comes back, zero-extended. -/
def execModuleAtomic (ep n : Nat) (w : Answer) (s : State) : Out :=
  match s.reqAt ep n ReqOp.isAtomic with
  | none => .next s
  | some r =>
    .next <| s.acceptReq r w fun s r f =>
      match s.cmd? r.cmd, r.op with
      | some m, .atomic op t =>
        let key := r.key f r.va
        let old := s.le key r.len
        let x := atomicStep op t old m.operand.toNat m.compare.toNat
        (s.write (cellsLE key r.len x.1)).respond ep
          [{ r.chunk 0 with bytes := leBytes 8 old, bad := w.bad.any (· == 0)
                            parts := [{ lo := (r.window 0).1, hi := (r.window 0).2, n := 8, coded := false, more := false }] }]
      | _, _ => s

/-! ### Copies (16 R336) -/

/-- Far destination of a byte of a copy request. -/
def copyDest (is : List Item) (va : Nat) : Option Nat :=
  is.findSome? fun i =>
    match i.far, i.far2 with
    | some a, some b => if a ≤ va ∧ va < a + i.len then some (farWrap (b + (va - a))) else none
    | _, _ => none

/-- Where a destination byte of a copy lies, by the command's translation. What lies in the source's own page lies in the frame of
the source (18 R383: a request accepted before a move is performed in the old frame). A module above 110 °C completes what it has
accepted: its own pages answer an accepted copy by their entries (R385). -/
def State.destAns (s : State) (m : Cmd) (r : Req) (frame va : Nat) : FarAns :=
  match (m.unitOf true va).bind FUnit.out with
  | some (.ok ep page a b c d e f) => 
    if ep = r.ep ∧ page = r.page then .key (hbmKey ep frame (va % 65536))
    else if ep = r.ep then placeOf ep va (s.entryAns ep r.part page)
    else s.farOf r.part va (.ok ep page a b c d e f)
  | some (.bad k l e) => .bad k l e
  | none => .busy

/-- A destination cannot be written. -/
def FarAns.isBad : FarAns → Bool
  | .bad .. => true
  | _ => false
/-- It moves. -/
def FarAns.isBusy : FarAns → Bool
  | .busy => true
  | _ => false

/-- A destination page that translation serves but its module does not: the residency bit is cleared, and a fault posted for every block that
ends so (R331, R335, R338). -/
def State.destGone (s : State) (m : Cmd) (r : Req) (d : Nat) (a : FarAns) : State :=
  if !(m.unitOf true d).any FUnit.served then s
  else
    let n := { m with units := m.units.map fun u => if u.write && u.va / 65536 == d / 65536 then { u with lost := true } else u }
    let t := if (m.unitOf true d).any FUnit.resident then State.writeRes (s.setCmd n) n else s
    State.unitFault t n d 6 7 (match a with
      | .bad _ _ e => e
      | _ => r.ep) 1

/-- Copy one block, once every destination byte of it is mapped; a block with a destination byte that cannot be written is not
written, and counted; a moving one is left. A block read with an uncorrectable error is written as zero (03 R71). -/
def State.copyBlock (s : State) (m : Cmd) (r : Req) (frame k : Nat) (bad : Bool) : State :=
  let w := r.copyWindow k
  let is := m.itemsOf r
  let bs := (List.range (w.2 - w.1)).filterMap fun j => (copyDest is (w.1 + j)).map fun d => (w.1 + j, d, s.destAns m r frame d)
  if bs.any fun b => b.2.2.isBusy then s
  else
    let r' := { r with left := r.left.filter (· != k) }
    match bs.find? fun b => b.2.2.isBad with
    | some b =>
      let m' := { m with items := m.items ++ is.flatMap (·.cut w) }
      State.setReq (State.destGone (s.setCmd m') m' r b.2.1 b.2.2) r'.settled
    | none =>
      let cs := bs.filterMap fun b => match b.2.2 with
        | .key x => some (x, if bad then 0 else s.byte (r.key frame b.1))
        | _ => none
      let ws := runs256 w
      State.respond (State.setReq (s.write cs) { r' with owed := r'.owed ++ ws }) r.ep
        (ws.map fun v => r.completion ((v.1 - r.va) / 256) v bad)

/-- The blocks of a copy that are left. -/
def State.copyAll (s : State) (cmd req frame : Nat) (bad : List Nat) : List Nat → State
  | [] => s
  | k :: ks =>
    match s.cmd? cmd, s.req? cmd req with
    | some m, some r => State.copyAll (s.copyBlock m r frame k (bad.any (· == k))) cmd req frame bad ks
    | _, _ => s

/-- The n-th copy at a module: one that has reached it, or one with blocks left. -/
def State.copyReq (s : State) (ep n : Nat) : Option Req :=
  nth (s.reqs.filter fun r => r.ep == ep && r.op == .copy && (r.run == .there || (r.run == .accepted && !r.left.isEmpty))) n

/-- MODULE_COPY: acceptance, or another try at the blocks whose destination moved; the source is read anew, in the old frame while
its own page moves (18 R383). -/
def execModuleCopy (ep n : Nat) (w : Answer) (s : State) : Out :=
  match s.copyReq ep n with
  | none => .next s
  | some r =>
    let go := fun (s : State) (r : Req) (f : Nat) => State.settleCmd (s.copyAll r.cmd r.n f w.bad r.left) r.cmd
    if r.run = .there then .next (s.acceptReq r w go)
    else if s.pageAns ep r.part r.page = .absent then .next (s.failReq r 6 7 ep false)
    else .next (go s r (fld ((s.module ep).entry r.page) 0 24))

/-! ### Delivery (17 R356, 03 R71, R76) -/

/-- Far bytes [lo, hi) that have arrived, with their cells, and whether they are in error. -/
structure Arrived where
  lo : Nat
  hi : Nat
  cells : List Host.Cell
  bad : Bool
  deriving DecidableEq, Repr

/-- A coded block without what fills its last flit: the prefix says how many token bytes it has (18 R382). -/
def trimBlock (bs : List Byte) : List Byte := bs.take (fld (leNat (bs.take 4)) 0 10 + 8)

/-- A whole coded block as it arrives: the bytes of it that were asked for; one that fails the codec's check is in error (03 R70). -/
def blockArrived (p : Part) (x : List Byte × Bool) : Arrived :=
  match decodeBlock (trimBlock x.1) with
  | some bs => { lo := p.lo, hi := p.hi, cells := (cellsAt (p.lo / 512 * 512) bs).filter fun c => decide (p.lo ≤ c.1) && decide (c.1 < p.hi), bad := x.2 }
  | none => { lo := p.lo, hi := p.hi, cells := [], bad := true }

/-- What the parts of a chunk bring: whole arrivals, and what there is now of a coded block that goes on. A coded block is in error where
any of its chunks is (03 R71). -/
def partsArrive (bad : Bool) : List Byte × Bool → List Byte → List Part → List Arrived × (List Byte × Bool)
  | piece, _, [] => ([], piece)
  | piece, bs, p :: ps =>
    let here := bs.take p.n
    if p.coded then
      let whole := (piece.1 ++ here, piece.2 || bad)
      if p.more then partsArrive bad whole (bs.drop p.n) ps
      else
        let r := partsArrive bad ([], false) (bs.drop p.n) ps
        (blockArrived p whole :: r.1, r.2)
    else
      let r := partsArrive bad piece (bs.drop p.n) ps
      ({ lo := p.lo, hi := p.hi, cells := cellsAt p.lo here, bad := bad } :: r.1, r.2)

/-- Folio bytes of a run of a plain item that a window covers. -/
def plainPart (i : Item) (w : Nat × Nat) (bs : List Host.Cell) : List (Nat × Byte) :=
  match i.far with
  | none => []
  | some a => (i.loc.zip (List.range i.len)).filterMap fun p =>
      if w.1 ≤ a + p.2 ∧ a + p.2 < w.2 then some (p.1, memGet bs (a + p.2)) else none

/-- Every far byte of an item has come. -/
def Item.whole (i : Item) (got : List Host.Cell) : Bool :=
  match i.far with
  | none => false
  | some a => (List.range i.len).all fun j => got.any (·.1 == a + j)

/-- Far bytes of an item. -/
def Item.farBytes (i : Item) (got : List Host.Cell) : List Byte :=
  match i.far with
  | none => []
  | some a => (List.range i.len).map fun j => ((got.find? (·.1 == a + j)).map (·.2)).getD 0

/-- Folio bytes of a whole record or tile, and whether it is in error: of one that an error touches, or a block that fails its
check, every byte is written as zero (03 R71; for a block that holds only part of it, log 35). -/
def Item.expand (i : Item) (got : List Host.Cell) : List (Nat × Byte) × Bool :=
  let bs := i.farBytes got
  let z := (i.loc ++ i.aux).map fun o => (o, (0 : Byte))
  if i.bad then (z, true)
  else
    match i.form with
    | .record f =>
      let r := recordIn f bs
      (i.loc.zip r.1 ++ i.aux.zip r.2, false)
    | .sparse n =>
      let t := tileIn n bs
      (i.loc.zip t.1, t.2)
    | .plain => (z, true)

/-- The far bytes, by offset in a record, that each source byte of it forms: its element bytes, then its scale entry. -/
def Item.forms (i : Item) : List (List Nat) :=
  (List.range i.loc.length).map (fun j => match i.form with
    | .record .e3m2 | .record .e2m3 => dedup [1 + 6 * j / 8, 1 + (6 * j + 5) / 8]
    | _ => [1 + j]) ++ i.aux.map fun _ => [0]

/-- Source bytes of a record that are performed once some far bytes are. -/
def Item.sourceDone (i : Item) (got : List Host.Cell) : Nat :=
  match i.far with
  | none => 0
  | some a => (i.forms.filter fun os => os.all fun o => got.any (·.1 == a + o)).length

/-- What delivering a chunk does to one item of its request: the item, folio bytes, bytes counted, ERR, NRF. `old` is what had come
before. Of a source record that another request's end has left to be filled, what a completion reports performed counts all the same (R391). -/
def deliverItem (m : Cmd) (w : Nat × Nat) (bs old got : List Host.Cell) (bad : Bool) (i : Item) :
    Item × List (Nat × Byte) × Nat × Bool × Bool :=
  match i.form with
  | .plain =>
    match m.kind with
    | .atom .. => (i, i.loc.zip ((List.range 8).map fun j => if bad then 0 else memGet bs (w.1 + j)), i.cnt, bad, i.nrf)
    | k =>
      let n := match i.far with
        | some a => min (a + i.len) w.2 - max a w.1
        | none => 0
      let n := if k = .copy && i.far2.isNone && i.far.isNone then 0 else n
      (i, if k.fetches then (plainPart i w bs).map fun b => (b.1, if bad then 0 else b.2) else [], n, bad || i.bad, i.nrf)
  | _ =>
    let i := { i with bad := i.bad || bad }
    if i.done || (i.fill && m.kind.fetches) then (i, [], 0, false, false)
    else if m.kind.fetches then
      if !i.whole got then (i, [], 0, false, false)
      else
        let x := i.expand got
        ({ i with done := true }, x.1, i.cnt, x.2, i.nrf)
    else
      let n := i.sourceDone got - i.sourceDone old
      ({ i with done := !i.fill && i.whole got, cnt := i.cnt - n }, [], n, i.bad, i.nrf && !i.fill)

/-- Whether a chunk's window meets an item. -/
def Item.meetsWindow (i : Item) (w : Nat × Nat) : Bool :=
  match i.far with
  | some a => decide (a < w.2) && decide (w.1 < a + i.len)
  | none => false

/-- What a chunk does to a command: the command, the folio bytes, the bytes counted, ERR and NRF. -/
structure Taken where
  m : Cmd
  out : List (Nat × Byte)
  n : Nat
  err : Bool
  nrf : Bool
  deriving DecidableEq, Repr

/-- Far bytes of a request arrive at its command. -/
def Taken.add (t : Taken) (r : Req) (a : Arrived) : Taken :=
  let m := t.m
  let cells := if m.kind.fetches || r.op.isAtomic then a.cells else []
  let new := if m.kind.fetches && !a.bad then a.cells else (List.range (a.hi - a.lo)).map fun j => (a.lo + j, (0 : Byte))
  let got := m.got ++ new
  let rs := m.numbered.map fun p =>
    if r.items.any (· == p.2) && p.1.meetsWindow (a.lo, a.hi) then deliverItem m (a.lo, a.hi) cells m.got got a.bad p.1
    else (p.1, [], 0, false, false)
  let records := m.items.any fun i => i.form != .plain
  { m := { m with items := rs.map (·.1), got := if records then got else [] }, out := t.out ++ rs.flatMap (·.2.1)
    n := t.n + sumL (rs.map (·.2.2.1)), err := t.err || rs.any (·.2.2.2.1), nrf := t.nrf || rs.any (·.2.2.2.2) }

/-- Deliver to a command what a chunk of a request has brought: it writes, then counts all of it in one addition (R76, R391). -/
def State.deliverTo (s : State) (m : Cmd) (r : Req) (as : List Arrived) : State :=
  let t := as.foldl (fun t a => t.add r a) { m := m, out := [], n := 0, err := false, nrf := false : Taken }
  let s := s.setCmd t.m
  let s := s.setReq { r with owed := r.owed.filter fun w => !as.any fun a => w == (a.lo, a.hi) }.settled
  let s := s.writeFolio t.m t.out
  State.settleCmd (s.countRecvs t.m t.n (arrFlags t.nrf t.err)) m.uid

/-- Deliver a chunk to the fetch engine. A coded block in more chunks than one is taken with the chunk that completes it (R391). -/
def State.deliver (s : State) (c : Chunk) : State :=
  match s.cmd? c.cmd, s.req? c.cmd c.req with
  | some m, some r =>
    if r.run ≠ .accepted then s
    else
      let x := partsArrive c.bad r.piece c.bytes c.parts
      let as := x.1.filter fun a => r.owed.any (· == (a.lo, a.hi))
      let r := { r with piece := x.2 }
      if as.isEmpty then s.setReq r else s.deliverTo m r as
  | _, _ => s

/-- Accept the chunks of an intact burst in sequence, each exactly once (R356). -/
def State.acceptChunks (s : State) (b : Burst) : List Chunk → State
  | [] => s
  | c :: cs =>
    let n := s.rxNext b.dst b.src b.stream b.vc
    let s := if c.seq = n then State.deliver (s.setRx { dst := b.dst, src := b.src, stream := b.stream, vc := b.vc, next := n + 1, owes := true }) c
      else s
    s.acceptChunks b cs

/-- A burst is discarded: its socket and lane count it (R352, R367); the eighth in a row is a failure of the lane (R360). -/
def State.discard (s : State) (b : Burst) : State :=
  let x := s.socket b.lane.1
  let l := s.lane b.lane.1 b.lane.2
  let t := (s.setSocket { x with discards := x.discards + 1 }).setLane { l with bad := l.bad + 1 }
  if l.bad = 7 then { t with agenda := t.agenda ++ [.laneLost b.lane.1 b.lane.2] } else t

/-- RESPONSE_BURST_RECEIVE: the n-th burst on its way, with what happens to its flits. -/
def execResponseBurstReceive (n : Nat) (t : Transit) (s : State) : Out :=
  match nth s.wire n with
  | none => .next s
  | some b =>
    if b.chunks.isEmpty then .next s
    else
      let got := s.arrivedBurst s.boot.endpoint b t
      let s := { s with wire := dropNth s.wire n }
      match got with
      | none => .next (s.discard b)
      | some b =>
        let l := s.lane b.lane.1 b.lane.2
        .next (State.acceptChunks (State.oweAck (State.takeAck (if l.bad = 0 then s else s.setLane { l with bad := 0 }) b) b) b b.chunks)

/-- ACK_ONLY_RECEIVE. -/
def execAckOnlyReceive (n : Nat) (t : Transit) (s : State) : Out :=
  match nth s.wire n with
  | none => .next s
  | some b =>
    if !b.chunks.isEmpty then .next s
    else
      let got := s.arrivedBurst s.boot.endpoint b t
      let s := { s with wire := dropNth s.wire n }
      match got with
      | none => .next (s.discard b)
      | some b =>
        let l := s.lane b.lane.1 b.lane.2
        .next ((if l.bad = 0 then s else s.setLane { l with bad := 0 }).takeAck b)

/-- REPLAY_TIMEOUT of the stream with a number in the state's list (R357). -/
def execReplayTimeout (stream : Nat) (s : State) : Out :=
  match nth s.tx stream with
  | none => .next s
  | some x => .next (if x.copies.isEmpty || decide (s.time < x.progress + 1000 * nsUnits) then s else s.resend x x.copies)

/-- RESUME_RECEIVE: resend from the later of r and the oldest unacknowledged chunk. -/
def execResumeReceive (stream : Nat) (r : Word) (s : State) : Out :=
  match nth s.tx stream with
  | none => .next s
  | some x => .next (s.resend x (x.copies.filter fun c => !precedes c.seq r))

/-! ### Grants (R355) -/

/-- GRANT_REQUEST_RECEIVE: the package grants a receive slot in its turn, or refuses with a hint. At most 16 bursts a grant. -/
def execGrantRequestReceive (src plane slot vc bursts refuse : Nat) (s : State) : Out :=
  if refuse ≠ 0 ∨ 4 ≤ slot ∨ (s.planeLane plane slot).isNone ∨ !s.controlTo src then .next s
  else
    let g : Grant := { peer := src, plane := plane, slot := slot, vc := vc, bursts := min 16 bursts }
    .next (State.serveAsks { s with asks := s.asks ++ [g] } (s.asks.length + 1))

/-- GRANT_RECEIVE: a module has one receive slot on a plane, number 0, and so one grant open at a time for a channel. -/
def execGrantReceive (peer plane slot vc bursts : Nat) (s : State) : Out :=
  let g : Grant := { peer := peer, plane := plane, slot := slot, vc := vc, bursts := min 16 bursts }
  if slot ≠ 0 ∨ !s.controlTo peer ∨ s.grants.any (fun h => h.peer == peer && h.plane == plane && h.vc == vc) then .next s
  else
    .next (State.flow { s with
      grants := s.grants ++ [g]
      grantWait := s.grantWait.filter fun x => !(x.1 == peer && x.2.1 == plane && x.2.2.1 == vc) }
      fun x => x.src == s.boot.endpoint && x.dst == peer && x.vc == vc)

/-- GRANT_REFUSAL_RECEIVE: ask again after 64 h ns. -/
def execGrantRefusalReceive (peer plane vc hint : Nat) (s : State) : Out :=
  .next { s with grantWait := s.grantWait ++ [(peer, plane, vc, s.time + 64 * hint * nsUnits)] }

/-- GRANT_RETRY: the request for a grant goes out again. -/
def execGrantRetry (peer plane vc : Nat) (s : State) : Out :=
  .next { s with grantWait := s.grantWait.filter fun g =>
    !(g.1 == peer && g.2.1 == plane && g.2.2.1 == vc && decide (g.2.2.2 ≤ s.time)) }

/-- COMPLETION_NOTICE_RECEIVE: it counts no byte, retires nothing and fires nothing (R359); what the engine schedules is
timing. -/
def execCompletionNoticeReceive (_cmd _req : Nat) (s : State) : Out := .next s

/-! ### Hints, tables, moves, temperature (18 R383 to R385) -/

/-- A burst of one chunk crosses a stream and is acknowledged in one turn (log 18): it takes a grant, and the stream's next number at both
ends (R355, R356). Its receiver takes the chunk's bytes from the flits, their header and CRC checked (R352). One that is discarded goes again,
so that a loss is no more than the turn not taking place yet. -/
def State.cross (s : State) (src dst stream vc : Nat) (bs : List Byte) : Option (State × List Byte) :=
  (s.way src dst vc none).bind fun w =>
    let t := s.use w
    let x := t.txOf src dst stream vc
    let c : Chunk := { seq := x.next, cmd := 0, req := 0, no := 0, bytes := bs, parts := [], bad := false, lane := some w.lane }
    let b : Burst := { src := src, dst := dst, wave := wavelength src dst, stream := stream, vc := vc, lane := w.lane, chunks := [c], ack := none, pin := w.pin }
    (t.arrivedBurst dst b (.changed [])).map fun b =>
      ((t.setTx { x with next := x.next + 1 }).setRx { dst := dst, src := src, stream := stream, vc := vc, next := x.next + 1, owes := false },
       b.chunks.flatMap (·.bytes))

/-- A request of no command reaches its module on stream 0, which no other request takes, and the module reads its body (18 R380). -/
def State.ask (s : State) (ep : Nat) (b : Body) : Option (State × Body) :=
  (s.cross s.boot.endpoint ep 0 0 b.bytes).map fun x => (x.1, readBody x.2)

/-- And it is answered on the module's response stream 1, with the bytes that the module has for the body. -/
def State.exchange (s : State) (ep : Nat) (b : Body) (f : Body → List Byte) : Option (State × Body × List Byte) :=
  (s.ask ep b).bind fun x => (x.1.cross ep s.boot.endpoint 1 1 (f x.2)).map fun y => (y.1, x.2, y.2)

/-- Drop staged copies, oldest first, until a total fits. -/
def fitStaged (room : Nat) : List (Nat × Nat) → List (Nat × Nat)
  | [] => []
  | x :: xs => if sumL ((x :: xs).map (·.2)) ≤ room then x :: xs else fitStaged room xs

/-- MODULE_HINT: the n-th hint on its way to a module fills its staging SRAM, or is dropped. A write to staged bytes
makes the copy useless (04 R108), so a read never shows one. -/
def execModuleHint (ep n : Nat) (drop : Bool) (s : State) : Out :=
  match nth (s.hints.filter (·.1 == ep)) n with
  | none => .next s
  | some h =>
  match s.ask ep (hintBody h.2.2.2 h.2.1 h.2.2.1) with
  | none => .next s
  | some (s, b) =>
    let s := { s with hints := s.hints.erase h }
    let m := s.module ep
    if drop || m.step == 4 then .next s
    else .next (s.setModule { m with staged := fitStaged (2 ^ 26 - min b.len (2 ^ 26)) m.staged ++ [(b.addr, b.len)] })

/-- Advance a walk whose next entry lies at a module byte, by the entry that the module has sent. -/
def State.readTable (s : State) (p : Partition) (ep addr e : Nat) (u : FUnit) : FUnit :=
  match u.res with
  | .walking level m a ts =>
    if m = ep ∧ a + 8 * walkIndex level u.va = addr then
      { u with res := if !p.reach ep then .ended (.bad 3 level ep)
                      else tableStep p (s.feature 1) u.write u.va level ep a ts ((s.tableRead ep p.p addr).1, e) }
    else u
  | _ => u

/-- The partition whose walk waits for the entry at a module byte. -/
def State.tablePart (s : State) (ep addr : Nat) : Nat :=
  ((s.cmds.find? fun m => m.charged && m.units.any fun u => match u.res with
    | .walking level e a _ => e == ep && a + 8 * walkIndex level u.va == addr
    | _ => false).map fun m => s.partOf (agentCore m.agent)).getD 0

/-- Every walk of a partition that waits for the entry at a module byte goes on. -/
def State.readTables (s : State) (part ep addr e : Nat) : List Cmd :=
  s.cmds.map fun (m : Cmd) =>
    match s.part? (s.partOf (agentCore m.agent)) with
    | some p => if m.charged && p.p == part then { m with units := m.units.map (s.readTable p ep addr e) } else m
    | none => m

/-- MODULE_TABLE_READ: the entry at a module byte is read, and the walks that wait for it go on. A table whose page moves leaves them. -/
def execModuleTableRead (ep addr : Nat) (s : State) : Out :=
  match s.exchange ep (tableReadBody (s.tablePart ep addr) addr) fun b => leBytes 8 (s.tableRead ep b.part b.addr).2 with
  | none => .next s
  | some (t, b, x) =>
    let ms := s.readTables b.part ep b.addr (leNat x)
    .next (if ms = s.cmds then s else { t with cmds := ms })

/-- Number of bytes moved is a page; the time of its copy is the module's own, a free value (log 3). -/
def State.moveUntil (s : State) : Nat := s.time + (Config.freeValue s.fresh).toNat

/-- Replace a module table entry. -/
def Module.setEntry (m : Module) (page : Nat) (e : DWord) : Module :=
  { m with table := (m.table.filter (·.1 != page)) ++ [(page, e)] }

/-- MODULE_TABLE_WRITE: from its manager only. A mapped page given a new frame starts to move. A module above 110 °C takes none
(R385). -/
def execModuleTableWrite (ep : Nat) (s : State) : Out :=
  match (s.module ep).pendingWrite with
  | none => .next s
  | some v =>
  match s.exchange ep (tableWriteBody v.1 v.2) fun _ => [] with
  | none => .next s
  | some (s, b, _) =>
    let w : Nat × DWord := (b.addr / 65536, .ofNat 64 b.arg)
    if (s.module ep).step = 4 then .next s
    else
      let m := { s.module ep with pendingWrite := none }
      if m.manager ≠ s.boot.endpoint then .next (State.setModule { s with boot := { s.boot with mmStat := 2 } } m)
      else
        let old := m.entry w.1
        let new := w.2.toNat
        if fld old 62 2 = 1 ∧ fld new 62 2 = 1 ∧ fld old 0 24 ≠ fld new 0 24 then
          let moving := BitVec.ofNat 64 (old % 2 ^ 62 + 2 ^ 63)
          let m := { m.setEntry w.1 moving with moves := (w.1, new, s.moveUntil) :: m.moves.filter (·.1 != w.1) }
          .next (State.setModule { s with fresh := s.fresh + 1 } m)
        else .next (State.setModule { s with boot := { s.boot with mmStat := 0 } } (m.setEntry w.1 w.2))

/-- A copy that was accepted before a page moved still reads or writes it in the old frame (R383). -/
def State.copyOpen (s : State) (ep page : Nat) : Bool :=
  s.reqs.any fun r => r.ep == ep && r.page == page && r.op == .copy && r.run == .accepted && !r.left.isEmpty

/-- PAGE_MOVE_COMPLETE: the copy, the new frame, then the acknowledgement. -/
def execPageMoveComplete (ep page : Nat) (s : State) : Out :=
  let m := s.module ep
  match m.moves.find? (·.1 == page) with
  | none => .next s
  | some v =>
    if decide (s.time < v.2.2) || s.copyOpen ep page then .next s
    else
      let f := fld (m.entry page) 0 24
      let g := fld v.2.1 0 24
      let t := s.write (cellsAt (hbmKey ep g 0) (s.bytes (hbmKey ep f 0) 65536))
      let m := { m.setEntry page (.ofNat 64 v.2.1) with moves := m.moves.filter (·.1 != page) }
      .next (State.setModule { t with boot := { t.boot with mmStat := 0 } } m)

/-- Entry temperature of a step, in 1/16 degree C (R385). -/
def stepEntry : Nat → Nat
  | 1 => 85 * 16
  | 2 => 95 * 16
  | 3 => 105 * 16
  | _ => 110 * 16

/-- Step of a stack at a temperature: it is entered above the entry temperature, and left 3 degrees below it. -/
def thermalStep (old temp : Nat) : Nat :=
  ((List.range 5).filter fun k => k == 0 || decide (stepEntry k < temp) || (decide (k ≤ old) && decide (stepEntry k < temp + 48))).foldl max 0

/-- MODULE_THERMAL_STEP. -/
def execModuleThermalStep (ep stack temp : Nat) (s : State) : Out :=
  let m := s.module ep
  let old := ((m.temps.find? (·.1 == stack)).map (·.2)).getD 0
  .next (s.setModule { m with temps := (m.temps.filter (·.1 != stack)) ++ [(stack, thermalStep old temp)] })

end Sys2Proof.Machine
end

