-- ==== Sys2Proof/Machine/Queue.lean ====
section
/-! DEFINITION. User queues and packets (15 R309 to R315), bindings (R317), placement events (R321, R322), lane
reservations (R325, R326; 17 R355), and the mapping of queues without contexts (R318, R319). -/

namespace Sys2Proof.Machine

/-! ### Far memory as the packet processor reads it -/

/-- Bytes the packet processor reads. -/
def State.ppRead (s : State) (p : Partition) (va n : Nat) : Except FarAns (List Byte) := s.farReadN p p.ppUnit (n / 65536 + 2) va n

/-! ### Queue descriptors (R309) -/

/-- A queue descriptor. -/
structure QDesc where
  rbase : Nat
  rsize : Nat
  prio : Nat
  priv : Bool
  diag : Bool
  devw : Bool
  en : Bool
  widx : BitVec 32
  ridx : BitVec 32
  err : Nat
  save : Nat
  sstride : Nat
  deriving DecidableEq, Repr

/-- Its bits; DIAG and DEVW read as 0 without their features (18 R375). -/
def State.qdescOf (s : State) (x : Nat) : QDesc :=
  { rbase := fld x 0 57, rsize := fld x 64 4, prio := fld x 68 2, priv := fld x 70 1 == 1, diag := fld x 71 1 == 1 && s.feature 3
    devw := fld x 72 1 == 1 && s.feature 5, en := fld x 73 1 == 1, widx := .ofNat 32 (fld x 96 32), ridx := .ofNat 32 (fld x 128 32)
    err := fld x 160 8, save := fld x 176 57, sstride := fld x 233 7 }

/-- Read a queue's descriptor, after the writes to it that wait. -/
def State.qdesc (s : State) (p : Partition) (q : Nat) : Except FarAns QDesc :=
  if s.ppOwes p.p (p.qaddr q) 64 then .error .busy
  else
    match s.ppRead p (p.qaddr q) 64 with
    | .ok bs => .ok (s.qdescOf (leNat bs))
    | .error e => .error e

/-- The hardware slot that a fault record of a queue's packet processor names; 0 for a queue that is not mapped. -/
def State.hwSlotOf (s : State) (part q : Nat) : Nat := ((s.slotOf part q).map (·.n)).getD 0

/-- A queue error: ERR, the queue stops, the queue interrupt (R315). What has started, and saved contexts, stay. -/
def State.queueError (s : State) (p : Partition) (q code : Nat) : State :=
  State.stopQueue (s.ppWrite p (s.hwSlotOf p.p q) (p.qaddr q + 20) [.ofNat 8 code]) p.p q

/-- The descriptor of a queue lies on a page that translation does not serve: a fault, and ERR 0x05 (16 R333, R338). -/
def State.tableFault (s : State) (p : Partition) (q : Nat) : FarAns → State
  | .bad r l e => State.queueError (s.ppFault p.p (s.hwSlotOf p.p q) (p.qaddr q) r l e 0) p q 5
  | _ => s

/-- A queue becomes pending. -/
def State.makePending (s : State) (part q prio : Nat) (cursor : Option Nat) (packets : List Packet) (replay : Option (List Nat × Nat)) : State :=
  let mine : PendingQ → Bool := fun x => x.part == part && x.q == q
  if (s.slotOf part q).isSome then s
  else if s.pendq.any mine then { s with pendq := s.pendq.map fun x => if mine x && x.idle then { x with idle := false, since := s.time } else x }
  else { s with pendq := s.pendq ++ [{ part := part, q := q, since := s.time, prio := prio, cursor := cursor, packets := packets, replay := replay
                                       idle := false }] }

/-! ### Notify writes (R311) -/

/-- A notify write that reaches a queue. Its effect on a descriptor that is not served is a queue error; one that moves holds the host's
writes (04 R112); where WIDX may not be written the queue stops and nothing is pending (16 R333). -/
def State.notify (s : State) (part q : Nat) (x : Nat) : State :=
  match s.part? part with
  | none => s
  | some p =>
    if !s.boot.lock || decide (p.qtcount ≤ q) then s
    else
      match s.qdesc p q with
      | .error e => s.tableFault p q e
      | .ok d =>
        let new := BitVec.ofNat 32 x
        if !d.en then s
        else if d.rsize < 4 ∨ 16 < d.rsize then s.queueError p q 2
        else if x / 2 ^ 32 ≠ 0 ∨ new = d.widx ∨ 2 ^ 31 ≤ (new - d.widx).toNat then s
        else if 2 ^ d.rsize < (new - d.ridx).toNat then s.queueError p q 1
        else
          let refused := s.farKey p p.ppUnit true (p.qaddr q + 12)
          let s := s.ppWrite p (s.hwSlotOf part q) (p.qaddr q + 12) (leBytes 4 new.toNat)
          match refused with
          | .bad _ _ _ => s
          | _ => if d.err = 0 then s.makePending part q d.prio none [] none else s

/-- NOTIFY_WRITE. -/
def execNotifyWrite (part q : Nat) (x : DWord) (s : State) : Out := .next (s.inOrder (.notify part q x) (s.notify part q x.toNat))

/-! ### Packets (R312, R313) -/

/-- Bytes of a packet from `n` up are zero. -/
def packetRest (x n : Nat) : Bool := x / 2 ^ (8 * n) == 0

/-- The fields of a packet are as R312 has them. -/
def State.packetOk (s : State) (x : Nat) : Bool :=
  let type := fld x 0 8
  fld x 14 18 == 0 &&
    (if type = 0 ∨ type = 4 then packetRest x 4
     else if type = 1 then
      fld x 32 32 != 0 && fld x 64 8 == 0 && fld x 121 7 == 0 && fld x 192 3 == 0 && fld x 249 7 == 0 && packetRest x 41
        && [0, 2, 3, 4].any (· == fld x 320 8) && (fld x 320 8 == 0 || s.feature 2)
     else if type = 2 then fld x 32 32 == 0 && fld x 64 3 == 0 && fld x 121 7 == 0 && packetRest x 24
     else if type = 3 then
      s.feature 4 && fld x 32 32 == 0 && fld x 121 7 == 0 && decide (1 ≤ fld x 128 8) && decide (fld x 128 8 ≤ 64)
        && decide (1 ≤ fld x 136 8) && decide (fld x 136 8 ≤ 4) && packetRest x 18
     else false)

/-- Replace a slot's mapped queue. -/
def State.setMapped (s : State) (n : Nat) (m : Mapped) : State :=
  { s with hws := s.hws.map fun (h : HwSlot) => if h.n == n then { h with queue := some m } else h }

/-- RIDX follows the packets that are consumed in ring order, and those that are over are forgotten (R313). -/
def State.settleRidx (s : State) (n : Nat) : State :=
  match s.hw? n with
  | none => s
  | some h =>
    match h.queue, s.part? h.part with
    | some m, some p =>
      let first := match m.packets.find? fun x => !x.consumed with
        | some x => x.idx
        | none => m.cursor
      State.ppWrite (s.setMapped n { m with packets := m.packets.filter fun x => !(x.done && x.consumed) }) p n (p.qaddr m.q + 16) (leBytes 4 first)
    | _, _ => s

/-- Change a slot's packet. -/
def State.setPacket (s : State) (n : Nat) (k : Packet) : State :=
  match (s.hw? n).bind (·.queue) with
  | none => s
  | some m => State.settleRidx (s.setMapped n { m with packets := replaceBy (·.idx == k.idx) k m.packets }) n

/-- Contexts that are to be restored before the queue does anything more (15 R320). -/
def State.toRestore (s : State) (part q : Nat) : Bool := (s.savedOf part q).any fun x => !x.held

/-- The completion word of a packet lies on a page that moves: the packet completes later (16 R335). -/
def State.cplBusy (s : State) (part : Nat) (k : Packet) : Bool :=
  k.type == 1 && (k.words.getD 3 0) != 0 && (s.part? part).any fun p => s.farKey p p.ppUnit true (k.words.getD 3 0).toNat == .busy

/-- The completion of a packet: its release needs nothing more here, then the completion word and the interrupt. -/
def State.completePacket (s : State) (n part q : Nat) (k : Packet) : State :=
  match s.part? part with
  | none => s
  | some p =>
    let a := if k.type = 1 then (k.words.getD 3 0).toNat else 0
    let done := fun (s : State) => State.setPacket (if k.header / 2 ^ 13 % 2 = 1 then s.msix (10 + part) else s) n { k with done := true, consumed := true }
    if a = 0 then done s
    else
      match s.farKey p p.ppUnit true a with
      | .key x => done (s.write (cellsLE x 8 (s.le x 8 + (k.words.getD 4 0).toNat)))
      | .bad r l e => State.queueError (done (s.ppFault part n a r l e 1)) p q 5
      | .busy => s

/-- What a slot's processor finds when it looks at the next packet. -/
inductive PacketAns | none | error (code : Nat) (s : State) | packet (x : Nat)

/-- The next packet that may start: the slot is mapped and runs, no context of the queue is to be restored, no
reservation waits, and a barrier's earlier packets are complete. -/
def State.nextPacket (s : State) (h : HwSlot) (m : Mapped) (p : Partition) : PacketAns :=
  match s.qdesc p m.q with
  | .error (.bad r l e) => if m.stopped then .none else .error 5 (s.ppFault h.part h.n (p.qaddr m.q) r l e 0)
  | .error _ => .none
  | .ok d =>
    if m.stopped || d.err != 0 || m.evicting || BitVec.ofNat 32 m.cursor == d.widx || s.toRestore h.part m.q || h.resv.any (·.waiting) then .none
    else
      let a := farWrap (d.rbase + 64 * (m.cursor % 2 ^ d.rsize))
      match s.ppRead p a 64 with
      | .error (.bad r l e) => .error 5 (s.ppFault h.part h.n a r l e 0)
      | .error _ => .none
      | .ok bs =>
        let x := leNat bs
        if !s.packetOk x then .error 2 s
        else if fld x 8 1 = 1 ∧ m.packets.any (fun k => !k.done) then .none
        else .packet x

/-- A started packet. -/
def packetOf (idx x : Nat) : Packet :=
  { idx := idx, type := fld x 0 8, header := fld x 0 32, words := (List.range 8).map fun i => .ofNat 64 (fld x (64 * i) 64)
    launch := none, placed := false, done := false, consumed := false, pollAt := 0 }

/-- Start a slot's next packet if it is of a type; an invalid one stops the queue. -/
def startPacket (s : State) (n type : Nat) (k : State → HwSlot → Mapped → Partition → Packet → State) : Out :=
  match s.hw? n with
  | none => .next s
  | some h =>
    match h.queue, s.part? h.part with
    | some m, some p =>
      match s.nextPacket h m p with
      | .none => .next s
      | .error code s => .next (s.queueError p m.q code)
      | .packet x =>
        if fld x 0 8 ≠ type then .next s
        else
          let w := packetOf m.cursor x
          let m := { m with cursor := (m.cursor + 1) % 2 ^ 32, packets := m.packets ++ [w] }
          .next (k (s.setMapped n m) h m p w)
    | _, _ => .next s

/-- PACKET_NOOP. -/
def execPacketNoop (n : Nat) (s : State) : Out := startPacket s n 0 fun s h m _ k => s.completePacket n h.part m.q k

/-- PACKET_WAIT: the word is read from now on. -/
def execPacketWait (n : Nat) (s : State) : Out := startPacket s n 2 fun s _ _ _ k => s.setPacket n { k with pollAt := s.time }

/-- WAIT_PACKET_POLL. -/
def execWaitPacketPoll (n idx : Nat) (s : State) : Out :=
  match s.hw? n with
  | none => .next s
  | some h =>
    match h.queue, s.part? h.part with
    | some m, some p =>
      match m.packets.find? fun k => k.idx == idx && k.type == 2 && !k.done with
      | none => .next s
      | some k =>
        if s.time < k.pollAt then .next s
        else
          let a := (k.words.getD 1 0).toNat
          match s.ppRead p a 8 with
          | .error (.bad r l e) => .next (State.queueError (State.setPacket (s.ppFault h.part n a r l e 0) n { k with done := true }) p m.q 5)
          | .error _ => .next (s.setPacket n { k with pollAt := s.time + 1000 * nsUnits })
          | .ok bs =>
            if (k.words.getD 2 0).toNat ≤ leNat bs then .next (s.completePacket n h.part m.q k)
            else .next (s.setPacket n { k with pollAt := s.time + 1000 * nsUnits })
    | _, _ => .next s

/-! ### Kernel packets (R313, R316, R317) -/

/-- What reading a packet's bindings gives: their descriptors, or a queue error. -/
inductive BindAns | ok (ds : List Nat) | error (code : Nat) (s : State) | busy

/-- The check of a binding's fetch (R66, R197, R198): 0 for none, else the cause. -/
def bindCheck (b : Binding) (folio : Nat) (x : Nat) : Nat :=
  let d := descOf x
  if b.plane % 768 ≠ 0 then cALIGN
  else
    match d.check true b.plane folio (d.orgN b.origins 0) with
    | some n => n
    | none =>
      let its := d.items { plane := true, fetch := true } b.plane b.origins none
      if itemsOk d (spanOf (itemLocs its ++ d.padBytes b.plane)) (itemUnits .fetch its) then 0 else cDESCRIPTOR

/-- Read and check the descriptors of a record's bindings. -/
def State.readBinds (s : State) (p : Partition) (hw : Nat) (k : KRec) : List Binding → BindAns
  | [] => .ok []
  | b :: bs =>
    if b.isEmpty then
      match s.readBinds p hw k bs with
      | .ok ds => .ok (0 :: ds)
      | a => a
    else
      match s.ppRead p b.desc 64 with
      | .error (.bad r l e) => .error 5 (s.ppFault p.p hw b.desc r l e 0)
      | .error _ => .busy
      | .ok xs =>
        if bindCheck b k.folio (leNat xs) ≠ 0 then .error 4 s
        else
          match s.readBinds p hw k bs with
          | .ok ds => .ok (leNat xs :: ds)
          | a => a

/-- A launch as a kernel packet makes it. -/
def Launch.of (uid : Nat) (h : HwSlot) (m : Mapped) (w : Packet) (k : KRec) (ds : List Nat) : Launch :=
  { uid := uid, hw := h.n, part := h.part, queue := m.q, packet := w.idx, krec := k, kargs := w.words.getD 2 0
    teams := (w.words.getD 0 0).toNat / 2 ^ 32, cset := (w.words.getD 5 0).toNat % 256, next := 0, priv := m.priv, diag := m.diag
    prio := m.prio, held := none, lastCore := 0, descs := ds, sealed := false, ended := false, outstanding := 0 }

/-- PACKET_KERNEL: the record and its bindings are checked before any team is placed (R315, R316); while a page moves
the packet has not started. -/
def execPacketKernel (n : Nat) (s : State) : Out :=
  startPacket s n 1 fun t h m p w =>
    let ka := (w.words.getD 1 0).toNat
    let ca := (w.words.getD 3 0).toNat
    match s.ppRead p ka 256 with
    | .error (.bad r l e) => State.queueError (t.ppFault h.part n ka r l e 0) p m.q 5
    | .error _ => s
    | .ok bs =>
      let k := krecOf ka (leNat bs)
      let cset := (w.words.getD 5 0).toNat % 256
      if !s.krecOk (leNat bs) || (k.onPair && decide (2 < cset)) then t.queueError p m.q 3
      else
        match t.readBinds p n k k.binds with
        | .busy => s
        | .error code u => u.queueError p m.q code
        | .ok ds =>
          match if ca = 0 then FarAns.key 0 else s.farKey p p.ppUnit true ca with
          | .busy => s
          | .bad r l e => State.queueError (t.ppFault h.part n ca r l e 1) p m.q 5
          | .key _ =>
            let l := Launch.of s.uid h m w k ds
            State.setPacket { t with launches := t.launches ++ [l], uid := t.uid + 1 } n { w with launch := some l.uid }

/-- A packet's launch is over: every team placed has left its place, and none is saved. -/
def State.launchOver (s : State) (l : Launch) : Bool :=
  l.next == l.teams && !s.teams.any (·.launch == l.uid) && !s.saved.any fun x => x.launches.any (· == l.uid)

/-- PACKET_COMPLETE (R313). -/
def execPacketComplete (n idx : Nat) (s : State) : Out :=
  match s.hw? n with
  | none => .next s
  | some h =>
    match h.queue with
    | none => .next s
    | some m =>
      match m.packets.find? fun k => k.idx == idx && k.type == 1 && !k.done with
      | none => .next s
      | some k =>
        match k.launch.bind s.launch? with
        | none => .next s
        | some l =>
          if s.launchOver l && !s.cplBusy h.part k then
            .next (State.completePacket { s with launches := s.launches.filter (·.uid != l.uid) } n h.part m.q k)
          else .next s

/-! ### Placement (R321, R322) -/

/-- A launch may place: its slot is mapped to its queue and not being evicted, and its contexts are back. -/
def State.mayPlace (s : State) (l : Launch) : Bool :=
  decide (l.next < l.teams) && !s.toRestore l.part l.queue
    && (s.hw? l.hw).any fun h => h.queue.any fun m => m.q == l.queue && !m.evicting

/-- The packet of a launch is consumed once its last team is placed. -/
def State.afterPlace (s : State) (lid : Nat) : State :=
  match s.launch? lid with
  | none => s
  | some l =>
    if l.next < l.teams then s
    else
      match (((s.hw? l.hw).bind (·.queue)).bind fun m => m.packets.find? (·.idx == l.packet)) with
      | some k => s.setPacket l.hw { k with placed := true, consumed := true }
      | none => s

/-- TEAM_PLACE: the next team, or set, of a launch; with no room the launch is held. -/
def execTeamPlace (lid : Nat) (s : State) : Out :=
  match s.launch? lid with
  | none => .next s
  | some l =>
    if !s.mayPlace l || l.held.isSome then .next s
    else
      match s.placeNext l with
      | some t => .next (t.afterPlace lid)
      | none => .next (s.setLaunch { l with held := some s.cycle })

/-- A held launch comes before another (R322). -/
def Launch.before (l m : Launch) : Bool :=
  decide (m.prio < l.prio) || (m.prio == l.prio && (decide (l.held.getD 0 < m.held.getD 0) || (l.held == m.held && decide (l.uid ≤ m.uid))))

/-- Launches in order of `before`. -/
def sortLaunches : List Launch → List Launch
  | [] => []
  | l :: ls =>
    let r := sortLaunches ls
    r.filter (fun m => !l.before m) ++ l :: r.filter fun m => l.before m

/-- PLACEMENT_RETRY: every held launch of a partition tries once more, in order. -/
def execPlacementRetry (part : Nat) (s : State) : Out :=
  .next ((sortLaunches (s.launches.filter fun l => l.part == part && l.held.isSome)).foldl (fun s l =>
    if s.mayPlace l then
      match s.placeNext l with
      | some t => t.afterPlace l.uid
      | none => s
    else s) s)

/-- BINDING_ISSUE: the next binding of a team (R317). It waits for the chase table, and for the allowance unless
nothing is outstanding. -/
def execBindingIssue (team : Nat) (s : State) : Out :=
  match s.team? team with
  | none => .next s
  | some t =>
    match nth t.krec.binds t.bound, s.launch? t.launch, t.seats.head? with
    | some b, some l, some x =>
      let t' := { t with bound := t.bound + 1 }
      if b.isEmpty then .next (s.setTeam t')
      else
        let d := descOf (l.descs.getD t.bound 0)
        let its := d.items { plane := true, fetch := true } b.plane b.origins none
        let pads := d.padBytes b.plane
        let slot := ((s.live team).head?.map (·.slot)).getD 0
        let m := Cmd.of s.uid .fetch (.group x.core slot) x.core t [recvOf x.core x.folio d.arrw (some d.resw)]
        let m := { m with items := its, pads := pads, units := itemUnits .fetch its, bytes := itemCount its, esize := d.esize
                          efmt := d.efmt, desc := d.raw, spans := mkSpan x.core x.folio true (spanOf (itemLocs its ++ pads)), bindingOf := some t.bound }
        let o := s.outstanding team
        let fits := (o.1 == 0 && o.2 == 0) || s.allowance m == 0
        if !s.chaseFits m || !fits then .next s
        else
          let s := State.initWord { s with uid := s.uid + 1 } (storeKey x.core (x.folio + 16 * d.arrw)) m.bytes
          .next (State.sendCmd (s.setTeam t') m)
    | _, _, _ => .next s

/-! ### Lane reservations (R325, R326, 17 R355) -/

/-- Lanes pinned by the other slots: endpoint, plane, transmit slot. -/
def State.pins (s : State) (n : Nat) : List (Nat × Nat × Nat) :=
  (s.hws.filter fun h => h.n != n).flatMap fun h => match h.resv with
    | some v => v.pinned
    | none => []

/-- The planes tried for an endpoint, in order. -/
def pinPlanes (ep : Nat) : List Nat := (List.range 256).map fun i => (8 * ep + i) % 256

/-- Pin `n` lanes for an endpoint, on distinct planes. -/
def State.pinEndpoint (s : State) (taken : List (Nat × Nat × Nat)) (ep : Nat) : Nat → List Nat → Option (List (Nat × Nat × Nat))
  | 0, _ => some []
  | _ + 1, [] => none
  | n + 1, pl :: pls =>
    let slot := [0, 1, 2, 3].find? fun k => s.moduleLane ep pl && (s.planeLane pl k).isSome && !taken.any fun x => x.2.1 == pl && x.2.2 == k
    if taken.any fun x => x.1 == ep && x.2.1 == pl then s.pinEndpoint taken ep (n + 1) pls
    else
      match slot with
      | none => s.pinEndpoint taken ep (n + 1) pls
      | some k => (s.pinEndpoint taken ep n pls).map ((ep, pl, k) :: ·)

/-- Pin the lanes of a whole request. -/
def State.pinAll (s : State) (taken : List (Nat × Nat × Nat)) (lanes : Nat) : List Nat → Option (List (Nat × Nat × Nat))
  | [] => some []
  | e :: es =>
    match s.pinEndpoint taken e lanes (pinPlanes e) with
    | none => none
    | some xs => (s.pinAll (taken ++ xs) lanes es).map (xs ++ ·)

/-- The lease of a reservation: 1 ms. -/
def leaseUnits : Nat := 1000000 * nsUnits

/-- A request is above its partition's share, whatever the partition has pinned (R325): ERR 0x06. -/
def State.overShare (s : State) (h : HwSlot) (v : Resv) : Bool :=
  (s.part? h.part).any fun p => decide (p.pinShare < v.ends.length * v.lanes)

/-- A request does not fit beside what the partition's other slots have pinned: it waits (R325). -/
def State.shareFull (s : State) (h : HwSlot) (v : Resv) : Bool :=
  (s.part? h.part).any fun p =>
    decide (p.pinShare < sumL ((s.hws.filter fun g => g.part == h.part && g.n != h.n).map fun g => (g.resv.map (·.pinned.length)).getD 0)
      + v.ends.length * v.lanes)

/-- Pin a slot's waiting reservation if all its lanes are free, and complete its packet. -/
def State.tryPin (s : State) (n : Nat) : State :=
  match s.hw? n with
  | none => s
  | some h =>
    match h.resv with
    | none => s
    | some v =>
      let others := s.pins n
      if !v.waiting || decide (256 < others.length + v.ends.length * v.lanes) || s.shareFull h v then s
      else
        match s.pinAll others v.lanes v.ends with
        | none => s
        | some xs =>
          let s := s.setHw { h with resv := some { v with pinned := xs, waiting := false, until_ := s.time + leaseUnits } }
          match h.queue with
          | none => s
          | some m =>
            match m.packets.find? fun k => k.type == 3 && !k.done with
            | some k => s.completePacket n h.part m.q k
            | none => s

/-- Address of the first byte that cannot be read in a list of at most 64 bytes, which may cross from one unit to the next (16 R337). -/
def State.ppBad (s : State) (p : Partition) (va n : Nat) : Nat :=
  let k := min n (65536 - va % 65536)
  if (s.ppRead p va k).toBool then farWrap (va + k) else va

/-- A slot's reservation is released, and nothing of it is asked for again. -/
def State.releaseLanes (s : State) (n : Nat) : State :=
  { s with hws := s.hws.map fun (g : HwSlot) =>
      if g.n == n then { g with resv := none, queue := g.queue.map fun (q : Mapped) => { q with replay := none } } else g }

/-- PACKET_RESERVE_LANES: a second reservation first releases the first, also where it is then refused with ERR 0x06; a packet whose list
cannot be read or names no endpoint releases nothing (log 35). -/
def execPacketReserveLanes (n : Nat) (s : State) : Out :=
  startPacket s n 3 fun t h m p w =>
    let la := (w.words.getD 1 0).toNat
    let x := (w.words.getD 2 0).toNat
    match s.ppRead p la (fld x 0 8) with
    | .error (.bad r l e) => State.queueError (t.ppFault h.part n (s.ppBad p la (fld x 0 8)) r l e 0) p m.q 5
    | .error _ => s
    | .ok bs =>
      let es := bs.map (·.toNat)
      if es.any fun e => decide (128 ≤ e) then t.queueError p m.q 2
      else
        let v : Resv := { ends := es, lanes := fld x 8 8, pinned := [], until_ := 0, waiting := true, lapsing := false }
        if t.overShare h v then State.queueError (t.releaseLanes n) p m.q 6
        else
          let t := { t with hws := t.hws.map fun (g : HwSlot) => if g.n == n then
            { g with resv := some v, queue := g.queue.map fun (q : Mapped) => { q with replay := some (es, fld x 8 8) } } else g }
          t.tryPin n

/-- PACKET_RELEASE_LANES. -/
def execPacketReleaseLanes (n : Nat) (s : State) : Out :=
  startPacket s n 4 fun t h m _ w =>
    State.completePacket (t.releaseLanes n) n h.part m.q w

/-- How late a tick may apply and still be the one that renews a lease: the spec takes ticks as 1 ms apart, the model's fall in whole
press cycles, and the delay that a member subtracts is free up to 100 ns (log 35). -/
def renewalSlack : Nat := 200 * nsUnits

/-- The cadence tick that renews the lease of a mapped slot is under way (R326). -/
def State.renewalDue (s : State) (v : Resv) : Bool := s.cadence.pending.any fun x => decide (x.2.2 ≤ v.until_ + renewalSlack)

/-- The lease of a slot's reservation is over: its 1 ms has run out without renewal (R326). -/
def State.leaseOver (s : State) (h : HwSlot) (v : Resv) : Bool :=
  !v.waiting && decide (v.until_ ≤ s.time) && (v.lapsing || h.queue.isNone || !s.renewalDue v)

/-- LEASE_EXPIRE. -/
def execLeaseExpire (n : Nat) (s : State) : Out :=
  match s.hw? n with
  | none => .next s
  | some h => .next (if h.resv.any (s.leaseOver h) then s.setHw { h with resv := none } else s)

/-! ### Unmapping (R319, R315) -/

/-- A queue leaves its slot with its packets, reservation request and contexts, and is pending again if it has any of them; a stopped one
only for its saved contexts (R318). A request for lanes that waits goes with it; a lease runs out (R326). -/
def State.vacate (s : State) (h : HwSlot) (m : Mapped) : State :=
  let resv := match h.resv with
    | some v => if v.waiting then none else some { v with lapsing := true }
    | none => none
  let s := s.setHw { h with queue := none, resv := resv }
  let entries := !m.stopped && (!m.packets.isEmpty || match (s.part? h.part).map fun p => s.qdesc p m.q with
    | some (.ok d) => BitVec.ofNat 32 m.cursor != d.widx
    | some (.error .busy) => true
    | _ => false)
  if entries || !(s.savedOf h.part m.q).isEmpty then s.makePending h.part m.q m.prio (some m.cursor) m.packets m.replay
  else if m.stopped || m.replay.isNone then s
  else { s with pendq := s.pendq ++ [{ part := h.part, q := m.q, since := s.time, prio := m.prio, cursor := some m.cursor, packets := []
                                       replay := m.replay, idle := true }] }

/-- A mapped queue has teams resident, or packets that are not complete. -/
def State.slotBusy (s : State) (h : HwSlot) (m : Mapped) : Bool :=
  (s.teams.any fun t => (s.launch? t.launch).any fun l => l.hw == h.n) || m.packets.any fun k => !k.done

/-- IDLE_UNMAP: no pending entry, team or saved context; or a stopped queue whose teams have exited. -/
def execIdleUnmap (n : Nat) (s : State) : Out :=
  match s.hw? n with
  | none => .next s
  | some h =>
    match h.queue, s.part? h.part with
    | some m, some p =>
      if m.evicting then .next s
      else
        let empty := match s.qdesc p m.q with
          | .ok d => BitVec.ofNat 32 m.cursor == d.widx
          | .error .busy => false
          | .error _ => true
        let teams := s.teams.any fun t => (s.launch? t.launch).any fun l => l.hw == n
        let idle := empty && !s.slotBusy h m && (s.savedOf h.part m.q).isEmpty
        let stopped := m.stopped && !teams && !m.packets.any fun k => !k.done && (k.launch.bind s.launch?).any s.launchOver
        .next (if idle || stopped then s.vacate h m else s)
    | _, _ => .next s

end Sys2Proof.Machine
end

