-- ==== Sys2Proof/Machine/Tasks.lean ====
section
/-! DEFINITION. GROW and SHRINK (11 R257 to R259), tasks and the imposers (R260 to R265, 15 R327), and LAUNCH (R266). -/

namespace Sys2Proof.Machine

/-! ### GROW and SHRINK -/

/-- A window can be extended to a count now. -/
def State.growFits (s : State) (g : Group) (n : Nat) : Bool :=
  let a := windowBytes g.vregs g.width
  let b := windowBytes n g.width
  decide (g.win + b ≤ storeSize) && !clash ((s.regions g.core).filter (· != (g.win, a))) (g.win + a) (b - a)

/-- Take the bytes: the added registers read as zero (R254). -/
def State.growTake (s : State) (g : Group) (n : Nat) : State :=
  State.zero (s.setGroup { g with vregs := n }) (g.vkey g.vregs 0) ((n - g.vregs) * 4 * g.width)

/-- GROW completes with a status. -/
def State.growEnd (s : State) (c : Cur) (d : SReg) (x : Nat) : State := State.resume (s.setSregA c.agent d.toNat (.ofNat 64 x)) c

/-- GROW. -/
def execGrow (d : SReg) (m : Byte) (s : State) : Out :=
  withGroup s fun c g =>
    s.unlocked c <|
      let n := m.toNat + 1
      if n ≤ g.vregs then s.growEnd c d 0
      else if s.growFits g n then State.growEnd (s.growTake g n) c d 0
      else State.wait { s with uid := s.uid + 1 } c (.grow c d n s.uid)

/-- A GROW on a core that waits for longer than one that began at `since`, and fits (R257: the order of the first attempts). -/
def State.growBefore (s : State) (core since : Nat) : Bool :=
  s.groups.any fun g => g.core == core && (match g.run with
    | .waiting (.grow _ _ n t) => decide (t < since) && s.growFits g n
    | _ => false)

/-- GROW_RECHECK (R257). -/
def execGrowRecheck (core slot : Nat) (s : State) : Out :=
  match s.group? core slot with
  | none => .next s
  | some g =>
    match g.run with
    | .waiting (.grow c d n t) =>
      .next (if s.growFits g n && !s.growBefore core t then State.growEnd (s.growTake g n) c d 0 else s)
    | _ => .next s

/-- A group waits for space: in GROW, or at a HANDOFF (R258, R252). -/
def State.waitsSpace (s : State) (g : Group) : Bool :=
  match g.run with
  | .waiting (.grow _ _ n _) => !s.growFits g n
  | .waiting (.handoff _ _ _ true) =>
    match s.team? g.team with
    | some t => t.hand.any fun h => !s.handFits t h
    | none => false
  | _ => false

/-- ALL_WAITING_FAILURE: the waiter in the highest slot fails. -/
def execAllWaitingFailure (core : Nat) (s : State) : Out :=
  let gs := s.groups.filter fun g => g.core == core && g.run != .exited
  if gs.isEmpty || gs.any fun g => !s.waitsSpace g then .next s
  else
    match gs.find? fun g => g.slot == maxL (gs.map (·.slot)) with
    | none => .next s
    | some g =>
      match g.run with
      | .waiting (.grow c d _ _) => .next (s.growEnd c d 0x10)
      | _ => .next (s.handTrap g.team cSHAPE 0 0)

/-- A commit without the bytes of [lo, hi). Its flags still reach %fstat: R259 discards commits to registers, R47 ties the flags to the
instruction's commit, and the spec does not say which holds (DESIGN CHOICE, log 35). -/
def Commit.without (lo hi : Nat) (m : Commit) : Commit := { m with cells := m.cells.filter fun c => !(decide (lo ≤ c.1) && decide (c.1 < hi)) }

/-- A local access without what it does to the keys [lo, hi) of removed registers. -/
def Local.without (lo hi : Nat) (l : Local) : Option Local :=
  let out := fun (k : Nat) => !(decide (lo ≤ k) && decide (k < hi))
  match l.op with
  | .load sx dst reg => some { l with op := .load sx (dst.filter out) reg }
  | .atomic op t b x dst reg => some { l with op := .atomic op t b x (dst.filter out) reg }
  | _ => l.dropIn lo (hi - lo)

/-- SHRINK: commits and stores to the removed registers are discarded, the freed bytes zeroed. Bytes of removed registers
that stay in the window are no group's until a GROW adds them. R259's 'those bytes' are taken as all bytes of the removed registers: a store
in flight to one that stays inside the rounded window is dropped too, which a GROW right after shows (DESIGN CHOICE, log 35). -/
def execShrink (m : Byte) (s : State) : Out :=
  withGroup s fun c g =>
    let n := m.toNat + 1
    if g.vregs ≤ n then s.finish c
    else
      let lo := g.vkey n 0
      let hi := g.vkey g.vregs 0
      let a := windowBytes g.vregs g.width
      let b := windowBytes n g.width
      let s := { s with
        commits := s.commits.map fun (x : Commit) => if x.agent == c.agent then x.without lo hi else x
        locals := s.locals.filterMap fun (l : Local) => if l.agent == c.agent then l.without lo hi else some l }
      State.finish ((s.setGroup { g with vregs := n }).freeRegion g.core (g.win + b) (a - b)) c

/-! ### Records (R260 to R265) -/

/-- Capacity of a ready queue and of a pending table. -/
def readyMax : Nat := 4096
/-- Entries of a pending table. -/
def pendingMax : Nat := 1024

/-- Room in a cluster's ready queue. -/
def State.readyRoom (s : State) (c : Nat) : Nat := readyMax - (s.tready.filter (·.cluster == c)).length

/-- The stalled entry of a cluster whose count reached zero first (R264). -/
def State.stalled (s : State) (c : Nat) : Option TaskRec :=
  let xs := s.tpending.filter fun x => x.cluster == c && x.zeroAt.isSome
  xs.find? fun x => xs.all fun y => decide (x.zeroAt.getD 0 ≤ y.zeroAt.getD 0)

/-- Move stalled entries into free positions. -/
def State.drainPending (s : State) (c : Nat) : Nat → State
  | 0 => s
  | n + 1 =>
    match s.stalled c with
    | none => s
    | some x =>
      if s.readyRoom c = 0 then s
      else State.drainPending { s with tready := s.tready ++ [{ x with zeroAt := none }], tpending := s.tpending.filter (· != x) } c n

/-- The domain of a launch ends (R261). -/
def State.domainEnd (s : State) (lid : Nat) : State :=
  match s.launch? lid with
  | none => s
  | some l =>
    let mine : TaskRec → Bool := fun x => x.launch == lid
    if l.sealed && !l.ended && l.outstanding == 0 && !s.tready.any mine && !s.tpending.any mine && !s.ttransit.any mine then
      s.setLaunch { l with ended := true }
    else s

/-- Status in [7:0], and a value in [63:32] (R245). -/
def statusWord (code hi : Nat) : DWord := .ofNat 64 (code + 2 ^ 32 * hi)

/-- Complete with a status. -/
def State.status (s : State) (c : Cur) (d : SReg) (x : DWord) : State := State.finish (s.setSregA c.agent d.toNat x) c

/-- A read of a record at issue, before a release (R263, R265). -/
def State.readRecord (s : State) (c : Cur) (g : Group) (a : SReg) (k : Nat → State) : State :=
  s.readAtIssue c g ap0 true ((s.sreg g a.toNat).toNat % 2 ^ 32) 64 k

/-- A domain's ended or sealed record of a launch. -/
def State.sealDomain (s : State) (lid : Nat) (x : Nat) : State :=
  match s.launch? lid with
  | some l => if fld x 257 1 = 1 then s.setLaunch { l with sealed := true } else s
  | none => s

/-- TASKPUSH (R263). A new pending entry takes the lowest free index: the spec does not say which (DESIGN CHOICE, log 20). -/
def execTaskpush (d a b : SReg) (s : State) : Out :=
  withGroup s fun c g =>
    let n := (s.sreg g b.toNat).toNat
    if 2 ^ 16 ≤ n then s.trap c cILLOP
    else
      s.readRecord c g a fun x =>
        match s.launchOf g with
        | none => s
        | some l =>
          let x := x - 2 ^ 256 * fld x 256 1
          let cl := clusterOf g.core
          let s := s.drainPending cl pendingMax
          let r : TaskRec := { cluster := cl, launch := l.uid, image := .ofNat 512 x, idx := 0, count := n, zeroAt := none }
          if l.ended then s.status c d (statusWord 0x17 0)
          else if n = 0 then
            if s.readyRoom cl = 0 then s.status c d (statusWord 0x12 0)
            else State.status (State.sealDomain { s with tready := s.tready ++ [r] } l.uid x) c d (statusWord 0 0)
          else
            match (List.range pendingMax).find? fun i => !s.tpending.any fun y => y.cluster == cl && y.idx == i with
            | none => s.status c d (statusWord 0x13 0)
            | some i =>
              State.status (State.sealDomain { s with tpending := s.tpending ++ [{ r with idx := i }] } l.uid x) c d (statusWord 0 (i + 1024 * cl))

/-- What TASKDONE does with one successor handle: the state, and whether the handle was bad. A count that is zero already
stays (log 20). -/
def State.doneHandle (s : State) (lid h : Nat) : State × Bool :=
  if h = 2 ^ 32 - 1 then (s, false)
  else
    match s.tpending.find? fun y => y.cluster == h / 1024 && y.idx == h % 1024 && y.launch == lid with
    | none => (s, true)
    | some y =>
      if 2 ^ 17 ≤ h then (s, true)
      else if y.count = 0 then (s, false)
      else if 1 < y.count then ({ s with tpending := replaceBy (· == y) { y with count := y.count - 1 } s.tpending }, false)
      else
        let s := { s with tpending := replaceBy (· == y) { y with count := 0, zeroAt := some s.uid } s.tpending, uid := s.uid + 1 }
        (s.drainPending y.cluster pendingMax, false)

/-- TASKDONE (R264). -/
def execTaskdone (d a : SReg) (s : State) : Out :=
  withGroup s fun c g =>
    s.readRecord c g a fun x =>
      match s.launchOf g with
      | none => s
      | some l =>
        let s := s.setLaunch { l with outstanding := l.outstanding - 1 }
        let r0 := s.doneHandle l.uid (fld x 192 32)
        let r1 := r0.1.doneHandle l.uid (fld x 224 32)
        (r1.1.domainEnd l.uid).status c d (statusWord (if r0.2 || r1.2 then 0x14 else 0) 0)

/-- A destination entry over an answer slot fits the chase table. -/
def State.slotFits (s : State) (core off : Nat) : Bool :=
  decide ((s.chases.filter (·.span.core == core)).length < 64)
    && !s.chases.any fun e => !e.span.dest && e.span.overlaps core off 64

/-- Register a TASKQ request and complete with status 0. -/
def State.askTask (s : State) (c : Cur) (g : Group) (d : SReg) (slot word : Nat) : State :=
  match s.team? g.team with
  | none => s
  | some t =>
    let r : TaskReq := { uid := s.uid, cluster := clusterOf g.core, launch := t.launch, team := t.uid, core := g.core, slot := slot, word := word }
    let s := { s with
      uid := s.uid + 1, treqs := s.treqs ++ [r]
      chases := s.chases ++ [Chase.mk { core := g.core, lo := slot, hi := slot + 64, dest := true } t.uid s.uid] }
    State.resume (State.setSregA (s.setTeam { t with tqOut := t.tqOut + 1 }) c.agent d.toNat 0) c

/-- TASKQ (R262): steps 1 to 4 of R181 for the slot, then for the word; an overlap takes DESCRIPTOR. -/
def execTaskq (d a b : SReg) (s : State) : Out :=
  withGroup s fun c g =>
    let sa := (s.sreg g a.toNat).toNat % 2 ^ 32
    let wa := (s.sreg g b.toNat).toNat % 2 ^ 32
    let s1 := s.addrStep g ap0 false true sa 64
    let s2 := s.addrStep g ap0 false true wa 16
    if s1 ≠ 0 ∧ s1 ≠ 5 then s.addrTrap c s1 sa
    else if s2 ≠ 0 ∧ s2 ≠ 5 then s.addrTrap c s2 wa
    else if sa ≤ wa ∧ wa < sa + 64 then s.trap c cDESCRIPTOR
    else if 16 ≤ ((s.team? g.team).map (·.tqOut)).getD 0 then s.status c d (statusWord 0x11 0)
    else
      let slot := keyOff (s.locate g sa).1
      let word := keyOff (s.locate g wa).1
      if s.slotFits g.core slot then s.askTask c g d slot word else s.waitAgain c (.taskq c d slot word)

/-- CHASE_WAIT_END: the chase table has room for a command or a TASKQ that waits for it: the group becomes ready, and the instruction issues
when its core chooses it (08 R197, R262). -/
def execChaseWaitEnd (core slot : Nat) (s : State) : Out :=
  match s.group? core slot with
  | none => .next s
  | some g =>
    match g.run with
    | .waiting (.chase _ _ uid) => .next (s.chaseAgain g uid)
    | .waiting (.taskq _ _ off _) => .next (if s.slotFits core off then s.wake g else s)
    | _ => .next s

/-! ### The imposer (R261, R262, R264, R327) -/

/-- The end token. -/
def endToken : Nat := 2 ^ 256

/-- TASKQ_ANSWER: the n-th request at a cluster, if it is the first of its domain there and can be answered; what was written before it
to its arrival word and its answer slot comes first (13 R276, 04 R110). -/
def execTaskqAnswer (cluster n : Nat) (s : State) : Out :=
  match nth (s.treqs.filter (·.cluster == cluster)) n with
  | none => .next s
  | some r =>
    match s.treqs.find? fun q => q.cluster == cluster && q.launch == r.launch with
    | none => .next s
    | some q =>
      if decide (q.uid ≠ r.uid) || s.saving r.team || s.writeOwed r.uid (storeKey r.core r.word) 16 || s.writeOwed r.uid (storeKey r.core r.slot) 64 then .next s
      else
        let give := fun (s : State) (x : Nat) =>
          let s := { s with treqs := s.treqs.filter (·.uid != r.uid), chases := s.chases.filter (·.tag != r.uid) }
          let s := s.write (cellsLE (storeKey r.core r.slot) 64 x)
          let s := s.countAdd (storeKey r.core r.word) 64 0
          let s := match s.team? r.team with
            | some t => s.setTeam { t with tqOut := t.tqOut - 1 }
            | none => s
          State.reap (s.drainPending cluster pendingMax) r.team
        match s.launch? r.launch with
        | none => .next s
        | some l =>
          if l.ended then .next (give s endToken)
          else
            match s.tready.find? fun x => x.cluster == cluster && x.launch == r.launch with
            | none => .next s
            | some x =>
              .next (give (State.setLaunch { s with tready := s.tready.erase x } { l with outstanding := l.outstanding + 1 }) x.image.toNat)

/-- PENDING_RECORD_MOVE (R264). -/
def execPendingRecordMove (cluster index : Nat) (s : State) : Out :=
  match s.stalled cluster with
  | some x => .next (if x.idx = index then s.drainPending cluster 1 else s)
  | none => .next s

/-- Clusters of a partition in increasing order. -/
def Partition.clusters (p : Partition) : List Nat :=
  (List.range 8).flatMap fun d => if p.dies.any (· == d) then (List.range 12).map (12 * d + ·) else []

/-- A domain's occupancy at a cluster. -/
def State.occupancy (s : State) (lid c : Nat) : Int :=
  ((s.tready.filter fun x => x.launch == lid && x.cluster == c).length : Int)
    - ((s.treqs.filter fun x => x.launch == lid && x.cluster == c).length : Int)

/-- Neighbours of the i-th cluster of a ring, the lower index first. -/
def ringNeighbours (n i : Nat) : List Nat :=
  let a := (i + n - 1) % n
  let b := (i + 1) % n
  if n < 2 then [] else if a = b then [a] else [min a b, max a b]

/-- Hops from i to j on a ring of n. -/
def ringHops (n i j : Nat) : Nat := min ((j + n - i) % n) ((i + n - j) % n)

/-- The neighbour toward the nearest of the given positions; a tie goes to the lower one. -/
def toward (n i : Nat) (js : List Nat) : Option Nat :=
  let dist := fun k => js.foldl (fun m j => min m (ringHops n k j)) n
  (ringNeighbours n i).find? fun k => decide (dist k < dist i)

/-- Move up to `m` of a domain's youngest records from a cluster to another: the state, and how many. -/
def State.moveRecords (s : State) (lid c dest m : Nat) : State × Nat :=
  let mine := s.tready.filter fun x => x.launch == lid && x.cluster == c
  let take := mine.drop (mine.length - min m mine.length)
  let keep := mine.take (mine.length - min m mine.length)
  let rest := s.tready.filter fun x => !(x.launch == lid && x.cluster == c)
  if take.isEmpty then (s, 0)
  else ({ s with tready := rest ++ keep, ttransit := s.ttransit ++ take.map fun (x : TaskRec) => { x with cluster := dest, idx := s.cycle + 64 } }, take.length)

/-- One cluster's moves of one domain; `free` is what the receiving queues can still take. -/
def State.balanceOne (s : State) (lid : Nat) (cs : List Nat) (occ : Nat → Int) (negs : List Nat) (i : Nat) (free : List Nat) :
    State × List Nat :=
  let n := cs.length
  let one := fun (r : State × List Nat × List Nat) (k m : Nat) =>
    let x := r.1.moveRecords lid (cs.getD i 0) (cs.getD k 0) (min m (r.2.1.getD k 0))
    (x.1, r.2.1.set k (r.2.1.getD k 0 - x.2), if x.2 = 0 then r.2.2 else k :: r.2.2)
  let r := (ringNeighbours n i).foldl (fun r k => one r k ((occ i - occ k) / 4).toNat) (s, free, [])
  let r := match (if 0 < occ i then toward n i negs else none) with
    | some k => if r.2.2.any (· == k) then r else one r k 1
    | none => r
  (r.1, r.2.1)

/-- IMPOSER_BALANCE: every 256 cycles; domains in order of their hardware queue slot. -/
def execImposerBalance (part : Nat) (s : State) : Out :=
  match s.part? part with
  | none => .next s
  | some p =>
    let cs := p.clusters
    let ls := (List.range 64).flatMap fun h => s.launches.filter fun l => l.part == part && l.hw == h
    let free := cs.map fun c => s.readyRoom c - (s.tpending.filter fun x => x.cluster == c && x.zeroAt.isSome).length
      - (s.ttransit.filter (·.cluster == c)).length
    let r := ls.foldl (fun (r : State × List Nat) l =>
      let occ := fun i => s.occupancy l.uid (cs.getD i 0)
      let negs := (List.range cs.length).filter fun i => decide (occ i < 0)
      (List.range cs.length).foldl (fun r i => r.1.balanceOne l.uid cs occ negs i r.2) r) (s, free)
    .next r.1

/-- MOVED_RECORD_ARRIVE: behind the stalled entries, and in the order of the move. -/
def execMovedRecordArrive (n : Nat) (s : State) : Out :=
  match nth s.ttransit n with
  | none => .next s
  | some x =>
    let t := s.drainPending x.cluster pendingMax
    let first := t.ttransit.find? fun y => y.cluster == x.cluster && y.launch == x.launch
    if t.readyRoom x.cluster = 0 ∨ first ≠ some x then .next t
    else .next { t with tready := t.tready ++ [{ x with idx := 0 }], ttransit := dropNth t.ttransit n }

/-! ### LAUNCH (R266) -/

/-- Write a packet at a ring's tail, then the notify write. For a ring entry on a page that translation does not serve R266 gives no effect:
the model, LAUNCH having written status 0x00, discards the packet, posts a fault, sets the queue's ERR to 0x05 and makes no notify write
(DESIGN CHOICE, log 35). -/
def State.launchPacket (s : State) (p : Partition) (q : Nat) (d : QDesc) (x : Nat) : State :=
  let a := farWrap (d.rbase + 64 * (d.widx.toNat % 2 ^ d.rsize))
  match s.farKey p p.ppUnit true a with
  | .bad r l e => State.queueError (s.ppFault p.p (s.hwSlotOf p.p q) a r l e 1) p q 5
  | _ => (s.ppWrite p (s.hwSlotOf p.p q) a (leBytes 64 x)).notify p.p q (d.widx + 1).toNat

/-- LAUNCH. For a queue whose descriptor lies on a page that translation does not serve R266 gives no status: the model writes 0x15, and lets
the read post a fault and set ERR 0x05 as a read of the packet processor does (16 R333) (DESIGN CHOICE, log 35). -/
def execLaunch (d a b : SReg) (s : State) : Out :=
  withGroup s fun c g =>
    let y := (s.sreg g b.toNat).toNat
    if 2 ^ 14 ≤ y then s.trap c cILLOP
    else
      s.readRecord c g a fun x =>
        match s.part? (s.partOf g.core) with
        | none => s.status c d (statusWord 0x15 0)
        | some p =>
          let priv := (s.launchOf g).any (·.priv)
          if !s.boot.lock || decide (p.qtcount ≤ y) then s.status c d (statusWord 0x15 0)
          else match s.qdesc p y with
          | .error .busy => s.retryAt c 0
          | .error e => (s.tableFault p y e).status c d (statusWord 0x15 0)
          | .ok q =>
            if !q.en || decide (q.rsize < 4) || decide (16 < q.rsize) || !(q.devw || priv) then s.status c d (statusWord 0x15 0)
            else if 2 ^ q.rsize ≤ (q.widx - q.ridx).toNat then s.status c d (statusWord 0x16 0)
            else
              match s.farKey p p.ppUnit true (farWrap (q.rbase + 64 * (q.widx.toNat % 2 ^ q.rsize))) with
              | .busy => s.retryAt c 0
              | _ => (s.launchPacket p y q x).status c d (statusWord 0 0)

end Sys2Proof.Machine
end

