-- ==== Sys2Proof/Machine/Preempt.lean ====
section
/-! DEFINITION. Pre-emption (14 R299 to R308): requests, how groups stop, the deadline, the save and its layout, failure,
completion; mapping, eviction and restore (15 R319, R320; 14 R308). -/

namespace Sys2Proof.Machine

/-! ### Requests (R299, R300) -/

/-- Clusters in which a team sits. -/
def Team.cluster (t : Team) : Nat := clusterOf ((t.seats.head?.map (·.core)).getD 0)

/-- Teams of a hardware queue slot in a cluster, with the whole of their cluster sets. -/
def State.contextTeams (s : State) (hw cluster : Nat) : List Nat :=
  let mine := s.teams.filter fun t => t.cluster == cluster && !t.exited && (s.launch? t.launch).any fun l => l.hw == hw
  dedup (mine.flatMap s.setOf) |>.filter fun u => (s.team? u).any fun t => !t.exited

/-- The pre-emption of a slot in a cluster that is not over. -/
def State.preemptOpen (s : State) (hw cluster : Nat) : Bool :=
  s.preempts.any fun p => p.hw == hw && p.cluster == cluster && decide (p.st < 4)

/-- A wait in which a group stops at once (R301). -/
def Wait.stops : Wait → Bool
  | .ownWrites .. | .ligclr _ | .safept .. => false
  | _ => true

/-- What a stopped wait leaves undone: its place in a lock queue, a command that has not been taken up, a handoff. -/
def State.leaveWait (s : State) (g : Group) (w : Wait) : State :=
  let a := Agent.group g.core g.slot
  match w with
  | .lock => State.dropGrants { s with lockReqs := s.lockReqs.filter fun r => !(r.agent == a) } a
  | .chase _ _ uid => { s with cmds := s.cmds.filter fun m => !(m.uid == uid && !m.charged) }
  | .handoff .. =>
    match s.team? g.team with
    | some t => s.setTeam { t with hand := none }
    | none => s
  | _ => s

/-- Stop the waiting groups of contexts that are being pre-empted (R301). -/
def State.stopWaiting (s : State) : State :=
  (s.groups.filter fun g => s.preempting g.team).foldl (fun s g =>
    match g.run with
    | .waiting w => if w.stops then (s.leaveWait g w).stopGroup g.core g.slot .wait none else s
    | _ => s) s

/-- Ask for the pre-emption of a slot in a cluster. -/
def State.requestPreempt (s : State) (hw cluster root : Nat) (space : Option Nat) (sched : Bool) : State :=
  let p : Preempt := { id := s.uid, hw := hw, cluster := cluster, root := root, space := space, teams := s.contextTeams hw cluster
                       at_ := s.time, st := 1, forced := 0, sched := sched, live := [] }
  State.stopWaiting { s with
    uid := s.uid + 1, preempts := (s.preempts.filter fun q => !(q.hw == hw && q.cluster == cluster)) ++ [p] }

/-- PREEMPT. -/
def execPreempt (d a b : SReg) (s : State) : Out :=
  withProof s fun c p =>
    let x := (s.sregA c.agent a.toNat).toNat
    let root := (s.sregA c.agent b.toNat).toNat
    if 64 ≤ x then s.trap c cILLOP
    else if (s.contextTeams x p.cluster).isEmpty then s.status c d 1
    else if s.preemptOpen x p.cluster then s.status c d 2
    else if root % 4096 ≠ 0 then s.status c d 3
    else State.status (s.requestPreempt x p.cluster root none false) c d 0

/-- PREEMPT.Q. -/
def execPreemptQ (d a : SReg) (s : State) : Out :=
  withProof s fun c p =>
    let x := (s.sregA c.agent a.toNat).toNat
    if 64 ≤ x then s.trap c cILLOP
    else s.status c d (.ofNat 64 (((s.preempts.find? fun q => q.hw == x && q.cluster == p.cluster).map (·.st)).getD 0))

/-- A pre-emption by number in the state's list. -/
def State.setPreempt (s : State) (p : Preempt) : State := { s with preempts := replaceBy (·.id == p.id) p s.preempts }

/-- Groups of a context. -/
def State.contextGroups (s : State) (p : Preempt) : List Group := s.groups.filter fun g => p.teams.any (· == g.team) && g.run != .exited

/-- A group has stopped for the save. -/
def Group.stopped (g : Group) : Bool :=
  match g.run with
  | .saving .. => true
  | _ => false

/-- A group is stopped by force at its instruction boundary: its windows and its place in lock queues are over, and it is counted
(R303). -/
def State.forceGroup (s : State) (p : Preempt) (g : Group) : State :=
  let a := Agent.group g.core g.slot
  let s := (s.leaveWait g .lock).dropHeld a
  let s := { s with commits := s.commits.map fun (m : Commit) => if m.agent == a then { m with left := 0 } else m }
  let s := s.stopGroup g.core g.slot .forced none
  let q := (s.preempts.find? (·.id == p.id)).getD p
  s.setPreempt { q with forced := q.forced + 1, st := 2 }

/-- Stop one group that has not stopped when PREDL has run out (R303): one in a wait that R301 lists as it says, another by force. -/
def State.forceStop (s : State) (p : Preempt) (g : Group) : State :=
  match g.run with
  | .trapped r true => s.stopGroup g.core g.slot .trap (some r)
  | .trapped _ false | .saving .. | .exited => s
  | .waiting w => if w.stops then (s.leaveWait g w).stopGroup g.core g.slot .wait none else s.forceGroup p g
  | .ready => s.forceGroup p g

/-- PREEMPT_DEADLINE. -/
def execPreemptDeadline (n : Nat) (s : State) : Out :=
  match nth s.preempts n with
  | none => .next s
  | some p =>
    if 3 ≤ p.st ∨ s.time < p.at_ + (s.proof p.cluster).predl.toNat * 1000 * nsUnits then .next s
    else .next ((s.contextGroups p).foldl (fun s g => s.forceStop p g) s)

/-! ### The save area (R302, R305, R307) -/

/-- Everything live. -/
def Live.all (t : Team) (g : Group) : Live := { v := 2 ^ g.vregs - 1, s := 2 ^ g.sregs - 1, g := 2 ^ t.krec.galley - 1 }

/-- Address of the safe-point table entry at which a group stopped. -/
def Group.safeEntry (g : Group) (t : Team) : Option Nat :=
  match g.run with
  | .saving (.safept i) _ => some (farWrap (t.krec.safetab + 64 * i))
  | _ => none

/-- The live masks of a stopped group; a safe-point table that cannot be read leaves everything live (log 21). -/
def State.liveOf (s : State) (t : Team) (g : Group) : Live :=
  match g.safeEntry t, s.part? (s.partOf g.core) with
  | some a, some p =>
    match s.ppRead p a 64 with
    | .ok bs => { v := fld (leNat bs) 0 256 % 2 ^ g.vregs, s := fld (leNat bs) 256 128 % 2 ^ g.sregs, g := fld (leNat bs) 384 48 % 2 ^ t.krec.galley }
    | .error _ => .all t g
  | _, _ => .all t g

/-- The safe-point table entries of a context's groups that cannot be read, each with its answer. -/
def State.safeAnswers (s : State) (p : Preempt) (q : Partition) : List (Nat × FarAns) :=
  (s.contextGroups p).filterMap fun g => ((s.team? g.team).bind g.safeEntry).bind fun a =>
    match s.ppRead q a 64 with
    | .ok _ => none
    | .error e => some (a, e)

/-- The live masks of a context's groups, read once for the save (R302, R305 step 3). -/
def State.liveTable (s : State) (p : Preempt) : List (Nat × Nat × Live) :=
  (s.contextGroups p).filterMap fun g => (s.team? g.team).map fun t => (g.core, g.slot, s.liveOf t g)

/-- What the save found live of a group. -/
def Preempt.liveOf (p : Preempt) (t : Team) (g : Group) : Live :=
  ((p.live.find? fun x => x.1 == g.core && x.2.1 == g.slot).map (·.2.2)).getD (.all t g)

/-- Team tiles that are saved. -/
def State.liveTiles (s : State) (p : Preempt) (t : Team) : Nat :=
  (s.live t.uid).foldl (fun m g => m ||| (p.liveOf t g).g) 0

/-- The parked-lane map (R294): four bits a lane. -/
def Group.parkMap (g : Group) : Nat :=
  sumL ((List.range 64).map fun i =>
    match (List.range 8).find? fun n => inMask ((g.rejoins.toList.getD n .off).parked) i with
    | some n => (8 + n) * 2 ^ (4 * i)
    | none => 0)

/-- Valid bits of j0-j7. -/
def Group.validBits (g : Group) : Nat := sumL ((List.range 8).map fun n => if (g.rejoins.toList.getD n .off).valid then 2 ^ n else 0)

/-- Bytes of the rejoin registers: enrolled, arrived, rejoin point. -/
def Group.joinBytes (g : Group) : List Byte :=
  g.rejoins.toList.flatMap fun j => leBytes 8 j.enrolled.toNat ++ leBytes 8 j.arrived.toNat ++ leBytes 8 j.point.toNat

/-- Stop kind and safe-point index of a group record. -/
def Group.stopCode (g : Group) : Nat :=
  match g.run with
  | .saving (.safept i) _ => 4 * i
  | .saving .wait _ => 1
  | .saving .trap _ => 2
  | _ => 3

/-- Bytes with their offsets. -/
def bytesFrom (o : Nat) (bs : List Byte) : List (Nat × Byte) := cellsAt o bs

/-- Bytes the layout leaves to the device (log 11). -/
def opaqueBytes (area o n : Nat) : List (Nat × Byte) := (List.range n).map fun i => (o + i, Config.saveByte area (o + i))

/-- A byte as a save reads it; one in an uncorrectable word is free (log 3). -/
def State.savedByte (s : State) (area key : Nat) : Byte := if s.poisoned key 1 then Config.saveByte area (2 ^ 72 + key) else s.byte key

/-- Bytes from a key up as a save reads them. -/
def State.savedBytes (s : State) (area key n : Nat) : List Byte := (List.range n).map fun i => s.savedByte area (key + i)

/-- A section of `n` bytes that begins with some doublewords; what follows them is left to the device (log 11). -/
def headed (area o n : Nat) (xs : List Nat) : List (Nat × Byte) :=
  bytesFrom o (xs.flatMap (leBytes 8)) ++ opaqueBytes area (o + 8 * xs.length) (n - 8 * xs.length)

/-- A group record's bytes that the save writes. -/
def State.groupRecord (s : State) (p : Preempt) (t : Team) (g : Group) (o : Nat) : List (Nat × Byte) :=
  let area := p.id
  let lv := p.liveOf t g
  let tr := match g.run with
    | .saving .trap (some r) => bytesFrom (o + 0x1A8) (leBytes 8 r.a.toNat ++ leBytes 8 r.b.toNat ++ leBytes 8 r.c.toNat ++ leBytes 8 r.d.toNat)
    | _ => []
  bytesFrom o (leBytes 8 g.pc.toNat ++ leBytes 8 (g.stopCode + (if g.lock.isSome || g.lockLost then 1024 else 0)) ++ leBytes 8 g.fstat.toNat
      ++ leBytes 8 g.dsel.toNat ++ leBytes 8 g.vregs)
    ++ bytesFrom (o + 0x40) ((List.range 16).flatMap fun i => leBytes 8 (g.mask (.ofNat 4 i)).toNat)
    ++ bytesFrom (o + 0xC0) g.joinBytes ++ bytesFrom (o + 0x180) (leBytes 8 g.validBits)
    ++ bytesFrom (o + 0x188) (leBytes 32 g.parkMap) ++ tr
    ++ ((List.range 128).filter fun n => n != 0 && fld lv.s n 1 == 1).flatMap (fun n => bytesFrom (o + 0x200 + 8 * n) (s.savedBytes area (g.skey n) 8))
    ++ ((List.range g.vregs).filter fun n => fld lv.v n 1 == 1).flatMap fun n =>
      bytesFrom (o + 0x600 + 4 * g.width * n) (s.savedBytes area (g.vkey n 0) (4 * g.width))

/-- The team header (R307): its fields in the order of the rule, a doubleword each (log 11). -/
def State.teamHeader (s : State) (p : Preempt) (t : Team) (o : Nat) : List (Nat × Byte) :=
  let used := s.outstanding t.uid
  headed p.id o 256 [t.krec.addr, t.num, t.launch, t.krec.groups, t.paired.toNat, t.krec.folio, t.krec.galley, s.liveTiles p t, t.cset.getD 0,
    t.limB, t.limC, used.1, used.2, t.krec.lig.toNat]

/-- The far bytes of a request that no answer has brought or reported. -/
def Req.open_ (r : Req) : List (Nat × Nat) :=
  match r.run with
  | .finished => []
  | .accepted => r.owed ++ r.left.map r.copyWindow
  | _ => [(r.va, r.va + r.len)]

/-- Counted bytes of an item of a command that are still owed: all of one that is to be filled, or is a record or a tile, or has no request
yet; of another what lies in the open windows of its requests. -/
def State.itemOwed (s : State) (m : Cmd) (x : Item × Nat) : Nat :=
  let i := x.1
  if i.done then 0
  else if i.fill || i.form != .plain || !m.resDone then i.cnt
  else
    let ws := (s.reqs.filter fun r => r.cmd == m.uid && r.items.any (· == x.2)).flatMap fun r => r.open_.filterMap i.meet
    if i.cnt = i.len then sumL (ws.map (·.2)) else if ws.isEmpty then 0 else i.cnt

/-- The arrival word of a chase entry, as a store offset, and the bytes still owed to it (R305). -/
def State.entryOwed (s : State) (e : Chase) : Nat × Nat :=
  match s.cmd? e.tag, s.treqs.find? (·.uid == e.tag) with
  | some m, _ => (((m.recvs.find? (·.core == e.span.core)).map (·.arr)).getD 0, sumL (m.numbered.map (s.itemOwed m)))
  | none, some r => (r.word, 64)
  | none, none => (0, 0)

/-- Records of chase entries and of requests that are outstanding: the entry with its span, tag, arrival word and the bytes still owed,
then the copy of the descriptor (R305, R307, log 11). -/
def State.fetchRecords (s : State) (area : Nat) (t : Team) (o : Nat) : List (Nat × Byte) × Nat :=
  let es := s.chases.filter (·.team == t.uid)
  let rs := s.reqs.filter fun q => q.team == t.uid && q.run != .finished
  let base := fun (k : Nat) => ((t.seat? k).map (·.folio)).getD 0
  let xs := (es.map fun e => (e.tag, [e.tag, e.span.core % 4, e.span.lo - base e.span.core, e.span.hi - base e.span.core, e.span.dest.toNat,
      (s.entryOwed e).1 - base e.span.core, (s.entryOwed e).2]))
    ++ rs.map fun r => (r.cmd, [r.cmd, r.n, r.va, r.len, (r.op.codes 0).1])
  ((xs.zip (List.range xs.length)).flatMap fun p =>
    headed area (o + 128 * p.2) 64 p.1.2 ++ bytesFrom (o + 128 * p.2 + 64) (leBytes 64 (((s.cmd? p.1.1).map (·.desc)).getD 0)), xs.length)

/-- The ligature state of a core (R242, R307): the binding with the level mark, the valid bits, the levels, the values. -/
def State.ligRecord (s : State) (area core o : Nat) : List (Nat × Byte) :=
  let e := s.lig core
  let b := e.bound.getD (0, 0, 0, 0)
  let level := fun (i : Nat) => ((e.levels.find? (·.1 == i)).map (·.2)).getD 0
  let valid := fun (i : Nat) => if e.levels.any (·.1 == i) then 1 else 0
  bytesFrom o (leBytes 4 b.2.2.2 ++ leBytes 4 b.2.1 ++ leBytes 4 b.2.2.1 ++ leBytes 4 (b.1 + 2 ^ 8 * e.mark + 2 ^ 16 * e.bound.isSome.toNat))
    ++ bytesFrom (o + 16) ((List.range 2048).map fun j => .ofNat 8 (sumL ((List.range 8).map fun k => 2 ^ k * valid (8 * j + k))))
    ++ bytesFrom (o + 2064) ((List.range 8192).map fun j => .ofNat 8 (level (2 * j) + 16 * level (2 * j + 1)))
    ++ bytesFrom (o + 10256) (s.savedBytes area (valueKey core 0) 65536)

/-- A team record at an offset: its bytes, and the offset after it. -/
def State.teamRecord (s : State) (q : Preempt) (t : Team) (o : Nat) : List (Nat × Byte) × Nat :=
  let area := q.id
  let gs := s.live t.uid
  let r := gs.foldl (fun (r : List (Nat × Byte) × Nat) g => (r.1 ++ s.groupRecord q t g r.2, r.2 + 1536 + 4 * g.width * g.vregs)) ([], o + 256)
  let fo := roundUp r.2 64
  let forms := (t.formes.toList.zip (List.range 16)).flatMap fun p => bytesFrom (fo + 64 * p.2) (leBytes 64 p.1.toNat)
  let ts := (List.range t.krec.galley).filter fun n => fld (s.liveTiles q t) n 1 == 1
  let tiles := t.seats.flatMap fun x => ts.map fun n => tileKey x.core (x.tiles.getD n 0)
  let tileAt := fo + 1024
  let tb := (tiles.zip (List.range tiles.length)).flatMap fun p => bytesFrom (tileAt + 4096 * p.2) (s.savedBytes area p.1 4096)
  let lo := tileAt + 4096 * tiles.length
  let fb := (t.seats.zip (List.range t.seats.length)).flatMap fun p => bytesFrom (lo + t.krec.folio * p.2) (s.savedBytes area (storeKey p.1.core p.1.folio) t.krec.folio)
  let co := lo + t.krec.folio * t.seats.length
  let cr := s.fetchRecords area t co
  let lg := roundUp (co + 128 * cr.2) 64
  let ls := if t.krec.lig then t.seats else []
  let lb := (ls.zip (List.range ls.length)).flatMap fun p => s.ligRecord area p.1.core (lg + 75792 * p.2)
  (s.teamHeader q t o ++ r.1 ++ forms ++ tb ++ fb ++ cr.1 ++ lb, lg + 75792 * ls.length)

/-- All records of a context: bytes by offset from the save root, and the save size. -/
def State.saveImage (s : State) (p : Preempt) : List (Nat × Byte) × Nat :=
  let r := (p.teams.filterMap s.team?).foldl (fun (r : List (Nat × Byte) × Nat) t =>
    let x := s.teamRecord p t (roundUp r.2 4096)
    (r.1 ++ x.1, x.2)) ([], 64)
  (headed p.id 0 64 [p.teams.length, r.2] ++ r.1, r.2)

/-! ### Carrying it out (R305, R306) -/

/-- Bytes of a region as part of a seat's image: those that are not 0, and those of uncorrectable words. -/
def State.grab (s : State) (area key n dst : Nat) : List Host.Cell :=
  let bad := (s.poison.flatMap fun w => (List.range 8).map (8 * w + ·)).filter fun k => decide (key ≤ k) && decide (k < key + n)
  let ks := ((s.mem.map (·.1)).filter fun k => decide (key ≤ k) && decide (k < key + n) && !s.poisoned k 1) ++ bad
  ks.map fun k => (dst + (k - key), s.savedByte area k)

/-- Places in a seat's image: a group's window, its scalar block, a tile, the value file. -/
def imgWin (i : Nat) : Nat := 2 ^ 24 * (i + 1)
/-- Scalar block. -/
def imgBlk (i : Nat) : Nat := 2 ^ 24 * (i + 1) + 2 ^ 23
/-- Tile. -/
def imgTile (n : Nat) : Nat := 2 ^ 32 + 4096 * n
/-- Value file. -/
def imgLig : Nat := 2 ^ 33

/-- The image of a seat. -/
def State.seatImage (s : State) (p : Preempt) (t : Team) (x : Seat) : List Host.Cell :=
  let area := p.id
  let gs := (s.live t.uid).filter (·.core == x.core)
  s.grab area (storeKey x.core x.folio) t.krec.folio 0
    ++ gs.flatMap (fun g =>
      let lv := p.liveOf t g
      ((List.range g.vregs).filter fun n => fld lv.v n 1 == 1).flatMap (fun n => s.grab area (g.vkey n 0) (4 * g.width) (imgWin g.index + 4 * g.width * n))
        ++ ((List.range 128).filter fun n => n != 0 && fld lv.s n 1 == 1).flatMap fun n => s.grab area (g.skey n) 8 (imgBlk g.index + 8 * n))
    ++ ((List.range t.krec.galley).filter fun n => fld (s.liveTiles p t) n 1 == 1).flatMap (fun n => s.grab area (tileKey x.core (x.tiles.getD n 0)) 4096 (imgTile n))
    ++ (if t.krec.lig then s.grab area (valueKey x.core 0) 65536 imgLig else [])

/-- A unit's translation after a restore: one that is over serves on, once for the command (16 R331), but a PAGEREQ walks every unit
that is not done (16 R340); another is begun anew. -/
def FUnit.again (pagereq : Bool) (u : FUnit) : FUnit :=
  match u.res with
  | .served _ => if pagereq && !u.done then { u with res := .pending } else u
  | _ => { u with res := .pending }

/-- A request as saved: one that was refused is sent anew. -/
def Req.saved (r : Req) : Req := { r with run := if r.run = .finished then .finished else .unsent, stream := 0, data := [] }

/-- A group loses a lock it holds when it is saved (R304). Restored, it begins anew to issue from its line (05 R116, R118). -/
def Group.forSave (g : Group) : Group := { g with lockLost := g.lockLost || g.lock.isSome, lock := none, yielded := none, line := none }

/-- The context as plain data. -/
def State.savedContext (s : State) (p : Preempt) (part queue : Nat) (held : Bool) : Saved :=
  let ts := p.teams.filterMap s.team?
  let mine : Nat → Bool := fun u => p.teams.any (· == u)
  { hw := p.hw, part := part, queue := queue, cluster := p.cluster, root := p.root
    teams := ts.map fun t => (t, (s.live t.uid).map Group.forSave)
    cells := ts.flatMap fun t => (t.seats.zip (List.range t.seats.length)).flatMap fun x => (s.seatImage p t x.1).map fun c => (t.uid, x.2, c)
    chases := s.chases.filter fun e => mine e.team
    cmds := s.cmds.filter fun m => mine m.team && m.charged
    reqs := (s.reqs.filter fun r => mine r.team).map Req.saved
    ligs := s.ligs.filter fun e => e.team.any fun u => mine u && (s.team? u).any (·.krec.lig)
    treqs := s.treqs.filter fun r => mine r.team
    launches := dedup (ts.map (·.launch)), held := held }

/-- The context is drained: nothing of it is in flight (R305 steps 1 and 2). -/
def State.drained (s : State) (p : Preempt) : Bool :=
  let mine : Nat → Bool := fun u => p.teams.any (· == u)
  (s.contextGroups p).all (fun g => g.stopped && (s.commitsOf (.group g.core g.slot)).isEmpty && (s.localsOf (.group g.core g.slot)).isEmpty)
    && !(s.mats.any fun m => mine m.team) && !(s.ligOps.any fun m => mine m.team)
    && !(s.groups.any fun g => mine g.team && g.run == .exited)
    && !(s.reqs.any fun r => mine r.team && (r.run.pends || r.run == .accepted))
    && !(s.commits.any fun m => m.formes.any fun f => mine f.1)
    && !(s.locals.any fun l => match l.op with
      | .forme u _ => mine u
      | _ => false)
    && !((p.teams.filterMap s.team?).any s.folioBusy)

/-- A NOSTOP record about a context; the core and slot it names are not stated, and are free (log 3). -/
def State.contextRecord (s : State) (p : Preempt) (cause : Nat) (x y : DWord) : State :=
  let f := s.freeWord
  let t : State := f.2
  let team := p.teams.head?.bind s.team?
  let core := 4 * p.cluster
  t.queueRecord p.cluster true
    { a := recordA ((team.map (·.num)).getD 0) (s.partOf core) ((team.map (·.paired)).getD false) true (f.1.toNat % 4) (f.1.toNat / 4 % 32) p.hw 0 cause
      b := 0, c := x, d := y }

/-- A stopped group goes on where it stands (R306). -/
def State.resumeInPlace (s : State) (g : Group) : State :=
  match g.run with
  | .saving .trap (some r) => s.setGroup { g with run := .trapped r true }
  | .saving .. => s.wake { g with line := none }
  | _ => s

/-- The save fails (R306). -/
def State.saveFail (s : State) (p : Preempt) (addr reason : Nat) : State :=
  let s := (s.contextGroups p).foldl State.resumeInPlace s
  let s := s.setPreempt { p with st := 5 }
  let s := s.contextRecord p cSAVEFAIL (.ofNat 64 addr) (.ofNat 64 (reason + 16 * (p.root % 2 ^ 57)))
  match s.hw? p.hw with
  | some h =>
    match h.queue, s.part? h.part with
    | some m, some q =>
      if p.sched then State.queueError (s.setMapped p.hw { m with evicting := false }) q m.q 7 else s
    | _, _ => s
  | none => s

/-- Keys of the units of the save area; the first that cannot be written, with its reason. -/
def State.saveUnits (s : State) (q : Partition) (root : Nat) : Nat → List Nat × Option (Nat × FarAns)
  | 0 => ([], none)
  | n + 1 =>
    let r := s.saveUnits q root n
    if r.2.isSome then r
    else
      let va := farWrap ((root / 65536 + n) * 65536)
      match s.farKey q q.ppUnit true va with
      | .key k => (r.1 ++ [k / 65536 * 65536], none)
      | a => (r.1, some (max va root, a))

/-- Post the faults of the safe-point table entries that translation does not serve (16 R338). -/
def State.safeFaults (s : State) (p : Preempt) (q : Partition) : State :=
  (s.safeAnswers p q).foldl (fun s x => match x.2 with
    | .bad r l e => s.ppFault q.p p.hw x.1 r l e 0
    | _ => s) s

/-- An engine that still holds a predecessor's values is as LIGCLR leaves it when its context is saved (10 R242). -/
def State.clearStale (s : State) (p : Preempt) : State :=
  (s.ligs.filter fun e => e.stale && e.team.any fun u => p.teams.any (· == u)).foldl (fun s e => s.clearLig e.core) s

/-- CONTEXT_SAVE: once the context is drained, its state goes to the save area, or the save fails. -/
def execContextSave (n : Nat) (s₀ : State) : Out :=
  let s := s₀
  match nth s.preempts n with
  | none => .next s
  | some p =>
    match s.part? (s.partOf (4 * p.cluster)) with
    | none => .next s
    | some q =>
      if 3 ≤ p.st || !s.drained p || (s.safeAnswers p q).any (·.2 == .busy) then .next s
      else
        let p := { p with live := s.liveTable p }
        let s := s.clearStale p
        let x := s.saveImage p
        let s := s.safeFaults p q
        if p.space.any fun m => decide (m < x.2) then .next (s.saveFail p p.root 15)
        else
          let u := s.saveUnits q p.root ((p.root + x.2 - 1) / 65536 - p.root / 65536 + 1)
          match u.2 with
          | some (_, .busy) => .next s₀
          | some (va, .bad r l e) => .next (State.saveFail (s.ppFault q.p p.hw va r l e 1) p va r)
          | _ =>
            let cs := x.1.map fun b => (u.1.getD ((p.root + b.1) / 65536 - p.root / 65536) 0 + (p.root + b.1) % 65536, b.2)
            .next (State.setPreempt (s.write cs) { p with st := 3 })

/-- Free what a saved team holds, zeroed (R305 step 4). A debug mapping ends with its group (R294). -/
def State.freeTeam (s : State) (t : Team) : State :=
  let s := (s.live t.uid).foldl (fun s g =>
    let s := s.dropLocks (.group g.core g.slot)
    (s.freeRegion g.core g.win (windowBytes g.vregs g.width)).freeRegion g.core g.sblk 1024) s
  let s := t.seats.foldl (fun s x =>
    let s := s.freeRegion x.core x.folio t.krec.folio
    let s := x.tiles.foldl (fun s n => s.freeTile x.core n) s
    if s.ligs.any fun e => e.core == x.core && e.team == some t.uid then
      let s := s.clearLig x.core
      { s with ligs := s.ligs.filter (·.core != x.core) }
    else s) s
  { s with
    proofs := s.proofs.map fun (p : ProofCore) => if p.map.any (fun m => (s.group? m.1 m.2).any fun g => g.team == t.uid) then { p with map := none } else p
    groups := s.groups.filter fun g => g.team != t.uid
    teams := s.teams.filter (·.uid != t.uid)
    chases := s.chases.filter (·.team != t.uid)
    cmds := s.cmds.filter (·.team != t.uid)
    reqs := s.reqs.filter (·.team != t.uid)
    treqs := s.treqs.filter (·.team != t.uid) }

/-- Clusters in which a slot's teams are resident. -/
def State.slotClusters (s : State) (n : Nat) : List Nat :=
  dedup ((s.teams.filter fun t => !t.exited && (s.launch? t.launch).any fun l => l.hw == n).map Team.cluster)

/-- Pre-empt the clusters that hold a slot's teams, each once no other pre-emption of the slot is open there (15 R320). -/
def State.askClusters (s : State) (n : Nat) (d : QDesc) : State :=
  (s.slotClusters n).foldl (fun s c =>
    if s.preemptOpen n c then s
    else s.requestPreempt n c (farWrap (d.save + c * d.sstride * 2 ^ 20)) (some (d.sstride * 2 ^ 20)) true) s

/-- The eviction of a slot goes on: what is resident is pre-empted, and the slot is free when no team is left and every pre-emption is
over (R320). -/
def State.evictOn (s : State) (n : Nat) : State :=
  match s.hw? n with
  | none => s
  | some h =>
    match h.queue, s.part? h.part with
    | some m, some p =>
      if !m.evicting then s
      else if (s.slotClusters n).isEmpty then
        (if s.preempts.any fun x => x.hw == n && decide (x.st < 4) then s else s.vacate h m)
      else
        match s.qdesc p m.q with
        | .ok d => s.askClusters n d
        | .error .busy => s
        | .error e => State.tableFault (s.setMapped n { m with evicting := false }) p m.q e
    | _, _ => s

/-- SAVE_COMPLETE: resources are freed, a late stop is reported, and an evicted slot is free once all is saved. A context that is saved
while its queue stays mapped is restored at the next mapping (15 R320). -/
def execSaveComplete (n : Nat) (s : State) : Out :=
  match nth s.preempts n with
  | none => .next s
  | some p =>
    if p.st ≠ 3 then .next s
    else
      let h := s.hw? p.hw
      let part := s.partOf (4 * p.cluster)
      let q := ((h.bind (·.queue)).map (·.q)).getD 0
      let sv := s.savedContext p part q true
      let s := if p.forced = 0 then s else s.contextRecord p cPREEMPTLATE (.ofNat 64 p.forced) (.ofNat 64 p.root)
      let s := (p.teams.filterMap s.team?).foldl State.freeTeam s
      let s := State.setPreempt { s with saved := s.saved ++ [sv] } { p with st := 4 }
      .next (s.evictOn p.hw)

/-! ### Eviction (15 R319, R320) -/

/-- Evict a slot: every cluster that holds one of its teams is pre-empted. -/
def State.evict (s : State) (h : HwSlot) (m : Mapped) (p : Partition) : State :=
  match s.qdesc p m.q with
  | .error e => s.tableFault p m.q e
  | .ok _ => State.evictOn (s.setMapped h.n { m with evicting := true }) h.n

/-- A mapped queue that an eviction may take: one that is not being evicted, and has not stopped, whose teams run on until its slot is
unmapped (R315, log 35). -/
def Mapped.evictable (m : Mapped) : Bool := !m.evicting && !m.stopped

/-- Mapped slots of a partition among which a priority eviction names one; it may be the one that is being evicted. -/
def State.mappedSlots (s : State) (part : Nat) : List (HwSlot × Mapped) :=
  (s.hws.filter (·.part == part)).filterMap fun h => h.queue.bind fun m => if m.stopped then none else some (h, m)

/-- A slot of the partition is free. -/
def State.slotFree (s : State) (part : Nat) : Bool := s.hws.any fun h => h.part == part && h.queue.isNone

/-- Queues of a partition that are pending. -/
def State.pending (s : State) (part : Nat) : List PendingQ := s.pendq.filter fun x => x.part == part && !x.idle

/-- Highest priority among pending queues; 0 for none. -/
def State.pendPrio (s : State) (part : Nat) : Option Nat :=
  match (s.pending part).map (·.prio) with
  | [] => none
  | x :: xs => some (xs.foldl max x)

/-- The slot a priority eviction takes. -/
def State.victim (s : State) (part prio : Nat) : Option (HwSlot × Mapped) :=
  let ms := (s.mappedSlots part).filter fun x => decide (x.2.prio < prio)
  ms.find? fun x => ms.all fun y => decide (x.2.prio < y.2.prio) || (x.2.prio == y.2.prio && decide (x.2.since ≤ y.2.since))

/-- PRIORITY_EVICTION. -/
def execPriorityEviction (part : Nat) (s : State) : Out :=
  match s.part? part, s.pendPrio part with
  | some p, some k =>
    if s.slotFree part then .next s
    else
      match s.victim part k with
      | some x => .next (if x.2.evicting then s else s.evict x.1 x.2 p)
      | none => .next s
  | _, _ => .next s

/-- SLICE_EVICTION. -/
def execSliceEviction (n : Nat) (s : State) : Out :=
  match s.hw? n with
  | none => .next s
  | some h =>
    match h.queue, s.part? h.part, s.pendPrio h.part with
    | some m, some p, some k =>
      if !m.evictable || decide (s.time < m.since + p.tslice) || decide (k < m.prio) then .next s else .next (s.evict h m p)
    | _, _, _ => .next s

/-! ### Mapping and restore (15 R319, R320, 14 R308) -/

/-- A restored team's share on a core: its groups with their counts, folio, tiles and engine. -/
def State.restoreShare (s : State) (t : Team) (gs : List Group) (core : Nat) : Option State :=
  let k := t.krec
  let slots := s.freeSlots core
  let tiles := s.freeTiles core
  if slots.length < gs.length ∨ tiles.length < k.galley ∨ (k.lig ∧ !s.ligFree core) then none
  else
    let sizes := (if k.folio = 0 then [] else [(k.folio, 768)]) ++ gs.map (fun _ => (1024, 256))
      ++ gs.map fun g => (windowBytes g.vregs g.width, 768)
    match fitAll (s.regions core ++ s.guards core) sizes with
    | none => none
    | some as =>
      let fs := if k.folio = 0 then 0 else 1
      let n := gs.length
      let seat : Seat := { core := core, folio := if k.folio = 0 then 0 else as.getD 0 0, tiles := tiles.take k.galley }
      let s := { s with teams := if s.teams.any (·.uid == t.uid)
          then s.teams.map fun (u : Team) => if u.uid == t.uid then { u with seats := u.seats ++ [seat] } else u
          else s.teams ++ [{ t with seats := [seat] }] }
      let s := if k.lig then s.setLig (.fresh core (some t.uid)) else s
      let s := s.give core (as.zip (sizes.map (·.1))) seat.tiles
      some ((gs.zip (List.range n)).foldl (fun (s : State) p =>
        let b := s.joinBundle core k.addr p.1.width
        { s with groups := s.groups ++ [{ p.1 with
            core := core, slot := slots.getD p.2 0, sblk := as.getD (fs + p.2) 0, win := as.getD (fs + n + p.2) 0
            bundle := b.1, pos := b.2 }] }) s)

/-- Where a byte of a seat's image goes. -/
def State.imageKey (s : State) (t : Team) (x : Seat) (o : Nat) : Nat :=
  if imgLig ≤ o then valueKey x.core 0 + (o - imgLig)
  else if imgTile 0 ≤ o then tileKey x.core (x.tiles.getD ((o - imgTile 0) / 4096) 0) + (o - imgTile 0) % 4096
  else if o < imgWin 0 then storeKey x.core (x.folio + o)
  else
    let i := o / 2 ^ 24 - 1
    match (s.members t.uid).find? (·.index == i) with
    | none => proofKey 96 0
    | some g => if o % 2 ^ 24 < 2 ^ 23 then g.vkey 0 0 + o % 2 ^ 24 else g.skey 0 + (o % 2 ^ 24 - 2 ^ 23)

/-- The new seat for an old core of a team. -/
def seatFor (old new : Team) (core : Nat) : Option (Seat × Seat) := (old.seats.zip new.seats).find? fun p => p.1.core == core

/-- A store offset in an old seat's folio, in the new one. -/
def shiftOff (old new : Team) (core off : Nat) : Nat :=
  match seatFor old new core with
  | some p => p.2.folio + (off - p.1.folio)
  | none => off

/-- The new core for an old one. -/
def shiftCore (old new : Team) (core : Nat) : Nat := ((seatFor old new core).map (·.2.core)).getD core

/-- A restored team by an old one, with both. -/
def Saved.teamAt (sv : Saved) (s : State) (core : Nat) (uid : Option Nat) : Option (Team × Team) :=
  (sv.teams.filterMap fun x => (s.team? x.1.uid).map fun n => (x.1, n)).find? fun p =>
    (p.1.seat? core).isSome && uid.all (· == p.1.uid)

/-- A chase entry after a restore. -/
def Saved.chase (sv : Saved) (s : State) (e : Chase) : Chase :=
  match sv.teamAt s e.span.core (some e.team) with
  | none => e
  | some p => { e with span := { e.span with core := shiftCore p.1 p.2 e.span.core, lo := shiftOff p.1 p.2 e.span.core e.span.lo
                                             hi := shiftOff p.1 p.2 e.span.core e.span.hi } }

/-- The chase entries of a restored team go into the tables of its cores, if each of them has room for its 64 (R308, 03 R80). -/
def State.restoreChases (s : State) (sv : Saved) (t : Team) : Option State :=
  let es := (sv.chases.filter (·.team == t.uid)).map (sv.chase s)
  let xs := s.chases ++ es
  if es.all fun e => decide ((xs.filter (·.span.core == e.span.core)).length ≤ 64) then some { s with chases := xs } else none

/-- Restore the teams of a context on the cores of a cluster; teams of one set take different cores. -/
def State.restoreTeams (s : State) (sv : Saved) (cores : List Nat) : List (Nat × Nat × Nat) → List (Team × List Group) → Option State
  | _, [] => some s
  | used, x :: xs =>
    let t := x.1
    let pair := t.paired
    let leads := cores.filter fun k => (!pair || k % 2 == 0)
      && !(used.any fun u => t.cset == some u.1 && u.2.1 == t.launch && (u.2.2 == k || (pair && u.2.2 == k + 1)))
    let c0 := (t.seats.head?.map (·.core)).getD 0
    let ga := x.2.filter (·.core == c0)
    let gb := x.2.filter (·.core != c0)
    firstState (fun k =>
      (((s.restoreShare t ga k).bind fun s => if pair then s.restoreShare t gb (k + 1) else some s).bind fun s => s.restoreChases sv t).bind fun s =>
        s.restoreTeams sv cores (((t.cset.map fun n => (n, t.launch, k)).toList ++ (if pair then (t.cset.map fun n => (n, t.launch, k + 1)).toList else [])) ++ used) xs) leads

/-- A command after a restore: receivers, spans, agent and cluster follow the teams. One whose group has exited stays with its team, under a
slot that no core has. -/
def Saved.cmd (sv : Saved) (s : State) (m : Cmd) : Cmd :=
  let recv := fun (r : Recv) =>
    match (sv.teams.filterMap fun x => (s.team? x.1.uid).map fun n => (x.1, n)).find? fun p =>
        p.1.seats.any fun y => y.core == r.core && y.folio == r.folio with
    | none => r
    | some p => { r with core := shiftCore p.1 p.2 r.core, folio := shiftOff p.1 p.2 r.core r.folio, arr := shiftOff p.1 p.2 r.core r.arr
                         resw := r.resw.map (shiftOff p.1 p.2 r.core) }
  let agent := match m.agent with
    | .group k n =>
      match (sv.teams.flatMap (·.2)).find? fun g => g.core == k && g.slot == n with
      | some g =>
        match (s.members g.team).find? (·.index == g.index) with
        | some h => Agent.group h.core h.slot
        | none => m.agent
      | none =>
        match (sv.teams.filterMap fun x => (s.team? x.1.uid).map fun n => (x.1, n)).find? (·.1.uid == m.team) with
        | some p => Agent.group (shiftCore p.1 p.2 k) 32
        | none => m.agent
    | a => a
  { m with recvs := m.recvs.map recv, agent := agent, cluster := clusterOf (agentCore agent), units := m.units.map (FUnit.again (m.kind == .pagereq))
           spans := m.spans.map fun x => (sv.chase s { span := x, team := m.team, tag := m.uid }).span }

/-- A ligature engine after a restore. -/
def Saved.engine (sv : Saved) (s : State) (e : LigEngine) : Option LigEngine :=
  match sv.teamAt s e.core e.team with
  | none => none
  | some p =>
    let by_ := e.faultBy.bind fun n => ((sv.teams.flatMap (·.2)).find? fun g => g.core == e.core && g.slot == n).bind fun g =>
      ((s.members g.team).find? (·.index == g.index)).map (·.slot)
    some { e with core := shiftCore p.1 p.2 e.core, faultBy := by_, freeAt := 0 }

/-- A record in a save names the place where its group sits now (R290). -/
def TrapRec.placed (r : TrapRec) (core slot hw : Nat) : TrapRec :=
  { r with a := .ofNat 64 (r.a.toNat - fld r.a.toNat 16 13 * 2 ^ 16 + 2 ^ 16 * hw + 2 ^ 22 * slot + 2 ^ 27 * (core % 4)) }

/-- A restored group: ready, its instruction to issue again; a trap record is queued again first (R301). -/
def State.restoreGroup (s : State) (g : Group) : State :=
  match g.run with
  | .saving .trap (some r) => State.settleTrap (s.setGroup { g with run := .trapped (r.placed g.core g.slot ((s.hwOf g.team).getD 0)) false }) g.core g.slot
  | .saving .. => s.setGroup { g with run := .ready, notBefore := s.cycle + 1 }
  | _ => s

/-- Restore one context in a cluster, if it has room. -/
def State.restoreIn (s : State) (sv : Saved) (cluster : Nat) : Option State :=
  (s.restoreTeams sv ((List.range 4).map (4 * cluster + ·)) [] sv.teams).map fun s =>
    let cs := sv.cells.filterMap fun c => (s.team? c.1).bind fun t => (nth t.seats c.2.1).map fun x => (s.imageKey t x c.2.2.1, c.2.2.2)
    let s := s.write cs
    let s := { s with
      reqs := s.reqs ++ sv.reqs
      treqs := s.treqs ++ sv.treqs.map fun (r : TaskReq) =>
        match sv.teamAt s r.core (some r.team) with
        | none => r
        | some p => { r with cluster := cluster, core := shiftCore p.1 p.2 r.core, slot := shiftOff p.1 p.2 r.core r.slot
                             word := shiftOff p.1 p.2 r.core r.word }
      saved := s.saved.filter (· != sv) }
    let s := (sv.cmds.map (sv.cmd s)).foldl (fun s m => { s with cmds := s.cmds ++ [s.beginUnits m] }) s
    let s := (sv.ligs.filterMap (sv.engine s)).foldl State.setLig s
    (s.groups.filter fun g => sv.teams.any fun x => x.1.uid == g.team).foldl State.restoreGroup s

/-- Restore every context of a queue, all or nothing. -/
def State.restoreAll (s : State) (p : Partition) : List Saved → Option State
  | [] => some s
  | sv :: svs => firstState (fun c => (s.restoreIn sv c).bind fun s => s.restoreAll p svs) p.clusters

/-- Try to restore a mapped queue's contexts. -/
def State.tryRestore (s : State) (p : Partition) (q : Nat) : State :=
  match s.restoreAll p ((s.savedOf p.p q).filter fun x => !x.held) with
  | some t => t
  | none => s

/-- The pending queue that is mapped next. -/
def State.nextPending (s : State) (part : Nat) : Option PendingQ :=
  let xs := s.pending part
  xs.find? fun x => xs.all fun y => decide (y.prio < x.prio) || (y.prio == x.prio && decide (x.since ≤ y.since))

/-- Map a queue to a slot: what its launches take from the descriptor, its packets, its reservation's lanes again: the packet is
replayed, so that a request above the share is a queue error (R325, R326). -/
def State.mapQueue (s : State) (p : Partition) (h : HwSlot) (x : PendingQ) (d : QDesc) : State :=
  let m : Mapped := { q := x.q, prio := d.prio, priv := d.priv, diag := d.diag, since := s.time, evicting := false, stopped := d.err != 0
                      cursor := x.cursor.getD d.ridx.toNat, packets := x.packets, replay := x.replay }
  let resv := match x.replay with
    | some v => some { ends := v.1, lanes := v.2, pinned := [], until_ := 0, waiting := true, lapsing := false }
    | none => h.resv
  let s := { s with
    pendq := s.pendq.filter (· != x)
    saved := s.saved.map fun (v : Saved) => if v.part == h.part && v.queue == x.q then { v with held := false, hw := h.n } else v
    launches := s.launches.map fun (l : Launch) => if l.part == h.part && l.queue == x.q then { l with hw := h.n } else l }
  let t := s.setHw { h with queue := some m, resv := resv }
  if resv.any fun v => v.waiting && t.overShare h v then State.queueError (t.setHw { h with queue := some m, resv := none }) p x.q 6
  else t.tryPin h.n

/-- QUEUE_MAP: a free slot takes the next pending queue; a slot whose contexts had no room tries again, and an eviction goes on. -/
def execQueueMap (part slot : Nat) (s : State) : Out :=
  match s.hw? slot, s.part? part with
  | some h, some p =>
    if h.part ≠ part then .next s
    else
      match h.queue with
      | some m => .next (if m.evicting then s.evictOn slot else s.tryRestore p m.q)
      | none =>
        match s.nextPending part with
        | none => .next s
        | some x =>
          match s.qdesc p x.q with
          | .error .busy => .next s
          | .error e =>
            .next (State.tableFault { s with pendq := s.pendq.map fun (y : PendingQ) => if y = x then { y with idle := true } else y } p x.q e)
          | .ok d => .next ((s.mapQueue p h x d).tryRestore p x.q)
  | _, _ => .next s

end Sys2Proof.Machine
end

