-- ==== Sys2Proof/Machine/Proof.lean ====
section
/-! DEFINITION. The proof core's own instructions: the debug window (14 R293 to R296), TRET (R297), control and status
registers and the trap and event queues (R291, R292; 17 R362), XLATINV and shootdowns (16 R341, R342). -/

namespace Sys2Proof.Machine

/-! ### The debug window (R293 to R296) -/

/-- A group stopped by a trap whose pending commits are complete: the proof core sees its state only then (01 R32). -/
def Group.inTrap (g : Group) : Bool :=
  match g.run with
  | .trapped _ queued => queued
  | _ => false

/-- DBGMAP. -/
def execDbgmap (d a : SReg) (s : State) : Out :=
  withProof s fun c p =>
    let x := (s.sregA c.agent a.toNat).toNat
    if 128 ≤ x then s.trap c cILLOP
    else
      let core := 4 * p.cluster + x % 4
      let st := match s.group? core (x / 4) with
        | none => 1
        | some g => if g.run == .exited then 1 else if g.inTrap then 0 else 2
      State.status (s.setProof { p with map := if st = 0 then some (core, x / 4) else none }) c d (.ofNat 64 st)

/-- DBGMAP.U. -/
def execDbgmapU (d : SReg) (s : State) : Out :=
  withProof s fun c p => State.status (s.setProof { p with map := none }) c d 0

/-- Memory key of a debug-window byte that lies in memory (R294). -/
def State.debugKey (s : State) (g : Group) (off : Nat) : Option Nat :=
  match s.team? g.team with
  | none => none
  | some t =>
    if off < 0x10000 then (if off < g.vregs * 4 * g.width then some (g.vkey 0 0 + off) else none)
    else if off < 0x10400 then some (g.skey 0 + (off - 0x10000))
    else if 0x100000 ≤ off ∧ off < 0x200000 then
      (if off - 0x100000 < t.krec.folio then (t.seat? g.core).map fun x => storeKey g.core (x.folio + (off - 0x100000)) else none)
    else if 0x200000 ≤ off ∧ off < 0x300000 then
      let n := (off - 0x200000) / 4096
      (if n < t.krec.galley then (t.seat? g.core).map fun x => tileKey g.core (x.tiles.getD n 0) + off % 4096 else none)
    else none

/-- A doubleword of state outside the store, by its offset. -/
def State.debugWord (s : State) (g : Group) (off : Nat) : Option Nat :=
  let t := s.team? g.team
  if off = 0x10400 then some g.pc.toNat
  else if off = 0x10408 then some g.fstat.toNat
  else if off = 0x10410 then some g.dsel.toNat
  else if off = 0x10418 then some ((t.map (·.num)).getD 0)
  else if 0x10440 ≤ off ∧ off < 0x104C0 then some (g.mask (.ofNat 4 ((off - 0x10440) / 8))).toNat
  else if 0x104C0 ≤ off ∧ off < 0x10580 then some (leNat ((g.joinBytes.drop (off - 0x104C0)).take 8))
  else if off = 0x10580 then some g.validBits
  else if 0x10588 ≤ off ∧ off < 0x105A8 then some (g.parkMap / 2 ^ (8 * (off - 0x10588)) % 2 ^ 64)
  else if off = 0x105A8 then some (match g.lock with
    | some l => 2 ^ 63 + l.2
    | none => 0)
  else if 0x300000 ≤ off ∧ off < 0x300400 then
    t.map fun t => (t.formes.toList.getD ((off - 0x300000) / 64) 0).toNat / 2 ^ (8 * (off % 64)) % 2 ^ 64
  else none

/-- Put a doubleword of a value at a byte offset of a larger one. -/
def putWord (x off y : Nat) : Nat := x - 2 ^ (8 * off) * (x / 2 ^ (8 * off) % 2 ^ 64) + 2 ^ (8 * off) * (y % 2 ^ 64)

/-- Change a rejoin register's word k: enrolled, arrived, rejoin point. -/
def Rejoin.setWord (j : Rejoin) (k : Nat) (x : DWord) : Rejoin :=
  if k = 0 then { j with enrolled := x } else if k = 1 then { j with arrived := x } else { j with point := x }

/-- Set the parked lanes from a lane map. -/
def Group.setParkMap (g : Group) (m : Nat) : Group :=
  { g with rejoins := g.rejoins.mapIdx fun n j =>
      { j with parked := maskOf ((List.range g.width).filter fun i => fld m (4 * i) 4 == 8 + n) } }

/-- Write a doubleword of state outside the store; read-only words ignore it. -/
def State.setDebugWord (s : State) (g : Group) (off x : Nat) : State :=
  if off = 0x10400 then s.setGroup { g with pc := .ofNat 64 x, checkPc := true, fresh := false }
  else if off = 0x10408 then s.setGroup { g with fstat := .ofNat 6 x }
  else if off = 0x10410 then s.setGroup { g with dsel := .ofNat 64 x &&& dselMask }
  else if 0x10440 ≤ off ∧ off < 0x104C0 then s.setGroup (g.setMask (.ofNat 4 ((off - 0x10440) / 8)) (.ofNat 64 x))
  else if 0x104C0 ≤ off ∧ off < 0x10580 then
    let n := (off - 0x104C0) / 24
    s.setGroup { g with rejoins := g.rejoins.setIfInBounds n ((g.rejoins.toList.getD n .off).setWord ((off - 0x104C0) / 8 % 3) (.ofNat 64 x)) }
  else if off = 0x10580 then s.setGroup { g with rejoins := g.rejoins.mapIdx fun n j => { j with valid := fld x n 1 == 1 } }
  else if 0x10588 ≤ off ∧ off < 0x105A8 then s.setGroup (g.setParkMap (putWord g.parkMap (off - 0x10588) x))
  else if 0x300000 ≤ off ∧ off < 0x300400 then
    match s.team? g.team with
    | some t =>
      let n := (off - 0x300000) / 64
      s.setTeam { t with formes := t.formes.setIfInBounds n (.ofNat 512 (putWord (t.formes.toList.getD n 0).toNat (off % 64) x)) }
    | none => s
  else s

/-- A byte of the debug window, if the offset is in the table. -/
def State.debugByte (s : State) (g : Group) (off : Nat) : Option Byte :=
  match s.debugKey g off with
  | some k => some (if 0x10000 ≤ off ∧ off < 0x10008 then 0 else s.engineByte k)
  | none => (s.debugWord g (off / 8 * 8)).map fun x => .ofNat 8 (x / 2 ^ (8 * (off % 8)))

/-- Write a byte of state outside the store. -/
def State.setDebugByte (s : State) (core slot : Nat) (b : Nat × Byte) : State :=
  match s.group? core slot with
  | none => s
  | some g =>
    match s.debugKey g b.1, s.debugWord g (b.1 / 8 * 8) with
    | none, some x =>
      let sh := 2 ^ (8 * (b.1 % 8))
      s.setDebugWord g (b.1 / 8 * 8) (x - sh * (x / sh % 256) + sh * b.2.toNat)
    | _, _ => s

/-- The bytes of memory that bytes at debug-window offsets change; s0 ignores them. -/
def State.debugCells (s : State) (core slot : Nat) (bs : List (Nat × Byte)) : List Host.Cell :=
  match s.group? core slot with
  | none => []
  | some g => bs.filterMap fun b => if 0x10000 ≤ b.1 ∧ b.1 < 0x10008 then none else (s.debugKey g b.1).map fun k => (k, b.2)

/-- Write bytes at debug-window offsets: those in memory at once (18 R390), the others one by one. -/
def State.debugWrite (s : State) (core slot : Nat) (bs : List (Nat × Byte)) : State :=
  bs.foldl (fun s b => s.setDebugByte core slot b) (s.write (s.debugCells core slot bs))

/-- The code of a debug access (R295), decided when it issues (log 22). Where several codes apply the spec gives no precedence: the model
takes the first of 2, 3, 4 and 5; and a DBGWR to a tile during a matrix operation of the team takes 5 as a DBGRD does, which is the only one
the table names (DESIGN CHOICE, log 22). -/
def State.debugCode (s : State) (p : ProofCore) (wr : Bool) (off n : Nat) : Nat :=
  match p.map.bind fun m => s.group? m.1 m.2 with
  | none => 1
  | some g =>
    let offs := (List.range n).map (off + ·)
    if offs.any fun o => (s.debugByte g o).isNone then 2
    else if wr && offs.any fun o => (s.debugKey g o).any fun k => decide (o < 0x200000) && s.chases.any fun e => e.span.overlaps (keyCore k) (keyOff k) 1 then 3
    else if off % n ≠ 0 then 4
    else if 0x200000 ≤ off ∧ off < 0x300000 ∧ s.mats.any (fun m => m.team == g.team) then 5
    else 0

/-- A debug access: L = 60 (R294). -/
def debugAccess (s : State) (la : Nat) (wd : Width) (a : SReg) (m : Byte) (wr : Option SReg) (d : Nat) : Out :=
  withProof s fun c p =>
    let n := wsize wd
    let off := baseOf s c.agent a (n * m.toNat) % 2 ^ 32
    let code := s.debugCode p wr.isSome off n
    let s := s.setProof { p with dbgstat := .ofNat 64 code }
    let u := s.uid
    let at_ := p.map.getD (0, 0)
    let go := fun (s : State) (w : Option (List Byte)) (commit : Nat) =>
      if code ≠ 0 then s
      else s.launchLocals [{ uid := u, agent := c.agent, due := s.cycle + if wr.isSome then 59 else 58, commit := commit, addr := off, size := n, acq := false
                             op := .debug at_.1 at_.2 off w d }]
    match wr with
    | none =>
      let t := State.later { s with uid := u + 1 } c 60 la fun x => if code = 0 then x else { x with regs := dstReg (some d) 0 }
      go t none (u + 1)
    | some r => go (State.finish { s with uid := u + 1 } c) (some (leBytes n (s.sregA c.agent r.toNat).toNat)) 0

/-- DBGRD. -/
def execDbgrd (la : BitVec 4) (wd : Width) (d a : SReg) (m : Byte) (s : State) : Out := debugAccess s la.toNat wd a m none d.toNat

/-- DBGWR. -/
def execDbgwr (wd : Width) (d a : SReg) (m : Byte) (s : State) : Out := debugAccess s 0 wd a m (some d) 0

/-- Perform a local access of any kind; a debug access reads or writes the mapped group's state. -/
def State.performAny (s : State) (l : Local) : State :=
  match l.op with
  | .debug core slot off w reg =>
    match w with
    | some bs => s.debugWrite core slot (cellsAt off bs)
    | none =>
      match s.group? core slot with
      | none => s.feed l.commit [] (dstReg (some reg) 0) fNone
      | some g =>
        let bs := (List.range l.size).map fun i => (s.debugByte g (off + i)).getD 0
        State.feed { s with fresh := s.fresh + 1 } l.commit [] (dstReg (some reg) (leNat bs)) fNone
  | _ => s.performOne l

/-! ### TRET (R297) -/

/-- TRET waits for the proof core's debug accesses, and ends the mapping. R295 records a code for each debug instruction and names none for a
TRET of a mapped group, nor for DBGMAP: both leave DBGSTAT as it is (DESIGN CHOICE, log 22). -/
def tretOp (s : State) (k : State → Group → State) : Out :=
  withProof s fun c p =>
    if !(s.localsOf c.agent).isEmpty then s.retryAt c 0
    else
      match p.map.bind fun m => s.group? m.1 m.2 with
      | none => State.finish (s.setProof { p with dbgstat := 1, map := none }) c
      | some g =>
        let s := s.setProof { p with map := none }
        State.finish (if g.inTrap then k (s.dropHeld (.group g.core g.slot)) g else s) c

/-- TRET: the group issues the instruction at its program counter, whose line it enters anew (05 R118). -/
def execTret (s : State) : Out := tretOp s fun s g => s.wake { g with line := none }

/-- TRET #1: the group ends as by EXIT. -/
def execTretExit (s : State) : Out := tretOp s fun s g => (s.endGroup g.core g.slot).handCheck g.team

/-! ### Control and status registers (R291, R292, 17 R362) -/

/-- Some lane of the package serves a data plane now. -/
def State.anyLane (s : State) : Bool :=
  (List.range 16).any fun k => (s.socket k).st == 3 && (List.range 64).any fun l => (s.planeLane (16 * k + l / 4) (l % 4)).isSome

/-- An endpoint is reachable: some data plane is served here and there (17 R347, R360, R362). -/
def State.reaches (s : State) (ep : Nat) : Bool :=
  if s.lanes.any (·.s == 16 + ep) then
    (List.range 256).any fun p => s.moduleLane ep p && [0, 1, 2, 3].any fun k => (s.planeLane p k).isSome
  else s.anyLane

/-- Reachability of 64 endpoints, a bit each (17 R362). -/
def State.reachBits (s : State) (first : Nat) : DWord := maskOf ((List.range 64).filter fun i => s.reaches (first + i))

/-- A register's value. -/
def State.csr (s : State) (p : ProofCore) : Csr → DWord
  | .pcid => .ofNat 64 (p.cluster + 2 ^ 8 * s.partOfDie (dieOf p.cluster))
  | .treca => p.trec.a
  | .trecb => p.trec.b
  | .trecc => p.trec.c
  | .trecd => p.trec.d
  | .tqcount => .ofNat 64 p.queue.length
  | .orphovf => p.orphovf.setWidth 64
  | .dbgstat => p.dbgstat
  | .predl => p.predl
  | .feva => p.feva
  | .fevb => p.fevb
  | .fevcount => .ofNat 64 p.fev.length
  | .fevovf => p.fevovf.setWidth 64
  | .preach0 => s.reachBits 0
  | .preach1 => s.reachBits 64
  | .fepid => .ofNat 64 s.boot.endpoint

/-- CSRRD. -/
def execCsrrd (d : SReg) (r : Csr) (s : State) : Out := withProof s fun c p => s.status c d (s.csr p r)

/-- CSRWR: a read-only register takes ILLOP. -/
def execCsrwr (r : Csr) (a : SReg) (s : State) : Out :=
  withProof s fun c p =>
    let x := s.sregA c.agent a.toNat
    match r with
    | .orphovf => State.finish (s.setProof { p with orphovf := p.orphovf &&& ~~~(x.setWidth 32) }) c
    | .fevovf => State.finish (s.setProof { p with fevovf := p.fevovf &&& ~~~(x.setWidth 32) }) c
    | .predl => State.finish (s.setProof { p with predl := if 1 ≤ x.toNat ∧ x.toNat ≤ 1000 then x else 100 }) c
    | _ => s.trap c cILLOP

/-- Take the head record, if there is one. -/
def State.takeTrap (s : State) (c : Cur) (p : ProofCore) (d : SReg) : Option State :=
  match p.queue with
  | [] => none
  | r :: rs => some (State.setSregA (s.setProof { p with trec := r.2, queue := rs }) c.agent d.toNat r.2.a)

/-- TQNEXT. -/
def execTqnextRead (d : SReg) (s : State) : Out :=
  withProof s fun c p =>
    match s.takeTrap c p d with
    | some t => t.finish c
    | none => s.pwait p.cluster (.tqnext c d)

/-- TQNEXT_WAIT_END. -/
def execTqnextWaitEnd (cluster : Nat) (s : State) : Out :=
  let p := s.proof cluster
  match p.wait with
  | some (.tqnext c d) =>
    match s.takeTrap c p d with
    | some t => .next (t.resume c)
    | none => .next s
  | _ => .next s

/-- Take the head event record. -/
def State.takeEvent (s : State) (c : Cur) (p : ProofCore) (d : SReg) : Option State :=
  match p.fev with
  | [] => none
  | r :: rs => some (State.setSregA (s.setProof { p with feva := r.1, fevb := r.2, fev := rs }) c.agent d.toNat r.1)

/-- FEVNEXT. -/
def execFevnextRead (d : SReg) (s : State) : Out :=
  withProof s fun c p =>
    match s.takeEvent c p d with
    | some t => t.finish c
    | none => s.pwait p.cluster (.fevnext c d)

/-- FEVNEXT_WAIT_END. -/
def execFevnextWaitEnd (cluster : Nat) (s : State) : Out :=
  let p := s.proof cluster
  match p.wait with
  | some (.fevnext c d) =>
    match s.takeEvent c p d with
    | some t => .next (t.resume c)
    | none => .next s
  | _ => .next s

/-! ### Shootdowns (16 R341, R342) -/

/-- A cached leaf is dropped. -/
def dropsCached (kind operand : Nat) (c : Cached) : Bool :=
  if kind = 0 then decide (c.unit ≤ operand / 65536) && decide (operand / 65536 < c.unit + c.count)
  else if kind = 1 then true
  else c.ep == operand || c.tables.any (·.2.1 == operand)

/-- A translation outcome came from a dropped entry. -/
def dropsOut (kind operand : Nat) : XOut → Bool
  | .ok ep _ _ _ _ first count tables =>
    if kind = 0 then decide (first ≤ operand / 65536) && decide (operand / 65536 < first + count)
    else if kind = 1 then true
    else ep == operand || tables.any (·.2.1 == operand)
  | .bad .. => false

/-- The cached entries of a unit after a shootdown: for one page, another leaf is kept without the table pointers on the way to that
page. -/
def Cached.shot (kind operand : Nat) (c : Cached) : Option Cached :=
  if dropsCached kind operand c then none
  else if kind = 0 then some { c with ptrs := c.ptrs.filter fun l => !c.passes l operand }
  else some c

/-- What becomes of a unit: a walk under way, and an outcome that came from a dropped entry and serves no request that has been sent or
waits, begin anew. -/
def FUnit.shoot (kind operand : Nat) (used : Bool) (u : FUnit) : FUnit :=
  match u.res with
  | .served o => if used || !dropsOut kind operand o then u else { u with res := .pending }
  | _ => { u with res := .pending }

/-- A command's units after a shootdown: those of a PAGEREQ that are over wait for the driver (R340), and those of a command whose
requests are made stay in use until they have ended (R342). -/
def Cmd.shot (kind operand : Nat) (m : Cmd) : Cmd :=
  if m.charged then { m with units := m.units.map (FUnit.shoot kind operand (m.resDone || m.kind == .pagereq)) } else m

/-- A saved command's units: the requests that are still to be sent walk anew after the restore (R342, R343). -/
def Saved.shot (kind operand : Nat) (v : Saved) : Saved :=
  { v with cmds := v.cmds.map fun (m : Cmd) =>
      let open_ : FUnit → Bool := fun u => v.reqs.any fun r => r.cmd == m.uid && r.run != .finished && (r.va / 65536 == u.va / 65536 || r.op == .copy)
      { m with units := m.units.map fun u => u.shoot kind operand (m.kind == .pagereq || (m.resDone && !open_ u)) } }

/-- A request used a dropped entry. -/
def State.usedDropped (s : State) (kind operand : Nat) (r : Req) : Bool :=
  r.run != .finished &&
    match s.cmd? r.cmd with
    | none => false
    | some m => m.units.any fun u => (match u.res with
        | .served (.ok a b c d e f g h) => (u.va / 65536 == r.va / 65536 || r.op == .copy) && dropsOut kind operand (.ok a b c d e f g h)
        | _ => false)

/-- Level of a request's leaf. -/
def State.reqLevel (s : State) (r : Req) : Nat :=
  match (s.cmd? r.cmd).bind fun m => m.units.find? fun u => u.va / 65536 == r.va / 65536 with
  | some u =>
    match u.res with
    | .served (.ok _ _ _ _ _ _ n _) => levelOf n
    | _ => 0
  | none => 0

/-- Set or clear a reach bit. -/
def Partition.setReach (p : Partition) (ep : Nat) (on : Bool) : Partition :=
  let f : DWord → Nat → DWord := fun x i => if on then x ||| BitVec.ofNat 64 (2 ^ i) else x &&& ~~~ (BitVec.ofNat 64 (2 ^ i))
  if ep < 64 then { p with reach0 := f p.reach0 ep } else { p with reach1 := f p.reach1 (ep - 64) }

/-- The next shootdown of a partition takes effect (R342). -/
def State.beginShoot (s : State) (part : Nat) : State :=
  match s.part? part with
  | none => s
  | some p =>
    match p.shoots with
    | [] => s
    | x :: xs =>
      if x.begun then s
      else
        let mine : Nat → Bool := fun c => s.partOfDie (dieOf c) == part
        let used := s.reqs.filter fun r => r.part == part && s.usedDropped x.kind x.operand r
        let gone := if x.kind = 2 then s.reqs.filter fun r => r.part == part && r.ep == x.operand && r.run != .finished else []
        let p := { p with shoots := { x with begun := true, reqs := used.map fun r => (r.cmd, r.n) } :: xs }
        let p := if x.kind = 2 then p.setReach x.operand false else if x.kind = 3 then p.setReach x.operand true else p
        let s := { s.setPart p with
          cached := s.cached.filterMap fun c => if mine c.cluster then c.shot x.kind x.operand else some c
          cmds := s.cmds.map fun (m : Cmd) => if mine m.cluster then m.shot x.kind x.operand else m
          saved := s.saved.map fun (v : Saved) => if v.part == part then v.shot x.kind x.operand else v }
        gone.foldl (fun s r => match s.req? r.cmd r.n with
          | some q => s.failReq q 3 (s.reqLevel q) x.operand true
          | none => s) s

/-- A shootdown reaches the partition's shootdown point. -/
def State.shoot (s : State) (part kind operand : Nat) (from_ : Option Nat) : State :=
  match s.part? part with
  | none => s
  | some p =>
    let x : Shoot := { id := s.uid, kind := kind, operand := operand, from_ := from_, begun := false, reqs := [] }
    State.beginShoot (State.setPart { s with uid := s.uid + 1 } { p with shoots := p.shoots ++ [x] }) part

/-- A request has ended: it is over, and what its command fills with zeros is filled, the zeros that a copy writes for it among them
(R342). -/
def State.reqEnded (s : State) (k : Nat × Nat) : Bool :=
  match s.req? k.1 k.2 with
  | none => true
  | some r => r.run == .finished && !((s.cmd? k.1).any fun m => m.items.any fun i => i.fill && !i.done)
      && !(r.op == .copy && s.reqs.any fun q => q.cmd == k.1 && q.op == .fill && q.run != .finished)

/-- SHOOTDOWN_COMPLETE. -/
def execShootdownComplete (part : Nat) (s : State) : Out :=
  match s.part? part with
  | none => .next s
  | some p =>
    match p.shoots with
    | [] => .next s
    | x :: xs =>
      if !x.begun || !x.reqs.all s.reqEnded then .next s
      else
        let s := s.setPart { p with shoots := xs }
        let s := match x.from_ with
          | none => s
          | some c =>
            match (s.proof c).wait with
            | some (.xlat cur d id) => if id = x.id then State.resume (s.setSregA cur.agent d.toNat 0) cur else s
            | _ => s
        .next (s.beginShoot part)

/-- XLATINV: an operand out of range writes status 1 and does nothing; else the proof core waits for the completion. -/
def xlatinv (s : State) (d a : SReg) (kind : Nat) (ok : Nat → Bool) : Out :=
  withProof s fun c p =>
    let x := (s.sregA c.agent a.toNat).toNat
    if !ok x then s.status c d 1
    else State.shoot (s.pwait p.cluster (.xlat c d s.uid)) (s.partOfDie (dieOf p.cluster)) kind x (some p.cluster)

/-- XLATINV.PG. -/
def execXlatinvPg (d a : SReg) (s : State) : Out := xlatinv s d a 0 fun x => x / 2 ^ 57 == 0 && x % 65536 == 0

/-- XLATINV.ALL. -/
def execXlatinvAll (d a : SReg) (s : State) : Out := xlatinv s d a 1 (· == 0)

/-- XLATINV.UNREACH. -/
def execXlatinvUnreach (d a : SReg) (s : State) : Out := xlatinv s d a 2 fun x => decide (x < 128)

/-- XLATINV.REACH. -/
def execXlatinvReach (d a : SReg) (s : State) : Out := xlatinv s d a 3 fun x => decide (x < 128)

end Sys2Proof.Machine
end

