-- ==== Sys2Proof/Machine/Fabric.lean ====
section
/-! DEFINITION. Sockets, lanes and fabric events (17 R358, R360, R361, R363 to R366). Fields of an event record that its
kind does not use are free values (log 23). -/

namespace Sys2Proof.Machine

/-! ### Events (R361) -/

/-- Give an event record to one proof core's queue of 64 (R362). -/
def State.giveEvent (s : State) (a b : DWord) (c : Nat) : State :=
  let p := s.proof c
  if p.fev.length < 64 then s.setProof { p with fev := p.fev ++ [(a, b)] } else s.setProof { p with fevovf := p.fevovf + 1 }

/-- Give it to the host ring of 256; each record posted raises the fabric interrupt (R366). -/
def State.hostEvent (s : State) (a b : DWord) : State :=
  if (s.fevput - s.fevget).toNat < 256 then
    let i := s.fevput.toNat % 256
    State.msix { s with fevrec := (s.fevrec.filter (·.1 != i)) ++ [(i, a, b)], fevput := s.fevput + 1 } 0
  else { s with fevhovf := s.fevhovf + 1 }

/-- A field of an event record, free where the kind gives none. -/
def eventField (f : DWord) (x : Option Nat) (lo w : Nat) : Nat := x.getD (f.toNat / 2 ^ lo) % 2 ^ w * 2 ^ lo

/-- Report an event to every proof core and to the host ring. -/
def State.postEvent (s : State) (kind : Nat) (peer plane sk pos : Option Nat) (b : Nat) : State :=
  let f := Config.freeValue s.fresh
  let a : DWord := .ofNat 64 (s.eseq % 2 ^ 32 * 2 ^ 32 + eventField f peer 25 7 + eventField f plane 16 9 + eventField f sk 12 4
    + eventField f pos 5 7 + kind)
  let s := { s with fresh := s.fresh + 1, eseq := s.eseq + 1 }
  ((List.range 96).foldl (fun s c => s.giveEvent a (.ofNat 64 b) c) s).hostEvent a (.ofNat 64 b)

/-- The plane of a lane, if it has one. -/
def Lane.onPlane (l : Lane) : Option Nat := if l.st = 0 then none else some l.plane

/-- Report an event of a lane. -/
def State.laneEvent (s : State) (kind sk pos b : Nat) : State := s.postEvent kind none (s.lane sk pos).onPlane (some sk) (some pos) b

/-- A change of the lanes, and a TOPOCHANGE for each peer that becomes unreachable by it, or reachable again (R358, R360). -/
def State.withTopology (s : State) (k : State → State) : State :=
  let t := k s
  ((List.range 128).filter fun e => e != t.boot.endpoint && t.reaches e != s.reaches e).foldl
    (fun t e => t.postEvent 6 (some e) none none none (if t.reaches e then 1 else 0)) t

/-! ### Moving streams (R357, R358) -/

/-- The streams of a lane: those that went by it last, or have an unacknowledged chunk that did. -/
def State.streamsOn (s : State) (p : Nat × Nat → Bool) : List TxStream := s.tx.filter fun x => x.lane.any p || x.copies.any (·.lane.any p)

/-- The position whose place a lane takes or took: its own, or the one a spare replaced. -/
def Lane.place (l : Lane) : Nat := if l.replaced < 68 then l.replaced else l.pos

/-- The plane and the slot of a lane of the package. -/
def State.slotOfLane (s : State) (l : Nat × Nat) : Nat × Nat := let p := (s.lane l.1 l.2).place; (16 * l.1 + p / 4, p % 4)

/-- A receive slot can be granted to a peer at once: no other sender has a grant of it open. -/
def State.recvFree (s : State) (peer vc plane slot : Nat) : Bool :=
  s.given.all fun g => !(g.plane == plane && g.slot == slot && g.vc == vc) || g.peer == peer

/-- The receive slot of the lowest-numbered plane that serves a peer, carries no stream, is not pinned and can be granted at once. -/
def State.otherLane (s : State) (peer vc : Nat) : Option (Nat × Nat) :=
  let pinned := s.pins 64
  (List.range 1024).findSome? fun i =>
    match if s.moduleLane peer (i / 4) then s.planeLane (i / 4) (i % 4) else none with
    | some l =>
      if s.tx.any (fun x => x.copies.any (·.lane == some l)) || pinned.any (fun x => x.2.1 == i / 4 && x.2.2 == i % 4)
        || !s.recvFree peer vc (i / 4) (i % 4) then none else some l
    | none => none

/-- The slot to which the package moves a stream is granted to its sender, unless a grant of it is open (R358). -/
def State.grantLane (s : State) (x : TxStream) (l : Nat × Nat) : State :=
  let p := s.slotOfLane l
  if s.given.any fun g => g.plane == p.1 && g.slot == p.2 && g.vc == x.vc then s
  else { s with given := s.given ++ [{ peer := x.src, plane := p.1, slot := p.2, vc := x.vc, bursts := 16 }] }

/-- A RESUME of a stream that the package receives goes out on a control plane, with the next sequence it expects. -/
def State.sendResume (s : State) (sk : Nat) (x : TxStream) : State :=
  let n := (s.tx.takeWhile fun y => !(y.src == x.src && y.dst == x.dst && y.stream == x.stream && y.vc == x.vc)).length
  let k := s.socket sk
  if !s.controlTo x.src then s
  else State.setSocket { s with agenda := s.agenda ++ [.resume n (s.rxNext s.boot.endpoint x.src x.stream x.vc)] } { k with resumes := k.resumes + 1 }

/-- The other end of a stream. -/
def TxStream.peer (x : TxStream) (own : Nat) : Nat := if x.src = own then x.dst else x.src

/-- A stream whose copies stand on no lane. -/
def TxStream.aground (x : TxStream) : TxStream := { x with lane := none, copies := onLane none x.copies }

/-- Carry a stream on over another lane (R358). The package's own streams are sent again from the oldest unacknowledged chunk, by the lowest
grant that is held; for one that it receives it grants the lane `l` at once, if it has one, and the sender sends again, upon the package's
RESUME if the lane has failed. While there is no lane the stream waits for the first that a grant gives. -/
def State.carryOn (s : State) (sk : Nat) (failed : Bool) (l : Option (Nat × Nat)) (x : TxStream) : State :=
  let own := x.dst == s.boot.endpoint
  let s := match if own then l else none with
    | some l => s.grantLane x l
    | none => s
  if failed && own then
    let s := s.setTx x.aground
    if l.isSome then s.sendResume sk x else s
  else s.resend x.aground x.aground.copies

/-- Move streams, each to a lane that is free. -/
def State.moveStreams (s : State) (sk : Nat) (failed : Bool) : List TxStream → State
  | [] => s
  | x :: xs => State.moveStreams (s.carryOn sk failed (s.otherLane (x.peer s.boot.endpoint) x.vc) x) sk failed xs

/-! ### Pinned lanes that move (R365) -/

/-- As many lanes as can be pinned, `n` at most. -/
def State.pinUpTo (s : State) (taken : List (Nat × Nat × Nat)) (ep : Nat) : Nat → List (Nat × Nat × Nat)
  | 0 => []
  | n + 1 => (s.pinEndpoint taken ep (n + 1) (pinPlanes ep)).getD (s.pinUpTo taken ep n)

/-- Complete the pins of some endpoints. -/
def State.pinMore (s : State) (others : List (Nat × Nat × Nat)) (v : Resv) (have_ : List (Nat × Nat × Nat)) : List Nat → List (Nat × Nat × Nat)
  | [] => have_
  | e :: es =>
    let want := (v.ends.filter (· == e)).length * v.lanes
    s.pinMore others v (have_ ++ s.pinUpTo (others ++ have_) e (want - (have_.filter (·.1 == e)).length)) es

/-- Pinned lanes of sockets that are not Live move to other sockets; those that cannot leave the reservation smaller until
lanes become free. -/
def State.repin (s : State) (n : Nat) : State :=
  match s.hw? n with
  | none => s
  | some h =>
    match h.resv with
    | none => s
    | some v =>
      if v.waiting then s
      else s.setHw { h with resv := some { v with
        pinned := s.pinMore (s.pins n) v (v.pinned.filter fun x => (s.socket (x.2.1 / 16)).st == 3) (dedup v.ends) } }

/-- All reservations. -/
def State.repinAll (s : State) : State := (s.hws.map (·.n)).foldl State.repin s

/-- LANE_RESERVATION_PIN: a waiting reservation pins its lanes all or nothing; one that has lost lanes takes what is free. -/
def execLaneReservationPin (n : Nat) (s : State) : Out := .next ((s.tryPin n).repin n)

/-! ### Sockets (R365) -/

/-- The host's write of a socket command (R366). -/
def sockReg (sk cmd : Nat) : HostOp := .reg (0x200008 + 0x100 * sk) (.ofNat 64 cmd)

/-- A command that the state machine does not list. -/
def State.badCmd (s : State) (sk : Nat) : State := s.setSocket { s.socket sk with badcmd := true }

/-- A lane as training leaves it; a retired lane is never tried again (R363). -/
def Lane.trained (l : Lane) : Lane :=
  if l.st = 4 then l
  else { l with st := if l.pos < 64 then 1 else 0, plane := if l.pos < 64 then 16 * l.s + l.pos / 4 else 0x1FF, replaced := 127
                failAt := none, bad := 0, streams := [] }

/-- An engine goes Live: every lane is trained and joins the package's lanes, and spares are free. -/
def State.goLive (s : State) (sk : Nat) : State :=
  let t := s.withTopology fun s =>
    (List.range 68).foldl (fun s i => s.setLane (s.lane sk i).trained) (s.setSocket { s.socket sk with st := 3 })
  (((List.range 68).filter fun i => (t.lane sk i).st != 4).foldl (fun s i => s.laneEvent 3 sk i 1) t).repinAll

/-- SOCK_GO. -/
def execSockGo (sk : Nat) (s : State) : Out :=
  if 16 ≤ sk then .next s
  else .next (s.inOrder (sockReg sk 1) (if (s.socket sk).st = 2 ∨ (s.socket sk).st = 5 then s.goLive sk else s.badCmd sk))

/-- Draining ends: lasers off, ENGINEQUIESCE (R361: chunks moved while it drained). -/
def State.quiesced (s : State) (sk : Nat) : State :=
  let k := s.socket sk
  State.postEvent (s.setSocket { k with st := 5 }) 5 none none (some sk) none k.moved

/-- Move a socket's streams to other sockets, and count their chunks. -/
def State.drainMove (s : State) (sk : Nat) : State :=
  let xs := (s.streamsOn (·.1 == sk)).filter fun x => !x.copies.isEmpty
  let t := s.moveStreams sk false xs
  t.setSocket { t.socket sk with moved := (t.socket sk).moved + sumL (xs.map fun x => (x.copies.filter fun c => c.lane.any (·.1 == sk)).length) }

/-- A Live socket drains: grants and bursts begin no longer on its lanes; its streams and pinned lanes move. -/
def State.quiesce (s : State) (sk : Nat) : State :=
  State.repinAll (State.drainMove (s.withTopology fun s =>
    s.setSocket { s.socket sk with st := 4, drainAt := s.time + 20000 * nsUnits, moved := 0 }) sk)

/-- SOCK_QUIESCE. -/
def execSockQuiesce (sk : Nat) (s : State) : Out :=
  if 16 ≤ sk then .next s
  else .next (s.inOrder (sockReg sk 2) (if (s.socket sk).st = 3 then s.quiesce sk else s.badCmd sk))

/-- DRAIN_COMPLETE: no unacknowledged chunk is left on the socket's lanes. -/
def execDrainComplete (sk : Nat) (s : State) : Out :=
  .next (if (s.socket sk).st = 4 ∧ (s.streamsOn (·.1 == sk)).all fun x => x.copies.all fun c => !c.lane.any (·.1 == sk) then s.quiesced sk else s)

/-- DRAIN_TIMEOUT: 20 µs have elapsed; what is unacknowledged is replayed elsewhere. -/
def execDrainTimeout (sk : Nat) (s : State) : Out :=
  .next (if (s.socket sk).st = 4 ∧ (s.socket sk).drainAt ≤ s.time then (s.drainMove sk).quiesced sk else s)

/-- The ROM of a Failed socket is read again. A later LASERAGE may be reported (R363). -/
def State.resetSocket (s : State) (sk : Nat) : State :=
  State.setSocket { s with lanes := s.lanes.map fun (l : Lane) => if l.s == sk then { l with warned := false } else l }
    { s.socket sk with st := 1 }

/-- SOCK_RESET: of a Failed socket with an engine present. -/
def execSockReset (sk : Nat) (s : State) : Out :=
  if 16 ≤ sk then .next s
  else .next (s.inOrder (sockReg sk 3) (if (s.socket sk).st = 6 ∧ (s.socket sk).present then s.resetSocket sk else s.badCmd sk))

/-- ENGINE_INSERT: an Absent socket becomes Present and its ROM is read; in a Failed socket without an engine the new one waits
for RESET (log 23). -/
def execEngineInsert (sk : Nat) (rom : List Byte) (s : State) : Out :=
  let k := s.socket sk
  if 16 ≤ sk then .next s
  else if k.st = 0 then
    .next (State.setSocket { s with lanes := s.lanes.filter (·.s != sk) } { k with st := 1, present := true, rom := rom })
  else if k.st = 6 ∧ !k.present then
    .next (State.setSocket { s with lanes := s.lanes.filter (·.s != sk) } { k with present := true, rom := rom })
  else .next s

/-- A lane is active or a spare in use. -/
def Lane.inUse (l : Lane) : Bool := l.st == 1 || l.st == 2

/-- What identifies a stream at both ends. -/
def TxStream.id (x : TxStream) : Nat × Nat × Nat × Nat := (x.src, x.dst, x.stream, x.vc)

/-- Fail a lane: its record and LANEFAIL with its reason and the streams affected. -/
def State.failLane (s : State) (sk pos reason : Nat) : State :=
  let xs := s.streamsOn (· == (sk, pos))
  let t := s.laneEvent 1 sk pos (reason + 2 ^ 16 * xs.length)
  State.setLane { t with wire := t.wire.filter (·.lane != (sk, pos)), out := t.out.filter (·.lane != (sk, pos)) } { t.lane sk pos with st := 3, failAt := some t.time, bad := 0, streams := xs.map TxStream.id }

/-- ENGINE_REMOVE: a Live or Draining engine fails with every lane, and its streams replay on other sockets. -/
def execEngineRemove (sk : Nat) (s : State) : Out :=
  let k := s.socket sk
  if 16 ≤ sk ∨ !k.present then .next s
  else if k.st = 3 ∨ k.st = 4 then
    let t := s.withTopology fun s =>
      let t := ((List.range 68).filter fun i => (s.lane sk i).inUse).foldl (fun s i => s.failLane sk i 4) s
      t.setSocket { t.socket sk with st := 6, present := false }
    .next (State.repinAll (t.moveStreams sk true (t.streamsOn (·.1 == sk))))
  else .next (s.setSocket { k with st := 0, present := false, rom := [] })

/-- Bytes of an identity ROM. -/
def romBytes (rom : List Byte) (lo n : Nat) : List Byte := (List.range n).map fun i => rom.getD (lo + i) 0

/-- Verification of an identity ROM (R364). -/
def romOk (fw : List Byte) (sk : Nat) (rom : List Byte) : Bool :=
  Config.slhVerify (Config.firmwareKey fw 1) (romBytes rom 0 2256) (romBytes rom 2256 29792)
    && Config.partListed fw sk (romBytes rom 8 16) && (romBytes rom 2224 32).all (· == 0)

/-- ROM_VERIFY_DONE, with the vendor key of the verified firmware image. -/
def execRomVerifyDone (sk : Nat) (s : State) : Out :=
  let k := s.socket sk
  match s.boot.fw with
  | none => .next s
  | some fw => .next (if k.st = 1 then s.setSocket { k with st := if romOk fw.body sk k.rom then 2 else 6 } else s)

/-! ### Lanes (R358, R360, R363) -/

/-- Free spares of a socket. -/
def State.freeSpares (s : State) (sk : Nat) : Nat := ((List.range 68).filter fun i => (s.lane sk i).st == 0).length

/-- Failed active lanes of a socket that wait for a spare. -/
def State.awaitSpare (s : State) (sk : Nat) : Nat :=
  ((List.range 68).filter fun i => (s.lane sk i).st == 3 && (s.lane sk i).plane != 0x1FF && decide (68 ≤ (s.lane sk i).replaced)
    && !(List.range 68).any fun q => (s.lane sk q).st == 2 && (s.lane sk q).replaced == i).length

/-- A lane of a Live or Draining socket may fail: one in use, or a free spare that has lost light, which no event reports. -/
def State.mayFail (s : State) (sk pos reason : Nat) : Bool :=
  decide (sk < 16) && decide (pos < 68)
    && (s.laneUp (sk, pos) || (((s.socket sk).st == 3 || (s.socket sk).st == 4) && (s.lane sk pos).st == 0 && reason == 1))

/-- The failure of a lane; a socket whose every lane has failed is Failed (R365). -/
def State.loseLane (s : State) (sk pos reason : Nat) : State :=
  let t := if (s.lane sk pos).inUse then s.failLane sk pos reason else s.setLane { s.lane sk pos with st := 3, failAt := some s.time, bad := 0 }
  if (List.range 68).any fun i => (t.lane sk i).st ≤ 2 then t else t.setSocket { t.socket sk with st := 6 }

/-- A module's lane carries bursts. -/
def State.moduleUp (s : State) (k pos : Nat) : Bool := decide (16 ≤ k) && decide (k < 144) && decide (pos < 272) && (s.lane k pos).inUse

/-- The data plane of a module's lane: its own, or the one a spare in use serves. -/
def Lane.modulePlane (l : Lane) : Nat := if l.st = 2 then l.replaced else l.pos

/-- A stream off some lanes. -/
def TxStream.off (x : TxStream) (on : Nat × Nat → Bool) : TxStream :=
  { x with lane := x.lane.filter fun l => !on l, copies := x.copies.map fun (c : Chunk) => { c with lane := c.lane.filter fun l => !on l } }

/-- Streams to and from a module on one of its planes are off it: they go on upon a grant of another lane, or of this plane (R357). -/
def State.offPlane (s : State) (ep plane : Nat) : State :=
  let on : Nat × Nat → Bool := fun l => 16 * l.1 + (s.lane l.1 l.2).place / 4 == plane
  { s with
    tx := s.tx.map fun (x : TxStream) => if x.dst == ep || x.src == ep then x.off on else x
    wire := s.wire.filter fun b => !(b.src == ep && on b.lane), out := s.out.filter fun b => !(b.dst == ep && on b.lane) }

/-- A module's lane fails. The package reports no LANEFAIL for it (R361). -/
def State.moduleFail (s : State) (k pos : Nat) : State :=
  let l := s.lane k pos
  State.offPlane (s.withTopology fun s => s.setLane { l with st := 3, failAt := some s.time }) (k - 16) l.modulePlane

/-- LANE_FAIL: of a lane of a Live or Draining socket. While a free spare is left for it its streams wait for the spare's lock;
with none they move to another lane at once, as do all those of a socket that is Failed by it. -/
def execLaneFail (sk pos reason : Nat) (s : State) : Out :=
  if s.moduleUp sk pos then .next (s.moduleFail sk pos)
  else if !s.mayFail sk pos reason then .next s
  else
    let t := s.withTopology fun s => s.loseLane sk pos reason
    let spare := (t.socket sk).st == 3 && (s.lane sk pos).st == 1 && decide (t.awaitSpare sk ≤ t.freeSpares sk)
    let xs := if (t.socket sk).st = 6 then t.streamsOn (·.1 == sk) else if spare then [] else t.streamsOn (· == (sk, pos))
    let t := if spare then t else t.setLane { t.lane sk pos with streams := [] }
    .next (State.repinAll (t.moveStreams sk true xs))

/-- Steer a free spare onto the plane of another lane of its socket. -/
def State.steer (s : State) (sk spare : Nat) (l : Lane) : State :=
  s.setLane { s.lane sk spare with st := 2, replaced := l.place, plane := l.plane, bad := 0 }

/-- A module's spare takes the place of a failed lane of its group of 16 planes. -/
def State.moduleSpare (s : State) (k pos spare : Nat) : State :=
  let l := s.lane k pos
  if k < 144 ∧ l.st = 3 ∧ pos < 256 ∧ 272 ≤ l.replaced ∧ (s.lane k spare).st = 0 ∧ (spare = 256 + pos / 16 ∨ (spare < 256 ∧ spare / 16 = pos / 16))
      ∧ !s.moduleLane (k - 16) pos then
    s.withTopology fun s => s.setLane { s.lane k spare with st := 2, replaced := pos, plane := pos }
  else s

/-- RETRAIN of a module's lane reports its peer and plane (R361). -/
def State.moduleRetrain (s : State) (k pos b : Nat) : State := s.postEvent 3 (some (k - 16)) (some (s.lane k pos).modulePlane) none none b

/-- Carry on the streams of a lane that has failed, once a spare has locked in its place. A stream that the lane was receiving gets its RESUME
and the spare's slot even where its sender has sent again by another lane in the meantime (R357, R358). -/
def State.carryOver (s : State) (sk pos spare : Nat) (id : Nat × Nat × Nat × Nat) : State :=
  let x := s.txOf id.1 id.2.1 id.2.2.1 id.2.2.2
  if (s.streamsOn (· == (sk, pos))).any (·.id == id) then s.carryOn sk true (some (sk, spare)) x
  else if x.dst = s.boot.endpoint then (s.grantLane x (sk, spare)).sendResume sk x
  else s

/-- SPARE_LOCK: a spare takes over a failed lane, SPAREIN is reported, and a RESUME goes out for each stream the lane was
receiving. A failed spare is not replaced (R360). -/
def execSpareLock (sk pos spare : Nat) (s : State) : Out :=
  let l := s.lane sk pos
  if 16 ≤ sk then .next (s.moduleSpare sk pos spare)
  else if (s.socket sk).st ≠ 3 ∨ l.st ≠ 3 ∨ l.replaced < 68 ∨ l.plane = 0x1FF ∨ (s.lane sk spare).st ≠ 0 ∨ 67 < spare ∨ 67 < pos
      ∨ (List.range 68).any (fun i => (s.lane sk i).replaced == pos) then .next s
  else
    let t := State.laneEvent (s.withTopology fun s => s.steer sk spare l) 2 sk spare pos
    .next (l.streams.foldl (fun s x => s.carryOver sk pos spare x) (t.setLane { t.lane sk pos with streams := [] })).repinAll

/-- LANE_RETRY: 1 ms after its failure a lane is trained again; one that passes becomes a free spare, whatever its position. -/
def execLaneRetry (sk pos : Nat) (pass : Bool) (s : State) : Out :=
  let l := s.lane sk pos
  match l.failAt with
  | none => .next s
  | some t0 =>
    if ((s.socket sk).st ≠ 3 ∧ sk < 16) ∨ l.st ≠ 3 ∨ s.time < t0 + 1000000 * nsUnits then .next s
    else
      let t := if sk < 16 then s.laneEvent 3 sk pos (if pass then 3 else 0) else s.moduleRetrain sk pos (if pass then 3 else 0)
      let none_ := if sk < 16 then 127 else 511
      .next (t.setLane (if pass then { l with st := 0, replaced := none_, plane := 0x1FF, failAt := none, streams := [] } else { l with failAt := none }))

/-- RETRAIN: of a lane in use, of the package or of a module; traffic leaves it and its streams replay. -/
def execRetrain (sk pos : Nat) (pass : Bool) (s : State) : Out :=
  if s.moduleUp sk pos then
    .next (State.offPlane (s.moduleRetrain sk pos (if pass then 1 else 0)) (sk - 16) (s.lane sk pos).modulePlane)
  else if (s.socket sk).st ≠ 3 ∨ !(s.lane sk pos).inUse then .next s
  else
    let t := s.laneEvent 3 sk pos (if pass then 1 else 0)
    .next (t.moveStreams sk false (t.streamsOn (· == (sk, pos))))

/-- The ageing counter of a laser at a drive current: ⌊1,024·(I − I0)/I0⌋, clamped (R363). -/
def ageOf (base current : Nat) : Nat := min 65535 (1024 * (current - base) / base)

/-- AGEING_UPDATE: every 1 ms; LASERAGE when the counter first reaches the warn threshold. A baseline of 0 states no value. -/
def execAgeingUpdate (sk pos current : Nat) (s : State) : Out :=
  let k := s.socket sk
  if 67 < pos ∨ !(k.st == 3 || k.st == 4) then .next s
  else
    let base := Config.laneBaseline (romBytes k.rom (48 + 32 * pos) 32)
    let f := s.freeWord
    let age := if base = 0 then f.1.toNat % 65536 else ageOf base current
    let s := if base = 0 then f.2 else s
    let l := s.lane sk pos
    let warn := k.warn ≤ age ∧ !l.warned
    let t := s.setLane { l with age := age, warned := l.warned || decide (k.warn ≤ age) }
    .next (if warn then t.laneEvent 4 sk pos age else t)

/-- LASER_RETIRE: at the retire threshold, a free spare takes the lane's streams over with no replay; the lane retires. -/
def execLaserRetire (sk pos spare : Nat) (s : State) : Out :=
  let k := s.socket sk
  let l := s.lane sk pos
  if k.st ≠ 3 ∨ !l.inUse ∨ l.age < k.retire ∨ (s.lane sk spare).st ≠ 0 ∨ 67 < pos ∨ 67 < spare then .next s
  else
    let s := State.setLane (s.steer sk spare l) { l with st := 4, replaced := 127 }
    let moved : Nat × Nat → Nat × Nat := fun x => if x == (sk, pos) then (sk, spare) else x
    let s := { s with
      tx := s.tx.map fun (x : TxStream) => { x with lane := x.lane.map moved, copies := x.copies.map fun (c : Chunk) => { c with lane := c.lane.map moved } }
      wire := s.wire.map fun (b : Burst) => { b with lane := moved b.lane }, out := s.out.map fun (b : Burst) => { b with lane := moved b.lane } }
    .next (s.laneEvent 2 sk spare (pos + 2 ^ 8))

end Sys2Proof.Machine
end

