-- ==== Sys2Proof/Machine/Float.lean ====
section
/-! DEFINITION. The floating-point instructions (06_isa_arithmetic R155 to R161): one meaning per form over the lane
functions of Machine/Elementary. -/

namespace Sys2Proof.Machine

/-- A binary operation on the values of two codes (R138: the code lies in the low bits of the lane). -/
def onCodes (t : FTy) (f : XVal → XVal → Nat × Flags) (a b : Nat) : Nat × Flags :=
  f (decF t (a % 2 ^ t.bits)) (decF t (b % 2 ^ t.bits))

/-- A unary operation on the value of a code. -/
def onCode (t : FTy) (f : XVal → Nat × Flags) (a : Nat) : Nat × Flags := f (decF t (a % 2 ^ t.bits))

/-- VFMIN and VFMAX (R157). -/
def minmaxLane (t : FTy) (isMax : Bool) (a b : Nat) : Nat × Flags := (fminmax t isMax (a % 2 ^ t.bits) (b % 2 ^ t.bits), fNone)

/-- VFABS and VFNEG (R157). -/
def signLane (t : FTy) (neg : Bool) (a : Nat) : Nat × Flags := (fsignOp t neg (a % 2 ^ t.bits), fNone)

/-- VFCMP (R158). -/
def floatCmp (s : State) (gd : MReg) (cd : FCond) (t : FTy) (d : MReg) (a : VReg) (b : SrcB) : Out :=
  compareOp s gd d fun g i => fcmp t cd (s.vlane g a.toNat i % 2 ^ t.bits) (s.srcV g i b % 2 ^ t.bits)

/-- A long-latency function of one lane (R159). -/
def floatLater (s : State) (gd : MReg) (la : BitVec 4) (lat : Nat) (d : VReg) (a : Nat) (f : Nat → Nat × Flags) : Out :=
  vectorLater s gd la lat d fun g i => f (s.vlane g a i)

/-- VDIV (R159). -/
def floatDiv (s : State) (gd : MReg) (la : BitVec 4) (t : FTy) (mode : RMode) (d : VReg) (a b : Nat) : Out :=
  vectorLater s gd la 16 d fun g i => onCodes t (fdiv t mode) (s.vlane g a i) (s.vlane g b i)


/-- VFADD of registers (R156). -/
def execVfaddLong (g : MReg) (t : FTy) (rm : RMode) (d a b : VReg) (s : State) : Out :=
  vector2 s g d a (.reg b.toNat) (onCodes t (fadd t rm))

/-- VFADD with a literal (R156). -/
def execVfaddLiteral (g : MReg) (t : FTy) (rm : RMode) (d a : VReg) (lit : Word) (s : State) : Out :=
  vector2 s g d a (.lit lit.toNat) (onCodes t (fadd t rm))

/-- VFSUB of registers (R156). -/
def execVfsubLong (g : MReg) (t : FTy) (rm : RMode) (d a b : VReg) (s : State) : Out :=
  vector2 s g d a (.reg b.toNat) (onCodes t (fsub t rm))

/-- VFSUB with a literal (R156). -/
def execVfsubLiteral (g : MReg) (t : FTy) (rm : RMode) (d a : VReg) (lit : Word) (s : State) : Out :=
  vector2 s g d a (.lit lit.toNat) (onCodes t (fsub t rm))

/-- VFMUL of registers (R156). -/
def execVfmulLong (g : MReg) (t : FTy) (rm : RMode) (d a b : VReg) (s : State) : Out :=
  vector2 s g d a (.reg b.toNat) (onCodes t (fmul t rm))

/-- VFMUL with a literal (R156). -/
def execVfmulLiteral (g : MReg) (t : FTy) (rm : RMode) (d a : VReg) (lit : Word) (s : State) : Out :=
  vector2 s g d a (.lit lit.toNat) (onCodes t (fmul t rm))

/-- VFMA: one rounding (R156). -/
def execVfma (g : MReg) (t : FTy) (rm : RMode) (d a b x : VReg) (s : State) : Out :=
  vector3 s g d a b x fun p q r =>
    ffma t rm (decF t (p % 2 ^ t.bits)) (decF t (q % 2 ^ t.bits)) (decF t (r % 2 ^ t.bits))

/-- VFMIN of registers (R157). -/
def execVfminLong (g : MReg) (t : FTy) (d a b : VReg) (s : State) : Out :=
  vector2 s g d a (.reg b.toNat) (minmaxLane t false)

/-- VFMIN with a literal (R157). -/
def execVfminLiteral (g : MReg) (t : FTy) (d a : VReg) (lit : Word) (s : State) : Out :=
  vector2 s g d a (.lit lit.toNat) (minmaxLane t false)

/-- VFMAX of registers (R157). -/
def execVfmaxLong (g : MReg) (t : FTy) (d a b : VReg) (s : State) : Out :=
  vector2 s g d a (.reg b.toNat) (minmaxLane t true)

/-- VFMAX with a literal (R157). -/
def execVfmaxLiteral (g : MReg) (t : FTy) (d a : VReg) (lit : Word) (s : State) : Out :=
  vector2 s g d a (.lit lit.toNat) (minmaxLane t true)

/-- VFABS, short form: .f32 (R157). -/
def execVfabsShort (g : MReg) (d : VReg) (e : EReg) (s : State) : Out :=
  vector1 s g d e.toNat (signLane .f32 false)

/-- VFABS (R157). -/
def execVfabsLong (g : MReg) (t : FTy) (d a : VReg) (s : State) : Out :=
  vector1 s g d a.toNat (signLane t false)

/-- VFNEG, short form: .f32 (R157). -/
def execVfnegShort (g : MReg) (d : VReg) (e : EReg) (s : State) : Out :=
  vector1 s g d e.toNat (signLane .f32 true)

/-- VFNEG (R157). -/
def execVfnegLong (g : MReg) (t : FTy) (d a : VReg) (s : State) : Out :=
  vector1 s g d a.toNat (signLane t true)

/-- VFCMP of registers (R158). -/
def execVfcmpLong (g : MReg) (cd : FCond) (t : FTy) (d : MReg) (a b : VReg) (s : State) : Out :=
  floatCmp s g cd t d a (.reg b.toNat)

/-- VFCMP with a literal (R158). -/
def execVfcmpLiteral (g : MReg) (cd : FCond) (t : FTy) (d : MReg) (a : VReg) (lit : Word) (s : State) : Out :=
  floatCmp s g cd t d a (.lit lit.toNat)

/-- VRCP, short form: .f32, .rn (R159). -/
def execVrcpShort (g : MReg) (la : BitVec 4) (d : VReg) (e : EReg) (s : State) : Out :=
  floatLater s g la 8 d e.toNat (onCode .f32 (frcp .f32 .rn))

/-- VRCP (R159). -/
def execVrcpLong (g : MReg) (la : BitVec 4) (t : FTy) (rm : RMode) (d a : VReg) (s : State) : Out :=
  floatLater s g la 8 d a.toNat (onCode t (frcp t rm))

/-- VRSQ, short form: .f32, .rn (R159). -/
def execVrsqShort (g : MReg) (la : BitVec 4) (d : VReg) (e : EReg) (s : State) : Out :=
  floatLater s g la 8 d e.toNat (onCode .f32 (frsq .f32 .rn))

/-- VRSQ (R159). -/
def execVrsqLong (g : MReg) (la : BitVec 4) (t : FTy) (rm : RMode) (d a : VReg) (s : State) : Out :=
  floatLater s g la 8 d a.toNat (onCode t (frsq t rm))

/-- VSQRT, short form: .f32, .rn (R159). -/
def execVsqrtShort (g : MReg) (la : BitVec 4) (d : VReg) (e : EReg) (s : State) : Out :=
  floatLater s g la 16 d e.toNat (onCode .f32 (fsqrt .f32 .rn))

/-- VSQRT (R159). -/
def execVsqrtLong (g : MReg) (la : BitVec 4) (t : FTy) (rm : RMode) (d a : VReg) (s : State) : Out :=
  floatLater s g la 16 d a.toNat (onCode t (fsqrt t rm))

/-- VDIV, short form: vD := vD / vE, .f32, .rn (R141, R159). -/
def execVdivShort (g : MReg) (la : BitVec 4) (d : VReg) (e : EReg) (s : State) : Out :=
  floatDiv s g la .f32 .rn d d.toNat e.toNat

/-- VDIV (R159). -/
def execVdivLong (g : MReg) (la : BitVec 4) (t : FTy) (rm : RMode) (d a b : VReg) (s : State) : Out :=
  floatDiv s g la t rm d a.toNat b.toNat

/-- VEXP2, short form: .f32 (R159). -/
def execVexp2Short (g : MReg) (la : BitVec 4) (d : VReg) (e : EReg) (s : State) : Out :=
  floatLater s g la 8 d e.toNat (fexp2 .f32)

/-- VEXP2 (R159). -/
def execVexp2Long (g : MReg) (la : BitVec 4) (t : FTy) (d a : VReg) (s : State) : Out :=
  floatLater s g la 8 d a.toNat fun x => fexp2 t (x % 2 ^ t.bits)

/-- VLOG2, short form: .f32 (R159). -/
def execVlog2Short (g : MReg) (la : BitVec 4) (d : VReg) (e : EReg) (s : State) : Out :=
  floatLater s g la 8 d e.toNat (flog2 .f32)

/-- VLOG2 (R159). -/
def execVlog2Long (g : MReg) (la : BitVec 4) (t : FTy) (d a : VReg) (s : State) : Out :=
  floatLater s g la 8 d a.toNat fun x => flog2 t (x % 2 ^ t.bits)

/-- VSIN, short form: .f32 (R159). -/
def execVsinShort (g : MReg) (la : BitVec 4) (d : VReg) (e : EReg) (s : State) : Out :=
  floatLater s g la 12 d e.toNat (fsin .f32)

/-- VSIN (R159). -/
def execVsinLong (g : MReg) (la : BitVec 4) (t : FTy) (d a : VReg) (s : State) : Out :=
  floatLater s g la 12 d a.toNat fun x => fsin t (x % 2 ^ t.bits)

/-- VCOS, short form: .f32 (R159). -/
def execVcosShort (g : MReg) (la : BitVec 4) (d : VReg) (e : EReg) (s : State) : Out :=
  floatLater s g la 12 d e.toNat (fcos .f32)

/-- VCOS (R159). -/
def execVcosLong (g : MReg) (la : BitVec 4) (t : FTy) (d a : VReg) (s : State) : Out :=
  floatLater s g la 12 d a.toNat fun x => fcos t (x % 2 ^ t.bits)

/-- VTANH, short form: .f32 (R159). -/
def execVtanhShort (g : MReg) (la : BitVec 4) (d : VReg) (e : EReg) (s : State) : Out :=
  floatLater s g la 12 d e.toNat (ftanh .f32)

/-- VTANH (R159). -/
def execVtanhLong (g : MReg) (la : BitVec 4) (t : FTy) (d a : VReg) (s : State) : Out :=
  floatLater s g la 12 d a.toNat fun x => ftanh t (x % 2 ^ t.bits)

/-- VCVT (R160). -/
def execVcvt (g : MReg) (td ts : Ty) (rm : RMode) (sat : Bool) (d a : VReg) (s : State) : Out :=
  vector1 s g d a.toNat (vcvtLane td ts rm sat)

/-- VFRINT (R161). -/
def execVfrint (g : MReg) (t : FTy) (rm : RMode) (d a : VReg) (s : State) : Out :=
  vector1 s g d a.toNat fun x => frint t rm (x % 2 ^ t.bits)

end Sys2Proof.Machine
end

