-- ==== Sys2Proof/Machine/Power.lean ====
section
/-! DEFINITION. Cadence throttling (17 R368, R369), the power manager and its monitors (18 R385 to R388), and the SRAM
error unit (18 R389, R390). -/

namespace Sys2Proof.Machine

/-! ### The power manager's demand (R386, R387) -/

/-- Demand floor of an inlet temperature: one level for each whole degree above the limit, 15 at most. -/
def inletFloor (limit temp : Nat) : Nat := min 15 ((temp - 16 * limit) / 16)

/-- A die is at or above its emergency limit. -/
def State.dieEmergency (s : State) (m : Monitors) : Bool := m.dieTemp.any fun t => decide (16 * s.boot.limits.2.2 ≤ t)

/-- A limit of R387 is active. -/
def State.alarmOf (s : State) (m : Monitors) : Bool :=
  decide (0 < inletFloor s.boot.limits.1 m.inlet) || (m.dieTemp.any fun t => decide (16 * s.boot.limits.2.1 < t)) || s.dieEmergency m

/-- The alarm bit of the monitor block. -/
def State.alarm (s : State) : Bool := s.boot.mon.any s.alarmOf

/-- The demand of the package: the power manager's prediction and floors, 15 for a module's throttle demand (R385) and in its
own emergency (17 R369). -/
def State.demandNow (s : State) : Nat :=
  let floors := match s.boot.mon with
    | none => 0
    | some m => max (min 15 m.predicted) (max (inletFloor s.boot.limits.1 m.inlet)
        (if m.dieTemp.any fun t => decide (16 * s.boot.limits.2.1 < t) then 4 else 0))
  if s.cadence.emerg || !s.boot.throttle.isEmpty then 15 else floors

/-- Record a member's demand at the leader. -/
def Cadence.demand (c : Cadence) (member level : Nat) : Cadence :=
  { c with demands := (c.demands.filter (·.1 != member)) ++ [(member, level)] }

/-- The package's own demand changes. -/
def State.setDemand (s : State) : State := { s with cadence := { s.cadence with own := s.demandNow } }

/-- A member sends its demand to the leader; the leader has its own (R368). -/
def State.sendDemand (s : State) : State :=
  if s.boot.leader then { s with cadence := s.cadence.demand s.boot.endpoint s.cadence.own } else s

/-- The package goes to level 15 at once, and demands 15; the leader's own demand stands at once, so that the group follows at the next
tick (R369). -/
def State.emergency (s : State) : State :=
  State.sendDemand (State.setDemand { s with cadence := { s.cadence with emerg := true, level := 15 } })

/-- THERMAL_EMERGENCY: a thermal or current monitor passes its emergency limit. -/
def execThermalEmergency (s : State) : Out := .next (if s.boot.st = 5 then s.emergency else s)

/-- The power envelope: W as a 10 ms average (R386). -/
def envelopeW : Nat := 3300
/-- The instantaneous ceiling, W. -/
def ceilingW : Nat := 3600

/-- A reading at the envelope or the ceiling shows that the level in force does not keep it: the demand rises above that level (R386;
by how much is log 35). -/
def State.powerLevel (s : State) (m : Monitors) : Nat :=
  if envelopeW ≤ m.avgPower ∨ ceilingW ≤ m.nowPower then max m.predicted (min 15 (s.cadence.level + 1)) else m.predicted

/-- POWER_SAMPLE: every 100 µs the monitors are read and the demand set; an alarm raises vector 1 when it begins (R374). -/
def execPowerSample (m : Monitors) (s : State) : Out :=
  let m := { m with predicted := s.powerLevel m }
  let old := s.alarm
  let s := { s with boot := { s.boot with mon := some m } }
  let s := if s.boot.st = 5 ∧ s.dieEmergency m then s.emergency else s.setDemand
  .next (if s.alarm && !old then s.msix 1 else s)

/-- THROTTLE_DEMAND_RECEIVE: of a module that the package manages, above 105 °C (R385), or its withdrawal. -/
def execThrottleDemandReceive (ep : Nat) (on : Bool) (s : State) : Out :=
  let rest := s.boot.throttle.filter (· != ep)
  if (s.module ep).manager ≠ s.boot.endpoint then .next s
  else .next (State.setDemand { s with boot := { s.boot with throttle := if on then rest ++ [ep] else rest } })

/-! ### Ticks (R368, R369) -/

/-- Time from a tick's leaving the leader to its being applied. -/
def applyUnits : Nat := 100000 * nsUnits

/-- CADENCE_TICK_SEND: every 1 ms from the first, without drift, with the highest of the latest demands; the leader is a member too. -/
def execCadenceTickSend (s : State) : Out :=
  let c := s.cadence
  if !s.boot.leader ∨ s.boot.st ≠ 5 ∨ s.time < c.nextSend then .next s
  else
    let n := c.sent + 1
    let l := maxL (c.demands.map (·.2))
    .next (State.sendDemand { s with cadence := { c with
      sent := n, nextSend := (if s.time < c.nextSend + 1000000 * nsUnits then c.nextSend else s.time) + 1000000 * nsUnits, lastTick := s.time, lost := false
      pending := c.pending ++ [(n, l, s.time + applyUnits)] } })

/-- CADENCE_TICK_RECEIVE: the tick left the leader one measured delay ago, at most 100 ns (R348), a free value (log 3). -/
def execCadenceTickReceive (n level : Nat) (s : State) : Out :=
  let f := s.freeWord
  let c := s.cadence
  let d := f.1.toNat % (100 * nsUnits + 1)
  .next (State.sendDemand { f.2 with cadence := { c with
    lastTick := s.time, lost := false, pending := c.pending ++ [(n, min 15 level, s.time + applyUnits - d)] } })

/-- Leases of slots with a mapped queue renew at an applied tick (15 R326). -/
def State.renewLeases (s : State) : State :=
  { s with hws := s.hws.map fun (h : HwSlot) =>
      if h.queue.isSome then { h with resv := h.resv.map fun (v : Resv) => if v.waiting || v.lapsing then v else { v with until_ := s.time + leaseUnits } } else h }

/-- LEVEL_APPLY: the oldest tick that is due. A package in its own emergency keeps level 15 until a tick brings the group to
that level (R369). -/
def execLevelApply (s : State) : Out :=
  let c := s.cadence
  match c.pending with
  | [] => .next s
  | x :: xs =>
    if s.time < x.2.2 then .next s
    else
      let keep := c.emerg && decide (x.2.1 < c.level)
      .next (State.setDemand (State.renewLeases { s with cadence := { c with
        pending := xs, tick := .ofNat 32 x.1, level := if keep then c.level else x.2.1, emerg := keep } }))

/-- DEMAND_RECEIVE: the leader keeps each member's latest demand. -/
def execDemandReceive (member level : Nat) (s : State) : Out :=
  .next (if s.boot.leader && s.boot.members.any (· == member) then { s with cadence := s.cadence.demand member (min 15 level) } else s)

/-- CADENCE_LOST: 3 ms without a tick: the higher of the current level and the own demand holds until a tick arrives. -/
def execCadenceLost (s : State) : Out :=
  let c := s.cadence
  .next (if s.boot.st = 5 ∧ !c.lost ∧ c.lastTick + 3000000 * nsUnits ≤ s.time then
    { s with cadence := { c with lost := true, level := max c.level c.own } } else s)

/-! ### SRAM errors (R389, R390) -/

/-- Number of the row that holds a store offset: 3,072 rows in each of 48 banks (08 R188). -/
def rowOf (off : Nat) : Nat := off / 16 % 48 * 3072 + off / 16 / 48

/-- Key of a word of a core's chase table, which no access reads (R389). -/
def chaseKey (k off : Nat) : Nat := 2 ^ 36 + k * 2 ^ 16 + off
/-- Key of a word of a fetch engine's table. -/
def fetchKey (c off : Nat) : Nat := 2 ^ 37 + c * 2 ^ 16 + off

/-- The SRAM that holds a word, by number, and its row there (R389): the store of a core at its own number, then the galleys, the value
files, the proof cores' memories, staging, the chase tables and the fetch tables. The rows and banks of those others are not stated: rows of
16 bytes, and banks of 3,072 rows as in a store (log 35). -/
def sramRow (key : Nat) : Nat × Nat :=
  if key < 2 ^ 32 then (key / 2 ^ 22, rowOf (key % 2 ^ 22))
  else if key < 2 ^ 33 then (384 + (key - 2 ^ 32) / 2 ^ 18, key % 2 ^ 18 / 16)
  else if key < 2 ^ 34 then (768 + (key - 2 ^ 33) / 2 ^ 16, key % 2 ^ 16 / 16)
  else if key < 2 ^ 35 then (1152 + (key - 2 ^ 34) / 2 ^ 16, key % 2 ^ 16 / 16)
  else if key < 2 ^ 36 then (1248, key % 2 ^ 25 / 16)
  else if key < 2 ^ 37 then (1249 + (key - 2 ^ 36) / 2 ^ 16, key % 2 ^ 16 / 16)
  else (1633 + (key - 2 ^ 37) / 2 ^ 16, key % 2 ^ 16 / 16)

/-- Spare rows of a bank in use, for good or for a test. -/
def State.sparesUsed (s : State) (sram row : Nat) : Nat :=
  ((s.boot.spareRows ++ s.boot.tests).filter fun x => x.1 == sram && x.2 / 3072 == row / 3072).length

/-- A corrected error of a row: the data are corrected, COR counts it, and the row is tested if its bank has a spare row left. -/
def State.correctedRow (s : State) (core row : Nat) : State :=
  let b := { s.boot with cor := s.boot.cor + 1 }
  let known := (b.spareRows ++ b.tests).any (· == (core, row))
  { s with boot := if known || decide (8 ≤ s.sparesUsed core row) then b else { b with tests := b.tests ++ [(core, row)] } }

/-- A corrected error in the word at a key. -/
def State.corrected (s : State) (key : Nat) : State := s.correctedRow (sramRow key).1 (sramRow key).2

/-- ROW_SELF_TEST_DONE: the error was transient, or the spare stays in use. -/
def execRowSelfTestDone (core row : Nat) (pass : Bool) (s : State) : Out :=
  let b := s.boot
  if !b.tests.any (· == (core, row)) then .next s
  else
    let b := { b with tests := b.tests.filter (· != (core, row)) }
    .next { s with boot := if pass then b else { b with spareRows := b.spareRows ++ [(core, row)], spares := b.spares + 1 } }

/-- Entry of the RAS log for a key: its offset, and the state that holds it as R290 codes it; for the memories that R290 does not list
the code is not stated, and is free (log 3). -/
def rasEntry (key free : Nat) : Nat × Nat :=
  if key < 2 ^ 32 then (key % 2 ^ 22, 0)
  else if key < 2 ^ 33 then (key % 2 ^ 18, 1)
  else if key < 2 ^ 34 then (key % 2 ^ 16, 2)
  else if 2 ^ 35 ≤ key ∧ key < 2 ^ 36 then (key % 2 ^ 25, free)
  else (key % 2 ^ 16, free)

/-- A word becomes uncorrectable: UNC, the RAS log, vector 1, and its poison; in a proof core's memory it halts that core. -/
def State.uncorrectable (s : State) (key : Nat) : State :=
  let f := s.freeWord
  let t := State.msix { f.2 with
    poison := if f.2.poison.any (· == key / 8) then f.2.poison else f.2.poison ++ [key / 8]
    boot := { f.2.boot with unc := f.2.boot.unc + 1, raslog := f.2.boot.raslog ++ [rasEntry key f.1.toNat] } } 1
  if 2 ^ 34 ≤ key ∧ key < 2 ^ 35 then t.halt ((key - 2 ^ 34) / 65536) else t

end Sys2Proof.Machine
end

