-- ==== Sys2Proof/Machine/Host.lean ====
section
/-! DEFINITION. The host's side (18 R371 to R379, R383; 15 R310; 16 R339, R340; 17 R366): registers in BAR0, mailbox windows,
features, boot, attestation, module tables, package reset. Log 8 names what the spec leaves open here, log 10 the images. -/

namespace Sys2Proof.Machine

/-! ### Boot (R376, R377, R379) -/

/-- BOOTSTAT changes, and vector 1 is raised (R374). -/
def State.bootTo (s : State) (st code : Nat) : State := State.msix { s with boot := { s.boot with st := st, code := code } } 1

/-- The image in the staging store, if its header is of a kind and the digest of its body agrees: header, body, signature. -/
def State.staged (s : State) (kind : Nat) : Option (List Byte × Image × List Byte) :=
  let h := s.bytes (stagingKey 0) 64
  let n := Config.headerField h 3
  if Config.headerField h 0 ≠ 0x47465346 ∨ Config.headerField h 1 ≠ kind ∨ stagingBytes < 64 + n + 29792 then none
  else
    let body := s.bytes (stagingKey 64) n
    let d := Config.shake256 body
    if Config.headerField h 4 ≠ leNat d then none
    else some (h, { version := Config.headerField h 2, digest := d, body := body }, s.bytes (stagingKey (64 + n)) 29792)

/-- BOOT_VERIFY_FIRMWARE. -/
def execBootVerifyFirmware (s : State) : Out := .next (s.inOrder (.reg 0x50 1) (if s.boot.st = 1 then s.bootTo 2 0 else s))

/-- BOOT_VERIFY_CONFIGURATION. -/
def execBootVerifyConfiguration (s : State) : Out := .next (s.inOrder (.reg 0x50 2) (if s.boot.st = 3 then s.bootTo 4 0 else s))

/-- FIRMWARE_VERIFY_DONE: the key in the image has the digest in the boot ROM, and its signature holds. -/
def execFirmwareVerifyDone (s : State) : Out :=
  if s.boot.st ≠ 2 then .next s
  else
    match s.staged 1 with
    | none => .next (s.bootTo 7 1)
    | some x =>
      let key := Config.firmwareKey x.2.1.body 0
      if Config.shake256 key = Config.romDigest && Config.slhVerify key (x.1 ++ x.2.1.body) x.2.2 then
        .next (State.bootTo { s with boot := { s.boot with fw := some x.2.1 } } 3 0)
      else .next (s.bootTo 7 1)

/-- Settings of a configuration image, by their numbers in `Config.setting` (log 10). -/
structure Settings where
  nparts : Nat
  dies : List Nat                -- partition of each die
  slots : List Nat               -- hardware slots of each partition
  tslice : List Nat              -- ns; 0 for the default of 100 µs (15 R319)
  pins : List Nat
  ceilings : List (Option (Nat × Nat))
  endpoint : Nat
  group : List Nat               -- endpoints of the cadence group
  managed : List Nat             -- endpoints of the modules the package manages
  limits : Nat × Nat × Nat
  deriving DecidableEq, Repr

/-- Read them from the image's body. -/
def settingsOf (b : List Byte) : Settings :=
  let f := Config.setting b
  let n := f 0
  { nparts := n, dies := (List.range 8).map fun d => f (1 + d), slots := (List.range n).map fun p => f (16 + p)
    tslice := (List.range n).map fun p => f (24 + p), pins := (List.range n).map fun p => f (32 + p)
    ceilings := (List.range n).map fun p => if f (40 + p) = 0 then none else some (f (40 + p), f (48 + p))
    endpoint := f 56, group := (List.range 128).filter fun e => f (64 + e) == 1
    managed := (List.range 128).filter fun e => f (192 + e) == 1, limits := (f 320, f 321, f 322) }

/-- The rules that R379 names for the settings. -/
def Settings.ok (x : Settings) : Bool :=
  decide (1 ≤ x.nparts ∧ x.nparts ≤ 8) && x.dies.all (fun p => decide (p < x.nparts))
    && (List.range x.nparts).all (fun p => x.dies.any (· == p)) && sumL x.slots == 64
    && x.tslice.all (fun t => decide (t = 0 ∨ (10000 ≤ t ∧ t ≤ 10000000))) && decide (sumL x.pins ≤ 256)
    && x.ceilings.all (fun c => c.all fun c => decide (4096 ≤ c.1 ∧ c.1 ≤ maxCeilB ∧ 1 ≤ c.2 ∧ c.2 ≤ 65535))
    && decide (x.endpoint < 128) && x.group.any (· == x.endpoint)
    && decide (x.limits.1 ≤ 55 ∧ x.limits.2.1 ≤ 100 ∧ x.limits.2.2 ≤ 110)

/-- A partition as the settings make it: its registers stand, and its hardware slots follow those of the partitions before it. One that the
image does not make has no die and no slot. -/
def Settings.part (x : Settings) (q : Partition) : Partition :=
  if x.nparts ≤ q.p then { q with dies := [], hw := [] }
  else
    let first := sumL (x.slots.take q.p)
    let c := (x.ceilings.getD q.p none).getD (maxCeilB, 65535)
    let ts := x.tslice.getD q.p 0
    { q with
      dies := (List.range 8).filter fun d => x.dies.getD d 0 == q.p, hw := (List.range (x.slots.getD q.p 0)).map (first + ·)
      tslice := (if ts = 0 then 100000 else ts) * nsUnits, pinShare := x.pins.getD q.p 0, ceilB := c.1, ceilC := c.2 }

/-- Apply the settings. The leader of a cadence group is its lowest-indexed member (17 R368). -/
def State.configure (s : State) (img : Image) (x : Settings) : State :=
  let ps := s.parts.map x.part
  let s := { s with
    parts := ps
    hws := ps.flatMap fun p => p.hw.map fun n => { n := n, part := p.p, queue := none, lastCore := none, resv := none }
    boot := { s.boot with cfg := some img, endpoint := x.endpoint, members := x.group, limits := x.limits
                          leader := x.group.head? == some x.endpoint } }
  x.managed.foldl (fun s e => s.setModule { s.module e with manager := x.endpoint }) s

/-- Load a proof core's memory from the verified firmware (14 R287). -/
def State.loadFirmware (s : State) (c : Nat) : State :=
  match s.boot.fw with
  | none => s
  | some fw => s.write (cellsAt (proofKey c 0) ((List.range 65536).map (Config.firmwareByte fw.body)))

/-- The package is ready: the proof cores hold their firmware and start (log 7), and the cadence begins. -/
def State.ready (s : State) : State :=
  let s := (List.range 96).foldl State.loadFirmware s
  State.bootTo { s with cadence := { s.cadence with lastTick := s.time, nextSend := s.time } } 5 0

/-- CONFIGURATION_BRINGUP_DONE: the signature, the fields, the self-test, GO to every Verified socket, and some socket Live. -/
def execConfigurationBringupDone (selfTestOk : Bool) (s : State) : Out :=
  if s.boot.st ≠ 4 then .next s
  else
    match s.staged 2, s.boot.fw with
    | some x, some fw =>
      let set := settingsOf x.2.1.body
      if !Config.slhVerify (Config.firmwareKey fw.body 1) (x.1 ++ x.2.1.body) x.2.2 then .next (s.bootTo 7 2)
      else if !set.ok then .next (s.bootTo 7 3)
      else
        let s := s.configure x.2.1 set
        if !selfTestOk then .next (s.bootTo 7 4)
        else
          let s := (List.range 16).foldl (fun s k => if (s.socket k).st = 2 then s.goLive k else s) s
          if (List.range 16).any fun k => (s.socket k).st == 3 then .next s.ready else .next (s.bootTo 7 5)
    | _, _ => .next (s.bootTo 7 2)

/-! ### Features, attestation, module tables (R375, R378, R383) -/

/-- Features the device offers (R375). -/
def offered : Nat := 0x3F

/-- LOCK is set for good. -/
def State.lockFeatures (s : State) : State := { s with boot := { s.boot with lock := true } }

/-- FEATURE_LOCK. -/
def execFeatureLock (s : State) : Out := .next (s.inOrder (.reg 0x40 1) s.lockFeatures)

/-- A report is started; while BUSY is set a GO is ignored. -/
def State.startReport (s : State) : State :=
  if s.boot.attBusy then s else { s with boot := { s.boot with attBusy := true, attNonce := s.boot.nonce } }

/-- ATTEST_GO. -/
def execAttestGo (s : State) : Out := .next (s.inOrder (.reg 0x320 1) s.startReport)

/-- The report before its signature, in the order of R378. -/
def State.report (s : State) : List Byte :=
  let b := s.boot
  let img : Option Image → List Byte := fun i => (i.map (·.digest)).getD []
  let ver : Option Image → List Byte := fun i => leBytes 8 ((i.map (·.version)).getD 0)
  Config.publicKey ((b.fw.map (·.body)).getD []) ++ img b.fw ++ img b.cfg ++ ver b.fw ++ ver b.cfg ++ leBytes 32 b.featacc
    ++ (((List.range 16).map s.socket).filter (·.st == 3)).flatMap (fun k => romBytes k.rom 24 16 ++ Config.shake256 k.rom)
    ++ leBytes 32 b.attNonce

/-- ATTEST_REPORT_DONE: the signed report stands in ATTREP, and BUSY clears (vector 1). -/
def execAttestReportDone (s : State) : Out :=
  if !s.boot.attBusy then .next s
  else
    let r := s.report
    .next (State.msix { s with boot := { s.boot with attrep := r ++ Config.attestSign r, attBusy := false } } 1)

/-- A table-write request goes to the module; while one is outstanding another is ignored (log 8). -/
def State.sendTable (s : State) : State :=
  let b := s.boot
  if b.mmStat = 1 then s
  else
    let m := s.module (b.mmEp.toNat % 128)
    State.setModule { s with boot := { b with mmStat := 1 } } { m with pendingWrite := some (b.mmPage.toNat % 2 ^ 22, b.mmEntry) }

/-- MMGMT_SEND. -/
def execMmgmtSend (s : State) : Out := .next (s.inOrder (.reg 0x618 1) s.sendTable)

/-- PACKAGE_RESET: every register takes its reset value and boot starts again. Modules are no part of the package: their memory
and tables stay. -/
def execPackageReset (s : State) : Out :=
  .next { State.reset with
    time := s.time, uid := s.uid, fresh := s.fresh, agenda := s.agenda, mem := s.mem.filter fun c => decide (2 ^ 48 ≤ c.1)
    modules := s.modules.map fun (m : Module) => { m with pendingWrite := none }, lanes := s.lanes.filter fun l => decide (16 ≤ l.s)
    sockets := (s.sockets.filter (·.present)).map fun k => { (State.reset.socket k.s) with present := true, rom := k.rom } }

/-! ### Proof-core restart (14 R287) -/

/-- Restart a halted proof core; its queues and their counters keep what they hold. -/
def State.restart (s : State) (c : Nat) : State :=
  let p := s.proof c
  if !p.halted then s
  else
    let mine := s.locals.filter (·.agent == .proof c)
    let s := mine.foldl State.performAny { s with locals := s.locals.filter (·.agent != .proof c) }
    let s := State.loadFirmware { s with
      commits := s.commits.filter (·.agent != .proof c)
      locks := s.locks.filter (·.holder != .proof c), lockReqs := s.lockReqs.filter (·.agent != .proof c)
      boot := { s.boot with halt := s.boot.halt - 2 ^ c * (s.boot.halt / 2 ^ c % 2) } } c
    s.setProof { (ProofCore.init c) with
      queue := p.queue, orphovf := p.orphovf, fev := p.fev, fevovf := p.fevovf, notBefore := s.cycle + 1 }

/-- PROOF_CORE_RESTART. -/
def execProofCoreRestart (cluster : Nat) (s : State) : Out :=
  .next (s.inOrder (.reg (0x210 + 8 * (cluster / 64)) (.ofNat 64 (2 ^ (cluster % 64)))) (s.restart cluster))

/-! ### Faults and shootdowns (16 R339, R340) -/

/-- A host shootdown is in progress. -/
def Partition.busy (p : Partition) : Bool := p.shoots.any (·.from_.isNone)

/-- An XINV operand is one that XLATINV takes (R341). -/
def xinvOk (kind operand : Nat) : Bool :=
  if kind = 0 then operand % 65536 == 0 else if kind = 1 then operand == 0 else decide (operand < 128)

/-- A write to XINV: LOST while BUSY is set. An operand out of range does nothing (log 8). -/
def State.xinv (s : State) (part : Nat) (x : Nat) : State :=
  match s.part? part with
  | none => s
  | some p =>
    if p.busy then s.setPart { p with lost := true }
    else if xinvOk (fld x 62 2) (fld x 0 57) then s.shoot part (fld x 62 2) (fld x 0 57) none
    else s

/-- XINV_WRITE. -/
def execXinvWrite (part : Nat) (x : DWord) (s : State) : Out := .next (s.inOrder (.reg (partReg part 0x818) x) (s.xinv part x.toNat))

/-- A unit that a PAGEREQ awaits: it was found non-resident, and the driver has not settled it. -/
def FUnit.awaits (u : FUnit) : Bool := u.faulted && !u.done

/-- A write to FRESOLVE: each waiting PAGEREQ of the partition walks the unit again, and is refused it if REFUSE is set, by this
write or by an earlier one for which it has not walked yet, and it is still not resident. -/
def State.fresolve (s : State) (part x : Nat) : State :=
  { s with cmds := s.cmds.map fun (m : Cmd) =>
      if m.kind == .pagereq && m.charged && s.partOf (agentCore m.agent) == part then
        { m with units := m.units.map fun (u : FUnit) =>
            if u.awaits && u.va / 65536 == fld x 16 41 then { u with res := .pending, refused := u.refused || x / 2 ^ 63 % 2 == 1 } else u }
      else m }

/-- FRESOLVE_WRITE. -/
def execFresolveWrite (part : Nat) (x : DWord) (s : State) : Out := .next (s.inOrder (.reg (partReg part 0x848) x) (s.fresolve part x.toNat))

/-- Post again the fault of one unit that overflow left unposted (R338). -/
def State.repostUnit (s : State) (uid : Nat) (u : FUnit) : State :=
  match s.cmd? uid, u.res with
  | some m, .served (.bad r l e) =>
    if u.done || u.posted then s
    else
      let core := agentCore m.agent
      let rec_ := s.faultOf m.team core u.va r l e 2
      let t := s.postFault (s.partOf core) rec_
      let posted := (t.part? (t.partOf core)).any fun p => p.holds rec_
      t.setCmd { m with units := m.units.map fun (v : FUnit) => if v.va == u.va then { v with posted := posted } else v }
  | _, _ => s

/-- Unposted faults of a partition's PAGEREQs. -/
def State.repost (s : State) (part : Nat) : State :=
  (s.cmds.filter fun m => m.kind == .pagereq && m.charged && s.partOf (agentCore m.agent) == part).foldl
    (fun s m => m.units.foldl (fun s u => s.repostUnit m.uid u) s) s

/-- A write to FBGET, ignored where FBPUT − FBGET would exceed 256 or be negative; where FBGET advances, faults that overflow left
unposted are posted again (R338). -/
def State.setFbget (s : State) (part : Nat) (x : BitVec 32) : State :=
  match s.part? part with
  | none => s
  | some p =>
    if 256 < (p.fbput - x).toNat then s
    else
      let t := s.setPart { p with fbget := x }
      if (p.fbput - x).toNat < (p.fbput - p.fbget).toNat then t.repost part else t

/-- FBGET_WRITE. -/
def execFbgetWrite (part : Nat) (x : DWord) (s : State) : Out := .next (s.inOrder (.reg (partReg part 0x830) x) (s.setFbget part (x.setWidth 32)))

/-! ### BAR0 (R371, R372) -/

/-- Clear the bits of a field that are written 1. -/
def w1c (old x : Nat) : Nat := old ^^^ (old &&& x)

/-- Replace 64 bits of a wide register. -/
def putQuad (old i x : Nat) : Nat := old - fld old (64 * i) 64 * 2 ^ (64 * i) + x * 2 ^ (64 * i)

/-- A write to the global block. -/
def State.writeGlobal (s : State) (o x : Nat) : State :=
  let b := s.boot
  if o = 0x20 then if b.lock then s else { s with boot := { b with featacc := x &&& offered } }
  else if o = 0x40 then if x % 2 = 1 then s.lockFeatures else s
  else if o = 0x50 then
    if x % 4 = 1 ∧ b.st = 1 then s.bootTo 2 0 else if x % 4 = 2 ∧ b.st = 3 then s.bootTo 4 0 else s
  else if 0x100 ≤ o ∧ o < 0x140 ∧ o % 8 = 0 then
    let w := fld x 63 1 * 2 ^ 63 + fld x 59 3 * 2 ^ 59 + fld x 28 29 * 2 ^ 28
    { s with boot := { b with mbwin := b.mbwin.setIfInBounds ((o - 0x100) / 8) (.ofNat 64 w) } }
  else if o = 0x200 then { s with boot := { b with halt := w1c b.halt x } }
  else if o = 0x208 then { s with boot := { b with halt := w1c b.halt (x % 2 ^ 32 * 2 ^ 64) } }
  else if o = 0x210 then (lanesIn 64 (.ofNat 64 x)).foldl State.restart s
  else if o = 0x218 then ((lanesIn 32 (.ofNat 64 x)).map (64 + ·)).foldl State.restart s
  else if 0x300 ≤ o ∧ o < 0x320 ∧ o % 8 = 0 then { s with boot := { b with nonce := putQuad b.nonce ((o - 0x300) / 8) x } }
  else if o = 0x320 then if x % 2 = 1 then s.startReport else s
  else if o = 0x600 then { s with boot := { b with mmEp := .ofNat 64 x } }
  else if o = 0x608 then { s with boot := { b with mmPage := .ofNat 64 x } }
  else if o = 0x610 then { s with boot := { b with mmEntry := .ofNat 64 x } }
  else if o = 0x618 then if x = 1 then s.sendTable else s
  else if o = 0x700 then
    { s with boot := { b with cor := .ofNat 32 (w1c b.cor.toNat (x % 2 ^ 32)), unc := .ofNat 32 (w1c b.unc.toNat (x / 2 ^ 32)) } }
  else s

/-- A write to a partition register block (15 R310, 16 R339). -/
def State.writePart (s : State) (part o x : Nat) : State :=
  match s.part? part with
  | none => s
  | some p =>
    if o = 0 then s.setPart { p with qtbase := .ofNat 64 (fld x 12 45 * 2 ^ 12) }
    else if o = 8 then if 16384 < x % 2 ^ 15 then s else s.setPart { p with qtcount := x % 2 ^ 15 }
    else if o = 0x800 then s.setPart { p with xroot := .ofNat 64 (fld x 63 1 * 2 ^ 63 + fld x 0 37) }
    else if o = 0x818 then s.xinv part x
    else if o = 0x820 then if x / 2 % 2 = 1 then s.setPart { p with lost := false } else s
    else if o = 0x830 then s.setFbget part (.ofNat 32 x)
    else if o = 0x838 then s.setPart { p with fbovf := .ofNat 32 (w1c p.fbovf.toNat (x % 2 ^ 32)) }
    else if o = 0x840 then s.setPart { p with fbctl := .ofNat 2 x }
    else if o = 0x848 then s.fresolve part x
    else s

/-- A socket command, as the state machine of 17 R365 takes it. -/
def State.sockCmd (s : State) (sk cmd : Nat) : State :=
  let k := s.socket sk
  if cmd = 1 ∧ (k.st = 2 ∨ k.st = 5) then s.goLive sk
  else if cmd = 2 ∧ k.st = 3 then s.quiesce sk
  else if cmd = 3 ∧ k.st = 6 ∧ k.present then s.resetSocket sk
  else s.badCmd sk

/-- A write to the fabric register block (17 R366). -/
def State.writeFabric (s : State) (o x : Nat) : State :=
  if o < 0x1000 then
    let k := s.socket (o / 0x100)
    let r := o % 0x100
    if r = 0 then if fld x 23 1 = 1 then s.setSocket { k with badcmd := false } else s
    else if r = 8 then s.sockCmd (o / 0x100) (x % 8)
    else if r = 0x18 then s.setSocket { k with retire := fld x 16 16, warn := fld x 0 16 }
    else if r = 0x20 then s.setSocket { k with romaddr := fld x 3 13 * 8 }
    else s
  else if o = 0x1008 then if 256 < (s.fevput - .ofNat 32 x).toNat then s else { s with fevget := .ofNat 32 x }
  else if o = 0x1010 then { s with fevhovf := .ofNat 32 (w1c s.fevhovf.toNat (x % 2 ^ 32)) }
  else s

/-- A host write to a register in BAR0; outside the blocks it is ignored. -/
def State.regWrite (s : State) (off : Nat) (x : DWord) : State :=
  if off < 0x18000 then s.writeGlobal off x.toNat
  else if 0x100000 ≤ off ∧ off < 0x180000 then s.writePart ((off - 0x100000) / 65536) (off % 65536) x.toNat
  else if 0x200000 ≤ off ∧ off < 0x203000 then s.writeFabric (off - 0x200000) x.toNat
  else s

/-- REGISTER_WRITE: a host write to BAR0, of a register or a notify write. -/
def execRegisterWrite (off : Nat) (x : DWord) (s : State) : Out :=
  if 0x1000000 ≤ off ∧ off < 0x1100000 ∧ off % 8 = 0 then execNotifyWrite ((off - 0x1000000) / 0x20000) (off % 0x20000 / 8) x s
  else .next (s.inOrder (.reg off x) (s.regWrite off x))

/-! ### What the host reads in BAR0 -/

/-- A monitor word (R388). -/
def State.monitorWord (s : State) (o : Nat) : Nat :=
  match s.boot.mon with
  | none => 0
  | some m =>
    if o < 0x440 then
      let d := (o - 0x400) / 8
      m.dieTemp.getD d 0 % 2 ^ 16 + m.dieVolt.getD d 0 % 2 ^ 16 * 2 ^ 16 + m.dieProc.getD d 0 % 2 ^ 16 * 2 ^ 32
    else if o = 0x440 then m.inlet % 2 ^ 16 + m.flow % 2 ^ 16 * 2 ^ 16
    else if o = 0x448 then m.avgPower % 2 ^ 32 + m.nowPower % 2 ^ 32 * 2 ^ 32
    else if o = 0x450 then s.cadence.own % 16 + (if s.alarm then 16 else 0)
    else 0

/-- A word of the global block. -/
def State.readGlobal (s : State) (o : Nat) : Nat :=
  let b := s.boot
  if o = 0 then offered
  else if o = 0x20 then b.featacc
  else if o = 0x40 then if b.lock then 1 else 0
  else if o = 0x48 then b.st + 2 ^ 8 * b.code
  else if 0x100 ≤ o ∧ o < 0x140 then (b.mbwin.toList.getD ((o - 0x100) / 8) 0).toNat
  else if o = 0x200 then fld b.halt 0 64
  else if o = 0x208 then fld b.halt 64 32
  else if 0x300 ≤ o ∧ o < 0x320 then fld b.nonce (8 * (o - 0x300)) 64
  else if o = 0x320 then if b.attBusy then 2 else 0
  else if 0x400 ≤ o ∧ o < 0x600 then s.monitorWord o
  else if o = 0x600 then b.mmEp.toNat
  else if o = 0x608 then b.mmPage.toNat
  else if o = 0x610 then b.mmEntry.toNat
  else if o = 0x618 then b.mmStat
  else if o = 0x700 then b.cor.toNat + 2 ^ 32 * b.unc.toNat
  else if o = 0x708 then b.spares % 2 ^ 16
  else if 0x10000 ≤ o then leNat ((List.range 8).map fun i => b.attrep.getD (o - 0x10000 + i) 0)
  else 0

/-- A word of a partition register block. The blocks of all eight partitions answer from package reset on, before the configuration
image makes the partitions (R344; log 35). -/
def State.readPart (s : State) (part o : Nat) : Nat :=
  match s.part? part with
  | none => 0
  | some p =>
    if o = 0 then p.qtbase.toNat
    else if o = 8 then p.qtcount
    else if o = 0x10 then 0x1000000 + 0x20000 * part
    else if o = 0x18 then p.hw.length
    else if o = 0x800 then p.xroot.toNat
    else if o = 0x808 then p.reach0.toNat
    else if o = 0x810 then p.reach1.toNat
    else if o = 0x820 then (if p.lost then 2 else 0) + if p.busy then 1 else 0
    else if o = 0x828 then p.fbput.toNat
    else if o = 0x830 then p.fbget.toNat
    else if o = 0x838 then p.fbovf.toNat
    else if o = 0x840 then p.fbctl.toNat
    else if 0x1000 ≤ o ∧ o < 0x3000 then
      match p.fb.find? (·.1 == (o - 0x1000) / 32) with
      | some r => fld r.2.value (o % 32 / 8 * 64) 64
      | none => 0
    else 0

/-- A word of the fabric register block. -/
def State.readFabric (s : State) (o : Nat) : Nat :=
  let c := s.cadence
  if o < 0x1000 then
    let k := s.socket (o / 0x100)
    let st : Nat → Nat := fun i => (s.lane k.s i).st
    let gone : Nat → Bool := fun i => st i == 3 || st i == 4
    let r := o % 0x100
    if r = 0 then k.st + 2 ^ 12 * ((List.range 68).filter gone).length
      + 2 ^ 20 * (if k.st = 3 then min 7 ((List.range 68).filter fun i => st i == 0).length else 0) + 2 ^ 23 * (if k.badcmd then 1 else 0)
    else if r = 0x10 then sumL (((List.range 64).filter gone).map (2 ^ ·))
    else if r = 0x18 then k.warn + 2 ^ 16 * k.retire
    else if r = 0x20 then k.romaddr
    else if r = 0x28 then (if k.st = 0 then 0 else leNat (romBytes k.rom k.romaddr 8))
    else 0
  else if o = 0x1000 then s.fevput.toNat
  else if o = 0x1008 then s.fevget.toNat
  else if o = 0x1010 then s.fevhovf.toNat
  else if o = 0x1018 then c.tick.toNat + 2 ^ 32 * c.level + 2 ^ 36 * (if c.lost then 1 else 0) + 2 ^ 37 * (if c.emerg then 1 else 0)
  else if 0x2000 ≤ o ∧ o < 0x3000 then
    match s.fevrec.find? (·.1 == (o - 0x2000) / 16) with
    | some r => if o % 16 = 0 then r.2.1.toNat else r.2.2.toNat
    | none => 0
  else 0

/-- What a host read of the doubleword at a BAR0 offset returns; zero outside the blocks (R371). -/
def State.barRead (s : State) (off : Nat) : DWord :=
  .ofNat 64 (if off < 0x18000 then s.readGlobal off
    else if 0x100000 ≤ off ∧ off < 0x180000 then s.readPart ((off - 0x100000) / 65536) (off % 65536)
    else if 0x200000 ≤ off ∧ off < 0x203000 then s.readFabric (off - 0x200000)
    else 0)

/-! ### Mailbox windows (R373) -/

/-- MAILBOX_READ: what was read stands in `lastRead`. -/
def execMailboxRead (win off size : Nat) (s : State) : Out := .next (s.inOrder (.read win off size) (s.hostRead win off size))

/-- MAILBOX_WRITE: the `size` low bytes of `x`, the lowest first. -/
def execMailboxWrite (win off size x : Nat) (s : State) : Out :=
  .next (s.inOrder (.write win off (leBytes size x)) (s.hostWrite win off (leBytes size x)))

/-! ### Host accesses that have waited (04 R112) -/

/-- A host access takes place. -/
def State.hostDo (s : State) : HostOp → State
  | .reg off x => s.regWrite off x
  | .notify part q x => s.notify part q x.toNat
  | .read win off n => s.hostRead win off n
  | .write win off bs => s.hostWrite win off bs

/-- The oldest host access that waits takes place once nothing holds it. -/
def State.hostNext (s : State) : State :=
  match s.hostq with
  | [] => s
  | o :: os => if s.hostBusy o then s else State.hostDo { s with hostq := os } o

end Sys2Proof.Machine
end

