-- ==== Sys2Proof/Machine/Lanes.lean ====
section
/-! DEFINITION. Masks and cross-lane instructions (07_isa_lanes_flow R162 to R168). -/

namespace Sys2Proof.Machine

/-! ### Masks (R163) -/

/-- A mask computed from two masks. -/
def maskOp (s : State) (d a b : MReg) (f : DWord → DWord → DWord) : Out :=
  withGroup s fun c g => s.putM c g d (f (g.mask a) (g.mask b))

/-- A scalar result computed from a mask. -/
def maskScalar (s : State) (d : SReg) (a : MReg) (f : Nat → Nat) : Out :=
  withGroup s fun c g => s.putS c d (f (g.mask a).toNat)

/-- Index of the lowest one bit, 64 for none. -/
def firstBit (x : Nat) : Nat := ((List.range 64).find? fun i => x / 2 ^ i % 2 == 1).getD 64

/-! ### Cross-lane parts (R164) -/

/-- The member lanes of a mask, in lane order: the source positions. -/
def Group.memberLanes (g : Group) (k : MReg) : List Nat := lanesIn g.width (g.mask k)

/-- The receivers: active member lanes. -/
def Group.receivers (g : Group) (gd k : MReg) : List Nat := lanesIn g.width (g.mask k &&& g.active gd)

/-- A cross-lane result: lane values of the receivers, with flags, after `lat` cycles. -/
def crossLane (s : State) (la : BitVec 4) (lat : Nat) (d : VReg) (rs : Group → List Nat)
    (f : Group → Nat → Nat) (fl : Group → Flags) : Out :=
  withGroup s fun c g =>
    s.laterV c g d.toNat lat la.toNat ((rs g).map fun i => (i, f g i)) (if (rs g).isEmpty then fNone else fl g)

/-- The word of a source position, zero outside the members or the lanes (R166). -/
def State.memberWord (s : State) (g : Group) (a : VReg) (k : MReg) (j : Int) : Nat :=
  if 0 ≤ j ∧ j < g.width ∧ inMask (g.mask k) j.toNat then s.vlane g a.toNat j.toNat else 0

/-- Source position of VSHFL. -/
def shflFrom (md : ShflMode) (i b : Nat) : Int :=
  match md with
  | .idx => b
  | .xor => ((i ^^^ b : Nat) : Int)
  | .up => (i : Int) - b
  | .down => (i : Int) + b

/-- Number of elements of a list below i: the rank of a lane (R166). -/
def rankOf (ls : List Nat) (i : Nat) : Nat := (ls.filter (· < i)).length

/-- Source lane of VROT by k places. -/
def rotFrom (ls : List Nat) (i k : Nat) : Nat :=
  let p := ls.length
  ls.getD ((rankOf ls i + (p - k % p)) % p) 0

/-- VROT (R166). -/
def rotate (s : State) (gd : MReg) (la : BitVec 4) (d a : VReg) (count : Group → Nat) (k : MReg) : Out :=
  crossLane s la 4 d (fun g => g.receivers gd k) (fun g i => s.vlane g a.toNat (rotFrom (g.memberLanes k) i (count g)))
    fun _ => fNone

/-! ### Reductions and scans (02 R55, R56, R167) -/

/-- One step of an operator on codes, with its flags. -/
def redStep (op : RedOp) (t : Ty) (a b : Nat) : Nat × Flags :=
  match op, t with
  | .fadd, _ => faddRN .f32 a b
  | .fmin, _ => (fminmax .f32 false a b, fNone)
  | .fmax, _ => (fminmax .f32 true a b, fNone)
  | .add, .int t => (putI t 32 (ibin .add t a b), fNone)
  | .min, .int t => (putI t 32 (ibin .min t a b), fNone)
  | .max, .int t => (putI t 32 (ibin .max t a b), fNone)
  | .and, .int t => (putI t 32 (ibin .and t a b), fNone)
  | .or, .int t => (putI t 32 (ibin .or t a b), fNone)
  | .xor, .int t => (putI t 32 (ibin .xor t a b), fNone)
  | _, .flt _ => (a, fNone)

/-- Identity of an operator, as a code (R55). -/
def redIdentity (op : RedOp) (t : Ty) : Nat :=
  match op, t with
  | .fadd, _ => 0x80000000
  | .fmin, _ => 0x7F800000
  | .fmax, _ => 0xFF800000
  | .min, .int t => putI t 32 (maxI t)
  | .max, .int t => putI t 32 (minI t)
  | .and, .int t => putI t 32 (-1)
  | _, _ => 0

/-- One level of the tree: neighbours combined. -/
def pairUp (f : Nat → Nat → Nat × Flags) : List Nat → List Nat × Flags
  | a :: b :: xs =>
    let r := pairUp f xs
    let y := f a b
    (y.1 :: r.1, y.2 ||| r.2)
  | xs => (xs, fNone)

/-- `n` levels of the tree. -/
def treeReduce (f : Nat → Nat → Nat × Flags) : Nat → List Nat → Nat × Flags
  | 0, xs => (xs.headD 0, fNone)
  | n + 1, xs =>
    let p := pairUp f xs
    let r := treeReduce f n p.1
    (r.1, p.2 ||| r.2)

/-- `n` steps of the scan network, at distances h, 2h, … -/
def scanNet (f : Nat → Nat → Nat × Flags) : Nat → Nat → List Nat → List Nat × Flags
  | 0, _, xs => (xs, fNone)
  | n + 1, h, xs =>
    let ys := List.zipWith f xs (xs.drop h)
    let r := scanNet f n (2 * h) (xs.take h ++ ys.map (·.1))
    (r.1, orFlags (ys.map (·.2)) ||| r.2)

/-- Out of R167: an integer at its type, a NaN canonical. -/
def redOut (t : Ty) (x : Nat) : Nat :=
  match t with
  | .int t => putI t 32 (valI t x)
  | .flt f => if decF f x = .nan then f.nanCode.getD 0 else x

/-- The values of the W positions, identities where no member is. -/
def State.redInputs (s : State) (g : Group) (op : RedOp) (t : Ty) (a : VReg) (k : MReg) : List Nat :=
  (List.range g.width).map fun i => if inMask (g.mask k) i then s.vlane g a.toNat i else redIdentity op t

/-- Result of VRED. -/
def State.redValue (s : State) (g : Group) (op : RedOp) (t : Ty) (a : VReg) (k : MReg) : Nat × Flags :=
  treeReduce (redStep op t) g.width.log2 (s.redInputs g op t a k)

/-- Results of VSCAN at each position. -/
def State.scanValues (s : State) (g : Group) (op : RedOp) (excl : Bool) (t : Ty) (a : VReg) (k : MReg) : List Nat × Flags :=
  let r := scanNet (redStep op t) g.width.log2 1 (s.redInputs g op t a k)
  (if excl then redIdentity op t :: r.1 else r.1, r.2)


/-- MAND (R163). -/
def execMand (d a b : MReg) (s : State) : Out :=
  maskOp s d a b fun x y => x &&& y

/-- MOR (R163). -/
def execMor (d a b : MReg) (s : State) : Out :=
  maskOp s d a b fun x y => x ||| y

/-- MXOR (R163). -/
def execMxor (d a b : MReg) (s : State) : Out :=
  maskOp s d a b fun x y => x ^^^ y

/-- MANDN (R163). -/
def execMandn (d a b : MReg) (s : State) : Out :=
  maskOp s d a b fun x y => x &&& ~~~ y

/-- MNOT (R163). -/
def execMnot (d e : MReg) (s : State) : Out :=
  maskOp s d e e fun x _ => ~~~ x

/-- MMOV to a mask (R163). -/
def execMmovToMask (d : MReg) (a : SReg) (s : State) : Out :=
  withGroup s fun c g => s.putM c g d (s.sreg g a.toNat)

/-- MMOV to a scalar (R163). -/
def execMmovToScalar (d : SReg) (a : MReg) (s : State) : Out :=
  maskScalar s d a id

/-- MBALLOT (R163): members with a non-zero word, parked or not. -/
def execMballot (d : MReg) (a : VReg) (k : MReg) (s : State) : Out :=
  withGroup s fun c g =>
    s.putM c g d (maskOf ((g.memberLanes k).filter fun i => s.vlane g a.toNat i != 0))

/-- MPOPC (R163). -/
def execMpopc (d : SReg) (a : MReg) (s : State) : Out :=
  maskScalar s d a (popCount 64)

/-- MFIRST (R163). -/
def execMfirst (d : SReg) (a : MReg) (s : State) : Out :=
  maskScalar s d a firstBit

/-- MSET (R163). -/
def execMset (d : MReg) (first : BitVec 6) (count : BitVec 7) (s : State) : Out :=
  withGroup s fun c g =>
    s.putM c g d (.ofNat 64 ((2 ^ count.toNat - 1) * 2 ^ first.toNat))

/-- VSHFL (R166). -/
def execVshfl (g : MReg) (la : BitVec 4) (md : ShflMode) (d a b : VReg) (k : MReg) (s : State) : Out :=
  crossLane s la 4 d (fun h => h.receivers g k)
    (fun h i => s.memberWord h a k (shflFrom md i (s.vlane h b.toNat i))) fun _ => fNone

/-- VROT by a scalar register (R166). -/
def execVrotLong (g : MReg) (la : BitVec 4) (d a : VReg) (b : SReg) (k : MReg) (s : State) : Out :=
  rotate s g la d a (fun h => (s.sreg h b.toNat).toNat) k

/-- VROT by a literal (R166). -/
def execVrotLiteral (g : MReg) (la : BitVec 4) (d a : VReg) (lit : Word) (k : MReg) (s : State) : Out :=
  rotate s g la d a (fun _ => lit.toNat) k

/-- VBCAST (R166). -/
def execVbcast (g : MReg) (la : BitVec 4) (d a : VReg) (b : SReg) (k : MReg) (s : State) : Out :=
  crossLane s la 4 d (fun h => h.receivers g k)
    (fun h _ => s.memberWord h a k (s.sreg h b.toNat).toNat) fun _ => fNone

/-- VRED (R167). -/
def execVred (g : MReg) (la : BitVec 4) (op : RedOp) (t : Ty) (d a : VReg) (k : MReg) (s : State) : Out :=
  crossLane s la 8 d (fun h => h.receivers g k)
    (fun h _ => redOut t (s.redValue h op t a k).1) fun h => (s.redValue h op t a k).2

/-- VSCAN (R167). -/
def execVscan (g : MReg) (la : BitVec 4) (op : RedOp) (excl : Bool) (t : Ty) (d a : VReg) (k : MReg) (s : State) : Out :=
  crossLane s la 8 d (fun h => h.receivers g k)
    (fun h i => redOut t ((s.scanValues h op excl t a k).1.getD i 0)) fun h => (s.scanValues h op excl t a k).2

/-- VCOMPACT (R168): the receivers are the active lanes below the member count. -/
def execVcompact (g : MReg) (la : BitVec 4) (d a : VReg) (k : MReg) (s : State) : Out :=
  crossLane s la 4 d
    (fun h => (h.lanes g).filter (· < (h.memberLanes k).length))
    (fun h r => s.vlane h a.toNat ((h.memberLanes k).getD r 0)) fun _ => fNone

/-- VEXPAND (R168). -/
def execVexpand (g : MReg) (la : BitVec 4) (d a : VReg) (k : MReg) (s : State) : Out :=
  crossLane s la 4 d (fun h => h.receivers g k)
    (fun h i => s.vlane h a.toNat (rankOf (h.memberLanes k) i)) fun _ => fNone

end Sys2Proof.Machine
end

