-- ==== Sys2Proof/Machine/Perform.lean ====
section
/-! DEFINITION. Local accesses performed (04 R92) and long-latency results committed (01 R31), with what each of them lets
go on: traps queued (14 R288), SAFEPT, HANDOFF, barriers; and the end of a table walk (16 R328 to R333). -/

namespace Sys2Proof.Machine

/-- What a group whose commits and accesses are complete does next. -/
def State.settleGroup (s : State) (core slot : Nat) : State :=
  let s := s.settleTrap core slot
  match s.group? core slot with
  | none => s
  | some g =>
    match g.run with
    | .waiting (.safept c i) => if (s.commitsOf c.agent).isEmpty then s.safeptEnd c i else s
    | .waiting (.handoff ..) => s.handArrive core slot
    | .waiting (.tmbar _) => s.barriers g.team
    | .waiting (.clbar _) => s.barriers g.team
    | _ => s

/-- A forme commit of the leader's core comes after those that the follower's core makes to the team's formes in the same cycle, so
that the leader's value stays (09 R207). -/
def State.partnerForme (s : State) (m : Commit) : Bool :=
  match m.agent with
  | .group k n =>
    k % 2 == 0 && !m.formes.isEmpty && s.commits.any fun o =>
      (match o.agent with
        | .group k' n' => k' == k + 1 && (s.group? k' n').map (·.team) == (s.group? k n).map (·.team)
        | .proof _ => false)
      && o.left == 0 && decide (o.due ≤ s.cycle) && (o.reserved || !o.formes.isEmpty)
  | .proof _ => false

/-- A commit of the same group that issued later falls into the same cycle: it stood in the window, and what was issued before it commits
after it (01 R31). -/
def State.windowFirst (s : State) (m : Commit) : Bool :=
  s.commits.any fun o => o.agent == m.agent && o.left == 0 && decide (o.due ≤ s.cycle) && decide (m.uid < o.uid)

/-- A result that is due may not be written yet. -/
def State.commitHeld (s : State) (m : Commit) : Bool := s.locals.any (·.commit == m.uid) || s.partnerForme m || s.windowFirst m

/-- The instruction beyond a window issues after the cycle of the commit (01 R31). -/
def State.afterCommit (s : State) (a : Agent) : State :=
  match a with
  | .group k n =>
    match s.group? k n with
    | some g => s.setGroup { g with notBefore := max g.notBefore (s.cycle + 1) }
    | none => s
  | .proof c => s.setProof { s.proof c with notBefore := max (s.proof c).notBefore (s.cycle + 1) }

/-- LOOKAHEAD_COMMIT: a long-latency result commits once its latency has elapsed and its window is counted (R31). -/
def execLookaheadCommit (uid : Nat) (s : State) : Out :=
  match s.commits.find? fun m => m.uid == uid && m.left == 0 && decide (m.due ≤ s.cycle) with
  | none => .next s
  | some m =>
    if s.commitHeld m then .next s
    else
      let s := State.afterCommit (State.applyCommit { s with commits := s.commits.filter (·.uid != uid) } m) m.agent
      match m.agent with
      | .group k n => .next (s.settleGroup k n)
      | .proof _ => .next s

/-- Groups among agents. -/
def groupsOf (as : List Agent) : List (Nat × Nat) :=
  as.filterMap fun a => match a with
    | .group k n => some (k, n)
    | .proof _ => none

/-- The bytes that a plain store writes. -/
def Local.stored (l : Local) : List Host.Cell :=
  match l.op with
  | .store bs => cellsAt l.addr bs
  | _ => []

/-- Perform the accesses of one instruction in lane order; what its stores cover together is no longer poisoned (18 R390). -/
def State.performAll (s : State) (ls : List Local) : State :=
  let t := ls.foldl State.performAny s
  { t with poison := t.poison.filter fun w => !covered w (ls.flatMap Local.stored) }

/-- Exited teams give up what no access in flight holds any longer. -/
def State.reapExited (s : State) : State := (s.teams.filter (·.exited)).foldl (fun s t => s.reap t.uid) s

/-- LOCAL_ACCESS_PERFORM: the accesses of one number whose cycle has come, in lane order. Reads are made after the
writes of the same cycle. -/
def execLocalAccessPerform (uid : Nat) (s : State) : Out :=
  let now := s.locals.filter fun l => l.uid == uid && decide (l.due ≤ s.cycle)
  let waits := now.any fun l => !l.op.writes && s.locals.any fun m => m.op.writes && decide (m.due ≤ s.cycle) && m.uid != uid
  if now.isEmpty || waits then .next s
  else
    let s := State.performAll { s with locals := s.locals.filter fun l => !(l.uid == uid && decide (l.due ≤ s.cycle)) } now
    .next (State.reapExited ((groupsOf (now.map (·.agent))).foldl (fun s k => s.settleGroup k.1 k.2) s.wakeOwn))

/-! ### The end of a walk -/

/-- A unit's outcome is known: the leaf is kept, a failure is posted (16 R333, R338). -/
def State.serveUnit (s : State) (m : Cmd) (u : FUnit) (o : XOut) : State :=
  let s := s.cache m.cluster u.va o
  let core := agentCore m.agent
  let part := s.partOf core
  match o with
  | .ok .. =>
    s.setCmd { m with units := m.units.map fun v => if v.va == u.va && v.write == u.write then { v with res := .served o, done := true } else v }
  | .bad r l e =>
    let rec_ := s.faultOf m.team core u.va r l e (m.accessOf u)
    let finished := m.kind == .pagereq && u.refused
    let s := if finished then s else s.postFault part rec_
    let posted := (s.part? part).any fun p => p.holds rec_
    s.setCmd { m with units := m.units.map fun v => if v.va == u.va && v.write == u.write then { v with res := .served o, done := finished, posted := posted, faulted := true } else v }

/-- The requests that wait for a unit which has been translated anew (R342): they go where it leads now, or end. -/
def State.reaim (s : State) (m : Cmd) (u : FUnit) (o : XOut) : State :=
  let t := State.setCmd (s.cache m.cluster u.va o)
    { m with units := m.units.map fun v => if v.va == u.va && v.write == u.write then { v with res := .served o, done := true } else v }
  let far := m.kind == .copy && u.write
  let mine : Req → Bool := fun r => r.cmd == m.uid && r.run == .unsent && r.va / 65536 == u.va / 65536 && (r.op != .read && r.op != .copy) == u.write
  match o with
  | .ok ep page cls cmp _ first _ _ =>
    { t with reqs := t.reqs.map fun (r : Req) => if mine r then { r with ep := ep, page := page, leaf := first, cls := cls, cmp := cmp } else r }
  | .bad k l e =>
    let t := (t.reqs.filter mine).foldl (fun (t : State) r => match t.req? r.cmd r.n with
      | some q => t.failReq q k l e false
      | none => t) t
    match t.cmd? m.uid with
    | some n => if far then State.unitFault (t.writeRes n) n u.va k l e 1 else t
    | none => t

/-- TRANSLATION_WALK_COMPLETE of the n-th unit of a command: its outcome is taken; a unit to be walked anew starts. -/
def execTranslationWalkComplete (cmd unit : Nat) (s : State) : Out :=
  match s.cmd? cmd with
  | none => .next s
  | some m =>
    match nth m.units unit with
    | none => .next s
    | some u =>
      if !m.charged || s.saving m.team then .next s
      else
        match u.res with
        | .ended o => .next (if m.resDone then s.reaim m u o else (s.serveUnit m u o).unitsDone cmd)
        | .pending => .next (s.setCmd (s.beginUnits m))
        | _ => .next s

end Sys2Proof.Machine
end

