-- ==== Sys2Proof/Machine/Vector.lean ====
section
/-! DEFINITION. The vector integer instructions (06_isa_arithmetic R143 to R154): each active lane is a 32-bit
container; one meaning per form. -/

namespace Sys2Proof.Machine

/-- An integer literal as a lane (R126). -/
def litV (t : ITy) (lit : Word) : SrcB := .lit (litI t lit % 2 ^ 32)

/-- A binary vector instruction of R143. -/
def vectorBin (s : State) (gd : MReg) (op : IBin) (t : ITy) (d a : VReg) (b : SrcB) : Out :=
  vector2 s gd d a b fun x y => (putI t 32 (ibin op t x y), fNone)

/-- VADDSAT and VSUBSAT (R152). -/
def vectorSat (s : State) (gd : MReg) (op : IBin) (t : ITy) (d a : VReg) (b : SrcB) : Out :=
  vector2 s gd d a b fun x y => (putI t 32 (satI t (ibin op t x y)).1, (satI t (ibin op t x y)).2)

/-- VCMP (R145). -/
def vectorCmp (s : State) (gd : MReg) (cd : ICond) (t : ITy) (d : MReg) (a : VReg) (b : SrcB) : Out :=
  compareOp s gd d fun g i => icond cd (valI t (s.vlane g a.toNat i)) (valI t (s.srcV g i b))

/-- Absolute value (R153). -/
def vabs (t : ITy) (x : Nat) : Nat := putI t 32 ((valI t x).natAbs : Int)

/-- Byte j of a lane as VDOT4 reads it. -/
def dotByte (sg : Bool) (x j : Nat) : Int := if sg then sext (fld x (8 * j) 8) 8 else (fld x (8 * j) 8 : Int)

/-- VDOT4 (R154). -/
def dot4 (sgn mix sat : Bool) (a b x : Nat) : Nat × Flags :=
  let sb := sgn != mix
  let t : ITy := if sgn || sb then .i32 else .n32
  let y := valI t x + dotByte sgn a 0 * dotByte sb b 0 + dotByte sgn a 1 * dotByte sb b 1
    + dotByte sgn a 2 * dotByte sb b 2 + dotByte sgn a 3 * dotByte sb b 3
  if sat then (putI t 32 (satI t y).1, (satI t y).2) else (putI t 32 y, fNone)


/-- VMOV, short form (R150). -/
def execVmovShort (g : MReg) (d : VReg) (e : EReg) (s : State) : Out :=
  vector1 s g d e.toNat (noFlags id)

/-- VMOV between vector registers (R150). -/
def execVmovLong (g : MReg) (d a : VReg) (s : State) : Out :=
  vector1 s g d a.toNat (noFlags id)

/-- VMOV from a scalar register: bits [31:0] in every active lane (R150). -/
def execVmovBcast (g : MReg) (d : VReg) (a : SReg) (s : State) : Out :=
  vectorOp s g d fun h _ => ((s.sreg h a.toNat).toNat % 2 ^ 32, fNone)

/-- VLI (R150): an integer at its type, or the code of a float. -/
def execVli (g : MReg) (t : Ty) (d : VReg) (lit : Word) (s : State) : Out :=
  vectorOp s g d fun _ _ => match t with
    | .int t => (putI t 32 (valI t (litI t lit)), fNone)
    | .flt _ => (lit.toNat, fNone)

/-- VADD of registers (R143). -/
def execVaddLong (g : MReg) (t : ITy) (d a b : VReg) (s : State) : Out :=
  vectorBin s g .add t d a (.reg b.toNat)

/-- VADD with a literal (R143). -/
def execVaddLiteral (g : MReg) (t : ITy) (d a : VReg) (lit : Word) (s : State) : Out :=
  vectorBin s g .add t d a (litV t lit)

/-- VSUB of registers (R143). -/
def execVsubLong (g : MReg) (t : ITy) (d a b : VReg) (s : State) : Out :=
  vectorBin s g .sub t d a (.reg b.toNat)

/-- VSUB with a literal (R143). -/
def execVsubLiteral (g : MReg) (t : ITy) (d a : VReg) (lit : Word) (s : State) : Out :=
  vectorBin s g .sub t d a (litV t lit)

/-- VMUL of registers (R143). -/
def execVmulLong (g : MReg) (t : ITy) (d a b : VReg) (s : State) : Out :=
  vectorBin s g .mul t d a (.reg b.toNat)

/-- VMUL with a literal (R143). -/
def execVmulLiteral (g : MReg) (t : ITy) (d a : VReg) (lit : Word) (s : State) : Out :=
  vectorBin s g .mul t d a (litV t lit)

/-- VMULH of registers (R143). -/
def execVmulhLong (g : MReg) (t : ITy) (d a b : VReg) (s : State) : Out :=
  vectorBin s g .mulh t d a (.reg b.toNat)

/-- VMULH with a literal (R143). -/
def execVmulhLiteral (g : MReg) (t : ITy) (d a : VReg) (lit : Word) (s : State) : Out :=
  vectorBin s g .mulh t d a (litV t lit)

/-- VMAD (R151). -/
def execVmad (g : MReg) (t : ITy) (d a b x : VReg) (s : State) : Out :=
  vector3 s g d a b x fun p q r => (putI t 32 (valI t p * valI t q + valI t r), fNone)

/-- VADDSAT of registers (R152). -/
def execVaddsatLong (g : MReg) (t : ITy) (d a b : VReg) (s : State) : Out :=
  vectorSat s g .add t d a (.reg b.toNat)

/-- VADDSAT with a literal (R152). -/
def execVaddsatLiteral (g : MReg) (t : ITy) (d a : VReg) (lit : Word) (s : State) : Out :=
  vectorSat s g .add t d a (litV t lit)

/-- VSUBSAT of registers (R152). -/
def execVsubsatLong (g : MReg) (t : ITy) (d a b : VReg) (s : State) : Out :=
  vectorSat s g .sub t d a (.reg b.toNat)

/-- VSUBSAT with a literal (R152). -/
def execVsubsatLiteral (g : MReg) (t : ITy) (d a : VReg) (lit : Word) (s : State) : Out :=
  vectorSat s g .sub t d a (litV t lit)

/-- VAND of registers (R143). -/
def execVandLong (g : MReg) (t : ITy) (d a b : VReg) (s : State) : Out :=
  vectorBin s g .and t d a (.reg b.toNat)

/-- VAND with a literal (R143). -/
def execVandLiteral (g : MReg) (t : ITy) (d a : VReg) (lit : Word) (s : State) : Out :=
  vectorBin s g .and t d a (litV t lit)

/-- VOR of registers (R143). -/
def execVorLong (g : MReg) (t : ITy) (d a b : VReg) (s : State) : Out :=
  vectorBin s g .or t d a (.reg b.toNat)

/-- VOR with a literal (R143). -/
def execVorLiteral (g : MReg) (t : ITy) (d a : VReg) (lit : Word) (s : State) : Out :=
  vectorBin s g .or t d a (litV t lit)

/-- VXOR of registers (R143). -/
def execVxorLong (g : MReg) (t : ITy) (d a b : VReg) (s : State) : Out :=
  vectorBin s g .xor t d a (.reg b.toNat)

/-- VXOR with a literal (R143). -/
def execVxorLiteral (g : MReg) (t : ITy) (d a : VReg) (lit : Word) (s : State) : Out :=
  vectorBin s g .xor t d a (litV t lit)

/-- VSHL of registers (R143). -/
def execVshlLong (g : MReg) (t : ITy) (d a b : VReg) (s : State) : Out :=
  vectorBin s g .shl t d a (.reg b.toNat)

/-- VSHL with a literal (R143). -/
def execVshlLiteral (g : MReg) (t : ITy) (d a : VReg) (lit : Word) (s : State) : Out :=
  vectorBin s g .shl t d a (litV t lit)

/-- VSHR of registers (R143). -/
def execVshrLong (g : MReg) (t : ITy) (d a b : VReg) (s : State) : Out :=
  vectorBin s g .shr t d a (.reg b.toNat)

/-- VSHR with a literal (R143). -/
def execVshrLiteral (g : MReg) (t : ITy) (d a : VReg) (lit : Word) (s : State) : Out :=
  vectorBin s g .shr t d a (litV t lit)

/-- VSAR of registers (R143). -/
def execVsarLong (g : MReg) (t : ITy) (d a b : VReg) (s : State) : Out :=
  vectorBin s g .sar t d a (.reg b.toNat)

/-- VSAR with a literal (R143). -/
def execVsarLiteral (g : MReg) (t : ITy) (d a : VReg) (lit : Word) (s : State) : Out :=
  vectorBin s g .sar t d a (litV t lit)

/-- VMIN of registers (R143). -/
def execVminLong (g : MReg) (t : ITy) (d a b : VReg) (s : State) : Out :=
  vectorBin s g .min t d a (.reg b.toNat)

/-- VMIN with a literal (R143). -/
def execVminLiteral (g : MReg) (t : ITy) (d a : VReg) (lit : Word) (s : State) : Out :=
  vectorBin s g .min t d a (litV t lit)

/-- VMAX of registers (R143). -/
def execVmaxLong (g : MReg) (t : ITy) (d a b : VReg) (s : State) : Out :=
  vectorBin s g .max t d a (.reg b.toNat)

/-- VMAX with a literal (R143). -/
def execVmaxLiteral (g : MReg) (t : ITy) (d a : VReg) (lit : Word) (s : State) : Out :=
  vectorBin s g .max t d a (litV t lit)

/-- VABS, short form: .i32 (R153). -/
def execVabsShort (g : MReg) (d : VReg) (e : EReg) (s : State) : Out :=
  vector1 s g d e.toNat (noFlags (vabs .i32))

/-- VABS (R153). -/
def execVabsLong (g : MReg) (t : ITy) (d a : VReg) (s : State) : Out :=
  vector1 s g d a.toNat (noFlags (vabs t))

/-- VCMP of registers (R145). -/
def execVcmpLong (g : MReg) (cd : ICond) (t : ITy) (d : MReg) (a b : VReg) (s : State) : Out :=
  vectorCmp s g cd t d a (.reg b.toNat)

/-- VCMP with a literal (R145). -/
def execVcmpLiteral (g : MReg) (cd : ICond) (t : ITy) (d : MReg) (a : VReg) (lit : Word) (s : State) : Out :=
  vectorCmp s g cd t d a (litV t lit)

/-- VSEL (R146). -/
def execVsel (g : MReg) (d a b : VReg) (m : MReg) (s : State) : Out :=
  vectorOp s g d fun h i =>
    (if inMask (h.mask m) i then s.vlane h a.toNat i else s.vlane h b.toNat i, fNone)

/-- VPOPC, short form: 32 bits (R147). -/
def execVpopcShort (g : MReg) (d : VReg) (e : EReg) (s : State) : Out :=
  vector1 s g d e.toNat (noFlags (popc 32))

/-- VPOPC (R147). -/
def execVpopcLong (g : MReg) (t : ITy) (d a : VReg) (s : State) : Out :=
  vector1 s g d a.toNat (noFlags (popc t.width))

/-- VCLZ, short form: 32 bits (R147). -/
def execVclzShort (g : MReg) (d : VReg) (e : EReg) (s : State) : Out :=
  vector1 s g d e.toNat (noFlags (clz 32))

/-- VCLZ (R147). -/
def execVclzLong (g : MReg) (t : ITy) (d a : VReg) (s : State) : Out :=
  vector1 s g d a.toNat (noFlags (clz t.width))

/-- VBFX (R148). -/
def execVbfx (g : MReg) (t : ITy) (d a : VReg) (pos : BitVec 6) (len : BitVec 7) (s : State) : Out :=
  vector1 s g d a.toNat (noFlags fun x => bfx t 32 x pos.toNat len.toNat)

/-- VDOT4 (R154). -/
def execVdot4 (g : MReg) (sgn mix sat : Bool) (d a b x : VReg) (s : State) : Out :=
  vector3 s g d a b x (dot4 sgn mix sat)

end Sys2Proof.Machine
end

