-- ==== Sys2Proof/Machine/Dispatch.lean ====
section
/-! DEFINITION. Which meaning every row of spec/opcode_table.json has: one arm per constructor. -/

namespace Sys2Proof.Machine

/-- The meaning of an instruction or event. -/
def exec (i : Instr) (s : State) : Host.Outcome State Fault Refusal :=
  match i with
  | .nop => Sys2Proof.Machine.execNop s
  | .bra t => Sys2Proof.Machine.execBra t s
  | .brs c a t => Sys2Proof.Machine.execBrs c a t s
  | .brm c a t => Sys2Proof.Machine.execBrm c a t s
  | .jmp a => Sys2Proof.Machine.execJmp a s
  | .callLong d a => Sys2Proof.Machine.execCallLong d a s
  | .callLiteral d t => Sys2Proof.Machine.execCallLiteral d t s
  | .ret e => Sys2Proof.Machine.execRet e s
  | .enrol g d t => Sys2Proof.Machine.execEnrol g d t s
  | .park g d => Sys2Proof.Machine.execPark g d s
  | .strike g d => Sys2Proof.Machine.execStrike g d s
  | .safept idx => Sys2Proof.Machine.execSafept idx s
  | .yield => Sys2Proof.Machine.execYield s
  | .exit => Sys2Proof.Machine.execExit s
  | .smovShort d e => Sys2Proof.Machine.execSmovShort d e s
  | .smovLong t d a => Sys2Proof.Machine.execSmovLong t d a s
  | .sli t d lit => Sys2Proof.Machine.execSli t d lit s
  | .saddLong t d a b => Sys2Proof.Machine.execSaddLong t d a b s
  | .saddLiteral t d a lit => Sys2Proof.Machine.execSaddLiteral t d a lit s
  | .ssubLong t d a b => Sys2Proof.Machine.execSsubLong t d a b s
  | .ssubLiteral t d a lit => Sys2Proof.Machine.execSsubLiteral t d a lit s
  | .smulLong t d a b => Sys2Proof.Machine.execSmulLong t d a b s
  | .smulLiteral t d a lit => Sys2Proof.Machine.execSmulLiteral t d a lit s
  | .smulhLong t d a b => Sys2Proof.Machine.execSmulhLong t d a b s
  | .smulhLiteral t d a lit => Sys2Proof.Machine.execSmulhLiteral t d a lit s
  | .sdivLong la t d a b => Sys2Proof.Machine.execSdivLong la t d a b s
  | .sdivLiteral la t d a lit => Sys2Proof.Machine.execSdivLiteral la t d a lit s
  | .sremLong la t d a b => Sys2Proof.Machine.execSremLong la t d a b s
  | .sremLiteral la t d a lit => Sys2Proof.Machine.execSremLiteral la t d a lit s
  | .sandLong t d a b => Sys2Proof.Machine.execSandLong t d a b s
  | .sandLiteral t d a lit => Sys2Proof.Machine.execSandLiteral t d a lit s
  | .sorLong t d a b => Sys2Proof.Machine.execSorLong t d a b s
  | .sorLiteral t d a lit => Sys2Proof.Machine.execSorLiteral t d a lit s
  | .sxorLong t d a b => Sys2Proof.Machine.execSxorLong t d a b s
  | .sxorLiteral t d a lit => Sys2Proof.Machine.execSxorLiteral t d a lit s
  | .sshlLong t d a b => Sys2Proof.Machine.execSshlLong t d a b s
  | .sshlLiteral t d a lit => Sys2Proof.Machine.execSshlLiteral t d a lit s
  | .sshrLong t d a b => Sys2Proof.Machine.execSshrLong t d a b s
  | .sshrLiteral t d a lit => Sys2Proof.Machine.execSshrLiteral t d a lit s
  | .ssarLong t d a b => Sys2Proof.Machine.execSsarLong t d a b s
  | .ssarLiteral t d a lit => Sys2Proof.Machine.execSsarLiteral t d a lit s
  | .sminLong t d a b => Sys2Proof.Machine.execSminLong t d a b s
  | .sminLiteral t d a lit => Sys2Proof.Machine.execSminLiteral t d a lit s
  | .smaxLong t d a b => Sys2Proof.Machine.execSmaxLong t d a b s
  | .smaxLiteral t d a lit => Sys2Proof.Machine.execSmaxLiteral t d a lit s
  | .scmpLong c t d a b => Sys2Proof.Machine.execScmpLong c t d a b s
  | .scmpLiteral c t d a lit => Sys2Proof.Machine.execScmpLiteral c t d a lit s
  | .ssel d a b c => Sys2Proof.Machine.execSsel d a b c s
  | .spopcShort d e => Sys2Proof.Machine.execSpopcShort d e s
  | .spopcLong t d a => Sys2Proof.Machine.execSpopcLong t d a s
  | .sclzShort d e => Sys2Proof.Machine.execSclzShort d e s
  | .sclzLong t d a => Sys2Proof.Machine.execSclzLong t d a s
  | .sbfx t d a pos len => Sys2Proof.Machine.execSbfx t d a pos len s
  | .sbfi t d a pos len => Sys2Proof.Machine.execSbfi t d a pos len s
  | .saddr t d a b c k => Sys2Proof.Machine.execSaddr t d a b c k s
  | .vmovShort g d e => Sys2Proof.Machine.execVmovShort g d e s
  | .vmovLong g d a => Sys2Proof.Machine.execVmovLong g d a s
  | .vmovBcast g d a => Sys2Proof.Machine.execVmovBcast g d a s
  | .vli g t d lit => Sys2Proof.Machine.execVli g t d lit s
  | .vaddLong g t d a b => Sys2Proof.Machine.execVaddLong g t d a b s
  | .vaddLiteral g t d a lit => Sys2Proof.Machine.execVaddLiteral g t d a lit s
  | .vsubLong g t d a b => Sys2Proof.Machine.execVsubLong g t d a b s
  | .vsubLiteral g t d a lit => Sys2Proof.Machine.execVsubLiteral g t d a lit s
  | .vmulLong g t d a b => Sys2Proof.Machine.execVmulLong g t d a b s
  | .vmulLiteral g t d a lit => Sys2Proof.Machine.execVmulLiteral g t d a lit s
  | .vmulhLong g t d a b => Sys2Proof.Machine.execVmulhLong g t d a b s
  | .vmulhLiteral g t d a lit => Sys2Proof.Machine.execVmulhLiteral g t d a lit s
  | .vmad g t d a b c => Sys2Proof.Machine.execVmad g t d a b c s
  | .vaddsatLong g t d a b => Sys2Proof.Machine.execVaddsatLong g t d a b s
  | .vaddsatLiteral g t d a lit => Sys2Proof.Machine.execVaddsatLiteral g t d a lit s
  | .vsubsatLong g t d a b => Sys2Proof.Machine.execVsubsatLong g t d a b s
  | .vsubsatLiteral g t d a lit => Sys2Proof.Machine.execVsubsatLiteral g t d a lit s
  | .vandLong g t d a b => Sys2Proof.Machine.execVandLong g t d a b s
  | .vandLiteral g t d a lit => Sys2Proof.Machine.execVandLiteral g t d a lit s
  | .vorLong g t d a b => Sys2Proof.Machine.execVorLong g t d a b s
  | .vorLiteral g t d a lit => Sys2Proof.Machine.execVorLiteral g t d a lit s
  | .vxorLong g t d a b => Sys2Proof.Machine.execVxorLong g t d a b s
  | .vxorLiteral g t d a lit => Sys2Proof.Machine.execVxorLiteral g t d a lit s
  | .vshlLong g t d a b => Sys2Proof.Machine.execVshlLong g t d a b s
  | .vshlLiteral g t d a lit => Sys2Proof.Machine.execVshlLiteral g t d a lit s
  | .vshrLong g t d a b => Sys2Proof.Machine.execVshrLong g t d a b s
  | .vshrLiteral g t d a lit => Sys2Proof.Machine.execVshrLiteral g t d a lit s
  | .vsarLong g t d a b => Sys2Proof.Machine.execVsarLong g t d a b s
  | .vsarLiteral g t d a lit => Sys2Proof.Machine.execVsarLiteral g t d a lit s
  | .vminLong g t d a b => Sys2Proof.Machine.execVminLong g t d a b s
  | .vminLiteral g t d a lit => Sys2Proof.Machine.execVminLiteral g t d a lit s
  | .vmaxLong g t d a b => Sys2Proof.Machine.execVmaxLong g t d a b s
  | .vmaxLiteral g t d a lit => Sys2Proof.Machine.execVmaxLiteral g t d a lit s
  | .vabsShort g d e => Sys2Proof.Machine.execVabsShort g d e s
  | .vabsLong g t d a => Sys2Proof.Machine.execVabsLong g t d a s
  | .vcmpLong g c t d a b => Sys2Proof.Machine.execVcmpLong g c t d a b s
  | .vcmpLiteral g c t d a lit => Sys2Proof.Machine.execVcmpLiteral g c t d a lit s
  | .vsel g d a b c => Sys2Proof.Machine.execVsel g d a b c s
  | .vpopcShort g d e => Sys2Proof.Machine.execVpopcShort g d e s
  | .vpopcLong g t d a => Sys2Proof.Machine.execVpopcLong g t d a s
  | .vclzShort g d e => Sys2Proof.Machine.execVclzShort g d e s
  | .vclzLong g t d a => Sys2Proof.Machine.execVclzLong g t d a s
  | .vbfx g t d a pos len => Sys2Proof.Machine.execVbfx g t d a pos len s
  | .vdot4 g sgn mix sat d a b c => Sys2Proof.Machine.execVdot4 g sgn mix sat d a b c s
  | .vfaddLong g t rm d a b => Sys2Proof.Machine.execVfaddLong g t rm d a b s
  | .vfaddLiteral g t rm d a lit => Sys2Proof.Machine.execVfaddLiteral g t rm d a lit s
  | .vfsubLong g t rm d a b => Sys2Proof.Machine.execVfsubLong g t rm d a b s
  | .vfsubLiteral g t rm d a lit => Sys2Proof.Machine.execVfsubLiteral g t rm d a lit s
  | .vfmulLong g t rm d a b => Sys2Proof.Machine.execVfmulLong g t rm d a b s
  | .vfmulLiteral g t rm d a lit => Sys2Proof.Machine.execVfmulLiteral g t rm d a lit s
  | .vfma g t rm d a b c => Sys2Proof.Machine.execVfma g t rm d a b c s
  | .vfminLong g t d a b => Sys2Proof.Machine.execVfminLong g t d a b s
  | .vfminLiteral g t d a lit => Sys2Proof.Machine.execVfminLiteral g t d a lit s
  | .vfmaxLong g t d a b => Sys2Proof.Machine.execVfmaxLong g t d a b s
  | .vfmaxLiteral g t d a lit => Sys2Proof.Machine.execVfmaxLiteral g t d a lit s
  | .vfabsShort g d e => Sys2Proof.Machine.execVfabsShort g d e s
  | .vfabsLong g t d a => Sys2Proof.Machine.execVfabsLong g t d a s
  | .vfnegShort g d e => Sys2Proof.Machine.execVfnegShort g d e s
  | .vfnegLong g t d a => Sys2Proof.Machine.execVfnegLong g t d a s
  | .vfcmpLong g c t d a b => Sys2Proof.Machine.execVfcmpLong g c t d a b s
  | .vfcmpLiteral g c t d a lit => Sys2Proof.Machine.execVfcmpLiteral g c t d a lit s
  | .vrcpShort g la d e => Sys2Proof.Machine.execVrcpShort g la d e s
  | .vrcpLong g la t rm d a => Sys2Proof.Machine.execVrcpLong g la t rm d a s
  | .vrsqShort g la d e => Sys2Proof.Machine.execVrsqShort g la d e s
  | .vrsqLong g la t rm d a => Sys2Proof.Machine.execVrsqLong g la t rm d a s
  | .vsqrtShort g la d e => Sys2Proof.Machine.execVsqrtShort g la d e s
  | .vsqrtLong g la t rm d a => Sys2Proof.Machine.execVsqrtLong g la t rm d a s
  | .vdivShort g la d e => Sys2Proof.Machine.execVdivShort g la d e s
  | .vdivLong g la t rm d a b => Sys2Proof.Machine.execVdivLong g la t rm d a b s
  | .vexp2Short g la d e => Sys2Proof.Machine.execVexp2Short g la d e s
  | .vexp2Long g la t d a => Sys2Proof.Machine.execVexp2Long g la t d a s
  | .vlog2Short g la d e => Sys2Proof.Machine.execVlog2Short g la d e s
  | .vlog2Long g la t d a => Sys2Proof.Machine.execVlog2Long g la t d a s
  | .vsinShort g la d e => Sys2Proof.Machine.execVsinShort g la d e s
  | .vsinLong g la t d a => Sys2Proof.Machine.execVsinLong g la t d a s
  | .vcosShort g la d e => Sys2Proof.Machine.execVcosShort g la d e s
  | .vcosLong g la t d a => Sys2Proof.Machine.execVcosLong g la t d a s
  | .vtanhShort g la d e => Sys2Proof.Machine.execVtanhShort g la d e s
  | .vtanhLong g la t d a => Sys2Proof.Machine.execVtanhLong g la t d a s
  | .vcvt g td ts rm sat d a => Sys2Proof.Machine.execVcvt g td ts rm sat d a s
  | .vfrint g t rm d a => Sys2Proof.Machine.execVfrint g t rm d a s
  | .mand d a b => Sys2Proof.Machine.execMand d a b s
  | .mor d a b => Sys2Proof.Machine.execMor d a b s
  | .mxor d a b => Sys2Proof.Machine.execMxor d a b s
  | .mandn d a b => Sys2Proof.Machine.execMandn d a b s
  | .mnot d e => Sys2Proof.Machine.execMnot d e s
  | .mmovToMask d a => Sys2Proof.Machine.execMmovToMask d a s
  | .mmovToScalar d a => Sys2Proof.Machine.execMmovToScalar d a s
  | .mballot d a k => Sys2Proof.Machine.execMballot d a k s
  | .mpopc d a => Sys2Proof.Machine.execMpopc d a s
  | .mfirst d a => Sys2Proof.Machine.execMfirst d a s
  | .mset d first count => Sys2Proof.Machine.execMset d first count s
  | .vshfl g la md d a b k => Sys2Proof.Machine.execVshfl g la md d a b k s
  | .vrotLong g la d a b k => Sys2Proof.Machine.execVrotLong g la d a b k s
  | .vrotLiteral g la d a lit k => Sys2Proof.Machine.execVrotLiteral g la d a lit k s
  | .vbcast g la d a b k => Sys2Proof.Machine.execVbcast g la d a b k s
  | .vred g la op t d a k => Sys2Proof.Machine.execVred g la op t d a k s
  | .vscan g la op excl t d a k => Sys2Proof.Machine.execVscan g la op excl t d a k s
  | .vcompact g la d a k => Sys2Proof.Machine.execVcompact g la d a k s
  | .vexpand g la d a k => Sys2Proof.Machine.execVexpand g la d a k s
  | .vldLong g la md wd sx d a disp => Sys2Proof.Machine.execVldLong g la md wd sx d a disp s
  | .vldLiteral g la md wd sx d a lit => Sys2Proof.Machine.execVldLiteral g la md wd sx d a lit s
  | .vstLong g off wd d a disp => Sys2Proof.Machine.execVstLong g off wd d a disp s
  | .vstLiteral g off wd d a lit => Sys2Proof.Machine.execVstLiteral g off wd d a lit s
  | .sldLong la wd sx d a disp => Sys2Proof.Machine.execSldLong la wd sx d a disp s
  | .sldLiteral la wd sx d a lit => Sys2Proof.Machine.execSldLiteral la wd sx d a lit s
  | .sstLong wd d a disp => Sys2Proof.Machine.execSstLong wd d a disp s
  | .sstLiteral wd d a lit => Sys2Proof.Machine.execSstLiteral wd d a lit s
  | .ll la dbl acq d a disp => Sys2Proof.Machine.execLl la dbl acq d a disp s
  | .su dbl rel d a disp => Sys2Proof.Machine.execSu dbl rel d a disp s
  | .vatom g la op ord sc t d a b c => Sys2Proof.Machine.execVatom g la op ord sc t d a b c s
  | .satom la op ord sc t d a b c => Sys2Proof.Machine.execSatom la op ord sc t d a b c s
  | .arinitLong a off b => Sys2Proof.Machine.execArinitLong a off b s
  | .arinitLiteral a off lit => Sys2Proof.Machine.execArinitLiteral a off lit s
  | .arwait sc d a off b => Sys2Proof.Machine.execArwait sc d a off b s
  | .artest sc d a off b => Sys2Proof.Machine.execArtest sc d a off b s
  | .araddLong sc a off b => Sys2Proof.Machine.execAraddLong sc a off b s
  | .araddLiteral sc a off lit => Sys2Proof.Machine.execAraddLiteral sc a off lit s
  | .tmbar => Sys2Proof.Machine.execTmbar s
  | .clbar => Sys2Proof.Machine.execClbar s
  | .fence k sc => Sys2Proof.Machine.execFence k sc s
  | .tfetch d a b c => Sys2Proof.Machine.execTfetch d a b c s
  | .tmcast mask d a b c => Sys2Proof.Machine.execTmcast mask d a b c s
  | .tgather d a b c => Sys2Proof.Machine.execTgather d a b c s
  | .tstore d a b c => Sys2Proof.Machine.execTstore d a b c s
  | .treduce op d a b c => Sys2Proof.Machine.execTreduce op d a b c s
  | .tfill d a b c => Sys2Proof.Machine.execTfill d a b c s
  | .tcopy d a b c => Sys2Proof.Machine.execTcopy d a b c s
  | .tatom op t d a b c => Sys2Proof.Machine.execTatom op t d a b c s
  | .bulkld d a b c => Sys2Proof.Machine.execBulkld d a b c s
  | .bulkst d a b c => Sys2Proof.Machine.execBulkst d a b c s
  | .pagereq d a b c => Sys2Proof.Machine.execPagereq d a b c s
  | .twinLim d => Sys2Proof.Machine.execTwinLim d s
  | .twinOut d => Sys2Proof.Machine.execTwinOut d s
  | .twinSet d a => Sys2Proof.Machine.execTwinSet d a s
  | .thint a b => Sys2Proof.Machine.execThint a b s
  | .forme la d a m => Sys2Proof.Machine.execForme la d a m s
  | .formeR la d a => Sys2Proof.Machine.execFormeR la d a s
  | .mma pair sg d a b c => Sys2Proof.Machine.execMma pair sg d a b c s
  | .mzero d => Sys2Proof.Machine.execMzero d s
  | .mldg d a b => Sys2Proof.Machine.execMldg d a b s
  | .mstg d a b => Sys2Proof.Machine.execMstg d a b s
  | .mcvt relu rm d a c => Sys2Proof.Machine.execMcvt relu rm d a c s
  | .maddg isInt rm d a b => Sys2Proof.Machine.execMaddg isInt rm d a b s
  | .mwait => Sys2Proof.Machine.execMwait s
  | .ligbind c a b => Sys2Proof.Machine.execLigbind c a b s
  | .ligeval a => Sys2Proof.Machine.execLigeval a s
  | .ligemit bf a b => Sys2Proof.Machine.execLigemit bf a b s
  | .ligwait => Sys2Proof.Machine.execLigwait s
  | .ligclr => Sys2Proof.Machine.execLigclr s
  | .handoff idx a m => Sys2Proof.Machine.execHandoff idx a m s
  | .taskq d a b => Sys2Proof.Machine.execTaskq d a b s
  | .taskpush d a b => Sys2Proof.Machine.execTaskpush d a b s
  | .taskdone d a => Sys2Proof.Machine.execTaskdone d a s
  | .launch d a b => Sys2Proof.Machine.execLaunch d a b s
  | .grow d m => Sys2Proof.Machine.execGrow d m s
  | .shrink m => Sys2Proof.Machine.execShrink m s
  | .trap code => Sys2Proof.Machine.execTrap code s
  | .brk code => Sys2Proof.Machine.execBrk code s
  | .rdsr g r d => Sys2Proof.Machine.execRdsr g r d s
  | .wrsr r a => Sys2Proof.Machine.execWrsr r a s
  | .dbgmap d a => Sys2Proof.Machine.execDbgmap d a s
  | .dbgmapU d => Sys2Proof.Machine.execDbgmapU d s
  | .dbgrd la wd d a m => Sys2Proof.Machine.execDbgrd la wd d a m s
  | .dbgwr wd d a m => Sys2Proof.Machine.execDbgwr wd d a m s
  | .tret => Sys2Proof.Machine.execTret s
  | .tretExit => Sys2Proof.Machine.execTretExit s
  | .preempt d a b => Sys2Proof.Machine.execPreempt d a b s
  | .preemptQ d a => Sys2Proof.Machine.execPreemptQ d a s
  | .xlatinvPg d a => Sys2Proof.Machine.execXlatinvPg d a s
  | .xlatinvAll d a => Sys2Proof.Machine.execXlatinvAll d a s
  | .xlatinvUnreach d a => Sys2Proof.Machine.execXlatinvUnreach d a s
  | .xlatinvReach d a => Sys2Proof.Machine.execXlatinvReach d a s
  | .csrrd d r => Sys2Proof.Machine.execCsrrd d r s
  | .csrwr r a => Sys2Proof.Machine.execCsrwr r a s
  | .tqnextRead d => Sys2Proof.Machine.execTqnextRead d s
  | .tqnextWaitEnd cluster => Sys2Proof.Machine.execTqnextWaitEnd cluster s
  | .fevnextRead d => Sys2Proof.Machine.execFevnextRead d s
  | .fevnextWaitEnd cluster => Sys2Proof.Machine.execFevnextWaitEnd cluster s
  | .lookaheadCommit uid => Sys2Proof.Machine.execLookaheadCommit uid s
  | .localAccessPerform uid => Sys2Proof.Machine.execLocalAccessPerform uid s
  | .fenceWaitEnd ag => Sys2Proof.Machine.execFenceWaitEnd ag s
  | .chaseWaitEnd core slot => Sys2Proof.Machine.execChaseWaitEnd core slot s
  | .matrixQueueEnter core slot => Sys2Proof.Machine.execMatrixQueueEnter core slot s
  | .matrixOpStart core => Sys2Proof.Machine.execMatrixOpStart core s
  | .matrixOpRetire uid => Sys2Proof.Machine.execMatrixOpRetire uid s
  | .ligQueueEnter core slot => Sys2Proof.Machine.execLigQueueEnter core slot s
  | .ligOpStart core => Sys2Proof.Machine.execLigOpStart core s
  | .ligOpComplete uid => Sys2Proof.Machine.execLigOpComplete uid s
  | .ligclrClear core slot => Sys2Proof.Machine.execLigclrClear core slot s
  | .requestSend cmd req => Sys2Proof.Machine.execRequestSend cmd req s
  | .requestRetry cmd req => Sys2Proof.Machine.execRequestRetry cmd req s
  | .translationWalkComplete cmd unit => Sys2Proof.Machine.execTranslationWalkComplete cmd unit s
  | .responseBurstReceive n t => Sys2Proof.Machine.execResponseBurstReceive n t s
  | .ackOnlyReceive n t => Sys2Proof.Machine.execAckOnlyReceive n t s
  | .zeroFillAddition cmd => Sys2Proof.Machine.execZeroFillAddition cmd s
  | .replayTimeout stream => Sys2Proof.Machine.execReplayTimeout stream s
  | .resumeReceive stream r => Sys2Proof.Machine.execResumeReceive stream r s
  | .grantRequestReceive src plane slot vc bursts refuse => Sys2Proof.Machine.execGrantRequestReceive src plane slot vc bursts refuse s
  | .grantReceive peer plane slot vc bursts => Sys2Proof.Machine.execGrantReceive peer plane slot vc bursts s
  | .grantRefusalReceive peer plane vc hint => Sys2Proof.Machine.execGrantRefusalReceive peer plane vc hint s
  | .grantRetry peer plane vc => Sys2Proof.Machine.execGrantRetry peer plane vc s
  | .completionNoticeReceive cmd req => Sys2Proof.Machine.execCompletionNoticeReceive cmd req s
  | .moduleRead ep n w => Sys2Proof.Machine.execModuleRead ep n w s
  | .moduleWrite ep n w => Sys2Proof.Machine.execModuleWrite ep n w s
  | .moduleReduce ep n w => Sys2Proof.Machine.execModuleReduce ep n w s
  | .moduleFill ep n w => Sys2Proof.Machine.execModuleFill ep n w s
  | .moduleAtomic ep n w => Sys2Proof.Machine.execModuleAtomic ep n w s
  | .moduleCopy ep n w => Sys2Proof.Machine.execModuleCopy ep n w s
  | .moduleHint ep n drop => Sys2Proof.Machine.execModuleHint ep n drop s
  | .moduleTableRead ep addr => Sys2Proof.Machine.execModuleTableRead ep addr s
  | .moduleTableWrite ep => Sys2Proof.Machine.execModuleTableWrite ep s
  | .pageMoveComplete ep page => Sys2Proof.Machine.execPageMoveComplete ep page s
  | .moduleThermalStep ep stack temp => Sys2Proof.Machine.execModuleThermalStep ep stack temp s
  | .handoffTransfer team => Sys2Proof.Machine.execHandoffTransfer team s
  | .successorStart team => Sys2Proof.Machine.execSuccessorStart team s
  | .scrubWrite core granule => Sys2Proof.Machine.execScrubWrite core granule s
  | .growRecheck core slot => Sys2Proof.Machine.execGrowRecheck core slot s
  | .allWaitingFailure core => Sys2Proof.Machine.execAllWaitingFailure core s
  | .taskqAnswer cluster n => Sys2Proof.Machine.execTaskqAnswer cluster n s
  | .pendingRecordMove cluster index => Sys2Proof.Machine.execPendingRecordMove cluster index s
  | .imposerBalance part => Sys2Proof.Machine.execImposerBalance part s
  | .movedRecordArrive n => Sys2Proof.Machine.execMovedRecordArrive n s
  | .notifyWrite part q x => Sys2Proof.Machine.execNotifyWrite part q x s
  | .packetKernel slot => Sys2Proof.Machine.execPacketKernel slot s
  | .packetWait slot => Sys2Proof.Machine.execPacketWait slot s
  | .waitPacketPoll slot idx => Sys2Proof.Machine.execWaitPacketPoll slot idx s
  | .packetNoop slot => Sys2Proof.Machine.execPacketNoop slot s
  | .packetReserveLanes slot => Sys2Proof.Machine.execPacketReserveLanes slot s
  | .packetReleaseLanes slot => Sys2Proof.Machine.execPacketReleaseLanes slot s
  | .laneReservationPin slot => Sys2Proof.Machine.execLaneReservationPin slot s
  | .packetComplete slot idx => Sys2Proof.Machine.execPacketComplete slot idx s
  | .teamPlace launch => Sys2Proof.Machine.execTeamPlace launch s
  | .placementRetry part => Sys2Proof.Machine.execPlacementRetry part s
  | .bindingIssue team => Sys2Proof.Machine.execBindingIssue team s
  | .queueMap part slot => Sys2Proof.Machine.execQueueMap part slot s
  | .priorityEviction part => Sys2Proof.Machine.execPriorityEviction part s
  | .sliceEviction slot => Sys2Proof.Machine.execSliceEviction slot s
  | .idleUnmap slot => Sys2Proof.Machine.execIdleUnmap slot s
  | .leaseExpire slot => Sys2Proof.Machine.execLeaseExpire slot s
  | .preemptDeadline n => Sys2Proof.Machine.execPreemptDeadline n s
  | .contextSave n => Sys2Proof.Machine.execContextSave n s
  | .saveComplete n => Sys2Proof.Machine.execSaveComplete n s
  | .xinvWrite part x => Sys2Proof.Machine.execXinvWrite part x s
  | .shootdownComplete part => Sys2Proof.Machine.execShootdownComplete part s
  | .fresolveWrite part x => Sys2Proof.Machine.execFresolveWrite part x s
  | .fbgetWrite part x => Sys2Proof.Machine.execFbgetWrite part x s
  | .registerWrite off x => Sys2Proof.Machine.execRegisterWrite off x s
  | .mailboxRead win off size => Sys2Proof.Machine.execMailboxRead win off size s
  | .mailboxWrite win off size x => Sys2Proof.Machine.execMailboxWrite win off size x s
  | .proofCoreRestart cluster => Sys2Proof.Machine.execProofCoreRestart cluster s
  | .bootVerifyFirmware => Sys2Proof.Machine.execBootVerifyFirmware s
  | .bootVerifyConfiguration => Sys2Proof.Machine.execBootVerifyConfiguration s
  | .firmwareVerifyDone => Sys2Proof.Machine.execFirmwareVerifyDone s
  | .configurationBringupDone selfTestOk => Sys2Proof.Machine.execConfigurationBringupDone selfTestOk s
  | .featureLock => Sys2Proof.Machine.execFeatureLock s
  | .attestGo => Sys2Proof.Machine.execAttestGo s
  | .attestReportDone => Sys2Proof.Machine.execAttestReportDone s
  | .mmgmtSend => Sys2Proof.Machine.execMmgmtSend s
  | .packageReset => Sys2Proof.Machine.execPackageReset s
  | .sockGo s' => Sys2Proof.Machine.execSockGo s' s
  | .sockQuiesce s' => Sys2Proof.Machine.execSockQuiesce s' s
  | .sockReset s' => Sys2Proof.Machine.execSockReset s' s
  | .engineInsert s' rom => Sys2Proof.Machine.execEngineInsert s' rom s
  | .engineRemove s' => Sys2Proof.Machine.execEngineRemove s' s
  | .romVerifyDone s' => Sys2Proof.Machine.execRomVerifyDone s' s
  | .drainComplete s' => Sys2Proof.Machine.execDrainComplete s' s
  | .drainTimeout s' => Sys2Proof.Machine.execDrainTimeout s' s
  | .laneFail s' lane reason => Sys2Proof.Machine.execLaneFail s' lane reason s
  | .spareLock s' lane spare => Sys2Proof.Machine.execSpareLock s' lane spare s
  | .laneRetry s' lane pass => Sys2Proof.Machine.execLaneRetry s' lane pass s
  | .retrain s' lane pass => Sys2Proof.Machine.execRetrain s' lane pass s
  | .ageingUpdate s' lane current => Sys2Proof.Machine.execAgeingUpdate s' lane current s
  | .laserRetire s' lane spare => Sys2Proof.Machine.execLaserRetire s' lane spare s
  | .cadenceTickSend => Sys2Proof.Machine.execCadenceTickSend s
  | .cadenceTickReceive n level => Sys2Proof.Machine.execCadenceTickReceive n level s
  | .levelApply => Sys2Proof.Machine.execLevelApply s
  | .demandReceive member level => Sys2Proof.Machine.execDemandReceive member level s
  | .cadenceLost => Sys2Proof.Machine.execCadenceLost s
  | .thermalEmergency => Sys2Proof.Machine.execThermalEmergency s
  | .powerSample m => Sys2Proof.Machine.execPowerSample m s
  | .rowSelfTestDone core row pass => Sys2Proof.Machine.execRowSelfTestDone core row pass s
  | .throttleDemandReceive ep on => Sys2Proof.Machine.execThrottleDemandReceive ep on s

end Sys2Proof.Machine
end

