-- ==== Sys2Proof/Machine/Cycle.lean ====
section
/-! DEFINITION. Issue and time: which agents issue in a cycle (01 R26 to R28, 15 R323), how one issues (05 R133), the end
of a cycle, and the events that take place by themselves. The order of turns is the model's choice (log 2). -/

namespace Sys2Proof.Machine

/-- The state of an outcome that goes on. -/
def orSame (s : State) : Out → State
  | .next t => t
  | _ => s

/-! ### Issue (05 R133) -/

/-- A proof core may issue: the package is ready, it runs and waits for nothing (log 7). -/
def State.proofReady (s : State) (c : Nat) : Bool :=
  let p := s.proof c
  s.boot.st == 5 && !p.halted && p.wait.isNone && decide (p.notBefore ≤ s.cycle)
    && !(s.commits.any fun m => m.agent == .proof c && m.left == 0)

/-- The records of an issue that is tried: its cycle, and the line the group is in. -/
def State.noteIssue (s : State) (a : Agent) : State :=
  match a with
  | .proof c => s.setProof { s.proof c with notBefore := s.cycle + 1 }
  | .group k n =>
    match s.group? k n with
    | none => s
    | some g => s.setGroup { g with
        lastIssue := some s.cycle, notBefore := s.cycle + 1, yielded := none, held := false, line := s.latch a g.pc.toNat }

/-- The records of an issue that was not held back (R28): the issue cycle for the group and its bundle `b` (15 R323), and the YIELDs
that waited for it (07 R175). A group that has gone has issued its last instruction. -/
def State.noteIssued (s : State) (a : Agent) (b : Nat) : State :=
  match a with
  | .proof _ => s
  | .group k n =>
    if !((s.group? k n).all fun g => g.lastIssue == some s.cycle) then s
    else
      { s with groups := s.groups.map fun (g : Group) =>
          if g.core != k then g
          else
            let g := { g with yielded := g.yielded.map fun (y : Nat × List Nat) => (y.1, y.2.filter (· != n)) }
            let g := if g.bundle == b then { g with readySince := s.issueCount k } else g
            if g.slot == n then { g with waitSince := s.issueCount k } else g }

/-- The bundle of an agent. -/
def State.bundleOf (s : State) : Agent → Nat
  | .group k n => ((s.group? k n).map (·.bundle)).getD 0
  | .proof _ => 0

/-- The instruction that an agent has fetched: the checks of steps 4 to 8, then its meaning. -/
def State.runFetched (s : State) (c : Cur) (ws : List Word) : Out :=
  let grp := match c.agent with
    | .group .. => true
    | .proof _ => false
  let priv := grp && privilegedOp (ws.headD 0)
  match decode ws with
  | .error .field => .next (s.trap c (if priv then cPRIV else cILLOP))
  | .error _ => .next (s.trap c cILLOP)
  | .ok i =>
    if priv then .next (s.trap c cPRIV)
    else
      match s.operandTrap c i with
      | some t => .next t
      | none => exec i s

/-- After a turn no agent issues, and waits that a pre-emption request ends are left (14 R301). -/
def State.settle (s : State) : State := State.stopWaiting { s with cur := none }

/-- Settle what goes on. -/
def settleOut : Out → Out
  | .next t => .next t.settle
  | o => o

/-- Settle after an issue, and record it. -/
def issueOut (a : Agent) (b : Nat) : Out → Out
  | .next t => .next (t.settle.noteIssued a b)
  | o => o

/-- What an agent meets at its program counter, if it may issue: its previous issue and the fetch. -/
def State.fetchOf (s : State) (a : Agent) : Option (DWord × Option Nat × FetchAns) :=
  match a with
  | .proof c =>
    let p := s.proof c
    if s.proofReady c then some (p.pc, none, s.fetchPc a p.pc.toNat false false) else none
  | .group k n =>
    match s.group? k n with
    | none => none
    | some g => if s.isReady g then some (g.pc, g.lastIssue, s.fetchPc a g.pc.toNat g.fresh g.checkPc) else none

/-- One agent issues, if it may. -/
def State.issue (s : State) (a : Agent) : Out :=
  match s.fetchOf a with
  | none => .next s
  | some x =>
    let c : Cur := { agent := a, pc := x.1, next := x.1, tail := none, last := x.2.1 }
    match x.2.2 with
    | .busy => .next (s.retryAt c 0)
    | .trap n => issueOut a (s.bundleOf a) (.next (State.trap { s.noteIssue a with cur := some c } c n))
    | .fault r l e =>
      issueOut a (s.bundleOf a) (.next (State.codeFault { s.noteIssue a with cur := some c } c (lineOf x.1.toNat) r l e))
    | .instr ws next tail =>
      let c := { c with next := next, tail := tail }
      issueOut a (s.bundleOf a) (State.runFetched { s.noteIssue a with cur := some c } c ws)

/-! ### Who issues in a cycle -/

/-- A group has no instruction to issue in this cycle: what it tries leaves it where it is, neither waiting nor held by a bank, because of
an order between accesses (04 R100, R101) or of a page that moves (16 R335). -/
def State.stuck (s : State) (g : Group) : Bool :=
  match s.issue (.group g.core g.slot) with
  | .next t => (t.group? g.core g.slot).any fun h => h.run == .ready && h.lastIssue != some s.cycle && !h.held
  | _ => false

/-- Another group of its core is ready. -/
def State.othersReady (s : State) (g : Group) : Bool :=
  s.groups.any fun h => h.core == g.core && h.slot != g.slot && s.unheld h && !s.yieldOpen h && !(s.canIssue h && s.stuck h)

/-- A YIELD that one of its conditions has ended is over: the group stays ready (R175). -/
def State.endYields (s : State) : State :=
  { s with groups := s.groups.map fun (g : Group) =>
      if g.yielded.isSome && (!s.yieldOpen g || !s.othersReady g) then { g with yielded := none } else g }

/-- Previous issue of a member, one that has none first. -/
def Group.age (g : Group) : Nat := match g.lastIssue with
  | none => 0
  | some t => t + 1

/-- The member with the previous issue furthest in the past, lowest position first (R28). -/
def oldestMember : List Group → Option Group
  | [] => none
  | g :: gs =>
    match oldestMember gs with
    | none => some g
    | some h => if h.age < g.age ∨ (h.age = g.age ∧ h.pos < g.pos) then some h else some g

/-- An issue unit with an instruction to issue: its ready members, and the placement order and slot of its earliest group,
ready or not (R323). -/
structure IssueUnit where
  ready : List Group
  held : Bool       -- a member's instruction is held by a bank: the unit stays chosen
  lacks : Bool      -- and still lacks a lock bit
  place : Nat × Nat
  deriving DecidableEq, Repr

/-- Placement order and slot of the earliest of some groups. -/
def earliest (gs : List Group) : Nat × Nat :=
  gs.foldl (fun b g => if g.placed < b.1 ∨ (g.placed = b.1 ∧ g.slot < b.2) then (g.placed, g.slot) else b) (2 ^ 200, 0)

/-- Issue cycles since a unit issued, or became ready. -/
def IssueUnit.wait (count : Nat) (u : IssueUnit) : Nat := maxL (u.ready.map fun g => count - g.readySince)

/-- Of two units, the first takes precedence (R323): one held by a bank, then capped units by their wait, others by placement. -/
def unitBefore (count : Nat) (x y : IssueUnit) : Bool :=
  let early := decide (x.place.1 < y.place.1 ∨ (x.place.1 = y.place.1 ∧ x.place.2 ≤ y.place.2))
  let capped := if 16 ≤ x.wait count then decide (y.wait count < x.wait count) || (x.wait count == y.wait count && early)
    else decide (y.wait count < 16) && early
  (x.held && !y.held) || (x.held == y.held && capped)

/-- The first of some units in the order of R323. -/
def bestUnit (count : Nat) : List IssueUnit → Option IssueUnit
  | [] => none
  | u :: us =>
    match bestUnit count us with
    | none => some u
    | some v => if unitBefore count u v then some u else some v

/-- The member of a chosen unit that gives the program counter (R28). -/
def IssueUnit.leader (u : IssueUnit) : Option Group := oldestMember u.ready

/-- The members of a chosen unit that issue: the ready ones at the leader's program counter (R28). -/
def IssueUnit.issuers (u : IssueUnit) : List Group :=
  match u.leader with
  | none => []
  | some g => u.ready.filter (·.pc == g.pc)

/-! What R323 chooses keeps the bound of R33 for units, but not always for the members of a bundle that have diverged, nor for a unit behind
one that a lock bit holds. R33 states its bound for them too, so the model departs from R323 where following it once more would leave R33 no
way to be kept, and only there (DESIGN CHOICE, log 34). -/

/-- Issue cycles of its core since a member issued itself, or became ready (R33). -/
def Group.waited (count : Nat) (g : Group) : Nat := count - g.waitSince

/-- How many issues of its unit a ready member needs for its own, in the order of R28. -/
def IssueUnit.rank (u : IssueUnit) (g : Group) : Nat :=
  (u.ready.filter fun h => decide (h.age < g.age ∨ (h.age = g.age ∧ h.pos ≤ g.pos))).length

/-- Issue cycles that all members need which have waited `w` or longer. -/
def neededBy (count w : Nat) (us : List IssueUnit) : Nat :=
  sumL (us.map fun u => maxL ((u.ready.filter fun h => decide (w ≤ h.waited count)).map u.rank))

/-- Every member of some units can still issue within its 64 issue cycles, of which the present one goes to another. A member whose
instruction is held by a bank does not issue by being chosen. -/
def boundKept (count : Nat) (us : List IssueUnit) : Bool :=
  us.all fun u => u.ready.all fun g => g.held || decide (neededBy count (g.waited count) us + g.waited count ≤ 63)

/-- The units of a core after one of them has been chosen: what issues is gone, and what lacks a lock bit is not. -/
def afterChoice (u : IssueUnit) (us : List IssueUnit) : List IssueUnit :=
  us.map fun v => if v == u && !u.lacks then { v with ready := v.ready.filter fun g => !u.issuers.any (· == g) } else v

/-- The longest wait of a unit's members that are not held by a bank. -/
def IssueUnit.longest (count : Nat) (u : IssueUnit) : Nat := maxL ((u.ready.filter fun g => !g.held).map fun g => g.waited count + 1)

/-- The unit a core chooses: R323's, or, where that would break R33, the one whose member has waited longest. -/
def chosenUnit (count : Nat) (us : List IssueUnit) : Option IssueUnit :=
  match bestUnit count us with
  | none => none
  | some u =>
    if boundKept count (afterChoice u us) then some u
    else bestUnit count (us.filter fun v => v.longest count == maxL (us.map (·.longest count)))

/-- The units of a core with an instruction to issue (R28 step 1). -/
def State.issueUnits (s : State) (core : Nat) : List IssueUnit :=
  (List.range 33).filterMap fun b =>
    let gs := s.groups.filter fun g => g.core == core && g.run != .exited && g.bundle == b
    let ms := gs.filter fun g => s.isReady g && !s.stuck g
    if ms.isEmpty then none
    else some { ready := ms, held := ms.any (·.held), place := earliest gs
                lacks := ms.any fun g => g.held && s.lockReqs.any (·.agent == .group g.core g.slot) }

/-- The groups of a core that issue in this cycle: the ready members of its unit whose program counter is the chosen one. Where that
instruction is an engine command, R28 lets each of these members issue it, while R197 has at most one command issue per core and cycle. The
model follows R28: the members of a bundle at one program counter issue one instruction (R26), and share every issue (DESIGN CHOICE, log 34). -/
def State.coreIssues (s : State) (core : Nat) : List Agent :=
  match chosenUnit (s.issueCount core) (s.issueUnits core) with
  | none => []
  | some u => u.issuers.map fun h => .group h.core h.slot

/-- Put an agent into a list in the order of core and slot. -/
def insertAgent (a : Agent) : List Agent → List Agent
  | [] => [a]
  | b :: bs => if agentOrder a ≤ agentOrder b then a :: b :: bs else b :: insertAgent a bs

/-- All agents that issue in this cycle, lower cores and slots first. -/
def State.choose (s : State) : List Agent :=
  ((dedup (s.groups.map (·.core))).flatMap s.coreIssues).foldr insertAgent [] ++ ((List.range 96).filter s.proofReady).map Agent.proof

/-- A core has selected an instruction: one issue cycle of it, however many of its groups issue (00 R5). -/
def State.countIssue (s : State) (core : Nat) : State :=
  { s with issues := (s.issues.filter (·.1 != core)) ++ [(core, s.issueCount core + 1)] }

/-- What a ready group's instruction waits for at issue because its own local writes are still to be performed: an ARWAIT or ARTEST on the
word (08 R194), or another read at issue (04 R98). -/
def State.ownWait (s : State) (g : Group) : Option Wait :=
  match s.issue (.group g.core g.slot) with
  | .next t =>
    match (t.group? g.core g.slot).map Group.run with
    | some (.waiting (.ownWrites key n)) => some (.ownWrites key n)
    | _ => none
  | _ => none

/-- Such groups wait: the core does not choose them, and they take no issue slot (R34). -/
def State.holdOwn (s : State) : State :=
  { s with groups := s.groups.map fun (g : Group) =>
      if s.isReady g then (match s.ownWait g with
        | some w => { g with run := .waiting w }
        | none => g) else g }

/-- Who still issues in this cycle is settled before the first of them does, and each core that issues counts the cycle. -/
def State.planned (s : State) : State :=
  match s.plan with
  | some _ => s
  | none =>
    let t := s.holdOwn.endYields
    let as := t.choose
    (dedup ((groupsOf as).map (·.1))).foldl State.countIssue { t with plan := some as }

/-- An agent's next instruction takes lock bits. -/
def State.takesBits (s : State) (a : Agent) : Bool :=
  match s.fetchOf a with
  | some (_, _, .instr ws _ _) =>
    match decode ws with
    | .ok (.ll ..) | .ok (.vatom ..) | .ok (.satom ..) => true
    | _ => false
  | _ => false

/-- Who issues at an agent's turn: of those that take lock bits, the lower core and slot goes first (R191). -/
def State.whoIssues (s : State) (as : List Agent) (a : Agent) : Agent :=
  if s.takesBits a then (as.find? s.takesBits).getD a else a

/-- An agent issues if it is among those that issue in this cycle and has not yet (R26, R28). -/
def State.issueTurn (s : State) (a : Agent) : Out :=
  let t := s.planned
  match t.plan with
  | some as =>
    if as.any (· == a) then State.issue { t with plan := some (as.filter (· != t.whoIssues as a)) } (t.whoIssues as a) else .next t
  | none => .next t

/-- Whoever still issues in this cycle does. -/
def State.issueRest : List Agent → State → Out
  | [], s => .next s
  | a :: as, s =>
    match State.issue { s with plan := some as } a with
    | .next t => State.issueRest as t
    | o => o

/-! ### The end of a cycle -/

/-- Commit what is due and held by nothing, one after another; the number bounds them. -/
def State.commitDue (s : State) : Nat → State
  | 0 => s
  | n + 1 =>
    match s.commits.find? fun m => m.left == 0 && decide (m.due ≤ s.cycle) && !s.commitHeld m with
    | none => s
    | some m => (orSame s (execLookaheadCommit m.uid s)).commitDue n

/-- Perform the local accesses that are due, writes first (04 R92), then commit what is due (01 R31). -/
def State.performDue (s : State) : State :=
  let due := s.locals.filter fun l => decide (l.due ≤ s.cycle)
  let s := ((due.filter fun l => l.op.writes) ++ due.filter fun l => !l.op.writes).foldl
    (fun s l => orSame s (execLocalAccessPerform l.uid s)) s
  s.commitDue s.commits.length

/-- The imposers sample every 256 cycles (15 R327). -/
def State.balanceAll (s : State) : State :=
  if s.cycle % 256 = 0 then s.parts.foldl (fun s p => orSame s (execImposerBalance p.p s)) s else s

/-- A group that has nothing to issue starts its wait anew (15 R323); one that is held by a bank has not (01 R33). -/
def State.noteReady (s : State) : State :=
  { s with groups := s.groups.map fun (g : Group) =>
      if g.held || (s.isReady g && !s.stuck g) then g else { g with readySince := s.issueCount g.core, waitSince := s.issueCount g.core } }

/-- The scrubber takes a granule a cycle (11 R254, 15 R324). -/
def State.scrubOne (s : State) : State :=
  match s.scrub with
  | r :: _ => orSame s (execScrubWrite 0 r.1 s)
  | [] => s

/-- The end of a cycle and the start of the next. -/
def State.tick (s : State) : State :=
  let s := s.performDue.expireLocks.retryLocks
  let s := (s.serveAsks s.asks.length).sendAcks
  let s := s.balanceAll.noteReady.scrubOne
  { s with cycle := s.cycle + 1, time := s.time + periodUnits s.cadence.level, plan := none }

/-! ### Events that take place by themselves (log 2) -/

/-- A module accepts, and its answer is sound: what an undisturbed module does. -/
def plainAnswer : Answer := { hint := 0, bad := [] }

/-- A stream with chunks that only lack a way: copies that stand on no lane, or chunks that wait with room for copies. -/
def TxStream.stalled (x : TxStream) : Bool :=
  x.adrift || (!x.waiting.isEmpty && decide (x.copies.length < 16))

/-- Who has a burst to send: from whom, to whom, its channel, and the hardware queue slot of its command. -/
def State.wants (s : State) : List (Nat × Nat × Nat × Option Nat) :=
  let own := s.boot.endpoint
  let both := fun (e : Nat) => [(own, e, 0, none), (e, own, 1, none)]
  ((s.reqs.filter fun r => r.run.due s.time && (s.cmd? r.cmd).any fun m => s.maySend m r).map fun r => (own, r.ep, 0, s.hwOf r.team))
    ++ (s.tx.filter TxStream.stalled).map (fun x => (x.src, x.dst, x.vc, (x.copies ++ x.waiting).head?.bind s.chunkHw))
    ++ (s.rx.filter (·.owes)).map (fun y => (y.dst, y.src, 1, none))
    ++ s.hints.map (fun h => (own, h.1, 0, none))
    ++ s.cmds.flatMap (fun m => m.units.flatMap fun u => match u.res with
      | .walking _ ep _ _ => both ep
      | _ => [])
    ++ (s.modules.filter (·.pendingWrite.isSome)).flatMap fun m => both m.ep

/-- The grant of a module's receive slot on the lowest plane that can carry the burst: no grant is open there, none was refused for
now, and no reservation has pinned the slot. -/
def State.moduleGrant (s : State) (ep vc : Nat) (hw : Option Nat) : Option (State → Out) :=
  if !s.controlTo ep then none
  else ((List.range 256).find? fun p => (s.sendLane hw ep p).isSome
      && !(s.grants.any fun g => g.peer == ep && g.plane == p && g.vc == vc)
      && !(s.grantWait.any fun g => g.1 == ep && g.2.1 == p && g.2.2.1 == vc)
      && !(s.hws.any fun h => (s.heldPins h).any fun x => x.1 == ep && x.2.1 == p)).map
    fun p => execGrantReceive ep p 0 vc 16

/-- The request for a grant of the package's first receive slot that serves and has no grant open. -/
def State.packageGrant (s : State) (ep vc : Nat) : Option (State → Out) :=
  if !s.controlTo ep || s.asks.any fun g => g.peer == ep && g.vc == vc then none
  else ((List.range 1024).find? fun i => s.moduleLane ep (i / 4) && (s.planeLane (i / 4) (i % 4)).isSome
      && !(s.given.any fun g => g.plane == i / 4 && g.slot == i % 4 && g.vc == vc)).map
    fun i => execGrantRequestReceive ep (i / 4) (i % 4) vc 16 0

/-- A burst that only lacks a grant receives one (17 R355). -/
def State.grantNeeded (s : State) : Option (State → Out) :=
  s.wants.findSome? fun w =>
    if (s.way w.1 w.2.1 w.2.2.1 w.2.2.2).isSome then none
    else if w.1 = s.boot.endpoint then s.moduleGrant w.2.1 w.2.2.1 w.2.2.2 else s.packageGrant w.1 w.2.2.1

/-- Number of a request among those that have reached its module. -/
def numbers {α : Type} (xs : List α) : List (Nat × α) := (List.range xs.length).zip xs

/-- Events of groups, engines and local memory. -/
def State.coreEvents (s : State) : List (State → Out) :=
  let waiting := s.groups.filter fun g => match g.run with
    | .waiting _ => true
    | _ => false
  waiting.flatMap (fun g => [execFenceWaitEnd (.group g.core g.slot), execChaseWaitEnd g.core g.slot, execMatrixQueueEnter g.core g.slot,
      execLigQueueEnter g.core g.slot, execLigclrClear g.core g.slot])
    ++ (dedup (s.mats.map (·.core))).map execMatrixOpStart ++ s.mats.map (fun m => execMatrixOpRetire m.uid)
    ++ (dedup (s.ligOps.map (·.core))).map execLigOpStart ++ s.ligOps.map (fun m => execLigOpComplete m.uid)
    ++ (s.proofs.filter (·.wait.isSome)).flatMap (fun p =>
      [execFenceWaitEnd (.proof p.cluster), execTqnextWaitEnd p.cluster, execFevnextWaitEnd p.cluster])
    ++ s.teams.flatMap (fun t => [execHandoffTransfer t.uid, execSuccessorStart t.uid])
    ++ waiting.map (fun g => execGrowRecheck g.core g.slot)
    ++ (dedup (waiting.map (·.core))).map execAllWaitingFailure

/-- The oldest burst of the package arrives. -/
def carryFirst (s : State) : Out := .next (s.carry 0 .intact)
/-- A host access that has waited is tried. -/
def hostGoesOn (s : State) : Out := .next s.hostNext
/-- Writes of packet processors that have waited are tried. -/
def writesGoOn (s : State) : Out := .next s.retryWrites

/-- Events of the fetch engines, the fabric and the modules. -/
def State.farEvents (s : State) : List (State → Out) :=
  s.cmds.flatMap (fun m => (List.range m.units.length).map (execTranslationWalkComplete m.uid))
    ++ s.cmds.flatMap (fun m => m.units.filterMap fun u => match u.res with
      | .walking l ep a _ => some (execModuleTableRead ep (a + 8 * walkIndex l u.va))
      | _ => none)
    ++ s.cmds.map (fun m => execZeroFillAddition m.uid)
    ++ s.reqs.flatMap (fun r => match r.run with
      | .unsent => [execRequestSend r.cmd r.n]
      | .refused .. => [execRequestRetry r.cmd r.n]
      | _ => [])
    ++ (dedup (s.reqs.map (·.ep))).flatMap (fun e => (numbers s.reqs).flatMap fun x =>
      [execModuleRead e x.1 plainAnswer, execModuleWrite e x.1 plainAnswer, execModuleReduce e x.1 plainAnswer,
       execModuleFill e x.1 plainAnswer, execModuleAtomic e x.1 plainAnswer, execModuleCopy e x.1 plainAnswer])
    ++ (if s.wire.isEmpty then [] else [execResponseBurstReceive 0 .intact, execAckOnlyReceive 0 .intact])
    ++ (if s.out.isEmpty then [] else [carryFirst])
    ++ (numbers s.tx).map (fun x => execReplayTimeout x.1)
    ++ s.grantWait.map (fun g => execGrantRetry g.1 g.2.1 g.2.2.1)
    ++ s.grantNeeded.toList
    ++ s.hints.map (fun h => execModuleHint h.1 0 false)
    ++ s.modules.flatMap fun m => [execModuleTableWrite m.ep] ++ m.moves.map fun v => execPageMoveComplete m.ep v.1

/-- Events of tasks, queues, placement and pre-emption. -/
def State.queueEvents (s : State) : List (State → Out) :=
  (dedup (s.treqs.map (·.cluster))).flatMap (fun c => ((numbers s.treqs).map fun x => execTaskqAnswer c x.1))
    ++ s.tpending.map (fun r => execPendingRecordMove r.cluster r.idx)
    ++ (numbers s.ttransit).map (fun x => execMovedRecordArrive x.1)
    ++ (numbers s.preempts).flatMap (fun p => [execSaveComplete p.1, execContextSave p.1, execPreemptDeadline p.1])
    ++ s.teams.map (fun t => execBindingIssue t.uid)
    ++ s.launches.map (fun l => execTeamPlace l.uid)
    ++ s.parts.flatMap (fun p => [execPlacementRetry p.p, execShootdownComplete p.p])
    ++ (s.hws.filter (·.queue.isSome)).flatMap (fun h =>
      [execPacketKernel h.n, execPacketNoop h.n, execPacketWait h.n, execPacketReserveLanes h.n, execPacketReleaseLanes h.n,
       execLaneReservationPin h.n]
        ++ ((h.queue.map (·.packets)).getD []).flatMap (fun k => [execWaitPacketPoll h.n k.idx, execPacketComplete h.n k.idx])
        ++ [execSliceEviction h.n, execIdleUnmap h.n])
    ++ s.hws.map (fun h => execLeaseExpire h.n)
    ++ (if s.pendq.isEmpty && s.saved.isEmpty then [] else
      s.hws.map (fun h => execQueueMap h.part h.n) ++ s.parts.map fun p => execPriorityEviction p.p)

/-- Events of the lanes: a spare locks, a failed lane is tried again and passes, an aged laser retires. -/
def State.laneEvents (s : State) : List (State → Out) :=
  s.lanes.flatMap fun l =>
    if 16 ≤ l.s then [execSpareLock l.s l.pos (256 + l.pos / 16), execLaneRetry l.s l.pos true]
    else if (s.socket l.s).st ≠ 3 then []
    else
      match (List.range 68).find? fun i => (s.lane l.s i).st == 0 with
      | some i => [execSpareLock l.s l.pos i, execLaserRetire l.s l.pos i, execLaneRetry l.s l.pos true]
      | none => [execLaneRetry l.s l.pos true]

/-- Events of boot, sockets and cadence. -/
def State.packageEvents (s : State) : List (State → Out) :=
  [hostGoesOn, writesGoOn] ++ s.laneEvents ++ s.sockets.flatMap (fun k => [execRomVerifyDone k.s, execDrainComplete k.s, execDrainTimeout k.s])
    ++ [execFirmwareVerifyDone, execConfigurationBringupDone true, execAttestReportDone, execCadenceTickSend, execLevelApply, execCadenceLost]

/-- The first of some events that changes the state. -/
def State.firstOf (s : State) : List (State → Out) → Option State
  | [] => none
  | e :: es =>
    match e s with
    | .next t => if t = s then s.firstOf es else some t
    | _ => s.firstOf es

/-- The next event that takes place by itself. -/
def State.auto (s : State) : Option State :=
  s.firstOf (s.coreEvents ++ s.farEvents ++ s.queueEvents ++ s.packageEvents)

/-! ### Turns -/

/-- One turn. An instruction that a core issues is no event, and a cycle does not end before every agent that its cores have
chosen has issued (R323). -/
def State.turn (s : State) : Turn → Out
  | .issue a => s.issueTurn a
  | .event i => if i.isEvent then settleOut (exec i s) else .next s
  | .carry n t => settleOut (.next (s.carry n t))
  | .resume n r => settleOut (execResumeReceive n r s)
  | .laneLost k pos => settleOut (execLaneFail k pos 2 s)
  | .tick =>
    let t := s.planned
    match State.issueRest (t.plan.getD []) t with
    | .next t => settleOut (.next t.tick)
    | o => o
  | .elapse n => .next { s with time := s.time + n }
  | .corrected key => .next (s.corrected key)
  | .uncorrectable key => .next (s.uncorrectable key)

/-- With no turn given from outside: whoever still issues in this cycle, then events, then the end of the cycle. -/
def State.runOn (s : State) : Out :=
  match s.plan with
  | none => .next s.planned
  | some (a :: rest) => State.issue { s with plan := some rest } a
  | some [] =>
    match s.auto with
    | some t => settleOut (.next t)
    | none => settleOut (.next s.tick)

/-- One step: the head of the agenda, or what the machine does by itself. -/
def State.stepOnce (s : State) : Out :=
  match s.agenda with
  | t :: ts => State.turn { s with agenda := ts } t
  | [] => s.runOn

/-! ### A program loaded from outside (log 1) -/

/-- Line word of fifteen syllables, with a branch target at the first one (05 R117, R118). -/
def lineWord (ws : List Nat) : Nat :=
  let bit : Nat → Nat := fun p =>
    (if p = 7 then popCount 32 (ws.getD 14 0) + 1 else popCount 32 (ws.getD (2 * p) 0) + popCount 32 (ws.getD (2 * p + 1) 0)) % 2
  1 + sumL ((List.range 8).map fun p => bit p * 2 ^ (24 + p))

/-- The bytes of a fetch line that begins with an instruction of up to three syllables; fillers follow. -/
def fetchLine (x : Nat) : List Byte :=
  let ws := [x % 2 ^ 32, x / 2 ^ 32 % 2 ^ 32, x / 2 ^ 64 % 2 ^ 32] ++ List.replicate 12 3
  (lineWord ws :: ws).flatMap (leBytes 4)

/-- The kernel record of the team that a loaded instruction runs in: every register and tile, 96 KiB of folio. -/
def loadedKernel : KRec :=
  { addr := 0, entry := 0, kdata := 0, safetab := 0, nsafe := 256, width := 64, paired := false, lig := true, nsucc := 0, groups := 1
    vregs := 256, sregs := 128, galley := 48, folio := 98304, binds := [], succs := [] }

/-- Its group, at the first line of far memory. -/
def loadedGroup : Group :=
  { (Group.new 0 0 0 0 0 0 loadedKernel 0 66048 (0, 0)) with notBefore := 0 }

/-- Its team. -/
def loadedTeam : Team :=
  { uid := 0, launch := 0, num := 0, krec := loadedKernel, seats := [{ core := 0, folio := 67584, tiles := List.range 48 }], cset := none
    formes := .replicate 16 0, limB := 262144, limC := 64, tqOut := 0, bound := 0, started := true, hand := none, notBefore := 0
    exited := false }

/-- Its launch. -/
def loadedLaunch : Launch :=
  { uid := 0, hw := 0, part := 0, queue := 0, packet := 0, krec := loadedKernel, kargs := 0, teams := 1, cset := 0, next := 1, priv := true
    diag := true, prio := 0, held := none, lastCore := 0, descs := [], sealed := false, ended := false, outstanding := 0 }

/-- The package is ready and the next turn is an agent's. -/
def State.readyFor (s : State) (a : Agent) : State :=
  { s with
    agenda := [.issue a], plan := some [a], cur := none, commits := s.commits.filter (·.agent != a)
    boot := { s.boot with st := 5, lock := true, featacc := offered } }

/-- Load an instruction where proof core 0 fetches next. -/
def State.loadProof (s : State) (x : Nat) : State :=
  let p := s.proof 0
  let l := lineOf p.pc.toNat % 65536
  State.readyFor (State.setProof (s.write (cellsAt (proofKey 0 l) (fetchLine x)))
    { p with pc := .ofNat 64 (l + 4), halted := false, wait := none, notBefore := 0 }) (.proof 0)

/-- Load an instruction at the first line of far memory, with a group of core 0 that is about to issue it. -/
def State.loadGroup (s : State) (x : Nat) : State :=
  let s := s.write (cellsAt (hbmKey 0 0 0) (fetchLine x))
  let s := s.setModule { s.module 0 with table := [(0, .ofNat 64 (3 * 2 ^ 61))] }
  State.readyFor { s with
    groups := loadedGroup :: s.groups.filter fun g => !(g.core == 0 && g.slot == 0)
    teams := loadedTeam :: s.teams.filter (·.uid != 0)
    launches := loadedLaunch :: s.launches.filter (·.uid != 0)
    parts := Partition.init 0 (List.range 8) (List.range 64) :: s.parts.filter (·.p != 0)
    cached := { cluster := 0, unit := 0, count := 1, ep := 0, page := 0, cls := 1, cmp := false, wr := true, tables := [], ptrs := [] } ::
      s.cached.filter fun c => !(c.cluster == 0 && c.unit == 0)
    uid := max s.uid 1 } (.group 0 0)

/-- Load an instruction where its kind of core fetches next: opcodes 0xF4-0xFB run on a proof core. -/
def State.loadWord (s : State) (nbits w : Nat) : State :=
  let x := w % 2 ^ nbits
  if privilegedOp (.ofNat 32 x) then s.loadProof x else s.loadGroup x

end Sys2Proof.Machine
end

