-- ==== Sys2Proof/Machine/Step.lean ====
section
/-! DEFINITION. The step, and the host's way of placing an instruction. -/

namespace Sys2Proof.Machine

/-- One step of the machine: the next turn of its agenda, or what it does by itself. -/
def step (s : State) : Host.Outcome State Fault Refusal := s.stepOnce

/-- `s` with an instruction stored where the next step fetches it (log 1). -/
def State.withFetchWord (s : State) (nbits w : Nat) : State := s.loadWord nbits w

end Sys2Proof.Machine
end

