-- ==== Sys2Proof/Safety.lean ====
section
/-! DEFINITION. What counts as a safe run, and the terms the claims use: who issues, the source registers of the
instruction that issues, and the invariant of every step. -/

namespace Sys2Proof.Machine

/-! ### Safe runs -/

/-- The invariant of the machine: memory is in its one canonical form. -/
def State.Inv (s : State) : Prop := Memory.wf s.mem = true

/-- The machine goes on. -/
def goesOn (o : Host.Outcome State Fault Refusal) : Prop := ∃ t, o = .next t

/-- A safe run of `n` steps: the invariant holds in every state of it, and no step stops. -/
def State.SafeRun : Nat → State → Prop
  | 0, s => s.Inv
  | n + 1, s => s.Inv ∧ ∃ t, step s = .next t ∧ t.SafeRun n

/-! ### Who issues -/

/-- An agent that exists issues an instruction. -/
def State.Issuing (s : State) (c : Cur) : Prop :=
  s.cur = some c ∧ match c.agent with
    | .group k n => (s.group? k n).isSome = true
    | .proof _ => True

/-- A group of a compute core issues an instruction. -/
def State.GroupIssuing (s : State) (c : Cur) (g : Group) : Prop :=
  s.cur = some c ∧ c.agent = .group g.core g.slot ∧ s.group? g.core g.slot = some g

/-- A proof core issues an instruction. -/
def State.ProofIssuing (s : State) (c : Cur) (k : Nat) : Prop := s.cur = some c ∧ c.agent = .proof k

/-- A source register of the instruction that issues. -/
def State.src (s : State) (c : Cur) (r : SReg) : Nat := (s.sregA c.agent r.toNat).toNat

/-- Program counter of an agent. -/
def State.pcOf (s : State) : Agent → Option DWord
  | .group k n => (s.group? k n).map (·.pc)
  | .proof k => some (s.proof k).pc

/-- The flags of an agent's %fstat; a proof core has none. -/
def State.flagsOf (s : State) : Agent → Option Flags
  | .group k n => (s.group? k n).map (·.fstat)
  | .proof _ => none

end Sys2Proof.Machine
end

