-- ==== Sys2Proof/Certificates/Slice0/Obligations.lean ====
section
/-! DEFINITION. The statements for the provers. -/

namespace Sys2Proof.Claims

open Sys2Proof.Machine

/-! ### Terms the statements share -/

/-- A scalar instruction in its register form and its literal form completes as `R` says, from operand B as 05 R126 and
06 R138 give it. -/
def ScalarForms (s : State) (c : Cur) (t : ITy) (long : SReg → Instr) (lit : Word → Instr) (R : Nat → State) : Prop :=
  (∀ b, exec (long b) s = .next (R (s.src c b))) ∧ ∀ w, exec (lit w) s = .next (R (litI t w))

/-- A vector instruction in both forms completes as `R` says, from the lanes of operand B. -/
def VectorForms (s : State) (g : Group) (t : ITy) (long : VReg → Instr) (lit : Word → Instr) (R : (Nat → Nat) → State) : Prop :=
  (∀ b, exec (long b) s = .next (R (s.vlane g b.toNat))) ∧ ∀ w, exec (lit w) s = .next (R fun _ => litI t w % 2 ^ 32)

/-- A float instruction in both forms: the literal is a code (05 R126). -/
def FloatForms (s : State) (g : Group) (long : VReg → Instr) (lit : Word → Instr) (R : (Nat → Nat) → State) : Prop :=
  (∀ b, exec (long b) s = .next (R (s.vlane g b.toNat))) ∧ ∀ w, exec (lit w) s = .next (R fun _ => w.toNat)

/-- A float instruction in its short form, .f32 and .rn, and its long form (06 R141). -/
def ShortAndLong (s : State) (g : Group) (d : VReg) (short : VReg → EReg → Instr) (long : FTy → RMode → VReg → VReg → Instr)
    (R : FTy → RMode → (Nat → Nat) → State) : Prop :=
  (∀ e, exec (short d e) s = .next (R .f32 .rn (s.vlane g e.toNat)))
    ∧ ∀ t m a, exec (long t m d a) s = .next (R t m (s.vlane g a.toNat))

/-- Memory key and latency of an access of the issuing agent to one address (01 R22, 14 R286). -/
def accessOf (s : State) (c : Cur) (addr : Nat) : Nat × Nat :=
  match c.agent with
  | .proof p => (proofKey p addr, 20)
  | .group k n =>
    match s.group? k n with
    | some g => s.locate g addr
    | none => (0, 0)

/-- An access of `n` bytes to one address passes every check of 08 R181, and what it reads is sound (18 R390); a proof core
has its 64 KiB and nothing else. -/
def AccessOk (s : State) (c : Cur) (store reads plain8 : Bool) (addr n : Nat) : Prop :=
  match c.agent with
  | .proof p => addr % n = 0 ∧ addr + n ≤ 65536 ∧ (reads = true → s.poisoned (proofKey p addr) n = false)
  | .group k m => ∃ g, s.group? k m = some g ∧ s.addrStep g apAll store plain8 addr n = 0
      ∧ (reads = true → s.poisoned (s.locate g addr).1 n = false)

/-- Every lane access passes those checks. -/
def LanesOk (s : State) (g : Group) (store reads plain8 : Bool) (n : Nat) (as : List (Nat × Nat)) : Prop :=
  ∀ x ∈ as, s.addrStep g apAll store plain8 x.2 n = 0 ∧ (reads = true → s.poisoned (s.locate g x.2).1 n = false)

/-- 04 R100 and R101 let the instruction issue now. -/
def Timely (s : State) (c : Cur) (rel : Bool) (lat : Nat) : Prop := s.orderHold c.agent rel lat ≤ s.cycle

/-- 04 R100, R101 or 14 R296 holds the instruction back: it does not issue, and is tried again in the first cycle in which they let it. -/
def HeldBack (s : State) (c : Cur) (rel : Bool) (lat : Nat) (i : Instr) : Prop :=
  s.cycle < s.orderHold c.agent rel lat → exec i s = .next (s.retryAt c (s.orderHold c.agent rel lat))

/-- An instruction that is to read runs of bytes takes UNCORR instead where one of them meets an uncorrectable word, with the granule of the
first such word (18 R390); lock bits granted to it are free again. -/
def TakesUncorr (s : State) (c : Cur) (rs : List (Nat × Nat)) (i : Instr) : Prop :=
  ∀ (r : Nat × Nat) (w : Nat), rs.find? (fun r => s.poisoned r.1 r.2) = some r → w ∈ s.poison → 8 * w < r.1 + r.2 → r.1 < 8 * w + 8 →
    (∀ v ∈ s.poison, 8 * v < r.1 + r.2 → r.1 < 8 * v + 8 → w ≤ v) →
    exec i s = .next (State.dropGrants (s.trapAt c c.pc 0x0E 0 (.ofNat 64 (8 * w % 2 ^ 22 / 16 * 16)) 0) c.agent)

/-- An instruction that a lock forbids takes LOCK while its agent holds one, before every other condition of its entry (08 R190). -/
def LockTraps (s : State) (c : Cur) (i : Instr) : Prop := s.heldLock c.agent ≠ none → exec i s = .next (s.trap c 0x15)

/-- Each lock bit that an access of a group needs is held by the group itself, or free and no one queued before (08 R191). -/
def BitsFree (s : State) (c : Cur) (keys : List Nat) : Prop :=
  ∀ k n, c.agent = .group k n → ∀ key ∈ keys,
    (∃ l, s.lockOf (lockId key) = some l ∧ l.holder = c.agent)
    ∨ (s.lockOf (lockId key) = none ∧ s.lockReqs.any (·.at_ (lockId key)) = false)

/-- Lane accesses of an instruction, from its lane addresses. -/
def lanesAt (ls : List Nat) (f : Nat → Nat) : List (Nat × Nat) := ls.map fun i => (i, f i)

/-- A group's read of local bytes when its instruction issues: the checks of R181, sound bytes, and no own write or
operation over them left (03 R60, 04 R98). -/
def ReadsAtIssue (s : State) (c : Cur) (g : Group) (acc : List Nat) (addr n : Nat) : Prop :=
  s.addrStep g acc false false addr n = 0 ∧ s.poisoned (s.locate g addr).1 n = false
    ∧ s.ownPending c.agent (s.locate g addr).1 n = false ∧ s.opsOver c.agent (s.locate g addr).1 n = []

/-- What becomes of an instruction that reads local bytes when it issues, where it may not read them yet: it waits for its group's own writes to
them, is tried again while an operation of its group that writes them runs, or until R100, R101 and 14 R296 let it issue, and then takes
UNCORR for an uncorrectable word (04 R98, 08 R194, 18 R390). -/
def ReadHeld (s : State) (c : Cur) (g : Group) (acc : List Nat) (rel : Bool) (addr n : Nat) (i : Instr) : Prop :=
  let key := (s.locate g addr).1
  let own := s.ownPending c.agent key n
  s.addrStep g acc false false addr n = 0 →
    (own = true → exec i s = .next (s.waitAgain c (.ownWrites key n)))
    ∧ (own = false → s.opsOver c.agent key n ≠ [] → exec i s = .next (s.retryAt c 0))
    ∧ (own = false → s.opsOver c.agent key n = [] →
      HeldBack s c rel 2 i ∧ (Timely s c rel 2 → TakesUncorr s c [(key, n)] i))

/-- The lock bits an instruction lacks are not all free: it joins the queue of each, if it does not stand there, free bits are granted to the
heads of their queues, and it waits where an LL keeps its lowest missing bit, and is a bank retry in each cycle otherwise. Bits that it
holds stay its own (08 R191). -/
def QueuesForBits (s : State) (c : Cur) (ll : Bool) (keys : List Nat) (i : Instr) : Prop :=
  let lack := (dedupBits (keys.map lockId)).filter fun b => !(s.lockOf b).any (·.holder == c.agent)
  let joins := (lack.filter fun b => !s.lockReqs.any fun r => r.agent == c.agent && r.at_ b).map fun b =>
    ({ core := b.1, bank := b.2.1, bit := b.2.2, agent := c.agent, since := s.cycle, ll := ll } : LockReq)
  let t := State.grantLocks { s with lockReqs := s.lockReqs ++ joins } (s.lockReqs.length + joins.length)
  (∃ b ∈ lack, s.lockOf b ≠ none ∨ ∃ r ∈ s.lockReqs, r.at_ b = true) →
    (t.behindLL c.agent = true → exec i s = .next (t.waitAgain c .lock)) ∧ (t.behindLL c.agent = false → exec i s = .next (t.bankRetry c))

/-- What a transfer does to whose target the checks of 07 R171 do not answer ok: a cause traps, a line that translation does not serve is a
CODEFAULT of the transferring instruction (log 33), and one on a page that moves is tried again. -/
def notTransferred (s : State) (c : Cur) (addr : Nat) : TargetAns → State
  | .ok => s
  | .cause n => s.trap c n
  | .fault r l e => s.codeFault c (addr / 64 * 64) r l e
  | .busy => s.retryAt c 0

/-- The descriptor at the address in a register (03 R61). -/
def descAt (s : State) (c : Cur) (g : Group) (a : SReg) : Desc := descOf (s.le (s.locate g (s.src c a % 2 ^ 32)).1 64)

/-- The machine with a new command's number taken. -/
def numbered (s : State) : State := { s with uid := s.uid + 1 }

/-- The chase table and the allowance take the command (03 R80 to R85). -/
def Admits (s : State) (m : Cmd) : Prop :=
  s.chaseFits m = true ∧ State.allowance { numbered s with cmds := (numbered s).cmds.filter (·.uid != m.uid) } m = 0

/-- An access fails the checks of R181 in some lane: the instruction takes the trap of the first step that any lane fails, with the
address of the lowest lane that fails it and the mask of those that do (14 R290); lock bits granted to it meanwhile are free again. -/
def TrapsAt (s : State) (c : Cur) (g : Group) (acc : List Nat) (store plain8 : Bool) (n : Nat) (as : List (Nat × Nat)) (i : Instr) : Prop :=
  let step := fun (y : Nat × Nat) => s.addrStep g acc store plain8 y.2 n
  ∀ k x, k ≠ 0 → (∀ y ∈ as, step y = 0 ∨ k ≤ step y) → as.find? (fun y => step y == k) = some x →
    exec i s = .next (State.dropGrants (s.trapAt c c.pc ([0, 0x06, 0x08, 0x05, 0x06, 0x07].getD k 0) 0 (.ofNat 64 x.2)
      (maskOf ((as.filter fun y => step y == k).map (·.1)))) c.agent)

/-- A scalar access that fails its checks: on a group as `TrapsAt` says, on a proof core, which has 64 KiB and nothing else, it halts
the core (14 R286, R287). -/
def ScalarTraps (s : State) (c : Cur) (acc : List Nat) (store plain8 : Bool) (addr n : Nat) (i : Instr) : Prop :=
  (∀ g, State.GroupIssuing s c g → TrapsAt s c g acc store plain8 n [(0, addr)] i)
  ∧ ∀ p, State.ProofIssuing s c p → (addr % n ≠ 0 ∨ 65536 < addr + n) → exec i s = .next (State.halt (s.setProof { s.proof p with pc := c.pc }) p)

/-- The instruction completes and control goes to an address, whose line a group reads and checks anew (05 R118, 07 R170). -/
def transferred (s : State) (c : Cur) (pc : DWord) : State :=
  let t := s.goTo c pc
  match c.agent with
  | .proof _ => t
  | .group k n =>
    match t.group? k n with
    | some g => t.setGroup { g with line := none }
    | none => t

/-- The command is registered and sent, the status register reads 0, and the instruction is complete (08 R197 step 4). -/
def accepted (s : State) (c : Cur) (d : SReg) (m : Cmd) : State :=
  State.resume (State.setSregA (State.sendCmd { numbered s with cmds := (numbered s).cmds.filter (·.uid != m.uid) } m)
    c.agent d.toNat 0) c

/-- Steps 2 to 4 of 08 R197: a command waits while its chase entries do not fit, is refused with the status of a limit that its
charge would pass (03 R85; where it would pass both, 1 is the model's choice, log 35), and else is registered and sent. `u` is the machine
without a command that has waited, which issues anew. -/
def TakesUp (s u : State) (c : Cur) (d : SReg) (m : Cmd) (i : Instr) : Prop :=
  let s' : State := { numbered u with cmds := (numbered u).cmds.filter (·.uid != m.uid) }
  let o := s'.outstanding m.team
  let refused := fun (x : Nat) => exec i s = .next (State.resume (s'.setSregA c.agent d.toNat (.ofNat 64 x)) c)
  (Admits u m → exec i s = .next (accepted u c d m))
  ∧ (u.chaseFits m = false → exec i s = .next (State.waitAgain { s' with cmds := s'.cmds ++ [m] } c (.chase c d m.uid)))
  ∧ ∀ t, u.team? m.team = some t → u.chaseFits m = true →
    (t.limC < o.2 + 1 → refused 1)
    ∧ (o.2 + 1 ≤ t.limC → t.limB < o.1 + m.bytes → (t.limB < m.bytes → o ≠ (0, 0)) → refused 2)
    ∧ (o.2 + 1 ≤ t.limC → o.1 + m.bytes ≤ t.limB ∨ o = (0, 0) → exec i s = .next (accepted u c d m))

/-- A command of the issuing group, with its receivers. -/
def cmdOf (s : State) (g : Group) (t : Team) (kind : CmdKind) (recvs : List Recv) : Cmd :=
  { uid := s.uid, kind := kind, agent := .group g.core g.slot, cluster := g.core / 4, team := t.uid, launch := t.launch, recvs := recvs
    spans := [], items := [], pads := [], units := [], operand := 0, compare := 0, esize := 1, efmt := 0, bytes := 0
    charged := false, issued := 0, fences := [], behind := [], resDone := false, err := false, held := [], src := []
    got := [], finished := false, bindingOf := none, desc := 0 }

/-- A fetch of a plane into the folios of some cores. -/
def fetchCmd (s : State) (g : Group) (t : Team) (kind : CmdKind) (ds : Desc) (base : Nat) (its : List Item) (folios : List (Nat × Nat)) : Cmd :=
  { cmdOf s g t kind (folios.map fun k => recvOf k.1 k.2 ds.arrw (some ds.resw)) with
    items := its, pads := ds.padBytes base, units := itemUnits kind its, bytes := itemCount its, esize := ds.esize, efmt := ds.efmt, desc := ds.raw
    spans := folios.flatMap fun k => mkSpan k.1 k.2 true (spanOf (itemLocs its ++ ds.padBytes base)) }

/-- A command whose only local bytes are its words. -/
def farCmd (s : State) (g : Group) (t : Team) (kind : CmdKind) (ds : Desc) (recv : Recv) (units : List FUnit) : Cmd :=
  { cmdOf s g t kind [recv] with
    spans := mkSpan g.core (t.base g.core) true (some (16 * ds.resw, 16 * ds.resw + 8)), esize := ds.esize, efmt := ds.efmt, desc := ds.raw
    units := units }

/-! ### Destinations and frames -/

/-- Destination of an instruction that writes one scalar register when it issues. -/
def scalarDest : Instr → Option SReg
  | .smovShort d _ | .smovLong _ d _ | .sli _ d _ | .saddLong _ d _ _ | .saddLiteral _ d _ _ | .ssubLong _ d _ _ | .ssubLiteral _ d _ _
  | .smulLong _ d _ _ | .smulLiteral _ d _ _ | .smulhLong _ d _ _ | .smulhLiteral _ d _ _ | .sandLong _ d _ _ | .sandLiteral _ d _ _
  | .sorLong _ d _ _ | .sorLiteral _ d _ _ | .sxorLong _ d _ _ | .sxorLiteral _ d _ _ | .sshlLong _ d _ _ | .sshlLiteral _ d _ _
  | .sshrLong _ d _ _ | .sshrLiteral _ d _ _ | .ssarLong _ d _ _ | .ssarLiteral _ d _ _ | .sminLong _ d _ _ | .sminLiteral _ d _ _
  | .smaxLong _ d _ _ | .smaxLiteral _ d _ _ | .scmpLong _ _ d _ _ | .scmpLiteral _ _ d _ _ | .ssel d _ _ _ | .spopcShort d _
  | .spopcLong _ d _ | .sclzShort d _ | .sclzLong _ d _ | .sbfx _ d _ _ _ | .sbfi _ d _ _ _ | .saddr _ d _ _ _ _ | .mmovToScalar d _
  | .mpopc d _ | .mfirst d _ => some d
  | _ => none

/-- Guard, destination and flags of an instruction that writes lanes of one vector register when it issues: no flag, IS alone,
or the flags of arithmetic (02 R46). -/
def vectorDest : Instr → Option (MReg × VReg × Flags)
  | .vmovShort g d _ | .vmovLong g d _ | .vmovBcast g d _ | .vli g _ d _ | .vaddLong g _ d _ _ | .vaddLiteral g _ d _ _ | .vsubLong g _ d _ _
  | .vsubLiteral g _ d _ _ | .vmulLong g _ d _ _ | .vmulLiteral g _ d _ _ | .vmulhLong g _ d _ _ | .vmulhLiteral g _ d _ _ | .vmad g _ d _ _ _
  | .vandLong g _ d _ _ | .vandLiteral g _ d _ _ | .vorLong g _ d _ _ | .vorLiteral g _ d _ _ | .vxorLong g _ d _ _ | .vxorLiteral g _ d _ _
  | .vshlLong g _ d _ _ | .vshlLiteral g _ d _ _ | .vshrLong g _ d _ _ | .vshrLiteral g _ d _ _ | .vsarLong g _ d _ _ | .vsarLiteral g _ d _ _
  | .vminLong g _ d _ _ | .vminLiteral g _ d _ _ | .vmaxLong g _ d _ _ | .vmaxLiteral g _ d _ _ | .vabsShort g d _ | .vabsLong g _ d _
  | .vsel g d _ _ _ | .vpopcShort g d _ | .vpopcLong g _ d _ | .vclzShort g d _ | .vclzLong g _ d _ | .vbfx g _ d _ _ _
  | .vfminLong g _ d _ _ | .vfminLiteral g _ d _ _ | .vfmaxLong g _ d _ _ | .vfmaxLiteral g _ d _ _ | .vfabsShort g d _ | .vfabsLong g _ d _
  | .vfnegShort g d _ | .vfnegLong g _ d _ => some (g, d, 0)
  | .vaddsatLong g _ d _ _ | .vaddsatLiteral g _ d _ _ | .vsubsatLong g _ d _ _ | .vsubsatLiteral g _ d _ _ | .vdot4 g _ _ _ d _ _ _ => some (g, d, 32)
  | .vfaddLong g _ _ d _ _ | .vfaddLiteral g _ _ d _ _ | .vfsubLong g _ _ d _ _ | .vfsubLiteral g _ _ d _ _ | .vfmulLong g _ _ d _ _
  | .vfmulLiteral g _ _ d _ _ | .vfma g _ _ d _ _ _ | .vfrint g _ _ d _ => some (g, d, 31)
  | .vcvt g _ _ _ _ d _ => some (g, d, 63)
  | _ => none

/-- Destination of an instruction that writes one mask register when it issues. -/
def maskDest : Instr → Option MReg
  | .mand d _ _ | .mor d _ _ | .mxor d _ _ | .mandn d _ _ | .mnot d _ | .mmovToMask d _ | .mballot d _ _ | .mset d _ _
  | .vcmpLong _ _ _ d _ _ | .vcmpLiteral _ _ _ d _ _ | .vfcmpLong _ _ _ d _ _ | .vfcmpLiteral _ _ _ d _ _ => some d
  | _ => none

/-- Instructions that change no register, no flag and no byte when they issue: those that transfer control, and those whose
result or access comes later. -/
def changesLater : Instr → Bool
  | .nop | .bra _ | .brs .. | .brm .. | .jmp _ | .ret _ | .sdivLong .. | .sdivLiteral .. | .sremLong .. | .sremLiteral .. | .vrcpShort ..
  | .vrcpLong .. | .vrsqShort .. | .vrsqLong .. | .vsqrtShort .. | .vsqrtLong .. | .vdivShort .. | .vdivLong .. | .vexp2Short .. | .vexp2Long ..
  | .vlog2Short .. | .vlog2Long .. | .vsinShort .. | .vsinLong .. | .vcosShort .. | .vcosLong .. | .vtanhShort .. | .vtanhLong .. | .vshfl ..
  | .vrotLong .. | .vrotLiteral .. | .vbcast .. | .vred .. | .vscan .. | .vcompact .. | .vexpand .. | .vldLong .. | .vldLiteral .. | .vstLong ..
  | .vstLiteral .. | .sldLong .. | .sldLiteral .. | .sstLong .. | .sstLiteral .. | .vatom .. | .satom .. | .arinitLong .. | .arinitLiteral ..
  | .araddLong .. | .araddLiteral .. | .fence .. => true
  | _ => false

/-- Instructions of the matrix unit, the ligature engine and the handoff that enter a queue, wait, or have a result that comes later:
no byte of memory changes when they issue. -/
def queuesAtIssue : Instr → Bool
  | .forme .. | .formeR .. | .mma .. | .mzero _ | .mldg .. | .mstg .. | .mcvt .. | .maddg .. | .mwait | .ligbind .. | .ligeval _
  | .ligemit .. | .ligwait | .handoff .. | .thint .. => true
  | _ => false

/-- Destination of an instruction that writes a status or a count into one scalar register when it issues, and no other byte. -/
def statusDest : Instr → Option SReg
  | .twinLim d | .twinOut d | .twinSet d _ | .taskq d _ _ | .taskpush d _ _ | .taskdone d _ => some d
  | _ => none

/-- Destination of an engine command's status. -/
def commandDest : Instr → Option SReg
  | .tfetch d _ _ _ | .tmcast _ d _ _ _ | .tgather d _ _ _ | .tstore d _ _ _ | .treduce _ d _ _ _ | .tfill d _ _ _ | .tcopy d _ _ _
  | .tatom _ _ d _ _ _ | .bulkld d _ _ _ | .bulkst d _ _ _ | .pagereq d _ _ _ => some d
  | _ => none

/-- A byte lies outside everything that a team holds on its cores: its folios, its tiles, its ligature values. -/
def OutsidePlaces (t : Team) (a : Nat) : Prop :=
  ∀ x ∈ t.seats, (a < storeKey x.core x.folio ∨ storeKey x.core x.folio + t.krec.folio ≤ a)
    ∧ (∀ n ∈ x.tiles, a < tileKey x.core n ∨ tileKey x.core n + 4096 ≤ a) ∧ (a < valueKey x.core 0 ∨ valueKey x.core 16384 ≤ a)

/-- What a group holds apart from its program counter and its turn to issue is as it was; `masks` and `fstat` are said apart. -/
def SameGroup (g h : Group) : Prop :=
  h = { g with
    masks := h.masks, fstat := h.fstat, pc := h.pc, run := h.run, fresh := h.fresh, checkPc := h.checkPc, lastIssue := h.lastIssue
    notBefore := h.notBefore, held := h.held, line := h.line }

/-- Every other group is as it was, and so is everything that is no group, no byte of memory, no pending result and no proof core
(which a trap at a broken filler tail may reach, 05 R121). -/
def OthersSame (s t : State) (g : Group) : Prop :=
  (∀ k n, ¬ (k = g.core ∧ n = g.slot) → t.group? k n = s.group? k n)
  ∧ t = { s with groups := t.groups, mem := t.mem, poison := t.poison, scrub := t.scrub, commits := t.commits, proofs := t.proofs }

/-- The same of every group, its masks and its flags included, whatever late errors it may have taken (09 R224, 10 R238). -/
def GroupsSame (s t : State) : Prop :=
  ∀ k n h, s.group? k n = some h → ∃ h', t.group? k n = some h' ∧ SameGroup { h with uncorrM := h'.uncorrM, uncorrL := h'.uncorrL } h'
    ∧ h'.masks = h.masks ∧ h'.fstat = h.fstat

/-- A group's scalar block lies apart from its window (01 R18). -/
def Group.Apart (g : Group) : Prop := g.sblk + 1024 ≤ g.win ∨ g.win + g.vregs * 4 * g.width ≤ g.sblk

/-! ### Numbers (02) -/

/-- Magnitude at place k of a format's extended grid: the values of R39's codes in order, and on beyond them without limit (02 R40,
R42 step 4). -/
def gridAt (t : FTy) (k : Nat) : Rat :=
  if k < 2 ^ t.mbits then (k : Rat) * 2 ^ (1 - t.bias - t.mbits)
  else ((2 ^ t.mbits + k % 2 ^ t.mbits : Nat) : Rat) * 2 ^ ((k / 2 ^ t.mbits : Nat) - t.bias - t.mbits)

/-- How a magnitude compares with an exact value. -/
def cutAt (x q : Rat) : Ordering := compareOfLessAndEq q x

/-- Of two adjacent candidates the mode picks the upper one: `exact` says that the value is the lower one, `odd` that the lower one's
last bit is 1, `mid` how the middle compares with the value (02 R42 step 4). -/
def picksUpper (mode : RMode) (neg exact odd : Bool) (mid : Ordering) : Bool :=
  !exact && match mode with
    | .rn => mid == .lt || (mid == .eq && odd)
    | .rz => false
    | .ru => !neg
    | .rd => neg

/-- The code of a place of the grid with a sign; .e2m1 has no −0.0 result (02 R42 step 3). -/
def codeAt (t : FTy) (neg : Bool) (k : Nat) : Nat := if neg && !(t == .e2m1 && k == 0) then 2 ^ (t.bits - 1) + k else k

/-- `r` is what rounding a non-zero number of sign `neg` gives: `cut q` says how the magnitude q compares with its magnitude (02 R42
steps 4 to 7). -/
def RoundsTo (t : FTy) (mode : RMode) (sat neg : Bool) (cut : Rat → Ordering) (r : Nat × Flags) : Prop :=
  ∀ k : Nat, cut (gridAt t k) ≠ .gt → cut (gridAt t (k + 1)) = .gt →
    let exact := cut (gridAt t k) == .eq
    let n := if picksUpper mode neg exact (k % 2 == 1) (cut ((gridAt t k + gridAt t (k + 1)) / 2)) then k + 1 else k
    let stays := sat || !t.hasInf || mode == .rz || (mode == .ru && neg) || (mode == .rd && !neg)
    r = if n ≤ t.maxCode then
        (codeAt t neg n, if exact then fNone else if cut (gridAt t (2 ^ t.mbits)) = .gt then fUF ||| fNX else fNX)
      else (codeAt t neg (if stays then t.maxCode else t.maxCode + 1), fOF ||| fNX)

/-- `cut` tells how each rational compares with an irrational number. -/
def CutOf (y : ℝ) (cut : Rat → Ordering) : Prop := ∀ q : Rat, cut q ≠ .eq ∧ (cut q = .lt ↔ (q : ℝ) < y)

/-- The integer next to a magnitude that a mode picks, `n` the one at or below it (02 R43, 06 R161). -/
def pickInt (mode : RMode) (neg : Bool) (x : Rat) (n : Nat) : Nat :=
  if picksUpper mode neg (decide ((n : Rat) = x)) (n % 2 == 1) (cutAt x ((n : Rat) + 1 / 2)) then n + 1 else n

/-- Value of position i after j levels of the tree of 02 R55, with the flags of what went into it. -/
def treeAt (f : Nat → Nat → Nat × Flags) (x : Nat → Nat) : Nat → Nat → Nat × Flags
  | 0, i => (x i, fNone)
  | j + 1, i =>
    let a := treeAt f x j i
    let b := treeAt f x j (i + 2 ^ j)
    ((f a.1 b.1).1, a.2 ||| b.2 ||| (f a.1 b.1).2)

/-- Value of position i after j steps of the scan of 02 R56. -/
def scanAt (f : Nat → Nat → Nat × Flags) (x : Nat → Nat) : Nat → Nat → Nat
  | 0, i => x i
  | j + 1, i => if 2 ^ j ≤ i then (f (scanAt f x j (i - 2 ^ j)) (scanAt f x j i)).1 else scanAt f x j i

/-! ### Engines (09, 10) -/

/-- What a matrix operation writes, and whether it has met an uncorrectable word (02 R53, R54, 09 R215 to R220, R224). -/
def MatrixResults (s : State) (op : MatOp) : Prop :=
  let w := s.matWork op
  let tile := fun (core t : Nat) (f : Nat → Nat → Nat) => (List.range 32).flatMap fun m => (List.range 32).flatMap fun n =>
    cellsLE (tileWord core t m n) 4 (f m n)
  let word := fun (core t m n : Nat) => s.le (tileWord core t m n) 4
  let bad := fun (core t m n : Nat) => s.poisoned (tileWord core t m n) 4 = true
  let plane := fun (f : Line) (k m n : Nat) => op.folio + planeOff (fEbase f) (fRows f) (fRow0 f + m) (fKoff f + 128 * k + 4 * n)
  (w.bad = none ↔ ∀ r ∈ matReads op op.folio op.folio2, s.poisoned r.1 r.2 = false)
  ∧ (op.kind = .mzero → w.cells = (List.range 4096).map (fun i => (tileKey op.core op.tile + i, 0)) ∧ w.flags = fNone)
  ∧ (∀ f k, op.kind = .mldg f k → w.flags = fNone ∧ w.cells = tile op.core op.tile fun m n =>
      if s.poisoned (plane f k m n) 4 = true then (if fEfmt f = 10 then 0 else 0x7FC00000) else s.le (plane f k m n) 4)
  ∧ (∀ f k, op.kind = .mstg f k → w.flags = fNone ∧ w.cells = (List.range 32).flatMap fun m => (List.range 32).flatMap fun n =>
      cellsLE (plane f k m n) 4 (if bad op.core op.tile m n then 0 else word op.core op.tile m n))
  ∧ (∀ isInt mode a b, op.kind = .maddg isInt mode a b →
    let ka := fun (i : Nat) => tileKey op.core a + 4 * i
    let kb := fun (i : Nat) => tileKey op.core b + 4 * i
    let sum := fun (i : Nat) =>
      if s.poisoned (ka i) 4 = true ∨ s.poisoned (kb i) 4 = true then (if isInt then 0 else 0x7FC00000, fNone)
      else if isInt then ((s.le (ka i) 4 + s.le (kb i) 4) % 2 ^ 32, fNone)
      else
        let y := sumX mode [Machine.decF FTy.f32 (s.le (ka i) 4), Machine.decF FTy.f32 (s.le (kb i) 4)]
        ((roundF .f32 mode false y.1).1, y.2 ||| (roundF .f32 mode false y.1).2)
    w.cells = ((List.range 1024).flatMap fun i => cellsLE (tileKey op.core op.tile + 4 * i) 4 (sum i).1)
    ∧ w.flags = orFlags ((List.range 1024).map fun i => (sum i).2))
  ∧ (∀ relu mode f k, op.kind = .mcvt relu mode f k →
    let fmt := efmtFloat (fEfmt f)
    let half := fmt = .e2m1
    let width := if fEfmt f = 7 then 16 else 32
    let at_ := fun (m j : Nat) => op.folio + planeOff (fEbase f) (fRows f) (fRow0 f + m) (fKoff f + width * k + j)
    let entry := fun (m : Nat) => op.folio
      + scaleOff (fSbase f) (fRows f) (fEfmt f) (fRow0 f + m) ((fKoff f + width * k) / bytesPerBlock (fEfmt f) + 0)
    let x := fun (m n : Nat) =>
      let y := Machine.decF FTy.f32 (word op.core op.tile m n)
      if relu = true ∧ y ≠ XVal.nan ∧ y.isNeg = true then XVal.zero false else y
    let row := fun (m : Nat) => if s.poisoned (tileWord op.core op.tile m 0) 128 = true then (0, List.replicate 32 0, fNone)
      else mcvtRow fmt mode ((List.range 32).map (x m))
    let code := fun (m j : Nat) => (row m).2.1.getD j 0
    w.cells = ((List.range 32).flatMap fun m => ((List.range width).map fun j =>
        (at_ m j, BitVec.ofNat 8 (if half then code m (2 * j) + 16 * code m (2 * j + 1) else code m j))) ++ cellsLE (entry m) 2 (row m).1)
    ∧ w.flags = orFlags ((List.range 32).map fun m => (row m).2.2))
  ∧ ∀ sg a b k, op.kind = .mma sg a b k →
    let wa := mmaW (fEfmt a) (fEfmt b)
    let wb := mmaW (fEfmt b) (fEfmt a)
    let blocks := fun (fk : Nat) (f : Line) (w m : Nat) => (List.range (mmaK (fEfmt a) (fEfmt b) / 32)).map fun i =>
      ((List.range 32).map fun j => elemValue (fEfmt f) (s.entryCode fk f w k m i) (s.elemCode fk f w k m (32 * i + j)), scaleValue (s.entryCode fk f w k m i))
    let ints := fun (fk : Nat) (f : Line) (signed : Bool) (m : Nat) => (List.range 64).map fun j =>
      if signed then sext (s.elemCode fk f 64 k m j) 8 else (s.elemCode fk f 64 k m j : Int)
    let out := fun (core t fb m n : Nat) =>
      let lost := s.rowBad op.folio a wa k m = true ∨ s.rowBad fb b wb k n = true ∨ bad core t m n
      if fEfmt a = 8 then
        (if lost then 0 else mmaInt (word core t m n) (ints op.folio a (sg == .ss || sg == .su) m) (ints fb b (sg == .ss || sg == .us) n), fNone)
      else if lost then (0x7FC00000, fNone)
      else
        let y := mmaFloat (word core t m n) (blocks op.folio a wa m) (blocks fb b wb n)
        (if Machine.decF FTy.f32 y.1 = XVal.nan then 0x7FC00000 else y.1, y.2)
    let part := fun (core t fb : Nat) => tile core t fun m n => (out core t fb m n).1
    let flags := fun (core t fb : Nat) => orFlags ((List.range 32).flatMap fun m => (List.range 32).map fun n => (out core t fb m n).2)
    (op.pairTile = none → w.cells = part op.core op.tile op.folio ∧ w.flags = flags op.core op.tile op.folio)
    ∧ ∀ t, op.pairTile = some t → w.cells = part op.core op.tile op.folio ++ part (op.core + 1) t op.folio2
      ∧ w.flags = flags op.core op.tile op.folio ||| flags (op.core + 1) t op.folio2

/-- The fault of an item of a ligature of level `lev` under a binding of `n` input words and `cap` indices (10 R235). -/
def itemFault (n cap lev : Nat) (levels : List (Nat × Nat)) (w : Nat) : Option Nat :=
  if w / 2 ^ 30 = 0 then (if n ≤ w % 2 ^ 20 then some 0x0A else none)
  else if cap ≤ w % 2 ^ 14 then some 0x0A
  else
    match levels.find? fun p => p.1 == w % 2 ^ 14 with
    | none => some 0x0C
    | some p => if p.2 = 15 then some 0x0D else if lev ≤ p.2 then some 0x0C else none

/-- One ligature of a LIGEVAL follows 10 R228, R231 and R235: it faults, in the cycle of what it finds, or is evaluated. -/
def LigatureFollowsR235 (v : LigEval) (core fk sheet tfmt base hi bytes j : Nat) (bnd : Nat × Nat × Nat × Nat) : Prop :=
  let s := v.st
  let key := fk + sheet + v.pos
  let h := s.le key 4
  let n := h % 2 ^ 12
  let lev := h / 2 ^ 28
  let items := (List.range n).map fun i => s.le (key + 4 + 4 * i) 4
  let terms := (items.filter fun w => w / 2 ^ 30 == 0).length
  let size := 4 + 4 * n + 4 * ((terms * (if tfmt = 0 then 4 else if tfmt = 2 then 2 else 1) + 3) / 4)
  let cap := 16384 / bnd.1
  let fault := itemFault bnd.2.1 cap lev v.levels
  let form := fun (w : Nat) => w / 2 ^ 30 < 2 ∧ (w / 2 ^ 30 = 0 → w / 2 ^ 20 % 2 ^ 10 = 0) ∧ (w / 2 ^ 30 = 1 → w / 2 ^ 14 % 2 ^ 16 = 0)
  let need := maxL ((items.filter fun w => w / 2 ^ 30 != 0).map fun w =>
    ((v.levels.find? fun p => p.1 == w % 2 ^ 14).map (·.2 + 1)).getD 0)
  let result := v.one core fk sheet tfmt base hi bytes j bnd
  let stops := fun (cause item cycles : Nat) => result = { v with
    cycle := v.cycle + 1 + cycles, fault := some { cause := cause, c := .ofNat 64 (sheet + 2 ^ 32 * j + 2 ^ 46 * item), d := 0 } }
  (bytes < v.pos + 4 → stops 0x0A 0 0)
  ∧ (v.pos + 4 ≤ bytes → s.poisoned key 4 = true → result.fault.map (·.cause) = some 0x0E)
  ∧ (v.pos + 4 ≤ bytes → s.poisoned key 4 = false →
    let short := bytes < v.pos + size ∨ bytes < v.pos + 4 + 4 * n ∨ h / 2 ^ 12 % 2 ^ 16 ≠ 0
    (short → stops 0x0A 0 0)
    ∧ (¬ short → (∃ i < n, s.poisoned (key + 4 + 4 * i) 4 = true) → result.fault.map (·.cause) = some 0x0E)
    ∧ (¬ short → (∀ i < n, s.poisoned (key + 4 + 4 * i) 4 = false) →
      (∀ i < n, ¬ form (items.getD i 0) → (∀ k < i, form (items.getD k 0)) → stops 0x0A (i + 1) (i + 1))
      ∧ ((∀ i < n, form (items.getD i 0)) →
        (lev < v.prev ∨ hi < lev → stops 0x0C 0 0)
        ∧ (v.prev ≤ lev → lev ≤ hi →
          (∀ i < n, ∀ cause, fault (items.getD i 0) = some cause → (∀ k < i, fault (items.getD k 0) = none) → stops cause (i + 1) (i + 1))
          ∧ ((∀ i < n, fault (items.getD i 0) = none) →
            (lev ≠ need → stops 0x0D 0 n)
            ∧ (lev = need →
              let sum := fun (c : Nat) => s.ligSum core bnd.1 c tfmt (fk + bnd.2.2.2 + c * bnd.2.2.1) items (key + 4 + 4 * n) 0x80000000 fNone none
              let writes := (List.range bnd.1).flatMap fun c =>
                cellsLE (valueKey core (c * cap + (base + j))) 4 (if (sum c).2.2 = none then (sum c).1 else 0x7FC00000)
              result = { v with
                st := s.write writes, out := v.out ++ writes, levels := (base + j, lev) :: v.levels.filter (·.1 != base + j)
                pos := v.pos + size, prev := lev, cycle := v.cycle + 1 + n
                flags := v.flags ||| orFlags ((List.range bnd.1).map fun c => if (sum c).2.2 = none then (sum c).2.1 else fNone)
                late := v.late.or ((List.range bnd.1).findSome? fun c => (sum c).2.2) }))))))

/-- What goes on after an issue: no agent issues, waits that a pre-emption ends are left (14 R301), and the issue is recorded (01 R28). -/
def issued (a : Agent) (b : Nat) : Out → Out
  | .next t => .next ((State.stopWaiting { t with cur := none }).noteIssued a b)
  | o => o

/-- Whether a register or tile that an instruction names is one its group has (05 R127). -/
def has (g : Group) (tiles : Nat) : Opd → Prop
  | .sr r | .sw r => r < g.sregs
  | .vr v | .vw v => v < g.vregs
  | .tile n => n < tiles

/-- The bytes of a source register that an instruction reads: the first key, and how many. -/
def readBytes (g : Group) : Opd → Option (Nat × Nat)
  | .sr r => if r = 0 then none else some (g.skey r, 8)
  | .vr v => some (g.vkey v 0, 4 * g.width)
  | .sw _ | .vw _ | .tile _ => none

/-- A cached leaf that a shootdown drops (16 R341): it covers the unit, or all, or its page or tables lie in the endpoint. -/
def Drops (kind operand first count ep : Nat) (tables : List (Nat × Nat × Nat)) : Prop :=
  (kind = 0 ∧ first ≤ operand / 65536 ∧ operand / 65536 < first + count) ∨ kind = 1
    ∨ (2 ≤ kind ∧ (ep = operand ∨ ∃ x ∈ tables, x.2.1 = operand))

/-- The lowest multiple of `align` at which `n` bytes of a core's store meet no region is `a`; none where there is none (01 R18, 15 R321). -/
def LowestFree (rs : List (Nat × Nat)) (n align : Nat) (a : Option Nat) : Prop :=
  let free := fun (x : Nat) => x % align = 0 ∧ x + n ≤ 2359296 ∧ ∀ r ∈ rs, r.1 + r.2 ≤ x ∨ x + n ≤ r.1
  (∀ x, a = some x → free x ∧ ∀ y, free y → x ≤ y) ∧ (a = none → ∀ y, ¬ free y)

/-- Every byte of a stretch lies in one of some ranges. -/
def Covered (rs : List (Nat × Nat)) (lo hi : Nat) : Prop := ∀ a, lo ≤ a → a < hi → ∃ r ∈ rs, r.1 ≤ a ∧ a < r.2

/-- Two stretches of a store, as first byte and length, share no byte. -/
def Clear (x y : Nat × Nat) : Prop := y.1 + y.2 ≤ x.1 ∨ x.1 + x.2 ≤ y.1

/-- Granules that a handoff tags on a core for the count of 11 R253: of the folio what is not inherited, and of the windows of `n`
surviving groups the vector registers that are not (R254). -/
def tagged (h : Hand) (width n : Nat) : Nat :=
  ((List.range h.succ.folio).filter fun a => !h.ranges.any fun r => decide (r.1 ≤ a) && decide (a < r.2)).length / 16
    + n * ((List.range h.succ.vregs).filter fun v => h.vmap / 2 ^ v % 2 == 0).length * (width / 4)

/-- Bytes of a record, as offset and byte, hold an `n`-byte value at an offset, little-endian (00 R5). -/
def Holds (bs : List (Nat × Byte)) (o n x : Nat) : Prop := ∀ j < n, (o + j, BitVec.ofNat 8 (x / 256 ^ j)) ∈ bs

/-- They hold at an offset what a save reads of `n` bytes from a key up. -/
def Copies (bs : List (Nat × Byte)) (s : State) (area o key n : Nat) : Prop := ∀ j < n, (o + j, s.savedByte area (key + j)) ∈ bs

/-- The bytes that a local access writes: the first key, and how many. -/
def writtenBytes (l : Local) : Option (Nat × Nat) :=
  match l.op with
  | .store bs => some (l.addr, bs.length)
  | .count _ => some (l.addr / 16 * 16, 16)
  | .init _ => some (l.addr, 16)
  | .atomic .. => some (l.addr, l.size)
  | .load .. | .forme .. | .debug .. => none

/-- An access of a trapped group's state through the debug window. -/
def isDebug (l : Local) : Bool :=
  match l.op with
  | .debug .. => true
  | _ => false

end Sys2Proof.Claims

open Sys2Proof Sys2Proof.Machine Sys2Proof.Claims

/-! ### Scalar integers (06 R142 to R149) -/

/-- The binary integer operations: sD takes y of R143's table, put into its container (R138), with registers and with a
literal, on groups and proof cores. -/
def Obligations.ScalarBinaryOperationsComplete : Prop :=
  ∀ s c, State.Issuing s c → ∀ (t : ITy) (d a : SReg),
    let x := valI t (s.src c a)
    let u := s.src c a % 2 ^ t.width
    let put := fun (y : Int) => s.putS c d (putI t 64 y)
    ScalarForms s c t (.saddLong t d a) (.saddLiteral t d a) (fun b => put (x + valI t b))
    ∧ ScalarForms s c t (.ssubLong t d a) (.ssubLiteral t d a) (fun b => put (x - valI t b))
    ∧ ScalarForms s c t (.smulLong t d a) (.smulLiteral t d a) (fun b => put (x * valI t b))
    ∧ ScalarForms s c t (.smulhLong t d a) (.smulhLiteral t d a) (fun b => put (x * valI t b / 2 ^ t.width))
    ∧ ScalarForms s c t (.sandLong t d a) (.sandLiteral t d a) (fun b => put ((u &&& b % 2 ^ t.width : Nat) : Int))
    ∧ ScalarForms s c t (.sorLong t d a) (.sorLiteral t d a) (fun b => put ((u ||| b % 2 ^ t.width : Nat) : Int))
    ∧ ScalarForms s c t (.sxorLong t d a) (.sxorLiteral t d a) (fun b => put ((u ^^^ b % 2 ^ t.width : Nat) : Int))
    ∧ ScalarForms s c t (.sshlLong t d a) (.sshlLiteral t d a)
        (fun b => put (if t.width ≤ b % 2 ^ t.width then 0 else x * 2 ^ (b % 2 ^ t.width)))
    ∧ ScalarForms s c t (.sshrLong t d a) (.sshrLiteral t d a)
        (fun b => put (if t.width ≤ b % 2 ^ t.width then 0 else ((u / 2 ^ (b % 2 ^ t.width) : Nat) : Int)))
    ∧ ScalarForms s c t (.ssarLong t d a) (.ssarLiteral t d a)
        (fun b => put (if t.width ≤ b % 2 ^ t.width then (if sext u t.width < 0 then -1 else 0) else sext u t.width / 2 ^ (b % 2 ^ t.width)))
    ∧ ScalarForms s c t (.sminLong t d a) (.sminLiteral t d a) (fun b => put (min x (valI t b)))
    ∧ ScalarForms s c t (.smaxLong t d a) (.smaxLiteral t d a) (fun b => put (max x (valI t b)))

/-- SDIV and SREM issue, and their result and DZ commit together 24 cycles on (R144): division truncates toward zero, and a
zero divisor gives the listed results with DZ. -/
def Obligations.ScalarDivisionCompletes : Prop :=
  ∀ s c, State.Issuing s c → ∀ (la : BitVec 4) (t : ITy) (d a : SReg),
    let x := valI t (s.src c a)
    let q := fun b => if valI t b = 0 then (if t.signed then -1 else 2 ^ t.width - 1) else Int.tdiv x (valI t b)
    let r := fun b => if valI t b = 0 then x else Int.tmod x (valI t b)
    let commit := fun (y : Int) (b : Nat) => s.later c 24 la.toNat fun m =>
      { m.withScalar s d.toNat (.ofNat 64 (putI t 64 y)) with flags := if valI t b = 0 then fDZ else fNone }
    ScalarForms s c t (.sdivLong la t d a) (.sdivLiteral la t d a) (fun b => commit (q b) b)
    ∧ ScalarForms s c t (.sremLong la t d a) (.sremLiteral la t d a) (fun b => commit (r b) b)

/-- Moves, selection, comparison, bit counts, bit fields and addresses of scalars (R142, R145 to R149). -/
def Obligations.ScalarMovesAndBitsComplete : Prop :=
  ∀ s c, State.Issuing s c →
    (∀ (d : SReg) (e : EReg),
      let x := (s.sregA c.agent e.toNat).toNat
      exec (.smovShort d e) s = .next (s.putS c d x)
      ∧ exec (.spopcShort d e) s = .next (s.putS c d (popCount 64 x))
      ∧ exec (.sclzShort d e) s = .next (s.putS c d (64 - bitLen x)))
    ∧ (∀ (d a : SReg),
      exec (.smovLong none d a) s = .next (s.putS c d (s.src c a)))
    ∧ (∀ (t : ITy) (d a b x : SReg) (w : Word) (k : BitVec 3),
      let v := valI t (s.src c a)
      exec (.smovLong (some t) d a) s = .next (s.putS c d (putI t 64 v))
      ∧ exec (.sli t d w) s = .next (s.putS c d (putI t 64 (valI t (litI t w))))
      ∧ exec (.spopcLong t d a) s = .next (s.putS c d (popCount t.width (s.src c a % 2 ^ t.width)))
      ∧ exec (.sclzLong t d a) s = .next (s.putS c d (t.width - bitLen (s.src c a % 2 ^ t.width)))
      ∧ exec (.ssel d a b x) s = .next (s.putS c d (if s.src c x ≠ 0 then s.src c a else s.src c b))
      ∧ exec (.saddr t d a b x k) s
        = .next (s.putS c d (wrapN (s.src c a + valI t (s.src c b) * 2 ^ k.toNat + s.src c x) 64)))
    ∧ (∀ (cd : ICond) (t : ITy) (d a : SReg),
      ScalarForms s c t (.scmpLong cd t d a) (.scmpLiteral cd t d a) fun b =>
        let x := valI t (s.src c a)
        let y := valI t b
        s.putS c d (match cd with
          | .eq => decide (x = y) | .ne => decide (x ≠ y) | .lt => decide (x < y)
          | .le => decide (x ≤ y) | .gt => decide (x > y) | .ge => decide (x ≥ y) : Bool).toNat)
    ∧ (∀ (t : ITy) (d a : SReg) (pos : BitVec 6) (len : BitVec 7),
      let f := fld (s.src c a) pos.toNat len.toNat
      let u := s.src c d % 2 ^ t.width
      exec (.sbfx t d a pos len) s = .next (s.putS c d (putI t 64 (if t.signed then sext f len.toNat else f)))
      ∧ exec (.sbfi t d a pos len) s = .next (s.putS c d (putI t 64 (valI t
          (u - fld u pos.toNat len.toNat * 2 ^ pos.toNat + s.src c a % 2 ^ len.toNat * 2 ^ pos.toNat)))))

/-! ### Vector integers -/

/-- The binary integer operations of a vector: each active lane takes y of R143's table (R138, R139), no flag. -/
def Obligations.VectorBinaryOperationsComplete : Prop :=
  ∀ s c g, State.GroupIssuing s c g → ∀ (gd : MReg) (t : ITy) (d a : VReg),
    let x := fun i => valI t (s.vlane g a.toNat i)
    let u := fun i => s.vlane g a.toNat i % 2 ^ t.width
    let v := fun (b : Nat → Nat) i => b i % 2 ^ t.width
    let put := fun (y : Nat → Int) => s.putV c g d.toNat (g.lanes gd) fun i => (putI t 32 (y i), fNone)
    VectorForms s g t (.vaddLong gd t d a) (.vaddLiteral gd t d a) (fun b => put fun i => x i + valI t (b i))
    ∧ VectorForms s g t (.vsubLong gd t d a) (.vsubLiteral gd t d a) (fun b => put fun i => x i - valI t (b i))
    ∧ VectorForms s g t (.vmulLong gd t d a) (.vmulLiteral gd t d a) (fun b => put fun i => x i * valI t (b i))
    ∧ VectorForms s g t (.vmulhLong gd t d a) (.vmulhLiteral gd t d a) (fun b => put fun i => x i * valI t (b i) / 2 ^ t.width)
    ∧ VectorForms s g t (.vandLong gd t d a) (.vandLiteral gd t d a) (fun b => put fun i => ((u i &&& v b i : Nat) : Int))
    ∧ VectorForms s g t (.vorLong gd t d a) (.vorLiteral gd t d a) (fun b => put fun i => ((u i ||| v b i : Nat) : Int))
    ∧ VectorForms s g t (.vxorLong gd t d a) (.vxorLiteral gd t d a) (fun b => put fun i => ((u i ^^^ v b i : Nat) : Int))
    ∧ VectorForms s g t (.vshlLong gd t d a) (.vshlLiteral gd t d a)
        (fun b => put fun i => if t.width ≤ v b i then 0 else x i * 2 ^ v b i)
    ∧ VectorForms s g t (.vshrLong gd t d a) (.vshrLiteral gd t d a)
        (fun b => put fun i => if t.width ≤ v b i then 0 else ((u i / 2 ^ v b i : Nat) : Int))
    ∧ VectorForms s g t (.vsarLong gd t d a) (.vsarLiteral gd t d a)
        (fun b => put fun i => if t.width ≤ v b i then (if sext (u i) t.width < 0 then -1 else 0) else sext (u i) t.width / 2 ^ v b i)
    ∧ VectorForms s g t (.vminLong gd t d a) (.vminLiteral gd t d a) (fun b => put fun i => min (x i) (valI t (b i)))
    ∧ VectorForms s g t (.vmaxLong gd t d a) (.vmaxLiteral gd t d a) (fun b => put fun i => max (x i) (valI t (b i)))

/-- VADDSAT, VSUBSAT, VMAD, VABS, VSEL and VDOT4 (R146, R151 to R154): a clamped lane raises IS. -/
def Obligations.VectorSaturationAndDotComplete : Prop :=
  ∀ s c g, State.GroupIssuing s c g → ∀ (gd : MReg) (d a : VReg),
    let clamp := fun (t : ITy) (y : Int) =>
      if y < minI t then (putI t 32 (minI t), fIS) else if maxI t < y then (putI t 32 (maxI t), fIS) else (putI t 32 y, fNone)
    let put := s.putV c g d.toNat (g.lanes gd)
    let lane := fun (r : VReg) i => s.vlane g r.toNat i
    (∀ t : ITy,
      VectorForms s g t (.vaddsatLong gd t d a) (.vaddsatLiteral gd t d a)
        (fun b => put fun i => clamp t (valI t (lane a i) + valI t (b i)))
      ∧ VectorForms s g t (.vsubsatLong gd t d a) (.vsubsatLiteral gd t d a)
        (fun b => put fun i => clamp t (valI t (lane a i) - valI t (b i)))
      ∧ exec (.vabsLong gd t d a) s = .next (put fun i => (putI t 32 (valI t (lane a i)).natAbs, fNone)))
    ∧ (∀ (t : ITy) (b x : VReg), exec (.vmad gd t d a b x) s
        = .next (put fun i => (putI t 32 (valI t (lane a i) * valI t (lane b i) + valI t (lane x i)), fNone)))
    ∧ (∀ e : EReg, exec (.vabsShort gd d e) s = .next (put fun i => (putI .i32 32 (valI .i32 (s.vlane g e.toNat i)).natAbs, fNone)))
    ∧ (∀ (b : VReg) (m : MReg), exec (.vsel gd d a b m) s
        = .next (put fun i => (if inMask (g.mask m) i then lane a i else lane b i, fNone)))
    ∧ (∀ (sgn mix sat : Bool) (b x : VReg), exec (.vdot4 gd sgn mix sat d a b x) s = .next (put fun i =>
        let sb := sgn != mix
        let byte := fun (sg : Bool) (y j : Nat) => if sg then sext (fld y (8 * j) 8) 8 else (fld y (8 * j) 8 : Int)
        let t : ITy := if sgn || sb then .i32 else .n32
        let y := valI t (lane x i) + byte sgn (lane a i) 0 * byte sb (lane b i) 0 + byte sgn (lane a i) 1 * byte sb (lane b i) 1
          + byte sgn (lane a i) 2 * byte sb (lane b i) 2 + byte sgn (lane a i) 3 * byte sb (lane b i) 3
        if sat then clamp t y else (putI t 32 y, fNone)))

/-- Vector moves, bit counts and bit fields (R147, R148, R150), and VCMP's whole mask (R145). -/
def Obligations.VectorMovesAndBitsComplete : Prop :=
  ∀ s c g, State.GroupIssuing s c g → ∀ (gd : MReg),
    (∀ (d : VReg) (e : EReg),
      let put := fun (f : Nat → Nat) => s.putV c g d.toNat (g.lanes gd) fun i => (f (s.vlane g e.toNat i), fNone)
      exec (.vmovShort gd d e) s = .next (put fun x => x)
      ∧ exec (.vpopcShort gd d e) s = .next (put fun x => popCount 32 (x % 2 ^ 32))
      ∧ exec (.vclzShort gd d e) s = .next (put fun x => 32 - bitLen (x % 2 ^ 32)))
    ∧ (∀ (t : ITy) (d a : VReg) (pos : BitVec 6) (len : BitVec 7),
      let put := fun (f : Nat → Nat) => s.putV c g d.toNat (g.lanes gd) fun i => (f (s.vlane g a.toNat i), fNone)
      exec (.vmovLong gd d a) s = .next (put fun x => x)
      ∧ exec (.vpopcLong gd t d a) s = .next (put fun x => popCount t.width (x % 2 ^ t.width))
      ∧ exec (.vclzLong gd t d a) s = .next (put fun x => t.width - bitLen (x % 2 ^ t.width))
      ∧ exec (.vbfx gd t d a pos len) s = .next (put fun x =>
          putI t 32 (if t.signed then sext (fld x pos.toNat len.toNat) len.toNat else fld x pos.toNat len.toNat)))
    ∧ (∀ (d : VReg) (a : SReg), exec (.vmovBcast gd d a) s
        = .next (s.putV c g d.toNat (g.lanes gd) fun _ => ((s.sreg g a.toNat).toNat % 2 ^ 32, fNone)))
    ∧ (∀ (d : VReg) (w : Word), (∀ t, exec (.vli gd (.int t) d w) s
          = .next (s.putV c g d.toNat (g.lanes gd) fun _ => (putI t 32 (valI t (litI t w)), fNone)))
        ∧ ∀ f, exec (.vli gd (.flt f) d w) s = .next (s.putV c g d.toNat (g.lanes gd) fun _ => (w.toNat, fNone)))
    ∧ (∀ (cd : ICond) (t : ITy) (d : MReg) (a : VReg),
      VectorForms s g t (.vcmpLong gd cd t d a) (.vcmpLiteral gd cd t d a) fun b =>
        s.putM c g d (maskOf ((g.lanes gd).filter fun i =>
          let x := valI t (s.vlane g a.toNat i)
          let y := valI t (b i)
          match cd with
          | .eq => decide (x = y) | .ne => decide (x ≠ y) | .lt => decide (x < y)
          | .le => decide (x ≤ y) | .gt => decide (x > y) | .ge => decide (x ≥ y))))

/-! ### Floating point -/

/-- VFADD, VFSUB, VFMUL and VFMA compute exactly and round once, raising what the exact operation and the rounding raise
(R155, R156); a NaN addend gives VFMA's NaN with no flag. -/
def Obligations.FloatArithmeticRoundsOnce : Prop :=
  ∀ s c g, State.GroupIssuing s c g → ∀ (gd : MReg) (t : FTy) (rm : RMode) (d a : VReg),
    let val := fun (x : Nat) => decF t (x % 2 ^ t.bits)
    let lane := fun (r : VReg) i => val (s.vlane g r.toNat i)
    let round := fun (x : XVal × Flags) => ((roundF t rm false x.1).1, x.2 ||| (roundF t rm false x.1).2)
    let put := fun (f : Nat → XVal × Flags) => s.putV c g d.toNat (g.lanes gd) fun i => round (f i)
    FloatForms s g (.vfaddLong gd t rm d a) (.vfaddLiteral gd t rm d a) (fun b => put fun i => sumX rm [lane a i, val (b i)])
    ∧ FloatForms s g (.vfsubLong gd t rm d a) (.vfsubLiteral gd t rm d a)
        (fun b => put fun i => sumX rm [lane a i, (val (b i)).negate])
    ∧ FloatForms s g (.vfmulLong gd t rm d a) (.vfmulLiteral gd t rm d a) (fun b => put fun i => mulX (lane a i) (val (b i)))
    ∧ ∀ b x, exec (.vfma gd t rm d a b x) s = .next (put fun i =>
        let p := mulX (lane a i) (lane b i)
        let y := sumX rm [p.1, lane x i]
        (y.1, if lane x i = .nan then fNone else p.2 ||| y.2))

/-- VFMIN, VFMAX, VFABS, VFNEG, VFCMP, VCVT and VFRINT (R157, R158, R160, R161), and the number operations under all float
instructions: codes and their values (02 R40), rounding (R42), conversion with R43's worked table, exact sums and products (R44),
and the order of codes (R45). -/
def Obligations.FloatSelectionAndConversionComplete : Prop :=
  (∀ s c g, State.GroupIssuing s c g → ∀ (gd : MReg) (d a : VReg),
    let put := s.putV c g d.toNat (g.lanes gd)
    let lane := fun (r : Nat) i => s.vlane g r i
    (∀ t : FTy,
      FloatForms s g (.vfminLong gd t d a) (.vfminLiteral gd t d a)
        (fun b => put fun i => (fminmax t false (lane a.toNat i % 2 ^ t.bits) (b i % 2 ^ t.bits), fNone))
      ∧ FloatForms s g (.vfmaxLong gd t d a) (.vfmaxLiteral gd t d a)
        (fun b => put fun i => (fminmax t true (lane a.toNat i % 2 ^ t.bits) (b i % 2 ^ t.bits), fNone))
      ∧ exec (.vfabsLong gd t d a) s = .next (put fun i => (fsignOp t false (lane a.toNat i % 2 ^ t.bits), fNone))
      ∧ exec (.vfnegLong gd t d a) s = .next (put fun i => (fsignOp t true (lane a.toNat i % 2 ^ t.bits), fNone))
      ∧ (∀ rm, exec (.vfrint gd t rm d a) s = .next (put fun i => frint t rm (lane a.toNat i % 2 ^ t.bits)))
      ∧ ∀ (cd : FCond) (m : MReg), FloatForms s g (.vfcmpLong gd cd t m a) (.vfcmpLiteral gd cd t m a) fun b =>
          s.putM c g m (maskOf ((g.lanes gd).filter fun i => fcmp t cd (lane a.toNat i % 2 ^ t.bits) (b i % 2 ^ t.bits))))
    ∧ (∀ e : EReg, exec (.vfabsShort gd d e) s = .next (put fun i => (fsignOp .f32 false (lane e.toNat i % 2 ^ 32), fNone))
      ∧ exec (.vfnegShort gd d e) s = .next (put fun i => (fsignOp .f32 true (lane e.toNat i % 2 ^ 32), fNone)))
    ∧ ∀ (td ts : Ty) (rm : RMode) (sat : Bool), exec (.vcvt gd td ts rm sat d a) s
        = .next (put fun i => vcvtLane td ts rm sat (lane a.toNat i)))
  ∧ (∀ (t : FTy) (x : Nat),
    let k := x % 2 ^ (t.bits - 1)
    let neg := x / 2 ^ (t.bits - 1) % 2 == 1
    (k ≤ t.maxCode → ∃ (m : Nat) (e : Int), decF t x = .mk neg m e ∧ (m : Rat) * 2 ^ e = gridAt t k)
    ∧ (t.hasInf = true → k = t.maxCode + 1 → decF t x = .inf neg)
    ∧ (t.maxCode < k → (t.hasInf = false ∨ k ≠ t.maxCode + 1) → decF t x = .nan))
  ∧ (∀ (t : FTy) (mode : RMode) (sat neg : Bool),
    (∀ n, t.nanCode = some n → roundF t mode sat .nan = (n, fNone))
    ∧ (t.nanCode = none → roundF t mode sat .nan = (0, fNV))
    ∧ roundF t mode sat (.inf neg) = (if t.hasInf then (codeAt t neg (t.maxCode + 1), fNone) else (codeAt t neg t.maxCode, fOF ||| fNX))
    ∧ roundF t mode sat (.zero neg) = (codeAt t neg 0, fNone)
    ∧ ∀ (m : Nat) (e : Int), m ≠ 0 → RoundsTo t mode sat neg (cutAt ((m : Rat) * 2 ^ e)) (roundF t mode sat (.fin neg m e false)))
  ∧ (∀ (mode : RMode) (xs : List XVal),
    (.nan ∈ xs → sumX mode xs = (.nan, fNone))
    ∧ (.nan ∉ xs → .inf false ∈ xs → .inf true ∈ xs → sumX mode xs = (.nan, fNV))
    ∧ (∀ b, .nan ∉ xs → .inf b ∈ xs → .inf (!b) ∉ xs → sumX mode xs = (.inf b, fNone))
    ∧ ∀ ys : List (Bool × Nat × Int), xs = ys.map (fun y => .mk y.1 y.2.1 y.2.2) →
      let v := (ys.map fun y => (if y.1 then -1 else 1) * ((y.2.1 : Rat) * 2 ^ y.2.2)).foldr (· + ·) 0
      (v ≠ 0 → ∃ (m : Nat) (e : Int), m ≠ 0 ∧ sumX mode xs = (.fin (decide (v < 0)) m e false, fNone)
        ∧ (if v < 0 then -1 else 1) * ((m : Rat) * 2 ^ e) = v)
      ∧ (v = 0 → sumX mode xs = (.zero (xs.all (· == .zero true) || mode == .rd), fNone)))
  ∧ (∀ (t : FTy) (a b : Nat), a < 2 ^ t.bits → b < 2 ^ t.bits →
    let half := 2 ^ (t.bits - 1)
    let nan := fun x => decF t x = .nan
    let place := fun (x : Nat) => if x < half then (x : Int) else half - 1 - x
    let even := fun (x : Nat) => if x < half then (x : Int) else half - x
    (nan a → nan b → ∀ n, t.nanCode = some n → ∀ isMax, fminmax t isMax a b = n)
    ∧ (nan a → ¬ nan b → ∀ isMax, fminmax t isMax a b = b ∧ fminmax t isMax b a = b)
    ∧ (¬ nan a → ¬ nan b → fminmax t false a b = (if place a ≤ place b then a else b)
      ∧ fminmax t true a b = if place b ≤ place a then a else b)
    ∧ (∀ n, nan a → t.nanCode = some n → fsignOp t false a = n ∧ fsignOp t true a = n)
    ∧ (¬ nan a → t ≠ .e2m1 → fsignOp t false a = a % half ∧ fsignOp t true a = (a + half) % (2 * half))
    ∧ (nan a ∨ nan b → ∀ cd, fcmp t cd a b = (cd == .ne || cd == .un))
    ∧ (¬ nan a → ¬ nan b → ∀ cd, fcmp t cd a b = match cd with
      | .eq => decide (even a = even b) | .ne => decide (even a ≠ even b) | .lt => decide (even a < even b)
      | .le => decide (even a ≤ even b) | .gt => decide (even b < even a) | .ge => decide (even b ≤ even a)
      | .un => false | .ord => true)
    ∧ ∀ mode,
      (∀ n, nan a → t.nanCode = some n → frint t mode a = (n, fNone))
      ∧ (t.hasInf = true → ∀ neg, decF t a = .inf neg ∨ decF t a = .zero neg → frint t mode a = (a, fNone))
      ∧ ∀ neg (m : Nat) (e : Int) (n : Nat), decF t a = .fin neg m e false → (n : Rat) ≤ (m : Rat) * 2 ^ e → (m : Rat) * 2 ^ e < n + 1 →
        frint t mode a = ((roundF t .rn false (.mk neg (pickInt mode neg ((m : Rat) * 2 ^ e) n) 0)).1,
          if (n : Rat) = (m : Rat) * 2 ^ e then fNone else fNX))
  ∧ (∀ (mode : RMode) (sat : Bool) (x : Nat),
    (∀ td ts : FTy, vcvtLane (.flt td) (.flt ts) mode sat x = roundF td mode (sat || !td.hasInf) (decF ts x))
    ∧ (∀ (td : FTy) (ts : ITy), vcvtLane (.flt td) (.int ts) mode sat x
      = roundF td mode (sat || !td.hasInf) (.mk (decide (valI ts x < 0)) (valI ts x).natAbs 0))
    ∧ (∀ td ts : ITy, vcvtLane (.int td) (.int ts) mode sat x = (let v := valI ts x
        if sat = false then (putI td 32 v, fNone)
        else if v < minI td then (putI td 32 (minI td), fIS)
        else if maxI td < v then (putI td 32 (maxI td), fIS) else (putI td 32 v, fNone)))
    ∧ ∀ (td : ITy) (ts : FTy), let out := fun (v : Int) (fl : Flags) => vcvtLane (.int td) (.flt ts) mode sat x = (putI td 32 v, fl)
      (decF ts x = .nan → out 0 fNV)
      ∧ (∀ neg, decF ts x = .inf neg → out (if neg then minI td else maxI td) fNV)
      ∧ (∀ neg, decF ts x = .zero neg → out 0 fNone)
      ∧ ∀ neg (m : Nat) (e : Int) (n : Nat), decF ts x = .fin neg m e false → (n : Rat) ≤ (m : Rat) * 2 ^ e → (m : Rat) * 2 ^ e < n + 1 →
        let v := (if neg then -1 else 1) * (pickInt mode neg ((m : Rat) * 2 ^ e) n : Int)
        if v < minI td then out (minI td) fNV
        else if maxI td < v then out (maxI td) fNV
        else out v (if (n : Rat) = (m : Rat) * 2 ^ e then fNone else fNX))
  ∧ (∀ a b : XVal,
    let ends := fun (r : XVal × Flags) => mulX a b = r ∧ mulX b a = r
    (a = .nan → ends (.nan, fNone))
    ∧ (∀ x y, a = .inf x → b = .zero y → ends (.nan, fNV))
    ∧ (∀ x y, a = .inf x → b = .inf y → ends (.inf (x != y), fNone))
    ∧ (∀ x y m e, a = .inf x → b = .fin y m e false → ends (.inf (x != y), fNone))
    ∧ (∀ x y m e, a = .zero x → b = .mk y m e → ends (.zero (x != y), fNone))
    ∧ ∀ (x : Bool) (m : Nat) (e : Int) (y : Bool) (n : Nat) (f : Int), m ≠ 0 → n ≠ 0 → a = .fin x m e false → b = .fin y n f false →
      ∃ (k : Nat) (h : Int), k ≠ 0 ∧ mulX a b = (.fin (x != y) k h false, fNone) ∧ (k : Rat) * 2 ^ h = (m : Rat) * 2 ^ e * ((n : Rat) * 2 ^ f))
  ∧ (let from32 := fun (td : FTy) (mode : RMode) (sat : Bool) (x : Nat) => vcvtLane (.flt td) (.flt .f32) mode sat x
    from32 .e4m3 .rn false 0x3F880000 = (0x38, fNX)
    ∧ from32 .e4m3 .ru false 0x3F880000 = (0x39, fNX)
    ∧ from32 .e4m3 .rn false 0x43FA0000 = (0x7E, fOF ||| fNX)
    ∧ from32 .e4m3 .rn false 0x43E60000 = (0x7E, fNX)
    ∧ from32 .e4m3 .rn false 0x43EB0000 = (0x7E, fOF ||| fNX)
    ∧ (∀ mode, from32 .e4m3 mode false 0x7F800000 = (0x7E, fOF ||| fNX))
    ∧ from32 .f16 .rn true 0x7F800000 = (0x7C00, fNone)
    ∧ from32 .e5m2 .rn false 0xC788B800 = (0xFC, fOF ||| fNX)
    ∧ from32 .e5m2 .rn true 0xC788B800 = (0xFB, fOF ||| fNX)
    ∧ from32 .e2m3 .rn false 0x3E99999A = (0x02, fUF ||| fNX)
    ∧ from32 .e2m1 .rn false 0xBE4CCCCD = (0x0, fUF ||| fNX)
    ∧ from32 .e2m1 .rn false 0x40200000 = (0x4, fNX)
    ∧ vcvtLane (.int .i32) (.flt .f32) .rn false 0xC0600000 = (2 ^ 32 - 4, fNX)
    ∧ ∀ mode, vcvtLane (.int .i32) (.flt .f32) mode false 0x7FC00000 = (0, fNV))

/-- The exactly rounded functions issue, and lane results with their flags commit after the latency of R140 (R159); the
short forms work on .f32 to nearest. Quotients and roots are the exact ones rounded under R42, and the operands of R159's table give
the results and flags that it lists; that 0 counts as an integer there is read from its sentence on VSIN. Where the exact value of VEXP2 to
VTANH is rational it is rounded under R42. Where it is not, the result is that of rounding it to nearest wherever the interval that the
model has computed holds it, for VTANH wherever the ends of that interval round alike (log 15); NX is raised, since the result differs from
it. -/
def Obligations.FloatFunctionsCommitLater : Prop :=
  (∀ s c g, State.GroupIssuing s c g → ∀ (gd : MReg) (la : BitVec 4) (d : VReg),
    let later := fun (lat : Nat) (f : Nat → Nat × Flags) => s.laterV c g d.toNat lat la.toNat
      ((g.lanes gd).map fun i => (i, (f i).1)) (orFlags ((g.lanes gd).map fun i => (f i).2))
    let val := fun (t : FTy) (x : Nat) => decF t (x % 2 ^ t.bits)
    ShortAndLong s g d (.vrcpShort gd la) (.vrcpLong gd la)
      (fun t m x => later 8 fun i => fdiv t m (.fin false 1 0 false) (val t (x i)))
    ∧ ShortAndLong s g d (.vrsqShort gd la) (.vrsqLong gd la) (fun t m x => later 8 fun i => frsq t m (val t (x i)))
    ∧ ShortAndLong s g d (.vsqrtShort gd la) (.vsqrtLong gd la) (fun t m x => later 16 fun i => fsqrt t m (val t (x i)))
    ∧ (∀ e : EReg, exec (.vdivShort gd la d e) s
        = .next (later 16 fun i => fdiv .f32 .rn (val .f32 (s.vlane g d.toNat i)) (val .f32 (s.vlane g e.toNat i))))
    ∧ (∀ (t : FTy) (m : RMode) (a b : VReg), exec (.vdivLong gd la t m d a b) s
        = .next (later 16 fun i => fdiv t m (val t (s.vlane g a.toNat i)) (val t (s.vlane g b.toNat i))))
    ∧ ShortAndLong s g d (.vexp2Short gd la) (fun t _ => .vexp2Long gd la t) (fun t _ x => later 8 fun i => fexp2 t (x i % 2 ^ t.bits))
    ∧ ShortAndLong s g d (.vlog2Short gd la) (fun t _ => .vlog2Long gd la t) (fun t _ x => later 8 fun i => flog2 t (x i % 2 ^ t.bits))
    ∧ ShortAndLong s g d (.vsinShort gd la) (fun t _ => .vsinLong gd la t) (fun t _ x => later 12 fun i => fsin t (x i % 2 ^ t.bits))
    ∧ ShortAndLong s g d (.vcosShort gd la) (fun t _ => .vcosLong gd la t) (fun t _ x => later 12 fun i => fcos t (x i % 2 ^ t.bits))
    ∧ ShortAndLong s g d (.vtanhShort gd la) (fun t _ => .vtanhLong gd la t) (fun t _ x => later 12 fun i => ftanh t (x i % 2 ^ t.bits)))
  ∧ ∀ (t : FTy) (mode : RMode), t.hasInf = true → ∀ nan, t.nanCode = some nan →
    let inf := fun neg => codeAt t neg (t.maxCode + 1)
    let zero := fun neg => codeAt t neg 0
    (∀ (x y : Bool) (m n : Nat) (e f : Int), m ≠ 0 → n ≠ 0 →
      let a : XVal := .fin x m e false
      let b : XVal := .fin y n f false
      RoundsTo t mode false (x != y) (cutAt ((m : Rat) * 2 ^ e / ((n : Rat) * 2 ^ f))) (fdiv t mode a b)
      ∧ RoundsTo t mode false false (fun q => cutAt ((m : Rat) * 2 ^ e) (q * q)) (fsqrt t mode (.fin false m e false))
      ∧ RoundsTo t mode false false (fun q => cutAt 1 (q * q * ((m : Rat) * 2 ^ e))) (frsq t mode (.fin false m e false))
      ∧ fdiv t mode a (.zero y) = (inf (x != y), fDZ) ∧ fdiv t mode (.zero x) b = (zero (x != y), fNone)
      ∧ fdiv t mode a (.inf y) = (zero (x != y), fNone) ∧ fdiv t mode (.inf x) b = (inf (x != y), fNone)
      ∧ fsqrt t mode (.fin true m e false) = (nan, fNV) ∧ frsq t mode (.fin true m e false) = (nan, fNV))
    ∧ (∀ a : XVal, fdiv t mode .nan a = (nan, fNone) ∧ fdiv t mode a .nan = (nan, fNone))
    ∧ (∀ x y : Bool,
      fdiv t mode (.zero x) (.zero y) = (nan, fNV) ∧ fdiv t mode (.inf x) (.inf y) = (nan, fNV)
      ∧ fdiv t mode (.inf x) (.zero y) = (inf (x != y), fNone) ∧ fdiv t mode (.zero x) (.inf y) = (zero (x != y), fNone)
      ∧ fsqrt t mode (.zero x) = (zero x, fNone) ∧ frsq t mode (.zero x) = (inf x, fDZ))
    ∧ fsqrt t mode .nan = (nan, fNone) ∧ fsqrt t mode (.inf true) = (nan, fNV) ∧ fsqrt t mode (.inf false) = (inf false, fNone)
    ∧ frsq t mode .nan = (nan, fNone) ∧ frsq t mode (.inf true) = (nan, fNV) ∧ frsq t mode (.inf false) = (zero false, fNone)
    ∧ ∀ x : Nat,
      (decF t x = .nan → ∀ f ∈ [fexp2, flog2, fsin, fcos, ftanh], f t x = (nan, fNone))
      ∧ (∀ neg, decF t x = .inf neg → fexp2 t x = (if neg then zero false else inf false, fNone)
        ∧ flog2 t x = (if neg then (nan, fNV) else (inf false, fNone)) ∧ fsin t x = (nan, fNV) ∧ fcos t x = (nan, fNV)
        ∧ ftanh t x = ((roundF t .rn false (.mk neg 1 0)).1, fNone))
      ∧ (∀ neg, decF t x = .zero neg → flog2 t x = (inf true, fDZ) ∧ fsin t x = (zero neg, fNone) ∧ ftanh t x = (zero neg, fNone)
        ∧ fexp2 t x = ((roundF t .rn false (.mk false 1 0)).1, fNone) ∧ fcos t x = ((roundF t .rn false (.mk false 1 0)).1, fNone))
      ∧ (∀ (m : Nat) (e : Int), decF t x = .fin true m e false → flog2 t x = (nan, fNV))
      ∧ ∀ (neg : Bool) (m : Nat) (e : Int), decF t x = .fin neg m e false →
        let v : Rat := (m : Rat) * 2 ^ e
        let one := fun (s : Bool) => ((roundF t .rn false (.mk s 1 0)).1, fNone)
        (∀ n : Int, (if neg then -v else v) = n → RoundsTo t .rn false false (cutAt (2 ^ n)) (fexp2 t x))
        ∧ (neg = false → v = 1 → flog2 t x = (zero false, fNone))
        ∧ (∀ n : Int, n ≠ 0 → neg = false → v = 2 ^ n → RoundsTo t .rn false (decide (n < 0)) (cutAt n.natAbs) (flog2 t x))
        ∧ (∀ n : Nat, v = n → fsin t x = (zero neg, fNone) ∧ fcos t x = one (n % 2 == 1))
        ∧ (∀ n : Nat, v = n + 1 / 2 → fsin t x = one (neg != (n % 2 == 1)) ∧ fcos t x = (zero false, fNone))
        ∧ ((∀ n : Int, v ≠ n) → (fexp2 t x).2 &&& fNX = fNX)
        ∧ (neg = false → (∀ n : Int, v ≠ 2 ^ n) → (flog2 t x).2 &&& fNX = fNX)
        ∧ ((∀ n : Int, 2 * v ≠ n) → (fsin t x).2 &&& fNX = fNX ∧ (fcos t x).2 &&& fNX = fNX)
        ∧ (ftanh t x).2 &&& fNX = fNX
        ∧ (-(fxP : Int) ≤ e →
          let y : ℝ := (if neg then -1 else 1) * ((m : ℝ) * 2 ^ e)
          let fx := fxOf m e
          let holds := fun (z : ℝ) (a : Nat) (g : Int) => 2 ^ 64 ≤ a ∧ ((a : ℝ) - 2 ^ 40) * 2 ^ g < z ∧ z < ((a : ℝ) + 2 ^ 40 + 1) * 2 ^ g
          let turn := fun (k : Nat) =>
            let r := k % 2 ^ fxP
            if 2 ^ (fxP - 1) < r then 2 ^ fxP - r else r
          let past := fun (k : Nat) => decide (2 ^ fxP ≤ k % 2 ^ (fxP + 1))
          let turned := fx + 2 ^ (fxP - 1)
          ∀ cut,
            (let w : Int := if neg then -(fx : Int) else (fx : Int);
              let n := w / 2 ^ fxP;
              let a := fxExp ((w % 2 ^ fxP).toNat * fxLn2 / 2 ^ fxP);
              -2000 ≤ n → n ≤ 2000 → CutOf ((2 : ℝ) ^ y) cut → holds ((2 : ℝ) ^ y) a (n - fxP) → RoundsTo t .rn false false cut (fexp2 t x))
            ∧ (let k := m * 2 ^ (fxP - m.log2);
              let w : Int := (m.log2 + e) * 2 ^ fxP + ((2 * fxAtanh ((k - 2 ^ fxP) * 2 ^ fxP / (k + 2 ^ fxP)) * 2 ^ fxP / fxLn2 : Nat) : Int);
              let z := (if w < 0 then -1 else 1) * Real.logb 2 y;
              neg = false → CutOf z cut → holds z w.natAbs (-fxP) → RoundsTo t .rn false (decide (w < 0)) cut (flog2 t x))
            ∧ (CutOf |Real.sin (Real.pi * y)| cut → holds |Real.sin (Real.pi * y)| (fxSin (turn fx * fxPi / 2 ^ fxP)) (-fxP) →
              RoundsTo t .rn false (neg != past fx) cut (fsin t x))
            ∧ (CutOf |Real.cos (Real.pi * y)| cut → holds |Real.cos (Real.pi * y)| (fxSin (turn turned * fxPi / 2 ^ fxP)) (-fxP) →
              RoundsTo t .rn false (past turned) cut (fcos t x))
            ∧ (let k := fxPow2 6 (fxExp (fx / 32));
              let a := (k - 2 ^ fxP) * 2 ^ fxP / (k + 2 ^ fxP);
              let top := min (a + 2 ^ 40) (fx - 1);
              fx < 32 * 2 ^ fxP → 2 ^ 64 ≤ a → CutOf |Real.tanh y| cut → ((a : ℝ) - 2 ^ 40) * 2 ^ (-(fxP : Int)) < |Real.tanh y| →
              |Real.tanh y| < ((top : ℝ) + 1) * 2 ^ (-(fxP : Int)) →
              roundFin t .rn false neg (a - 2 ^ 40) (-fxP) true = roundFin t .rn false neg top (-fxP) true →
              RoundsTo t .rn false neg cut (ftanh t x)))

/-! ### Masks and lanes -/

/-- Mask instructions (07 R163). -/
def Obligations.MaskInstructionsComplete : Prop :=
  ∀ s c g, State.GroupIssuing s c g →
    (∀ d a b : MReg,
      exec (.mand d a b) s = .next (s.putM c g d (g.mask a &&& g.mask b))
      ∧ exec (.mor d a b) s = .next (s.putM c g d (g.mask a ||| g.mask b))
      ∧ exec (.mxor d a b) s = .next (s.putM c g d (g.mask a ^^^ g.mask b))
      ∧ exec (.mandn d a b) s = .next (s.putM c g d (g.mask a &&& ~~~ g.mask b))
      ∧ exec (.mnot d a) s = .next (s.putM c g d (~~~ g.mask a)))
    ∧ (∀ (d : MReg) (a : SReg), exec (.mmovToMask d a) s = .next (s.putM c g d (s.sreg g a.toNat)))
    ∧ (∀ (d : SReg) (a : MReg),
      exec (.mmovToScalar d a) s = .next (s.putS c d (g.mask a).toNat)
      ∧ exec (.mpopc d a) s = .next (s.putS c d (popCount 64 (g.mask a).toNat))
      ∧ exec (.mfirst d a) s = .next (s.putS c d (((List.range 64).find? fun i => inMask (g.mask a) i).getD 64)))
    ∧ (∀ (d : MReg) (a : VReg) (k : MReg), exec (.mballot d a k) s
        = .next (s.putM c g d (maskOf ((lanesIn g.width (g.mask k)).filter fun i => s.vlane g a.toNat i != 0))))
    ∧ ∀ (d : MReg) (f : BitVec 6) (n : BitVec 7), exec (.mset d f n) s
        = .next (s.putM c g d (.ofNat 64 ((2 ^ n.toNat - 1) * 2 ^ f.toNat)))

/-- The cross-lane instructions: receivers are the active member lanes, a source outside the members or the lanes reads as
zero, and the results commit 4 cycles on, those of VRED and VSCAN 8 (07 R164 to R168). VRED's value is that of R55's tree and
VSCAN's those of R56's steps, over R55's operators and identities, written as R167's Out has it. -/
def Obligations.CrossLaneResultsCommitLater : Prop :=
  (∀ s c g, State.GroupIssuing s c g → ∀ (gd k : MReg) (la : BitVec 4) (d a : VReg),
    let members := lanesIn g.width (g.mask k)
    let receivers := lanesIn g.width (g.mask k &&& g.active gd)
    let rank := fun (i : Nat) => (members.filter (· < i)).length
    let lane := fun (i : Nat) => s.vlane g a.toNat i
    let word := fun (j : Int) => if 0 ≤ j ∧ j < g.width ∧ inMask (g.mask k) j.toNat then lane j.toNat else 0
    let later := fun (lat : Nat) (rs : List Nat) (f : Nat → Nat) (fl : Flags) =>
      s.laterV c g d.toNat lat la.toNat (rs.map fun i => (i, f i)) (if rs.isEmpty then fNone else fl)
    let turned := fun (n i : Nat) => lane (members.getD ((rank i + (members.length - n % members.length)) % members.length) 0)
    (∀ b : VReg,
      let n := fun i => s.vlane g b.toNat i
      exec (.vshfl gd la .idx d a b k) s = .next (later 4 receivers (fun i => word (n i)) fNone)
      ∧ exec (.vshfl gd la .xor d a b k) s = .next (later 4 receivers (fun i => word ((i ^^^ n i : Nat) : Int)) fNone)
      ∧ exec (.vshfl gd la .up d a b k) s = .next (later 4 receivers (fun i => word ((i : Int) - n i)) fNone)
      ∧ exec (.vshfl gd la .down d a b k) s = .next (later 4 receivers (fun i => word ((i : Int) + n i)) fNone))
    ∧ (∀ b : SReg,
      exec (.vrotLong gd la d a b k) s = .next (later 4 receivers (turned (s.sreg g b.toNat).toNat) fNone)
      ∧ exec (.vbcast gd la d a b k) s = .next (later 4 receivers (fun _ => word (s.sreg g b.toNat).toNat) fNone))
    ∧ (∀ w : Word, exec (.vrotLiteral gd la d a w k) s = .next (later 4 receivers (turned w.toNat) fNone))
    ∧ (∀ (op : RedOp) (t : Ty),
      exec (.vred gd la op t d a k) s
        = .next (later 8 receivers (fun _ => redOut t (s.redValue g op t a k).1) (s.redValue g op t a k).2)
      ∧ ∀ excl, exec (.vscan gd la op excl t d a k) s = .next (later 8 receivers
          (fun i => redOut t ((s.scanValues g op excl t a k).1.getD i 0)) (s.scanValues g op excl t a k).2))
    ∧ exec (.vcompact gd la d a k) s = .next (later 4 ((g.lanes gd).filter (· < members.length)) (fun r => lane (members.getD r 0)) fNone)
    ∧ exec (.vexpand gd la d a k) s = .next (later 4 receivers (fun i => lane (rank i)) fNone)
    ∧ ∀ (op : RedOp) (t : Ty) (n : Nat), g.width = 2 ^ n →
      let x := fun i => if inMask (g.mask k) i then lane i else redIdentity op t
      let f := redStep op t
      s.redValue g op t a k = treeAt f x n 0
      ∧ (∀ i, i < g.width → (s.scanValues g op false t a k).1.getD i 0 = scanAt f x n i
        ∧ (s.scanValues g op true t a k).1.getD i 0 = if i = 0 then redIdentity op t else scanAt f x n (i - 1))
      ∧ ∀ excl, (s.scanValues g op excl t a k).2
        = orFlags ((List.range n).flatMap fun j => (List.range (g.width - 2 ^ j)).map fun i =>
            (f (scanAt f x j i) (scanAt f x j (i + 2 ^ j))).2))
  ∧ (∀ (t : Ty) (a b : Nat),
    let y := sumX .rn [decF .f32 a, decF .f32 b]
    (∀ ty : ITy, redOut (.int ty) a = putI ty 32 (valI ty a))
    ∧ (∀ ft : FTy, ∀ nan, ft.nanCode = some nan → redOut (.flt ft) a = if decF ft a = .nan then nan else a)
    ∧ redOut (.flt .f32) 0xFFC00001 = 0x7FC00000
    ∧ redStep .fadd t a b = ((roundF .f32 .rn false y.1).1, y.2 ||| (roundF .f32 .rn false y.1).2) ∧ redIdentity .fadd t = 0x80000000
    ∧ redStep .fmin t a b = (fminmax .f32 false a b, fNone) ∧ redIdentity .fmin t = 0x7F800000
    ∧ redStep .fmax t a b = (fminmax .f32 true a b, fNone) ∧ redIdentity .fmax t = 0xFF800000)
  ∧ ∀ (t : ITy) (a b : Nat),
    let is := fun (op : RedOp) (y id : Int) => redStep op (.int t) a b = (putI t 32 y, fNone) ∧ redIdentity op (.int t) = putI t 32 id
    let u := a % 2 ^ t.width
    let v := b % 2 ^ t.width
    is .add (valI t a + valI t b) 0 ∧ is .min (min (valI t a) (valI t b)) (maxI t) ∧ is .max (max (valI t a) (valI t b)) (minI t)
    ∧ is .and (u &&& v : Nat) (-1) ∧ is .or (u ||| v : Nat) 0 ∧ is .xor (u ^^^ v : Nat) 0

/-! ### Control (07 R170 to R176) -/

/-- Transfers to an allowed target go there, a branch not taken goes on; a call writes its return address after the target
is read (R170). What a proof core's BRM tests is the model's free value (log 16). -/
def Obligations.ControlTransfersComplete : Prop :=
  ∀ s c, State.Issuing s c →
    let near := fun (t : Target) => wrapN ((c.pc.toNat / 64 * 64 : Nat) + 64 * sext t.line.toNat 28) 57 + 4 + 4 * t.syl.toNat
    let allowed := fun (a : Nat) => s.targetOk c.agent a = .ok
    let go := fun (s : State) (a : Nat) => transferred s c (.ofNat 64 a)
    let branch := fun (s' : State) (p : Prop) (i : Instr) (t : Target) =>
      (¬ p → exec i s = .next (s'.finish c)) ∧ (p → allowed (near t) → exec i s = .next (go s' (near t)))
    exec .nop s = .next (s.finish c)
    ∧ (∀ t : Target,
      branch s True (.bra t) t
      ∧ (∀ a : SReg,
        branch s (s.src c a = 0) (.brs .z a t) t
        ∧ branch s (s.src c a ≠ 0) (.brs .nz a t) t
        ∧ branch s ((s.sregA c.agent a.toNat).toInt < 0) (.brs .lt a t) t
        ∧ branch s (0 ≤ (s.sregA c.agent a.toNat).toInt) (.brs .ge a t) t)
      ∧ (∀ (m : MReg) (g : Group), State.GroupIssuing s c g →
        branch s (g.mask m &&& g.running ≠ 0) (.brm .any m t) t
        ∧ branch s (g.running &&& ~~~ g.mask m = 0) (.brm .all m t) t
        ∧ branch s (g.mask m &&& g.running = 0) (.brm .none m t) t)
      ∧ (∀ (m : MReg) (k : Nat), State.ProofIssuing s c k →
        let x := Config.proofMask s.fresh
        let y := Config.proofMask (s.fresh + 1)
        let s' := { s with fresh := s.fresh + 2 }
        branch s' (x &&& y ≠ 0) (.brm .any m t) t
        ∧ branch s' (y &&& ~~~ x = 0) (.brm .all m t) t
        ∧ branch s' (x &&& y = 0) (.brm .none m t) t)
      ∧ ∀ d : SReg, allowed (near t) → exec (.callLiteral d t) s = .next (go (s.setSregA c.agent d.toNat c.next) (near t)))
    ∧ (∀ a : SReg, allowed (s.src c a) →
      exec (.jmp a) s = .next (go s (s.src c a))
      ∧ ∀ d : SReg, exec (.callLong d a) s = .next (go (s.setSregA c.agent d.toNat c.next) (s.src c a)))
    ∧ ∀ e : EReg, allowed (s.sregA c.agent e.toNat).toNat →
      exec (.ret e) s = .next (go s (s.sregA c.agent e.toNat).toNat)

/-- A target is allowed when it is a syllable's address, below 2^57 and not at a line word, and its line can be read and
gives that syllable no cause: its TARGET bit is set and an instruction begins there. One that is not allowed traps at the transfer, a
rejoin point at its ENROL (05 R119, R121, 07 R171, R172); that one whose line is not served is a CODEFAULT there, with its fault record, is
the model's choice (log 33), and one on a page that moves is tried again (16 R335). What a proof core's BRM tests is the model's free value (log 16). -/
def Obligations.TransferTargetsAreChecked : Prop :=
  (∀ (s : State) (ag : Agent) (a : Nat), s.targetOk ag a = .ok ↔
    targetForm a = true ∧ ∃ ws, s.readLine ag (a / 64 * 64) = .line ws ∧ syllableCause ws (a % 64 / 4 - 1) = 0)
  ∧ (∀ (s : State) (ag : Agent) (a : Nat), targetForm a = true →
    let at_ := s.targetOk ag a
    (∀ r l e, s.readLine ag (a / 64 * 64) = .bad r l e → at_ = .fault r l e) ∧ (s.readLine ag (a / 64 * 64) = .busy → at_ = .busy)
    ∧ (s.readLine ag (a / 64 * 64) = .none → at_ = .cause 0x02)
    ∧ ∀ ws, s.readLine ag (a / 64 * 64) = .line ws → syllableCause ws (a % 64 / 4 - 1) ≠ 0 → at_ = .cause (syllableCause ws (a % 64 / 4 - 1)))
  ∧ (∀ (s : State) (c : Cur) (g : Group) (va r l e : Nat), c.agent = .group g.core g.slot → s.group? g.core g.slot = some g →
    s.codeFault c va r l e = State.trapAt (s.postFault (s.partOf g.core) (s.faultOf g.team g.core va r l e 3)) c c.pc 0x16 0 (.ofNat 64 va) 0)
  ∧ (∀ a, targetForm a = true ↔ a < 2 ^ 57 ∧ a % 4 = 0 ∧ a % 64 ≠ 0)
  ∧ (∀ (ws : List Nat) (k : Nat), syllableCause ws k
    = if ws.getD 0 0 / 2 ^ k % 2 = 0 then 0x02 else if k ∈ instrStarts ws 15 0 then 0 else 0x01)
  ∧ (∀ (ws : List Nat) (k : Nat), k < 15 → (k ∈ instrStarts ws 15 0 ↔ sylLen (ws.getD (k + 1) 0) ≠ 0
    ∧ (k = 0 ∨ ∃ j ∈ instrStarts ws 15 0, j + sylLen (ws.getD (j + 1) 0) = k)))
  ∧ (∀ s c, State.Issuing s c → ∀ (t : Target) (ans : TargetAns),
    let to_ := wrapN ((c.pc.toNat / 64 * 64 : Nat) + 64 * sext t.line.toNat 28) 57 + 4 + 4 * t.syl.toNat
    s.targetOk c.agent to_ = ans → ans ≠ .ok →
    let traps := fun (s' : State) (i : Instr) => exec i s = .next (notTransferred s' c to_ ans)
    traps s (.bra t)
    ∧ (∀ d : SReg, traps s (.callLiteral d t))
    ∧ (∀ a : SReg,
      (s.src c a = 0 → traps s (.brs .z a t)) ∧ (s.src c a ≠ 0 → traps s (.brs .nz a t))
      ∧ ((s.sregA c.agent a.toNat).toInt < 0 → traps s (.brs .lt a t)) ∧ (0 ≤ (s.sregA c.agent a.toNat).toInt → traps s (.brs .ge a t)))
    ∧ (∀ g, State.GroupIssuing s c g →
      (∀ m : MReg, (g.mask m &&& g.running ≠ 0 → traps s (.brm .any m t)) ∧ (g.running &&& ~~~ g.mask m = 0 → traps s (.brm .all m t))
        ∧ (g.mask m &&& g.running = 0 → traps s (.brm .none m t)))
      ∧ ∀ (gd : MReg) (j : JReg), traps s (.enrol gd j t))
    ∧ ∀ k, State.ProofIssuing s c k → ∀ m : MReg,
      let x := Config.proofMask s.fresh
      let y := Config.proofMask (s.fresh + 1)
      let s' := { s with fresh := s.fresh + 2 }
      (x &&& y ≠ 0 → traps s' (.brm .any m t)) ∧ (y &&& ~~~ x = 0 → traps s' (.brm .all m t)) ∧ (x &&& y = 0 → traps s' (.brm .none m t)))
  ∧ ∀ s c, State.Issuing s c → ∀ (a d : SReg) (e : EReg),
    (∀ ans, s.targetOk c.agent (s.src c a) = ans → ans ≠ .ok →
      exec (.jmp a) s = .next (notTransferred s c (s.src c a) ans) ∧ exec (.callLong d a) s = .next (notTransferred s c (s.src c a) ans))
    ∧ (∀ ans, let x := (s.sregA c.agent e.toNat).toNat
      s.targetOk c.agent x = ans → ans ≠ .ok → exec (.ret e) s = .next (notTransferred s c x ans))
    ∧ ∀ a', targetForm a' = false → s.targetOk c.agent a' = .cause 0x02

/-- ENROL, PARK and STRIKE (01 R30, 07 R172): a rejoin register takes the active lanes, and its last arrival frees the
parked lanes and goes to the rejoin point. ENROL of a valid register on which lanes are parked takes REJOIN, as PARK and STRIKE of one
that is not valid do; a PARK that would leave no lane running and release nothing takes STRANDED, one of a group that holds a lock LOCK
(08 R190). -/
def Obligations.DivergenceInstructionsComplete : Prop :=
  ∀ s c g, State.GroupIssuing s c g → ∀ (gd : MReg) (d : JReg),
    let j := g.rejoins[d.toNat]
    let put := fun (x : Rejoin) => s.setGroup { g with rejoins := g.rejoins.set d.toNat x }
    let release := fun (x : Rejoin) => if x.enrolled &&& ~~~ x.arrived = 0
      then transferred (put { x with parked := 0, valid := false }) c x.point else (put x).finish c
    let act := g.active gd
    (∀ t : Target, s.targetOk c.agent (targetAddr c.pc t) = .ok → (j.valid = true → j.parked = 0) →
      exec (.enrol gd d t) s = .next (State.finish (put
        { enrolled := act, arrived := 0, point := .ofNat 64 (targetAddr c.pc t), parked := j.parked, valid := true }) c))
    ∧ (∀ t : Target, s.targetOk c.agent (targetAddr c.pc t) = .ok → j.valid = true → j.parked ≠ 0 → exec (.enrol gd d t) s = .next (s.trap c 0x14))
    ∧ (s.heldLock c.agent ≠ none → exec (.park gd d) s = .next (s.trap c 0x15))
    ∧ (s.heldLock c.agent = none → j.valid = true → (g.running &&& ~~~ act ≠ 0 ∨ j.enrolled &&& ~~~ (j.arrived ||| act) = 0) →
      exec (.park gd d) s = .next (release { j with arrived := j.arrived ||| act, parked := j.parked ||| act }))
    ∧ (j.valid = true → exec (.strike gd d) s = .next (release { j with enrolled := j.enrolled &&& ~~~ act }))
    ∧ (j.valid = false → exec (.strike gd d) s = .next (s.trap c 0x14)
      ∧ (s.heldLock c.agent = none → exec (.park gd d) s = .next (s.trap c 0x14)))
    ∧ (s.heldLock c.agent = none → j.valid = true → g.running &&& ~~~ act = 0 → j.enrolled &&& ~~~ (j.arrived ||| act) ≠ 0 →
      exec (.park gd d) s = .next (s.trap c 0x13))

/-- SAFEPT, YIELD and EXIT (07 R174 to R176): each takes LOCK under a lock (08 R190), and a SAFEPT of an index that the kernel does not declare
ILLOP. SAFEPT waits for the group's commits and goes on when no pre-emption is asked
for; YIELD lists the core's other groups that are ready, and is not ready itself until each has issued or left, or 64 issue cycles have passed; EXIT ends the group: what is pending of it writes nothing more, its window and its
scalar block read as zero, its slot is free once no operation of its engines is left, and the team exits with its last group. A proof core has no other group to yield to and
no group to end: EXIT halts it, which is the model's choice (log 16); SAFEPT is an instruction of groups only and halts it too
(14 R285, R287). -/
def Obligations.SafePointYieldAndExitComplete : Prop :=
  (∀ s c g, State.GroupIssuing s c g →
    let nsafe := ((s.team? g.team).map (·.krec.nsafe)).getD 0
    (∀ idx : Byte, (nsafe ≤ idx.toNat → exec (.safept idx) s = .next (s.trap c 0x01)) ∧ (idx.toNat < nsafe → LockTraps s c (.safept idx)))
    ∧ LockTraps s c .yield ∧ LockTraps s c .exit)
  ∧ (∀ (s : State) (g : Group),
    let held := ∃ x, g.yielded = some x ∧ x.2 ≠ [] ∧ s.issueCount g.core < x.1 + 64
    (s.yieldOpen g = true ↔ held)
    ∧ (s.unheld g = true ↔ g.run = .ready ∧ g.running ≠ 0 ∧ s.teamGoes g.team = true
      ∧ ∀ m ∈ s.commits, m.agent = .group g.core g.slot → m.left ≠ 0)
    ∧ (s.isReady g = true ↔ s.unheld g = true ∧ g.notBefore ≤ s.cycle ∧ ¬ held))
  ∧ (∀ s c g, State.GroupIssuing s c g → s.heldLock c.agent = none →
    (∀ idx : Byte, idx.toNat < ((s.team? g.team).map (·.krec.nsafe)).getD 0 →
      (s.commitsOf c.agent = [] → exec (.safept idx) s = .next (s.safeptEnd c idx.toNat))
      ∧ (s.commitsOf c.agent ≠ [] → exec (.safept idx) s = .next (State.wait { s with
          commits := s.commits.map fun (m : Commit) => if m.agent == c.agent then { m with left := 0 } else m } c (.safept c idx.toNat))))
    ∧ (∀ i : Nat, c.tail = none → s.preempting g.team = false → s.safeptEnd c i = s.resume c)
    ∧ (∀ i : Nat, c.tail = none → s.preempting g.team = true →
        (State.group? (s.safeptEnd c i) g.core g.slot).map (·.run) = some (.saving (.safept i) none))
    ∧ exec .yield s = .next (State.finish (s.setGroup { g with yielded := some (s.issueCount g.core,
        (s.groups.filter fun h => h.core == g.core && h.slot != g.slot && s.unheld h && !s.yieldOpen h).map (·.slot)) }) c)
    ∧ exec .exit s = .next ((s.endGroup g.core g.slot).handCheck g.team))
  ∧ (∀ (s : State) (g : Group), s.Inv → s.group? g.core g.slot = some g → (∀ h ∈ s.groups, s.group? h.core h.slot = some h) →
    let u := s.endGroup g.core g.slot
    (∀ m ∈ u.commits, m.agent = .group g.core g.slot → m.cells = [] ∧ m.regs = [] ∧ m.flags = 0)
    ∧ (∀ j < windowBytes g.vregs g.width, u.byte (storeKey g.core (g.win + j)) = 0)
    ∧ (∀ j < 1024, u.byte (storeKey g.core (g.sblk + j)) = 0)
    ∧ (s.opsOf g.core g.slot = false → u.group? g.core g.slot = none)
    ∧ (∀ h, u.group? g.core g.slot = some h → h.run = .exited)
    ∧ ∀ t, s.team? g.team = some t →
      ((∃ h ∈ s.groups, h.team = g.team ∧ h ≠ g ∧ h.run ≠ .exited) → u.team? g.team = some t)
      ∧ ((∀ h ∈ s.groups, h.team = g.team → h ≠ g → h.run = .exited) → ∀ v, u.team? g.team = some v → v.exited = true))
  ∧ ∀ s c k, State.ProofIssuing s c k →
    (s.heldLock c.agent = none → exec .yield s = .next (s.finish c) ∧ exec .exit s = .next (s.halt k))
    ∧ LockTraps s c .yield ∧ LockTraps s c .exit
    ∧ ∀ idx, exec (.safept idx) s = .next (State.halt (s.setProof { s.proof k with pc := c.pc }) k)

/-- TRAP completes and reports the following instruction; BRK reports itself, with its code (07 R177, 14 R288). A trap stops its group
at the pc that it keeps and reports, and changes nothing else; its record is that of R290 and joins the queue of the cluster's proof core
once the group's pending commits are complete, at once where it has none (01 R32). The queue takes every record of a stopped group; of the
NOSTOP records it holds 32, and ORPHOVF counts those that it cannot take. On a proof core a trap halts the core at the instruction and
reports it to the host (R287). -/
def Obligations.TrapAndBreakAreTaken : Prop :=
  (∀ (s : State) (c : Cur) (g : Group) (t : Team) (l : Launch) (pc x y : DWord) (cause code : Nat),
    c.agent = .group g.core g.slot → s.group? g.core g.slot = some g → s.team? g.team = some t → s.launch? t.launch = some l →
    let r : TrapRec :=
      { a := recordA t.num (s.partOf g.core) (decide (1 < t.seats.length)) false g.core g.slot l.hw code cause
        b := pc &&& 0x1FFFFFFFFFFFFFF, c := x, d := y }
    let stopped := fun (queued : Bool) => { s.setGroup { g with pc := pc, run := .trapped r queued } with
      commits := s.commits.map fun (m : Commit) => if m.agent == c.agent then { m with left := 0 } else m }
    ((∃ m ∈ s.commits, m.agent = c.agent) → s.trapAt c pc cause code x y = stopped false)
    ∧ ((∀ m ∈ s.commits, m.agent ≠ c.agent) → s.trapAt c pc cause code x y = (stopped true).queueRecord (g.core / 4) false r))
  ∧ (∀ (team part core slot hw code cause : Nat) (paired nostop : Bool), part < 8 → slot < 32 → hw < 64 → code < 256 → cause < 256 →
    (recordA team part paired nostop core slot hw code cause).toNat = cause + 2 ^ 8 * code + 2 ^ 16 * hw + 2 ^ 22 * slot + 2 ^ 27 * (core % 4)
      + 2 ^ 29 * nostop.toNat + 2 ^ 30 * paired.toNat + 2 ^ 32 * part + 2 ^ 48 * (team % 2 ^ 16))
  ∧ (∀ (s : State) (g : Group) (r : TrapRec), s.group? g.core g.slot = some g → g.run = .trapped r false →
    ((∃ m ∈ s.commits, m.agent = .group g.core g.slot) → s.settleTrap g.core g.slot = s)
    ∧ ((∀ m ∈ s.commits, m.agent ≠ .group g.core g.slot) →
      s.settleTrap g.core g.slot = State.queueRecord (s.setGroup { g with run := .trapped r true }) (g.core / 4) false r))
  ∧ (∀ (s : State) (k : Nat) (nostop : Bool) (r : TrapRec),
    let p := s.proof k
    let full := nostop = true ∧ 32 ≤ (p.queue.filter (·.1)).length
    (full → s.queueRecord k nostop r = s.setProof { p with orphovf := p.orphovf + 1 })
    ∧ (¬ full → s.queueRecord k nostop r = s.setProof { p with queue := p.queue ++ [(nostop, r)] }))
  ∧ (∀ (s : State) (c : Cur) (k : Nat) (pc x y : DWord) (cause code : Nat), c.agent = .proof k →
    s.trapAt c pc cause code x y = { s.setProof { s.proof k with pc := pc, halted := true, wait := none } with
      boot := { s.boot with halt := s.boot.halt ||| 2 ^ k, msix := s.boot.msix ++ [1] } })
  ∧ ∀ s c, State.Issuing s c → ∀ code : Byte,
    exec (.brk code) s = .next (s.trapAt c c.pc 0x0F code.toNat 0 0)
    ∧ (∀ g, State.GroupIssuing s c g → c.tail = none →
      exec (.trap code) s = .next (State.trapAt (s.goTo c c.next) c c.next 0x10 code.toNat 0 0))
    ∧ ∀ k, State.ProofIssuing s c k → exec (.trap code) s = .next (s.trapAt c c.pc 0x10 code.toNat 0 0)

/-- RDSR reads every special register, %lane into a vector; WRSR writes %fstat, under the flags that commit in the same cycle (02
R47), and %dsel; %dsel and %ddata need the diagnostic privilege, and %ddata is read only (07 R178, R179, 14 R284; log 33). The registers of a group have the values of
R179, and %ddata is the counter that %dsel selects, all ones where it selects none (17 R367). How far the clock of a die other than die 0
is off is free (log 9). -/
def Obligations.SpecialRegistersAreReadAndWritten : Prop :=
  (∀ (s : State) (g : Group) (t : Team) (l : Launch), s.team? g.team = some t → s.launch? t.launch = some l →
    let is := fun (r : SpReg) (x : Nat) => s.special g r = .ofNat 64 x
    (g.core < 48 → is .clock s.cycle)
    ∧ (48 ≤ g.core → s.special g .clock = .ofNat 64 s.cycle + Config.dieClockOffset (g.core / 4 / 12))
    ∧ is .group g.index ∧ is .team t.num ∧ is .core g.core ∧ is .cluster (g.core / 4) ∧ is .fstat g.fstat.toNat ∧ is .kdata t.krec.kdata
    ∧ is .ngroups t.krec.groups ∧ is .width g.width ∧ is .vregs g.vregs ∧ s.special g .kargs = l.kargs ∧ s.special g .dsel = g.dsel
    ∧ s.special g .ddata = s.ddata g.dsel ∧ (s.diagOk g = true ↔ l.diag = true ∨ l.priv = true))
  ∧ (∀ (s : State) (sel : DWord),
    let kind := sel.toNat / 2 ^ 12 % 2 ^ 4
    let sk := sel.toNat / 2 ^ 8 % 2 ^ 4
    let pos := sel.toNat % 2 ^ 7
    let y := s.lane sk pos
    let none_ := s.ddata sel = 0xFFFFFFFFFFFFFFFF
    (kind = 0 ∨ 6 ≤ kind → none_)
    ∧ (kind = 1 ∨ kind = 2 → 67 < pos → none_)
    ∧ (kind = 1 → pos ≤ 67 → s.ddata sel = .ofNat 64 y.age)
    ∧ (kind = 2 → pos ≤ 67 → s.ddata sel
      = .ofNat 64 (y.st + 2 ^ 8 * (if y.st = 2 then y.replaced else 0) + 2 ^ 16 * (if y.st = 0 then 0x1FF else y.plane)))
    ∧ (kind = 3 → s.ddata sel = .ofNat 64 (s.socket sk).resumes)
    ∧ (kind = 4 → s.ddata sel = .ofNat 64 (s.socket sk).discards)
    ∧ (kind = 5 → s.ddata sel = .ofNat 64 (s.cadence.tick.toNat + 2 ^ 32 * s.cadence.level))) ∧
  (∀ s c g, State.GroupIssuing s c g → ∀ (gd : MReg) (d : Byte) (a : SReg),
    (∀ r : SpReg, r ≠ .lane → (isDiag r = true → s.diagOk g = true) →
      exec (.rdsr gd r d) s = .next (State.finish (s.setSregA c.agent d.toNat (s.special g r)) c))
    ∧ exec (.rdsr gd .lane d) s = .next (s.putV c g d.toNat (g.lanes gd) fun i => (i, fNone))
    ∧ exec (.wrsr .fstat a) s = .next (State.finish (s.setGroup { g with
        fstat := .ofNat 6 (s.sreg g a.toNat).toNat ||| (if g.late.1 = s.cycle then g.late.2 else 0) }) c)
    ∧ (s.diagOk g = true → exec (.wrsr .dsel a) s
        = .next (State.finish (s.setGroup { g with dsel := s.sreg g a.toNat &&& 0xFF7F }) c))
    ∧ (s.diagOk g = false → exec (.wrsr .dsel a) s = .next (s.trap c 0x04)
        ∧ exec (.rdsr gd .dsel d) s = .next (s.trap c 0x04) ∧ exec (.rdsr gd .ddata d) s = .next (s.trap c 0x04)
        ∧ exec (.wrsr .ddata a) s = .next (s.trap c 0x04))
    ∧ (s.diagOk g = true → exec (.wrsr .ddata a) s = .next (s.trap c 0x01)))
  ∧ ∀ s c k, State.ProofIssuing s c k → ∀ (gd : MReg) (d : Byte),
    exec (.rdsr gd .clock d) s = .next (State.finish (s.setSregA c.agent d.toNat (s.clock (k / 12))) c)
    ∧ exec (.rdsr gd .cluster d) s = .next (State.finish (s.setSregA c.agent d.toNat (.ofNat 64 k)) c)
    ∧ ∀ r : SpReg, r ≠ .clock → r ≠ .cluster → exec (.rdsr gd r d) s = .next (s.trap c 0x01)

/-! ### Local access (08 R182 to R193) -/

/-- Vector loads and stores, unit, offset and broadcast, long and literal forms: with every check passed, each active lane's
access goes in flight, due by its own latency, and a load's results commit later (R182 to R187); a lane that fails a check traps, as
R181 orders the checks: they are those of 01 R22 and R23's regions, of alignment, and of 03 R81's chase spans. A load of an uncorrectable word
takes UNCORR (18 R390). An access that may not be performed yet does not issue and is tried again: one after an acquire whose read is not
performed before it (04 R101), a release before the accesses ahead of it (R100), and on a proof core one after a debug access (14 R296). -/
def Obligations.VectorLoadsAndStoresGoInFlight : Prop :=
  (∀ (s : State) (a : Agent) (rel : Bool) (lat n : Nat), s.orderHold a rel lat ≤ n ↔ ∀ l ∈ s.locals, l.agent = a →
    (l.acq = true → l.due + 3 ≤ n + lat) ∧ (rel = true → l.due + 2 ≤ n + lat) ∧ (l.op.isDebug = true → l.due + 3 ≤ n + lat))
  ∧ (∀ (s : State) (c : Cur) (g : Group) (n : Nat) (w : Wait), c.agent = .group g.core g.slot → s.group? g.core g.slot = some g →
    s.retryAt c n = s.setGroup { g with lastIssue := c.last, notBefore := max n (s.cycle + 1) }
    ∧ s.waitAgain c w = s.setGroup { g with run := .waiting w, lastIssue := c.last })
  ∧ (∀ (s : State) (a : Agent) (key n : Nat), s.ownPending a key n = true ↔
    ∃ l ∈ s.locals, l.agent = a ∧ l.op.writes = true ∧ l.addr < key + n ∧ key < l.addr + l.size) ∧
  (∀ (s : State) (g : Group) (acc : List Nat) (store plain8 : Bool) (a n : Nat),
    let ap := a / 2 ^ 28 % 16
    let off := a % 2 ^ 28
    let step := s.addrStep g acc store plain8 a n
    (ap ∉ acc → step = 1)
    ∧ (ap ∈ acc →
      (s.aperture g a = .none → step = 1) ∧ (s.aperture g a = .absent → step = 2)
      ∧ ∀ r, s.aperture g a = .region r →
        (a % n ≠ 0 ∨ (ap = 8 ∧ plain8 = false) → step = 3)
        ∧ (a % n = 0 → (ap = 8 → plain8 = true) →
          (r.size < off + n → step = 4)
          ∧ (off + n ≤ r.size →
            let touched := ∃ e ∈ s.chases, (e.span.dest = true ∨ store = true) ∧ e.span.core = r.core
              ∧ r.base + off < e.span.hi ∧ e.span.lo < r.base + off + n
            (touched → step = 5) ∧ (¬ touched → step = 0)))))
  ∧ (∀ (s : State) (g : Group) (t : Team) (a : Nat), s.team? g.team = some t → (t.seat? g.core).isSome = true →
    let ap := a / 2 ^ 28 % 16
    let is := fun (core base size lat : Nat) => s.aperture g a = .region { core := core, base := base, size := size, lat := lat }
    let folio := t.krec.folio
    let k := 4 * (g.core / 4) + (ap - 4)
    (ap = 0 ∨ ap = 8 → is g.core (t.base g.core) folio 20)
    ∧ (ap = 1 → is g.core g.win (g.vregs * 4 * g.width) 20)
    ∧ (ap = 2 → is g.core g.sblk 1024 20)
    ∧ (ap = 3 → (∀ x, t.partner? g.core = some x → is x.core x.folio folio 34)
      ∧ (t.partner? g.core = none → ∃ r, s.aperture g a = .region r ∧ r.size = 0))
    ∧ (4 ≤ ap → ap ≤ 7 →
      (k = g.core → is k (t.base k) folio 20)
      ∧ (k ≠ g.core → ∀ x, t.partner? g.core = some x → x.core = k → is k x.folio folio 34)
      ∧ (k ≠ g.core → (∀ x, t.partner? g.core = some x → x.core ≠ k) →
        (∀ u, s.peer? t k = some u → is k (u.base k) u.krec.folio (if k / 2 = g.core / 2 then 34 else 60))
        ∧ (s.peer? t k = none → s.aperture g a = .absent)))
    ∧ (9 ≤ ap → s.aperture g a = .none))
  ∧ ∀ s c g, State.GroupIssuing s c g → ∀ (gd : MReg) (wd : Width) (d : VReg) (a : SReg),
    let n := wsize wd
    let base := s.src c a % 2 ^ 32
    let unit := fun (disp : Nat) => lanesAt (g.lanes gd) fun i => (base + disp + i * n) % 2 ^ 32
    let off := fun (b : VReg) (disp : Nat) => lanesAt (g.lanes gd) fun i => (base + disp + s.vlane g b.toNat i) % 2 ^ 32
    let same := fun (disp : Nat) => lanesAt (g.lanes gd) fun _ => (base + disp) % 2 ^ 32
    let load := fun (la : BitVec 4) (sx : Bool) (as : List (Nat × Nat)) =>
      if as = [] then s.finish c
      else State.launchLocals (State.later { s with uid := s.uid + 1 } c (s.latOf g as) la.toNat id) (as.map fun x =>
        { uid := s.uid, agent := c.agent, due := s.cycle + (s.locate g x.2).2 - 2, commit := s.uid + 1, addr := (s.locate g x.2).1
          size := n, acq := false, op := .load sx (laneDst g d.toNat x.1 n) none })
    let LoadsAs := fun (i : BitVec 4 → Bool → Instr) (as : List (Nat × Nat)) => ∀ la sx,
      TrapsAt s c g apAll false (wd == .w) n as (i la sx)
      ∧ (LanesOk s g false false (wd == .w) n as → HeldBack s c false (min (s.latOf g as) 20) (i la sx)
        ∧ (Timely s c false (min (s.latOf g as) 20) → TakesUncorr s c (as.map fun x => ((s.locate g x.2).1, n)) (i la sx)))
      ∧ (LanesOk s g false true (wd == .w) n as → Timely s c false (min (s.latOf g as) 20) → exec (i la sx) s = .next (load la sx as))
    let store := fun (u : Bool) (as : List (Nat × Nat)) =>
      State.launchLocals (State.finish { s with uid := s.uid + 1 } c) (as.map fun x =>
        { uid := s.uid, agent := c.agent, due := s.cycle + (s.locate g x.2).2 - 1, commit := 0, addr := (s.locate g x.2).1, size := n
          acq := false, op := apStore (u && wholeWord as x.2) x.2 (storeValue s g d.toNat x.1 n % 2 ^ (8 * n)) n })
    let StoresAs := fun (i : Instr) (u : Bool) (as : List (Nat × Nat)) =>
      TrapsAt s c g apAll true (wd == .w) n as i
      ∧ (LanesOk s g true false (wd == .w) n as → HeldBack s c (as.any (countsAt u as)) 20 i)
      ∧ (LanesOk s g true false (wd == .w) n as → Timely s c (as.any (countsAt u as)) 20 → exec i s = .next (store u as))
    (∀ m : Byte,
      LoadsAs (fun la sx => .vldLong gd la .unit wd sx d a m) (unit (m.toNat * n))
      ∧ LoadsAs (fun la sx => .vldLong gd la .bcast wd sx d a m) (same (m.toNat * n))
      ∧ (∀ b, LoadsAs (fun la sx => .vldLong gd la (.offset b) wd sx d a m) (off b (m.toNat * n))
        ∧ StoresAs (.vstLong gd (some b) wd d a m) false (off b (m.toNat * n)))
      ∧ StoresAs (.vstLong gd none wd d a m) true (unit (m.toNat * n)))
    ∧ ∀ w : Word,
      LoadsAs (fun la sx => .vldLiteral gd la .unit wd sx d a w) (unit w.toNat)
      ∧ LoadsAs (fun la sx => .vldLiteral gd la .bcast wd sx d a w) (same w.toNat)
      ∧ (∀ b, LoadsAs (fun la sx => .vldLiteral gd la (.offset b) wd sx d a w) (off b w.toNat)
        ∧ StoresAs (.vstLiteral gd (some b) wd d a w) false (off b w.toNat))
      ∧ StoresAs (.vstLiteral gd none wd d a w) true (unit w.toNat)

/-- Scalar loads and stores of groups and proof cores, long and literal forms: they go in flight, or trap (R181, R182, R184, R185), a load of
an uncorrectable word with UNCORR (18 R390); one that may not issue yet is tried again (04 R100, R101). -/
def Obligations.ScalarLoadsAndStoresGoInFlight : Prop :=
  ∀ s c, State.Issuing s c → ∀ (wd : Width) (d a : SReg),
    let n := wsize wd
    let at_ := fun (disp : Nat) => (s.src c a % 2 ^ 32 + disp) % 2 ^ 32
    let load := fun (la : BitVec 4) (sx : Bool) (addr : Nat) =>
      s.launchLoad c la.toNat (accessOf s c addr).1 (accessOf s c addr).2 n sx false d.toNat
    let store := fun (addr : Nat) =>
      s.launchStore c (accessOf s c addr).1 (accessOf s c addr).2 n (apStore false addr (s.src c d % 2 ^ (8 * n)) n)
    let counts := fun (addr : Nat) => addr / 2 ^ 28 % 16 == 8 && addr % 16 == 4
    (∀ (disp : Nat), let addr := at_ disp
      (∀ la sx,
        (∀ m : Byte, disp = m.toNat * n → ScalarTraps s c apAll false (wd == .w) addr n (.sldLong la wd sx d a m))
        ∧ ∀ w : Word, disp = w.toNat → ScalarTraps s c apAll false (wd == .w) addr n (.sldLiteral la wd sx d a w))
      ∧ (AccessOk s c false false (wd == .w) addr n →
        let meets := fun (i : Instr) => HeldBack s c false (accessOf s c addr).2 i
          ∧ (Timely s c false (accessOf s c addr).2 → TakesUncorr s c [((accessOf s c addr).1, n)] i)
        ∀ la sx, (∀ m : Byte, disp = m.toNat * n → meets (.sldLong la wd sx d a m))
          ∧ ∀ w : Word, disp = w.toNat → meets (.sldLiteral la wd sx d a w))
      ∧ (AccessOk s c false true (wd == .w) addr n → Timely s c false (accessOf s c addr).2 → ∀ la sx,
        (∀ m : Byte, disp = m.toNat * n → exec (.sldLong la wd sx d a m) s = .next (load la sx addr))
        ∧ ∀ w : Word, disp = w.toNat → exec (.sldLiteral la wd sx d a w) s = .next (load la sx addr)))
    ∧ (∀ (disp : Nat), let addr := at_ disp
      (∀ m : Byte, disp = m.toNat * n → ScalarTraps s c apAll true (wd == .w) addr n (.sstLong wd d a m))
      ∧ (∀ w : Word, disp = w.toNat → ScalarTraps s c apAll true (wd == .w) addr n (.sstLiteral wd d a w))
      ∧ (AccessOk s c true false (wd == .w) addr n → let meets := HeldBack s c (counts addr) (accessOf s c addr).2
        (∀ m : Byte, disp = m.toNat * n → meets (.sstLong wd d a m)) ∧ ∀ w : Word, disp = w.toNat → meets (.sstLiteral wd d a w))
      ∧ (AccessOk s c true false (wd == .w) addr n → Timely s c (counts addr) (accessOf s c addr).2 →
        (∀ m : Byte, disp = m.toNat * n → exec (.sstLong wd d a m) s = .next (store addr))
        ∧ ∀ w : Word, disp = w.toNat → exec (.sstLiteral wd d a w) s = .next (store addr)))

/-- LL takes the granule's lock bit and SU gives it up, at the granule that LL took (08 R188 to R190); scratch atomics take their
granules' lock bits, go in flight, and their old values commit later (R192, R193). An address that fails R181 traps first. Where a bit is not
free they queue for it: requesters of one bit come in order of their first attempt, the lower core and slot first in one cycle; a free bit
is granted to the head of its queue, to an agent its lowest one first; who lacks none any more issues in the next cycle (R191). -/
def Obligations.LockedAccessesAndAtomicsComplete : Prop :=
  (∀ (s : State),
    let bit := fun (x : LockReq) => (x.core, x.bank, x.bit)
    let first := fun (x : LockReq) => x ∈ s.lockReqs ∧ s.lockOf (bit x) = none ∧ ∀ y ∈ s.lockReqs,
      (bit y = bit x → y ≠ x → x.since < y.since ∨ (x.since = y.since ∧ agentOrder x.agent < agentOrder y.agent))
      ∧ (y.agent = x.agent → x.rank ≤ y.rank)
    ((∀ x ∈ s.lockReqs, x.bank < 48 ∧ x.bit < 8) →
      (∀ x, s.grantable = some x → first x) ∧ (s.grantable = none → ∀ x, ¬ first x))
    ∧ (∀ k n, agentOrder (.group k n) = 32 * k + n) ∧ (∀ x : LockReq, x.rank = (x.core * 48 + x.bank) * 8 + x.bit)
    ∧ s.grantLocks 0 = s ∧ (∀ n, s.grantable = none → s.grantLocks n = s)
    ∧ (∀ n x, s.grantable = some x → s.grantLocks (n + 1) = State.grantLocks (State.lockReady { s with
        locks := s.locks ++ [{ core := x.core, bank := x.bank, bit := x.bit, holder := x.agent, atomic := true, until_ := 0, ll := x.ll }]
        lockReqs := s.lockReqs.filter (· != x) } x.agent) n)
    ∧ (∀ g, s.group? g.core g.slot = some g →
      let a : Agent := .group g.core g.slot
      let waits := ∃ x ∈ s.lockReqs, x.agent = a
      (waits ∨ g.run ≠ .waiting .lock → s.lockReady a = s)
      ∧ (¬ waits → g.run = .waiting .lock → s.lockReady a = s.setGroup { g with run := .ready, notBefore := s.cycle + 1, held := true }))
    ∧ ∀ a, (s.behindLL a = true ↔ ∃ x ∈ s.lockReqs, x.agent = a ∧ (∀ y ∈ s.lockReqs, y.agent = a → x.rank ≤ y.rank)
      ∧ ∃ l, s.lockOf (bit x) = some l ∧ l.ll = true))
  ∧
  (∀ s c, State.Issuing s c → ∀ (dbl : Bool) (o : Option Scope) (d a : SReg) (m : Byte),
    let n := if dbl then 8 else 4
    let addr := (s.src c a % 2 ^ 32 + m.toNat * n) % 2 ^ 32
    let key := (accessOf s c addr).1
    let lat := (accessOf s c addr).2
    (∀ la : BitVec 4, s.heldLock c.agent = none → AccessOk s c false true false addr n → BitsFree s c [key] → Timely s c false lat →
      let t := s.launchLoad c la.toNat key lat n false o.isSome d.toNat
      (∀ g, State.GroupIssuing s c g → exec (.ll la dbl o d a m) s
        = .next (State.setHeld (t.holdLL c.agent (lockId key)) c.agent (some (key / 2 ^ 22, key % 2 ^ 22 / 16 * 16))))
      ∧ ∀ k, State.ProofIssuing s c k → exec (.ll la dbl o d a m) s = .next (t.setHeld c.agent (some (0, addr / 16 * 16))))
    ∧ (sameGranule s c.agent addr = true → AccessOk s c true false false addr n → Timely s c o.isSome lat →
      let t := State.setHeld (s.launchStore c key lat n
        (if isZeroReg addr n then .store [] else .store (leBytes n (s.src c d % 2 ^ (8 * n))))) c.agent none
      let upTo := fun (l : Lock) =>
        if l.at_ (lockId key) && l.holder == c.agent && !l.atomic then { l with atomic := true, until_ := s.cycle + lat - 1 } else l
      exec (.su dbl o d a m) s = .next { t with locks := t.locks.map upTo })
    ∧ (∀ la : BitVec 4, s.heldLock c.agent = none → AccessOk s c false false false addr n →
      (∀ g, State.GroupIssuing s c g → QueuesForBits s c true [key] (.ll la dbl o d a m))
      ∧ (BitsFree s c [key] → HeldBack s c false lat (.ll la dbl o d a m)
        ∧ (Timely s c false lat → TakesUncorr s c [(key, n)] (.ll la dbl o d a m))))
    ∧ (sameGranule s c.agent addr = true → AccessOk s c true false false addr n → HeldBack s c o.isSome lat (.su dbl o d a m))
    ∧ (s.heldLock c.agent ≠ none → ∀ la, exec (.ll la dbl o d a m) s = .next (s.trap c 0x15))
    ∧ (sameGranule s c.agent addr = false → exec (.su dbl o d a m) s = .next (s.trap c 0x15))
    ∧ (s.heldLock c.agent = none → ∀ la, ScalarTraps s c apAll false false addr n (.ll la dbl o d a m))
    ∧ (sameGranule s c.agent addr = true → ScalarTraps s c apAll true false addr n (.su dbl o d a m)))
  ∧ (∀ s c g, State.GroupIssuing s c g → ∀ (gd : MReg) (la : BitVec 4) (op : AtOp) (o : AOrd) (sc : AScope) (t : Ty) (d a b x : VReg),
    let as := lanesAt (g.lanes gd) fun i => s.vlane g a.toNat i
    let n := atomicSize t
    let lat := s.latOf g as
    let keys := as.map fun y => (s.locate g y.2).1
    TrapsAt s c g apAll true false n as (.vatom gd la op o sc t d a b x)
    ∧ (LanesOk s g true false false n as → as ≠ [] → QueuesForBits s c false keys (.vatom gd la op o sc t d a b x)
      ∧ (BitsFree s c keys → HeldBack s c (orderRel o) (min lat 20) (.vatom gd la op o sc t d a b x)
        ∧ (Timely s c (orderRel o) (min lat 20) →
          TakesUncorr s c (as.map fun y => ((s.locate g y.2).1, n)) (.vatom gd la op o sc t d a b x))))
    ∧ (LanesOk s g true true false n as →
      (as = [] → exec (.vatom gd la op o sc t d a b x) s = .next (s.finish c))
      ∧ (as ≠ [] → BitsFree s c keys → Timely s c (orderRel o) (min lat 20) →
        let r := State.holdBits { s with uid := s.uid + 1 } c.agent (dedupBits (keys.map lockId)) (s.cycle + lat - 1)
        exec (.vatom gd la op o sc t d a b x) s = .next ((r.later c lat la.toNat id).launchLocals (as.map fun y =>
          { uid := s.uid, agent := c.agent, due := s.cycle + (s.locate g y.2).2 - 1, commit := s.uid + 1, addr := (s.locate g y.2).1
            size := n, acq := orderAcq o, op := atomicOp op t (s.vlane g b.toNat y.1) (s.vlane g x.toNat y.1) y.2
              ((List.range 4).map (g.vkey d.toNat y.1 + ·)) none })))))
  ∧ ∀ s c, State.Issuing s c → ∀ (la : BitVec 4) (op : AtOp) (o : AOrd) (sc : AScope) (t : Ty) (d a b x : SReg),
    let n := atomicSize t
    let addr := s.src c a % 2 ^ 32
    let key := (accessOf s c addr).1
    let lat := (accessOf s c addr).2
    let flight : Local :=
      { uid := s.uid, agent := c.agent, due := s.cycle + lat - 1, commit := s.uid + 1, addr := key, size := n, acq := orderAcq o
        op := atomicOp op t (s.src c b) (s.src c x) addr (scalarDst s c.agent d.toNat).1 (scalarDst s c.agent d.toNat).2 }
    ScalarTraps s c apAll true false addr n (.satom la op o sc t d a b x)
    ∧ (AccessOk s c true false false addr n →
      (∀ g, State.GroupIssuing s c g → QueuesForBits s c false [key] (.satom la op o sc t d a b x))
      ∧ (BitsFree s c [key] → HeldBack s c (orderRel o) lat (.satom la op o sc t d a b x)
        ∧ (Timely s c (orderRel o) lat → TakesUncorr s c [(key, n)] (.satom la op o sc t d a b x))))
    ∧ (AccessOk s c true true false addr n → BitsFree s c [key] → Timely s c (orderRel o) lat →
      (∀ g, State.GroupIssuing s c g → exec (.satom la op o sc t d a b x) s
        = .next (((State.holdBits { s with uid := s.uid + 1 } c.agent [lockId key] (s.cycle + lat - 1)).later c lat la.toNat id).launchLocals [flight]))
      ∧ ∀ k, State.ProofIssuing s c k → exec (.satom la op o sc t d a b x) s
        = .next ((State.later { s with uid := s.uid + 1 } c lat la.toNat id).launchLocals [flight]))

/-- An access of the cycle is performed in lane order once it is due, a read after the writes of the cycle: loads, stores, atomics,
counted additions, initialisations of arrival words (03 R74), forme reads and debug accesses. A result commits once it is due, counted
and no access is left to feed it, and after a commit of the same group that issued later and falls into the same cycle, which stood in its
window (01 R31); a forme's after that of the follower's core in the same cycle (04 R92, 09 R207). A loaded value is extended with zeros or with its sign (08
R182, R183), an atomic leaves the value of R193's table and gives the old one, and a store through aperture 0x8 to COUNT that does not
write the whole word counts (03 R75); one to the bytes of s0 writes nothing (01 R19). -/
def Obligations.AccessesPerformAndResultsCommit : Prop :=
  (∀ (s : State) (uid : Nat),
    let now := s.locals.filter fun l => l.uid == uid && decide (l.due ≤ s.cycle)
    let rest := { s with locals := s.locals.filter fun l => !(l.uid == uid && decide (l.due ≤ s.cycle)) }
    now ≠ [] → (∀ l ∈ now, l.op.writes = false → ∀ m ∈ s.locals, m.uid ≠ uid → m.op.writes = true → s.cycle < m.due) →
    exec (.localAccessPerform uid) s = .next (State.reapExited ((groupsOf (now.map (·.agent))).foldl (fun s k => s.settleGroup k.1 k.2)
      (State.wakeOwn (State.performAll rest now)))))
  ∧ (∀ (s : State) (ls : List Local),
    let t := ls.foldl State.performAny s
    let stored := ls.flatMap fun l => match l.op with
      | .store bs => cellsAt l.addr bs
      | _ => []
    s.performAll ls = { t with poison := t.poison.filter fun w => !covered w stored })
  ∧ (∀ (s : State) (l : Local) (bs : List Byte), l.op = .store bs → s.performAny l = s.write (cellsAt l.addr bs))
  ∧ (∀ (s : State) (l : Local) (n : Nat), l.op = .count n → s.performAny l = s.countAdd (l.addr / 16 * 16) n 0)
  ∧ (∀ (s : State) (l : Local) (n : Nat), l.op = .init n → s.performAny l = s.initWord l.addr n)
  ∧ (∀ (s : State) (l : Local) (team r : Nat), l.op = .forme team r →
    s.performAny l = { s with commits := s.commits.map fun (m : Commit) =>
      if m.uid == l.commit then { m with formes := m.formes ++ [(team, r, .ofNat 512 (s.le l.addr 64))] } else m })
  ∧ (∀ (s : State) (l : Local) (core slot off : Nat) (reg : Nat), (∀ bs, l.op = .debug core slot off (some bs) reg →
      s.performAny l = s.debugWrite core slot (cellsAt off bs))
    ∧ (l.op = .debug core slot off none reg →
      (s.group? core slot = none → s.performAny l = s.feed l.commit [] (dstReg (some reg) 0) fNone)
      ∧ ∀ g, s.group? core slot = some g → s.performAny l = State.feed { s with fresh := s.fresh + 1 } l.commit []
        (dstReg (some reg) (leNat ((List.range l.size).map fun i => (s.debugByte g (off + i)).getD 0))) fNone))
  ∧ (∀ (s : State) (l : Local) (sx : Bool) (dst : List Nat) (reg : Option Nat), l.op = .load sx dst reg →
    let x := s.le l.addr l.size
    s.performAny l = s.feed l.commit (dst.zip (leBytes dst.length (loadValue sx l.size dst.length x))) (dstReg reg (loadValue sx l.size 8 x)) fNone)
  ∧ (∀ (s : State) (l : Local) (op : AtOp) (t : Ty) (b x : Nat) (dst : List Nat) (reg : Option Nat), l.op = .atomic op t b x dst reg →
    let old := s.le l.addr l.size
    s.performAny l = State.feed (s.write (cellsLE l.addr l.size (atomicStep op t old b x).1)) l.commit
      (dst.zip (leBytes dst.length (atomicOld t old dst.length))) (dstReg reg (atomicOld t old 8)) (atomicStep op t old b x).2)
  ∧ (∀ size n x : Nat, 0 < size → size ≤ n → x < 2 ^ (8 * size) →
    loadValue false size n x = x
    ∧ loadValue true size n x = if 2 ^ (8 * size - 1) ≤ x then x + 2 ^ (8 * n) - 2 ^ (8 * size) else x)
  ∧ (∀ (t : ITy) (old b x : Nat),
    let w := t.width
    let is := fun (op : AtOp) (y : Int) => atomicStep op (.int t) old b x = ((y % 2 ^ w).toNat, fNone)
    is .add (valI t old + valI t b) ∧ is .sub (valI t old - valI t b) ∧ is .min (min (valI t old) (valI t b)) ∧ is .max (max (valI t old) (valI t b))
    ∧ is .and (old &&& b : Nat) ∧ is .or (old ||| b : Nat) ∧ is .xor (old ^^^ b : Nat) ∧ is .exch b
    ∧ is .cas (if old % 2 ^ w = x % 2 ^ w then b else old)
    ∧ ∀ n, atomicOld (.int t) old n = putI t (8 * n) (valI t old))
  ∧ (∀ (f : FTy) (old b x n : Nat),
    let y := sumX .rn [decF f old, decF f b]
    atomicStep .fadd (.flt f) old b x = ((roundF f .rn false y.1).1, y.2 ||| (roundF f .rn false y.1).2) ∧ atomicOld (.flt f) old n = old)
  ∧ (∀ (whole : Bool) (addr x n : Nat),
    let zero := addr / 2 ^ 28 % 16 = 2 ∧ addr % 2 ^ 28 + n ≤ 8
    let counts := addr / 2 ^ 28 % 16 = 8 ∧ addr % 16 = 4 ∧ whole = false
    (zero → apStore whole addr x n = .store [])
    ∧ (¬ zero → counts → apStore whole addr x n = .count (x % 2 ^ 32))
    ∧ (¬ zero → ¬ counts → apStore whole addr x n = .store (leBytes n x)))
  ∧ ∀ (s : State) (m : Commit), s.commits.find? (fun x => x.uid == m.uid && x.left == 0 && decide (x.due ≤ s.cycle)) = some m →
    let held := (∃ l ∈ s.locals, l.commit = m.uid) ∨ s.partnerForme m = true
      ∨ ∃ o ∈ s.commits, o.agent = m.agent ∧ o.left = 0 ∧ o.due ≤ s.cycle ∧ m.uid < o.uid
    (held → exec (.lookaheadCommit m.uid) s = .next s)
    ∧ (¬ held →
    let t := State.afterCommit (State.applyCommit { s with commits := s.commits.filter (·.uid != m.uid) } m) m.agent
    exec (.lookaheadCommit m.uid) s = .next (match m.agent with
      | .group k n => t.settleGroup k n
      | .proof _ => t)
    ∧ ∀ (u : State) (g : Group), u.group? g.core g.slot = some g →
      u.afterCommit (.group g.core g.slot) = u.setGroup { g with notBefore := max g.notBefore (u.cycle + 1) })

/-- R73, on an arrival word's four little-endian words: without V or a target the bytes are counted and PRE is set; else
OVR tells of a sum beyond the target, and each passed target takes the count down and the generation up. R74: an initialisation sets
the target and V, clears OVR, ERR and NRF, and then passes the target as often as the count already reaches it. -/
def Obligations.CountedAdditionFollowsR73 : Prop :=
  (∀ (s : State) (word n : Nat), s.Inv →
    let target := s.le word 4
    let count := (s.le (word + 4) 4 + n) % 2 ^ 32
    let gen := s.le (word + 8) 4
    let flags := s.le (word + 12) 4
    let t := s.countAdd word n 0
    t.le word 4 = target
    ∧ (flags % 2 = 0 ∨ target = 0 → t.le (word + 4) 4 = count ∧ t.le (word + 8) 4 = gen ∧ t.le (word + 12) 4 = flags ||| 16)
    ∧ (flags % 2 = 1 → target ≠ 0 → t.le (word + 4) 4 = count % target ∧ t.le (word + 8) 4 = (gen + count / target) % 2 ^ 32
      ∧ t.le (word + 12) 4 = (if target < count then flags ||| 2 else flags))
    ∧ (∀ a, a < word ∨ word + 16 ≤ a → t.byte a = s.byte a)
    ∧ ∀ g ∈ s.groups, g.run = .waiting (.arrival word) → s.group? g.core g.slot = some g →
      flags % 2 = 1 → target ≠ 0 → target ≤ count → (t.group? g.core g.slot).map (·.run) = some .ready)
  ∧ ∀ (s : State) (word target : Nat), s.Inv → target < 2 ^ 32 →
    let count := s.le (word + 4) 4
    let gen := s.le (word + 8) 4
    let flags := s.le (word + 12) 4 / 16 * 16 + 1
    let t := s.initWord word target
    t.le word 4 = target
    ∧ (target = 0 → t.le (word + 4) 4 = count ∧ t.le (word + 8) 4 = gen ∧ t.le (word + 12) 4 = flags)
    ∧ (target ≠ 0 → t.le (word + 4) 4 = count % target ∧ t.le (word + 8) 4 = (gen + count / target) % 2 ^ 32
      ∧ t.le (word + 12) 4 = (if target < count then flags ||| 2 else flags))
    ∧ (∀ a, a < word ∨ word + 16 ≤ a → t.byte a = s.byte a)
    ∧ ∀ g ∈ s.groups, g.run = .waiting (.arrival word) → s.group? g.core g.slot = some g →
      target ≠ 0 → target ≤ count → (t.group? g.core g.slot).map (·.run) = some .ready

/-! ### Arrival words, barriers, fences (08 R194 to R196) -/

/-- ARINIT, ARADD, ARWAIT and ARTEST: the initialisation and the addition go in flight for 20 cycles; a wait that holds and
a test read the word's generation and flags; an address that fails R181 traps (R194), and a word that is uncorrectable (18 R390). A read
waits for the group's own writes to the word (R194) and for its acquires, an addition for the accesses before it (04 R100, R101). ARWAIT
takes LOCK under a lock (R190). -/
def Obligations.ArrivalWordInstructionsComplete : Prop :=
  ∀ s c g, State.GroupIssuing s c g → ∀ (sc : Scope) (a : SReg) (off : Byte),
    let addr := (s.src c a % 2 ^ 32 + 16 * off.toNat) % 2 ^ 32
    let key := (s.locate g addr).1
    let ok := fun (store : Bool) => s.addrStep g [0, 8] store true addr 16 = 0 ∧ s.poisoned key 16 = false
    let gen := s.le (key + 8) 4
    let word := gen + 2 ^ 32 * (s.le (key + 12) 4 % 32)
    let ahead := fun (expect : Nat) => (gen + 2 ^ 32 - expect) % 2 ^ 32
    let passed := fun (expect : Nat) => 0 < ahead expect ∧ ahead expect < 2 ^ 31
    let low := fun (r : SReg) => s.src c r % 2 ^ 32
    let traps := fun (store : Bool) (i : Instr) => TrapsAt s c g [0, 8] store true 16 [(0, addr)] i
    (∀ (b : SReg) (w : Word), traps true (.arinitLong a off b) ∧ traps true (.arinitLiteral a off w) ∧ traps true (.araddLong sc a off b)
      ∧ traps true (.araddLiteral sc a off w) ∧ ∀ d, traps false (.artest sc d a off b)
        ∧ (s.heldLock c.agent = none → traps false (.arwait sc d a off b)))
    ∧ (∀ d b : SReg, LockTraps s c (.arwait sc d a off b))
    ∧ (s.addrStep g [0, 8] true true addr 16 = 0 →
      let meets := fun (rel : Bool) (i : Instr) => HeldBack s c rel 20 i ∧ (Timely s c rel 20 → TakesUncorr s c [(key, 16)] i)
      ∀ (b : SReg) (w : Word), meets false (.arinitLong a off b) ∧ meets false (.arinitLiteral a off w) ∧ meets true (.araddLong sc a off b)
        ∧ meets true (.araddLiteral sc a off w))
    ∧ (s.addrStep g [0, 8] false true addr 16 = 0 →
      let own := s.ownPending c.agent key 16
      let meets := fun (i : Instr) => (own = true → exec i s = .next (s.waitAgain c (.ownWrites key 16)))
        ∧ (own = false → HeldBack s c false 2 i ∧ (Timely s c false 2 → TakesUncorr s c [(key, 16)] i))
      ∀ d b : SReg, meets (.artest sc d a off b) ∧ (s.heldLock c.agent = none → meets (.arwait sc d a off b)))
    ∧ (ok true → Timely s c false 20 →
      (∀ b, exec (.arinitLong a off b) s = .next (s.launchStore c key 20 16 (.init (low b))))
      ∧ ∀ w : Word, exec (.arinitLiteral a off w) s = .next (s.launchStore c key 20 16 (.init w.toNat)))
    ∧ (ok true → Timely s c true 20 →
      (∀ b, exec (.araddLong sc a off b) s = .next (s.launchStore c key 20 16 (.count (low b))))
      ∧ ∀ w : Word, exec (.araddLiteral sc a off w) s = .next (s.launchStore c key 20 16 (.count w.toNat)))
    ∧ (ok false → s.ownPending c.agent key 16 = false → Timely s c false 2 → ∀ d b : SReg,
      (s.heldLock c.agent = none → passed (low b) → exec (.arwait sc d a off b) s = .next (s.putS c d word))
      ∧ (s.heldLock c.agent = none → ¬ passed (low b) →
        exec (.arwait sc d a off b) s = .next (s.waitAgain c (.arrival key)))
      ∧ (passed (low b) → exec (.artest sc d a off b) s = .next (s.putS c d (word + 2 ^ 63)))
      ∧ (¬ passed (low b) → exec (.artest sc d a off b) s = .next (s.putS c d word)))

/-- TMBAR and CLBAR: the group arrives; once every group that has not exited, of the team or of the cluster set, waits at the barrier with
no local access left (04 R114), they all become ready and issue no earlier than the next cycle, and nobody is released before (08 R195).
FENCE
completes at once when none of the accesses that its kind names is in flight, at group scope none on another core's store, whose
latency R97 does not order; otherwise it waits for them, and FENCE_WAIT_END completes it (04 R103, 08 R196). A barrier takes LOCK under a lock
(R190). -/
def Obligations.BarriersAndFencesComplete : Prop :=
  (∀ s c g, State.GroupIssuing s c g → LockTraps s c .tmbar ∧ LockTraps s c .clbar) ∧
  (∀ s c g, State.GroupIssuing s c g → s.heldLock c.agent = none →
    exec .tmbar s = .next ((s.wait c (.tmbar c)).barriers g.team)
    ∧ exec .clbar s = .next ((s.wait c (.clbar c)).barriers g.team))
  ∧ (∀ (s : State) (t : Team), s.team? t.uid = some t →
    let live := s.groups.filter fun g => g.team == t.uid && g.run != .exited
    let set : List Nat := match t.cset with
      | none => [t.uid]
      | some n => (s.teams.filter fun (u : Team) => u.launch == t.launch && u.cset == some n).map Team.uid
    let all := s.groups.filter fun (g : Group) => set.any (fun (u : Nat) => u == g.team) && g.run != .exited
    let performed := fun (g : Group) => ∀ l ∈ s.locals, l.agent ≠ .group g.core g.slot
    let tm := live ≠ [] ∧ ∀ g ∈ live, (∃ c, g.run = .waiting (.tmbar c)) ∧ performed g
    let cl := all ≠ [] ∧ ∀ g ∈ all, (∃ c, g.run = .waiting (.clbar c)) ∧ performed g
    let released := fun (gs : List Group) => gs.foldl (fun s g => match g.barCur with
      | some c => s.resume c
      | none => s) s
    (tm → s.barriers t.uid = released live) ∧ (cl → s.barriers t.uid = released all) ∧ (¬ tm → ¬ cl → s.barriers t.uid = s))
  ∧ (∀ (s : State) (c : Cur) (g : Group), c.agent = .group g.core g.slot → s.group? g.core g.slot = some g → c.tail = none →
    (s.resume c).group? g.core g.slot
      = some { g with run := .ready, notBefore := s.cycle + 1, pc := c.next, fresh := false, checkPc := false })
  ∧ (∀ s c, State.Issuing s c → ∀ (k : FenceKind) (sc : Scope),
    let t := s.fenceCmds c.agent k sc
    let named := fun (l : Local) => l.agent == c.agent && (k != .acq || l.op.reads)
    let away := fun (l : Local) => match c.agent with
      | .group core _ => l.onStore && keyCore l.addr != core
      | .proof _ => false
    let us := dedup ((s.locals.filter fun l => named l && (sc != .grp || away l)).map (·.uid))
    (us = [] → exec (.fence k sc) s = .next (t.finish c))
    ∧ (us ≠ [] →
      (∀ g, State.GroupIssuing s c g → exec (.fence k sc) s = .next (t.wait c (.fence c us)))
      ∧ ∀ p, State.ProofIssuing s c p → exec (.fence k sc) s = .next (t.pwait p (.fence c us))))
  ∧ ∀ (s : State) (c : Cur) (us : List Nat), (∀ l ∈ s.locals, l.uid ∉ us) →
    (∀ g, s.group? g.core g.slot = some g → g.run = .waiting (.fence c us) →
      exec (.fenceWaitEnd (.group g.core g.slot)) s = .next (s.resume c))
    ∧ ∀ p, (s.proof p).wait = some (.fence c us) → exec (.fenceWaitEnd (.proof p)) s = .next (s.resume c)

/-! ### Engine commands (08 R197 to R203) -/

/-- TFETCH, TMCAST and TGATHER: with the descriptor's checks passed, in each receiver's folio, the command waits for the
chase table, is refused by the allowance, or is registered and sent (R197, R198, 03 R66, R80, R85). The first check that fails decides its
trap: the read of the descriptor (08 R181), the plane base, the steps of R66, then the command's own checks. The reads of the descriptor and
of TGATHER's list wait for what writes those bytes, and take UNCORR for an uncorrectable word of them (04 R98, 18 R390). -/
def Obligations.FetchCommandsAreSent : Prop :=
  (∀ (ds : Desc) (plane : Bool) (b folio o0 : Nat),
    let wrong := ds.check plane b folio o0
    let one := ds.ndim = 0 ∨ 5 < ds.ndim ∨ ds.store = 3 ∨ 10 < ds.efmt ∨ (∃ i < ds.ndim, ds.boxN i = 0) ∨ (plane = true ∧ ds.ph = 0)
    let two := (ds.store = 0 ∧ ds.efmt ∈ [5, 6, 7]) ∨ (ds.store = 1 ∧ ds.efmt ∉ [3, 4, 5, 6, 7])
      ∨ (ds.store = 2 ∧ ds.efmt ∉ [1, 2, 3, 4, 8, 9])
      ∨ (plane = true ∧ ds.rowmode = true ∧ (ds.store ≠ 0 ∨ elemHalves ds.efmt ∉ [2, 4] ∨ ds.ndim < 2))
      ∨ (ds.store = 0 ∧ ds.base % ds.unitBytes ≠ 0) ∨ (∃ i, 0 < i ∧ i < ds.ndim ∧ ds.strideN i % ds.unitBytes ≠ 0)
      ∨ (ds.store ≠ 0 ∧ (o0 % ds.unitElems ≠ 0 ∨ ds.boxN 0 % ds.unitElems ≠ 0 ∨ ds.ext.getD 0 0 % ds.unitElems ≠ 0))
      ∨ (plane = true ∧ ds.dbyte % (if ds.store = 1 then bytesPerBlock ds.efmt else 16) ≠ 0)
    let three := (plane = true ∧ (ds.ph < ds.drow + ds.rowsH ∨ 128 * (ds.pw + 1) < ds.dbyte + ds.rowBytes ∨ folio < ds.planeEnd b))
      ∨ folio < 16 * ds.arrw + 16 ∨ folio < 16 * ds.resw + 8
    (one → wrong = some 0x0A) ∧ (¬ one → two → wrong = some 0x09) ∧ (¬ one → ¬ two → three → wrong = some 0x0A)
    ∧ (¬ one → ¬ two → ¬ three → wrong = none)) ∧
  ∀ s c g t, State.GroupIssuing s c g → s.team? g.team = some t → Timely s c false 2 → s.heldCmd c.agent = none → ∀ d a b x : SReg,
    let ds := descAt s c g a
    let base := s.src c b
    let box := fun (org : List Nat) (idx : Option (List Nat)) => ds.items { plane := true, fetch := true } base org idx
    let fits := fun (kind : CmdKind) (its : List Item) =>
      itemsOk ds (spanOf (itemLocs its ++ ds.padBytes base)) (itemUnits kind its) = true
    let three := fun (mask : BitVec 4) => [Instr.tfetch d a b x, .tmcast mask d a b x, .tgather d a b x]
    let at_ := fun (cause addr : Nat) => s.trapAt c c.pc cause 0 (.ofNat 64 addr) 1
    (∀ mask, ∀ i ∈ three mask, TrapsAt s c g apAll false false 64 [(0, s.src c a % 2 ^ 32)] i
      ∧ ReadHeld s c g apAll false (s.src c a % 2 ^ 32) 64 i) ∧
    (ReadsAtIssue s c g apAll (s.src c a % 2 ^ 32) 64 → base % 768 ≠ 0 → ∀ mask, ∀ i ∈ three mask, exec i s = .next (at_ 0x05 base)) ∧
    (ReadsAtIssue s c g apAll (s.src c a % 2 ^ 32) 64 → base % 768 = 0 →
      (let org := s.originAt g x.toNat;
        let its := box org none;
        (∀ n, ds.check true base t.krec.folio (ds.orgN org 0) = some n → exec (.tfetch d a b x) s = .next (s.trap c n)
          ∧ ∀ mask, exec (.tmcast mask d a b x) s = .next (s.trap c n))
        ∧ (ds.check true base t.krec.folio (ds.orgN org 0) = none →
          (¬ fits .fetch its → exec (.tfetch d a b x) s = .next (s.trap c 0x0A))
          ∧ (¬ fits .mcast its → ∀ mask, exec (.tmcast mask d a b x) s = .next (s.trap c 0x0A))
          ∧ (fits .mcast its → ∀ mask : BitVec 4,
            (∃ q < 4, mask.getLsbD q = true ∧ s.mcastFolio t (4 * (g.core / 4) + q) = none) →
            exec (.tmcast mask d a b x) s = .next (at_ 0x08 base))))
      ∧ (let list := s.src c x % 2 ^ 32;
        let key := (s.locate g list).1;
        let n := ds.boxN 1;
        let org := [s.src c x / 2 ^ 32, 0, 0, 0, 0];
        let its := box org (some ((List.range n).map fun i => s.le (key + 4 * i) 4));
        let spans := itemsOk ds (spanOf (itemLocs (box org (some [])) ++ ds.padBytes base)) [] = true;
        let form := ds.ndim = 2 ∧ ds.rowmode = false ∧ ds.store = 0;
        let step := s.listStep g list (4 * n);
        (∀ n, ds.check true base t.krec.folio (ds.orgN org 0) = some n → exec (.tgather d a b x) s = .next (s.trap c n))
        ∧ (ds.check true base t.krec.folio (ds.orgN org 0) = none →
          (¬ spans ∨ ¬ form → exec (.tgather d a b x) s = .next (s.trap c 0x0A))
          ∧ (spans → form →
            (step ≠ 0 → exec (.tgather d a b x) s = .next (at_ ([0, 0x06, 0x08, 0x05, 0x06, 0x07].getD step 0) list))
            ∧ (step = 0 → s.ownPending c.agent key (4 * n) = true → exec (.tgather d a b x) s = .next (s.waitAgain c (.ownWrites key (4 * n))))
            ∧ (step = 0 → s.ownPending c.agent key (4 * n) = false → s.opsOver c.agent key (4 * n) ≠ [] →
              exec (.tgather d a b x) s = .next (s.retryAt c 0))
            ∧ (step = 0 → s.ownPending c.agent key (4 * n) = false → s.opsOver c.agent key (4 * n) = [] →
              TakesUncorr s c [(key, 4 * n)] (.tgather d a b x))
            ∧ (step = 0 → s.poisoned key (4 * n) = false → s.ownPending c.agent key (4 * n) = false → s.opsOver c.agent key (4 * n) = [] →
              64 < (itemUnits .gather its).length → exec (.tgather d a b x) s = .next (s.trap c 0x0A)))))) ∧
    (ReadsAtIssue s c g apAll (s.src c a % 2 ^ 32) 64 → base % 768 = 0 →
      (let org := s.originAt g x.toNat;
        ds.check true base t.krec.folio (ds.orgN org 0) = none →
          (let m := fetchCmd s g t .fetch ds base (box org none) [(g.core, t.base g.core)];
            fits .fetch (box org none) → TakesUp s s c d m (.tfetch d a b x))
          ∧ ∀ mask : BitVec 4,
            let ks := ((List.range 4).filter fun q => mask.getLsbD q).map fun q => 4 * (g.core / 4) + q;
            let fs := ks.filterMap (s.mcastFolio t);
            let m := fetchCmd s g t .mcast ds base (box org none) fs;
            fits .mcast (box org none) → fs.length = ks.length → TakesUp s s c d m (.tmcast mask d a b x))
      ∧ (let list := s.src c x % 2 ^ 32;
        let key := (s.locate g list).1;
        let n := ds.boxN 1;
        let org := [s.src c x / 2 ^ 32, 0, 0, 0, 0];
        let its := box org (some ((List.range n).map fun i => s.le (key + 4 * i) 4));
        let m := fetchCmd s g t .gather ds base its [(g.core, t.base g.core)];
        ds.check true base t.krec.folio (ds.orgN org 0) = none →
        itemsOk ds (spanOf (itemLocs (box org (some [])) ++ ds.padBytes base)) [] = true →
        ds.ndim = 2 → ds.rowmode = false → ds.store = 0 → s.listStep g list (4 * n) = 0 → s.poisoned key (4 * n) = false →
        s.ownPending c.agent key (4 * n) = false → s.opsOver c.agent key (4 * n) = [] → (itemUnits .gather its).length ≤ 64 →
        TakesUp s s c d m (.tgather d a b x)))

/-- TSTORE and TREDUCE are taken up with the box of a plane: a source entry over the box and a destination entry over the residency
word (R197, R198). They trap as a fetch does: at the descriptor's read, at the plane base, at R66, and then with FORMAT where the command
does not take the descriptor's storage. -/
def Obligations.StoreCommandsAreSent : Prop :=
  ∀ s c g t, State.GroupIssuing s c g → s.team? g.team = some t → Timely s c false 2 → s.heldCmd c.agent = none → ∀ d a b x : SReg,
    let ds := descAt s c g a
    let base := s.src c b
    let org := s.originAt g x.toNat
    let its := ds.items { plane := true, fetch := false } base org none
    let f := t.base g.core
    let cmd := fun (kind : CmdKind) =>
      { cmdOf s g t kind [recvOf g.core f ds.arrw (some ds.resw)] with
        items := its, units := itemUnits kind its, bytes := itemCount its, esize := ds.esize, efmt := ds.efmt, desc := ds.raw
        held := s.sourceHolds c.agent g.core f (itemLocs its)
        spans := mkSpan g.core f false (spanOf (itemLocs its)) ++ mkSpan g.core f true (some (16 * ds.resw, 16 * ds.resw + 8)) }
    let fits := fun (kind : CmdKind) => itemsOk ds (spanOf (itemLocs its)) (itemUnits kind its) = true
    let reads := ReadsAtIssue s c g apAll (s.src c a % 2 ^ 32) 64
    let wrong := ds.check true base t.krec.folio (ds.orgN org 0)
    let traps := fun (i : Instr) (kind : CmdKind) (takes : Prop) =>
      TrapsAt s c g apAll false false 64 [(0, s.src c a % 2 ^ 32)] i ∧ ReadHeld s c g apAll false (s.src c a % 2 ^ 32) 64 i
      ∧ (reads → base % 768 ≠ 0 → exec i s = .next (s.trapAt c c.pc 0x05 0 (.ofNat 64 base) 1))
      ∧ (reads → base % 768 = 0 →
        (∀ n, wrong = some n → exec i s = .next (s.trap c n))
        ∧ (wrong = none → ¬ fits kind → exec i s = .next (s.trap c 0x0A))
        ∧ (wrong = none → fits kind → ¬ takes → exec i s = .next (s.trap c 0x09)))
    traps (.tstore d a b x) .store (ds.store ≠ 2)
    ∧ (∀ op, traps (.treduce op d a b x) (.reduce op) (ds.store = 0 ∧ ds.efmt ∈ [0, 1, 2, 8, 9, 10]))
    ∧ (reads → base % 768 = 0 → wrong = none →
      (fits .store → ds.store ≠ 2 → TakesUp s s c d (cmd .store) (.tstore d a b x))
      ∧ ∀ op : FarRed, fits (.reduce op) → ds.store = 0 → ds.efmt ∈ [0, 1, 2, 8, 9, 10] → TakesUp s s c d (cmd (.reduce op)) (.treduce op d a b x))

/-- TFILL, TCOPY and PAGEREQ are taken up: they touch far bytes and the command's words only (R198, R201). They trap at the read of a
descriptor, at R66, which TCOPY applies to both of its descriptors, and at their own checks: TFILL takes plain storage alone, TCOPY two
boxes of one form, and PAGEREQ's completion word lies in the folio. -/
def Obligations.FarCommandsAreSent : Prop :=
  ∀ s c g t, State.GroupIssuing s c g → s.team? g.team = some t → Timely s c false 2 → s.heldCmd c.agent = none → ∀ d a b x : SReg,
    let ds := descAt s c g a
    let dd := descAt s c g b
    let folio := t.krec.folio
    let f := t.base g.core
    let org := s.originAt g x.toNat
    let org2 := s.originAt g (if x.toNat = 0 then 0 else x.toNat + 3)
    let its := ds.items { plane := false, fetch := false } 0 org none
    let words := recvOf g.core f ds.arrw (some ds.resw)
    let wrong := ds.check false 0 folio (ds.orgN org 0)
    let pages := fun (kind : CmdKind) => (itemUnits kind its).length
    (∀ i ∈ [Instr.tfill d a b x, .tcopy d a b x, .pagereq d a b x],
      TrapsAt s c g apAll false false 64 [(0, s.src c a % 2 ^ 32)] i ∧ ReadHeld s c g apAll false (s.src c a % 2 ^ 32) 64 i) ∧
    (ReadsAtIssue s c g apAll (s.src c a % 2 ^ 32) 64 →
      (∀ n, wrong = some n → exec (.tfill d a b x) s = .next (s.trap c n) ∧ exec (.pagereq d a b x) s = .next (s.trap c n))
      ∧ (wrong = none →
        (64 < pages .fill → exec (.tfill d a b x) s = .next (s.trap c 0x0A))
        ∧ (pages .fill ≤ 64 → ds.store ≠ 0 → exec (.tfill d a b x) s = .next (s.trap c 0x09))
        ∧ (64 < pages .pagereq → exec (.pagereq d a b x) s = .next (s.trap c 0x0A))
        ∧ (pages .pagereq ≤ 64 →
          let w := s.src c b % 2 ^ 32
          let at_ := fun (cause : Nat) => exec (.pagereq d a b x) s = .next (s.trapAt c c.pc cause 0 (.ofNat 64 w) 1)
          (2 ^ 28 ≤ w → at_ 0x06) ∧ (w < 2 ^ 28 → w % 16 ≠ 0 → at_ 0x05) ∧ (w < 2 ^ 28 → w % 16 = 0 → folio < w + 16 → at_ 0x06)))
      ∧ TrapsAt s c g apAll false false 64 [(0, s.src c b % 2 ^ 32)] (.tcopy d a b x)
      ∧ ReadHeld s c g apAll false (s.src c b % 2 ^ 32) 64 (.tcopy d a b x)
      ∧ (ReadsAtIssue s c g apAll (s.src c b % 2 ^ 32) 64 →
        let traps := fun (cause : Nat) => exec (.tcopy d a b x) s = .next (s.trap c cause)
        let one := ds.step1 false = true
        let two := ds.step2 false (ds.orgN org 0) = true
        let one' := dd.step1 false = true
        let two' := dd.step2 false (dd.orgN org2 0) = true
        let unlike := dd.efmt ≠ ds.efmt ∨ dd.store ≠ ds.store ∨ ∃ i < 5, dd.boxN i ≠ ds.boxN i
        let cp := ((ds.boxRows org none).zip (dd.boxRows org2 none)).flatMap fun p => copyRow ds dd org org2 p.1 p.2
        (one → traps 0x0A) ∧ (¬ one → two → traps 0x09) ∧ (¬ one → ¬ two → one' → traps 0x0A) ∧ (¬ one → ¬ two → ¬ one' → two' → traps 0x09)
        ∧ (¬ one → ¬ two → ¬ one' → ¬ two' → unlike ∨ ds.step3 false 0 folio = true ∨ 64 < (itemUnits .copy cp).length → traps 0x0A))) ∧
    (ReadsAtIssue s c g apAll (s.src c a % 2 ^ 32) 64 →
      (ds.check false 0 folio (ds.orgN org 0) = none →
        (let m := { farCmd s g t .fill ds words (itemUnits .fill its) with
            items := its, bytes := itemCount its, operand := s.sreg g b.toNat };
          (itemUnits .fill its).length ≤ 64 → ds.store = 0 → TakesUp s s c d m (.tfill d a b x))
        ∧ (let w := s.src c b % 2 ^ 32;
          let us := itemUnits .pagereq its;
          let m := farCmd s g t .pagereq ds { core := g.core, folio := f, arr := f + w, resw := some (f + 16 * ds.resw) } us;
          us.length ≤ 64 → w < 2 ^ 28 → w % 16 = 0 → w + 16 ≤ folio → TakesUp s s c d m (.pagereq d a b x)))
      ∧ (let cp := ((ds.boxRows org none).zip (dd.boxRows org2 none)).flatMap fun p => copyRow ds dd org org2 p.1 p.2;
        let m := { farCmd s g t .copy ds words (itemUnits .copy cp) with items := cp, bytes := itemCount cp };
        ReadsAtIssue s c g apAll (s.src c b % 2 ^ 32) 64 →
        ds.step1 false = false → ds.step2 false (ds.orgN org 0) = false → dd.step1 false = false → dd.step2 false (dd.orgN org2 0) = false →
        dd.efmt = ds.efmt → dd.store = ds.store → (∀ i, i < 5 → dd.boxN i = ds.boxN i) → ds.step3 false 0 folio = false →
        (itemUnits .copy cp).length ≤ 64 → TakesUp s s c d m (.tcopy d a b x)))

/-- TATOM, BULKLD and BULKST are taken up, with the address checks of R199 and R200 passed; the first check that fails decides the trap.
Which of a command's addresses a trap reports, where several fail one step, or where the length alone is wrong, is the model's choice
(log 35). -/
def Obligations.BulkAndAtomicCommandsAreSent : Prop :=
  ∀ s c g t, State.GroupIssuing s c g → s.team? g.team = some t → Timely s c false 2 → s.heldCmd c.agent = none → ∀ d a b x : SReg,
    let f := t.base g.core
    let folio := t.krec.folio
    let plain := fun (w n al : Nat) => w < 2 ^ 28 ∧ w % al = 0 ∧ w + n ≤ folio
    let at_ := fun (cause addr : Nat) => s.trapAt c c.pc cause 0 (.ofNat 64 addr) 1
    (∀ (op : AtOp) (ty : Ty),
      let va := s.src c a
      let w := if a = 0 then 0 else (s.sreg g (a.toNat + 1)).toNat
      let slot := w % 2 ^ 32
      let arr := w / 2 ^ 32
      let size := atomicSize ty
      let its := [{ itemAt va size .plain ((List.range 8).map (slot + ·)) [] 8 with far := some va }]
      let m := { cmdOf s g t (.atom op ty) [{ core := g.core, folio := f, arr := f + arr, resw := none }] with
        items := its, units := itemUnits (.atom op ty) its, bytes := 8, operand := s.sreg g b.toNat, compare := s.sreg g x.toNat
        esize := size, spans := mkSpan g.core f true (some (slot, slot + 8)) }
      let traps := fun (t : State) => exec (.tatom op ty d a b x) s = .next t
      let near := slot < 2 ^ 28 ∧ arr < 2 ^ 28
      let even := va < 2 ^ 57 ∧ va % size = 0 ∧ slot % 8 = 0 ∧ arr % 16 = 0
      let inside := slot + 8 ≤ folio ∧ arr + 16 ≤ folio
      (va < 2 ^ 57 → va % size = 0 → plain slot 8 8 → plain arr 16 16 → (slot + 8 ≤ arr ∨ arr + 16 ≤ slot) →
        TakesUp s s c d m (.tatom op ty d a b x))
      ∧ (¬ near → traps (at_ 0x06 (if slot < 2 ^ 28 then arr else slot)))
      ∧ (near → ¬ even → traps (at_ 0x05 (if 2 ^ 57 ≤ va ∨ va % size ≠ 0 then va else if slot % 8 ≠ 0 then slot else arr)))
      ∧ (near → even → ¬ inside → traps (at_ 0x06 (if folio < slot + 8 then slot else arr)))
      ∧ (near → even → inside → slot < arr + 16 → arr < slot + 8 → traps (s.trap c 0x0A)))
    ∧ (let va := s.src c a % 2 ^ 57;
      let loc := s.src c b % 2 ^ 32;
      let n := s.src c x % 2 ^ 32;
      let arr := s.src c x / 2 ^ 32;
      let its := (cutRun va (n / 4096 + 2) n).map fun p => itemAt (va + p.1) p.2 .plain ((List.range p.2).map (loc + p.1 + ·)) [] p.2;
      let cmd := fun (kind : CmdKind) (held : List Nat) =>
        { cmdOf s g t kind [{ core := g.core, folio := f, arr := f + arr, resw := none }] with
          items := its, units := itemUnits kind its, bytes := n, held := held
          spans := mkSpan g.core f (kind != .bulkst) (some (loc, loc + n)) };
      let ld := cmd .bulkld [];
      let st := cmd .bulkst (s.sourceHolds c.agent g.core f ((List.range n).map (loc + ·)));
      let traps := fun (t : State) => exec (.bulkld d a b x) s = .next t ∧ exec (.bulkst d a b x) s = .next t;
      let near := loc < 2 ^ 28 ∧ arr < 2 ^ 28;
      let even := va % 16 = 0 ∧ loc % 16 = 0 ∧ n % 16 = 0 ∧ arr % 16 = 0;
      let sized := 0 < n ∧ n ≤ 2 ^ 20;
      let inside := loc + n ≤ folio ∧ arr + 16 ≤ folio;
      (va % 16 = 0 → plain loc n 16 → n % 16 = 0 → 0 < n → n ≤ 2 ^ 20 → plain arr 16 16 → (arr + 16 ≤ loc ∨ loc + n ≤ arr) →
        (TakesUp s s c d ld (.bulkld d a b x))
        ∧ (TakesUp s s c d st (.bulkst d a b x)))
      ∧ (¬ near → traps (at_ 0x06 (if loc < 2 ^ 28 then arr else loc)))
      ∧ (near → ¬ even → traps (at_ 0x05 (if va % 16 ≠ 0 then va else if loc % 16 ≠ 0 ∨ n % 16 ≠ 0 then loc else arr)))
      ∧ (near → even → ¬ sized → traps (s.trap c 0x0A))
      ∧ (near → even → sized → ¬ inside → traps (at_ 0x06 (if folio < loc + n then loc else arr)))
      ∧ (near → even → sized → inside → arr < loc + n → loc < arr + 16 → traps (s.trap c 0x0A)))

/-- TWIN reads the limits and what is outstanding, and sets limits between the floors and the ceilings; THINT gives the
modules a hint for the pages that translate, and nothing else (R202, R203, 04 R108). A command's entries fit where no core's table of
64 would overflow and none of them meets an entry of the other kind (03 R80, R82). What a team has outstanding are its commands that have
been charged and have an entry left, or never had one (R85). No command issues before the group's acquires (04 R101); one that waits for the
chase table makes its group ready again once it fits (R197 step 2), and its instruction, issued anew, takes it up with its checks behind it
and a number of that issue. Outstanding bytes of 2^32 or more do not fit their field, which is then free (log 3). -/
def Obligations.AllowanceAndHintsComplete : Prop :=
  (∀ (s : State) (m : Cmd), (∀ x ∈ m.spans, x.lo ≤ x.hi) → (s.chaseFits m = true ↔ ∀ x ∈ m.spans,
    (s.chases.filter (·.span.core == x.core)).length + (m.spans.filter (·.core == x.core)).length ≤ 64
    ∧ ∀ e ∈ s.chases, e.span.core = x.core → e.span.dest ≠ x.dest → x.hi ≤ e.span.lo ∨ e.span.hi ≤ x.lo))
  ∧ (∀ (s : State) (team : Nat), s.outstanding team =
    let ms := s.cmds.filter fun m => decide (m.team = team ∧ m.charged = true ∧ (m.spans = [] ∨ ∃ e ∈ s.chases, e.tag = m.uid))
    ((ms.map (·.bytes)).sum, ms.length))
  ∧ (∀ s c g t, State.GroupIssuing s c g → s.team? g.team = some t → ∀ i d, commandDest i = some d →
    (s.heldCmd c.agent = none → HeldBack s c false 2 i)
    ∧ ∀ m ∈ s.cmds, m.agent = c.agent → m.charged = false → (∀ x ∈ s.cmds, x.agent = c.agent → x.charged = false → x = m) →
      TakesUp s { s with cmds := s.cmds.filter fun x => !(x.agent == c.agent && !x.charged) } c d { m with uid := s.uid } i)
  ∧ (∀ s c g t, State.GroupIssuing s c g → s.team? g.team = some t → ∀ d a b : SReg,
    exec (.twinLim d) s = .next (s.putS c d (t.limB + 2 ^ 32 * t.limC))
    ∧ (let o := s.outstanding g.team;
      (o.1 < 2 ^ 32 → exec (.twinOut d) s = .next (s.putS c d (o.1 + 2 ^ 32 * o.2)))
      ∧ (2 ^ 32 ≤ o.1 → ∃ bytes < 2 ^ 32, exec (.twinOut d) s = .next (s.freeWord.2.putS c d (bytes + 2 ^ 32 * o.2))))
    ∧ (let lb := max 4096 (min (s.src c a % 2 ^ 32) (s.ceilings g.core).1);
      let lc := max 1 (min (s.src c a / 2 ^ 32 % 2 ^ 16) (s.ceilings g.core).2);
      exec (.twinSet d a) s = .next (State.putS (s.setTeam { t with limB := lb, limC := lc }) c d (lb + 2 ^ 32 * lc)))
    ∧ (s.part? (s.partOf g.core) = none → exec (.thint a b) s = .next (s.finish c))
    ∧ ∀ p, s.part? (s.partOf g.core) = some p → exec (.thint a b) s
        = .next (State.finish { s with hints := s.hints ++ s.hintRuns p (g.core / 4) (s.src c a % 2 ^ 57) (s.src c b % 2 ^ 32) } c))
  ∧ ∀ (s : State) (g : Group) (c : Cur) (d : SReg), s.group? g.core g.slot = some g →
    (∀ uid m, g.run = .waiting (.chase c d uid) → s.cmd? uid = some m → s.chaseFits m = true →
      exec (.chaseWaitEnd g.core g.slot) s = .next (s.setGroup { g with run := .ready, notBefore := s.cycle + 1 }))
    ∧ ∀ slot word, g.run = .waiting (.taskq c d slot word) → s.slotFits g.core slot = true →
      exec (.chaseWaitEnd g.core g.slot) s = .next (s.setGroup { g with run := .ready, notBefore := s.cycle + 1 })

/-! ### Matrix instructions (09) -/

/-- The matrix instructions enter the queue, or wait for it, once their formes are sound for the use and no folio byte they touch
is being fetched, else they take EARLYTOUCH at the first run that is (09 R205 to R211, R214 to R220). FORME reads 64 bytes of the folio, or
eight scalar registers, into a forme register later; MWAIT goes on when none of the group's operations is outstanding, and takes LOCK while
the group holds a lock (08 R190); an unsound forme takes FORMEFAULT (R207, R208, R209, R219, R221), and MMA on two cores outside a pair's
first core takes ILLOP (R216). A late error of the group is taken by its next matrix instruction or MWAIT instead (R224); where that stands
among the instruction's other traps is the model's choice (log 35). What a sound forme and its slice are is R206 and R208 with the plane of 02 R50
and the scale plane of R52; an operation of a group is over bytes that a read at issue waits for where it writes them (04 R98). -/
def Obligations.MatrixInstructionsComplete : Prop :=
  (∀ (f : Line) (w k folio : Nat), w ∈ [16, 32, 64, 128] →
    let fld := fun (lo n : Nat) => f.toNat / 2 ^ lo % 2 ^ n
    let ebase := fld 0 28
    let sbase := fld 28 28
    let rows := fld 56 12
    let row0 := fld 68 12
    let koff := fld 80 16
    let klen := fld 96 16
    let efmt := fld 112 4
    let scaled := fld 116 1 = 1
    let bpb := if efmt = 7 then 16 else 32
    let byte := fun (m j : Nat) => ebase + (koff + w * k + j) / 128 * ((128 * rows + 767) / 768 * 768) + 128 * (row0 + m)
      + 16 * (((koff + w * k + j) % 128 / 16) ^^^ ((row0 + m) / 6 % 8)) + (koff + w * k + j) % 16
    let entry := fun (m i : Nat) => sbase + ((koff + w * k) / bpb + i) / (128 / bpb) * ((16 * rows + 767) / 768 * 768) + 16 * (row0 + m)
      + 2 * (((koff + w * k) / bpb + i) % (128 / bpb))
    (sliceRuns f w k = (List.range 32).flatMap fun m => (List.range (w / 16)).map (fun i => (byte m (16 * i), 16))
      ++ if scaled then (List.range (w / bpb)).map fun i => (entry m i, 2) else [])
    ∧ (formeOk f w k folio = true ↔ fld 511 1 = 1 ∧ fld 117 2 = 0 ∧ fld 119 392 = 0 ∧ efmt ≤ 10
      ∧ ebase % 768 = 0 ∧ sbase % 16 = 0 ∧ rows ≠ 0 ∧ row0 + 32 ≤ rows ∧ koff % w = 0 ∧ koff + w * (k + 1) ≤ koff + klen
      ∧ (efmt = 7 → scaled) ∧ (efmt ∈ [0, 1, 2, 8, 9, 10] → ¬ scaled)
      ∧ (∀ m < 32, ∀ j < w, byte m j < folio) ∧ (scaled → ∀ m < 32, ∀ i < w / bpb, entry m i + 2 ≤ folio)))
  ∧ (∀ (s : State) (op : MatOp), s.matRoom op = true ↔ ∀ core, core = op.core ∨ (op.pairTile ≠ none ∧ core = op.core + 1) →
    (s.mats.filter fun m => decide (m.start = none ∧ (m.core = core ∨ (m.pairTile ≠ none ∧ m.core + 1 = core)))).length < 8)
  ∧ (∀ (s : State) (core slot key n : Nat),
    let touches := fun (fk : Nat) (r : Nat × Nat) => fk + r.1 < key + n ∧ key < fk + r.1 + r.2
    s.opsOver (.group core slot) key n = [] ↔
      (∀ m ∈ s.mats, m.core = core → m.slot = slot →
        (∀ f k, m.kind = .mstg f k → ∀ r ∈ sliceRuns f 128 k, ¬ touches m.folio r)
        ∧ ∀ relu rm f k, m.kind = .mcvt relu rm f k → ∀ r ∈ sliceRuns f (mcvtW (fEfmt f)) k, ¬ touches m.folio r)
      ∧ ∀ m ∈ s.ligOps, m.core = core → m.slot = slot → ∀ bf dst first count pitch cols, m.kind = .emit bf dst first count pitch cols →
        ∀ i < cols, ¬ touches m.folio (dst + i * pitch, count * (if bf then 2 else 4)))
  ∧ (∀ s c g t e es, State.GroupIssuing s c g → s.team? g.team = some t → g.uncorrM = e :: es →
    let late := State.trapAt (s.setGroup { g with uncorrM := es }) c c.pc 0x0E 0 (.ofNat 64 e.1) (.ofNat 64 e.2)
    let takes := fun (i : Instr) => exec i s = .next late
    (∀ pair sg d a b x, (pair = true → t.paired = true ∧ g.core % 2 = 0) → takes (.mma pair sg d a b x))
    ∧ (∀ sg d a b x, t.paired = false ∨ g.core % 2 = 1 → exec (.mma true sg d a b x) s = .next (s.trap c 0x01))
    ∧ (∀ d, takes (.mzero d)) ∧ (∀ d f x, takes (.mldg d f x)) ∧ (∀ f d x, takes (.mstg f d x)) ∧ (∀ relu rm f d x, takes (.mcvt relu rm f d x))
    ∧ (∀ isInt rm d a b, takes (.maddg isInt rm d a b)) ∧ (∀ la d a m, takes (.forme la d a m)) ∧ (∀ la d a, takes (.formeR la d a))
    ∧ (s.heldLock c.agent = none → takes .mwait))
  ∧ (∀ s c g, State.GroupIssuing s c g → LockTraps s c .mwait)
  ∧ (∀ s c g t, State.GroupIssuing s c g → s.team? g.team = some t → g.uncorrM = [] →
    let folio := t.krec.folio
    let fl := fun (core : Nat) => ((t.seat? core).map (·.folio)).getD 0
    let free := fun (store : Bool) (core : Nat) (rs : List (Nat × Nat)) => ∀ r ∈ rs, s.early store core (fl core + r.1) r.2 = false
    let tile := fun (core : Nat) (d : GReg) => t.tile core d.toNat
    let k := fun (r : SReg) => s.src c r % 2 ^ 16
    let enters := fun (i : Instr) (kind : MatKind) (tl : Nat) (pair : Option Nat) =>
      let op : MatOp := { uid := s.uid, core := g.core, slot := g.slot, team := t.uid, kind := kind, tile := tl, pairTile := pair
                          folio := s.folioKey t.uid g.core, folio2 := s.folioKey t.uid (g.core + 1), issued := s.cycle, start := none, retire := 0, cells := [], flags := 0, bad := none, gate := none }
      (s.matRoom op = true → exec i s = .next (State.finish { s with mats := s.mats ++ [op], uid := s.uid + 1 } c))
      ∧ (s.matRoom op = false → exec i s = .next (State.wait { s with uid := s.uid + 1 } c (.matrixQ c op)))
    let touches := fun (i : Instr) (kind : MatKind) (tl : Nat) (pair : Option Nat) =>
      HeldBack s c false 2 i ∧ (Timely s c false 2 → enters i kind tl pair)
    let early := fun (i : Instr) (acc : List (Bool × Nat × Nat × Nat)) => ∀ x,
      acc.find? (fun x => s.early x.1 x.2.1 (fl x.2.1 + x.2.2.1) x.2.2.2) = some x →
        exec i s = .next (s.trapAt c c.pc 0x07 0 (.ofNat 64 x.2.2.1) 1)
    let on := fun (store : Bool) (core : Nat) (rs : List (Nat × Nat)) => rs.map fun r => (store, core, r)
    (∀ (sg : MmaSign) (d : GReg) (a b : FReg) (x : SReg),
      let fa := t.forme a
      let fb := t.forme b
      let ra := sliceRuns fa (mmaW (fEfmt fa) (fEfmt fb)) (k x)
      let rb := sliceRuns fb (mmaW (fEfmt fb) (fEfmt fa)) (k x)
      formeOk fa (mmaW (fEfmt fa) (fEfmt fb)) (k x) folio = true → formeOk fb (mmaW (fEfmt fb) (fEfmt fa)) (k x) folio = true →
      mmaK (fEfmt fa) (fEfmt fb) ≠ 0 → (fEfmt fa = 8 ∨ sg = .ss) →
        early (.mma false sg d a b x) (on false g.core ra ++ on false g.core rb)
        ∧ (t.paired = true → g.core % 2 = 0 →
          early (.mma true sg d a b x) (on false g.core ra ++ on false g.core rb ++ on false (g.core + 1) rb))
        ∧ (free false g.core ra → free false g.core rb →
          touches (.mma false sg d a b x) (.mma sg fa fb (k x)) (tile g.core d) none
          ∧ (t.paired = true → g.core % 2 = 0 → free false (g.core + 1) rb →
            touches (.mma true sg d a b x) (.mma sg fa fb (k x)) (tile g.core d) (some (tile (g.core + 1) d)))))
    ∧ (∀ d : GReg, enters (.mzero d) .mzero (tile g.core d) none)
    ∧ (∀ (d : GReg) (f : FReg) (x : SReg), wordPlane (t.forme f) (k x) folio = true →
      early (.mldg d f x) (on false g.core (sliceRuns (t.forme f) 128 (k x)))
      ∧ early (.mstg f d x) (on true g.core (sliceRuns (t.forme f) 128 (k x)))
      ∧ (free false g.core (sliceRuns (t.forme f) 128 (k x)) → touches (.mldg d f x) (.mldg (t.forme f) (k x)) (tile g.core d) none)
      ∧ (free true g.core (sliceRuns (t.forme f) 128 (k x)) → touches (.mstg f d x) (.mstg (t.forme f) (k x)) (tile g.core d) none))
    ∧ (∀ (relu : Bool) (rm : RMode) (f : FReg) (d : GReg) (x : SReg),
      let w := mcvtW (fEfmt (t.forme f))
      formeOk (t.forme f) w (k x) folio = true → (isMid (fEfmt (t.forme f)) = true ∨ fEfmt (t.forme f) = 7) → fScaled (t.forme f) = true →
      early (.mcvt relu rm f d x) (on true g.core (sliceRuns (t.forme f) w (k x)))
      ∧ (free true g.core (sliceRuns (t.forme f) w (k x)) →
        touches (.mcvt relu rm f d x) (.mcvt relu rm (t.forme f) (k x)) (tile g.core d) none))
    ∧ ∀ (isInt : Bool) (rm : RMode) (d a b : GReg),
      enters (.maddg isInt rm d a b) (.maddg isInt rm (tile g.core a) (tile g.core b)) (tile g.core d) none)
  ∧ ∀ s c g t, State.GroupIssuing s c g → s.team? g.team = some t → g.uncorrM = [] →
    (∀ (la : BitVec 4) (d : FReg) (a : SReg) (m : Byte),
      let addr := (s.src c a % 2 ^ 32 + 64 * m.toNat) % 2 ^ 32
      TrapsAt s c g ap0 false true 64 [(0, addr)] (.forme la d a m)
      ∧ (s.addrStep g ap0 false true addr 64 = 0 → HeldBack s c false 20 (.forme la d a m)
        ∧ (Timely s c false 20 → TakesUncorr s c [((s.locate g addr).1, 64)] (.forme la d a m)))
      ∧ (s.addrStep g ap0 false true addr 64 = 0 → s.poisoned (s.locate g addr).1 64 = false → Timely s c false 20 →
      let r := State.later { s with uid := s.uid + 1 } c (if t.paired then 34 else 20) la.toNat fun x => { x with reserved := true }
      let read : Local := { uid := s.uid, agent := c.agent, due := s.cycle + 18, commit := s.uid + 1, addr := (s.locate g addr).1
                            size := 64, acq := false, op := .forme t.uid d.toNat }
      exec (.forme la d a m) s = .next (r.launchLocals [read])))
    ∧ (∀ (la : BitVec 4) (d : FReg) (a : SReg),
      let x := if a = 0 then 0 else sumL ((List.range 8).map fun i => (s.sreg g (a.toNat + i)).toNat * 2 ^ (64 * i))
      exec (.formeR la d a) s = .next (s.later c (if t.paired then 18 else 4) la.toNat fun y =>
        { y with formes := [(t.uid, d.toNat, .ofNat 512 x)] }))
    ∧ (s.heldLock c.agent = none →
      let own := fun (m : MatOp) => m.core = g.core ∧ m.slot = g.slot ∧ m.gate = none
      ((∀ m ∈ s.mats, ¬ own m) → exec .mwait s = .next (s.finish c))
      ∧ ((∃ m ∈ s.mats, own m) → exec .mwait s = .next (s.waitAgain c (.mwait c))))
    ∧ (∀ (d : GReg) (f : FReg) (x : SReg), wordPlane (t.forme f) (s.src c x % 2 ^ 16) t.krec.folio = false →
      exec (.mldg d f x) s = .next (s.trap c 0x11) ∧ exec (.mstg f d x) s = .next (s.trap c 0x11))
    ∧ (∀ (pair : Bool) (sg : MmaSign) (d : GReg) (a b : FReg) (x : SReg),
      let fa := t.forme a
      let fb := t.forme b
      let k := s.src c x % 2 ^ 16
      (pair = true → t.paired = true ∧ g.core % 2 = 0) →
      formeOk fa (mmaW (fEfmt fa) (fEfmt fb)) k t.krec.folio = false ∨ formeOk fb (mmaW (fEfmt fb) (fEfmt fa)) k t.krec.folio = false
        ∨ mmaK (fEfmt fa) (fEfmt fb) = 0 ∨ (fEfmt fa ≠ 8 ∧ sg ≠ .ss) →
      exec (.mma pair sg d a b x) s = .next (s.trap c 0x11))
    ∧ (∀ (sg : MmaSign) (d : GReg) (a b : FReg) (x : SReg), t.paired = false ∨ g.core % 2 = 1 →
      exec (.mma true sg d a b x) s = .next (s.trap c 0x01))
    ∧ ∀ (relu : Bool) (rm : RMode) (f : FReg) (d : GReg) (x : SReg),
      let e := fEfmt (t.forme f)
      formeOk (t.forme f) (mcvtW e) (s.src c x % 2 ^ 16) t.krec.folio = false ∨ (isMid e = false ∧ e ≠ 7) ∨ fScaled (t.forme f) = false →
      exec (.mcvt relu rm f d x) s = .next (s.trap c 0x11)

/-- A matrix operation enters, starts and retires in the order of its queue: a start takes its work from memory as the started
operations before it leave it, and retiring writes its results (09 R211 to R213, R222 to R224). Ligature operations enter, and with them
the binding or the level mark that they set, start and complete; a waiting LIGCLR clears the idle engine (10 R230, R231, R233, R234 to
R240). An operation that has waited for its queue is not taken up where its group has a late error: the waiting instruction takes that
error instead (09 R224, 10 R238), and a ligature operation is checked by the engine, the binding and the level mark of the moment at which it
enters. Operations of one queue retire in its order (R212). A ligature operation that ends in a fault leaves its engine faulted, its queue
discarded and the waiting groups of its team trapped (R237); the fault goes to the proof core where no group is left to take it, and that of a
predecessor's operation always (R242). The work of a matrix operation is MMA's sums of blocks or of integers (02 R53, R54, 09 R215, R216), MZERO's
zeros, MLDG's and MSTG's words, MCVT's block records (R217 to R219) or MADDG's sums (R220); what is computed from a poisoned word is as R224
has it. A LIGEVAL evaluates its sheet's ligatures in turn, each by LigSum over the bound columns (02 R57, 10 R235), stops at the first that
is faulty, and a LIGEMIT copies values to the folio (R236). Where the spec does not order an uncorrectable item word against the other
checks of its ligature, and when the sheet's header is read, is the model's choice (log 35). -/
def Obligations.EngineQueuesRun : Prop :=
  ((∀ (s : State) (g : Group) (c : Cur) (op : MatOp), s.group? g.core g.slot = some g → g.run = .waiting (.matrixQ c op) →
    (s.matRoom op = false → exec (.matrixQueueEnter g.core g.slot) s = .next s)
    ∧ (s.matRoom op = true →
      (g.uncorrM = [] →
        exec (.matrixQueueEnter g.core g.slot) s = .next (State.resume { s with mats := s.mats ++ [{ op with issued := s.cycle }] } c))
      ∧ ∀ e es, g.uncorrM = e :: es → exec (.matrixQueueEnter g.core g.slot) s
        = .next (State.trapAt (s.setGroup { g with uncorrM := es }) c c.pc 0x0E 0 (.ofNat 64 e.1) (.ofNat 64 e.2))))
  ∧ (∀ (s : State) (op : MatOp), MatrixResults s op)
  ∧ (∀ (as bs : List XVal) (sa sb : XVal),
    let ps := List.zipWith mulX as bs
    let sum := sumX .rn (ps.map (·.1))
    let x := mulX sum.1 sa
    let y := mulX x.1 sb
    blockSum as bs sa sb = ((roundF .f32 .rn false y.1).1, orFlags (ps.map (·.2)) ||| sum.2 ||| x.2 ||| y.2 ||| (roundF .f32 .rn false y.1).2))
  ∧ (∀ (acc : Nat) (a b : List XVal × XVal) (as bs : List (List XVal × XVal)),
    mmaFloat acc [] bs = (acc, fNone) ∧ mmaFloat acc as [] = (acc, fNone)
    ∧ (let t := blockSum a.1 b.1 a.2 b.2
      let y := sumX .rn [decF .f32 acc, decF .f32 t.1]
      let z := roundF .f32 .rn false y.1
      let r := mmaFloat z.1 as bs
      mmaFloat acc (a :: as) (b :: bs) = (r.1, t.2 ||| y.2 ||| z.2 ||| r.2)))
  ∧ (∀ (acc : Nat) (as bs : List Int),
    (mmaInt acc as bs : Int) = ((acc : Int) + (List.zipWith (· * ·) as bs).foldr (· + ·) 0) % 2 ^ 32)
  ∧ (∀ (s : State) (fk : Nat) (f : Line) (w k m j : Nat),
    let at_ := fun (b : Nat) => fk + planeOff (fEbase f) (fRows f) (fRow0 f + m) (fKoff f + w * k + b)
    let code := s.elemCode fk f w k m j
    let entry := s.entryCode fk f w k m j
    (fEfmt f = 7 → code = (s.byte (at_ (j / 2))).toNat / 16 ^ (j % 2) % 16)
    ∧ (fEfmt f ∈ [3, 4, 5, 6, 8] → code = (s.byte (at_ j)).toNat)
    ∧ (fEfmt f ∈ [1, 2, 9] → code = s.le (at_ (2 * j)) 2)
    ∧ (fScaled f = false → entry = 127)
    ∧ (fScaled f = true → entry = s.le (fk
      + scaleOff (fSbase f) (fRows f) (fEfmt f) (fRow0 f + m) ((fKoff f + w * k) / bytesPerBlock (fEfmt f) + j)) 2))
  ∧ (∀ efmt entry code : Nat,
    (efmt ≠ 7 ∨ code ≠ 8 → elemValue efmt entry code = decF (efmtFloat efmt) (code % 2 ^ (efmtFloat efmt).bits))
    ∧ (elemValue 7 entry 8 = (let neg := entry / 2 ^ 10 % 2 == 1
        match entry / 2 ^ 8 % 4 with
        | 0 => .zero neg | 1 => .fin neg 8 0 false | 2 => .fin neg 12 0 false | _ => .fin neg 1 (-2) false))
    ∧ scaleValue entry = if entry % 2 ^ 8 = 255 then .nan else .fin false 1 ((entry % 2 ^ 8 : Nat) - 127) false)
  ∧ (∀ (f : FTy) (mode : RMode) (xs : List XVal), (∀ neg m g k, .fin neg m g k ∈ xs → m ≠ 0 ∧ k = false) →
    let lo : Int := if f = .e2m1 then 112 else 0
    let hi : Int := if f = .e2m1 then 143 else 254
    let codes := fun (e : Int) =>
      let ex := min (max (e + 127) lo) hi
      let rs := xs.map fun x => roundF f mode true (match x with
        | .fin s m g k => .fin s m (g - (ex - 127)) k
        | y => y)
      (ex.toNat, rs.map (·.1), orFlags (rs.map (·.2)))
    let max_ := gridAt f f.maxCode
    (f ≠ .e2m1 → .nan ∈ xs → mcvtRow f mode xs = (255, xs.map fun _ => 0, fNone))
    ∧ (f = .e2m1 ∨ .nan ∉ xs →
      ((∀ neg m g k, XVal.fin neg m g k ∉ xs) → mcvtRow f mode xs = codes 0)
      ∧ ∀ (neg : Bool) (m : Nat) (g : Int) k (e : Int), XVal.fin neg m g k ∈ xs →
        (∀ (neg' : Bool) (m' : Nat) (g' : Int) k', XVal.fin neg' m' g' k' ∈ xs → (m' : Rat) * 2 ^ g' ≤ (m : Rat) * 2 ^ g) →
        (m : Rat) * 2 ^ g ≤ max_ * 2 ^ e → max_ * 2 ^ (e - 1) < (m : Rat) * 2 ^ g → mcvtRow f mode xs = codes e))
  ∧ (∀ (s : State) (op : MatOp), (s.matQueue op.core).head? = some op → s.matStarts op = true →
    let before := (s.mats.filter (·.start.isSome)).foldl (fun (t : State) o => t.write (gated o.gate o.cells)) s
    let w := (before.gateView op.gate).matWork op
    let r := s.cycle + matP op.kind + 7
    let op' := { op with start := some s.cycle, retire := r, cells := w.cells, flags := w.flags, bad := w.bad }
    let t := State.setArray { s with mats := replaceBy (·.uid == op.uid) op' s.mats } op.core (s.cycle + matP op.kind)
    exec (.matrixOpStart op.core) s = .next (if op.pairTile.isSome then t.setArray (op.core + 1) (r + 1) else t))
  ∧ (∀ (s : State) (op : MatOp),
    let at_ := fun (core : Nat) => (s.arrayFree.find? (·.1 == core)).map (·.2)
    let own := ∃ l ∈ s.locals, l.agent = .group op.core op.slot ∧ l.op.writes = true ∧ l.uid < op.uid
    let first := (s.mats.filter fun m => decide ((m.core = op.core + 1 ∨ (m.pairTile ≠ none ∧ m.core = op.core)) ∧ m.start = none)).head?
    s.matStarts op = true ↔ op.issued < s.cycle ∧ (∀ n, at_ op.core = some n → n ≤ s.cycle) ∧ ¬ own
      ∧ (op.pairTile ≠ none → (∀ n, at_ (op.core + 1) = some n → n ≤ s.cycle) ∧ first.map (·.uid) = some op.uid))
  ∧ (∀ (s : State) (op : MatOp) (xs ys : List MatOp), s.mats = xs ++ op :: ys → (∀ o ∈ xs, o.uid ≠ op.uid) →
    (s.matBefore op = true ↔ ∃ o ∈ xs, ∃ core, (core = op.core ∨ (op.pairTile ≠ none ∧ core = op.core + 1))
      ∧ (o.core = core ∨ (o.pairTile ≠ none ∧ o.core + 1 = core))))
  ∧ (∀ (s : State) (op : MatOp), s.mats.find? (·.uid == op.uid) = some op → op.start.isSome = true →
    let t := State.write { s with mats := s.mats.filter (·.uid != op.uid) } (gated op.gate op.cells)
    let t := if op.gate.isSome then t else t.lateFlags op.core op.slot op.flags
    let t := t.lateError op.core op.slot op.team op.gate.isSome op.bad
    (s.cycle < op.retire ∨ s.matBefore op = true → exec (.matrixOpRetire op.uid) s = .next s)
    ∧ (op.retire ≤ s.cycle → s.matBefore op = false →
      exec (.matrixOpRetire op.uid) s = .next (State.reap ((t.mwaitDone op.core op.slot).releaseSlot op.core op.slot) op.team)))
  ∧ ∀ (s : State) (core slot : Nat),
    let wakes := fun (g : Group) => s.setGroup { g with run := .ready, notBefore := s.cycle + 1 }
    (∀ g, s.group? core slot = some g →
      (∀ c, g.run = .waiting (.mwait c) →
        ((∃ m ∈ s.mats, m.core = core ∧ m.slot = slot ∧ m.gate = none) → s.mwaitDone core slot = s)
        ∧ ((∀ m ∈ s.mats, m.core = core → m.slot = slot → m.gate ≠ none) → s.mwaitDone core slot = wakes g))
      ∧ ((∀ c, g.run ≠ .waiting (.mwait c)) → s.mwaitDone core slot = s)
      ∧ (∀ c, g.run = .waiting (.ligwait c) →
        ((∃ m ∈ s.ligOps, m.core = core ∧ m.slot = slot ∧ m.gate = none) → s.ligwaitDone core slot = s)
        ∧ ((∀ m ∈ s.ligOps, m.core = core → m.slot = slot → m.gate ≠ none) → s.ligwaitDone core slot = wakes g))
      ∧ ((∀ c, g.run ≠ .waiting (.ligwait c)) → s.ligwaitDone core slot = s)
      ∧ (∀ f : Flags, (g.run = .exited → s.lateFlags core slot f = s) ∧ (g.run ≠ .exited → s.lateFlags core slot f = s.setGroup (g.commitFlags s.cycle f)))
      ∧ ∀ (team : Nat) (old : Bool) (x : Nat × Nat),
        s.lateError core slot team old none = s ∧ s.lateErrorL core slot team old none = s
        ∧ (old = false → g.team = team → g.run ≠ .exited →
          s.lateError core slot team old (some x) = s.setGroup { g with uncorrM := g.uncorrM ++ [x] }
          ∧ s.lateErrorL core slot team old (some x) = s.setGroup { g with uncorrL := g.uncorrL ++ [x] })
        ∧ (old = true ∨ g.team ≠ team ∨ g.run = .exited →
          s.lateError core slot team old (some x) = s.orphan g x ∧ s.lateErrorL core slot team old (some x) = s.orphan g x)))
  ∧ (∀ (s : State) (g : Group) (c : Cur), s.group? g.core g.slot = some g →
    (∀ op t, g.run = .waiting (.ligQ c op) → s.team? g.team = some t →
      let after := fun (t : State) => exec (.ligQueueEnter g.core g.slot) s = .next t
      let g' := { g with run := .ready, notBefore := s.cycle + 1 }
      let u := s.setGroup g'
      (s.ligRoom g.core op.uid = false → after s)
      ∧ (s.ligRoom g.core op.uid = true →
        (∀ f, (s.lig g.core).fault = some f → after (u.ligTrap c g.core g.slot f))
        ∧ ((s.lig g.core).fault = none → ∀ e es, g.uncorrL = e :: es →
          after (State.trapAt (u.setGroup { g' with uncorrL := es }) c c.pc 0x0E 0 (.ofNat 64 e.1) (.ofNat 64 e.2)))
        ∧ ((s.lig g.core).fault = none → g.uncorrL = [] →
          (∀ cols n p base, op.kind = .bind cols n p base → after (u.enterLig c g' op.uid op.kind))
          ∧ (∀ addr hi, op.kind = .eval addr hi → after (u.ligevalAt c g' t op.uid addr))
          ∧ ∀ bf addr first n q cols, op.kind = .emit bf addr first n q cols → after (u.ligemitAt c g' t op.uid bf addr first n q))))
    ∧ (g.run = .waiting (.ligclr c) → s.ligIdle g.core = true →
      exec (.ligclrClear g.core g.slot) s = .next (State.resume (s.clearLig g.core) c)))
  ∧ (∀ (s : State) (op : LigOp), (s.ligQueue op.core).head? = some op → op.issued < s.cycle → (s.lig op.core).freeAt ≤ s.cycle →
    s.ownBefore op.core op.slot op.uid = true →
    let s' := s.freshLig op.core op
    let starts := fun (r : State × LigOp) => exec (.ligOpStart op.core) s
      = .next { r.1 with ligOps := replaceBy (·.uid == op.uid) { r.2 with start := some s.cycle } r.1.ligOps }
    (∀ cols n p base, op.kind = .bind cols n p base → starts (s'.startBind op (cols, n, p, base)))
    ∧ (∀ sheet hi, op.kind = .eval sheet hi → starts (s'.startEval op sheet))
    ∧ ∀ bf dst first count pitch cols, op.kind = .emit bf dst first count pitch cols →
      starts (s'.startEmit op bf dst first count pitch cols))
  ∧ (∀ (s : State) (op : LigOp),
    let e := s.lig op.core
    let pushes := fun (e' : LigEngine) => s.pushLig op = State.setLig { s with ligOps := s.ligOps ++ [op] } e' ∧ e.issue op = e'
    (op.uid < e.marked → pushes e)
    ∧ (e.marked ≤ op.uid →
      (∀ cols n p base, op.kind = .bind cols n p base → pushes { e with bound := some (cols, n, p, base), mark := 0, marked := op.uid })
      ∧ (∀ sheet hi, op.kind = .eval sheet hi → pushes { e with mark := max e.mark hi })
      ∧ ∀ bf dst first count pitch cols, op.kind = .emit bf dst first count pitch cols → pushes e))
  ∧ (∀ (s : State) (core uid : Nat),
    let waits := fun (o : LigOp) => ∃ g ∈ s.groups, g.core = core ∧ ∃ c, g.run = .waiting (.ligQ c o)
    let queue := s.ligOps.filter fun o => decide (o.core = core ∧ o.start = none)
    (s.ligRoom core uid = true ↔ queue.length < 8 ∧ ∀ o, waits o → uid ≤ o.uid)
    ∧ (s.ligIdle core = true ↔ queue = [] ∧ (∀ o, ¬ waits o) ∧ (s.lig core).freeAt ≤ s.cycle))
  ∧ (∀ (s : State) (core : Nat) (op : LigOp),
    ((s.lig core).stale = false ∨ op.gate ≠ none → s.freshLig core op = s)
    ∧ ((s.lig core).stale = true → op.gate = none → s.freshLig core op = { s with
        mem := s.mem.filter fun x => !(decide (valueKey core 0 ≤ x.1) && decide (x.1 < valueKey core 16384))
        poison := s.poison.filter fun w => !(decide (valueKey core 0 ≤ 8 * w) && decide (8 * w < valueKey core 16384))
        ligs := s.ligs.map fun (e : LigEngine) => if e.core == core then { e with run := none, levels := [], stale := false } else e }))
  ∧ (∀ (s : State) (op : LigOp) (b : Nat × Nat × Nat × Nat), s.startBind op b
    = (s.setLig { s.lig op.core with run := some b, levels := [], freeAt := s.cycle + 1 }, { op with finish := s.cycle + 8 }))
  ∧ (∀ (s : State) (op : LigOp) (bf : Bool) (dst first count pitch cols : Nat),
    let e := s.lig op.core
    let r := s.startEmit op bf dst first count pitch cols
    let valid := fun (i : Nat) => ∃ l, (i, l) ∈ e.levels
    let value := fun (c j : Nat) => s.le (valueKey op.core (c * (16384 / cols) + (first + j))) 4
    let word := fun (c j : Nat) =>
      let x := if s.poisoned (valueKey op.core (c * (16384 / cols) + (first + j))) 4 = true then 0x7FC00000 else value c j
      if bf then roundF .bf16 .rn false (decF .f32 x) else (x, fNone)
    let size := if bf then 2 else 4
    let p := (cols * count + 15) / 16
    (∀ j < count, ¬ valid (first + j) → (∀ i < j, valid (first + i)) →
      r = (s.setLig { e with freeAt := s.cycle + 1 },
        { op with finish := s.cycle, fault := some { cause := 0x0C, c := .ofNat 64 (2 ^ 32 * (first + j) + 2 ^ 63), d := 0 } }))
    ∧ ((∀ j < count, valid (first + j)) →
      r.1 = s.setLig { e with freeAt := s.cycle + p } ∧ r.2 = { op with finish := s.cycle + p + 7, cells := r.2.cells, flags := r.2.flags, bad := r.2.bad }
      ∧ r.2.cells = ((List.range cols).flatMap fun c => (List.range count).flatMap fun j =>
        cellsLE (op.folio + dst + c * pitch + size * j) size (word c j).1)
      ∧ r.2.flags = orFlags ((List.range cols).flatMap fun c => (List.range count).map fun j => (word c j).2)
      ∧ (r.2.bad = none ↔ ∀ c < cols, ∀ j < count, s.poisoned (valueKey op.core (c * (16384 / cols) + (first + j))) 4 = false)))
  ∧ (∀ (s : State) (op : LigOp) (sheet : Nat),
    let e := s.lig op.core
    let x := s.ligView op
    let h := x.sheet (op.folio + sheet)
    let v := ligRun op.core op.folio sheet h.tfmt h.base h.hi h.bytes (e.run.getD (1, 0, 0, 0)) h.count 0
      { st := x, out := [], levels := e.levels, pos := 16, prev := h.lo, cycle := 4, flags := 0, late := none, fault := none }
    x.poisoned (op.folio + sheet) 16 = false →
      s.startEval op sheet = (State.setLig (s.write v.out) { e with levels := v.levels, freeAt := s.cycle + v.cycle },
        { op with finish := s.cycle + v.cycle - 1 + (if v.fault = none then 8 else 0), flags := v.flags, fault := v.fault, bad := v.late }))
  ∧ (∀ (core fk sheet tfmt base hi bytes : Nat) (bnd : Nat × Nat × Nat × Nat) (n j : Nat) (v : LigEval),
    let next := v.one core fk sheet tfmt base hi bytes j bnd
    let run := ligRun core fk sheet tfmt base hi bytes bnd
    run 0 j v = v ∧ (next.fault ≠ none → run (n + 1) j v = next) ∧ (next.fault = none → run (n + 1) j v = run n (j + 1) next)
    ∧ LigatureFollowsR235 v core fk sheet tfmt base hi bytes j bnd)
  ∧ (∀ (s : State) (core cols c tfmt inKey w tk acc : Nat) (ws : List Nat) (fl : Flags),
    let sum := fun (ws : List Nat) (tk acc : Nat) (fl : Flags) => s.ligSum core cols c tfmt inKey ws tk acc fl none
    let add := fun (p : XVal × Flags) (tk : Nat) =>
      let y := sumX .rn [decF .f32 acc, p.1]
      let r := roundF .f32 .rn false y.1
      sum ws tk r.1 (fl ||| (p.2 ||| y.2 ||| r.2))
    let size := if tfmt = 0 then 4 else if tfmt = 2 then 2 else 1
    let xk := inKey + 4 * (w % 2 ^ 20)
    let qk := valueKey core (c * (16384 / cols) + w % 2 ^ 14)
    sum [] tk acc fl = (acc, fl, none)
    ∧ (w / 2 ^ 30 = 0 → s.poisoned tk size = false → s.poisoned xk 4 = false →
      sum (w :: ws) tk acc fl = add (mulX (decF (efmtFloat tfmt) (s.le tk size)) (decF .f32 (s.le xk 4))) (tk + size))
    ∧ (w / 2 ^ 30 ≠ 0 → s.poisoned qk 4 = false → sum (w :: ws) tk acc fl = add (decF .f32 (s.le qk 4), fNone) tk)
    ∧ ((w / 2 ^ 30 = 0 ∧ (s.poisoned tk size = true ∨ s.poisoned xk 4 = true)) ∨ (w / 2 ^ 30 ≠ 0 ∧ s.poisoned qk 4 = true) →
      (sum (w :: ws) tk acc fl).2.2 ≠ none))
  ∧ (∀ (s : State) (op : LigOp), s.ligOps.find? (·.uid == op.uid) = some op → op.start.isSome = true → op.finish ≤ s.cycle →
    let t := State.write { s with ligOps := s.ligOps.filter (·.uid != op.uid) } (gated op.gate op.cells)
    let t := if op.gate.isSome then t else t.lateFlags op.core op.slot op.flags
    let t := t.lateErrorL op.core op.slot op.team op.gate.isSome op.bad
    let ends := fun (u : State) => exec (.ligOpComplete op.uid) s
      = .next (State.reap (((u.ligwaitDone op.core op.slot).freeOldLig op.core op.team).releaseSlot op.core op.slot) op.team)
    (op.fault = none → ends t)
    ∧ ∀ f, op.fault = some f → (op.gate = none → ends (t.ligFault op f)) ∧ (op.gate ≠ none → ends (t.oldLigFault op f)))
  ∧ (∀ (s : State) (op : LigOp) (f : LigFault),
    let queued := fun (o : LigOp) => decide (o.core = op.core ∧ o.start = none)
    let frees := fun (s : State) (gone : List LigOp) => gone.foldl (fun s o => (s.releaseSlot o.core o.slot).reap o.team) s
    let live := ∃ g, s.group? op.core op.slot = some g ∧ g.team = op.team ∧ g.run ≠ .exited
    let e : LigEngine := { s.lig op.core with fault := some f, faultBy := some op.slot }
    let u := State.setLig { s with ligOps := s.ligOps.filter fun o => !queued o } e
    let traps := fun (s : State) => (s.groups.filter fun g => g.core == op.core && g.team == op.team).foldl (fun s g =>
      match g.run with
      | .waiting (.ligwait c) => s.ligTrap c g.core g.slot f
      | .waiting (.ligQ c _) => s.ligTrap c g.core g.slot f
      | _ => s) s
    (live → s.ligFault op f = frees (traps u) (s.ligOps.filter queued))
    ∧ (¬ live → ∀ g, s.group? op.core op.slot = some g → s.ligFault op f = frees (traps (u.orphanLig g)) (s.ligOps.filter queued))
    ∧ (s.group? op.core op.slot = none → s.ligFault op f = frees (traps u) (s.ligOps.filter queued))
    ∧ (let gone := s.ligOps.filter fun o => queued o && o.gate.isSome
      let v : State := { s with ligOps := s.ligOps.filter fun o => !(queued o && o.gate.isSome) }
      ∀ g, s.group? op.core op.slot = some g → s.oldLigFault op f = frees (v.orphanFault g f) gone)
    ∧ (∀ (c : Cur) (core slot : Nat),
      let e := s.lig core
      s.ligTrap c core slot f = State.trapAt (s.setLig { e with faultBy := if e.faultBy = some slot then none else e.faultBy }) c c.pc f.cause 0 f.c f.d)
    ∧ ∀ g : Group,
      let num := ((s.team? g.team).map (·.num)).getD 0
      (∀ e : LigEngine, s.ligs.find? (fun e => e.core == g.core && e.team == some g.team && e.faultBy == some g.slot) = some e → e.fault = some f →
        s.orphanLig g = State.orphanFault { s with ligs := s.ligs.map fun (e : LigEngine) =>
          if e.core == g.core then { e with faultBy := none } else e } g f)
      ∧ (f.cause = 0x0E → s.orphanFault g f = s.nostop g 0x17 (.ofNat 64 f.c.toNat) (.ofNat 64 (f.d.toNat + 2 ^ 48 * (num / 2 ^ 16 % 2 ^ 16))))
      ∧ (f.cause ≠ 0x0E → ∃ x y : DWord, s.orphanFault g f = s.freeWord.2.nostop g 0x17 x y ∧ y.toNat / 2 ^ 48 = num / 2 ^ 16 % 2 ^ 16))
  ∧ ∀ (s : State) (core team : Nat),
    let last := (∃ e ∈ s.ligs, e.core = core ∧ e.team = some team) ∧ (∀ o ∈ s.ligOps, o.core ≠ core) ∧ ∃ t, s.team? team = some t ∧ t.krec.lig = false
    (¬ last → s.freeOldLig core team = s)
    ∧ (last → s.freeOldLig core team = { s.clearLig core with ligs := s.ligs.filter (·.core != core) })

/-! ### Ligatures (10) -/

/-- Steps 1, 3 and 4 of R181 for a span of `n` bytes in aperture 0x0 at a multiple of 16, where it fails them. -/
def SpanTraps (s : State) (c : Cur) (folio addr n : Nat) (run : State → Prop) : Prop :=
  let trap := fun (cause : Nat) => run (s.trapAt c c.pc cause 0 (.ofNat 64 addr) 1)
  (2 ^ 28 ≤ addr → trap 0x06) ∧ (addr < 2 ^ 28 → addr % 16 ≠ 0 → trap 0x05)
  ∧ (addr < 2 ^ 28 → addr % 16 = 0 → folio < addr + n → trap 0x06)

/-- A ligature operation enters its engine's queue, or waits for it behind those that began to wait before `since` (10 R231). -/
def LigEnters (s : State) (c : Cur) (g : Group) (base since : Nat) (kind : LigKind) (run : State → Prop) : Prop :=
  let op : LigOp := { uid := s.uid, core := g.core, slot := g.slot, team := g.team, kind := kind, folio := storeKey g.core base
                      issued := s.cycle, start := none, finish := 0, cells := [], flags := 0, fault := none, bad := none, gate := none }
  (s.ligRoom g.core since = true → run (State.finish (State.pushLig { s with uid := s.uid + 1 } op) c))
  ∧ (s.ligRoom g.core since = false → run (State.wait { s with uid := s.uid + 1 } c (.ligQ c op)))

/-- What a LIGEVAL of the sheet at an address does from its third check on (10 R234); its read of the header is one at issue (04 R98, R101). -/
def EvalFollowsR234 (s : State) (c : Cur) (g : Group) (t : Team) (since addr : Nat) (run : State → Prop) : Prop :=
  let e := s.lig g.core
  let folio := t.krec.folio
  let base := ((t.seat? g.core).map (·.folio)).getD 0
  let key := storeKey g.core (base + addr)
  let h := s.sheet key
  let at_ := fun (cause x : Nat) => run (s.trapAt c c.pc cause 0 (.ofNat 64 x) 1)
  let traps := fun (cause : Nat) => run (s.trap c cause)
  let inside := addr < 2 ^ 28 ∧ addr % 16 = 0 ∧ addr + 16 ≤ folio
  (e.bound = none → traps 0x0C)
  ∧ ∀ cols n p input, e.bound = some (cols, n, p, input) →
    let fits := h.reserved = false ∧ 0 < h.count ∧ h.count ≤ 16384 ∧ 16 ≤ h.bytes ∧ h.bytes % 4 = 0 ∧ h.base + h.count ≤ 16384 / cols
    let early := s.early false g.core (base + addr) h.bytes
    let earlyIn := s.early false g.core (base + input) ((cols - 1) * p + 4 * n)
    SpanTraps s c folio addr 16 run
    ∧ (inside → s.cycle < s.orderHold c.agent false 2 → run (s.retryAt c (s.orderHold c.agent false 2)))
    ∧ (inside → Timely s c false 2 →
      (s.ownPending c.agent key 16 = true → run (s.waitAgain c (.ownWrites key 16)))
      ∧ (s.ownPending c.agent key 16 = false →
        (¬ fits → traps 0x0A)
        ∧ (fits → h.tfmt ∉ [0, 2, 3, 4] → traps 0x09)
        ∧ (fits → h.tfmt ∈ [0, 2, 3, 4] →
          (folio < addr + h.bytes → at_ 0x06 addr)
          ∧ (addr + h.bytes ≤ folio →
            (h.hi < h.lo → traps 0x0D)
            ∧ (h.lo ≤ h.hi → h.lo < e.mark → traps 0x0C)
            ∧ (h.lo ≤ h.hi → e.mark ≤ h.lo →
              (early = true → at_ 0x07 addr)
              ∧ (early = false → earlyIn = true → at_ 0x07 input)
              ∧ (early = false → earlyIn = false → LigEnters s c g base since (.eval addr h.hi) run))))))

/-- What a LIGEMIT does from its third check on (10 R236). -/
def EmitFollowsR236 (s : State) (c : Cur) (g : Group) (t : Team) (since : Nat) (bf : Bool) (addr first count pitch : Nat)
    (run : State → Prop) : Prop :=
  let folio := t.krec.folio
  let base := ((t.seat? g.core).map (·.folio)).getD 0
  ((s.lig g.core).bound = none → run (s.trap c 0x0C))
  ∧ ∀ cols n p input, (s.lig g.core).bound = some (cols, n, p, input) →
    let size := if bf then 2 else 4
    let span := (cols - 1) * pitch + size * count
    let fits := 0 < count ∧ first + count ≤ 16384 / cols ∧ pitch % 16 = 0 ∧ (cols ≤ 1 ∨ size * count ≤ pitch)
    let inside := addr < 2 ^ 28 ∧ addr % 16 = 0 ∧ addr + span ≤ folio
    (¬ fits → run (s.trap c 0x0A))
    ∧ (fits → SpanTraps s c folio addr span run
      ∧ (inside → s.early true g.core (base + addr) span = true → run (s.trapAt c c.pc 0x07 0 (.ofNat 64 addr) 1))
      ∧ (inside → s.early true g.core (base + addr) span = false →
        (s.cycle < s.orderHold c.agent false 2 → run (s.retryAt c (s.orderHold c.agent false 2)))
        ∧ (Timely s c false 2 → LigEnters s c g base since (.emit bf addr first count pitch cols) run)))

/-- LIGBIND, LIGEVAL, LIGEMIT, LIGWAIT and LIGCLR of a group whose kernel declares the engine: they enter the engine's queue or wait for
it, are checked by the binding and the level mark of the operations issued before them, and trap as R226 and R233 to R240 say. LIGWAIT takes
LOCK while the group holds a lock (08 R190). An operation that has waited for the queue is checked anew when it enters. -/
def Obligations.LigatureInstructionsComplete : Prop :=
  (∀ (s : State) (c : Cur) (g : Group) (t : Team) (since : Nat), s.team? g.team = some t →
    (∀ kind, LigEnters s c g (((t.seat? g.core).map (·.folio)).getD 0) since kind fun r => s.enterLig c g since kind = r)
    ∧ (∀ addr, EvalFollowsR234 s c g t since addr fun r => s.ligevalAt c g t since addr = r)
    ∧ ∀ bf addr first count pitch,
      EmitFollowsR236 s c g t since bf addr first count pitch fun r => s.ligemitAt c g t since bf addr first count pitch = r)
  ∧ ∀ s c g t, State.GroupIssuing s c g → s.team? g.team = some t →
    (t.krec.lig = false → ∀ (cc : BitVec 2) (bf : Bool) (a b : SReg),
      ∀ i ∈ [Instr.ligbind cc a b, .ligeval a, .ligemit bf a b, .ligclr], exec i s = .next (s.trap c 0x01))
    ∧ (t.krec.lig = false → exec .ligwait s = .next (s.trap c 0x01))
    ∧ (t.krec.lig = true →
      (s.ligIdle g.core = true → exec .ligclr s = .next (State.finish (s.clearLig g.core) c))
      ∧ (s.ligIdle g.core = false → exec .ligclr s = .next (s.wait c (.ligclr c)))
      ∧ LockTraps s c .ligwait
      ∧ (∀ (cc : BitVec 2) (bf : Bool) (a b : SReg) (i : Instr), (i ∈ [Instr.ligbind cc a b, .ligeval a, .ligemit bf a b] ∨ (i = .ligwait ∧ s.heldLock c.agent = none)) →
        (∀ f, (s.lig g.core).fault = some f → ∃ by_ : Option Nat,
          exec i s = .next (State.trapAt (s.setLig { s.lig g.core with faultBy := by_ }) c c.pc f.cause 0 f.c f.d))
        ∧ (∀ x xs, (s.lig g.core).fault = none → g.uncorrL = x :: xs →
          exec i s = .next (State.trapAt (s.setGroup { g with uncorrL := xs }) c c.pc 0x0E 0 (.ofNat 64 x.1) (.ofNat 64 x.2))))
      ∧ ((s.lig g.core).fault = none → g.uncorrL = [] → ∀ a b : SReg,
      let folio := t.krec.folio
      let base := ((t.seat? g.core).map (·.folio)).getD 0
      let addr := s.src c a % 2 ^ 32
      let runs := fun (i : Instr) (r : State) => exec i s = .next r
      (∀ cc : BitVec 2,
        let cols := 2 ^ cc.toNat
        let n := s.src c b % 2 ^ 32
        let p := s.src c b / 2 ^ 32
        let fits := 0 < n ∧ n ≤ 2 ^ 20 ∧ p % 16 = 0 ∧ (cols = 1 ∨ 4 * n ≤ p)
        let span := (cols - 1) * p + 4 * n
        (¬ fits → exec (.ligbind cc a b) s = .next (s.trap c 0x0A))
        ∧ (fits → SpanTraps s c folio addr span (runs (.ligbind cc a b))
          ∧ (addr < 2 ^ 28 → addr % 16 = 0 → addr + span ≤ folio →
            LigEnters s c g base s.uid (.bind cols n p addr) (runs (.ligbind cc a b)))))
      ∧ EvalFollowsR234 s c g t s.uid addr (runs (.ligeval a))
      ∧ (∀ bf : Bool, EmitFollowsR236 s c g t s.uid bf addr (s.src c b % 2 ^ 16) (s.src c b / 2 ^ 16 % 2 ^ 16) (s.src c b / 2 ^ 32)
        (runs (.ligemit bf a b)))
      ∧ (s.heldLock c.agent = none →
        let own := fun (m : LigOp) => m.core = g.core ∧ m.slot = g.slot ∧ m.gate = none
        ((∀ m ∈ s.ligOps, ¬ own m) → exec .ligwait s = .next (s.finish c))
        ∧ ((∃ m ∈ s.ligOps, own m) → exec .ligwait s = .next (s.waitAgain c (.ligwait c))))))

/-! ### Handoff, allocation, tasks (11) -/

/-- HANDOFF arrives when the group's commits and accesses are complete; once every group has arrived the checks run in R248's order, and
the first that fails stops every group at its HANDOFF with its cause; a chase entry that does not carry over, or space that a core lacks,
holds the handoff (R251, R252); then the team becomes its successor, whose groups take the survivors' slots and read as zero what they do not
inherit, and which then starts; EXITs let the rest be checked (R246 to R255). That a list word in an uncorrectable word, or the descriptor,
is found so before what it holds is looked at, and that a record's page that moves is tried again, are the model's choices (log 35). -/
def Obligations.HandoffsComplete : Prop :=
  (∀ s c g, State.GroupIssuing s c g → ∀ (idx : BitVec 3) (a : SReg) (m : Byte),
    let count := ((s.team? g.team).map (·.krec.nsucc)).getD 0
    (count ≤ idx.toNat → exec (.handoff idx a m) s = .next (s.trap c 0x01))
    ∧ (idx.toNat < count → s.heldLock c.agent ≠ none → exec (.handoff idx a m) s = .next (s.trap c 0x15)))
  ∧ (∀ s c g, State.GroupIssuing s c g → s.heldLock c.agent = none → ∀ (idx : BitVec 3) (a : SReg) (m : Byte),
    idx.toNat < ((s.team? g.team).map (·.krec.nsucc)).getD 0 →
    let addr := (s.src c a % 2 ^ 32 + 64 * m.toNat) % 2 ^ 32
    let s' := { s with commits := s.commits.map fun (x : Commit) => if x.agent == c.agent then { x with left := 0 } else x }
    exec (.handoff idx a m) s = .next ((s'.wait c (.handoff c idx.toNat addr false)).handArrive g.core g.slot))
  ∧ (∀ (s : State) (g : Group) (c : Cur) (i addr : Nat), s.group? g.core g.slot = some g → g.run = .waiting (.handoff c i addr false) →
    let open_ := (∃ m ∈ s.commits, m.agent = .group g.core g.slot) ∨ ∃ l ∈ s.locals, l.agent = .group g.core g.slot
    (open_ → s.handArrive g.core g.slot = s)
    ∧ (¬ open_ → s.handArrive g.core g.slot = State.handCheck (s.setGroup { g with run := .waiting (.handoff c i addr true) }) g.team))
  ∧ (∀ (s : State) (t : Team), s.team? t.uid = some t →
    (∀ g, g ∈ s.live t.uid ↔ g ∈ s.groups ∧ g.team = t.uid ∧ g.run ≠ .exited ∧ g.index < 48)
    ∧ ((s.live t.uid).Pairwise fun g h => g.index ≤ h.index)
    ∧ (∀ n x y,
      let s' := s.setTeam { t with hand := none }
      s.handTrap t.uid n x y = (s.live t.uid).foldl (fun s g => match g.run with
        | .waiting (.handoff c _ _ _) => s.trapAt c c.pc n 0 x y
        | _ => s) s')
    ∧ ((s.live t.uid = [] ∨ t.hand ≠ none ∨ ∃ g ∈ s.live t.uid, ∀ c i a, g.run ≠ .waiting (.handoff c i a true)) → s.handCheck t.uid = s)
    ∧ ∀ g c i addr, (s.live t.uid).head? = some g → t.hand = none → g.run = .waiting (.handoff c i addr true) →
      (∀ h ∈ s.live t.uid, ∃ c i a, h.run = .waiting (.handoff c i a true)) →
      let stops := fun (cause : Nat) (x y : DWord) => s.handCheck t.uid = s.handTrap t.uid cause x y
      let bad := fun (key n : Nat) => ∃ w ∈ s.poison, 8 * w < key + n ∧ key < 8 * w + 8 ∧ stops 0x0E (.ofNat 64 (keyOff (8 * w) / 16 * 16)) 0
      let agree := t.krec.groups ≤ (s.live t.uid).length ∧ ∀ h ∈ s.live t.uid, ∃ c, h.run = .waiting (.handoff c i addr true)
      let step := s.addrStep g ap0 false true addr 64
      let key := (s.locate g addr).1
      let x := s.le key 64
      (¬ agree → stops 0x0B 0 0)
      ∧ (agree → step ≠ 0 → stops ([0, 0x06, 0x08, 0x05, 0x06, 0x07].getD step 0) (.ofNat 64 addr) 1)
      ∧ (agree → step = 0 → s.poisoned key 64 = true → bad key 64)
      ∧ (agree → step = 0 → s.poisoned key 64 = false →
        let count := x / 2 ^ 486 % 32
        let listed := (List.range count).map fun i => 16 * (x / 2 ^ 468 % 2 ^ 18) + 4 * i
        let word := fun (a : Nat) => s.le (s.locate g a).1 4
        let malformed := x / 2 ^ 491 % 2 ^ 21 ≠ 0 ∨ 16 < count ∨ ∃ a ∈ listed, s.addrStep g ap0 false true a 4 ≠ 0
        (malformed → stops 0x0A 0 0)
        ∧ (¬ malformed → (∃ a ∈ listed, s.poisoned (s.locate g a).1 4 = true) → ∃ a ∈ listed, bad (s.locate g a).1 4)
        ∧ (¬ malformed → (∀ a ∈ listed, s.poisoned (s.locate g a).1 4 = false) →
          let va := t.krec.succs.getD i 0
          ((∃ a ∈ listed, 2 ^ 18 ≤ word a) → stops 0x0A 0 0)
          ∧ ((∀ a ∈ listed, word a < 2 ^ 18) → va = 0 → stops 0x0A 0 0)
          ∧ ∀ p, (∀ a ∈ listed, word a < 2 ^ 18) → va ≠ 0 → s.part? (s.partOf g.core) = some p →
            let record := s.farReadN p (g.core / 4) 2 va 256
            (record = .error .busy → s.handCheck t.uid = s)
            ∧ (∀ r l e, record = .error (.bad r l e) → s.handCheck t.uid
              = State.handTrap (s.postFault (s.partOf g.core) (s.faultOf t.uid g.core va r l e 0)) t.uid 0x0A 0 0)
            ∧ ∀ bs, record = .ok bs →
              let k := krecOf va (leNat bs)
              let len := x / 2 ^ 450 % 2 ^ 18
              let first := x / 2 ^ 432 % 2 ^ 18
              let ranges := (if len = 0 then [] else [(16 * first, 16 * (first + len))]) ++ listed.map fun a => (16 * word a, 16 * word a + 16)
              let shape := k.width = t.krec.width ∧ k.groups ≤ t.krec.groups ∧ k.onPair = t.paired
                ∧ (∀ n < 256, x / 2 ^ n % 2 = 1 → n < k.vregs ∧ ∀ h ∈ s.live t.uid, h.index ∈ survivors t.krec k → n < h.vregs)
                ∧ (∀ n < 128, n ≠ 0 → x / 2 ^ (256 + n) % 2 = 1 → n < k.sregs ∧ n < t.krec.sregs)
                ∧ (∀ n < 48, x / 2 ^ (384 + n) % 2 = 1 → n < k.galley ∧ n < t.krec.galley)
                ∧ ∀ r ∈ ranges, r.2 ≤ k.folio ∧ r.2 ≤ t.krec.folio
              let hand : Hand := { idx := i, addr := addr, succ := k, vmap := x % 2 ^ 256, smap := x / 2 ^ 256 % 2 ^ 128 / 2 * 2
                                   gmap := x / 2 ^ 384 % 2 ^ 48, ranges := ranges, since := s.cycle }
              (s.krecOk (leNat bs) = false → stops 0x0A 0 0)
              ∧ (s.krecOk (leNat bs) = true → ¬ shape → stops 0x0B 0 0)
              ∧ (s.krecOk (leNat bs) = true → shape → s.handCheck t.uid = s.setTeam { t with hand := some hand }))))
  ∧ (∀ old new : KRec, (survivors old new).length = new.groups ∧ ∀ i < new.groups, (survivors old new).getD i 0
      = if old.onPair = false ∨ i < (new.groups + 1) / 2 then i else (old.groups + 1) / 2 + i - (new.groups + 1) / 2)
  ∧ (∀ (s : State) (t : Team) (h : Hand), (∀ r ∈ h.ranges, r.1 % 16 = 0 ∧ r.2 % 16 = 0) →
    let sv := survivors t.krec h.succ
    let wide := fun (g : Group) => windowBytes g.vregs g.width
    let next := fun (g : Group) => windowBytes h.succ.vregs g.width
    (s.handHeld t h = true ↔ ∃ e ∈ s.chases, e.team = t.uid ∧ s.carried t h e = false)
    ∧ (∀ e : Chase,
      let words := fun (w : Nat × Nat) =>
        (∃ m, s.cmd? e.tag = some m ∧ ∃ r ∈ m.recvs, r.core = e.span.core ∧ (w = (r.arr, 16) ∨ ∃ a, r.resw = some a ∧ w = (a, 8)))
          ∨ ∃ r ∈ s.treqs, r.uid = e.tag ∧ w = (r.word, 16)
      s.carried t h e = true ↔ ∃ x, t.seat? e.span.core = some x ∧ Covered h.ranges (e.span.lo - x.folio) (e.span.hi - x.folio)
        ∧ ∀ w, words w → Covered h.ranges (w.1 - x.folio) (w.1 - x.folio + w.2))
    ∧ (s.handFits t h = true ↔ ∀ x ∈ t.seats,
      let kept := fun (r : Nat × Nat) =>
        (∃ g ∈ s.groups, g.core = x.core ∧ g.run ≠ .exited ∧ (g.team = t.uid → g.index ∈ sv)
          ∧ (r = (g.sblk, 1024) ∨ r = (g.win, if g.team = t.uid then min (wide g) (next g) else wide g)))
        ∨ ∃ u ∈ s.teams, ∃ y ∈ u.seats, y.core = x.core ∧ r.2 ≠ 0
          ∧ r = (y.folio, if u.uid = t.uid then min u.krec.folio h.succ.folio else u.krec.folio)
      let free := fun (n : Nat) => n < 48 ∧ ∀ u ∈ s.teams, ∀ y ∈ u.seats, y.core = x.core → n ∉ y.tiles
      (∀ r ∈ s.handGrows t h x.core, r.1 + r.2 ≤ 2359296 ∧ ∀ q, kept q → Clear q r)
      ∧ (s.handGrows t h x.core).Pairwise Clear
      ∧ (s.newFolio t h x ≠ none)
      ∧ (∃ ns : List Nat, ns.Nodup ∧ (∀ n ∈ ns, free n) ∧ h.succ.galley ≤ t.krec.galley + ns.length)
      ∧ (h.succ.lig = true → t.krec.lig = true ∨ (∀ e ∈ s.ligs, e.core = x.core → e.team = none)
        ∨ ∃ e ∈ s.ligs, e.core = x.core ∧ e.team = some t.uid))
    ∧ (∀ core r, r ∈ s.handGrows t h core ↔
      (∃ g ∈ s.live t.uid, g.core = core ∧ g.index ∈ sv ∧ wide g < next g ∧ r = (g.win + wide g, next g - wide g))
      ∨ ∃ x ∈ t.seats, x.core = core ∧ t.krec.folio ≠ 0 ∧ t.krec.folio < h.succ.folio
        ∧ r = (x.folio + t.krec.folio, h.succ.folio - t.krec.folio))
    ∧ ∀ x, (t.krec.folio ≠ 0 ∨ h.succ.folio = 0 → s.newFolio t h x = some x.folio)
      ∧ (t.krec.folio = 0 → h.succ.folio ≠ 0 → LowestFree (s.keptRegions t h x.core ++ s.handGrows t h x.core ++ s.guards x.core)
        h.succ.folio 768 (s.newFolio t h x)))
  ∧ (∀ (s : State) (t : Team) (h : Hand), s.team? t.uid = some t → t.hand = some h →
    (s.handHeld t h = false → s.handFits t h = true → exec (.handoffTransfer t.uid) s = .next (s.handTransfer t h))
    ∧ (s.handHeld t h = true ∨ s.handFits t h = false → exec (.handoffTransfer t.uid) s = .next s))
  ∧ (∀ (s : State) (t : Team) (h : Hand), s.Inv → s.team? t.uid = some t → h.succ.vregs ≤ 256 →
    (∀ g ∈ s.groups, s.group? g.core g.slot = some g) → (∀ r ∈ h.ranges, r.1 % 16 = 0 ∧ r.2 % 16 = 0) →
    let sv := survivors t.krec h.succ
    let keep := sv.filterMap fun i => (s.live t.uid).find? (·.index == i)
    let u := s.handTransfer t h
    keep ≠ [] →
    (∃ v, u.team? t.uid = some v ∧ v = { t with
        krec := h.succ, seats := v.seats, formes := .replicate 16 0, bound := h.succ.binds.length, started := false, hand := none
        notBefore := s.cycle + 24 + (maxL (t.seats.map fun x =>
          tagged h t.krec.width (keep.filter (·.core == x.core)).length) + 767) / 768 }
      ∧ v.seats.map (·.core) = t.seats.map (·.core)
      ∧ ∀ i x y, nth t.seats i = some x → nth v.seats i = some y → y.folio = (if h.succ.folio = 0 then 0 else (s.newFolio t h x).getD x.folio)
        ∧ ∃ more, y.tiles = x.tiles.take h.succ.galley ++ more ∧ ∀ n ∈ more, n < 48 ∧ ∀ j < 4096, u.byte (tileKey x.core n + j) = 0)
    ∧ (∃ rest new, u.groups = rest ++ new ∧ new.length = keep.length ∧ (∀ r ∈ rest, ∀ g ∈ keep, ¬ (r.core = g.core ∧ r.slot = g.slot))
      ∧ ∀ i g, nth keep i = some g → ∃ b, nth new i = some
        { Group.new g.core g.slot g.team i g.placed s.cycle h.succ g.win g.sblk b with width := g.width })
    ∧ (∀ g ∈ s.live t.uid, g.index ∉ sv → ∀ x, u.group? g.core g.slot = some x → x.run = .exited)
    ∧ (∀ g ∈ keep,
      (∀ v < h.succ.vregs, h.vmap / 2 ^ v % 2 = 0 → ∀ j < 4 * g.width, u.byte (g.vkey v 0 + j) = 0)
      ∧ ∀ r < 128, r ≠ 0 → h.smap / 2 ^ r % 2 = 0 → ∀ j < 8, u.byte (g.skey r + j) = 0)
    ∧ (∀ x ∈ t.seats,
      (∀ o < h.succ.folio, (∀ r ∈ h.ranges, o < r.1 ∨ r.2 ≤ o) →
        u.byte (storeKey x.core ((s.newFolio t h x).getD x.folio + o)) = 0)
      ∧ ∀ i n, nth x.tiles i = some n → i < h.succ.galley → h.gmap / 2 ^ i % 2 = 0 → ∀ j < 4096, u.byte (tileKey x.core n + j) = 0)
    ∧ (∀ a, u.byte a = s.byte a ∨ u.byte a = 0)
    ∧ ∀ a,
      let out := fun (lo n : Nat) => a < lo ∨ lo + n ≤ a
      (∀ g ∈ s.live t.uid, g.index ∉ sv → out (storeKey g.core g.win) (windowBytes g.vregs g.width) ∧ out (storeKey g.core g.sblk) 1024) →
      (∀ g ∈ keep,
        let b := windowBytes h.succ.vregs g.width
        out (storeKey g.core (g.win + b)) (windowBytes g.vregs g.width - b)
        ∧ (∀ v < h.succ.vregs, h.vmap / 2 ^ v % 2 = 0 → out (g.vkey v 0) (4 * g.width))
        ∧ ∀ r < 128, r ≠ 0 → h.smap / 2 ^ r % 2 = 0 → out (g.skey r) 8) →
      (∀ x ∈ t.seats, out (storeKey x.core (x.folio + h.succ.folio)) (t.krec.folio - h.succ.folio)
        ∧ (∀ o < h.succ.folio, (∀ r ∈ h.ranges, o < r.1 ∨ r.2 ≤ o) → a ≠ storeKey x.core ((s.newFolio t h x).getD x.folio + o))
        ∧ (∀ n < 48, n ∉ x.tiles → out (tileKey x.core n) 4096)
        ∧ (∀ i n, nth x.tiles i = some n → (h.succ.galley ≤ i ∨ h.gmap / 2 ^ i % 2 = 0) → out (tileKey x.core n) 4096)
        ∧ out (valueKey x.core 0) (valueKey x.core 16384 - valueKey x.core 0)) →
      u.byte a = s.byte a)
  ∧ (∀ (s : State) (t : Team), s.team? t.uid = some t → t.hand = none → exec (.handoffTransfer t.uid) s = .next (s.handCheck t.uid))
  ∧ (∀ (s : State) (t : Team), s.team? t.uid = some t → t.started = false → t.notBefore ≤ s.cycle →
    exec (.successorStart t.uid) s = .next (State.setTeam { s with groups := s.groups.map fun (g : Group) =>
      if g.team == t.uid then { g with readySince := s.issueCount g.core, notBefore := s.cycle } else g } { t with started := true }))
  ∧ ∀ (s : State) (core granule : Nat), exec (.scrubWrite core granule) s
      = .next { s with scrub := untag s.scrub (core * 2 ^ 22 / 16 + granule) }

/-- GROW takes registers that read as zero, or waits for space, or takes LOCK while the group holds a lock (08 R190); waiting GROWs are rechecked
in the order of their first attempts; SHRINK gives registers back; when nothing can move on a core, the waiter in the highest slot fails (R257 to
R259). -/
def Obligations.AllocationCompletes : Prop :=
  (∀ s c g, State.GroupIssuing s c g → ∀ m : Byte,
    let n := m.toNat + 1
    (∀ d : SReg, LockTraps s c (.grow d m))
    ∧ (s.heldLock c.agent = none → ∀ d : SReg,
      (n ≤ g.vregs → exec (.grow d m) s = .next (State.resume (s.setSregA c.agent d.toNat 0) c))
      ∧ (g.vregs < n → s.growFits g n = true →
        exec (.grow d m) s = .next (State.resume ((State.zero (s.setGroup { g with vregs := n }) (g.vkey g.vregs 0)
          ((n - g.vregs) * 4 * g.width)).setSregA c.agent d.toNat 0) c))
      ∧ (g.vregs < n → s.growFits g n = false → exec (.grow d m) s = .next (State.wait { s with uid := s.uid + 1 } c (.grow c d n s.uid))))
    ∧ (g.vregs ≤ n → exec (.shrink m) s = .next (s.finish c))
    ∧ (n < g.vregs →
      let lo := g.vkey n 0
      let hi := g.vkey g.vregs 0
      let s' := { s with
        commits := s.commits.map fun (x : Commit) => if x.agent == c.agent then x.without lo hi else x
        locals := s.locals.filterMap fun (l : Local) => if l.agent == c.agent then l.without lo hi else some l }
      let keep := windowBytes n g.width
      exec (.shrink m) s = .next (State.finish ((s'.setGroup { g with vregs := n }).freeRegion g.core (g.win + keep)
        (windowBytes g.vregs g.width - keep)) c)))
  ∧ ∀ (s : State) (g : Group) (c : Cur) (d : SReg) (n t : Nat), s.group? g.core g.slot = some g → g.run = .waiting (.grow c d n t) →
    let earlier := ∃ h ∈ s.groups, h.core = g.core ∧ ∃ c' d' n' t', h.run = .waiting (.grow c' d' n' t') ∧ t' < t ∧ s.growFits h n' = true
    (earlier → exec (.growRecheck g.core g.slot) s = .next s)
    ∧ (s.growFits g n = false → exec (.growRecheck g.core g.slot) s = .next s)
    ∧ (¬ earlier → s.growFits g n = true → exec (.growRecheck g.core g.slot) s
      = .next (State.resume (State.setSregA (s.growTake g n) c.agent d.toNat 0) c))
    ∧ (g.slot = maxL ((s.groups.filter fun h => h.core == g.core && h.run != .exited).map (·.slot)) →
      (∀ h ∈ s.groups, h.core = g.core → h.run ≠ .exited → s.waitsSpace h = true) →
      (∀ h ∈ s.groups, h.core = g.core → h.slot = g.slot → h = g) → g ∈ s.groups →
      exec (.allWaitingFailure g.core) s = .next (State.resume (s.setSregA c.agent d.toNat 0x10) c))

/-- TASKQ registers a request with a chase entry over its answer slot; TASKPUSH makes a ready or a pending record; TASKDONE counts its
successors down; LAUNCH writes a packet at a ring's tail (R262 to R266). An operand out of range takes ILLOP, an address that fails takes its
trap, an arrival word inside the answer slot takes DESCRIPTOR; a domain that has ended answers 0x17, a full pending table 0x13, a queue that
may not be launched to 0x15. The read of a record waits for what writes it, and takes UNCORR for an uncorrectable word of it (04 R98, R101, 18 R390).
Entries whose count has reached zero move to the ready queue in the order in which they did, ahead of what is pushed (R264); a domain is sealed by a
record with SEAL, and ends once nothing of it is ready, pending, moving or handed out (R261). That a descriptor on a page that is not served
answers 0x15 too, and what a ring entry on such a page leads to, are the model's choices (log 35). -/
def Obligations.TaskInstructionsComplete : Prop :=
  (∀ (s : State) (cl n : Nat),
    let waits := fun (y : TaskRec) (k : Nat) => y ∈ s.tpending ∧ y.cluster = cl ∧ y.zeroAt = some k
    s.readyRoom cl = 4096 - (s.tready.filter (·.cluster == cl)).length
    ∧ (s.stalled cl = none ↔ ∀ y k, ¬ waits y k)
    ∧ (∀ x, s.stalled cl = some x → ∃ k, waits x k ∧ ∀ y j, waits y j → k ≤ j)
    ∧ s.drainPending cl 0 = s
    ∧ (s.stalled cl = none ∨ s.readyRoom cl = 0 → s.drainPending cl (n + 1) = s)
    ∧ ∀ x, s.stalled cl = some x → s.readyRoom cl ≠ 0 → s.drainPending cl (n + 1) = State.drainPending { s with
        tready := s.tready ++ [{ x with zeroAt := none }], tpending := s.tpending.filter (· != x) } cl n)
  ∧ (∀ (s : State) (l : Launch), s.launch? l.uid = some l →
    let drained_ := l.sealed = true ∧ l.outstanding = 0 ∧ (∀ x ∈ s.tready, x.launch ≠ l.uid) ∧ (∀ x ∈ s.tpending, x.launch ≠ l.uid)
      ∧ ∀ x ∈ s.ttransit, x.launch ≠ l.uid
    (drained_ → l.ended = false → s.domainEnd l.uid = s.setLaunch { l with ended := true })
    ∧ (¬ drained_ ∨ l.ended = true → s.domainEnd l.uid = s)
    ∧ (∀ x, x / 2 ^ 257 % 2 = 1 → s.sealDomain l.uid x = s.setLaunch { l with sealed := true })
    ∧ ∀ x, x / 2 ^ 257 % 2 = 0 → s.sealDomain l.uid x = s)
  ∧ (∀ (s : State) (lid h : Nat),
    let named := fun (y : TaskRec) => y.cluster == h / 1024 && y.idx == h % 1024 && y.launch == lid
    let put := fun (y : TaskRec) => replaceBy (· == y)
    s.doneHandle lid (2 ^ 32 - 1) = (s, false)
    ∧ (h ≠ 2 ^ 32 - 1 → 2 ^ 17 ≤ h ∨ s.tpending.find? named = none → s.doneHandle lid h = (s, true))
    ∧ ∀ y, h < 2 ^ 17 → s.tpending.find? named = some y →
      (y.count = 0 → s.doneHandle lid h = (s, false))
      ∧ (1 < y.count → s.doneHandle lid h = ({ s with tpending := put y { y with count := y.count - 1 } s.tpending }, false))
      ∧ (y.count = 1 → s.doneHandle lid h = (State.drainPending { s with
          tpending := put y { y with count := 0, zeroAt := some s.uid } s.tpending, uid := s.uid + 1 } y.cluster pendingMax, false)))
  ∧ ∀ s c g t l, State.GroupIssuing s c g → s.team? g.team = some t → s.launch? t.launch = some l → ∀ d a b : SReg,
    let addr := s.src c a % 2 ^ 32
    let x := s.le (s.locate g addr).1 64
    let y := s.src c b
    let here := g.core / 4
    let reads := ReadsAtIssue s c g ap0 addr 64 ∧ Timely s c true 2
    let ends := fun (s : State) (v : Nat) => State.finish (s.setSregA c.agent d.toNat (.ofNat 64 v)) c
    (let word := y % 2 ^ 32;
      let slotOff := (s.locate g addr).1 % 2 ^ 22;
      let wordOff := (s.locate g word).1 % 2 ^ 22;
      s.addrStep g ap0 false true addr 64 ∈ [0, 5] → s.addrStep g ap0 false true word 16 ∈ [0, 5] → (word < addr ∨ addr + 64 ≤ word) →
      (t.tqOut < 16 → s.slotFits g.core slotOff = true → exec (.taskq d a b) s = .next (s.askTask c g d slotOff wordOff))
      ∧ s.askTask c g d slotOff wordOff = State.resume (State.setSregA (State.setTeam { s with
          uid := s.uid + 1
          treqs := s.treqs ++ [{ uid := s.uid, cluster := here, launch := t.launch, team := t.uid, core := g.core, slot := slotOff, word := wordOff }]
          chases := s.chases ++ [{ span := { core := g.core, lo := slotOff, hi := slotOff + 64, dest := true }, team := t.uid, tag := s.uid }] }
            { t with tqOut := t.tqOut + 1 }) c.agent d.toNat 0) c
      ∧ (s.slotFits g.core slotOff = true ↔ (s.chases.filter (·.span.core == g.core)).length < 64
        ∧ ∀ e ∈ s.chases, e.span.dest = false → e.span.core = g.core → e.span.hi ≤ slotOff ∨ slotOff + 64 ≤ e.span.lo)
      ∧ (t.tqOut < 16 → s.slotFits g.core slotOff = false → exec (.taskq d a b) s = .next (s.waitAgain c (.taskq c d slotOff wordOff)))
      ∧ (16 ≤ t.tqOut → exec (.taskq d a b) s = .next (ends s 0x11)))
    ∧ (let word := y % 2 ^ 32;
      let cause := fun (k : Nat) => [0, 0x06, 0x08, 0x05, 0x06].getD k 0;
      let slotStep := s.addrStep g ap0 false true addr 64;
      let wordStep := s.addrStep g ap0 false true word 16;
      (slotStep ∉ [0, 5] → exec (.taskq d a b) s = .next (s.trapAt c c.pc (cause slotStep) 0 (.ofNat 64 addr) 1))
      ∧ (slotStep ∈ [0, 5] → wordStep ∉ [0, 5] → exec (.taskq d a b) s = .next (s.trapAt c c.pc (cause wordStep) 0 (.ofNat 64 word) 1))
      ∧ (slotStep ∈ [0, 5] → wordStep ∈ [0, 5] → addr ≤ word → word < addr + 64 → exec (.taskq d a b) s = .next (s.trap c 0x0A)))
    ∧ (2 ^ 16 ≤ y → exec (.taskpush d a b) s = .next (s.trap c 0x01))
    ∧ (2 ^ 14 ≤ y → exec (.launch d a b) s = .next (s.trap c 0x01))
    ∧ (let readFails := fun (i : Instr) => TrapsAt s c g ap0 false false 64 [(0, addr)] i ∧ ReadHeld s c g ap0 true addr 64 i;
      (y < 2 ^ 16 → readFails (.taskpush d a b)) ∧ (y < 2 ^ 14 → readFails (.launch d a b)) ∧ readFails (.taskdone d a))
    ∧ (reads → y < 2 ^ 16 → l.ended = true → exec (.taskpush d a b) s = .next (ends (s.drainPending here pendingMax) 0x17))
    ∧ (reads → y < 2 ^ 16 → l.ended = false →
      let image := x - 2 ^ 256 * (x / 2 ^ 256 % 2)
      let s' := s.drainPending here pendingMax
      let rec_ := fun (i : Nat) => ({ cluster := here, launch := l.uid, image := .ofNat 512 image, idx := i, count := y, zeroAt := none } : TaskRec)
      (y = 0 → 0 < s'.readyRoom here → exec (.taskpush d a b) s
        = .next (ends (State.sealDomain { s' with tready := s'.tready ++ [rec_ 0] } l.uid image) 0))
      ∧ (y = 0 → s'.readyRoom here = 0 → exec (.taskpush d a b) s = .next (ends s' 0x12))
      ∧ (∀ i, 0 < y → ((List.range 1024).find? fun i => !s'.tpending.any fun z => z.cluster == here && z.idx == i) = some i →
        exec (.taskpush d a b) s = .next (ends (State.sealDomain { s' with tpending := s'.tpending ++ [rec_ i] } l.uid image)
          (2 ^ 32 * (i + 1024 * here))))
      ∧ (0 < y → (∀ i < 1024, ∃ z ∈ s'.tpending, z.cluster = here ∧ z.idx = i) → exec (.taskpush d a b) s = .next (ends s' 0x13)))
    ∧ (reads →
      let s' := s.setLaunch { l with outstanding := l.outstanding - 1 }
      let r0 := s'.doneHandle l.uid (x / 2 ^ 192 % 2 ^ 32)
      let r1 := r0.1.doneHandle l.uid (x / 2 ^ 224 % 2 ^ 32)
      exec (.taskdone d a) s = .next (ends (r1.1.domainEnd l.uid) (if r0.2 || r1.2 then 0x14 else 0)))
    ∧ (reads → y < 2 ^ 14 → ∀ p, s.part? (s.partOf g.core) = some p →
      let refused := fun (s : State) => exec (.launch d a b) s = .next (ends s 0x15)
      (s.boot.lock = false ∨ p.qtcount ≤ y → refused s)
      ∧ (s.boot.lock = true → y < p.qtcount →
        (∀ q, s.qdesc p y = .ok q → (q.en = false ∨ q.rsize < 4 ∨ 16 < q.rsize ∨ (q.devw = false ∧ l.priv = false)) → refused s)
        ∧ (∀ r v e, s.qdesc p y = .error (.bad r v e) → exec (.launch d a b) s
          = .next (ends ((s.ppFault p.p (s.hwSlotOf p.p y) (p.qaddr y) r v e 0).queueError p y 5) 0x15))
        ∧ (s.qdesc p y = .error .busy → exec (.launch d a b) s = .next (s.retryAt c 0))
        ∧ ∀ q, s.qdesc p y = .ok q →
          let at_ := farWrap (q.rbase + 64 * (q.widx.toNat % 2 ^ q.rsize))
          let slot := s.hwSlotOf p.p y
          (∀ r v e, s.farKey p p.ppUnit true at_ = .bad r v e → s.launchPacket p y q x = (s.ppFault p.p slot at_ r v e 1).queueError p y 5)
          ∧ (∀ k, s.farKey p p.ppUnit true at_ = .key k →
            s.launchPacket p y q x = (s.ppWrite p slot at_ (leBytes 64 x)).notify p.p y (q.widx + 1).toNat)))
    ∧ (reads → ∀ p q, s.part? (s.partOf g.core) = some p → s.boot.lock = true → y < p.qtcount → y < 2 ^ 14 → s.qdesc p y = .ok q →
      q.en = true → 4 ≤ q.rsize → q.rsize ≤ 16 → (q.devw = true ∨ l.priv = true) →
      ((q.widx - q.ridx).toNat < 2 ^ q.rsize →
        s.farKey p p.ppUnit true (farWrap (q.rbase + 64 * (q.widx.toNat % 2 ^ q.rsize))) ≠ .busy →
        exec (.launch d a b) s = .next (ends (s.launchPacket p y q x) 0))
      ∧ (2 ^ q.rsize ≤ (q.widx - q.ridx).toNat → exec (.launch d a b) s = .next (ends s 0x16)))

/-! ### The proof core (14, 16, 17) -/

/-- The debug window's table (14 R294): which bytes are memory, what the other doublewords read as and what writing them does, the code of
an access (R295), and what a DBGWR writes: each byte at its offset, s0 apart (05 R118: a changed program counter is checked anew). Which code
is recorded where several apply, and code 5 for a DBGWR, is the model's reading (log 22). -/
def DebugWindow (s : State) : Prop :=
  (∀ (g : Group) (t : Team) (o : Nat), s.team? g.team = some t →
    let place := fun (f : Seat → Nat) => (t.seat? g.core).map f
    (o < 0x10000 → s.debugKey g o = if o < g.vregs * 4 * g.width then some (g.vkey 0 0 + o) else none)
    ∧ (0x10000 ≤ o → o < 0x10400 → s.debugKey g o = some (g.skey 0 + (o - 0x10000)))
    ∧ (0x100000 ≤ o → o < 0x200000 → s.debugKey g o
      = if o - 0x100000 < t.krec.folio then place fun x => storeKey g.core (x.folio + (o - 0x100000)) else none)
    ∧ (0x200000 ≤ o → o < 0x300000 → s.debugKey g o
      = if (o - 0x200000) / 4096 < t.krec.galley then place fun x => tileKey g.core (x.tiles.getD ((o - 0x200000) / 4096) 0) + o % 4096 else none)
    ∧ (0x10400 ≤ o → o < 0x100000 ∨ 0x300000 ≤ o → s.debugKey g o = none)
    ∧ (∀ k, s.debugKey g o = some k → s.debugByte g o = some (if 0x10000 ≤ o ∧ o < 0x10008 then 0
      else if s.poisoned k 1 then Config.freeByte s.fresh k else s.byte k))
    ∧ (s.debugKey g o = none → s.debugByte g o = (s.debugWord g (o / 8 * 8)).map fun x => .ofNat 8 (x / 2 ^ (8 * (o % 8)))))
  ∧ (∀ (g : Group) (t : Team) (x : Nat), s.team? g.team = some t →
    let put := fun (o : Nat) (h : Group) => s.setDebugWord g o x = s.setGroup h
    let ignored := fun (o : Nat) => s.setDebugWord g o x = s
    (s.debugWord g 0x10400 = some g.pc.toNat ∧ put 0x10400 { g with pc := .ofNat 64 x, checkPc := true, fresh := false })
    ∧ (s.debugWord g 0x10408 = some g.fstat.toNat ∧ put 0x10408 { g with fstat := .ofNat 6 x })
    ∧ (s.debugWord g 0x10410 = some g.dsel.toNat ∧ put 0x10410 { g with dsel := .ofNat 64 x &&& 0xFF7F })
    ∧ (s.debugWord g 0x10418 = some t.num ∧ ignored 0x10418)
    ∧ (∀ n : MReg, let o := 0x10440 + 8 * n.toNat
      s.debugWord g o = some (g.mask n).toNat ∧ put o (g.setMask n (.ofNat 64 x)))
    ∧ (∀ n : Fin 8, let o := 0x104C0 + 24 * n.val
      let j := g.rejoins[n]
      let set := fun (j : Rejoin) => { g with rejoins := g.rejoins.set n.val j }
      s.debugWord g o = some j.enrolled.toNat ∧ put o (set { j with enrolled := .ofNat 64 x })
      ∧ s.debugWord g (o + 8) = some j.arrived.toNat ∧ put (o + 8) (set { j with arrived := .ofNat 64 x })
      ∧ s.debugWord g (o + 16) = some j.point.toNat ∧ put (o + 16) (set { j with point := .ofNat 64 x }))
    ∧ ((∃ y, s.debugWord g 0x10580 = some y ∧ y < 2 ^ 8 ∧ ∀ n : Fin 8, y / 2 ^ n.val % 2 = if (g.rejoins[n]).valid then 1 else 0)
      ∧ put 0x10580 { g with rejoins := g.rejoins.mapIdx fun n j => { j with valid := x / 2 ^ n % 2 == 1 } })
    ∧ (∀ k < 4, let o := 0x10588 + 8 * k
      let m := g.parkMap - 2 ^ (64 * k) * (g.parkMap / 2 ^ (64 * k) % 2 ^ 64) + 2 ^ (64 * k) * (x % 2 ^ 64)
      s.debugWord g o = some (g.parkMap / 2 ^ (64 * k) % 2 ^ 64)
      ∧ put o { g with rejoins := g.rejoins.mapIdx fun n j =>
          { j with parked := maskOf ((List.range g.width).filter fun i => m / 2 ^ (4 * i) % 16 == 8 + n) } })
    ∧ (∀ i < 64, g.parkMap / 2 ^ (4 * i) % 16
      = match (List.range 8).find? fun n => (g.rejoins.toList.getD n .off).parked.getLsbD i with
        | some n => 8 + n
        | none => 0)
    ∧ (s.debugWord g 0x105A8 = some (match g.lock with
        | some l => 2 ^ 63 + l.2
        | none => 0) ∧ ignored 0x105A8)
    ∧ ∀ (n : Fin 16) (k : Nat), k < 8 → let o := 0x300000 + 64 * n.val + 8 * k
      let f := (t.formes[n]).toNat
      s.debugWord g o = some (f / 2 ^ (64 * k) % 2 ^ 64)
      ∧ s.setDebugWord g o x = s.setTeam { t with
        formes := t.formes.set n.val (.ofNat 512 (f - 2 ^ (64 * k) * (f / 2 ^ (64 * k) % 2 ^ 64) + 2 ^ (64 * k) * (x % 2 ^ 64))) })
  ∧ (∀ (p : ProofCore) (at_ : Nat × Nat) (g : Group) (wr : Bool) (o n : Nat), p.map = some at_ → s.group? at_.1 at_.2 = some g →
    let outside := ∃ i < n, s.debugByte g (o + i) = none
    let inSpan := wr = true ∧ ∃ i < n, o + i < 0x200000 ∧ ∃ k, s.debugKey g (o + i) = some k ∧ ∃ e ∈ s.chases, e.span.overlaps (keyCore k) (keyOff k) 1 = true
    s.debugCode p wr o n = if outside then 2 else if inSpan then 3 else if o % n ≠ 0 then 4
      else if 0x200000 ≤ o ∧ o < 0x300000 ∧ ∃ m ∈ s.mats, m.team = g.team then 5 else 0)
  ∧ (∀ p : ProofCore, (∀ at_, p.map = some at_ → s.group? at_.1 at_.2 = none) → ∀ wr o n, s.debugCode p wr o n = 1)
  ∧ (∀ (core slot : Nat) (g : Group) (o : Nat) (b : Byte), s.group? core slot = some g →
    (∀ k, s.debugKey g o = some k → s.setDebugByte core slot (o, b) = s)
    ∧ (s.debugKey g o = none → s.debugWord g (o / 8 * 8) = none → s.setDebugByte core slot (o, b) = s)
    ∧ ∀ x, s.debugKey g o = none → s.debugWord g (o / 8 * 8) = some x →
      let sh := 2 ^ (8 * (o % 8))
      s.setDebugByte core slot (o, b) = s.setDebugWord g (o / 8 * 8) (x - sh * (x / sh % 256) + sh * b.toNat))
  ∧ (∀ (core slot : Nat) (g : Group) (o : Nat) (bs : List Byte), s.group? core slot = some g → s.Inv → bs.length ∈ [1, 2, 4, 8] → o % bs.length = 0 →
    let t := s.debugWrite core slot (cellsAt o bs)
    t = (cellsAt o bs).foldl (fun s b => s.setDebugByte core slot b) (s.write (s.debugCells core slot (cellsAt o bs)))
    ∧ (∀ i k b, s.debugKey g (o + i) = some k → nth bs i = some b → ¬ (0x10000 ≤ o + i ∧ o + i < 0x10008) → t.byte k = b)
    ∧ ∀ a, (∀ i < bs.length, s.debugKey g (o + i) = some a → 0x10000 ≤ o + i ∧ o + i < 0x10008) → t.byte a = s.byte a)
  ∧ ∀ (l : Local) (core slot o reg : Nat),
    (∀ bs, l.op = .debug core slot o (some bs) reg → s.performAny l = s.debugWrite core slot (cellsAt o bs))
    ∧ (∀ g, l.op = .debug core slot o none reg → s.group? core slot = some g →
      s.performAny l = State.feed { s with fresh := s.fresh + 1 } l.commit []
        (dstReg (some reg) (leNat ((List.range l.size).map fun i => (s.debugByte g (o + i)).getD 0))) fNone)

/-- The debug window: DBGMAP maps a trapped group of the cluster whose record is queued, its commits being complete (01 R32), and answers 1
for a slot with no group and 2 for any other group; DBGRD and DBGWR make an access of 60 cycles, a read performed in cycle c + 58 and a write in c + 59 (04 R92), whose code DBGSTAT
keeps (14 R293 to R296); that the code is decided, and DBGSTAT written, when the access issues is the model's reading (log 22). TRET
gives a trapped group back and TRET #1 ends it, once the proof core's accesses are over; the mapping ends (R297). -/
def Obligations.DebugInstructionsComplete : Prop :=
  (∀ s : State, DebugWindow s) ∧
  (∀ s c k, State.ProofIssuing s c k → ∀ (d a : SReg),
    let p := s.proof k
    let ends := fun (s : State) (x : Nat) => State.finish (s.setSregA c.agent d.toNat (.ofNat 64 x)) c
    (∀ core slot : Nat, core < 4 → slot < 32 → s.src c a = core + 4 * slot →
      let at_ := 4 * p.cluster + core
      let map := fun (m : Option (Nat × Nat)) (x : Nat) => ends (s.setProof { p with map := m }) x
      (∀ g r, s.group? at_ slot = some g → g.run = .trapped r true → exec (.dbgmap d a) s = .next (map (some (at_, slot)) 0))
      ∧ (s.group? at_ slot = none → exec (.dbgmap d a) s = .next (map none 1))
      ∧ (∀ g, s.group? at_ slot = some g → g.run = .exited → exec (.dbgmap d a) s = .next (map none 1))
      ∧ (∀ g, s.group? at_ slot = some g → g.run ≠ .exited → (∀ r, g.run ≠ .trapped r true) → exec (.dbgmap d a) s = .next (map none 2)))
    ∧ (128 ≤ s.src c a → exec (.dbgmap d a) s = .next (s.trap c 0x01))
    ∧ exec (.dbgmapU d) s = .next (ends (s.setProof { p with map := none }) 0)
    ∧ ∀ (wd : Width) (m : Byte),
      let n := wsize wd
      let off := (s.src c a % 2 ^ 32 + n * m.toNat) % 2 ^ 32
      let code := fun (wr : Bool) => s.debugCode p wr off n
      let coded := fun (x : Nat) => { s.setProof { p with dbgstat := .ofNat 64 x } with uid := s.uid + 1 }
      let access := fun (w : Option (List Byte)) (commit reg : Nat) (at_ : Nat × Nat) =>
        ({ uid := s.uid, agent := c.agent, due := s.cycle + (if w.isSome then 59 else 58), commit := commit, addr := off, size := n, acq := false
           op := .debug at_.1 at_.2 off w reg } : Local)
      (p.map = none → ∀ wr, code wr = 1)
      ∧ (∀ la : BitVec 4,
        (code false = 0 → ∀ at_, p.map = some at_ → exec (.dbgrd la wd d a m) s
          = .next (State.launchLocals (State.later (coded 0) c 60 la.toNat id) [access none (s.uid + 1) d.toNat at_]))
        ∧ (code false ≠ 0 → exec (.dbgrd la wd d a m) s
          = .next (State.later (coded (code false)) c 60 la.toNat fun x => { x with regs := dstReg (some d.toNat) 0 })))
      ∧ (code true = 0 → ∀ at_, p.map = some at_ → exec (.dbgwr wd d a m) s
        = .next (State.launchLocals (State.finish (coded 0) c) [access (some (leBytes n (s.src c d))) 0 0 at_]))
      ∧ (code true ≠ 0 → exec (.dbgwr wd d a m) s = .next (State.finish (coded (code true)) c)))
  ∧ (∀ s c k, State.ProofIssuing s c k → s.localsOf c.agent ≠ [] →
    exec .tret s = .next (s.retryAt c 0) ∧ exec .tretExit s = .next (s.retryAt c 0))
  ∧ ∀ s c k, State.ProofIssuing s c k → s.localsOf c.agent = [] →
    let p := s.proof k
    let s' := s.setProof { p with map := none }
    let same := fun (t : State) => exec .tret s = .next t ∧ exec .tretExit s = .next t
    (∀ m g, p.map = some m → s.group? m.1 m.2 = some g → (∀ r, g.run ≠ .trapped r true) → same (s'.finish c))
    ∧ (∀ m, p.map = some m → s.group? m.1 m.2 = none → same (State.finish (s.setProof { p with dbgstat := 1, map := none }) c))
    ∧ (∀ m g r, p.map = some m → s.group? m.1 m.2 = some g → g.run = .trapped r true →
      let free : State := { s' with cmds := s'.cmds.filter fun m => !(m.agent == .group g.core g.slot && !m.charged) }
      exec .tret s = .next (State.finish (free.setGroup { g with run := .ready, notBefore := s.cycle + 1, line := none }) c)
      ∧ exec .tretExit s = .next (State.finish ((free.endGroup g.core g.slot).handCheck g.team) c))
    ∧ (p.map = none → same (State.finish (s.setProof { p with dbgstat := 1, map := none }) c))

/-- PREEMPT asks for the pre-emption of a slot's teams in the cluster and answers with its status; PREEMPT.Q reads how far it has
come (14 R299, R300); which status is answered where several apply is the model's reading (log 24). XLATINV answers 1
for an operand out of range; else its shootdown goes to the partition and the proof core waits for its completion, once every request
that used a dropped entry has ended and what it fills with zeros is filled; that writes status 0 (16 R341, R342). -/
def Obligations.PreemptionRequestsAndShootdownsComplete : Prop :=
  (∀ s c k, State.ProofIssuing s c k → ∀ d a b : SReg,
    let p := s.proof k
    let hw := s.src c a
    let root := s.src c b
    let ends := fun (s : State) (x : Nat) => State.finish (s.setSregA c.agent d.toNat (.ofNat 64 x)) c
    (64 ≤ hw → exec (.preempt d a b) s = .next (s.trap c 0x01) ∧ exec (.preemptQ d a) s = .next (s.trap c 0x01))
    ∧ (hw < 64 →
      (s.contextTeams hw p.cluster = [] → exec (.preempt d a b) s = .next (ends s 1))
      ∧ (s.contextTeams hw p.cluster ≠ [] →
        (s.preemptOpen hw p.cluster = true → exec (.preempt d a b) s = .next (ends s 2))
        ∧ (s.preemptOpen hw p.cluster = false →
          (root % 4096 ≠ 0 → exec (.preempt d a b) s = .next (ends s 3))
          ∧ (root % 4096 = 0 → exec (.preempt d a b) s = .next (ends (s.requestPreempt hw p.cluster root none false) 0))))
      ∧ exec (.preemptQ d a) s
        = .next (ends s (((s.preempts.find? fun q => q.hw == hw && q.cluster == p.cluster).map (·.st)).getD 0))))
  ∧ (∀ s c k, State.ProofIssuing s c k → ∀ d a : SReg,
    let x := s.src c a
    let p := s.proof k
    let inval := fun (i : Instr) (kind : Nat) (ok : Prop) =>
      (ok → exec i s = .next (State.shoot (s.setProof { s.proof p.cluster with wait := some (.xlat c d s.uid) })
        (s.partOfDie (p.cluster / 12)) kind x (some p.cluster)))
      ∧ (¬ ok → exec i s = .next (State.finish (s.setSregA c.agent d.toNat 1) c))
    inval (.xlatinvPg d a) 0 (x < 2 ^ 57 ∧ x % 65536 = 0)
    ∧ inval (.xlatinvAll d a) 1 (x = 0)
    ∧ inval (.xlatinvUnreach d a) 2 (x < 128)
    ∧ inval (.xlatinvReach d a) 3 (x < 128))
  ∧ (∀ (s : State) (hw cluster root : Nat) (space : Option Nat) (sched : Bool),
    let t := s.requestPreempt hw cluster root space sched
    (∀ u, u ∈ s.contextTeams hw cluster ↔ (∃ v, s.team? u = some v ∧ v.exited = false) ∧ ∃ t ∈ s.teams, t.exited = false
      ∧ ((t.seats.head?.map (·.core)).getD 0) / 4 = cluster ∧ (∃ l, s.launch? t.launch = some l ∧ l.hw = hw)
      ∧ ((t.cset = none ∧ u = t.uid) ∨ ∃ n, t.cset = some n ∧ ∃ v ∈ s.teams, v.uid = u ∧ v.launch = t.launch ∧ v.cset = some n))
    ∧ (∃ q ∈ t.preempts, q = { id := s.uid, hw := hw, cluster := cluster, root := root, space := space
                               teams := s.contextTeams hw cluster, at_ := s.time, st := q.st, forced := 0, sched := sched, live := [] } ∧ (q.st = 1 ∨ q.st = 2))
    ∧ (∀ k n g w, s.group? k n = some g → g.team ∈ s.contextTeams hw cluster → g.run = .waiting w →
      (match w with
        | .ownWrites .. | .ligclr _ | .safept .. => False
        | _ => True) → (t.group? k n).map (·.run) = some (.saving .wait none))
    ∧ t = { s with uid := s.uid + 1, preempts := t.preempts, groups := t.groups, teams := t.teams, cmds := t.cmds, locks := t.locks
                   lockReqs := t.lockReqs })
  ∧ (∀ (s : State) (p : Partition) (kind operand : Nat) (from_ : Option Nat), s.part? p.p = some p → kind < 4 → operand < 2 ^ 57 →
    (2 ≤ kind → operand < 128) →
    let x : Shoot := { id := s.uid, kind := kind, operand := operand, from_ := from_, begun := false, reqs := [] }
    let t := s.shoot p.p kind operand from_
    let mine := fun (cluster : Nat) => s.partOfDie (cluster / 12) = p.p
    (∀ y ys, p.shoots = y :: ys → y.begun = true → t = State.setPart { s with uid := s.uid + 1 } { p with shoots := p.shoots ++ [x] })
    ∧ (p.shoots = [] →
      (∀ c ∈ t.cached, mine c.cluster → ¬ Drops kind operand c.unit c.count c.ep c.tables)
      ∧ (∀ c ∈ s.cached, ¬ mine c.cluster ∨ ¬ Drops kind operand c.unit c.count c.ep c.tables → ∃ d ∈ t.cached, d = { c with ptrs := d.ptrs })
      ∧ (∀ m ∈ t.cmds, mine m.cluster → m.charged = true → ∀ u ∈ m.units, ∀ l e a ts, u.res ≠ .walking l e a ts)
      ∧ ∃ q, t.part? p.p = some q
        ∧ (∀ e < 128, q.reach e = if e = operand ∧ kind = 2 then false else if e = operand ∧ kind = 3 then true else p.reach e)
        ∧ ∃ rs, q.shoots = [{ x with begun := true, reqs := rs }] ∧ ∀ k, k ∈ rs ↔ ∃ r ∈ s.reqs, k = (r.cmd, r.n) ∧ r.part = p.p
          ∧ r.run ≠ .finished ∧ ∃ m, s.cmd? r.cmd = some m ∧ ∃ u ∈ m.units, ∃ ep page cls cmp wr first count tables,
            u.res = .served (.ok ep page cls cmp wr first count tables) ∧ (u.va / 65536 = r.va / 65536 ∨ r.op = .copy)
              ∧ Drops kind operand first count ep tables))
  ∧ ∀ (s : State) (p : Partition) (x : Shoot) (rest : List Shoot), s.part? p.p = some p → p.shoots = x :: rest → x.begun = true →
    (∀ r ∈ x.reqs, (∀ q, s.req? r.1 r.2 = some q → q.run = .finished
        ∧ (q.op = .copy → ∀ z ∈ s.reqs, z.cmd = r.1 → z.op = .fill → z.run = .finished))
      ∧ ∀ m, s.cmd? r.1 = some m → ∀ i ∈ m.items, i.fill = true → i.done = true) →
    let s' := s.setPart { p with shoots := rest }
    (x.from_ = none → exec (.shootdownComplete p.p) s = .next (s'.beginShoot p.p))
    ∧ ∀ k c d, x.from_ = some k → (s.proof k).wait = some (.xlat c d x.id) →
      exec (.shootdownComplete p.p) s = .next (State.beginShoot (State.resume (s'.setSregA c.agent d.toNat 0) c) p.p)

/-- Control and status registers with their values, and the queues that TQNEXT and FEVNEXT take records from or wait for (14 R291, R292,
17 R362); an endpoint is reachable where a data plane is in service at it and at some lane of the package (17 R347, R360). -/
def Obligations.ControlAndStatusRegistersComplete : Prop :=
  (∀ (s : State) (p : ProofCore),
    let reads := fun (r : Csr) (x : DWord) => s.csr p r = x
    reads .pcid (.ofNat 64 (p.cluster + 2 ^ 8 * s.partOfDie (p.cluster / 12)))
    ∧ reads .treca p.trec.a ∧ reads .trecb p.trec.b ∧ reads .trecc p.trec.c ∧ reads .trecd p.trec.d
    ∧ reads .tqcount (.ofNat 64 p.queue.length) ∧ reads .orphovf (p.orphovf.setWidth 64) ∧ reads .dbgstat p.dbgstat ∧ reads .predl p.predl
    ∧ reads .feva p.feva ∧ reads .fevb p.fevb ∧ reads .fevcount (.ofNat 64 p.fev.length) ∧ reads .fevovf (p.fevovf.setWidth 64)
    ∧ reads .fepid (.ofNat 64 s.boot.endpoint)
    ∧ ∀ e < 128, ((if e < 64 then s.csr p .preach0 else s.csr p .preach1).getLsbD (e % 64) = true
      ↔ ∃ plane < 256, s.moduleLane e plane = true ∧ ∃ k < 4, s.planeLane plane k ≠ none)) ∧
  (∀ s c k, State.ProofIssuing s c k → ∀ d a : SReg,
    let p := s.proof k
    let x := s.sregA c.agent a.toNat
    (∀ r, exec (.csrrd d r) s = .next (State.finish (s.setSregA c.agent d.toNat (s.csr p r)) c))
    ∧ exec (.csrwr .orphovf a) s = .next (State.finish (s.setProof { p with orphovf := p.orphovf &&& ~~~ (x.setWidth 32) }) c)
    ∧ exec (.csrwr .fevovf a) s = .next (State.finish (s.setProof { p with fevovf := p.fevovf &&& ~~~ (x.setWidth 32) }) c)
    ∧ exec (.csrwr .predl a) s = .next (State.finish (s.setProof { p with
        predl := if 1 ≤ x.toNat ∧ x.toNat ≤ 1000 then x else 100 }) c)
    ∧ (∀ r rest, p.queue = r :: rest → exec (.tqnextRead d) s
        = .next (State.finish (State.setSregA (s.setProof { p with trec := r.2, queue := rest }) c.agent d.toNat r.2.a) c))
    ∧ (p.queue = [] → exec (.tqnextRead d) s = .next (s.pwait p.cluster (.tqnext c d)))
    ∧ (∀ r rest, p.fev = r :: rest → exec (.fevnextRead d) s
        = .next (State.finish (State.setSregA (s.setProof { p with feva := r.1, fevb := r.2, fev := rest }) c.agent d.toNat r.1) c))
    ∧ (p.fev = [] → exec (.fevnextRead d) s = .next (s.pwait p.cluster (.fevnext c d))))
  ∧ ∀ (s : State) (k : Nat) (c : Cur) (d : SReg),
    let p := s.proof k
    (∀ r rest, p.wait = some (.tqnext c d) → p.queue = r :: rest → exec (.tqnextWaitEnd k) s
      = .next (State.resume (State.setSregA (s.setProof { p with trec := r.2, queue := rest }) c.agent d.toNat r.2.a) c))
    ∧ ∀ r rest, p.wait = some (.fevnext c d) → p.fev = r :: rest → exec (.fevnextWaitEnd k) s
      = .next (State.resume (State.setSregA (s.setProof { p with feva := r.1, fevb := r.2, fev := rest }) c.agent d.toNat r.1) c)

/-! ### The fetch path, the fabric's streams and the modules (03, 16, 17) -/

/-- The end of a unit's walk (16 R331, R333, R338): a served unit is done, one that is not posts its fault, or merges it; with the last unit
the residency word is written, the padding is zeroed, and the requests go out (03 R65, R77, R86); a PAGEREQ ends in its word and one addition of
1 (08 R201). A run that has a far byte that is not served is filled as a whole. A command retires with its last byte counted, and its source
entry with its last request (03 R83, R85). -/
def UnitsAreServed (s : State) : Prop :=
  (∀ (m : Cmd) (u : FUnit) (o : XOut),
    let t := s.cache m.cluster u.va o
    let part := t.partOf (agentCore m.agent)
    let put := fun (t : State) (f : FUnit → FUnit) =>
      t.setCmd { m with units := m.units.map fun v => if v.va = u.va ∧ v.write = u.write then f v else v }
    (∀ ep page cls cmp wr first n ts, o = .ok ep page cls cmp wr first n ts →
      s.serveUnit m u o = put t fun v => { v with res := .served o, done := true })
    ∧ ∀ r l e, o = .bad r l e →
      let x := t.faultOf m.team (agentCore m.agent) u.va r l e (if m.kind = .pagereq then 2 else if u.write then 1 else 0)
      let late := m.kind == .pagereq && u.refused
      let t' := if late then t else t.postFault part x
      s.serveUnit m u o = put t' fun v =>
        { v with res := .served o, done := late, posted := (t'.part? part).any fun p => p.holds x, faulted := true })
  ∧ (∀ m : Cmd, s.cmd? m.uid = some m →
    (s.armed m = false → s.unitsDone m.uid = s)
    ∧ (s.armed m = true → m.kind = .pagereq →
      s.unitsDone m.uid = if m.units.all (·.done) then
        State.retireCmd (State.countRecvs (s.writeRes m) m 1 (if m.units.any (fun u => u.refused && !u.served) then 4 else 0)) m
      else s)
    ∧ (s.armed m = true → m.kind ≠ .pagereq → (m.resDone = true ∨ ∃ u ∈ m.units, u.over = false) → s.unitsDone m.uid = s)
    ∧ (s.armed m = true → m.kind ≠ .pagereq → m.resDone = false → (∀ u ∈ m.units, u.over = true) →
      let n := { m with items := m.numbered.map fun p => { m.settleItem p.1 with box := (p.2, 0) }, resDone := true }
      let a := (s.setCmd n).writeRes n
      let b := if m.kind.fetches then a.zeroFolio n m.pads else a
      s.unitsDone m.uid = State.settleCmd { b with reqs := b.reqs ++ n.makeReqs (b.partOf (agentCore m.agent)) 0 0 } m.uid))
  ∧ (∀ (m : Cmd) (i : Item) (a : Nat), i.far = some a →
    let served := fun (write : Bool) (va : Nat) => ∀ u ∈ unitsOf va i.len, ∃ x, m.unitOf write (u * 65536) = some x ∧ x.served = true
    (i.far2 = none → served (m.kind.writes || m.kind == .copy) a → m.settleItem i = i)
    ∧ (i.far2 = none → ¬ served (m.kind.writes || m.kind == .copy) a → m.settleItem i = { i with fill := true, nrf := true })
    ∧ ∀ b, i.far2 = some b → (served false a → m.settleItem i = i)
      ∧ (¬ served false a → served true b → m.settleItem i = { i with far := some b, far2 := none, nrf := true })
      ∧ (¬ served false a → ¬ served true b → m.settleItem i = { i with fill := true, nrf := true }))
  ∧ ∀ m : Cmd, s.cmd? m.uid = some m →
    let busy := m.kind = .pagereq ∨ m.resDone = false ∨ ∃ r ∈ s.reqs, r.cmd = m.uid ∧ r.run ≠ .finished
    let counted := ∀ i ∈ m.items, i.fill = true → i.done = true
    let a : State := { s with
      chases := s.chases.filter (·.tag != m.uid), cmds := s.cmds.filter (·.uid != m.uid), reqs := s.reqs.filter (·.cmd != m.uid) }
    let b : State := if m.bindingOf.isSome then
      { a with groups := a.groups.map fun (g : Group) => if g.team == m.team then { g with notBefore := a.cycle + 1 } else g } else a
    (busy → s.settleCmd m.uid = s)
    ∧ (¬ busy → counted → s.settleCmd m.uid = (dedup (m.team :: (s.chases.filter (·.tag == m.uid)).map (·.team))).foldl State.reap b)
    ∧ (¬ busy → ¬ counted → s.settleCmd m.uid = { s with chases := s.chases.filter fun e => !(e.tag == m.uid && !e.span.dest) })

/-- How a stream goes on (17 R352, R355, R357, R358): a burst needs a way, and takes one chunk of its stream, or two of one transaction that
fit; 16 chunks at most are unacknowledged; copies on no lane are sent again first. -/
def StreamsGoOn (s : State) : Prop :=
  (∀ p : TxStream → Bool, s.flow p = (s.tx.filter p).foldl (fun s x =>
    let adrift := x.copies ≠ [] ∧ (x.lane = none ∨ ∃ c ∈ x.copies, c.lane = none)
    let t := if adrift then s.resend x x.copies else s
    let y := t.txOf x.src x.dst x.stream x.vc
    t.pump y.waiting.length y) s)
  ∧ (∀ (x : TxStream) (n : Nat),
    let cs := x.waiting.take (min (burstSize x.waiting) (16 - x.copies.length))
    s.pump 0 x = s.setTx x
    ∧ (cs = [] ∨ s.emit x cs = none → s.pump (n + 1) x = s.setTx x)
    ∧ ∀ t l, cs ≠ [] → s.emit x cs = some (t, l) → s.pump (n + 1) x = t.pump n { x with
      copies := x.copies ++ cs.map (fun c => { c with lane := some l }), waiting := x.waiting.drop cs.length, lane := some l
      progress := if x.copies = [] then s.time else x.progress })
  ∧ (∀ (x : TxStream) (cs : List Chunk), s.emit x cs
    = (s.way x.src x.dst x.vc (cs.head?.bind s.chunkHw)).map fun w => (s.send w x.src x.dst x.stream x.vc cs, w.lane))
  ∧ (∀ (c d : Chunk) (cs : List Chunk), burstSize [] = 0 ∧ burstSize [c] = 1
    ∧ burstSize (c :: d :: cs) = if c.flits + d.flits ≤ 16 ∧ c.cmd = d.cmd ∧ c.req = d.req then 2 else 1)
  ∧ (∀ (x : TxStream) (cs : List Chunk) (n : Nat),
    s.emitAgain x n [] = (s, [])
    ∧ s.emitAgain x 0 cs = (s, cs.map fun c => { c with lane := none })
    ∧ (cs ≠ [] → s.emit x (cs.take (burstSize cs)) = none → s.emitAgain x (n + 1) cs = (s, cs.map fun c => { c with lane := none }))
    ∧ ∀ t l, cs ≠ [] → s.emit x (cs.take (burstSize cs)) = some (t, l) →
      let q := t.emitAgain x n (cs.drop (burstSize cs))
      s.emitAgain x (n + 1) cs = (q.1, (cs.take (burstSize cs)).map (fun c => { c with lane := some l }) ++ q.2))
  ∧ ∀ (x : TxStream) (cs : List Chunk),
    let r := s.emitAgain x cs.length cs
    let l := if cs = [] then x.lane else r.2.getLast?.bind (·.lane)
    s.resend x cs = r.1.setTx { x with
      progress := s.time, copies := x.copies.map fun c => (r.2.find? (·.seq == c.seq)).getD { c with lane := l }, lane := l }

/-- What a chunk in sequence does at its command (03 R71, R76, R391): its parts are told apart, a coded block that goes on waits for the rest of
it, what has arrived is written, zero where it is in error, and all of it is counted in one addition with its flags. -/
def ChunksAreDelivered (s : State) : Prop :=
  (∀ c : Chunk, s.cmd? c.cmd = none ∨ s.req? c.cmd c.req = none → s.deliver c = s)
  ∧ (∀ (c : Chunk) (m : Cmd) (r : Req), s.cmd? c.cmd = some m → s.req? c.cmd c.req = some r →
    let x := partsArrive c.bad r.piece c.bytes c.parts
    let as := x.1.filter fun a => r.owed.any (· == (a.lo, a.hi))
    let q : Req := { r with piece := x.2 }
    let t := as.foldl (fun t a => t.add q a) { m := m, out := [], n := 0, err := false, nrf := false : Taken }
    let rest : Req := { q with owed := r.owed.filter fun w => !as.any fun a => w == (a.lo, a.hi) }
    (r.run ≠ .accepted → s.deliver c = s)
    ∧ (r.run = .accepted → as = [] → s.deliver c = s.setReq q)
    ∧ (r.run = .accepted → as ≠ [] → s.deliver c = State.settleCmd (State.countRecvs
      (State.writeFolio ((s.setCmd t.m).setReq (if rest.left = [] ∧ rest.owed = [] then { rest with run := .finished } else rest)) t.m t.out)
      t.m t.n ((if t.nrf then 8 else 0) + if t.err then 4 else 0)) m.uid))
  ∧ (∀ (bad : Bool) (piece : List Byte × Bool) (bs : List Byte) (p : Part) (ps : List Part),
    let here := bs.take p.n
    let whole := (piece.1 ++ here, piece.2 || bad)
    partsArrive bad piece bs [] = ([], piece)
    ∧ (p.coded = false → partsArrive bad piece bs (p :: ps)
      = (let r := partsArrive bad piece (bs.drop p.n) ps; ({ lo := p.lo, hi := p.hi, cells := cellsAt p.lo here, bad := bad } :: r.1, r.2)))
    ∧ (p.coded = true → p.more = true → partsArrive bad piece bs (p :: ps) = partsArrive bad whole (bs.drop p.n) ps)
    ∧ (p.coded = true → p.more = false → partsArrive bad piece bs (p :: ps)
      = (let r := partsArrive bad ([], false) (bs.drop p.n) ps; (blockArrived p whole :: r.1, r.2))))
  ∧ (∀ (t : Taken) (r : Req) (a : Arrived),
    let m := t.m
    let cells := if m.kind.fetches || r.op.isAtomic then a.cells else []
    let got := m.got ++ if m.kind.fetches && !a.bad then a.cells else (List.range (a.hi - a.lo)).map fun j => (a.lo + j, 0)
    let each := fun (p : Item × Nat) =>
      if r.items.any (· == p.2) && p.1.meetsWindow (a.lo, a.hi) then deliverItem m (a.lo, a.hi) cells m.got got a.bad p.1 else (p.1, [], 0, false, false)
    let rs := m.numbered.map each
    let x := t.add r a
    x.m.items = rs.map (·.1) ∧ x.out = t.out ++ rs.flatMap (·.2.1) ∧ x.n = t.n + sumL (rs.map (·.2.2.1))
    ∧ x.err = (t.err || rs.any (·.2.2.2.1)) ∧ x.nrf = (t.nrf || rs.any (·.2.2.2.2)))
  ∧ ∀ (m : Cmd) (w : Nat × Nat) (bs old got : List Host.Cell) (bad : Bool) (i : Item),
    let n := i.sourceDone got - i.sourceDone old
    let j : Item := { i with bad := i.bad || bad }
    let record := i.form ≠ .plain
    (∀ op ty, i.form = .plain → m.kind = .atom op ty → deliverItem m w bs old got bad i
      = (i, i.loc.zip ((List.range 8).map fun k => if bad then 0 else memGet bs (w.1 + k)), i.cnt, bad, i.nrf))
    ∧ (∀ a, i.form = .plain → (∀ op ty, m.kind ≠ .atom op ty) → i.far = some a → deliverItem m w bs old got bad i
      = (i, if m.kind.fetches then (plainPart i w bs).map fun b => (b.1, if bad then 0 else b.2) else [],
        min (a + i.len) w.2 - max a w.1, bad || i.bad, i.nrf))
    ∧ (record → i.done = true ∨ (i.fill = true ∧ m.kind.fetches = true) → deliverItem m w bs old got bad i = (j, [], 0, false, false))
    ∧ (record → i.done = false → m.kind.fetches = true → i.fill = false → deliverItem m w bs old got bad i
      = if i.whole got then ({ j with done := true }, (j.expand got).1, i.cnt, (j.expand got).2, i.nrf) else (j, [], 0, false, false))
    ∧ (record → i.done = false → m.kind.fetches = false → deliverItem m w bs old got bad i
      = ({ j with done := !i.fill && i.whole got, cnt := i.cnt - n }, [], n, j.bad, i.nrf && !i.fill))

/-- Requests are sent against grants and again after a refusal's delay, in the order of their engine; a unit's walk ends in its outcome, or
in where its waiting requests go now; a burst that arrives sound at the port of its wavelength is accepted in sequence and
acknowledges, any other is discarded; a receiver of chunks owes their sender an acknowledgement, which rides in the header of the next
burst to it or in one of its own, that a grant lets go (when it goes is the model's choice, log 18); zero fill counts 256 bytes at a time,
in the order of the box, once what was written to the arrival words before is performed; streams are replayed; grants come in turn, go out, are refused and asked for again (03 R86, R87, 08 R198, 16 R331, 17
R347, R352 to R360). -/
def Obligations.FetchPathEventsComplete : Prop :=
  ∀ s : State,
    (∀ (m : Cmd) (r : Req), s.cmd? m.uid = some m → s.req? m.uid r.n = some r → s.maySend m r = true →
      (r.run = .unsent → exec (.requestSend m.uid r.n) s = .next (s.sendReq m r))
      ∧ (∀ h due, r.run = .refused h due → due ≤ s.time → exec (.requestRetry m.uid r.n) s = .next (s.sendReq m r))
      ∧ (s.reqs.filter fun q => q.team == r.team && q.ep == r.ep && q.run.pends).length < 8
      ∧ (∀ q ∈ s.reqsBefore r, q.team = r.team → q.ep = r.ep → q.run ≠ .unsent ∧ ∀ h due, q.run = .refused h due → s.time < due)
      ∧ (let x := s.txOf s.boot.endpoint r.ep (s.streamFor r) 0;
        16 ≤ x.copies.length ∨ s.way s.boot.endpoint r.ep 0 (s.hwOf r.team) = none → s.sendReq m r = s))
    ∧ UnitsAreServed s ∧ StreamsGoOn s ∧ ChunksAreDelivered s
    ∧ (∀ (m : Cmd) (k : Nat), s.cmd? m.uid = some m → m.charged = false ∨ s.saving m.team = true →
      exec (.translationWalkComplete m.uid k) s = .next s)
    ∧ (∀ (m : Cmd) (u : FUnit) (k : Nat), s.cmd? m.uid = some m → m.charged = true → s.saving m.team = false → nth m.units k = some u →
      (∀ o, u.res = .ended o →
        (m.resDone = false → exec (.translationWalkComplete m.uid k) s = .next ((s.serveUnit m u o).unitsDone m.uid))
        ∧ (m.resDone = true → exec (.translationWalkComplete m.uid k) s = .next (s.reaim m u o)))
      ∧ ∀ p, u.res = .pending → s.part? (s.partOf (agentCore m.agent)) = some p →
        exec (.translationWalkComplete m.uid k) s
          = .next (s.setCmd { m with units := s.beginList p m.cluster (32 - s.walksIn m.cluster) m.units }))
    ∧ (∀ (k : Nat) (b : Burst), nth s.wire k = some b →
      let s' := { s with wire := dropNth s.wire k }
      let l := s.lane b.lane.1 b.lane.2
      let own := s.boot.endpoint
      let sound := if l.bad = 0 then s' else s'.setLane { l with bad := 0 }
      ((b.src + b.wave) % 128 = own → s.arrivedBurst own b .intact = some b)
      ∧ ((b.src + b.wave) % 128 ≠ own → ∀ t, s.arrivedBurst own b t = none)
      ∧ s.arrivedBurst own b .uncorrected = none
      ∧ ∀ t, (b.chunks ≠ [] →
          (s.arrivedBurst own b t = none → exec (.responseBurstReceive k t) s = .next (s'.discard b))
          ∧ ∀ c, s.arrivedBurst own b t = some c → exec (.responseBurstReceive k t) s
            = .next (State.acceptChunks ((sound.takeAck c).oweAck c) c c.chunks))
        ∧ (b.chunks = [] →
          (s.arrivedBurst own b t = none → exec (.ackOnlyReceive k t) s = .next (s'.discard b))
          ∧ ∀ c, s.arrivedBurst own b t = some c → exec (.ackOnlyReceive k t) s = .next (sound.takeAck c)))
    ∧ (∀ b : Burst,
      let x := s.socket b.lane.1
      let l := s.lane b.lane.1 b.lane.2
      let t := State.setLane (s.setSocket { x with discards := x.discards + 1 }) { l with bad := l.bad + 1 }
      s.discard b = if l.bad = 7 then { t with agenda := t.agenda ++ [.laneLost b.lane.1 b.lane.2] } else t)
    ∧ (∀ (n : Nat) (b c : Burst) (t : Transit), nth s.out n = some b →
      let s' := { s with out := dropNth s.out n }
      (s.arrivedBurst b.dst b t = none → s.carry n t = s')
      ∧ (s.arrivedBurst b.dst b t = some c → s.lapsed c = true → s.carry n t = s'.refuseBurst c)
      ∧ (s.arrivedBurst b.dst b t = some c → s.lapsed c = false →
        s.carry n t = ((s'.takeAck c).oweAck c).takeChunks c c.chunks))
    ∧ (∀ b : Burst, s.oweAck b = if b.chunks = [] then s
      else s.setRx { dst := b.dst, src := b.src, stream := b.stream, vc := b.vc, next := s.rxNext b.dst b.src b.stream b.vc, owes := true })
    ∧ (∀ src dst : Nat,
      (∀ y, s.ackFor src dst = some y → y ∈ s.rx ∧ y.dst = src ∧ y.src = dst ∧ y.owes = true)
      ∧ (s.ackFor src dst = none → ∀ y ∈ s.rx, y.dst = src → y.src = dst → y.owes = false)
      ∧ (∀ (w : Way) (stream vc : Nat) (cs : List Chunk) (y : RxStream), s.ackFor src dst = some y →
        let b : Burst := { src := src, dst := dst, wave := (dst + 128 - src) % 128, stream := stream, vc := vc, lane := w.lane, chunks := cs
                           ack := some (y.stream, y.vc, y.next), pin := w.pin }
        let t := (s.use w).setRx { y with owes := false }
        s.send w src dst stream vc cs = if dst = s.boot.endpoint then { t with wire := t.wire ++ [b] } else { t with out := t.out ++ [b] }))
    ∧ (∀ y : RxStream,
      (∀ w, s.ackFor y.dst y.src ≠ none → s.way y.dst y.src 1 none = some w → s.ackOnly y = s.send w y.dst y.src y.stream 1 [])
      ∧ (s.ackFor y.dst y.src = none ∨ s.way y.dst y.src 1 none = none → s.ackOnly y = s))
    ∧ (∀ (b : Burst) (c : Chunk) (cs : List Chunk),
      let n := s.rxNext b.dst b.src b.stream b.vc
      let t := s.setRx { dst := b.dst, src := b.src, stream := b.stream, vc := b.vc, next := n + 1, owes := true }
      s.acceptChunks b (c :: cs) = (if c.seq = n then t.deliver c else s).acceptChunks b cs
      ∧ s.takeChunks b (c :: cs) = (if c.seq = n then t.takeRequest c else s).takeChunks b cs)
    ∧ (∀ m : Cmd, s.cmd? m.uid = some m → m.charged = true → s.saving m.team = false → s.armed m = true → m.resDone = true →
      m.kind ≠ .pagereq →
      let x := takeFill 256 (s.toFill m)
      let s' := s.setCmd { m with items := m.numbered.map fun p => ((x.items.find? (·.2 == p.2)).map (·.1)).getD p.1 }
      let zeroes := match m.kind with
        | .atom .. => true
        | k => k.fetches
      exec (.zeroFillAddition m.uid) s
        = .next (State.settleCmd ((if zeroes then s'.zeroFolio m x.locs else s').countRecvs m x.count (arrFlags x.nrf x.err)) m.uid))
    ∧ (∀ m : Cmd, s.cmd? m.uid = some m →
      (s.saving m.team = true ∨ m.charged = false ∨ s.armed m = false → exec (.zeroFillAddition m.uid) s = .next s)
      ∧ (s.saving m.team = false → m.charged = true → s.armed m = true → m.kind = .pagereq ∨ m.resDone = false →
        exec (.zeroFillAddition m.uid) s = .next (s.unitsDone m.uid))
      ∧ (s.armed m = true ↔
        (∀ r ∈ m.recvs, s.writeOwed m.uid (storeKey r.core r.arr) 16 = false)
        ∧ ∀ x ∈ m.spans, x.dest = true → s.writeOwed m.uid (storeKey x.core x.lo) (x.hi - x.lo) = false))
    ∧ (∀ uid key n : Nat, s.writeOwed uid key n = true
      ↔ ∃ l ∈ s.locals, l.op.writes = true ∧ l.onStore = true ∧ l.uid < uid ∧ l.addr < key + n ∧ key < l.addr + l.size)
    ∧ (∀ m : Cmd,
      (∀ p ∈ s.toFill m, p ∈ m.numbered ∧ p.1.fill = true ∧ p.1.done = false)
      ∧ (s.toFill m).Pairwise fun p q => p.1.box.1 < q.1.box.1 ∨ (p.1.box.1 = q.1.box.1 ∧ p.1.box.2 ≤ q.1.box.2))
    ∧ (∀ (n : Nat) (p : Item × Nat) (ps : List (Item × Nat)),
      let i := p.1
      let rest := takeFill (n - i.cnt) ps
      takeFill n [] = { items := [], count := 0, nrf := false, err := false, locs := [] }
      ∧ (i.cnt ≤ n → takeFill n (p :: ps) = { items := ({ i with done := true }, p.2) :: rest.items, count := i.cnt + rest.count
                                              nrf := i.nrf || rest.nrf, err := i.bad || rest.err, locs := i.loc ++ i.aux ++ rest.locs })
      ∧ (n < i.cnt → n = 0 ∨ i.form ≠ .plain → takeFill n (p :: ps) = takeFill n [])
      ∧ (0 < n → n < i.cnt → i.form = .plain → takeFill n (p :: ps) = { takeFill n [] with
          items := [({ i with loc := i.loc.drop n, cnt := i.cnt - n, box := (i.box.1, i.box.2 + n) }, p.2)], count := n, nrf := i.nrf
          locs := i.loc.take n }))
    ∧ (∀ (k : Nat) (x : TxStream) (w : Word), nth s.tx k = some x →
      (x.copies ≠ [] → x.progress + 1000 * nsUnits ≤ s.time → exec (.replayTimeout k) s = .next (s.resend x x.copies))
      ∧ exec (.resumeReceive k w) s = .next (s.resend x (x.copies.filter fun c => !precedes c.seq w)))
    ∧ (∀ peer plane slot vc bursts : Nat,
      let g : Grant := { peer := peer, plane := plane, slot := slot, vc := vc, bursts := min 16 bursts }
      let held := s.grantWait.filter fun x => !(x.1 == peer && x.2.1 == plane && x.2.2.1 == vc)
      (slot < 4 → (s.planeLane plane slot).isSome = true → s.controlTo peer = true → exec (.grantRequestReceive peer plane slot vc bursts 0) s
        = .next (State.serveAsks { s with asks := s.asks ++ [g] } (s.asks.length + 1)))
      ∧ (∀ h, h ≠ 0 ∨ 4 ≤ slot → exec (.grantRequestReceive peer plane slot vc bursts h) s = .next s)
      ∧ (s.controlTo peer = true → (∀ h ∈ s.grants, ¬ (h.peer = peer ∧ h.plane = plane ∧ h.vc = vc)) →
        exec (.grantReceive peer plane 0 vc bursts) s
          = .next (State.flow { s with grants := s.grants ++ [{ g with slot := 0 }], grantWait := held }
              fun x => x.src == s.boot.endpoint && x.dst == peer && x.vc == vc))
      ∧ (slot ≠ 0 ∨ (∃ h ∈ s.grants, h.peer = peer ∧ h.plane = plane ∧ h.vc = vc) → exec (.grantReceive peer plane slot vc bursts) s = .next s)
      ∧ (∀ h, exec (.grantRefusalReceive peer plane vc h) s
        = .next { s with grantWait := s.grantWait ++ [(peer, plane, vc, s.time + 64 * h * nsUnits)] })
      ∧ exec (.grantRetry peer plane vc) s = .next { s with
        grantWait := s.grantWait.filter fun x => !(x.1 == peer && x.2.1 == plane && x.2.2.1 == vc && decide (x.2.2.2 ≤ s.time)) })
    ∧ (∀ g, s.nextAsk = some g → g ∈ s.asks ∧ (∀ h ∈ s.given, ¬ (h.plane = g.plane ∧ h.slot = g.slot ∧ h.vc = g.vc))
      ∧ ∀ h ∈ s.asks, h.plane = g.plane → h.slot = g.slot → h.vc = g.vc →
        let last := ((s.granted.find? fun x => x.1 == g.plane && x.2.1 == g.slot && x.2.2.1 == g.vc).map (·.2.2.2)).getD 127
        (g.peer + 127 - last) % 128 ≤ (h.peer + 127 - last) % 128)
    ∧ ∀ cmd req, exec (.completionNoticeReceive cmd req) s = .next s

/-- A module takes a request in the order of its stream, refuses it while its page moves or it is hot, ends it where its page is
absent, and else carries it out on its frame and answers in chunks: a read sends the bytes as they stand, a write, a fill and a
reduction change them, an atomic sends the old value back, and a copy moves its blocks (08 R198, R200, 16 R334 to R336, 17 R354, 18 R385).
How the chunks of an answer are numbered, and that a coded block of 512 bytes is one delivery, is the model's choice (log 17). -/
def Obligations.ModulesCarryRequestsOut : Prop :=
  (∀ (s : State) (n : Nat) (w : Answer) (r : Req),
    let hot := (s.module r.ep).step = 3 ∧ w.hint ≠ 0
    let page := s.pageAns r.ep r.part r.page
    let answers := fun (i : Instr) (k : State → Req → Nat → State) =>
      (s.streamWaits r = true → exec i s = .next s)
      ∧ (s.streamWaits r = false →
        (∀ h, s.streamHint r = some h → exec i s = .next (s.refuseReq r h))
        ∧ (s.streamHint r = none →
          (hot → exec i s = .next (s.refuseReq r 16))
          ∧ (¬ hot →
            (∀ h, page = .moving h → exec i s = .next (s.refuseReq r h))
            ∧ (page = .absent → exec i s = .next (s.failReq r 6 7 r.ep false))
            ∧ ∀ f, page = .mapped f →
              let r' : Req := { r with
                run := .accepted, tries := 0, left := if r.op = .copy then r.copyBlocks else []
                owed := if r.op = .copy then [] else r.chunkNos.map r.window, piece := ([], false) }
              exec i s = .next (k (s.setReq r') r' f))))
    (s.reqAt r.ep n (· == .read) = some r → answers (.moduleRead r.ep n w) fun s r f =>
      let cs := r.answer (s.readRuns r f) w.bad
      (s.setReq (r.awaiting cs)).respond r.ep cs)
    ∧ (s.reqAt r.ep n (· == .write) = some r → answers (.moduleWrite r.ep n w) fun s r f =>
      (s.write (r.data.map fun c => (r.key f c.1, c.2))).respond r.ep (r.completions []))
    ∧ (s.reqAt r.ep n (· == .fill) = some r → ∀ m, s.cmd? r.cmd = some m → answers (.moduleFill r.ep n w) fun s r f =>
      (s.write ((List.range r.len).map fun i => (r.key f (r.va + i),
          BitVec.ofNat 8 ((if m.kind = .fill then m.operand.toNat else 0) / 2 ^ (8 * ((r.va + i) % m.esize)))))).respond r.ep (r.completions []))
    ∧ (∀ op, s.reqAt r.ep n ReqOp.isReduce = some r → r.op = .reduce op → ∀ m, s.cmd? r.cmd = some m →
      answers (.moduleReduce r.ep n w) fun s r f => State.respond
        (s.reduceRun op m.efmt m.esize (r.key f r.va) r.data (r.within w.bad) r.va (r.len / m.esize)) r.ep (r.completions w.bad))
    ∧ (∀ op t, s.reqAt r.ep n ReqOp.isAtomic = some r → r.op = .atomic op t → ∀ m, s.cmd? r.cmd = some m →
      answers (.moduleAtomic r.ep n w) fun s r f =>
        let old := s.le (r.key f r.va) r.len
        State.respond (s.write (cellsLE (r.key f r.va) r.len (atomicStep op t old m.operand.toNat m.compare.toNat).1)) r.ep
          [{ r.chunk 0 with bytes := leBytes 8 old, bad := w.bad.any (· == 0)
                            parts := [{ lo := (r.window 0).1, hi := (r.window 0).2, n := 8, coded := false, more := false }] }])
    ∧ (s.copyReq r.ep n = some r → r.run = .there → answers (.moduleCopy r.ep n w) fun s r f =>
      State.settleCmd (s.copyAll r.cmd r.n f w.bad r.left) r.cmd))
  ∧ (∀ (s : State) (r : Req) (h : Nat),
    (255 ≤ r.tries → s.refuseReq r h = s.failReq r 6 7 r.ep false)
    ∧ (r.tries < 255 → s.refuseReq r h
      = s.setReq { r with run := .refused h (s.time + 64 * h * nsUnits), tries := r.tries + 1, hint := h }))
  ∧ (∀ (s : State) (r : Req) (f b : Nat),
    let lo := (r.va / 512 + b) * 512
    let x := sendBlock (s.bytes (r.key f lo) 512)
    let run := s.blockRun r f b
    run.lo = max r.va lo ∧ run.hi = min (r.va + r.len) (lo + 512)
    ∧ (x.1 = true → run.coded = true ∧ ∃ n < 32, run.bytes = x.2 ++ List.replicate n 0 ∧ run.bytes.length % 32 = 0)
    ∧ (x.1 = false → run.coded = false ∧ run.bytes = s.bytes (r.key f run.lo) (run.hi - run.lo))
    ∧ s.readRuns r f = if r.blocks then (List.range r.blockCount).map (s.blockRun r f)
      else [{ lo := r.va, hi := r.va + r.len, bytes := s.bytes (r.key f r.va) r.len, coded := false }])
  ∧ (∀ (r : Req) (xs : List DataRun) (bad : List Nat),
    let bs := xs.flatMap (·.bytes)
    let cs := r.answer xs bad
    cs.flatMap (·.bytes) = bs ∧ cs.length = (bs.length + 255) / 256
    ∧ ∀ k c, nth cs k = some c → c.no = k ∧ c.bytes = (bs.drop (256 * k)).take 256 ∧ c.bad = bad.any (· == k) ∧ sumL (c.parts.map (·.n)) = c.bytes.length)
  ∧ (∀ efmt old x : Nat, old < 2 ^ 32 → x < 2 ^ 32 →
    let n := if efmt = 8 then 8 else if efmt = 9 then 16 else 32
    (efmt ∈ [8, 9, 10] →
      reduceElem .add efmt old x = (old + x) % 2 ^ n
      ∧ reduceElem .min efmt old x = (if sext x n < sext old n then x else old)
      ∧ reduceElem .max efmt old x = (if sext old n < sext x n then x else old))
    ∧ (efmt ∈ [0, 1, 2] →
      let t : FTy := if efmt = 0 then .f32 else if efmt = 1 then .f16 else .bf16
      let y := sumX .rn [decF t old, decF t x]
      reduceElem .add efmt old x = (roundF t .rn false y.1).1
      ∧ reduceElem .min efmt old x = fminmax t false old x ∧ reduceElem .max efmt old x = fminmax t true old x))
  ∧ ∀ (s : State) (op : FarRed) (efmt size key va n : Nat) (src : List Host.Cell) (bad : Nat → Bool), s.Inv →
    let t := s.reduceRun op efmt size key src bad va n
    (∀ i < n, t.le (key + size * i) size
      = (if bad (va + size * i) then 0 else reduceElem op efmt (s.le (key + size * i) size)
          (leNat ((List.range size).map fun j => memGet src (va + size * i + j)))) % 256 ^ size)
    ∧ (∀ a, (a < key ∨ key + size * n ≤ a) → t.byte a = s.byte a)

/-- What a module does apart from requests: hints fill its staging store or are dropped, table reads go on with the walks that
wait for them, table writes map a page or start its move, a move copies the page and only then changes the table, once no copy
accepted before it is left, and a stack changes its step at once (16 R333, R334, 18 R383 to R385). Each exchange takes its grants (17
R355). -/
def Obligations.ModuleEventsComplete : Prop :=
  ∀ (s : State) (ep n : Nat),
    let m := s.module ep
    (∀ b : Body, b.op < 2 ^ 8 → b.detail < 2 ^ 8 → b.len < 2 ^ 13 → b.part < 2 ^ 3 → b.addr < 2 ^ 38 → b.arg < 2 ^ 64 → b.cmp < 2 ^ 64 →
      let r : Body := readBody b.bytes
      b.bytes.length = 32 ∧ r = b)
    ∧ (∀ (src dst stream vc : Nat) (bs : List Byte),
      (s.way src dst vc none = none → s.cross src dst stream vc bs = none)
      ∧ ∀ w, s.way src dst vc none = some w →
        let t := s.use w
        let x := t.txOf src dst stream vc
        let c : Chunk := { seq := x.next, cmd := 0, req := 0, no := 0, bytes := bs, parts := [], bad := false, lane := some w.lane }
        let b : Burst := { src := src, dst := dst, wave := (dst + 128 - src) % 128, stream := stream, vc := vc, lane := w.lane, chunks := [c]
                           ack := none, pin := w.pin }
        let u := (t.setTx { x with next := x.next + 1 }).setRx
          { dst := dst, src := src, stream := stream, vc := vc, next := x.next + 1, owes := false }
        t.arrivedBurst dst b (.changed []) = (if (b.src + b.wave) % 128 = dst ∧ flitsSound dst (t.flitBytes b) = true
          then some (b.reread (t.flitBytes b)) else none)
        ∧ (t.arrivedBurst dst b (.changed []) = none → s.cross src dst stream vc bs = none)
        ∧ (∀ d, t.arrivedBurst dst b (.changed []) = some d → s.cross src dst stream vc bs = some (u, d.chunks.flatMap (·.bytes)))
        ∧ (src < 128 → dst < 128 → stream < 1024 → vc < 2 → bs.length ≤ 512 → s.cross src dst stream vc bs = some (u, bs)))
    ∧ (∀ (b : Body) (f : Body → List Byte),
      s.ask ep b = (s.cross s.boot.endpoint ep 0 0 b.bytes).map (fun x => (x.1, readBody x.2))
      ∧ s.exchange ep b f = (s.ask ep b).bind fun x => (x.1.cross ep s.boot.endpoint 1 1 (f x.2)).map fun y => (y.1, x.2, y.2))
    ∧ (∀ h t b, nth (s.hints.filter (·.1 == ep)) n = some h →
      s.ask ep { op := 7, detail := 0, len := h.2.2.1, part := h.2.2.2, addr := h.2.1, arg := 0, cmp := 0 } = some (t, b) →
      let s' := { t with hints := t.hints.erase h }
      let m := s'.module ep
      exec (.moduleHint ep n true) s = .next s'
      ∧ (m.step = 4 → exec (.moduleHint ep n false) s = .next s')
      ∧ (m.step ≠ 4 → exec (.moduleHint ep n false) s
        = .next (s'.setModule { m with staged := fitStaged (2 ^ 26 - min b.len (2 ^ 26)) m.staged ++ [(b.addr, b.len)] })))
    ∧ (∀ h drop, nth (s.hints.filter (·.1 == ep)) n = some h →
      s.ask ep { op := 7, detail := 0, len := h.2.2.1, part := h.2.2.2, addr := h.2.1, arg := 0, cmp := 0 } = none →
      exec (.moduleHint ep n drop) s = .next s)
    ∧ (let held := fun (b : Body) => leBytes 8 (s.tableRead ep b.part b.addr).2
      let got := s.exchange ep { op := 8, detail := 0, len := 8, part := s.tablePart ep n, addr := n, arg := 0, cmp := 0 } held
      let read := fun (p : Partition) (addr e : Nat) (u : FUnit) => match u.res with
        | .walking level at_ a ts =>
          if at_ = ep ∧ a + 8 * walkIndex level u.va = addr then
            { u with res := if p.reach ep = false then .ended (.bad 3 level ep)
              else tableStep p (s.feature 1) u.write u.va level ep a ts ((s.tableRead ep p.p addr).1, e) }
          else u
        | _ => u
      (got = none → exec (.moduleTableRead ep n) s = .next s)
      ∧ ∀ t b x, got = some (t, b, x) →
        let cmds := s.cmds.map fun (m : Cmd) =>
          match s.part? (s.partOf (agentCore m.agent)) with
          | some p => if m.charged && p.p == b.part then { m with units := m.units.map (read p b.addr (leNat x)) } else m
          | none => m
        exec (.moduleTableRead ep n) s = .next (if cmds = s.cmds then s else { t with cmds := cmds }))
    ∧ (∀ v, m.pendingWrite = some v →
      let got := s.exchange ep { op := 9, detail := 0, len := 8, part := 0, addr := v.1 * 65536, arg := v.2.toNat, cmp := 0 } fun _ => []
      (got = none → exec (.moduleTableWrite ep) s = .next s)
      ∧ ∀ t b x, got = some (t, b, x) →
        let m := t.module ep
        let m' := { m with pendingWrite := none }
        let page := b.addr / 65536
        let old := m.entry page
        let new := b.arg % 2 ^ 64
        let moves := old / 2 ^ 62 % 4 = 1 ∧ new / 2 ^ 62 % 4 = 1 ∧ old % 2 ^ 24 ≠ new % 2 ^ 24
        (m.step = 4 → exec (.moduleTableWrite ep) s = .next t)
        ∧ (m.step ≠ 4 → m.manager ≠ t.boot.endpoint → exec (.moduleTableWrite ep) s
          = .next (State.setModule { t with boot := { t.boot with mmStat := 2 } } m'))
        ∧ (m.step ≠ 4 → m.manager = t.boot.endpoint → ¬ moves → exec (.moduleTableWrite ep) s
          = .next (State.setModule { t with boot := { t.boot with mmStat := 0 } } (m'.setEntry page (.ofNat 64 new))))
        ∧ (m.step ≠ 4 → m.manager = t.boot.endpoint → moves → exec (.moduleTableWrite ep) s
          = .next (State.setModule { t with fresh := t.fresh + 1 } { m'.setEntry page (.ofNat 64 (old % 2 ^ 62 + 2 ^ 63)) with
              moves := (page, new, t.moveUntil) :: m.moves.filter (·.1 != page) })))
    ∧ (∀ v, m.moves.find? (·.1 == n) = some v →
      let open_ := ∃ r ∈ s.reqs, r.ep = ep ∧ r.page = n ∧ r.op = .copy ∧ r.run = .accepted ∧ r.left ≠ []
      let s' := s.write (cellsAt (hbmKey ep (v.2.1 % 2 ^ 24) 0) (s.bytes (hbmKey ep (m.entry n % 2 ^ 24) 0) 65536))
      (open_ → exec (.pageMoveComplete ep n) s = .next s)
      ∧ (v.2.2 ≤ s.time → ¬ open_ → exec (.pageMoveComplete ep n) s
        = .next (State.setModule { s' with boot := { s'.boot with mmStat := 0 } }
            { m.setEntry n (.ofNat 64 v.2.1) with moves := m.moves.filter (·.1 != n) })))
    ∧ ∀ temp, exec (.moduleThermalStep ep n temp) s = .next (s.setModule { m with
        temps := m.temps.filter (·.1 != n) ++ [(n, thermalStep (((m.temps.find? (·.1 == n)).map (·.2)).getD 0) temp)] })

/-! ### Imposers, queues, placement (11, 15) -/

/-- The imposer answers a domain's oldest request with its oldest record, or the end token once the domain has ended, after what the group
wrote to the answer's arrival word and slot before (13 R276, 04 R110), and not while its team is saved; records move from a stalled table and
between the neighbours of the ring, youngest first, a quarter of the difference in occupancy each, or one toward the nearest waiting cluster
(11 R261 to R265, 15 R327). -/
def Obligations.ImposerEventsComplete : Prop :=
  (∀ (s : State) (lid c dest m : Nat),
    let here := fun (x : TaskRec) => x.launch == lid && x.cluster == c
    let mine := s.tready.filter here
    let k := min m mine.length
    (k = 0 → s.moveRecords lid c dest m = (s, 0))
    ∧ (k ≠ 0 → s.moveRecords lid c dest m = ({ s with
        tready := s.tready.filter (fun x => !here x) ++ mine.take (mine.length - k)
        ttransit := s.ttransit ++ (mine.drop (mine.length - k)).map fun (x : TaskRec) => { x with cluster := dest, idx := s.cycle + 64 } }, k))
    ∧ s.occupancy lid c = (mine.length : Int) - (s.treqs.filter fun x => x.launch == lid && x.cluster == c).length)
  ∧ (∀ (n i : Nat) (js : List Nat), i < n →
    let a := (i + n - 1) % n
    let b := (i + 1) % n
    let hops := fun (i j : Nat) => min ((j + n - i) % n) ((i + n - j) % n)
    let dist := fun (k : Nat) => js.foldl (fun m j => min m (hops k j)) n
    (n = 1 → ringNeighbours n i = []) ∧ (n = 2 → ringNeighbours n i = [a]) ∧ (3 ≤ n → ringNeighbours n i = [min a b, max a b])
    ∧ toward n i js = (ringNeighbours n i).find? fun k => decide (dist k < dist i))
  ∧ (∀ (s : State) (lid : Nat) (cs : List Nat) (occ : Nat → Int) (negs : List Nat) (i : Nat) (free : List Nat),
    let step := fun (r : State × List Nat × List Nat) (k m : Nat) =>
      let x := r.1.moveRecords lid (cs.getD i 0) (cs.getD k 0) (min m (r.2.1.getD k 0))
      (x.1, r.2.1.set k (r.2.1.getD k 0 - x.2), if x.2 = 0 then r.2.2 else k :: r.2.2)
    let quarter := (ringNeighbours cs.length i).foldl (fun r k => step r k ((occ i - occ k) / 4).toNat) (s, free, [])
    let reaches := fun (k : Nat) => 0 < occ i ∧ toward cs.length i negs = some k ∧ k ∉ quarter.2.2
    let after := s.balanceOne lid cs occ negs i free
    (∀ k, reaches k → after = ((step quarter k 1).1, (step quarter k 1).2.1)) ∧ ((∀ k, ¬ reaches k) → after = (quarter.1, quarter.2.1)))
  ∧ ∀ s : State,
    (∀ (k n : Nat) (r : TaskReq) (l : Launch), nth (s.treqs.filter (·.cluster == k)) n = some r →
      s.treqs.find? (fun q => q.cluster == k && q.launch == r.launch) = some r → s.launch? r.launch = some l →
      let give := fun (s : State) (x : Nat) =>
        let s1 := { s with treqs := s.treqs.filter (·.uid != r.uid), chases := s.chases.filter (·.tag != r.uid) }
        let s2 := State.countAdd (s1.write (cellsLE (storeKey r.core r.slot) 64 x)) (storeKey r.core r.word) 64 0
        let s3 := match s2.team? r.team with
          | some t => s2.setTeam { t with tqOut := t.tqOut - 1 }
          | none => s2
        State.reap (s3.drainPending k pendingMax) r.team
      let owed := fun (key n : Nat) => ∃ l ∈ s.locals, l.op.writes = true ∧ l.onStore = true ∧ l.uid < r.uid ∧ l.addr < key + n ∧ key < l.addr + l.size
      let held := s.saving r.team = true ∨ owed (storeKey r.core r.word) 16 ∨ owed (storeKey r.core r.slot) 64
      (held → exec (.taskqAnswer k n) s = .next s)
      ∧ (l.ended = true → ¬ held → exec (.taskqAnswer k n) s = .next (give s (2 ^ 256)))
      ∧ ∀ x, l.ended = false → ¬ held → s.tready.find? (fun x => x.cluster == k && x.launch == r.launch) = some x →
        exec (.taskqAnswer k n) s
          = .next (give (State.setLaunch { s with tready := s.tready.erase x } { l with outstanding := l.outstanding + 1 }) x.image.toNat))
    ∧ (∀ k x, s.stalled k = some x → exec (.pendingRecordMove k x.idx) s = .next (s.drainPending k 1))
    ∧ (∀ p : Partition, s.part? p.p = some p →
      let cs := p.clusters
      let room := fun k => s.readyRoom k - (s.tpending.filter fun x => x.cluster == k && x.zeroAt.isSome).length
        - (s.ttransit.filter (·.cluster == k)).length
      let launches := (List.range 64).flatMap fun h => s.launches.filter fun l => l.part == p.p && l.hw == h
      exec (.imposerBalance p.p) s = .next (launches.foldl (fun (a : State × List Nat) l =>
        let occ := fun i => s.occupancy l.uid (cs.getD i 0)
        let negs := (List.range cs.length).filter fun i => decide (occ i < 0)
        (List.range cs.length).foldl (fun a i => a.1.balanceOne l.uid cs occ negs i a.2) a) (s, cs.map room)).1)
    ∧ ∀ n x, nth s.ttransit n = some x →
      let s' := s.drainPending x.cluster pendingMax
      0 < s'.readyRoom x.cluster → s'.ttransit.find? (fun y => y.cluster == x.cluster && y.launch == x.launch) = some x →
      exec (.movedRecordArrive n) s
        = .next { s' with tready := s'.tready ++ [{ x with idx := 0 }], ttransit := dropNth s'.ttransit n }

/-- Packets start in ring order and take effect as R312 and R313 say; a WAIT reads its word and comes again 1 µs later until
its value is reached; a packet of kernel launches is over when every team has left. A reservation request above the partition's share is ERR 6, and
releases what the slot had (15 R325); one within it waits for its lanes. Its list is read with a fault at the first byte that cannot be
(16 R337). -/
def Obligations.PacketEventsComplete : Prop :=
  ∀ (s : State) (h : HwSlot) (m : Mapped) (p : Partition), s.hw? h.n = some h → h.queue = some m → s.part? h.part = some p →
    (∀ x, s.nextPacket h m p = .packet x →
      let w := packetOf m.cursor x
      let s' := s.setMapped h.n { m with cursor := (m.cursor + 1) % 2 ^ 32, packets := m.packets ++ [w] }
      let word := fun (i : Nat) => (w.words.getD i 0).toNat
      let released : State := { s' with hws := s'.hws.map fun (g : HwSlot) =>
        if g.n == h.n then { g with resv := none, queue := g.queue.map fun (q : Mapped) => { q with replay := none } } else g }
      (x % 256 = 0 → exec (.packetNoop h.n) s = .next (s'.completePacket h.n h.part m.q w))
      ∧ (x % 256 = 2 → exec (.packetWait h.n) s = .next (s'.setPacket h.n { w with pollAt := s'.time }))
      ∧ (x % 256 = 4 → exec (.packetReleaseLanes h.n) s = .next (released.completePacket h.n h.part m.q w))
      ∧ (∀ r l e, x % 256 = 3 → s.ppRead p (word 1) (word 2 % 256) = .error (.bad r l e) →
        let k := min (word 2 % 256) (65536 - word 1 % 65536)
        let bad := if (s.ppRead p (word 1) k).toBool = true then farWrap (word 1 + k) else word 1
        exec (.packetReserveLanes h.n) s = .next (State.queueError (s'.ppFault h.part h.n bad r l e 0) p m.q 5))
      ∧ (x % 256 = 3 → s.ppRead p (word 1) (word 2 % 256) = .error .busy → exec (.packetReserveLanes h.n) s = .next s)
      ∧ (∀ bs, x % 256 = 3 → s.ppRead p (word 1) (word 2 % 256) = .ok bs →
        let es := bs.map (·.toNat)
        let lanes := word 2 / 256 % 256
        ((∃ e ∈ es, 128 ≤ e) → exec (.packetReserveLanes h.n) s = .next (s'.queueError p m.q 2))
        ∧ ((∀ e ∈ es, e < 128) → p.pinShare < es.length * lanes →
          exec (.packetReserveLanes h.n) s = .next (released.queueError p m.q 6))
        ∧ ((∀ e ∈ es, e < 128) → es.length * lanes ≤ p.pinShare →
        exec (.packetReserveLanes h.n) s = .next (State.tryPin { s' with hws := s'.hws.map fun (g : HwSlot) => if g.n == h.n then
          { g with
            resv := some { ends := es, lanes := lanes, pinned := [], until_ := 0, waiting := true, lapsing := false }
            queue := g.queue.map fun (q : Mapped) => { q with replay := some (es, lanes) } } else g } h.n)))
      ∧ (∀ bs ds, x % 256 = 1 → s.ppRead p (word 1) 256 = .ok bs →
        let k := krecOf (word 1) (leNat bs)
        s.krecOk (leNat bs) = true → (k.onPair = true → word 5 % 256 ≤ 2) → s'.readBinds p h.n k k.binds = .ok ds →
        (word 3 = 0 ∨ ∃ key, s.farKey p p.ppUnit true (word 3) = .key key) →
        exec (.packetKernel h.n) s = .next (State.setPacket { s' with
          launches := s'.launches ++ [Launch.of s.uid h m w k ds], uid := s'.uid + 1 } h.n { w with launch := some s.uid })))
    ∧ (∀ w, m.packets.find? (fun k => k.idx == w.idx && k.type == 2 && !k.done) = some w → w.pollAt ≤ s.time →
      ∀ bs, s.ppRead p (w.words.getD 1 0).toNat 8 = .ok bs →
      ((w.words.getD 2 0).toNat ≤ leNat bs → exec (.waitPacketPoll h.n w.idx) s = .next (s.completePacket h.n h.part m.q w))
      ∧ (leNat bs < (w.words.getD 2 0).toNat →
        exec (.waitPacketPoll h.n w.idx) s = .next (s.setPacket h.n { w with pollAt := s.time + 1000 * nsUnits })))
    ∧ (∀ w lid l, m.packets.find? (fun k => k.idx == w.idx && k.type == 1 && !k.done) = some w → w.launch = some lid →
      s.launch? lid = some l →
      (s.launchOver l = false ∨ s.cplBusy h.part w = true → exec (.packetComplete h.n w.idx) s = .next s)
      ∧ (s.launchOver l = true → s.cplBusy h.part w = false → exec (.packetComplete h.n w.idx) s
        = .next (State.completePacket { s with launches := s.launches.filter (·.uid != l.uid) } h.n h.part m.q w)))
    ∧ (∀ code,
      let t := s.ppWrite p (s.hwSlotOf p.p m.q) (p.qaddr m.q + 20) [.ofNat 8 code]
      let stops := fun (g : HwSlot) => g.part = p.p ∧ ∃ x, g.queue = some x ∧ x.q = m.q
      ∃ u : State, s.queueError p m.q code = u.msix (10 + p.p) ∧ u = { t with hws := u.hws, pendq := u.pendq }
        ∧ u.pendq = t.pendq.filter (fun x => !(x.part == p.p && x.q == m.q && x.packets.isEmpty && (t.savedOf p.p m.q).isEmpty))
        ∧ u.hws.length = t.hws.length ∧ ∀ k g, nth t.hws k = some g →
          (stops g → nth u.hws k = some { g with queue := g.queue.map fun (x : Mapped) => { x with stopped := true } })
          ∧ (¬ stops g → nth u.hws k = some g))
    ∧ (∀ d, s.qdesc p m.q = .ok d →
      let idle := exec (.packetNoop h.n) s = .next s ∧ exec (.packetKernel h.n) s = .next s ∧ exec (.packetWait h.n) s = .next s
        ∧ exec (.packetReserveLanes h.n) s = .next s ∧ exec (.packetReleaseLanes h.n) s = .next s
      let stops := fun (code : Nat) => exec (.packetNoop h.n) s = .next (s.queueError p m.q code)
        ∧ exec (.packetKernel h.n) s = .next (s.queueError p m.q code) ∧ exec (.packetWait h.n) s = .next (s.queueError p m.q code)
        ∧ exec (.packetReserveLanes h.n) s = .next (s.queueError p m.q code)
        ∧ exec (.packetReleaseLanes h.n) s = .next (s.queueError p m.q code)
      let held := m.stopped = true ∨ d.err ≠ 0 ∨ m.evicting = true ∨ BitVec.ofNat 32 m.cursor = d.widx
        ∨ s.toRestore h.part m.q = true ∨ (∃ v, h.resv = some v ∧ v.waiting = true)
      let at_ := farWrap (d.rbase + 64 * (m.cursor % 2 ^ d.rsize))
      (held → idle)
      ∧ ∀ bs, ¬ held → s.ppRead p at_ 64 = .ok bs →
        let x := leNat bs
        let barred := x / 2 ^ 8 % 2 = 1 ∧ ∃ k ∈ m.packets, k.done = false
        (s.packetOk x = false → stops 2)
        ∧ (s.packetOk x = true → barred → idle)
        ∧ (s.packetOk x = true → ¬ barred → s.nextPacket h m p = .packet x))

/-- `r` is the first of the answers of `f` over a list that is there, or none. -/
def FirstOf {α : Type} (f : α → Option State) (xs : List α) (r : Option State) : Prop :=
  (∀ i x t, nth xs i = some x → f x = some t → (∀ j < i, ∀ y, nth xs j = some y → f y = none) → r = some t)
  ∧ ((∀ x ∈ xs, f x = none) → r = none)

/-- A context is restored whole or not at all: its teams in order, each on the first cores of the cluster that have its slots, tiles, bytes,
engine and chase entries, then the bytes of its image, its commands and requests, its engines, and its groups (14 R308, 15 R320). -/
def RestoresContexts : Prop :=
  (∀ (s : State) (p : Partition) (q : Nat),
    let waiting := s.saved.filter fun x => x.part == p.p && x.queue == q && !x.held
    (∀ t, s.restoreAll p waiting = some t → s.tryRestore p q = t) ∧ (s.restoreAll p waiting = none → s.tryRestore p q = s)
    ∧ s.restoreAll p [] = some s
    ∧ ∀ sv svs, FirstOf (fun c => (s.restoreIn sv c).bind fun u => u.restoreAll p svs) p.clusters (s.restoreAll p (sv :: svs)))
  ∧ (∀ (s : State) (sv : Saved) (cluster : Nat),
    let placed := s.restoreTeams sv ((List.range 4).map (4 * cluster + ·)) [] sv.teams
    (placed = none → s.restoreIn sv cluster = none)
    ∧ ∀ t, placed = some t →
      let bytes := sv.cells.filterMap fun c => (t.team? c.1).bind fun v => (nth v.seats c.2.1).map fun x => (t.imageKey v x c.2.2.1, c.2.2.2)
      let t := t.write bytes
      let t := { t with
        reqs := t.reqs ++ sv.reqs
        saved := t.saved.filter (· != sv)
        treqs := t.treqs ++ sv.treqs.map fun (r : TaskReq) =>
          match sv.teamAt t r.core (some r.team) with
          | none => r
          | some v => { r with cluster := cluster, core := shiftCore v.1 v.2 r.core, slot := shiftOff v.1 v.2 r.core r.slot
                               word := shiftOff v.1 v.2 r.core r.word } }
      let t := (sv.cmds.map (sv.cmd t)).foldl (fun t m => { t with cmds := t.cmds ++ [t.beginUnits m] }) t
      let t := (sv.ligs.filterMap (sv.engine t)).foldl State.setLig t
      s.restoreIn sv cluster = some ((t.groups.filter fun g => sv.teams.any fun x => x.1.uid == g.team).foldl State.restoreGroup t))
  ∧ (∀ (s : State) (sv : Saved) (cores : List Nat) (used : List (Nat × Nat × Nat)) (x : Team × List Group) (xs : List (Team × List Group)),
    let t := x.1
    let lead := (t.seats.head?.map (·.core)).getD 0
    let own := x.2.filter (·.core == lead)
    let other := x.2.filter (·.core != lead)
    let leads := cores.filter fun k => (!t.paired || k % 2 == 0)
      && !(used.any fun u => t.cset == some u.1 && u.2.1 == t.launch && (u.2.2 == k || (t.paired && u.2.2 == k + 1)))
    let takes := fun (k : Nat) => t.cset.toList.flatMap fun n => (n, t.launch, k) :: if t.paired then [(n, t.launch, k + 1)] else []
    s.restoreTeams sv cores used [] = some s
    ∧ FirstOf (fun k =>
        let seated := (s.restoreShare t own k).bind fun s => if t.paired then s.restoreShare t other (k + 1) else some s
        (seated.bind fun s => s.restoreChases sv t).bind fun s => s.restoreTeams sv cores (takes k ++ used) xs) leads
      (s.restoreTeams sv cores used (x :: xs)))
  ∧ (∀ (s : State) (sv : Saved) (t : Team),
    let es := (sv.chases.filter (·.team == t.uid)).map (sv.chase s)
    let all := s.chases ++ es
    let room := ∀ e ∈ es, (all.filter (·.span.core == e.span.core)).length ≤ 64
    (room → s.restoreChases sv t = some { s with chases := all }) ∧ (¬ room → s.restoreChases sv t = none))
  ∧ (∀ (s : State) (t : Team) (gs : List Group) (core : Nat),
    let k := t.krec
    let n := gs.length
    let slots := (List.range 32).filter fun i => (s.group? core i).isNone
    let tiles := (List.range 48).filter fun i => !s.teams.any fun u => u.seats.any fun x => x.core == core && x.tiles.any (· == i)
    let room := n ≤ slots.length ∧ k.galley ≤ tiles.length ∧ (k.lig = true → ∀ e ∈ s.ligs, e.core = core → e.team = none)
    let sizes := (if k.folio = 0 then [] else [(k.folio, 768)]) ++ List.replicate n (1024, 256)
      ++ gs.map fun g => ((g.vregs * 4 * g.width + 767) / 768 * 768, 768)
    let places := fitAll (s.regions core ++ s.guards core) sizes
    let o := if k.folio = 0 then 0 else 1
    (¬ room ∨ places = none → s.restoreShare t gs core = none)
    ∧ ∀ as, room → places = some as → ∃ u, s.restoreShare t gs core = some u ∧ u.groups.length = s.groups.length + n
      ∧ (∀ i < s.groups.length, nth u.groups i = nth s.groups i)
      ∧ (∀ i g, nth gs i = some g → ∃ b pos, nth u.groups (s.groups.length + i) = some { g with
          core := core, slot := slots.getD i 0, win := as.getD (o + n + i) 0, sblk := as.getD (o + i) 0, bundle := b, pos := pos })
      ∧ (∃ v ∈ u.teams, v.uid = t.uid ∧ { core := core, folio := if k.folio = 0 then 0 else as.getD 0 0, tiles := tiles.take k.galley } ∈ v.seats)
      ∧ (s.Inv → ∀ i x, nth sizes i = some x → ∀ a, storeKey core (as.getD i 0) ≤ a → a < storeKey core (as.getD i 0) + x.1 → u.byte a = 0))
  ∧ (∀ (s : State) (t : Team) (x : Seat) (o : Nat),
    (o < 2 ^ 24 → s.imageKey t x o = storeKey x.core (x.folio + o))
    ∧ (∀ n, o < 4096 → n < 2 ^ 20 → s.imageKey t x (2 ^ 32 + 4096 * n + o) = tileKey x.core (x.tiles.getD n 0) + o)
    ∧ s.imageKey t x (2 ^ 33 + o) = valueKey x.core 0 + o
    ∧ ∀ i g, i < 255 → o < 2 ^ 23 → (s.members t.uid).find? (·.index == i) = some g →
      s.imageKey t x (2 ^ 24 * (i + 1) + o) = g.vkey 0 0 + o ∧ s.imageKey t x (2 ^ 24 * (i + 1) + 2 ^ 23 + o) = g.skey 0 + o)
  ∧ (∀ (s : State) (sv : Saved) (e : Chase) (old new : Team) (x y : Seat), sv.teamAt s e.span.core (some e.team) = some (old, new) →
    (old.seats.zip new.seats).find? (fun p => p.1.core == e.span.core) = some (x, y) →
    sv.chase s e = { e with span := { e.span with core := y.core, lo := y.folio + (e.span.lo - x.folio), hi := y.folio + (e.span.hi - x.folio) } })
  ∧ (∀ r : Req, r.saved = { r with run := if r.run = .finished then .finished else .unsent, stream := 0, data := [] })
  ∧ ∀ (s : State) (g : Group),
    let hw := (s.hwOf g.team).getD 0
    let placed := fun (r : TrapRec) => { r with a := .ofNat 64 (r.a.toNat - r.a.toNat / 2 ^ 16 % 2 ^ 13 * 2 ^ 16
      + 2 ^ 16 * hw + 2 ^ 22 * g.slot + 2 ^ 27 * (g.core % 4)) }
    (∀ r, g.run = .saving .trap (some r) → s.restoreGroup g = State.settleTrap (s.setGroup { g with run := .trapped (placed r) false }) g.core g.slot)
    ∧ (∀ k r, g.run = .saving k r → (k ≠ .trap ∨ r = none) → s.restoreGroup g = s.setGroup { g with run := .ready, notBefore := s.cycle + 1 })

/-- Notify writes, lane reservations, placement and bindings, mapping, eviction and leases of queues (15 R311, R317 to
R326), and the restore of a mapped queue's contexts (14 R308). A lease is renewed by a tick that applies up to 200 ns after its end, which is the
model's choice (log 35). -/
def Obligations.QueueAndPlacementEventsComplete : Prop :=
  RestoresContexts ∧
  (∀ s part q x,
    (s.hostq = [] → s.hostBusy (.notify part q x) = false → exec (.notifyWrite part q x) s = .next (s.notify part q x.toNat))
    ∧ (s.hostq ≠ [] ∨ s.hostBusy (.notify part q x) = true →
      exec (.notifyWrite part q x) s = .next { s with hostq := s.hostq ++ [.notify part q x] }))
  ∧ (∀ (s : State) (p : Partition) (q x : Nat), s.part? p.p = some p →
    let after := s.notify p.p q x
    (s.boot.lock = false ∨ p.qtcount ≤ q → after = s)
    ∧ ∀ d, s.boot.lock = true → q < p.qtcount → s.qdesc p q = .ok d →
      let new := BitVec.ofNat 32 x
      let ahead := (new - d.widx).toNat
      let used := (new - d.ridx).toNat
      let bad := d.rsize < 4 ∨ 16 < d.rsize
      let t := s.ppWrite p (s.hwSlotOf p.p q) (p.qaddr q + 12) (leBytes 4 new.toNat)
      (d.en = false → after = s)
      ∧ (d.en = true → bad → after = s.queueError p q 2)
      ∧ (d.en = true → ¬ bad → 2 ^ 32 ≤ x ∨ ahead = 0 ∨ 2 ^ 31 ≤ ahead → after = s)
      ∧ (d.en = true → ¬ bad → x < 2 ^ 32 → 0 < ahead → ahead < 2 ^ 31 → 2 ^ d.rsize < used → after = s.queueError p q 1)
      ∧ (d.en = true → ¬ bad → x < 2 ^ 32 → 0 < ahead → ahead < 2 ^ 31 → used ≤ 2 ^ d.rsize →
        let refused := ∃ r l e, s.farKey p p.ppUnit true (p.qaddr q + 12) = .bad r l e
        (d.err = 0 → ¬ refused → after = t.makePending p.p q d.prio none [] none) ∧ (d.err ≠ 0 ∨ refused → after = t)))
  ∧ (∀ s n, exec (.laneReservationPin n) s = .next ((s.tryPin n).repin n))
  ∧ (∀ (s : State) (l : Launch), s.launch? l.uid = some l → s.mayPlace l = true → l.held = none →
    (∀ t, s.placeNext l = some t → exec (.teamPlace l.uid) s = .next (t.afterPlace l.uid))
    ∧ (s.placeNext l = none → exec (.teamPlace l.uid) s = .next (s.setLaunch { l with held := some s.cycle })))
  ∧ (∀ (s : State) (l : Launch) (p : Partition), s.part? l.part = some p → l.next < l.teams →
    let leads := p.cores.filter fun k => !l.krec.onPair || k % 2 == 0
    let order := match (s.hw? l.hw).bind (·.lastCore) with
      | none => leads
      | some n => leads.filter (fun k => decide (n < k)) ++ leads.filter fun k => decide (k ≤ n)
    let firstOf := FirstOf
    let set := (List.range (min l.cset (l.teams - l.next))).map (l.next + ·)
    (l.cset = 0 → firstOf (fun k => (s.placeTeam l l.next none k).map fun t => t.setLaunch { l with next := l.next + 1, held := none })
      order (s.placeNext l))
    ∧ (l.cset ≠ 0 → firstOf (fun cluster => (s.placeSet l (l.next / l.cset) (order.filter fun k => k / 4 == cluster) set).map fun t =>
      t.setLaunch { l with next := l.next + set.length, held := none }) (dedup (order.map (· / 4))) (s.placeNext l))
    ∧ ∀ n cs, s.placeSet l n cs [] = some s ∧ ∀ num nums,
      firstOf (fun k => (s.placeTeam l num (some n) k).bind fun t => t.placeSet l n (cs.filter (· != k)) nums) cs (s.placeSet l n cs (num :: nums)))
  ∧ (∀ (s : State) (l : Launch) (p : Partition) (num core : Nat) (cset : Option Nat), s.part? l.part = some p →
    let t := Team.fresh s.uid l num cset (min p.ceilB 262144) (min p.ceilC 64)
    let n := if l.krec.onPair then (l.krec.groups + 1) / 2 else l.krec.groups
    let s' := { s with uid := s.uid + 1 }
    let both := if l.krec.onPair then (s'.placeShare t core n 0).bind fun u => u.placeShare t (core + 1) (l.krec.groups - n) n
      else s'.placeShare t core n 0
    s.placeTeam l num cset core = both.map fun (u : State) => { u with
      hws := u.hws.map fun (h : HwSlot) => if h.n == l.hw then { h with lastCore := some (if l.krec.onPair then core + 1 else core) } else h })
  ∧ (∀ (s : State) (t : Team) (core n first : Nat),
    let k := t.krec
    let slots := (List.range 32).filter fun i => (s.group? core i).isNone
    let tiles := (List.range 48).filter fun i => !s.teams.any fun u => u.seats.any fun x => x.core == core && x.tiles.any (· == i)
    let room := n ≤ slots.length ∧ k.galley ≤ tiles.length ∧ (k.lig = true → ∀ e ∈ s.ligs, e.core = core → e.team = none)
    let window := (k.vregs * 4 * k.width + 767) / 768 * 768
    let sizes := (if k.folio = 0 then [] else [(k.folio, 768)]) ++ List.replicate n (1024, 256) ++ List.replicate n (window, 768)
    let places := fitAll (s.regions core ++ s.guards core) sizes
    let o := if k.folio = 0 then 0 else 1
    (¬ room ∨ places = none → s.placeShare t core n first = none)
    ∧ ∀ as, room → places = some as → ∃ u, s.placeShare t core n first = some u ∧ u.groups.length = s.groups.length + n
      ∧ (∀ i < s.groups.length, nth u.groups i = nth s.groups i)
      ∧ (∀ i < n, ∃ b, nth u.groups (s.groups.length + i) = some (Group.new core (slots.getD i 0) t.uid (first + i) t.uid s.cycle k
          (as.getD (o + n + i) 0) (as.getD (o + i) 0) b))
      ∧ (∃ v ∈ u.teams, v.uid = t.uid ∧ { core := core, folio := if k.folio = 0 then 0 else as.getD 0 0, tiles := tiles.take k.galley } ∈ v.seats)
      ∧ (s.Inv → ∀ i x, nth sizes i = some x → ∀ a, storeKey core (as.getD i 0) ≤ a → a < storeKey core (as.getD i 0) + x.1 → u.byte a = 0))
  ∧ (∀ (rs : List (Nat × Nat)) (x : Nat × Nat) (xs : List (Nat × Nat)),
    (∀ n align, 0 < align → LowestFree rs n align (firstFit rs n align))
    ∧ fitAll rs [] = some [] ∧ (firstFit rs x.1 x.2 = none → fitAll rs (x :: xs) = none)
    ∧ ∀ a, firstFit rs x.1 x.2 = some a → fitAll rs (x :: xs) = (fitAll ((a, x.1) :: rs) xs).map (a :: ·))
  ∧ (∀ (s : State) (h : HwSlot) (v : Resv), s.hw? h.n = some h → h.resv = some v →
    let others := (s.hws.filter (·.n != h.n)).flatMap fun g => match g.resv with
      | some w => w.pinned
      | none => []
    let beside := ((s.hws.filter fun g => g.part == h.part && g.n != h.n).map fun g => (g.resv.map (·.pinned.length)).getD 0).sum
    let above := 256 < others.length + v.ends.length * v.lanes ∨ ∃ p, s.part? h.part = some p ∧ p.pinShare < beside + v.ends.length * v.lanes
    let pinned := s.pinAll others v.lanes v.ends
    (v.waiting = false ∨ above ∨ pinned = none → s.tryPin h.n = s)
    ∧ (∀ xs, v.waiting = true → ¬ above → pinned = some xs →
      let t := s.setHw { h with resv := some { v with pinned := xs, waiting := false, until_ := s.time + 1000000 * nsUnits } }
      let packet := h.queue.bind fun m => (m.packets.find? fun k => k.type == 3 && !k.done).map fun k => (m, k)
      (packet = none → s.tryPin h.n = t)
      ∧ (∀ m k, packet = some (m, k) → s.tryPin h.n = t.completePacket h.n h.part m.q k)
      ∧ xs.length = v.ends.length * v.lanes
      ∧ (∀ x ∈ xs, x.1 ∈ v.ends ∧ x.2.1 < 256 ∧ x.2.2 < 4 ∧ s.moduleLane x.1 x.2.1 = true ∧ s.planeLane x.2.1 x.2.2 ≠ none
        ∧ ∀ y ∈ others, y.2 ≠ x.2)
      ∧ xs.Pairwise fun x y => x.2 ≠ y.2 ∧ (x.1 = y.1 → x.2.1 ≠ y.2.1))
    ∧ (v.waiting = true → s.repin h.n = s)
    ∧ (v.waiting = false → ∃ xs, s.repin h.n = s.setHw { h with resv := some { v with pinned := xs } }
      ∧ ∀ x ∈ v.pinned, (s.socket (x.2.1 / 16)).st = 3 → x ∈ xs))
  ∧ (∀ (s : State) (part : Nat), exec (.placementRetry part) s
    = .next ((sortLaunches (s.launches.filter fun l => l.part == part && l.held.isSome)).foldl (fun s l =>
        if s.mayPlace l = true then
          match s.placeNext l with
          | some t => t.afterPlace l.uid
          | none => s
        else s) s))
  ∧ (∀ (s : State) (t : Team) (b : Binding) (l : Launch) (x : Seat), s.team? t.uid = some t → nth t.krec.binds t.bound = some b →
    s.launch? t.launch = some l → t.seats.head? = some x →
    let next := s.setTeam { t with bound := t.bound + 1 }
    (b.isEmpty = true → exec (.bindingIssue t.uid) s = .next next)
    ∧ (b.isEmpty = false →
      let d := descOf (l.descs.getD t.bound 0)
      let its := d.items { plane := true, fetch := true } b.plane b.origins none
      let pads := d.padBytes b.plane
      let m := Cmd.of s.uid .fetch (.group x.core (((s.live t.uid).head?.map (·.slot)).getD 0)) x.core t [recvOf x.core x.folio d.arrw (some d.resw)]
      let m := { m with items := its, pads := pads, units := itemUnits .fetch its, bytes := itemCount its, esize := d.esize, efmt := d.efmt, desc := d.raw, spans := mkSpan x.core x.folio true (spanOf (itemLocs its ++ pads)), bindingOf := some t.bound }
      s.chaseFits m = true → (s.outstanding t.uid = (0, 0) ∨ s.allowance m = 0) →
      exec (.bindingIssue t.uid) s = .next (State.sendCmd ((State.initWord { s with uid := s.uid + 1 }
        (storeKey x.core (x.folio + 16 * d.arrw)) m.bytes).setTeam { t with bound := t.bound + 1 }) m)))
  ∧ (∀ (s : State) (h : HwSlot) (p : Partition), s.hw? h.n = some h → s.part? h.part = some p →
    (∀ x d, h.queue = none → s.nextPending h.part = some x → s.qdesc p x.q = .ok d →
      exec (.queueMap h.part h.n) s = .next ((s.mapQueue p h x d).tryRestore p x.q))
    ∧ (∀ x d,
      let m : Mapped := { q := x.q, prio := d.prio, priv := d.priv, diag := d.diag, since := s.time, evicting := false, stopped := d.err != 0
                          cursor := x.cursor.getD d.ridx.toNat, packets := x.packets, replay := x.replay }
      let resv := match x.replay with
        | some v => some { ends := v.1, lanes := v.2, pinned := [], until_ := 0, waiting := true, lapsing := false : Resv }
        | none => h.resv
      let mapped := fun (r : Option Resv) => State.setHw { s with
        pendq := s.pendq.filter (· != x)
        saved := s.saved.map fun (v : Saved) => if v.part == h.part && v.queue == x.q then { v with held := false, hw := h.n } else v
        launches := s.launches.map fun (l : Launch) => if l.part == h.part && l.queue == x.q then { l with hw := h.n } else l }
          { h with queue := some m, resv := r }
      let above := ∃ v, resv = some v ∧ v.waiting = true ∧ p.pinShare < v.ends.length * v.lanes
      (above → s.mapQueue p h x d = (mapped none).queueError p x.q 6) ∧ (¬ above → s.mapQueue p h x d = (mapped resv).tryPin h.n))
    ∧ (∀ m d, h.queue = some m → s.qdesc p m.q = .ok d →
      let s' := s.setMapped h.n { m with evicting := true }
      s.evict h m p = s'.evictOn h.n
      ∧ (m.evicting = true →
        let here := (s.teams.filter fun t => !t.exited && (s.launch? t.launch).any fun l => l.hw == h.n).map fun t =>
          ((t.seats.head?.map (·.core)).getD 0) / 4
        let open_ := ∃ x ∈ s.preempts, x.hw = h.n ∧ x.st < 4
        (here = [] → open_ → s.evictOn h.n = s)
        ∧ (here = [] → ¬ open_ → s.evictOn h.n = s.vacate h m)
        ∧ (here ≠ [] → s.evictOn h.n = (dedup here).foldl (fun (s : State) c =>
          if s.preemptOpen h.n c = true then s
          else s.requestPreempt h.n c (farWrap (d.save + c * d.sstride * 2 ^ 20)) (some (d.sstride * 2 ^ 20)) true) s)))
    ∧ (∀ m, h.queue = some m → m.evicting = true → exec (.queueMap h.part h.n) s = .next (s.evictOn h.n)
      ∧ exec (.idleUnmap h.n) s = .next s ∧ exec (.sliceEviction h.n) s = .next s)
    ∧ (∀ m, h.queue = some m → m.evicting = false →
      exec (.queueMap h.part h.n) s = .next (s.tryRestore p m.q)
      ∧ (∀ k, m.stopped = false → s.pendPrio h.part = some k → m.prio ≤ k → m.since + p.tslice ≤ s.time →
        exec (.sliceEviction h.n) s = .next (s.evict h m p))
      ∧ (∀ d, s.qdesc p m.q = .ok d → BitVec.ofNat 32 m.cursor = d.widx → s.slotBusy h m = false → s.savedOf h.part m.q = [] →
        exec (.idleUnmap h.n) s = .next (s.vacate h m)
        ∧ (m.packets = [] → m.replay = none → s.vacate h m = s.setHw { h with
            queue := none
            resv := match h.resv with
              | some v => if v.waiting = true then none else some { v with lapsing := true }
              | none => none })))
    ∧ ∀ v, h.resv = some v →
      let renewed := ∃ x ∈ s.cadence.pending, x.2.2 ≤ v.until_ + 200 * nsUnits
      let ended := v.waiting = false ∧ v.until_ ≤ s.time ∧ (v.lapsing = true ∨ h.queue = none ∨ ¬ renewed)
      (ended → exec (.leaseExpire h.n) s = .next (s.setHw { h with resv := none })) ∧ (¬ ended → exec (.leaseExpire h.n) s = .next s))
  ∧ (∀ (s : State) (part prio : Nat),
    let lower := fun (x : HwSlot × Mapped) => x.1 ∈ s.hws ∧ x.1.part = part ∧ x.1.queue = some x.2 ∧ x.2.stopped = false ∧ x.2.prio < prio
    (∀ x, s.victim part prio = some x → lower x ∧ ∀ y, lower y → x.2.prio < y.2.prio ∨ (x.2.prio = y.2.prio ∧ x.2.since ≤ y.2.since))
    ∧ (s.victim part prio = none → ∀ y, ¬ lower y))
  ∧ ∀ (s : State) (p : Partition) (k : Nat) (x : HwSlot × Mapped), s.part? p.p = some p → s.pendPrio p.p = some k →
    s.slotFree p.p = false → s.victim p.p k = some x →
    exec (.priorityEviction p.p) s = .next (if x.2.evicting = true then s else s.evict x.1 x.2 p)

/-! ### Pre-emption, the host and boot (14, 16, 18) -/

/-- What a save keeps of a context, how a group stops for it, and what is freed after it (14 R301, R304, R305, R308). -/
def SavesContexts : Prop :=
  (∀ (s : State) (g : Group) (k : StopKind) (r : Option TrapRec), s.group? g.core g.slot = some g →
    let t := s.setGroup { g with run := .saving k r }
    s.stopGroup g.core g.slot k r = { t with preempts := s.preempts.map fun (p : Preempt) =>
      if p.st = 1 ∧ g.team ∈ p.teams then { p with st := 2 } else p })
  ∧ (∀ (s : State) (p : Preempt) (part queue : Nat) (held : Bool),
    let sv := s.savedContext p part queue held
    let ts := p.teams.filterMap s.team?
    (sv.hw = p.hw ∧ sv.part = part ∧ sv.queue = queue ∧ sv.cluster = p.cluster ∧ sv.root = p.root ∧ sv.held = held)
    ∧ sv.teams = (ts.map fun t => (t, (s.live t.uid).map fun g =>
        { g with lockLost := g.lockLost || g.lock.isSome, lock := none, yielded := none, line := none }))
    ∧ (∀ u i o b, (u, i, o, b) ∈ sv.cells ↔ ∃ t ∈ ts, t.uid = u ∧ ∃ x, nth t.seats i = some x ∧ (o, b) ∈ s.seatImage p t x)
    ∧ (∀ e, e ∈ sv.chases ↔ e ∈ s.chases ∧ e.team ∈ p.teams) ∧ (∀ m, m ∈ sv.cmds ↔ m ∈ s.cmds ∧ m.team ∈ p.teams ∧ m.charged = true)
    ∧ sv.reqs = (s.reqs.filter fun r => p.teams.any (· == r.team)).map Req.saved
    ∧ (∀ e, e ∈ sv.ligs ↔ e ∈ s.ligs ∧ ∃ u ∈ p.teams, e.team = some u ∧ ∃ t, s.team? u = some t ∧ t.krec.lig = true)
    ∧ (∀ r, r ∈ sv.treqs ↔ r ∈ s.treqs ∧ r.team ∈ p.teams) ∧ ∀ l, l ∈ sv.launches ↔ ∃ t ∈ ts, t.launch = l)
  ∧ (∀ (s : State) (p : Preempt) (t : Team) (x : Seat) (o : Nat) (b : Byte),
    let grabs := fun (key n dst : Nat) => ∃ k, key ≤ k ∧ k < key + n ∧ o = dst + (k - key) ∧ b = s.savedByte p.id k
      ∧ ((∃ c ∈ s.mem, c.1 = k) ∨ s.poisoned k 1 = true)
    (o, b) ∈ s.seatImage p t x ↔ grabs (storeKey x.core x.folio) t.krec.folio 0
      ∨ (∃ g ∈ s.live t.uid, g.core = x.core ∧
        ((∃ n < g.vregs, (p.liveOf t g).v / 2 ^ n % 2 = 1 ∧ grabs (g.vkey n 0) (4 * g.width) (2 ^ 24 * (g.index + 1) + 4 * g.width * n))
        ∨ ∃ n < 128, n ≠ 0 ∧ (p.liveOf t g).s / 2 ^ n % 2 = 1 ∧ grabs (g.skey n) 8 (2 ^ 24 * (g.index + 1) + 2 ^ 23 + 8 * n)))
      ∨ (∃ n < t.krec.galley, s.liveTiles p t / 2 ^ n % 2 = 1 ∧ grabs (tileKey x.core (x.tiles.getD n 0)) 4096 (2 ^ 32 + 4096 * n))
      ∨ (t.krec.lig = true ∧ grabs (valueKey x.core 0) 65536 (2 ^ 33)))
  ∧ ∀ (s : State) (t : Team),
    let u := s.freeTeam t
    (∀ g ∈ u.groups, g.team ≠ t.uid) ∧ u.teams = s.teams.filter (·.uid != t.uid) ∧ u.chases = s.chases.filter (·.team != t.uid)
    ∧ u.cmds = s.cmds.filter (·.team != t.uid) ∧ u.reqs = s.reqs.filter (·.team != t.uid) ∧ u.treqs = s.treqs.filter (·.team != t.uid)
    ∧ ((∀ g ∈ s.groups, s.group? g.core g.slot = some g) → ∀ g ∈ s.groups, g.team ≠ t.uid → ∃ h ∈ u.groups, h.core = g.core ∧ h.slot = g.slot ∧ h.team = g.team)
    ∧ (∀ k m g, (u.proof k).map = some m → s.group? m.1 m.2 = some g → g.team ≠ t.uid)
    ∧ (∀ e ∈ u.ligs, e.team ≠ some t.uid ∨ ∀ x ∈ t.seats, x.core ≠ e.core)
    ∧ (s.Inv → ∀ a,
      let lies := fun (lo n : Nat) => lo ≤ a ∧ a < lo + n
      let given := (∃ g ∈ s.live t.uid, lies (storeKey g.core g.win) (windowBytes g.vregs g.width) ∨ lies (storeKey g.core g.sblk) 1024)
        ∨ ∃ x ∈ t.seats, lies (storeKey x.core x.folio) t.krec.folio ∨ ∃ n ∈ x.tiles, lies (tileKey x.core n) 4096
      let value := ∃ x ∈ t.seats, lies (valueKey x.core 0) (valueKey x.core 16384 - valueKey x.core 0)
      (given → u.byte a = 0) ∧ (¬ given → ¬ value → u.byte a = s.byte a))

/-- At the deadline the groups that still run are stopped by force; a drained context is written to the save area; then its
resources are freed and, where its slot is being evicted and nothing of it is left, the slot too (14 R303 to R307). The save area holds the
context header, the team records at multiples of 4,096, and in them the group records with what is live, the forme registers, the live tiles
and the folios, at R307's offsets; a safe-point table that cannot be read leaves everything live (log 21), a byte of an uncorrectable word
is free (log 3), and what the layout does not name is the device's (log 11). -/
def Obligations.PreemptionEventsComplete : Prop :=
  SavesContexts ∧
  (∀ (s : State) (p : Preempt) (g : Group),
    let here := Agent.group g.core g.slot
    let u := s.forceStop p g
    (∀ r, g.run = .trapped r true → u = s.stopGroup g.core g.slot .trap (some r))
    ∧ ((∃ r, g.run = .trapped r false) ∨ g.run = .exited ∨ (∃ k r, g.run = .saving k r) → u = s)
    ∧ (∀ w, g.run = .waiting w →
      let stays := (∃ k n, w = .ownWrites k n) ∨ (∃ c, w = .ligclr c) ∨ ∃ c i, w = .safept c i
      (¬ stays → u = (s.leaveWait g w).stopGroup g.core g.slot .wait none))
    ∧ (g.run = .ready ∨ (∃ k n, g.run = .waiting (.ownWrites k n)) ∨ (∃ c, g.run = .waiting (.ligclr c)) ∨ (∃ c i, g.run = .waiting (.safept c i)) →
      s.group? g.core g.slot = some g →
      (u.group? g.core g.slot).map (·.run) = some (.saving .forced none) ∧ (∀ m ∈ u.commits, m.agent = here → m.left = 0)
      ∧ ∀ q, s.preempts.find? (·.id == p.id) = some q → u.preempts.find? (·.id == p.id) = some { q with forced := q.forced + 1, st := 2 })
    ∧ (∀ c d x, s.leaveWait g (.chase c d x) = { s with cmds := s.cmds.filter fun (m : Cmd) => !(m.uid == x && !m.charged) })
    ∧ ∀ c i a b t, s.team? g.team = some t → s.leaveWait g (.handoff c i a b) = s.setTeam { t with hand := none })
  ∧ (∀ (s : State) (p : Preempt) (t : Team) (g : Group), s.team? g.team = some t → s.group? g.core g.slot = some g → g ∈ s.groups →
    g.team ∈ p.teams → g.run ≠ .exited → Preempt.liveOf { p with live := s.liveTable p } t g = s.liveOf t g)
  ∧ (∀ (s : State) (p : Preempt) (o : Nat) (t : Team) (g : Group),
    let area := p.id
    let r := s.groupRecord p t g o
    let lost := if g.lock.isSome || g.lockLost then 1024 else 0
    let live := p.liveOf t g
    let all : Live := { v := 2 ^ g.vregs - 1, s := 2 ^ g.sregs - 1, g := 2 ^ t.krec.galley - 1 }
    Holds r o 8 g.pc.toNat
    ∧ (∀ i x, g.run = .saving (.safept i) x → Holds r (o + 8) 8 (4 * i + lost))
    ∧ (∀ x, g.run = .saving .wait x → Holds r (o + 8) 8 (1 + lost))
    ∧ (∀ x, g.run = .saving .trap (some x) → Holds r (o + 8) 8 (2 + lost) ∧ Holds r (o + 0x1A8) 8 x.a.toNat ∧ Holds r (o + 0x1B0) 8 x.b.toNat
      ∧ Holds r (o + 0x1B8) 8 x.c.toNat ∧ Holds r (o + 0x1C0) 8 x.d.toNat)
    ∧ (∀ x, g.run = .saving .forced x → Holds r (o + 8) 8 (3 + lost))
    ∧ Holds r (o + 0x10) 8 g.fstat.toNat ∧ Holds r (o + 0x18) 8 g.dsel.toNat ∧ Holds r (o + 0x20) 8 g.vregs
    ∧ (∀ m : MReg, Holds r (o + 0x40 + 8 * m.toNat) 8 (g.mask m).toNat)
    ∧ (∀ j : Fin 8, Holds r (o + 0xC0 + 24 * j) 8 g.rejoins[j].enrolled.toNat ∧ Holds r (o + 0xC8 + 24 * j) 8 g.rejoins[j].arrived.toNat
      ∧ Holds r (o + 0xD0 + 24 * j) 8 g.rejoins[j].point.toNat)
    ∧ Holds r (o + 0x180) 8 g.validBits ∧ (∀ j : Fin 8, g.validBits / 2 ^ (j : Nat) % 2 = g.rejoins[j].valid.toNat)
    ∧ Holds r (o + 0x188) 32 g.parkMap
    ∧ (∀ i < 64,
      ((∀ j : Fin 8, inMask g.rejoins[j].parked i = false) → g.parkMap / 16 ^ i % 16 = 0)
      ∧ ∀ j : Fin 8, inMask g.rejoins[j].parked i = true → (∀ k < j, inMask g.rejoins[k].parked i = false) → g.parkMap / 16 ^ i % 16 = 8 + j)
    ∧ (∀ n < 128, n ≠ 0 → live.s / 2 ^ n % 2 = 1 → Copies r s area (o + 0x200 + 8 * n) (g.skey n) 8)
    ∧ (∀ n < g.vregs, live.v / 2 ^ n % 2 = 1 → Copies r s area (o + 0x600 + 4 * g.width * n) (g.vkey n 0) (4 * g.width))
    ∧ ((∀ i x, g.run ≠ .saving (.safept i) x) → s.liveOf t g = all)
    ∧ ∀ i x q, g.run = .saving (.safept i) x → s.part? (s.partOf g.core) = some q →
      (∀ e, s.ppRead q (farWrap (t.krec.safetab + 64 * i)) 64 = .error e → s.liveOf t g = all)
      ∧ ∀ bs, s.ppRead q (farWrap (t.krec.safetab + 64 * i)) 64 = .ok bs → s.liveOf t g =
        { v := leNat bs % 2 ^ 256 % 2 ^ g.vregs, s := leNat bs / 2 ^ 256 % 2 ^ 128 % 2 ^ g.sregs, g := leNat bs / 2 ^ 384 % 2 ^ 48 % 2 ^ t.krec.galley })
  ∧ (∀ (s : State) (p : Preempt) (o : Nat) (t : Team),
    let area := p.id
    let r := (s.teamRecord p t o).1
    let gs := s.live t.uid
    let size := fun (g : Group) => 1536 + 4 * g.width * g.vregs
    let formes := (o + 256 + sumL (gs.map size) + 63) / 64 * 64
    let tiles := (List.range t.krec.galley).filter fun n => s.liveTiles p t / 2 ^ n % 2 == 1
    let folios := formes + 1024 + 4096 * (t.seats.length * tiles.length)
    (∀ n, s.liveTiles p t / 2 ^ n % 2 = 1 ↔ ∃ g ∈ gs, (p.liveOf t g).g / 2 ^ n % 2 = 1)
    ∧ (∀ i g, nth gs i = some g → ∀ x ∈ s.groupRecord p t g (o + 256 + sumL ((gs.take i).map size)), x ∈ r)
    ∧ (∀ i : Fin 16, Holds r (formes + 64 * i) 64 t.formes[i].toNat)
    ∧ ∀ q x, nth t.seats q = some x → Copies r s area (folios + t.krec.folio * q) (storeKey x.core x.folio) t.krec.folio
      ∧ ∀ k n, nth tiles k = some n →
        Copies r s area (formes + 1024 + 4096 * (q * tiles.length + k)) (tileKey x.core (x.tiles.getD n 0)) 4096)
  ∧ (∀ (s : State) (p : Preempt),
    let image := s.saveImage p
    let ts := p.teams.filterMap s.team?
    Holds image.1 0 8 p.teams.length ∧ Holds image.1 8 8 image.2
    ∧ ∃ os : List Nat, os.length = ts.length ∧ (∀ o, os.head? = some o → o = 4096)
      ∧ (∀ i o t, nth os i = some o → nth ts i = some t → o % 4096 = 0 ∧ ∀ x ∈ (s.teamRecord p t o).1, x ∈ image.1)
      ∧ ∀ i o t, nth os i = some o → nth ts i = some t → ∀ next, nth os (i + 1) = some next →
        next = ((s.teamRecord p t o).2 + 4095) / 4096 * 4096)
  ∧ ∀ (s : State) (n : Nat) (p : Preempt), nth s.preempts n = some p →
    (p.st < 3 → p.at_ + (s.proof p.cluster).predl.toNat * 1000 * nsUnits ≤ s.time →
      exec (.preemptDeadline n) s = .next ((s.contextGroups p).foldl (fun s g => s.forceStop p g) s))
    ∧ (∀ q, p.st < 3 → s.part? (s.partOf (4 * p.cluster)) = some q →
      (s.drained p = false ∨ (∃ x ∈ s.safeAnswers p q, x.2 = .busy) → exec (.contextSave n) s = .next s)
      ∧ (s.drained p = true → (∀ x ∈ s.safeAnswers p q, x.2 ≠ .busy) →
        let p := { p with live := s.liveTable p }
        let s1 := (s.ligs.filter fun e => e.stale && e.team.any fun u => p.teams.any (· == u)).foldl (fun s e => s.clearLig e.core) s
        let image := s1.saveImage p
        let t := (s1.safeAnswers p q).foldl (fun (t : State) x => match x.2 with
          | .bad r l e => t.ppFault q.p p.hw x.1 r l e 0
          | _ => t) s1
        let units := t.saveUnits q p.root ((p.root + image.2 - 1) / 65536 - p.root / 65536 + 1)
        let room := ∀ m, p.space = some m → image.2 ≤ m
        (¬ room → exec (.contextSave n) s = .next (t.saveFail p p.root 15))
        ∧ (∀ ks, room → units = (ks, none) → exec (.contextSave n) s = .next (State.setPreempt (t.write (image.1.map fun b =>
          (ks.getD ((p.root + b.1) / 65536 - p.root / 65536) 0 + (p.root + b.1) % 65536, b.2))) { p with st := 3 }))
        ∧ (∀ ks va r l e, room → units = (ks, some (va, .bad r l e)) →
          exec (.contextSave n) s = .next (State.saveFail (t.ppFault q.p p.hw va r l e 1) p va r))
        ∧ ∀ ks va, room → units = (ks, some (va, .busy)) → exec (.contextSave n) s = .next s))
    ∧ (p.st = 3 →
      let saved := s.savedContext p (s.partOf (4 * p.cluster)) ((((s.hw? p.hw).bind (·.queue)).map (·.q)).getD 0) true
      let s1 := if p.forced = 0 then s else s.contextRecord p 0x12 (.ofNat 64 p.forced) (.ofNat 64 p.root)
      let s2 := (p.teams.filterMap s1.team?).foldl State.freeTeam s1
      let s3 := State.setPreempt { s2 with saved := s2.saved ++ [saved] } { p with st := 4 }
      exec (.saveComplete n) s = .next (s3.evictOn p.hw))

/-- A host write takes the effect of the register it reaches: a read-write register takes the bits that it has, a bit written 1 to
a W1C field is cleared, a command register acts, and a write to anything else is ignored. Mailbox accesses are carried out piece by
piece. While an earlier access waits, or this one meets a page that moves, an access waits its turn (00 R6, R7, 04 R112, 15 R310,
16 R339, R340, 17 R366, 18 R371 to R373). That a table-write request is ignored while one is outstanding is the model's choice, and so
is what an operand of XINV out of range does (log 8). -/
def Obligations.HostAccessesComplete : Prop :=
  (∀ (s : State) (p : Partition) (x : DWord), s.part? p.p = some p → s.hostq = [] →
    let kind := x.toNat / 2 ^ 62
    let operand := x.toNat % 2 ^ 57
    (p.busy = true → exec (.xinvWrite p.p x) s = .next (s.setPart { p with lost := true }))
    ∧ (p.busy = false → xinvOk kind operand = true → exec (.xinvWrite p.p x) s = .next (s.shoot p.p kind operand none))
    ∧ (p.busy = false → xinvOk kind operand = false → exec (.xinvWrite p.p x) s = .next s)
    ∧ (256 < (p.fbput - x.setWidth 32).toNat → exec (.fbgetWrite p.p x) s = .next s)
    ∧ ((p.fbput - x.setWidth 32).toNat ≤ 256 →
      let t := s.setPart { p with fbget := x.setWidth 32 }
      ((p.fbput - x.setWidth 32).toNat < (p.fbput - p.fbget).toNat → exec (.fbgetWrite p.p x) s = .next (t.repost p.p))
      ∧ ((p.fbput - p.fbget).toNat ≤ (p.fbput - x.setWidth 32).toNat → exec (.fbgetWrite p.p x) s = .next t)))
  ∧ (∀ (s : State) (part : Nat) (x : DWord), s.hostq = [] →
    let mine := fun (m : Cmd) => m.kind == .pagereq && m.charged && s.partOf (agentCore m.agent) == part
    let page := x.toNat / 2 ^ 16 % 2 ^ 41
    let again := fun (u : FUnit) =>
      if u.faulted && !u.done && u.va / 65536 == page then { u with res := Xlat.pending, refused := u.refused || x.toNat / 2 ^ 63 % 2 == 1 } else u
    exec (.fresolveWrite part x) s = .next { s with
      cmds := s.cmds.map fun m => if mine m then { m with units := m.units.map again } else m })
  ∧ (∀ (s : State) (x : DWord), s.hostq = [] →
    let v := x.toNat
    let b := s.boot
    let answers := fun (st : Nat) => State.msix { s with boot := { b with st := st, code := 0 } } 1
    let takes := fun (off : Nat) (t : State) => exec (.registerWrite off x) s = .next t
    let clears := fun (off sh w : Nat) (f : State → Nat) (put : Nat → State) => ∃ n, takes off (put n) ∧ f (put n) = n
      ∧ ∀ i, n.testBit i = ((f s).testBit i && !(decide (sh ≤ i) && decide (i < sh + w) && v.testBit (i - sh)))
    (b.lock = false → takes 0x20 { s with boot := { b with featacc := v &&& 0x3F } })
    ∧ (b.lock = true → takes 0x20 s)
    ∧ (v % 2 = 1 → takes 0x40 { s with boot := { b with lock := true } })
    ∧ (v % 2 = 0 → takes 0x40 s)
    ∧ (v % 4 = 1 → b.st = 1 → takes 0x50 (answers 2))
    ∧ (v % 4 = 2 → b.st = 3 → takes 0x50 (answers 4))
    ∧ (¬ (v % 4 = 1 ∧ b.st = 1) → ¬ (v % 4 = 2 ∧ b.st = 3) → takes 0x50 s)
    ∧ (∀ i < 8, takes (0x100 + 8 * i) { s with boot := { b with mbwin := b.mbwin.setIfInBounds i (x &&& 0xB9FFFFFFF0000000#64) } })
    ∧ clears 0x200 0 64 (·.boot.halt) (fun n => { s with boot := { b with halt := n } })
    ∧ clears 0x208 64 32 (·.boot.halt) (fun n => { s with boot := { b with halt := n } })
    ∧ takes 0x210 (((List.range 64).filter fun i => v.testBit i).foldl State.restart s)
    ∧ takes 0x218 (((List.range 32).filter fun i => v.testBit i).foldl (fun s i => s.restart (64 + i)) s)
    ∧ (∀ i < 4, takes (0x300 + 8 * i) { s with boot := { b with nonce := b.nonce - b.nonce / 2 ^ (64 * i) % 2 ^ 64 * 2 ^ (64 * i) + v * 2 ^ (64 * i) } })
    ∧ (v % 2 = 1 → b.attBusy = false → takes 0x320 { s with boot := { b with attBusy := true, attNonce := b.nonce } })
    ∧ (v % 2 = 0 ∨ b.attBusy = true → takes 0x320 s)
    ∧ takes 0x600 { s with boot := { b with mmEp := x } }
    ∧ takes 0x608 { s with boot := { b with mmPage := x } }
    ∧ takes 0x610 { s with boot := { b with mmEntry := x } }
    ∧ (v = 1 → b.mmStat ≠ 1 → takes 0x618 (State.setModule { s with boot := { b with mmStat := 1 } }
        { s.module (b.mmEp.toNat % 128) with pendingWrite := some (b.mmPage.toNat % 2 ^ 22, b.mmEntry) }))
    ∧ (v ≠ 1 ∨ b.mmStat = 1 → takes 0x618 s)
    ∧ (∃ t, takes 0x700 t ∧ t = { s with boot := { b with cor := t.boot.cor, unc := t.boot.unc } }
      ∧ (∀ i < 32, t.boot.cor.getLsbD i = (b.cor.getLsbD i && !v.testBit i))
      ∧ ∀ i < 32, t.boot.unc.getLsbD i = (b.unc.getLsbD i && !v.testBit (32 + i)))
    ∧ (∀ off < 0x18000, ¬ (0x100 ≤ off ∧ off < 0x140 ∧ off % 8 = 0) → ¬ (0x300 ≤ off ∧ off < 0x320 ∧ off % 8 = 0) →
      off ∉ [0x20, 0x40, 0x50, 0x200, 0x208, 0x210, 0x218, 0x320, 0x600, 0x608, 0x610, 0x618, 0x700] → takes off s)
    ∧ (∀ p : Partition, p.p < 8 → s.part? p.p = some p →
      let reg := fun (o : Nat) => 0x100000 + 0x10000 * p.p + o
      takes (reg 0) (s.setPart { p with qtbase := .ofNat 64 (v / 2 ^ 12 % 2 ^ 45 * 2 ^ 12) })
      ∧ (v % 2 ^ 15 ≤ 16384 → takes (reg 8) (s.setPart { p with qtcount := v % 2 ^ 15 }))
      ∧ (16384 < v % 2 ^ 15 → takes (reg 8) s)
      ∧ takes (reg 0x800) (s.setPart { p with xroot := .ofNat 64 (v / 2 ^ 63 * 2 ^ 63 + v % 2 ^ 37) })
      ∧ exec (.registerWrite (reg 0x818) x) s = exec (.xinvWrite p.p x) s
      ∧ (v / 2 % 2 = 1 → takes (reg 0x820) (s.setPart { p with lost := false }))
      ∧ (v / 2 % 2 = 0 → takes (reg 0x820) s)
      ∧ exec (.registerWrite (reg 0x830) x) s = exec (.fbgetWrite p.p x) s
      ∧ (∃ n : BitVec 32, takes (reg 0x838) (s.setPart { p with fbovf := n }) ∧ ∀ i < 32, n.getLsbD i = (p.fbovf.getLsbD i && !v.testBit i))
      ∧ takes (reg 0x840) (s.setPart { p with fbctl := .ofNat 2 v })
      ∧ exec (.registerWrite (reg 0x848) x) s = exec (.fresolveWrite p.p x) s
      ∧ ∀ o < 0x10000, o ∉ [0, 8, 0x800, 0x818, 0x820, 0x830, 0x838, 0x840, 0x848] → takes (reg o) s)
    ∧ (∀ k < 16,
      let reg := fun (o : Nat) => 0x200000 + 0x100 * k + o
      let y := s.socket k
      (v / 2 ^ 23 % 2 = 1 → takes (reg 0) (s.setSocket { y with badcmd := false }))
      ∧ (v / 2 ^ 23 % 2 = 0 → takes (reg 0) s)
      ∧ (v % 8 = 1 → exec (.registerWrite (reg 8) x) s = exec (.sockGo k) s)
      ∧ (v % 8 = 2 → exec (.registerWrite (reg 8) x) s = exec (.sockQuiesce k) s)
      ∧ (v % 8 = 3 → exec (.registerWrite (reg 8) x) s = exec (.sockReset k) s)
      ∧ (v % 8 ∉ [1, 2, 3] → takes (reg 8) (s.setSocket { y with badcmd := true }))
      ∧ takes (reg 0x18) (s.setSocket { y with warn := v % 2 ^ 16, retire := v / 2 ^ 16 % 2 ^ 16 })
      ∧ takes (reg 0x20) (s.setSocket { y with romaddr := v / 8 % 2 ^ 13 * 8 })
      ∧ ∀ o < 0x100, o ∉ [0, 8, 0x18, 0x20] → takes (reg o) s)
    ∧ ((s.fevput - .ofNat 32 v).toNat ≤ 256 → takes 0x201008 { s with fevget := .ofNat 32 v })
    ∧ (256 < (s.fevput - .ofNat 32 v).toNat → takes 0x201008 s)
    ∧ (∃ n : BitVec 32, takes 0x201010 { s with fevhovf := n } ∧ ∀ i < 32, n.getLsbD i = (s.fevhovf.getLsbD i && !v.testBit i))
    ∧ (∀ o, 0x1000 ≤ o → o < 0x3000 → o ≠ 0x1008 → o ≠ 0x1010 → takes (0x200000 + o) s)
    ∧ ∀ off, 0x18000 ≤ off → (off < 0x100000 ∨ 0x180000 ≤ off) → (off < 0x200000 ∨ 0x203000 ≤ off) → (off < 0x1000000 ∨ 0x1100000 ≤ off) →
      takes off s)
  ∧ (∀ (s : State) (x : DWord) (p q : Nat), p < 8 → q < 16384 →
    exec (.registerWrite (0x1000000 + 0x20000 * p + 8 * q) x) s = exec (.notifyWrite p q x) s)
  ∧ (∀ (s : State) (off : Nat) (x : DWord), s.hostq ≠ [] → off < 0x1000000 →
    exec (.registerWrite off x) s = .next { s with hostq := s.hostq ++ [.reg off x] })
  ∧ (∀ (s : State) (n off : Nat),
    let w := (s.boot.mbwin.toList.getD n 0).toNat
    (w / 2 ^ 63 % 2 = 0 ∨ 2 ^ 28 ≤ off → s.window n off = .none_)
    ∧ (w / 2 ^ 63 % 2 = 1 → off < 2 ^ 28 → s.boot.st = 5 → ∀ p, s.part? (w / 2 ^ 59 % 8) = some p →
      s.window n off = .far p (farWrap (w / 2 ^ 28 % 2 ^ 29 * 2 ^ 28 + off)))
    ∧ (w / 2 ^ 63 % 2 = 1 → off < 2 ^ 25 → s.boot.st ≠ 5 → s.boot.st ≠ 7 → n = 0 → s.window n off = .staging off))
  ∧ (∀ (s : State) (n off size : Nat),
    let ps := pieces off size
    let busy := ∃ p ∈ ps, s.windowBusy n false p.1 = true
    (s.hostq ≠ [] ∨ busy → exec (.mailboxRead n off size) s = .next { s with hostq := s.hostq ++ [.read n off size] })
    ∧ (s.hostq = [] → ¬ busy →
      let r := ps.foldl (fun (a : State × List Byte) p => ((a.1.windowRead n p.1 p.2).1, a.2 ++ (a.1.windowRead n p.1 p.2).2)) (s, [])
      exec (.mailboxRead n off size) s = .next { r.1 with boot := { r.1.boot with lastRead := r.2 } }))
  ∧ (∀ (s : State) (n off size x : Nat),
    let ps := pieces off size
    let bs := leBytes size x
    let busy := ∃ p ∈ ps, s.windowBusy n true p.1 = true
    (s.hostq ≠ [] ∨ busy → exec (.mailboxWrite n off size x) s = .next { s with hostq := s.hostq ++ [.write n off bs] })
    ∧ (s.hostq = [] → ¬ busy → exec (.mailboxWrite n off size x) s
      = .next (ps.foldl (fun s p => s.windowWrite n p.1 ((bs.drop (p.1 - off)).take p.2)) s)))
  ∧ (∀ (s : State) (n o k : Nat) (bs : List Byte),
    let zeros := List.replicate k (0 : Byte)
    let fault := fun (p : Partition) (va r l e access : Nat) => s.postFault p.p { seq := 0, addr := va, team := 0, hw := 0, cluster := 127, core := 0
                                                                                  ep := e, level := l, reason := r, access := access }
    (s.window n o = .none_ → s.windowRead n o k = (s, zeros) ∧ s.windowWrite n o bs = s ∧ ∀ wr, s.windowBusy n wr o = false)
    ∧ (∀ x, s.window n o = .staging x → s.windowRead n o k = (s, s.bytes (stagingKey x) k)
      ∧ s.windowWrite n o bs = s.write (cellsAt (stagingKey x) bs) ∧ ∀ wr, s.windowBusy n wr o = false)
    ∧ ∀ p va, s.window n o = .far p va →
      (∀ a, s.farKey p 254 false va = .key a → s.windowRead n o k = (s, s.bytes a k))
      ∧ (∀ r l e, s.farKey p 254 false va = .bad r l e → s.windowRead n o k = (fault p va r l e 0, zeros))
      ∧ (∀ a, s.farKey p 254 true va = .key a → s.windowWrite n o bs = s.write (cellsAt a bs))
      ∧ (∀ r l e, s.farKey p 254 true va = .bad r l e → s.windowWrite n o bs = fault p va r l e 1)
      ∧ ∀ wr, (s.windowBusy n wr o = true ↔ s.farKey p 254 wr va = .busy))
  ∧ (∀ (s : State) (n o size part q : Nat) (bs : List Byte) (x : DWord),
    let held := fun (wr : Bool) (size : Nat) => ∃ p ∈ pieces o size, s.windowBusy n wr p.1 = true
    s.hostBusy (.reg o x) = false ∧ (s.hostBusy (.read n o size) = true ↔ held false size) ∧ (s.hostBusy (.write n o bs) = true ↔ held true bs.length)
    ∧ (s.hostBusy (.notify part q x) = true ↔ s.boot.lock = true ∧ s.tableBusy part q = true)
    ∧ s.hostDo (.notify part q x) = s.notify part q x.toNat
    ∧ (s.hostq = [] → o < 0x1000000 → exec (.registerWrite o x) s = .next (s.hostDo (.reg o x)))
    ∧ (s.hostq = [] → ¬ held false size → exec (.mailboxRead n o size) s = .next (s.hostDo (.read n o size)))
    ∧ ∀ y, s.hostq = [] → ¬ held true size → exec (.mailboxWrite n o size y) s = .next (s.hostDo (.write n o (leBytes size y))))
  ∧ (∀ (s : State) (part : Nat),
    let mine := s.cmds.filter fun m => m.kind == .pagereq && m.charged && s.partOf (agentCore m.agent) == part
    s.repost part = mine.foldl (fun s m => m.units.foldl (fun s u => s.repostUnit m.uid u) s) s
    ∧ ∀ (m : Cmd) (u : FUnit), s.cmd? m.uid = some m →
      ((∀ r l e, u.res ≠ .served (.bad r l e)) ∨ u.done = true ∨ u.posted = true → s.repostUnit m.uid u = s)
      ∧ ∀ r l e, u.res = .served (.bad r l e) → u.done = false → u.posted = false →
        let x := s.faultOf m.team (agentCore m.agent) u.va r l e 2
        let t := s.postFault (s.partOf (agentCore m.agent)) x
        let posted := (t.part? (t.partOf (agentCore m.agent))).any fun p => p.holds x
        s.repostUnit m.uid u = t.setCmd { m with units := m.units.map fun (v : FUnit) => if v.va = u.va then { v with posted := posted } else v })
  ∧ (∀ (s : State) (o : HostOp) (os : List HostOp), s.hostq = o :: os →
    (s.hostBusy o = true → s.hostNext = s) ∧ (s.hostBusy o = false → s.hostNext = State.hostDo { s with hostq := os } o))
  ∧ ∀ s : State, s.hostq = [] →
    (s.boot.mmStat ≠ 1 → exec .mmgmtSend s = .next (State.setModule { s with boot := { s.boot with mmStat := 1 } }
      { s.module (s.boot.mmEp.toNat % 128) with pendingWrite := some (s.boot.mmPage.toNat % 2 ^ 22, s.boot.mmEntry) }))
    ∧ (s.boot.mmStat = 1 → exec .mmgmtSend s = .next s)

/-- Boot goes through its states only as images verify, features lock for good, a report is signed, a halted proof core starts
again, and package reset returns to the state after reset, but for what is no part of the package (14 R287, 18 R375 to
R379). What package reset keeps (time, numbers and values of the model's own, the agenda, the modules with their memory, tables and
lanes, the engines that are present with their ROMs) is the model's choice (logs 6 and 8), and so are the constants that stand for the
formats of the images (log 10). -/
def Obligations.BootEventsComplete : Prop :=
  (∀ (s : State) (img : Image) (x : Settings),
    let t := s.configure img x
    t = { s with parts := t.parts, hws := t.hws, boot := t.boot, modules := t.modules }
    ∧ t.boot = { s.boot with cfg := some img, endpoint := x.endpoint, members := x.group, limits := x.limits
                             leader := x.group.head? == some x.endpoint }
    ∧ t.parts = s.parts.map x.part
    ∧ t.hws = t.parts.flatMap (fun p => p.hw.map fun n => { n := n, part := p.p, queue := none, lastCore := none, resv := none })
    ∧ (∀ e, t.module e = if e ∈ x.managed then { s.module e with manager := x.endpoint } else s.module e)
    ∧ ∀ q : Partition,
      (x.nparts ≤ q.p → x.part q = { q with dies := [], hw := [] })
      ∧ (q.p < x.nparts →
        let ts := x.tslice.getD q.p 0
        let c := (x.ceilings.getD q.p none).getD (maxCeilB, 65535)
        x.part q = { q with
          dies := (List.range 8).filter fun d => x.dies.getD d 0 == q.p
          hw := (List.range (x.slots.getD q.p 0)).map (sumL (x.slots.take q.p) + ·)
          tslice := (if ts = 0 then 100000 else ts) * nsUnits, pinShare := x.pins.getD q.p 0, ceilB := c.1, ceilC := c.2 }))
  ∧ (∀ s : State, ∃ u : State, u = { s with mem := u.mem, poison := u.poison, scrub := u.scrub }
    ∧ s.ready = State.msix { u with boot := { u.boot with st := 5, code := 0 }
                                    cadence := { u.cadence with lastTick := u.time, nextSend := u.time } } 1
    ∧ ∀ fw, s.Inv → s.boot.fw = some fw → (∀ c < 96, ∀ i < 65536, u.byte (proofKey c i) = Config.firmwareByte fw.body i)
      ∧ ∀ a, (∀ c < 96, a < proofKey c 0 ∨ proofKey c 65536 ≤ a) → u.byte a = s.byte a)
  ∧ (∀ s : State,
    let image := fun (i : Option Image) => (i.map (·.digest)).getD []
    let version := fun (i : Option Image) => leBytes 8 ((i.map (·.version)).getD 0)
    let live := ((List.range 16).map s.socket).filter (·.st == 3)
    s.report = Config.publicKey ((s.boot.fw.map (·.body)).getD []) ++ image s.boot.fw ++ image s.boot.cfg ++ version s.boot.fw ++ version s.boot.cfg
      ++ leBytes 32 s.boot.featacc ++ live.flatMap (fun k => ((List.range 16).map fun i => k.rom.getD (24 + i) 0) ++ Config.shake256 k.rom)
      ++ leBytes 32 s.boot.attNonce)
  ∧ ∀ s : State,
    let answers := fun (s : State) (st code : Nat) => State.msix { s with boot := { s.boot with st := st, code := code } } 1
    (s.hostq = [] →
      (s.boot.st = 1 → exec .bootVerifyFirmware s = .next (answers s 2 0))
      ∧ (s.boot.st ≠ 1 → exec .bootVerifyFirmware s = .next s)
      ∧ (s.boot.st = 3 → exec .bootVerifyConfiguration s = .next (answers s 4 0))
      ∧ (s.boot.st ≠ 3 → exec .bootVerifyConfiguration s = .next s)
      ∧ exec .featureLock s = .next { s with boot := { s.boot with lock := true } }
      ∧ (s.boot.attBusy = true → exec .attestGo s = .next s)
      ∧ (s.boot.attBusy = false → exec .attestGo s = .next { s with boot := { s.boot with attBusy := true, attNonce := s.boot.nonce } }))
    ∧ (s.hostq ≠ [] → ∀ i o, (i, o) ∈ [(Instr.bootVerifyFirmware, HostOp.reg 0x50 1), (.bootVerifyConfiguration, .reg 0x50 2),
        (.featureLock, .reg 0x40 1), (.attestGo, .reg 0x320 1), (.mmgmtSend, .reg 0x618 1)] →
      exec i s = .next { s with hostq := s.hostq ++ [o] })
    ∧ (s.boot.st = 2 → ∀ head img sig, s.staged 1 = some (head, img, sig) →
      let key := Config.firmwareKey img.body 0
      let good := Config.shake256 key = Config.romDigest ∧ Config.slhVerify key (head ++ img.body) sig = true
      (good → exec .firmwareVerifyDone s = .next (answers { s with boot := { s.boot with fw := some img } } 3 0))
      ∧ (¬ good → exec .firmwareVerifyDone s = .next (answers s 7 1)))
    ∧ (s.boot.st = 2 → s.staged 1 = none → exec .firmwareVerifyDone s = .next (answers s 7 1))
    ∧ (s.boot.st = 4 → ∀ head img sig fw, s.staged 2 = some (head, img, sig) → s.boot.fw = some fw →
      let set := settingsOf img.body
      let verified := Config.slhVerify (Config.firmwareKey fw.body 1) (head ++ img.body) sig = true
      let go := (List.range 16).foldl (fun (s : State) k => if (s.socket k).st = 2 then s.goLive k else s) (s.configure img set)
      (¬ verified → ∀ ok, exec (.configurationBringupDone ok) s = .next (answers s 7 2))
      ∧ (verified → set.ok = false → ∀ ok, exec (.configurationBringupDone ok) s = .next (answers s 7 3))
      ∧ (verified → set.ok = true →
        exec (.configurationBringupDone false) s = .next (answers (s.configure img set) 7 4)
        ∧ ((∃ k < 16, (go.socket k).st = 3) → exec (.configurationBringupDone true) s = .next go.ready)
        ∧ ((∀ k < 16, (go.socket k).st ≠ 3) → exec (.configurationBringupDone true) s = .next (answers go 7 5))))
    ∧ (s.boot.attBusy = true → exec .attestReportDone s = .next (State.msix { s with
        boot := { s.boot with attrep := s.report ++ Config.attestSign s.report, attBusy := false } } 1))
    ∧ (∀ k < 96, s.hostq = [] →
      ((s.proof k).halted = false → exec (.proofCoreRestart k) s = .next s)
      ∧ ((s.proof k).halted = true → (s.proof k).cluster = k → ∃ t, exec (.proofCoreRestart k) s = .next t
        ∧ t.proof k = { ProofCore.init k with
            queue := (s.proof k).queue, orphovf := (s.proof k).orphovf, fev := (s.proof k).fev, fevovf := (s.proof k).fevovf
            notBefore := s.cycle + 1 }
        ∧ (∀ m ∈ t.commits, m.agent ≠ .proof k) ∧ (∀ x ∈ t.locks, x.holder ≠ .proof k) ∧ (∀ x ∈ t.lockReqs, x.agent ≠ .proof k)
        ∧ ∀ fw, s.Inv → s.boot.fw = some fw → ∀ i < 65536, t.byte (proofKey k i) = Config.firmwareByte fw.body i))
    ∧ exec .packageReset s = .next { State.reset with
        time := s.time, uid := s.uid, fresh := s.fresh, agenda := s.agenda, mem := s.mem.filter fun c => decide (2 ^ 48 ≤ c.1)
        modules := s.modules.map fun (m : Module) => { m with pendingWrite := none }, lanes := s.lanes.filter fun l => decide (16 ≤ l.s)
        sockets := (s.sockets.filter (·.present)).map fun k => { (State.reset.socket k.s) with present := true, rom := k.rom } }

/-! ### Sockets, lanes, cadence, power and errors (17, 18) -/

/-- What a change of lanes does besides (17 R357, R358, R360, R361, R365): an event goes to every proof core and to the host ring, with its
fields in their places; each peer that becomes reachable or unreachable is a TOPOCHANGE; streams move one by one to a lane that is free,
the package's own sent again at once, one that it receives upon its grant and its RESUME; a lane that fails keeps the streams that it had, and
bursts under way on it are lost. -/
def StreamsMove (s : State) : Prop :=
  (∀ f : State → State,
    let t := f s
    s.withTopology f = ((List.range 128).filter fun e => e != t.boot.endpoint && t.reaches e != s.reaches e).foldl
      (fun t e => t.postEvent 6 (some e) none none none (if t.reaches e then 1 else 0)) t)
  ∧ (∀ (kind b : Nat) (peer plane sk pos : Option Nat), kind < 2 ^ 5 → ∃ a : DWord,
    let y : DWord := .ofNat 64 b
    let give := fun (s : State) (c : Nat) =>
      let p := s.proof c
      s.setProof (if p.fev.length < 64 then { p with fev := p.fev ++ [(a, y)] } else { p with fevovf := p.fevovf + 1 })
    let t := (List.range 96).foldl give { s with fresh := s.fresh + 1, eseq := s.eseq + 1 }
    let i := t.fevput.toNat % 256
    let field := fun (x : Option Nat) (lo w : Nat) => ∀ n, x = some n → n < 2 ^ w → a.toNat / 2 ^ lo % 2 ^ w = n
    a.toNat % 2 ^ 5 = kind ∧ field pos 5 7 ∧ field sk 12 4 ∧ field plane 16 9 ∧ field peer 25 7 ∧ a.toNat / 2 ^ 32 = s.eseq % 2 ^ 32
    ∧ ((t.fevput - t.fevget).toNat < 256 → s.postEvent kind peer plane sk pos b
      = State.msix { t with fevrec := t.fevrec.filter (·.1 != i) ++ [(i, a, y)], fevput := t.fevput + 1 } 0)
    ∧ (256 ≤ (t.fevput - t.fevget).toNat → s.postEvent kind peer plane sk pos b = { t with fevhovf := t.fevhovf + 1 }))
  ∧ (∀ kind k pos b : Nat, s.laneEvent kind k pos b
    = s.postEvent kind none (if (s.lane k pos).st = 0 then none else some (s.lane k pos).plane) (some k) (some pos) b)
  ∧ (∀ k pos reason : Nat,
    let xs := s.streamsOn (· == (k, pos))
    let t := s.laneEvent 1 k pos (reason + 2 ^ 16 * xs.length)
    let cut := { t with wire := t.wire.filter (·.lane != (k, pos)), out := t.out.filter (·.lane != (k, pos)) }
    s.failLane k pos reason = cut.setLane { t.lane k pos with
      st := 3, failAt := some t.time, bad := 0, streams := xs.map fun x => (x.src, x.dst, x.stream, x.vc) })
  ∧ (∀ (k : Nat) (failed : Bool) (x : TxStream) (xs : List TxStream),
    let peer := if x.src = s.boot.endpoint then x.dst else x.src
    s.moveStreams k failed [] = s
    ∧ s.moveStreams k failed (x :: xs) = (s.carryOn k failed (s.otherLane peer x.vc) x).moveStreams k failed xs)
  ∧ (∀ peer vc : Nat,
    let good := fun (i : Nat) (l : Nat × Nat) => s.moduleLane peer (i / 4) = true ∧ s.planeLane (i / 4) (i % 4) = some l
      ∧ (∀ x ∈ s.tx, ∀ c ∈ x.copies, c.lane ≠ some l) ∧ (∀ x ∈ s.pins 64, ¬ (x.2.1 = i / 4 ∧ x.2.2 = i % 4))
      ∧ ∀ g ∈ s.given, g.plane = i / 4 → g.slot = i % 4 → g.vc = vc → g.peer = peer
    (∀ l, s.otherLane peer vc = some l → ∃ i < 1024, good i l ∧ ∀ j < i, ∀ m, ¬ good j m)
    ∧ (s.otherLane peer vc = none → ∀ i < 1024, ∀ l, ¬ good i l))
  ∧ ∀ (k : Nat) (failed : Bool) (l : Option (Nat × Nat)) (x : TxStream),
    let off : TxStream := { x with lane := none, copies := x.copies.map fun c => { c with lane := none } }
    let n := (s.tx.takeWhile fun y => !(y.src == x.src && y.dst == x.dst && y.stream == x.stream && y.vc == x.vc)).length
    (x.dst ≠ s.boot.endpoint → s.carryOn k failed l x = s.resend off off.copies)
    ∧ (x.dst = s.boot.endpoint →
      (l = none → s.carryOn k failed l x = if failed then s.setTx off else s.resend off off.copies)
      ∧ ∀ m, l = some m →
        let t := s.grantLane x m
        s.carryOn k failed l x = if failed then (t.setTx off).sendResume k off else t.resend off off.copies)
    ∧ (s.controlTo x.src = false → s.sendResume k x = s)
    ∧ (s.controlTo x.src = true → s.sendResume k x = State.setSocket { s with
        agenda := s.agenda ++ [.resume n (s.rxNext s.boot.endpoint x.src x.stream x.vc)] } { s.socket k with resumes := (s.socket k).resumes + 1 })
    ∧ ∀ m : Nat × Nat,
      let p := (s.lane m.1 m.2).place
      let plane := 16 * m.1 + p / 4
      (∃ g ∈ s.given, g.plane = plane ∧ g.slot = p % 4 ∧ g.vc = x.vc) ∧ s.grantLane x m = s
      ∨ (∀ g ∈ s.given, ¬ (g.plane = plane ∧ g.slot = p % 4 ∧ g.vc = x.vc))
        ∧ s.grantLane x m = { s with given := s.given ++ [{ peer := x.src, plane := plane, slot := p % 4, vc := x.vc, bursts := 16 }] }

/-- A socket goes Live with its lanes trained, and drains (17 R361, R365): every lane that is not retired is trained and reported; a draining
socket's streams go to other sockets, and their chunks are counted. -/
def SocketsGoAndDrain (s : State) (k : Nat) : Prop :=
  (let train := fun (s : State) (i : Nat) =>
      let l := s.lane k i
      s.setLane (if l.st = 4 then l
        else { l with st := if l.pos < 64 then 1 else 0, plane := if l.pos < 64 then 16 * l.s + l.pos / 4 else 0x1FF, replaced := 127
                      failAt := none, bad := 0, streams := [] })
    let t := s.withTopology fun s => (List.range 68).foldl train (s.setSocket { s.socket k with st := 3 })
    s.goLive k = (((List.range 68).filter fun i => (t.lane k i).st != 4).foldl (fun s i => s.laneEvent 3 k i 1) t).repinAll)
  ∧ (let t := s.withTopology fun s => s.setSocket { s.socket k with st := 4, drainAt := s.time + 20000 * nsUnits, moved := 0 }
    s.quiesce k = (t.drainMove k).repinAll)
  ∧ (let xs := (s.streamsOn (·.1 == k)).filter fun x => !x.copies.isEmpty
    let t := s.moveStreams k false xs
    let moved := sumL (xs.map fun x => (x.copies.filter fun c => c.lane.any (·.1 == k)).length)
    s.drainMove k = t.setSocket { t.socket k with moved := (t.socket k).moved + moved })
  ∧ s.quiesced k = State.postEvent (s.setSocket { s.socket k with st := 5 }) 5 none none (some k) none (s.socket k).moved

/-- Socket commands follow the state machine, anything else sets BADCMD; engines come and go; a drained socket is quiesced
(17 R364, R365). That an engine put into a Failed socket without one waits there for RESET is the model's choice (log 23). -/
def Obligations.SocketEventsComplete : Prop :=
  ∀ (s : State) (k : Nat), k < 16 → SocketsGoAndDrain s k ∧
    (s.hostq ≠ [] →
      let cmd := fun (n : Nat) => { s with hostq := s.hostq ++ [.reg (0x200008 + 0x100 * k) (.ofNat 64 n)] }
      exec (.sockGo k) s = .next (cmd 1) ∧ exec (.sockQuiesce k) s = .next (cmd 2) ∧ exec (.sockReset k) s = .next (cmd 3)) ∧
    let x := s.socket k
    let bad := s.setSocket { x with badcmd := true }
    let clean := { s with lanes := s.lanes.filter (·.s != k) }
    (s.hostq = [] → x.st = 2 ∨ x.st = 5 → exec (.sockGo k) s = .next (s.goLive k))
    ∧ (s.hostq = [] → x.st ≠ 2 → x.st ≠ 5 → exec (.sockGo k) s = .next bad)
    ∧ (s.hostq = [] → x.st = 3 → exec (.sockQuiesce k) s = .next (s.quiesce k))
    ∧ (s.hostq = [] → x.st ≠ 3 → exec (.sockQuiesce k) s = .next bad)
    ∧ (s.hostq = [] → x.st = 6 → x.present = true → exec (.sockReset k) s = .next (State.setSocket { s with
        lanes := s.lanes.map fun (l : Lane) => if l.s == k then { l with warned := false } else l } { x with st := 1 }))
    ∧ (s.hostq = [] → x.st ≠ 6 ∨ x.present = false → exec (.sockReset k) s = .next bad)
    ∧ (∀ rom, x.st = 0 → exec (.engineInsert k rom) s = .next (State.setSocket clean { x with st := 1, present := true, rom := rom }))
    ∧ (∀ rom, x.st = 6 → x.present = false →
      exec (.engineInsert k rom) s = .next (State.setSocket clean { x with present := true, rom := rom }))
    ∧ (x.present = true → x.st ≠ 3 → x.st ≠ 4 →
      exec (.engineRemove k) s = .next (s.setSocket { x with st := 0, present := false, rom := [] }))
    ∧ (x.present = true → x.st = 3 ∨ x.st = 4 →
      let used := (List.range 68).filter fun i => (s.lane k i).st == 1 || (s.lane k i).st == 2
      let failAll := fun (s : State) => used.foldl (fun (s : State) i => s.failLane k i 4) s
      let s' := s.withTopology fun s => (failAll s).setSocket { (failAll s).socket k with st := 6, present := false }
      exec (.engineRemove k) s = .next (State.repinAll (s'.moveStreams k true (s'.streamsOn (·.1 == k)))))
    ∧ (∀ fw, s.boot.fw = some fw → x.st = 1 →
      exec (.romVerifyDone k) s = .next (s.setSocket { x with st := if romOk fw.body k x.rom then 2 else 6 }))
    ∧ (x.st = 4 → (∀ t ∈ s.streamsOn (·.1 == k), ∀ b ∈ t.copies, ∀ l, b.lane = some l → l.1 ≠ k) →
      exec (.drainComplete k) s = .next (s.quiesced k))
    ∧ (x.st = 4 → (∃ t ∈ s.streamsOn (·.1 == k), ∃ b ∈ t.copies, ∃ l, b.lane = some l ∧ l.1 = k) →
      exec (.drainComplete k) s = .next s)
    ∧ (x.st = 4 → x.drainAt ≤ s.time → exec (.drainTimeout k) s = .next ((s.drainMove k).quiesced k))

/-- Lanes fail, are replaced by spares, tried again, retrained, age and retire, with the events and the replays of 17 R358 to
R363; a socket whose every lane has failed is Failed (R365); lanes of modules, which are sockets 16 and up (log 23), fail, are tried again
and replaced alike. What the ageing counter is over a baseline of 0 is free (log 3). -/
def Obligations.LaneEventsComplete : Prop :=
  (∀ s : State, StreamsMove s) ∧
  (∀ (s : State) (k pos : Nat), k < 16 → pos < 68 →
    let x := s.socket k
    let l := s.lane k pos
    let free := (x.st = 3 ∨ x.st = 4) ∧ l.st = 0
    (∀ reason, s.laneUp (k, pos) = true ∨ (free ∧ reason = 1) →
      let s' := s.withTopology fun s =>
        let t := if s.laneUp (k, pos) = true then s.failLane k pos reason else s.setLane { l with st := 3, failAt := some s.time, bad := 0 }
        if (List.range 68).any (fun i => decide ((t.lane k i).st ≤ 2)) then t else t.setSocket { t.socket k with st := 6 }
      let spare := (s'.socket k).st = 3 ∧ l.st = 1 ∧ s'.awaitSpare k ≤ s'.freeSpares k
      let t := if spare then s' else s'.setLane { s'.lane k pos with streams := [] }
      exec (.laneFail k pos reason) s = .next (State.repinAll (t.moveStreams k true
        (if (s'.socket k).st = 6 then s'.streamsOn (·.1 == k) else if spare then [] else s'.streamsOn (· == (k, pos))))))
    ∧ (∀ reason, s.laneUp (k, pos) = false → ¬ (free ∧ reason = 1) → exec (.laneFail k pos reason) s = .next s)
    ∧ (∀ sp, sp < 68 → x.st = 3 → l.st = 3 → 68 ≤ l.replaced → l.plane ≠ 0x1FF → (s.lane k sp).st = 0 →
      (∀ i < 68, (s.lane k i).replaced ≠ pos) →
      let t := State.laneEvent (s.withTopology fun s => s.setLane { s.lane k sp with st := 2, replaced := pos, plane := l.plane, bad := 0 }) 2 k sp pos
      let s' := t.setLane { t.lane k pos with streams := [] }
      let carried := fun (s : State) (y : Nat × Nat × Nat × Nat) =>
        let x := s.txOf y.1 y.2.1 y.2.2.1 y.2.2.2
        if (∃ z ∈ s.streamsOn (· == (k, pos)), (z.src, z.dst, z.stream, z.vc) = y) then s.carryOn k true (some (k, sp)) x
        else if x.dst = s.boot.endpoint then (s.grantLane x (k, sp)).sendResume k x
        else s
      l.pos = pos → exec (.spareLock k pos sp) s = .next (l.streams.foldl carried s').repinAll)
    ∧ (∀ t0, x.st = 3 → l.st = 3 → l.failAt = some t0 → t0 + 1000000 * nsUnits ≤ s.time →
      exec (.laneRetry k pos true) s
        = .next ((s.laneEvent 3 k pos 3).setLane { l with st := 0, replaced := 127, plane := 0x1FF, failAt := none, streams := [] })
      ∧ exec (.laneRetry k pos false) s = .next ((s.laneEvent 3 k pos 0).setLane { l with failAt := none }))
    ∧ (∀ pass : Bool, x.st = 3 → l.st = 1 ∨ l.st = 2 →
      let s' := s.laneEvent 3 k pos pass.toNat
      exec (.retrain k pos pass) s = .next (s'.moveStreams k false (s'.streamsOn (· == (k, pos)))))
    ∧ (∀ current base, x.st = 3 ∨ x.st = 4 → base = Config.laneBaseline (romBytes x.rom (48 + 32 * pos) 32) → base ≠ 0 →
      let age := min 65535 (1024 * (current - base) / base)
      let s' := s.setLane { l with age := age, warned := l.warned || decide (x.warn ≤ age) }
      exec (.ageingUpdate k pos current) s = .next (if x.warn ≤ age ∧ l.warned = false then s'.laneEvent 4 k pos age else s'))
    ∧ (∀ current, x.st = 3 ∨ x.st = 4 → Config.laneBaseline (romBytes x.rom (48 + 32 * pos) 32) = 0 → ∃ age < 65536,
      let s' := s.freeWord.2.setLane { l with age := age, warned := l.warned || decide (x.warn ≤ age) }
      exec (.ageingUpdate k pos current) s = .next (if x.warn ≤ age ∧ l.warned = false then s'.laneEvent 4 k pos age else s'))
    ∧ (∀ sp, sp < 68 → x.st = 3 → l.st = 1 ∨ l.st = 2 → x.retire ≤ l.age → (s.lane k sp).st = 0 →
      let on := s.setLane { s.lane k sp with st := 2, replaced := if l.replaced < 68 then l.replaced else l.pos, plane := l.plane, bad := 0 }
      let s' := on.setLane { l with st := 4, replaced := 127 }
      let moved := fun (x : Nat × Nat) => if x = (k, pos) then (k, sp) else x
      let tx := s'.tx.map fun (y : TxStream) => { y with
        lane := y.lane.map moved, copies := y.copies.map fun (b : Chunk) => { b with lane := b.lane.map moved } }
      let bursts := fun (bs : List Burst) => bs.map fun (b : Burst) => { b with lane := moved b.lane }
      exec (.laserRetire k pos sp) s = .next (State.laneEvent { s' with tx := tx, wire := bursts s'.wire, out := bursts s'.out } 2 k sp (pos + 256))))
  ∧ ∀ (s : State) (ep pos : Nat), ep < 128 → pos < 272 →
    let k := 16 + ep
    let l := s.lane k pos
    let up := l.st = 1 ∨ l.st = 2
    let plane := if l.st = 2 then l.replaced else l.pos
    let report := fun (pass : Nat) => s.postEvent 3 (some ep) (some plane) none none pass
    (∀ reason, up → exec (.laneFail k pos reason) s
      = .next (State.offPlane (s.withTopology fun s => s.setLane { l with st := 3, failAt := some s.time }) ep plane))
    ∧ (∀ pass : Bool, up → exec (.retrain k pos pass) s = .next ((report pass.toNat).offPlane ep plane))
    ∧ (∀ t0, l.st = 3 → l.failAt = some t0 → t0 + 1000000 * nsUnits ≤ s.time →
      exec (.laneRetry k pos true) s = .next ((report 3).setLane { l with st := 0, replaced := 511, plane := 0x1FF, failAt := none, streams := [] })
      ∧ exec (.laneRetry k pos false) s = .next ((report 0).setLane { l with failAt := none }))
    ∧ ∀ sp, pos < 256 → sp = 256 + pos / 16 → l.st = 3 → 272 ≤ l.replaced → (s.lane k sp).st = 0 → s.moduleLane ep pos = false →
      exec (.spareLock k pos sp) s = .next (s.withTopology fun s => s.setLane { s.lane k sp with st := 2, replaced := pos, plane := pos })

/-- Ticks carry the highest demand to every member, which applies it 100 µs after it left; without ticks a package holds; an
emergency brings level 15 at once; an average at the envelope, or power at the ceiling, raises the demand above the level in force (by
one, log 35); a corrected error counts in COR and has its row tested, and a row stays replaced if its self-test fails; an uncorrectable
one counts in UNC, is logged and poisons its word, and in a proof core's memory it halts that core (17 R368, R369, 18 R385 to R390). The
delay of a tick is free up to 100 ns (log 3). -/
def Obligations.CadencePowerAndRowEventsComplete : Prop :=
  ∀ s : State,
    let c := s.cadence
    (s.boot.leader = true → s.boot.st = 5 → c.nextSend ≤ s.time →
      exec .cadenceTickSend s = .next (State.sendDemand { s with cadence := { c with
        sent := c.sent + 1, nextSend := (if s.time < c.nextSend + 1000000 * nsUnits then c.nextSend else s.time) + 1000000 * nsUnits
        lastTick := s.time, lost := false
        pending := c.pending ++ [(c.sent + 1, maxL (c.demands.map (·.2)), s.time + 100000 * nsUnits)] } }))
    ∧ (∀ n level, exec (.cadenceTickReceive n level) s = .next (State.sendDemand { s.freeWord.2 with cadence := { c with
        lastTick := s.time, lost := false
        pending := c.pending ++ [(n, min 15 level, s.time + 100000 * nsUnits - s.freeWord.1.toNat % (100 * nsUnits + 1))] } }))
    ∧ (∀ x xs, c.pending = x :: xs → x.2.2 ≤ s.time →
      let keep := c.emerg = true ∧ x.2.1 < c.level
      exec .levelApply s = .next (State.setDemand (State.renewLeases { s with cadence := { c with
        pending := xs, tick := .ofNat 32 x.1, level := if keep then c.level else x.2.1, emerg := decide keep } })))
    ∧ (∀ member level, s.boot.leader = true → member ∈ s.boot.members → exec (.demandReceive member level) s
      = .next { s with cadence := { c with demands := c.demands.filter (·.1 != member) ++ [(member, min 15 level)] } })
    ∧ (s.boot.st = 5 → c.lost = false → c.lastTick + 3000000 * nsUnits ≤ s.time →
      exec .cadenceLost s = .next { s with cadence := { c with lost := true, level := max c.level c.own } })
    ∧ (s.boot.st = 5 →
      exec .thermalEmergency s = .next (State.sendDemand (State.setDemand { s with cadence := { c with emerg := true, level := 15 } })))
    ∧ (∀ m : Monitors, s.boot.st = 5 →
      let high := 3300 ≤ m.avgPower ∨ 3600 ≤ m.nowPower
      let m := { m with predicted := if high then max m.predicted (min 15 (c.level + 1)) else m.predicted }
      let s1 := { s with boot := { s.boot with mon := some m } }
      let hot := ∃ t ∈ m.dieTemp, 16 * s.boot.limits.2.2 ≤ t
      let s3 := if hot then State.sendDemand (State.setDemand { s1 with cadence := { c with emerg := true, level := 15 } }) else s1.setDemand
      exec (.powerSample m) s = .next (if s3.alarm = true ∧ s.alarm = false then s3.msix 1 else s3))
    ∧ (∀ ep, (s.module ep).manager = s.boot.endpoint →
      let rest := s.boot.throttle.filter (· != ep)
      exec (.throttleDemandReceive ep true) s = .next (State.setDemand { s with boot := { s.boot with throttle := rest ++ [ep] } })
      ∧ exec (.throttleDemandReceive ep false) s = .next (State.setDemand { s with boot := { s.boot with throttle := rest } }))
    ∧ (∀ key ts, s.agenda = .corrected key :: ts →
      let row := sramRow key
      let b := { s.boot with cor := s.boot.cor + 1 }
      let known := row ∈ b.spareRows ++ b.tests
      (known ∨ 8 ≤ s.sparesUsed row.1 row.2 → step s = .next { s with agenda := ts, boot := b })
      ∧ (¬ known → s.sparesUsed row.1 row.2 < 8 → step s = .next { s with agenda := ts, boot := { b with tests := b.tests ++ [row] } }))
    ∧ (∀ key ts, s.agenda = .uncorrectable key :: ts → ∃ t e, step s = .next t
      ∧ t.boot.unc = s.boot.unc + 1 ∧ t.boot.raslog = s.boot.raslog ++ [e] ∧ key / 8 ∈ t.poison ∧ 1 ∈ t.boot.msix
      ∧ (key < 2 ^ 32 → e = (key % 2 ^ 22, 0)) ∧ (2 ^ 32 ≤ key → key < 2 ^ 33 → e = (key % 2 ^ 18, 1))
      ∧ (2 ^ 33 ≤ key → key < 2 ^ 34 → e = (key % 2 ^ 16, 2))
      ∧ ∀ p < 96, (s.proof p).cluster = p → key / 2 ^ 16 = 2 ^ 18 + p → (t.proof p).halted = true ∧ t.boot.halt.testBit p = true)
    ∧ ∀ core row, (core, row) ∈ s.boot.tests →
      let b := { s.boot with tests := s.boot.tests.filter (· != (core, row)) }
      exec (.rowSelfTestDone core row true) s = .next { s with boot := b }
      ∧ exec (.rowSelfTestDone core row false) s
        = .next { s with boot := { b with spareRows := b.spareRows ++ [(core, row)], spares := b.spares + 1 } }

/-! ### Frames -/

/-- An instruction with an immediate scalar, vector or mask result changes its destination alone: every other byte of memory and
so every other register, the other masks and groups, and every flag that it may not raise stay as they are; s0 and m0 discard
what is written (01 R29, 06 R138, R139, 07 R163). On a proof core a scalar result changes that core's register alone, and no memory. An
engine command or another instruction that answers with a status changes the register of the status alone, until its transfer begins: a
command all of whose box lies outside its tensor, which has no unit to translate, has its words written at once (08 R197). -/
def Obligations.ImmediateResultsChangeTheirDestination : Prop :=
  (∀ s c k i t d, State.ProofIssuing s c k → exec i s = .next t → scalarDest i = some d →
    t.mem = s.mem
    ∧ (∀ r : SReg, r ≠ d ∨ d = 0 → t.sregA (.proof k) r.toNat = s.sregA (.proof k) r.toNat)
    ∧ t.proof k = { s.proof k with
      sregs := (t.proof k).sregs, pc := (t.proof k).pc, halted := (t.proof k).halted, wait := (t.proof k).wait }
    ∧ (∀ j, j ≠ k → t.proof j = s.proof j)
    ∧ t = { s with proofs := t.proofs, commits := t.commits, boot := { s.boot with halt := t.boot.halt, msix := t.boot.msix } })
  ∧ (∀ s c g i t d, s.Inv → State.GroupIssuing s c g → exec i s = .next t →
    let apart := (∀ a, d = 0 ∨ a < g.skey d.toNat ∨ g.skey d.toNat + 8 ≤ a → t.byte a = s.byte a) ∧ GroupsSame s t
      ∧ ∀ p, (t.proof p).sregs = (s.proof p).sregs
    (statusDest i = some d → apart)
    ∧ (commandDest i = some d → t.uid = s.uid ∨ t.sreg g d.toNat ≠ 0 ∨ (∃ m ∈ t.cmds, m.uid = s.uid ∧ m.units ≠ []) → apart)) ∧
  ∀ s c g i t, s.Inv → State.GroupIssuing s c g → exec i s = .next t →
    (∀ d, scalarDest i = some d →
      (∀ a, d = 0 ∨ a < g.skey d.toNat ∨ g.skey d.toNat + 8 ≤ a → t.byte a = s.byte a)
      ∧ (∀ r : SReg, r ≠ d ∨ d = 0 → t.sreg g r.toNat = s.sreg g r.toNat)
      ∧ (Group.Apart g → ∀ (v : VReg) (n : Nat), v.toNat < g.vregs → n < g.width → t.vlane g v.toNat n = s.vlane g v.toNat n)
      ∧ (∃ h, t.group? g.core g.slot = some h ∧ SameGroup g h ∧ h.masks = g.masks ∧ h.fstat = g.fstat)
      ∧ OthersSame s t g)
    ∧ (∀ gd d fl, vectorDest i = some (gd, d, fl) →
      (∀ a, (∀ n ∈ g.lanes gd, a < g.vkey d.toNat n ∨ g.vkey d.toNat n + 4 ≤ a) → t.byte a = s.byte a)
      ∧ (∀ n, n < g.width → n ∉ g.lanes gd → t.vlane g d.toNat n = s.vlane g d.toNat n)
      ∧ (∀ (v : VReg) (n : Nat), v ≠ d → n < g.width → t.vlane g v.toNat n = s.vlane g v.toNat n)
      ∧ (Group.Apart g → d.toNat < g.vregs → ∀ r : SReg, t.sreg g r.toNat = s.sreg g r.toNat)
      ∧ (∃ h, t.group? g.core g.slot = some h ∧ SameGroup g h ∧ h.masks = g.masks ∧ h.fstat = g.fstat ||| (h.fstat &&& fl))
      ∧ OthersSame s t g)
    ∧ ∀ d, maskDest i = some d →
      t.mem = s.mem
      ∧ (∃ h, t.group? g.core g.slot = some h ∧ SameGroup g h ∧ (∀ m, m ≠ d ∨ d = 0 → h.mask m = g.mask m) ∧ h.fstat = g.fstat)
      ∧ OthersSame s t g

/-- An instruction that transfers control, or whose result or access comes later, changes no byte of memory, so no register, and
no mask and no flag of any group when it issues, on a group or on a proof core (01 R31, 04 R92, 07 R170); nor does one that enters a
queue of the matrix unit or of the ligature engine, or waits for a handoff (09 R211, 10 R232, 11 R247). Other groups may wake by it: a lock
bit given up is granted to the group that waits for it (08 R189). LIGCLR clears its value file alone (10 R240), GROW zeroes the registers
it adds and SHRINK frees the end of its window (11 R257, R259), and EXIT frees what the group, and with its last group the team, holds
(07 R176). -/
def Obligations.LaterEffectsChangeNothingAtIssue : Prop :=
  (∀ s c i t, State.Issuing s c → changesLater i = true → exec i s = .next t →
    t.mem = s.mem
    ∧ (∀ k n h, s.group? k n = some h → ∃ h', t.group? k n = some h' ∧ SameGroup h h' ∧ h'.masks = h.masks ∧ h'.fstat = h.fstat)
    ∧ ∀ p, let q := t.proof p
      q = { s.proof p with pc := q.pc, halted := q.halted, wait := q.wait, notBefore := q.notBefore, queue := q.queue, orphovf := q.orphovf })
  ∧ (∀ s c g i t, State.GroupIssuing s c g → queuesAtIssue i = true → exec i s = .next t →
    t.mem = s.mem ∧ GroupsSame s t ∧ ∀ p, (t.proof p).sregs = (s.proof p).sregs)
  ∧ (∀ s c g t, State.GroupIssuing s c g → exec .ligclr s = .next t →
    (∀ a, a < valueKey g.core 0 ∨ valueKey g.core 16384 ≤ a → t.byte a = s.byte a) ∧ GroupsSame s t)
  ∧ (∀ s c g t, s.Inv → State.GroupIssuing s c g →
    (∀ d m, exec (.grow d m) s = .next t →
      ∀ a, (d = 0 ∨ a < g.skey d.toNat ∨ g.skey d.toNat + 8 ≤ a) →
        (a < g.vkey g.vregs 0 ∨ g.vkey g.vregs 0 + (m.toNat + 1 - g.vregs) * 4 * g.width ≤ a) → t.byte a = s.byte a)
    ∧ (∀ m, exec (.shrink m) s = .next t →
      let b := windowBytes (m.toNat + 1) g.width
      ∀ a, (a < storeKey g.core (g.win + b) ∨ storeKey g.core (g.win + b) + (windowBytes g.vregs g.width - b) ≤ a) → t.byte a = s.byte a)
    ∧ (exec .exit s = .next t →
      ∀ a, (a < storeKey g.core g.win ∨ storeKey g.core g.win + windowBytes g.vregs g.width ≤ a) →
        (a < storeKey g.core g.sblk ∨ storeKey g.core g.sblk + 1024 ≤ a) → (∀ tm ∈ s.teams, tm.uid = g.team → OutsidePlaces tm a) →
        t.byte a = s.byte a))

/-- Performing the local accesses of one number changes the bytes that they write and no others, but for what an exited team holds,
which it may free (07 R176); a debug access changes the bytes of its offsets (14 R294); committing a result changes the bytes of its registers and no others (01 R31, 04 R92). What a group's commit
writes is its bytes: the registers that a commit lists apart are a proof core's. -/
def Obligations.AccessesAndCommitsChangeTheirBytes : Prop :=
  ∀ (s t : State) (uid : Nat), s.Inv →
    (exec (.localAccessPerform uid) s = .next t → (∀ l ∈ s.locals, l.uid = uid → isDebug l = false) →
      ∀ a, (∀ tm ∈ s.teams, tm.exited = true → OutsidePlaces tm a) →
        (∀ l ∈ s.locals, l.uid = uid → ∀ k n, writtenBytes l = some (k, n) → a < k ∨ k + n ≤ a) → t.byte a = s.byte a)
    ∧ (∀ l core slot o w reg, s.locals.filter (·.uid == uid) = [l] → l.op = .debug core slot o w reg →
      exec (.localAccessPerform uid) s = .next t →
      ∀ a, (∀ tm ∈ s.teams, tm.exited = true → OutsidePlaces tm a) →
        (∀ g bs, s.group? core slot = some g → w = some bs → ∀ i < bs.length, s.debugKey g (o + i) = some a → 0x10000 ≤ o + i ∧ o + i < 0x10008) →
        t.byte a = s.byte a)
    ∧ (exec (.lookaheadCommit uid) s = .next t →
      ∀ a, (∀ m ∈ s.commits, m.uid = uid → ∀ x ∈ m.cells, x.1 ≠ a) → t.byte a = s.byte a)

/-! ### The machine as a whole -/

/-- The fields that the spec resets have their reset values right after package reset, and a group starts with %fstat, %dsel and
m0 as 02 R46, 07 R179 and 01 R29 say (00 R6, 14 R291, 15 R310, 16 R339, 17 R366, 18 R372, R376). That m1 to m15
and the rejoin registers of a group that placement makes start as R254 has them for a successor's is the model's choice (log 35); that the
proof cores run at state 5 only is so too (log 7), and that the blocks of all eight partitions answer before the configuration image makes
any (log 35). -/
def Obligations.ResetLeavesTheResetValues : Prop :=
  (∀ o ∈ [0x20, 0x28, 0x30, 0x38, 0x40, 0x100, 0x108, 0x110, 0x118, 0x120, 0x128, 0x130, 0x138, 0x200, 0x208, 0x300, 0x308, 0x310, 0x318, 0x320, 0x700, 0x708],
    State.reset.barRead o = 0)
  ∧ State.reset.barRead 0x48 = 1 ∧ State.reset.barRead 0 = 0x3F
  ∧ (∀ i < 4096, State.reset.barRead (0x10000 + 8 * i) = 0)
  ∧ (∀ k < 16,
    (∀ o ∈ [0x00, 0x10, 0x20, 0x28], State.reset.barRead (0x200000 + 0x100 * k + o) = 0)
    ∧ State.reset.barRead (0x200000 + 0x100 * k + 0x18) = .ofNat 64 (205 + 307 * 2 ^ 16))
  ∧ (∀ o ∈ [0x1000, 0x1008, 0x1010, 0x1018], State.reset.barRead (0x200000 + o) = 0)
  ∧ (∀ i < 512, State.reset.barRead (0x202000 + 8 * i) = 0)
  ∧ (∀ p < 8,
    (∀ o ∈ [0, 8, 0x18, 0x800, 0x820, 0x828, 0x830, 0x838, 0x840], State.reset.barRead (0x100000 + 0x10000 * p + o) = 0)
    ∧ (∀ o ∈ [0x808, 0x810], State.reset.barRead (0x100000 + 0x10000 * p + o) = .allOnes 64)
    ∧ State.reset.barRead (0x100000 + 0x10000 * p + 0x10) = .ofNat 64 (0x1000000 + 0x20000 * p)
    ∧ ∀ i < 1024, State.reset.barRead (0x100000 + 0x10000 * p + 0x1000 + 8 * i) = 0)
  ∧ (∀ p, p < 8 → ∀ dies hw, let q := Partition.init p dies hw
      q.qtbase = 0 ∧ q.qtcount = 0 ∧ q.xroot = 0 ∧ q.reach0 = .allOnes 64 ∧ q.reach1 = .allOnes 64 ∧ q.busy = false ∧ q.lost = false
      ∧ q.fbput = 0 ∧ q.fbget = 0 ∧ q.fbovf = 0 ∧ q.fbctl = 0 ∧ q.fb = [])
  ∧ (∀ k, let p := State.reset.proof k
      (∀ r ∈ [Csr.treca, .trecb, .trecc, .trecd, .tqcount, .orphovf, .dbgstat, .feva, .fevb, .fevcount, .fevovf], State.reset.csr p r = 0)
      ∧ State.reset.csr p .predl = 100 ∧ p.halted = false)
  ∧ (∀ (s : State) (c : Nat),
    (s.boot.st ≠ 5 → s.fetchOf (.proof c) = none ∧ ∀ ts as, s.agenda = .issue (.proof c) :: ts → s.plan = some as → .proof c ∈ as →
      step s = .next { s with agenda := ts, plan := some (as.filter (· != .proof c)) })
    ∧ (s.boot.st = 5 → (s.proof c).halted = false → (s.proof c).wait = none → (s.proof c).notBefore ≤ s.cycle →
      (∀ m ∈ s.commits, m.agent = .proof c → m.left ≠ 0) →
      s.fetchOf (.proof c) = some ((s.proof c).pc, none, s.fetchPc (.proof c) (s.proof c).pc.toNat false false)))
  ∧ ∀ core slot team index placed cycle k win sblk b,
      let g := Group.new core slot team index placed cycle k win sblk b
      g.fstat = 0 ∧ g.dsel = 0 ∧ (∀ j : Fin 8, g.rejoins[j].valid = false) ∧ g.parked = 0
      ∧ (∀ m, m ≠ 0 → g.mask m = 0) ∧ g.mask 0 = lanesMask k.width

/-- A step whose turn is an agent's, one of those chosen for the cycle that has not issued in it yet, fetches the line at its program
counter, runs the checks of 05 R133, and then is `exec` of the decoded instruction, before which the issue is noted (01 R28) and after which
the turn is settled; with no turn given, the agents chosen issue one by one; an agent that is not among them does not issue; of those that take
lock bits the lower core and slot goes first (08 R191), and a group whose read waits for its own writes is not chosen (01 R34); a step whose
turn is an event is `exec` of that event. Each check that fails takes its trap: LINEPARITY, ILLOP, BADTARGET, PRIV, a register that the
group does not have, an uncorrectable source (R118 to R121, R127, 07 R171, 14 R284, 18 R390); R133 does not place the check of an entry, nor
say how whole an instruction that runs beyond its line is (log 33). A group keeps the line that it is in (log 13). Which agents issue is
settled before the first of them does: ready members of one bundle of a core, at one program counter, that have an instruction to issue. -/
def Obligations.StepRunsTheDecodedInstruction : Prop :=
  (∀ s a ts as,
    let given := s.agenda = .issue a :: ts ∧ ∃ bs, s.plan = some bs ∧ a ∈ bs ∧ as = bs.filter (· != a)
      ∧ (State.takesBits { s with agenda := ts } a = true → bs.find? (State.takesBits { s with agenda := ts }) = some a)
    given ∨ (s.agenda = [] ∧ ts = [] ∧ s.plan = some (a :: as)) →
    let s0 := { s with agenda := ts, plan := some as }
    (s0.fetchOf a = none → step s = .next s0)
    ∧ ∀ pc last ans, s0.fetchOf a = some (pc, last, ans) →
      let here : Cur := { agent := a, pc := pc, next := pc, tail := none, last := last }
      let noted := fun (c : Cur) => { s0.noteIssue a with cur := some c }
      let goes := fun (o : Out) => step s = issued a (s0.bundleOf a) o
      (ans = .busy → step s = .next (s0.retryAt here 0))
      ∧ (∀ n, ans = .trap n → goes (.next ((noted here).trap here n)))
      ∧ (∀ r l e, ans = .fault r l e → goes (.next ((noted here).codeFault here (lineOf pc.toNat) r l e)))
      ∧ ∀ ws next tail, ans = .instr ws next tail →
        let c : Cur := { here with next := next, tail := tail }
        let s1 := noted c
        let priv := (∃ k n, a = .group k n) ∧ 0xF4 ≤ (ws.headD 0).toNat / 4 % 256 ∧ (ws.headD 0).toNat / 4 % 256 ≤ 0xFB
        (∀ e, decode ws = .error e → (e = .field ∧ priv → goes (.next (s1.trap c 0x04)))
          ∧ (¬ (e = .field ∧ priv) → goes (.next (s1.trap c 0x01))))
        ∧ ∀ i, decode ws = .ok i →
          (priv → goes (.next (s1.trap c 0x04)))
          ∧ (¬ priv → s1.operandTrap c i = none → goes (exec i s1))
          ∧ (¬ priv → ∀ t, s1.operandTrap c i = some t → goes (.next t)))
  ∧ (∀ s a ts as, s.agenda = .issue a :: ts → s.plan = some as → a ∉ as → step s = .next { s with agenda := ts })
  ∧ (∀ s a b ts as, s.agenda = .issue a :: ts → s.plan = some as → a ∈ as → State.takesBits { s with agenda := ts } a = true →
    as.find? (State.takesBits { s with agenda := ts }) = some b → step s = step { s with agenda := .issue b :: ts })
  ∧ (∀ (s : State) (a : Agent), s.takesBits a = true ↔ ∃ pc last ws next tail i, s.fetchOf a = some (pc, last, .instr ws next tail) ∧ decode ws = .ok i
    ∧ match i with
      | .ll .. | .vatom .. | .satom .. => True
      | _ => False)
  ∧ (∀ s : State, s.plan = none →
    let wait := fun (g : Group) => match s.ownWait g with
      | some w => { g with run := .waiting w }
      | none => g
    let t := State.endYields { s with groups := s.groups.map fun (g : Group) => if s.isReady g then wait g else g }
    s.planned = (dedup ((groupsOf t.choose).map (·.1))).foldl State.countIssue { t with plan := some t.choose })
  ∧ (∀ (s : State) (g : Group) (w : Wait), s.ownWait g = some w ↔ ∃ t h key n, s.issue (.group g.core g.slot) = .next t
    ∧ t.group? g.core g.slot = some h ∧ h.run = .waiting (.ownWrites key n) ∧ w = .ownWrites key n)
  ∧ (∀ (s : State) (c : Cur) (i : Instr),
    (∀ p, c.agent = .proof p → s.operandTrap c i = none)
    ∧ ∀ k n g, c.agent = .group k n → s.group? k n = some g →
      let ok := ∀ o ∈ Instr.opds i, has g (((s.team? g.team).map (·.krec.galley)).getD 0) o
      let lost := ∃ o ∈ Instr.opds i, ∃ b, readBytes g o = some b ∧ s.poisoned b.1 b.2 = true
      (¬ ok → s.operandTrap c i = some (s.trap c 0x01))
      ∧ (ok → ¬ lost → s.operandTrap c i = none)
      ∧ (ok → lost → ∃ o ∈ Instr.opds i, ∃ b, readBytes g o = some b ∧ ∃ w ∈ s.poison, 8 * w < b.1 + b.2 ∧ b.1 < 8 * w + 8
        ∧ s.operandTrap c i = some (s.trapAt c c.pc 0x0E 0 (.ofNat 64 (keyOff (8 * w / 16 * 16))) 0)))
  ∧ (∀ ws : List Nat,
    let w := ws.getD 0 0
    let group := fun (p : Nat) => if p = 7 then popCount 32 (ws.getD 15 0) + popCount 24 (w % 2 ^ 24)
      else popCount 32 (ws.getD (2 * p + 1) 0) + popCount 32 (ws.getD (2 * p + 2) 0)
    let odd := ∃ p < 8, (group p + w / 2 ^ (24 + p) % 2) % 2 = 1
    let whole := (instrStarts ws 15 0).filter fun k => decide (k + sylLen (ws.getD (k + 1) 0) ≤ 15)
    let malformed := w / 2 ^ 20 % 16 ≠ 0 ∨ 7 < w / 2 ^ 15 % 32 ∨ whole.length < 2 * (w / 2 ^ 15 % 32)
    (odd → lineCause ws = 0x03) ∧ (¬ odd → malformed → lineCause ws = 0x01) ∧ (¬ odd → ¬ malformed → lineCause ws = 0))
  ∧ (∀ (s : State) (a : Agent) (pc : Nat) (entry written : Bool), (written = true → targetForm pc = true) →
    let answer := s.fetchPc a pc entry written
    (s.lineFor a pc = .none → answer = .trap 0x01) ∧ (s.lineFor a pc = .busy → answer = .busy)
    ∧ (∀ r l e, s.lineFor a pc = .bad r l e → answer = .fault r l e)
    ∧ ∀ line, s.lineFor a pc = .line line →
      let k := sylOf pc
      let len := sylLen (line.getD (k + 1) 0)
      let target := line.getD 0 0 / 2 ^ k % 2 = 1
      (lineCause line ≠ 0 → answer = .trap (lineCause line))
      ∧ (lineCause line = 0 → (entry = true ∨ written = true) → ¬ target → answer = .trap 0x02)
      ∧ (lineCause line = 0 → (entry = true ∨ written = true → target) →
        (k ∉ instrStarts line 15 0 ∨ len = 0 ∨ 15 < k + len → answer = .trap 0x01)
        ∧ (k ∈ instrStarts line 15 0 → 0 < len → k + len ≤ 15 →
          answer = .instr (((line.drop (k + 1)).take len).map (.ofNat 32)) (afterSyl line (lineOf pc) (k + len)).1
            (afterSyl line (lineOf pc) (k + len)).2)))
  ∧ (∀ (s : State) (a : Agent) (pc : Nat) (entry : Bool), targetForm pc = false → s.fetchPc a pc entry true = .trap 0x02)
  ∧ (∀ (s : State) (a : Agent) (pc : Nat),
    (∀ p, a = .proof p → s.lineFor a pc = s.readLine a (lineOf pc)
      ∧ (lineOf pc + 64 ≤ 65536 → s.poisoned (proofKey p (lineOf pc)) 64 = false →
        s.readLine a (lineOf pc) = .line ((List.range 16).map fun i => s.le (proofKey p (lineOf pc) + 4 * i) 4))
      ∧ (65536 < lineOf pc + 64 ∨ s.poisoned (proofKey p (lineOf pc)) 64 = true → s.readLine a (lineOf pc) = .none))
    ∧ ∀ k n g, a = .group k n → s.group? k n = some g →
      (∀ l p ws, g.line = some (l, p, ws) → l = lineOf pc → p ≤ pc → s.lineFor a pc = .line ws)
      ∧ (g.line = none → s.lineFor a pc = s.readLine a (lineOf pc))
      ∧ (∀ l p ws, g.line = some (l, p, ws) → (l ≠ lineOf pc ∨ pc < p) → s.lineFor a pc = s.readLine a (lineOf pc))
      ∧ ∀ q x, s.part? (s.partOf k) = some q → s.farKey q (k / 4) false (lineOf pc) = .key x →
        s.readLine a (lineOf pc) = .line ((List.range 16).map fun i => s.le (x + 4 * i) 4))
  ∧ (∀ s : State,
    (s.agenda = [] → s.plan = none → step s = .next s.planned)
    ∧ ∀ core,
      let may := fun (g : Group) => g ∈ s.groups ∧ g.core = core ∧ g.run = .ready ∧ s.isReady g = true ∧ s.stuck g = false
      (∀ a ∈ s.coreIssues core, ∃ g, may g ∧ a = .group g.core g.slot)
      ∧ (∀ a ∈ s.coreIssues core, ∀ b ∈ s.coreIssues core, ∃ g h, may g ∧ may h ∧ a = .group g.core g.slot ∧ b = .group h.core h.slot
        ∧ g.bundle = h.bundle ∧ g.pc = h.pc)
      ∧ ∀ g, may g → g.bundle < 33 → s.coreIssues core ≠ [])
  ∧ (∀ (s : State) (k n b : Nat) (g : Group), s.group? k n = some g →
    (s.noteIssue (.group k n)).group? k n = some { g with
      lastIssue := some s.cycle, notBefore := s.cycle + 1, yielded := none, held := false, line := s.latch (.group k n) g.pc.toNat }
    ∧ (g.lastIssue ≠ some s.cycle → s.noteIssued (.group k n) b = s)
    ∧ (g.lastIssue = some s.cycle → ∀ core m h, s.group? core m = some h →
      (s.noteIssued (.group k n) b).group? core m = some (if core = k then { h with
        yielded := h.yielded.map fun (y : Nat × List Nat) => (y.1, y.2.filter (· != n))
        readySince := if h.bundle = b then s.issueCount k else h.readySince
        waitSince := if m = n then s.issueCount k else h.waitSince } else h)))
  ∧ ∀ s i ts, s.agenda = .event i :: ts → i.isEvent = true → step s = settleOut (exec i { s with agenda := ts })

/-- Words written out from the encodings of the spec's worked examples and of 05 R122 to R131 decode to their instructions. -/
def Obligations.WordsDecodeAsTheSpecEncodesThem : Prop :=
  decode [0x00000000] = .ok .nop
  ∧ decode [0x00000030] = .ok .exit
  ∧ decode [0x0010008A, 0x00000606, 0x00000010] = .ok (.saddLiteral .i64 6 6 16)
  ∧ decode [0x000C00D2, 0x00000403, 0x00000C08] = .ok (.sbfx .i32 3 4 8 12)
  ∧ decode [0x0024018D, 0x0B0A0908] = .ok (.vfma 0 .f32 .rn 8 9 10 11)
  ∧ decode [0x30240A4D, 0x02000503] = .ok (.vred 0 2 .fadd (.flt .f32) 3 5 2)
  ∧ decode [0xA8000281, 0x20060402] = .ok (.vldLong 0 0 (.offset 6) .h true 2 4 0x20)
  ∧ decode [0x0800000E, 0x00000100, 0x00000013] = .ok (.brm .all 1 ⟨1, 3⟩)
  ∧ decode [0x08000385, 0x05010002] = .ok (.mma true .ss 2 0 1 5)
  ∧ decode [0x78000345, 0x0C0B0A09] = .ok (.tmcast 0xF 9 10 11 12)
  ∧ decode [0x000003E9, 0x01000003] = .ok (.tqnextRead 3)
  ∧ decode [0x000003CD, 0x41000500] = .ok (.wrsr .ddata 5)
  ∧ decode [0x00000401] = .error .beyond

/-- Decoding what the encoder writes for a well-formed instruction gives it back, whatever follows (05 R121 to R133). -/
def Obligations.DecodeInvertsEncode : Prop :=
  ∀ (i : Instr) (rest : List Word), i.wf = true → i.isEvent = false → decode (encode i ++ rest) = .ok i

/-- Every list of syllables that decodes is the encoding of a well-formed instruction: no bit of it is ignored, and no reserved
bit may be one (05 R125, R128, R133). -/
def Obligations.DecodedWordsAreEncodings : Prop :=
  ∀ (ws : List Word) (i : Instr), decode ws = .ok i →
    i.wf = true ∧ i.isEvent = false ∧ encode i = ws.take (sylLen (ws.headD 0).toNat)

/-- The state after reset satisfies the invariant: its memory is in the canonical form, which is how the model holds memory (log 4). -/
def Obligations.ResetSatisfiesTheInvariant : Prop := State.Inv .reset

/-- Every step keeps memory in its canonical form (log 4, the model's choice of how memory is held), whatever runs and whatever happens. -/
def Obligations.EveryStepKeepsTheInvariant : Prop := ∀ s t, State.Inv s → step s = .next t → State.Inv t
end

