-- ==== Sys2Proof/Laws/Memory.lean ====
section
/-! SUPPORT. Laws of memory: reads after writes, and that every operation keeps the canonical form. -/

namespace Sys2Proof.Machine

theorem memAbove_le {lo hi : Nat} {m : List Host.Cell} (h : memAbove hi m = true) (hl : lo ≤ hi) : memAbove lo m = true := by
  cases m with
  | nil => rfl
  | cons c m =>
    simp only [memAbove, Bool.and_eq_true, decide_eq_true_eq] at h ⊢
    exact ⟨⟨by omega, h.1.2⟩, h.2⟩

theorem memGet_below {lo a : Nat} {m : List Host.Cell} (h : memAbove lo m = true) (ha : a < lo) : memGet m a = 0 := by
  induction m generalizing lo with
  | nil => rfl
  | cons c m ih =>
    simp only [memAbove, Bool.and_eq_true, decide_eq_true_eq] at h
    simp only [memGet]
    rw [if_neg (by omega)]
    exact ih h.2 (by omega)

theorem memSet_above {lo a : Nat} {b : Byte} {m : List Host.Cell} (h : memAbove lo m = true) (ha : lo ≤ a) :
    memAbove lo (memSet m a b) = true := by
  induction m generalizing lo with
  | nil => unfold memSet; split <;> simp_all [memAbove]
  | cons c m ih =>
    have h' := h
    simp only [memAbove, Bool.and_eq_true, decide_eq_true_eq] at h
    unfold memSet
    split
    · split
      · exact h'
      · simp_all only [memAbove, Bool.and_eq_true, decide_eq_true_eq, bne_iff_ne, ne_eq, not_false_eq_true, and_true, true_and]
        omega
    · split
      · split
        · exact memAbove_le h.2 (by omega)
        · simp_all [memAbove]
      · simp only [memAbove, Bool.and_eq_true, decide_eq_true_eq]
        exact ⟨h.1, ih h.2 (by omega)⟩

theorem memGet_memSet {lo a x : Nat} {b : Byte} {m : List Host.Cell} (h : memAbove lo m = true) :
    memGet (memSet m a b) x = if x = a then b else memGet m x := by
  induction m generalizing lo with
  | nil =>
    unfold memSet
    split
    · rename_i hb; simp [memGet, hb]
    · simp [memGet, @eq_comm _ a x]
  | cons c m ih =>
    simp only [memAbove, Bool.and_eq_true, decide_eq_true_eq] at h
    unfold memSet
    split
    · have hz : memGet (c :: m) a = 0 := by
        simp only [memGet]
        rw [if_neg (by omega)]
        exact memGet_below h.2 (by omega)
      split
      · split
        · simp_all
        · rfl
      · by_cases hx : x = a
        · simp [memGet, hx]
        · rw [if_neg hx, memGet, if_neg (fun e => hx e.symm)]
    · split
      · rename_i ha
        have hz : memGet m a = 0 := memGet_below h.2 (by omega)
        subst ha
        by_cases hx : x = c.1
        · subst hx; split <;> simp_all [memGet]
        · have hc : ¬ c.1 = x := fun e => hx e.symm
          rw [if_neg hx]; split <;> simp_all [memGet]
      · simp only [memGet, ih h.2]
        split
        · rw [if_neg (by omega)]
        · rfl

/-- A byte write keeps the canonical form. -/
theorem memSet_wf {a : Nat} {b : Byte} {m : List Host.Cell} (h : Memory.wf m = true) : Memory.wf (memSet m a b) = true :=
  memSet_above h (Nat.zero_le a)

/-- Writes of several bytes keep the canonical form. -/
theorem memSetAll_wf {cs m : List Host.Cell} (h : Memory.wf m = true) : Memory.wf (memSetAll m cs) = true := by
  unfold memSetAll
  induction cs generalizing m with
  | nil => exact h
  | cons c cs ih => exact ih (memSet_wf h)

/-- Dropping entries keeps the canonical form. -/
theorem filter_above {lo : Nat} {p : Host.Cell → Bool} {m : List Host.Cell} (h : memAbove lo m = true) :
    memAbove lo (m.filter p) = true := by
  induction m generalizing lo with
  | nil => rfl
  | cons c m ih =>
    simp only [memAbove, Bool.and_eq_true, decide_eq_true_eq] at h
    rw [List.filter_cons]
    split
    · simp only [memAbove, Bool.and_eq_true, decide_eq_true_eq]
      exact ⟨h.1, ih h.2⟩
    · exact memAbove_le (ih h.2) (by omega)

theorem filter_wf {p : Host.Cell → Bool} {m : List Host.Cell} (h : Memory.wf m = true) : Memory.wf (m.filter p) = true :=
  filter_above h

/-- A byte that no cell names reads as before. -/
theorem memGet_memSetAll {cs m : List Host.Cell} {x : Nat} (h : Memory.wf m = true) (hx : ∀ c ∈ cs, c.1 ≠ x) :
    memGet (memSetAll m cs) x = memGet m x := by
  unfold memSetAll
  induction cs generalizing m with
  | nil => rfl
  | cons c cs ih =>
    rw [List.foldl_cons, ih (memSet_wf h) fun d hd => hx d (List.mem_cons_of_mem _ hd), memGet_memSet h,
      if_neg fun e => hx c List.mem_cons_self e.symm]

/-- A byte reads as the last cell that names it. -/
theorem memGet_memSetAll_append {cs ds m : List Host.Cell} {x : Nat} {b : Byte} (h : Memory.wf m = true)
    (hx : ∀ c ∈ ds, c.1 ≠ x) : memGet (memSetAll m (cs ++ (x, b) :: ds)) x = b := by
  have : memSetAll m (cs ++ (x, b) :: ds) = memSetAll (memSet (memSetAll m cs) x b) ds := by
    simp [memSetAll, List.foldl_append]
  rw [this, memGet_memSetAll (memSet_wf (memSetAll_wf h)) hx, memGet_memSet (memSetAll_wf h), if_pos rfl]

/-! ### Writes of the state -/

/-- A write keeps the invariant. -/
theorem write_inv {s : State} {cs : List Host.Cell} (h : s.Inv) : (s.write cs).Inv := memSetAll_wf h

/-- Zeroing keeps the invariant. -/
theorem zero_inv {s : State} {a n : Nat} (h : s.Inv) : (s.zero a n).Inv := filter_wf h

/-- A byte that a write does not name reads as before. -/
theorem byte_write {s : State} {cs : List Host.Cell} {a : Nat} (h : s.Inv) (ha : ∀ c ∈ cs, c.1 ≠ a) :
    (s.write cs).byte a = s.byte a := memGet_memSetAll h ha

theorem mem_cellsAt {bs : List Byte} {a : Nat} {c : Host.Cell} (h : c ∈ cellsAt a bs) : a ≤ c.1 ∧ c.1 < a + bs.length := by
  induction bs generalizing a with
  | nil => simp [cellsAt] at h
  | cons b bs ih =>
    simp only [cellsAt, List.mem_cons] at h
    rcases h with rfl | h
    · simp
    · have := ih h
      simp only [List.length_cons]
      omega

theorem leBytes_length {n x : Nat} : (leBytes n x).length = n := by
  induction n generalizing x with
  | zero => rfl
  | succ n ih => simp [leBytes, ih]

/-- The cells of a value lie in its bytes. -/
theorem mem_cellsLE {a n x : Nat} {c : Host.Cell} (h : c ∈ cellsLE a n x) : a ≤ c.1 ∧ c.1 < a + n := by
  simpa [cellsLE, leBytes_length] using mem_cellsAt h

theorem leNat_leBytes {n x : Nat} : leNat (leBytes n x) = x % 2 ^ (8 * n) := by
  induction n generalizing x with
  | zero => simp [leBytes, leNat, Nat.mod_one]
  | succ n ih =>
    have e : 2 ^ (8 * (n + 1)) = 256 * 2 ^ (8 * n) := by
      rw [show 8 * (n + 1) = 8 * n + 8 by omega, Nat.pow_add]; omega
    simp only [leBytes, leNat, ih, BitVec.toNat_ofNat, e, Nat.mod_mul]

/-- Bytes outside a write read as before. -/
theorem bytes_write {s : State} {cs : List Host.Cell} {a n : Nat} (h : s.Inv) (ha : ∀ c ∈ cs, c.1 < a ∨ a + n ≤ c.1) :
    (s.write cs).bytes a n = s.bytes a n := by
  induction n generalizing a with
  | zero => rfl
  | succ n ih =>
    simp only [State.bytes]
    rw [byte_write h fun c hc => by have := ha c hc; omega, ih fun c hc => by have := ha c hc; omega]

theorem bytes_memSetAll {m : List Host.Cell} (s : State) (h : Memory.wf m = true) {bs : List Byte} {a : Nat} :
    State.bytes { s with mem := memSetAll m (cellsAt a bs) } a bs.length = bs := by
  induction bs generalizing a m with
  | nil => rfl
  | cons b bs ih =>
    have e : memSetAll m (cellsAt a (b :: bs)) = memSetAll (memSet m a b) (cellsAt (a + 1) bs) := rfl
    simp only [List.length_cons, State.bytes, e, ih (memSet_wf h)]
    congr 1
    unfold State.byte
    rw [memGet_memSetAll (memSet_wf h) fun c hc => by have := mem_cellsAt hc; omega, memGet_memSet h, if_pos rfl]

theorem bytes_mem (s t : State) (h : s.mem = t.mem) (a n : Nat) : s.bytes a n = t.bytes a n := by
  induction n generalizing a with
  | zero => rfl
  | succ n ih => simp [State.bytes, State.byte, h, ih]

/-- A value just written reads back, modulo its bytes. -/
theorem le_write {s : State} {a n x : Nat} (h : s.Inv) : (s.write (cellsLE a n x)).le a n = x % 2 ^ (8 * n) := by
  have := bytes_memSetAll s h (bs := leBytes n x) (a := a)
  rw [leBytes_length] at this
  unfold State.le
  rw [← leNat_leBytes]
  refine congrArg leNat (Eq.trans (bytes_mem _ _ ?_ a n) this)
  rfl

/-- A value outside a write reads as before. -/
theorem le_write_outside {s : State} {cs : List Host.Cell} {a n : Nat} (h : s.Inv)
    (ha : ∀ c ∈ cs, c.1 < a ∨ a + n ≤ c.1) : (s.write cs).le a n = s.le a n := by
  unfold State.le; rw [bytes_write h ha]

end Sys2Proof.Machine
end

