-- ==== Sys2Proof/Laws/State.lean ====
section
/-! SUPPORT. Laws of the state: what each update leaves alone, field by field, and what it puts where. -/

namespace Sys2Proof.Machine

/-! ### write -/

@[simp] theorem write_cycle (s : State) (cs : List Host.Cell) : (s.write cs).cycle = s.cycle := rfl
@[simp] theorem write_time (s : State) (cs : List Host.Cell) : (s.write cs).time = s.time := rfl
@[simp] theorem write_issues (s : State) (cs : List Host.Cell) : (s.write cs).issues = s.issues := rfl
@[simp] theorem write_agenda (s : State) (cs : List Host.Cell) : (s.write cs).agenda = s.agenda := rfl
@[simp] theorem write_plan (s : State) (cs : List Host.Cell) : (s.write cs).plan = s.plan := rfl
@[simp] theorem write_cur (s : State) (cs : List Host.Cell) : (s.write cs).cur = s.cur := rfl
@[simp] theorem write_uid (s : State) (cs : List Host.Cell) : (s.write cs).uid = s.uid := rfl
@[simp] theorem write_fresh (s : State) (cs : List Host.Cell) : (s.write cs).fresh = s.fresh := rfl
@[simp] theorem write_groups (s : State) (cs : List Host.Cell) : (s.write cs).groups = s.groups := rfl
@[simp] theorem write_teams (s : State) (cs : List Host.Cell) : (s.write cs).teams = s.teams := rfl
@[simp] theorem write_launches (s : State) (cs : List Host.Cell) : (s.write cs).launches = s.launches := rfl
@[simp] theorem write_commits (s : State) (cs : List Host.Cell) : (s.write cs).commits = s.commits := rfl
@[simp] theorem write_locals (s : State) (cs : List Host.Cell) : (s.write cs).locals = s.locals := rfl
@[simp] theorem write_locks (s : State) (cs : List Host.Cell) : (s.write cs).locks = s.locks := rfl
@[simp] theorem write_lockReqs (s : State) (cs : List Host.Cell) : (s.write cs).lockReqs = s.lockReqs := rfl
@[simp] theorem write_chases (s : State) (cs : List Host.Cell) : (s.write cs).chases = s.chases := rfl
@[simp] theorem write_mats (s : State) (cs : List Host.Cell) : (s.write cs).mats = s.mats := rfl
@[simp] theorem write_arrayFree (s : State) (cs : List Host.Cell) : (s.write cs).arrayFree = s.arrayFree := rfl
@[simp] theorem write_ligs (s : State) (cs : List Host.Cell) : (s.write cs).ligs = s.ligs := rfl
@[simp] theorem write_ligOps (s : State) (cs : List Host.Cell) : (s.write cs).ligOps = s.ligOps := rfl
@[simp] theorem write_cmds (s : State) (cs : List Host.Cell) : (s.write cs).cmds = s.cmds := rfl
@[simp] theorem write_reqs (s : State) (cs : List Host.Cell) : (s.write cs).reqs = s.reqs := rfl
@[simp] theorem write_hints (s : State) (cs : List Host.Cell) : (s.write cs).hints = s.hints := rfl
@[simp] theorem write_cached (s : State) (cs : List Host.Cell) : (s.write cs).cached = s.cached := rfl
@[simp] theorem write_tready (s : State) (cs : List Host.Cell) : (s.write cs).tready = s.tready := rfl
@[simp] theorem write_tpending (s : State) (cs : List Host.Cell) : (s.write cs).tpending = s.tpending := rfl
@[simp] theorem write_ttransit (s : State) (cs : List Host.Cell) : (s.write cs).ttransit = s.ttransit := rfl
@[simp] theorem write_treqs (s : State) (cs : List Host.Cell) : (s.write cs).treqs = s.treqs := rfl
@[simp] theorem write_proofs (s : State) (cs : List Host.Cell) : (s.write cs).proofs = s.proofs := rfl
@[simp] theorem write_parts (s : State) (cs : List Host.Cell) : (s.write cs).parts = s.parts := rfl
@[simp] theorem write_hws (s : State) (cs : List Host.Cell) : (s.write cs).hws = s.hws := rfl
@[simp] theorem write_pendq (s : State) (cs : List Host.Cell) : (s.write cs).pendq = s.pendq := rfl
@[simp] theorem write_preempts (s : State) (cs : List Host.Cell) : (s.write cs).preempts = s.preempts := rfl
@[simp] theorem write_saved (s : State) (cs : List Host.Cell) : (s.write cs).saved = s.saved := rfl
@[simp] theorem write_modules (s : State) (cs : List Host.Cell) : (s.write cs).modules = s.modules := rfl
@[simp] theorem write_tx (s : State) (cs : List Host.Cell) : (s.write cs).tx = s.tx := rfl
@[simp] theorem write_rx (s : State) (cs : List Host.Cell) : (s.write cs).rx = s.rx := rfl
@[simp] theorem write_wire (s : State) (cs : List Host.Cell) : (s.write cs).wire = s.wire := rfl
@[simp] theorem write_grants (s : State) (cs : List Host.Cell) : (s.write cs).grants = s.grants := rfl
@[simp] theorem write_given (s : State) (cs : List Host.Cell) : (s.write cs).given = s.given := rfl
@[simp] theorem write_grantWait (s : State) (cs : List Host.Cell) : (s.write cs).grantWait = s.grantWait := rfl
@[simp] theorem write_sockets (s : State) (cs : List Host.Cell) : (s.write cs).sockets = s.sockets := rfl
@[simp] theorem write_lanes (s : State) (cs : List Host.Cell) : (s.write cs).lanes = s.lanes := rfl
@[simp] theorem write_fevput (s : State) (cs : List Host.Cell) : (s.write cs).fevput = s.fevput := rfl
@[simp] theorem write_fevget (s : State) (cs : List Host.Cell) : (s.write cs).fevget = s.fevget := rfl
@[simp] theorem write_fevhovf (s : State) (cs : List Host.Cell) : (s.write cs).fevhovf = s.fevhovf := rfl
@[simp] theorem write_fevrec (s : State) (cs : List Host.Cell) : (s.write cs).fevrec = s.fevrec := rfl
@[simp] theorem write_eseq (s : State) (cs : List Host.Cell) : (s.write cs).eseq = s.eseq := rfl
@[simp] theorem write_out (s : State) (cs : List Host.Cell) : (s.write cs).out = s.out := rfl
@[simp] theorem write_asks (s : State) (cs : List Host.Cell) : (s.write cs).asks = s.asks := rfl
@[simp] theorem write_granted (s : State) (cs : List Host.Cell) : (s.write cs).granted = s.granted := rfl
@[simp] theorem write_hostq (s : State) (cs : List Host.Cell) : (s.write cs).hostq = s.hostq := rfl
@[simp] theorem write_ppw (s : State) (cs : List Host.Cell) : (s.write cs).ppw = s.ppw := rfl
@[simp] theorem write_cadence (s : State) (cs : List Host.Cell) : (s.write cs).cadence = s.cadence := rfl
@[simp] theorem write_boot (s : State) (cs : List Host.Cell) : (s.write cs).boot = s.boot := rfl

/-! ### zero -/

@[simp] theorem zero_cycle (s : State) (a n : Nat) : (s.zero a n).cycle = s.cycle := rfl
@[simp] theorem zero_time (s : State) (a n : Nat) : (s.zero a n).time = s.time := rfl
@[simp] theorem zero_issues (s : State) (a n : Nat) : (s.zero a n).issues = s.issues := rfl
@[simp] theorem zero_agenda (s : State) (a n : Nat) : (s.zero a n).agenda = s.agenda := rfl
@[simp] theorem zero_plan (s : State) (a n : Nat) : (s.zero a n).plan = s.plan := rfl
@[simp] theorem zero_cur (s : State) (a n : Nat) : (s.zero a n).cur = s.cur := rfl
@[simp] theorem zero_uid (s : State) (a n : Nat) : (s.zero a n).uid = s.uid := rfl
@[simp] theorem zero_fresh (s : State) (a n : Nat) : (s.zero a n).fresh = s.fresh := rfl
@[simp] theorem zero_groups (s : State) (a n : Nat) : (s.zero a n).groups = s.groups := rfl
@[simp] theorem zero_teams (s : State) (a n : Nat) : (s.zero a n).teams = s.teams := rfl
@[simp] theorem zero_launches (s : State) (a n : Nat) : (s.zero a n).launches = s.launches := rfl
@[simp] theorem zero_commits (s : State) (a n : Nat) : (s.zero a n).commits = s.commits := rfl
@[simp] theorem zero_locals (s : State) (a n : Nat) : (s.zero a n).locals = s.locals := rfl
@[simp] theorem zero_locks (s : State) (a n : Nat) : (s.zero a n).locks = s.locks := rfl
@[simp] theorem zero_lockReqs (s : State) (a n : Nat) : (s.zero a n).lockReqs = s.lockReqs := rfl
@[simp] theorem zero_chases (s : State) (a n : Nat) : (s.zero a n).chases = s.chases := rfl
@[simp] theorem zero_mats (s : State) (a n : Nat) : (s.zero a n).mats = s.mats := rfl
@[simp] theorem zero_arrayFree (s : State) (a n : Nat) : (s.zero a n).arrayFree = s.arrayFree := rfl
@[simp] theorem zero_ligs (s : State) (a n : Nat) : (s.zero a n).ligs = s.ligs := rfl
@[simp] theorem zero_ligOps (s : State) (a n : Nat) : (s.zero a n).ligOps = s.ligOps := rfl
@[simp] theorem zero_cmds (s : State) (a n : Nat) : (s.zero a n).cmds = s.cmds := rfl
@[simp] theorem zero_reqs (s : State) (a n : Nat) : (s.zero a n).reqs = s.reqs := rfl
@[simp] theorem zero_hints (s : State) (a n : Nat) : (s.zero a n).hints = s.hints := rfl
@[simp] theorem zero_cached (s : State) (a n : Nat) : (s.zero a n).cached = s.cached := rfl
@[simp] theorem zero_tready (s : State) (a n : Nat) : (s.zero a n).tready = s.tready := rfl
@[simp] theorem zero_tpending (s : State) (a n : Nat) : (s.zero a n).tpending = s.tpending := rfl
@[simp] theorem zero_ttransit (s : State) (a n : Nat) : (s.zero a n).ttransit = s.ttransit := rfl
@[simp] theorem zero_treqs (s : State) (a n : Nat) : (s.zero a n).treqs = s.treqs := rfl
@[simp] theorem zero_proofs (s : State) (a n : Nat) : (s.zero a n).proofs = s.proofs := rfl
@[simp] theorem zero_parts (s : State) (a n : Nat) : (s.zero a n).parts = s.parts := rfl
@[simp] theorem zero_hws (s : State) (a n : Nat) : (s.zero a n).hws = s.hws := rfl
@[simp] theorem zero_pendq (s : State) (a n : Nat) : (s.zero a n).pendq = s.pendq := rfl
@[simp] theorem zero_preempts (s : State) (a n : Nat) : (s.zero a n).preempts = s.preempts := rfl
@[simp] theorem zero_saved (s : State) (a n : Nat) : (s.zero a n).saved = s.saved := rfl
@[simp] theorem zero_modules (s : State) (a n : Nat) : (s.zero a n).modules = s.modules := rfl
@[simp] theorem zero_tx (s : State) (a n : Nat) : (s.zero a n).tx = s.tx := rfl
@[simp] theorem zero_rx (s : State) (a n : Nat) : (s.zero a n).rx = s.rx := rfl
@[simp] theorem zero_wire (s : State) (a n : Nat) : (s.zero a n).wire = s.wire := rfl
@[simp] theorem zero_grants (s : State) (a n : Nat) : (s.zero a n).grants = s.grants := rfl
@[simp] theorem zero_given (s : State) (a n : Nat) : (s.zero a n).given = s.given := rfl
@[simp] theorem zero_grantWait (s : State) (a n : Nat) : (s.zero a n).grantWait = s.grantWait := rfl
@[simp] theorem zero_sockets (s : State) (a n : Nat) : (s.zero a n).sockets = s.sockets := rfl
@[simp] theorem zero_lanes (s : State) (a n : Nat) : (s.zero a n).lanes = s.lanes := rfl
@[simp] theorem zero_fevput (s : State) (a n : Nat) : (s.zero a n).fevput = s.fevput := rfl
@[simp] theorem zero_fevget (s : State) (a n : Nat) : (s.zero a n).fevget = s.fevget := rfl
@[simp] theorem zero_fevhovf (s : State) (a n : Nat) : (s.zero a n).fevhovf = s.fevhovf := rfl
@[simp] theorem zero_fevrec (s : State) (a n : Nat) : (s.zero a n).fevrec = s.fevrec := rfl
@[simp] theorem zero_eseq (s : State) (a n : Nat) : (s.zero a n).eseq = s.eseq := rfl
@[simp] theorem zero_out (s : State) (a n : Nat) : (s.zero a n).out = s.out := rfl
@[simp] theorem zero_asks (s : State) (a n : Nat) : (s.zero a n).asks = s.asks := rfl
@[simp] theorem zero_granted (s : State) (a n : Nat) : (s.zero a n).granted = s.granted := rfl
@[simp] theorem zero_hostq (s : State) (a n : Nat) : (s.zero a n).hostq = s.hostq := rfl
@[simp] theorem zero_ppw (s : State) (a n : Nat) : (s.zero a n).ppw = s.ppw := rfl
@[simp] theorem zero_cadence (s : State) (a n : Nat) : (s.zero a n).cadence = s.cadence := rfl
@[simp] theorem zero_boot (s : State) (a n : Nat) : (s.zero a n).boot = s.boot := rfl

/-! ### setGroup -/

@[simp] theorem setGroup_cycle (s : State) (g : Group) : (s.setGroup g).cycle = s.cycle := rfl
@[simp] theorem setGroup_time (s : State) (g : Group) : (s.setGroup g).time = s.time := rfl
@[simp] theorem setGroup_issues (s : State) (g : Group) : (s.setGroup g).issues = s.issues := rfl
@[simp] theorem setGroup_agenda (s : State) (g : Group) : (s.setGroup g).agenda = s.agenda := rfl
@[simp] theorem setGroup_plan (s : State) (g : Group) : (s.setGroup g).plan = s.plan := rfl
@[simp] theorem setGroup_cur (s : State) (g : Group) : (s.setGroup g).cur = s.cur := rfl
@[simp] theorem setGroup_uid (s : State) (g : Group) : (s.setGroup g).uid = s.uid := rfl
@[simp] theorem setGroup_fresh (s : State) (g : Group) : (s.setGroup g).fresh = s.fresh := rfl
@[simp] theorem setGroup_mem (s : State) (g : Group) : (s.setGroup g).mem = s.mem := rfl
@[simp] theorem setGroup_poison (s : State) (g : Group) : (s.setGroup g).poison = s.poison := rfl
@[simp] theorem setGroup_scrub (s : State) (g : Group) : (s.setGroup g).scrub = s.scrub := rfl
@[simp] theorem setGroup_teams (s : State) (g : Group) : (s.setGroup g).teams = s.teams := rfl
@[simp] theorem setGroup_launches (s : State) (g : Group) : (s.setGroup g).launches = s.launches := rfl
@[simp] theorem setGroup_commits (s : State) (g : Group) : (s.setGroup g).commits = s.commits := rfl
@[simp] theorem setGroup_locals (s : State) (g : Group) : (s.setGroup g).locals = s.locals := rfl
@[simp] theorem setGroup_locks (s : State) (g : Group) : (s.setGroup g).locks = s.locks := rfl
@[simp] theorem setGroup_lockReqs (s : State) (g : Group) : (s.setGroup g).lockReqs = s.lockReqs := rfl
@[simp] theorem setGroup_chases (s : State) (g : Group) : (s.setGroup g).chases = s.chases := rfl
@[simp] theorem setGroup_mats (s : State) (g : Group) : (s.setGroup g).mats = s.mats := rfl
@[simp] theorem setGroup_arrayFree (s : State) (g : Group) : (s.setGroup g).arrayFree = s.arrayFree := rfl
@[simp] theorem setGroup_ligs (s : State) (g : Group) : (s.setGroup g).ligs = s.ligs := rfl
@[simp] theorem setGroup_ligOps (s : State) (g : Group) : (s.setGroup g).ligOps = s.ligOps := rfl
@[simp] theorem setGroup_cmds (s : State) (g : Group) : (s.setGroup g).cmds = s.cmds := rfl
@[simp] theorem setGroup_reqs (s : State) (g : Group) : (s.setGroup g).reqs = s.reqs := rfl
@[simp] theorem setGroup_hints (s : State) (g : Group) : (s.setGroup g).hints = s.hints := rfl
@[simp] theorem setGroup_cached (s : State) (g : Group) : (s.setGroup g).cached = s.cached := rfl
@[simp] theorem setGroup_tready (s : State) (g : Group) : (s.setGroup g).tready = s.tready := rfl
@[simp] theorem setGroup_tpending (s : State) (g : Group) : (s.setGroup g).tpending = s.tpending := rfl
@[simp] theorem setGroup_ttransit (s : State) (g : Group) : (s.setGroup g).ttransit = s.ttransit := rfl
@[simp] theorem setGroup_treqs (s : State) (g : Group) : (s.setGroup g).treqs = s.treqs := rfl
@[simp] theorem setGroup_proofs (s : State) (g : Group) : (s.setGroup g).proofs = s.proofs := rfl
@[simp] theorem setGroup_parts (s : State) (g : Group) : (s.setGroup g).parts = s.parts := rfl
@[simp] theorem setGroup_hws (s : State) (g : Group) : (s.setGroup g).hws = s.hws := rfl
@[simp] theorem setGroup_pendq (s : State) (g : Group) : (s.setGroup g).pendq = s.pendq := rfl
@[simp] theorem setGroup_preempts (s : State) (g : Group) : (s.setGroup g).preempts = s.preempts := rfl
@[simp] theorem setGroup_saved (s : State) (g : Group) : (s.setGroup g).saved = s.saved := rfl
@[simp] theorem setGroup_modules (s : State) (g : Group) : (s.setGroup g).modules = s.modules := rfl
@[simp] theorem setGroup_tx (s : State) (g : Group) : (s.setGroup g).tx = s.tx := rfl
@[simp] theorem setGroup_rx (s : State) (g : Group) : (s.setGroup g).rx = s.rx := rfl
@[simp] theorem setGroup_wire (s : State) (g : Group) : (s.setGroup g).wire = s.wire := rfl
@[simp] theorem setGroup_grants (s : State) (g : Group) : (s.setGroup g).grants = s.grants := rfl
@[simp] theorem setGroup_given (s : State) (g : Group) : (s.setGroup g).given = s.given := rfl
@[simp] theorem setGroup_grantWait (s : State) (g : Group) : (s.setGroup g).grantWait = s.grantWait := rfl
@[simp] theorem setGroup_sockets (s : State) (g : Group) : (s.setGroup g).sockets = s.sockets := rfl
@[simp] theorem setGroup_lanes (s : State) (g : Group) : (s.setGroup g).lanes = s.lanes := rfl
@[simp] theorem setGroup_fevput (s : State) (g : Group) : (s.setGroup g).fevput = s.fevput := rfl
@[simp] theorem setGroup_fevget (s : State) (g : Group) : (s.setGroup g).fevget = s.fevget := rfl
@[simp] theorem setGroup_fevhovf (s : State) (g : Group) : (s.setGroup g).fevhovf = s.fevhovf := rfl
@[simp] theorem setGroup_fevrec (s : State) (g : Group) : (s.setGroup g).fevrec = s.fevrec := rfl
@[simp] theorem setGroup_eseq (s : State) (g : Group) : (s.setGroup g).eseq = s.eseq := rfl
@[simp] theorem setGroup_out (s : State) (g : Group) : (s.setGroup g).out = s.out := rfl
@[simp] theorem setGroup_asks (s : State) (g : Group) : (s.setGroup g).asks = s.asks := rfl
@[simp] theorem setGroup_granted (s : State) (g : Group) : (s.setGroup g).granted = s.granted := rfl
@[simp] theorem setGroup_hostq (s : State) (g : Group) : (s.setGroup g).hostq = s.hostq := rfl
@[simp] theorem setGroup_ppw (s : State) (g : Group) : (s.setGroup g).ppw = s.ppw := rfl
@[simp] theorem setGroup_cadence (s : State) (g : Group) : (s.setGroup g).cadence = s.cadence := rfl
@[simp] theorem setGroup_boot (s : State) (g : Group) : (s.setGroup g).boot = s.boot := rfl

/-! ### setTeam -/

@[simp] theorem setTeam_cycle (s : State) (t : Team) : (s.setTeam t).cycle = s.cycle := rfl
@[simp] theorem setTeam_time (s : State) (t : Team) : (s.setTeam t).time = s.time := rfl
@[simp] theorem setTeam_issues (s : State) (t : Team) : (s.setTeam t).issues = s.issues := rfl
@[simp] theorem setTeam_agenda (s : State) (t : Team) : (s.setTeam t).agenda = s.agenda := rfl
@[simp] theorem setTeam_plan (s : State) (t : Team) : (s.setTeam t).plan = s.plan := rfl
@[simp] theorem setTeam_cur (s : State) (t : Team) : (s.setTeam t).cur = s.cur := rfl
@[simp] theorem setTeam_uid (s : State) (t : Team) : (s.setTeam t).uid = s.uid := rfl
@[simp] theorem setTeam_fresh (s : State) (t : Team) : (s.setTeam t).fresh = s.fresh := rfl
@[simp] theorem setTeam_mem (s : State) (t : Team) : (s.setTeam t).mem = s.mem := rfl
@[simp] theorem setTeam_poison (s : State) (t : Team) : (s.setTeam t).poison = s.poison := rfl
@[simp] theorem setTeam_scrub (s : State) (t : Team) : (s.setTeam t).scrub = s.scrub := rfl
@[simp] theorem setTeam_groups (s : State) (t : Team) : (s.setTeam t).groups = s.groups := rfl
@[simp] theorem setTeam_launches (s : State) (t : Team) : (s.setTeam t).launches = s.launches := rfl
@[simp] theorem setTeam_commits (s : State) (t : Team) : (s.setTeam t).commits = s.commits := rfl
@[simp] theorem setTeam_locals (s : State) (t : Team) : (s.setTeam t).locals = s.locals := rfl
@[simp] theorem setTeam_locks (s : State) (t : Team) : (s.setTeam t).locks = s.locks := rfl
@[simp] theorem setTeam_lockReqs (s : State) (t : Team) : (s.setTeam t).lockReqs = s.lockReqs := rfl
@[simp] theorem setTeam_chases (s : State) (t : Team) : (s.setTeam t).chases = s.chases := rfl
@[simp] theorem setTeam_mats (s : State) (t : Team) : (s.setTeam t).mats = s.mats := rfl
@[simp] theorem setTeam_arrayFree (s : State) (t : Team) : (s.setTeam t).arrayFree = s.arrayFree := rfl
@[simp] theorem setTeam_ligs (s : State) (t : Team) : (s.setTeam t).ligs = s.ligs := rfl
@[simp] theorem setTeam_ligOps (s : State) (t : Team) : (s.setTeam t).ligOps = s.ligOps := rfl
@[simp] theorem setTeam_cmds (s : State) (t : Team) : (s.setTeam t).cmds = s.cmds := rfl
@[simp] theorem setTeam_reqs (s : State) (t : Team) : (s.setTeam t).reqs = s.reqs := rfl
@[simp] theorem setTeam_hints (s : State) (t : Team) : (s.setTeam t).hints = s.hints := rfl
@[simp] theorem setTeam_cached (s : State) (t : Team) : (s.setTeam t).cached = s.cached := rfl
@[simp] theorem setTeam_tready (s : State) (t : Team) : (s.setTeam t).tready = s.tready := rfl
@[simp] theorem setTeam_tpending (s : State) (t : Team) : (s.setTeam t).tpending = s.tpending := rfl
@[simp] theorem setTeam_ttransit (s : State) (t : Team) : (s.setTeam t).ttransit = s.ttransit := rfl
@[simp] theorem setTeam_treqs (s : State) (t : Team) : (s.setTeam t).treqs = s.treqs := rfl
@[simp] theorem setTeam_proofs (s : State) (t : Team) : (s.setTeam t).proofs = s.proofs := rfl
@[simp] theorem setTeam_parts (s : State) (t : Team) : (s.setTeam t).parts = s.parts := rfl
@[simp] theorem setTeam_hws (s : State) (t : Team) : (s.setTeam t).hws = s.hws := rfl
@[simp] theorem setTeam_pendq (s : State) (t : Team) : (s.setTeam t).pendq = s.pendq := rfl
@[simp] theorem setTeam_preempts (s : State) (t : Team) : (s.setTeam t).preempts = s.preempts := rfl
@[simp] theorem setTeam_saved (s : State) (t : Team) : (s.setTeam t).saved = s.saved := rfl
@[simp] theorem setTeam_modules (s : State) (t : Team) : (s.setTeam t).modules = s.modules := rfl
@[simp] theorem setTeam_tx (s : State) (t : Team) : (s.setTeam t).tx = s.tx := rfl
@[simp] theorem setTeam_rx (s : State) (t : Team) : (s.setTeam t).rx = s.rx := rfl
@[simp] theorem setTeam_wire (s : State) (t : Team) : (s.setTeam t).wire = s.wire := rfl
@[simp] theorem setTeam_grants (s : State) (t : Team) : (s.setTeam t).grants = s.grants := rfl
@[simp] theorem setTeam_given (s : State) (t : Team) : (s.setTeam t).given = s.given := rfl
@[simp] theorem setTeam_grantWait (s : State) (t : Team) : (s.setTeam t).grantWait = s.grantWait := rfl
@[simp] theorem setTeam_sockets (s : State) (t : Team) : (s.setTeam t).sockets = s.sockets := rfl
@[simp] theorem setTeam_lanes (s : State) (t : Team) : (s.setTeam t).lanes = s.lanes := rfl
@[simp] theorem setTeam_fevput (s : State) (t : Team) : (s.setTeam t).fevput = s.fevput := rfl
@[simp] theorem setTeam_fevget (s : State) (t : Team) : (s.setTeam t).fevget = s.fevget := rfl
@[simp] theorem setTeam_fevhovf (s : State) (t : Team) : (s.setTeam t).fevhovf = s.fevhovf := rfl
@[simp] theorem setTeam_fevrec (s : State) (t : Team) : (s.setTeam t).fevrec = s.fevrec := rfl
@[simp] theorem setTeam_eseq (s : State) (t : Team) : (s.setTeam t).eseq = s.eseq := rfl
@[simp] theorem setTeam_out (s : State) (t : Team) : (s.setTeam t).out = s.out := rfl
@[simp] theorem setTeam_asks (s : State) (t : Team) : (s.setTeam t).asks = s.asks := rfl
@[simp] theorem setTeam_granted (s : State) (t : Team) : (s.setTeam t).granted = s.granted := rfl
@[simp] theorem setTeam_hostq (s : State) (t : Team) : (s.setTeam t).hostq = s.hostq := rfl
@[simp] theorem setTeam_ppw (s : State) (t : Team) : (s.setTeam t).ppw = s.ppw := rfl
@[simp] theorem setTeam_cadence (s : State) (t : Team) : (s.setTeam t).cadence = s.cadence := rfl
@[simp] theorem setTeam_boot (s : State) (t : Team) : (s.setTeam t).boot = s.boot := rfl

/-! ### setLaunch -/

@[simp] theorem setLaunch_cycle (s : State) (l : Launch) : (s.setLaunch l).cycle = s.cycle := rfl
@[simp] theorem setLaunch_time (s : State) (l : Launch) : (s.setLaunch l).time = s.time := rfl
@[simp] theorem setLaunch_issues (s : State) (l : Launch) : (s.setLaunch l).issues = s.issues := rfl
@[simp] theorem setLaunch_agenda (s : State) (l : Launch) : (s.setLaunch l).agenda = s.agenda := rfl
@[simp] theorem setLaunch_plan (s : State) (l : Launch) : (s.setLaunch l).plan = s.plan := rfl
@[simp] theorem setLaunch_cur (s : State) (l : Launch) : (s.setLaunch l).cur = s.cur := rfl
@[simp] theorem setLaunch_uid (s : State) (l : Launch) : (s.setLaunch l).uid = s.uid := rfl
@[simp] theorem setLaunch_fresh (s : State) (l : Launch) : (s.setLaunch l).fresh = s.fresh := rfl
@[simp] theorem setLaunch_mem (s : State) (l : Launch) : (s.setLaunch l).mem = s.mem := rfl
@[simp] theorem setLaunch_poison (s : State) (l : Launch) : (s.setLaunch l).poison = s.poison := rfl
@[simp] theorem setLaunch_scrub (s : State) (l : Launch) : (s.setLaunch l).scrub = s.scrub := rfl
@[simp] theorem setLaunch_groups (s : State) (l : Launch) : (s.setLaunch l).groups = s.groups := rfl
@[simp] theorem setLaunch_teams (s : State) (l : Launch) : (s.setLaunch l).teams = s.teams := rfl
@[simp] theorem setLaunch_commits (s : State) (l : Launch) : (s.setLaunch l).commits = s.commits := rfl
@[simp] theorem setLaunch_locals (s : State) (l : Launch) : (s.setLaunch l).locals = s.locals := rfl
@[simp] theorem setLaunch_locks (s : State) (l : Launch) : (s.setLaunch l).locks = s.locks := rfl
@[simp] theorem setLaunch_lockReqs (s : State) (l : Launch) : (s.setLaunch l).lockReqs = s.lockReqs := rfl
@[simp] theorem setLaunch_chases (s : State) (l : Launch) : (s.setLaunch l).chases = s.chases := rfl
@[simp] theorem setLaunch_mats (s : State) (l : Launch) : (s.setLaunch l).mats = s.mats := rfl
@[simp] theorem setLaunch_arrayFree (s : State) (l : Launch) : (s.setLaunch l).arrayFree = s.arrayFree := rfl
@[simp] theorem setLaunch_ligs (s : State) (l : Launch) : (s.setLaunch l).ligs = s.ligs := rfl
@[simp] theorem setLaunch_ligOps (s : State) (l : Launch) : (s.setLaunch l).ligOps = s.ligOps := rfl
@[simp] theorem setLaunch_cmds (s : State) (l : Launch) : (s.setLaunch l).cmds = s.cmds := rfl
@[simp] theorem setLaunch_reqs (s : State) (l : Launch) : (s.setLaunch l).reqs = s.reqs := rfl
@[simp] theorem setLaunch_hints (s : State) (l : Launch) : (s.setLaunch l).hints = s.hints := rfl
@[simp] theorem setLaunch_cached (s : State) (l : Launch) : (s.setLaunch l).cached = s.cached := rfl
@[simp] theorem setLaunch_tready (s : State) (l : Launch) : (s.setLaunch l).tready = s.tready := rfl
@[simp] theorem setLaunch_tpending (s : State) (l : Launch) : (s.setLaunch l).tpending = s.tpending := rfl
@[simp] theorem setLaunch_ttransit (s : State) (l : Launch) : (s.setLaunch l).ttransit = s.ttransit := rfl
@[simp] theorem setLaunch_treqs (s : State) (l : Launch) : (s.setLaunch l).treqs = s.treqs := rfl
@[simp] theorem setLaunch_proofs (s : State) (l : Launch) : (s.setLaunch l).proofs = s.proofs := rfl
@[simp] theorem setLaunch_parts (s : State) (l : Launch) : (s.setLaunch l).parts = s.parts := rfl
@[simp] theorem setLaunch_hws (s : State) (l : Launch) : (s.setLaunch l).hws = s.hws := rfl
@[simp] theorem setLaunch_pendq (s : State) (l : Launch) : (s.setLaunch l).pendq = s.pendq := rfl
@[simp] theorem setLaunch_preempts (s : State) (l : Launch) : (s.setLaunch l).preempts = s.preempts := rfl
@[simp] theorem setLaunch_saved (s : State) (l : Launch) : (s.setLaunch l).saved = s.saved := rfl
@[simp] theorem setLaunch_modules (s : State) (l : Launch) : (s.setLaunch l).modules = s.modules := rfl
@[simp] theorem setLaunch_tx (s : State) (l : Launch) : (s.setLaunch l).tx = s.tx := rfl
@[simp] theorem setLaunch_rx (s : State) (l : Launch) : (s.setLaunch l).rx = s.rx := rfl
@[simp] theorem setLaunch_wire (s : State) (l : Launch) : (s.setLaunch l).wire = s.wire := rfl
@[simp] theorem setLaunch_grants (s : State) (l : Launch) : (s.setLaunch l).grants = s.grants := rfl
@[simp] theorem setLaunch_given (s : State) (l : Launch) : (s.setLaunch l).given = s.given := rfl
@[simp] theorem setLaunch_grantWait (s : State) (l : Launch) : (s.setLaunch l).grantWait = s.grantWait := rfl
@[simp] theorem setLaunch_sockets (s : State) (l : Launch) : (s.setLaunch l).sockets = s.sockets := rfl
@[simp] theorem setLaunch_lanes (s : State) (l : Launch) : (s.setLaunch l).lanes = s.lanes := rfl
@[simp] theorem setLaunch_fevput (s : State) (l : Launch) : (s.setLaunch l).fevput = s.fevput := rfl
@[simp] theorem setLaunch_fevget (s : State) (l : Launch) : (s.setLaunch l).fevget = s.fevget := rfl
@[simp] theorem setLaunch_fevhovf (s : State) (l : Launch) : (s.setLaunch l).fevhovf = s.fevhovf := rfl
@[simp] theorem setLaunch_fevrec (s : State) (l : Launch) : (s.setLaunch l).fevrec = s.fevrec := rfl
@[simp] theorem setLaunch_eseq (s : State) (l : Launch) : (s.setLaunch l).eseq = s.eseq := rfl
@[simp] theorem setLaunch_out (s : State) (l : Launch) : (s.setLaunch l).out = s.out := rfl
@[simp] theorem setLaunch_asks (s : State) (l : Launch) : (s.setLaunch l).asks = s.asks := rfl
@[simp] theorem setLaunch_granted (s : State) (l : Launch) : (s.setLaunch l).granted = s.granted := rfl
@[simp] theorem setLaunch_hostq (s : State) (l : Launch) : (s.setLaunch l).hostq = s.hostq := rfl
@[simp] theorem setLaunch_ppw (s : State) (l : Launch) : (s.setLaunch l).ppw = s.ppw := rfl
@[simp] theorem setLaunch_cadence (s : State) (l : Launch) : (s.setLaunch l).cadence = s.cadence := rfl
@[simp] theorem setLaunch_boot (s : State) (l : Launch) : (s.setLaunch l).boot = s.boot := rfl

/-! ### setProof -/

@[simp] theorem setProof_cycle (s : State) (p : ProofCore) : (s.setProof p).cycle = s.cycle := rfl
@[simp] theorem setProof_time (s : State) (p : ProofCore) : (s.setProof p).time = s.time := rfl
@[simp] theorem setProof_issues (s : State) (p : ProofCore) : (s.setProof p).issues = s.issues := rfl
@[simp] theorem setProof_agenda (s : State) (p : ProofCore) : (s.setProof p).agenda = s.agenda := rfl
@[simp] theorem setProof_plan (s : State) (p : ProofCore) : (s.setProof p).plan = s.plan := rfl
@[simp] theorem setProof_cur (s : State) (p : ProofCore) : (s.setProof p).cur = s.cur := rfl
@[simp] theorem setProof_uid (s : State) (p : ProofCore) : (s.setProof p).uid = s.uid := rfl
@[simp] theorem setProof_fresh (s : State) (p : ProofCore) : (s.setProof p).fresh = s.fresh := rfl
@[simp] theorem setProof_mem (s : State) (p : ProofCore) : (s.setProof p).mem = s.mem := rfl
@[simp] theorem setProof_poison (s : State) (p : ProofCore) : (s.setProof p).poison = s.poison := rfl
@[simp] theorem setProof_scrub (s : State) (p : ProofCore) : (s.setProof p).scrub = s.scrub := rfl
@[simp] theorem setProof_groups (s : State) (p : ProofCore) : (s.setProof p).groups = s.groups := rfl
@[simp] theorem setProof_teams (s : State) (p : ProofCore) : (s.setProof p).teams = s.teams := rfl
@[simp] theorem setProof_launches (s : State) (p : ProofCore) : (s.setProof p).launches = s.launches := rfl
@[simp] theorem setProof_commits (s : State) (p : ProofCore) : (s.setProof p).commits = s.commits := rfl
@[simp] theorem setProof_locals (s : State) (p : ProofCore) : (s.setProof p).locals = s.locals := rfl
@[simp] theorem setProof_locks (s : State) (p : ProofCore) : (s.setProof p).locks = s.locks := rfl
@[simp] theorem setProof_lockReqs (s : State) (p : ProofCore) : (s.setProof p).lockReqs = s.lockReqs := rfl
@[simp] theorem setProof_chases (s : State) (p : ProofCore) : (s.setProof p).chases = s.chases := rfl
@[simp] theorem setProof_mats (s : State) (p : ProofCore) : (s.setProof p).mats = s.mats := rfl
@[simp] theorem setProof_arrayFree (s : State) (p : ProofCore) : (s.setProof p).arrayFree = s.arrayFree := rfl
@[simp] theorem setProof_ligs (s : State) (p : ProofCore) : (s.setProof p).ligs = s.ligs := rfl
@[simp] theorem setProof_ligOps (s : State) (p : ProofCore) : (s.setProof p).ligOps = s.ligOps := rfl
@[simp] theorem setProof_cmds (s : State) (p : ProofCore) : (s.setProof p).cmds = s.cmds := rfl
@[simp] theorem setProof_reqs (s : State) (p : ProofCore) : (s.setProof p).reqs = s.reqs := rfl
@[simp] theorem setProof_hints (s : State) (p : ProofCore) : (s.setProof p).hints = s.hints := rfl
@[simp] theorem setProof_cached (s : State) (p : ProofCore) : (s.setProof p).cached = s.cached := rfl
@[simp] theorem setProof_tready (s : State) (p : ProofCore) : (s.setProof p).tready = s.tready := rfl
@[simp] theorem setProof_tpending (s : State) (p : ProofCore) : (s.setProof p).tpending = s.tpending := rfl
@[simp] theorem setProof_ttransit (s : State) (p : ProofCore) : (s.setProof p).ttransit = s.ttransit := rfl
@[simp] theorem setProof_treqs (s : State) (p : ProofCore) : (s.setProof p).treqs = s.treqs := rfl
@[simp] theorem setProof_parts (s : State) (p : ProofCore) : (s.setProof p).parts = s.parts := rfl
@[simp] theorem setProof_hws (s : State) (p : ProofCore) : (s.setProof p).hws = s.hws := rfl
@[simp] theorem setProof_pendq (s : State) (p : ProofCore) : (s.setProof p).pendq = s.pendq := rfl
@[simp] theorem setProof_preempts (s : State) (p : ProofCore) : (s.setProof p).preempts = s.preempts := rfl
@[simp] theorem setProof_saved (s : State) (p : ProofCore) : (s.setProof p).saved = s.saved := rfl
@[simp] theorem setProof_modules (s : State) (p : ProofCore) : (s.setProof p).modules = s.modules := rfl
@[simp] theorem setProof_tx (s : State) (p : ProofCore) : (s.setProof p).tx = s.tx := rfl
@[simp] theorem setProof_rx (s : State) (p : ProofCore) : (s.setProof p).rx = s.rx := rfl
@[simp] theorem setProof_wire (s : State) (p : ProofCore) : (s.setProof p).wire = s.wire := rfl
@[simp] theorem setProof_grants (s : State) (p : ProofCore) : (s.setProof p).grants = s.grants := rfl
@[simp] theorem setProof_given (s : State) (p : ProofCore) : (s.setProof p).given = s.given := rfl
@[simp] theorem setProof_grantWait (s : State) (p : ProofCore) : (s.setProof p).grantWait = s.grantWait := rfl
@[simp] theorem setProof_sockets (s : State) (p : ProofCore) : (s.setProof p).sockets = s.sockets := rfl
@[simp] theorem setProof_lanes (s : State) (p : ProofCore) : (s.setProof p).lanes = s.lanes := rfl
@[simp] theorem setProof_fevput (s : State) (p : ProofCore) : (s.setProof p).fevput = s.fevput := rfl
@[simp] theorem setProof_fevget (s : State) (p : ProofCore) : (s.setProof p).fevget = s.fevget := rfl
@[simp] theorem setProof_fevhovf (s : State) (p : ProofCore) : (s.setProof p).fevhovf = s.fevhovf := rfl
@[simp] theorem setProof_fevrec (s : State) (p : ProofCore) : (s.setProof p).fevrec = s.fevrec := rfl
@[simp] theorem setProof_eseq (s : State) (p : ProofCore) : (s.setProof p).eseq = s.eseq := rfl
@[simp] theorem setProof_out (s : State) (p : ProofCore) : (s.setProof p).out = s.out := rfl
@[simp] theorem setProof_asks (s : State) (p : ProofCore) : (s.setProof p).asks = s.asks := rfl
@[simp] theorem setProof_granted (s : State) (p : ProofCore) : (s.setProof p).granted = s.granted := rfl
@[simp] theorem setProof_hostq (s : State) (p : ProofCore) : (s.setProof p).hostq = s.hostq := rfl
@[simp] theorem setProof_ppw (s : State) (p : ProofCore) : (s.setProof p).ppw = s.ppw := rfl
@[simp] theorem setProof_cadence (s : State) (p : ProofCore) : (s.setProof p).cadence = s.cadence := rfl
@[simp] theorem setProof_boot (s : State) (p : ProofCore) : (s.setProof p).boot = s.boot := rfl

/-! ### setPart -/

@[simp] theorem setPart_cycle (s : State) (p : Partition) : (s.setPart p).cycle = s.cycle := rfl
@[simp] theorem setPart_time (s : State) (p : Partition) : (s.setPart p).time = s.time := rfl
@[simp] theorem setPart_issues (s : State) (p : Partition) : (s.setPart p).issues = s.issues := rfl
@[simp] theorem setPart_agenda (s : State) (p : Partition) : (s.setPart p).agenda = s.agenda := rfl
@[simp] theorem setPart_plan (s : State) (p : Partition) : (s.setPart p).plan = s.plan := rfl
@[simp] theorem setPart_cur (s : State) (p : Partition) : (s.setPart p).cur = s.cur := rfl
@[simp] theorem setPart_uid (s : State) (p : Partition) : (s.setPart p).uid = s.uid := rfl
@[simp] theorem setPart_fresh (s : State) (p : Partition) : (s.setPart p).fresh = s.fresh := rfl
@[simp] theorem setPart_mem (s : State) (p : Partition) : (s.setPart p).mem = s.mem := rfl
@[simp] theorem setPart_poison (s : State) (p : Partition) : (s.setPart p).poison = s.poison := rfl
@[simp] theorem setPart_scrub (s : State) (p : Partition) : (s.setPart p).scrub = s.scrub := rfl
@[simp] theorem setPart_groups (s : State) (p : Partition) : (s.setPart p).groups = s.groups := rfl
@[simp] theorem setPart_teams (s : State) (p : Partition) : (s.setPart p).teams = s.teams := rfl
@[simp] theorem setPart_launches (s : State) (p : Partition) : (s.setPart p).launches = s.launches := rfl
@[simp] theorem setPart_commits (s : State) (p : Partition) : (s.setPart p).commits = s.commits := rfl
@[simp] theorem setPart_locals (s : State) (p : Partition) : (s.setPart p).locals = s.locals := rfl
@[simp] theorem setPart_locks (s : State) (p : Partition) : (s.setPart p).locks = s.locks := rfl
@[simp] theorem setPart_lockReqs (s : State) (p : Partition) : (s.setPart p).lockReqs = s.lockReqs := rfl
@[simp] theorem setPart_chases (s : State) (p : Partition) : (s.setPart p).chases = s.chases := rfl
@[simp] theorem setPart_mats (s : State) (p : Partition) : (s.setPart p).mats = s.mats := rfl
@[simp] theorem setPart_arrayFree (s : State) (p : Partition) : (s.setPart p).arrayFree = s.arrayFree := rfl
@[simp] theorem setPart_ligs (s : State) (p : Partition) : (s.setPart p).ligs = s.ligs := rfl
@[simp] theorem setPart_ligOps (s : State) (p : Partition) : (s.setPart p).ligOps = s.ligOps := rfl
@[simp] theorem setPart_cmds (s : State) (p : Partition) : (s.setPart p).cmds = s.cmds := rfl
@[simp] theorem setPart_reqs (s : State) (p : Partition) : (s.setPart p).reqs = s.reqs := rfl
@[simp] theorem setPart_hints (s : State) (p : Partition) : (s.setPart p).hints = s.hints := rfl
@[simp] theorem setPart_cached (s : State) (p : Partition) : (s.setPart p).cached = s.cached := rfl
@[simp] theorem setPart_tready (s : State) (p : Partition) : (s.setPart p).tready = s.tready := rfl
@[simp] theorem setPart_tpending (s : State) (p : Partition) : (s.setPart p).tpending = s.tpending := rfl
@[simp] theorem setPart_ttransit (s : State) (p : Partition) : (s.setPart p).ttransit = s.ttransit := rfl
@[simp] theorem setPart_treqs (s : State) (p : Partition) : (s.setPart p).treqs = s.treqs := rfl
@[simp] theorem setPart_proofs (s : State) (p : Partition) : (s.setPart p).proofs = s.proofs := rfl
@[simp] theorem setPart_hws (s : State) (p : Partition) : (s.setPart p).hws = s.hws := rfl
@[simp] theorem setPart_pendq (s : State) (p : Partition) : (s.setPart p).pendq = s.pendq := rfl
@[simp] theorem setPart_preempts (s : State) (p : Partition) : (s.setPart p).preempts = s.preempts := rfl
@[simp] theorem setPart_saved (s : State) (p : Partition) : (s.setPart p).saved = s.saved := rfl
@[simp] theorem setPart_modules (s : State) (p : Partition) : (s.setPart p).modules = s.modules := rfl
@[simp] theorem setPart_tx (s : State) (p : Partition) : (s.setPart p).tx = s.tx := rfl
@[simp] theorem setPart_rx (s : State) (p : Partition) : (s.setPart p).rx = s.rx := rfl
@[simp] theorem setPart_wire (s : State) (p : Partition) : (s.setPart p).wire = s.wire := rfl
@[simp] theorem setPart_grants (s : State) (p : Partition) : (s.setPart p).grants = s.grants := rfl
@[simp] theorem setPart_given (s : State) (p : Partition) : (s.setPart p).given = s.given := rfl
@[simp] theorem setPart_grantWait (s : State) (p : Partition) : (s.setPart p).grantWait = s.grantWait := rfl
@[simp] theorem setPart_sockets (s : State) (p : Partition) : (s.setPart p).sockets = s.sockets := rfl
@[simp] theorem setPart_lanes (s : State) (p : Partition) : (s.setPart p).lanes = s.lanes := rfl
@[simp] theorem setPart_fevput (s : State) (p : Partition) : (s.setPart p).fevput = s.fevput := rfl
@[simp] theorem setPart_fevget (s : State) (p : Partition) : (s.setPart p).fevget = s.fevget := rfl
@[simp] theorem setPart_fevhovf (s : State) (p : Partition) : (s.setPart p).fevhovf = s.fevhovf := rfl
@[simp] theorem setPart_fevrec (s : State) (p : Partition) : (s.setPart p).fevrec = s.fevrec := rfl
@[simp] theorem setPart_eseq (s : State) (p : Partition) : (s.setPart p).eseq = s.eseq := rfl
@[simp] theorem setPart_out (s : State) (p : Partition) : (s.setPart p).out = s.out := rfl
@[simp] theorem setPart_asks (s : State) (p : Partition) : (s.setPart p).asks = s.asks := rfl
@[simp] theorem setPart_granted (s : State) (p : Partition) : (s.setPart p).granted = s.granted := rfl
@[simp] theorem setPart_hostq (s : State) (p : Partition) : (s.setPart p).hostq = s.hostq := rfl
@[simp] theorem setPart_ppw (s : State) (p : Partition) : (s.setPart p).ppw = s.ppw := rfl
@[simp] theorem setPart_cadence (s : State) (p : Partition) : (s.setPart p).cadence = s.cadence := rfl
@[simp] theorem setPart_boot (s : State) (p : Partition) : (s.setPart p).boot = s.boot := rfl

/-! ### setHw -/

@[simp] theorem setHw_cycle (s : State) (h : HwSlot) : (s.setHw h).cycle = s.cycle := rfl
@[simp] theorem setHw_time (s : State) (h : HwSlot) : (s.setHw h).time = s.time := rfl
@[simp] theorem setHw_issues (s : State) (h : HwSlot) : (s.setHw h).issues = s.issues := rfl
@[simp] theorem setHw_agenda (s : State) (h : HwSlot) : (s.setHw h).agenda = s.agenda := rfl
@[simp] theorem setHw_plan (s : State) (h : HwSlot) : (s.setHw h).plan = s.plan := rfl
@[simp] theorem setHw_cur (s : State) (h : HwSlot) : (s.setHw h).cur = s.cur := rfl
@[simp] theorem setHw_uid (s : State) (h : HwSlot) : (s.setHw h).uid = s.uid := rfl
@[simp] theorem setHw_fresh (s : State) (h : HwSlot) : (s.setHw h).fresh = s.fresh := rfl
@[simp] theorem setHw_mem (s : State) (h : HwSlot) : (s.setHw h).mem = s.mem := rfl
@[simp] theorem setHw_poison (s : State) (h : HwSlot) : (s.setHw h).poison = s.poison := rfl
@[simp] theorem setHw_scrub (s : State) (h : HwSlot) : (s.setHw h).scrub = s.scrub := rfl
@[simp] theorem setHw_groups (s : State) (h : HwSlot) : (s.setHw h).groups = s.groups := rfl
@[simp] theorem setHw_teams (s : State) (h : HwSlot) : (s.setHw h).teams = s.teams := rfl
@[simp] theorem setHw_launches (s : State) (h : HwSlot) : (s.setHw h).launches = s.launches := rfl
@[simp] theorem setHw_commits (s : State) (h : HwSlot) : (s.setHw h).commits = s.commits := rfl
@[simp] theorem setHw_locals (s : State) (h : HwSlot) : (s.setHw h).locals = s.locals := rfl
@[simp] theorem setHw_locks (s : State) (h : HwSlot) : (s.setHw h).locks = s.locks := rfl
@[simp] theorem setHw_lockReqs (s : State) (h : HwSlot) : (s.setHw h).lockReqs = s.lockReqs := rfl
@[simp] theorem setHw_chases (s : State) (h : HwSlot) : (s.setHw h).chases = s.chases := rfl
@[simp] theorem setHw_mats (s : State) (h : HwSlot) : (s.setHw h).mats = s.mats := rfl
@[simp] theorem setHw_arrayFree (s : State) (h : HwSlot) : (s.setHw h).arrayFree = s.arrayFree := rfl
@[simp] theorem setHw_ligs (s : State) (h : HwSlot) : (s.setHw h).ligs = s.ligs := rfl
@[simp] theorem setHw_ligOps (s : State) (h : HwSlot) : (s.setHw h).ligOps = s.ligOps := rfl
@[simp] theorem setHw_cmds (s : State) (h : HwSlot) : (s.setHw h).cmds = s.cmds := rfl
@[simp] theorem setHw_reqs (s : State) (h : HwSlot) : (s.setHw h).reqs = s.reqs := rfl
@[simp] theorem setHw_hints (s : State) (h : HwSlot) : (s.setHw h).hints = s.hints := rfl
@[simp] theorem setHw_cached (s : State) (h : HwSlot) : (s.setHw h).cached = s.cached := rfl
@[simp] theorem setHw_tready (s : State) (h : HwSlot) : (s.setHw h).tready = s.tready := rfl
@[simp] theorem setHw_tpending (s : State) (h : HwSlot) : (s.setHw h).tpending = s.tpending := rfl
@[simp] theorem setHw_ttransit (s : State) (h : HwSlot) : (s.setHw h).ttransit = s.ttransit := rfl
@[simp] theorem setHw_treqs (s : State) (h : HwSlot) : (s.setHw h).treqs = s.treqs := rfl
@[simp] theorem setHw_proofs (s : State) (h : HwSlot) : (s.setHw h).proofs = s.proofs := rfl
@[simp] theorem setHw_parts (s : State) (h : HwSlot) : (s.setHw h).parts = s.parts := rfl
@[simp] theorem setHw_pendq (s : State) (h : HwSlot) : (s.setHw h).pendq = s.pendq := rfl
@[simp] theorem setHw_preempts (s : State) (h : HwSlot) : (s.setHw h).preempts = s.preempts := rfl
@[simp] theorem setHw_saved (s : State) (h : HwSlot) : (s.setHw h).saved = s.saved := rfl
@[simp] theorem setHw_modules (s : State) (h : HwSlot) : (s.setHw h).modules = s.modules := rfl
@[simp] theorem setHw_tx (s : State) (h : HwSlot) : (s.setHw h).tx = s.tx := rfl
@[simp] theorem setHw_rx (s : State) (h : HwSlot) : (s.setHw h).rx = s.rx := rfl
@[simp] theorem setHw_wire (s : State) (h : HwSlot) : (s.setHw h).wire = s.wire := rfl
@[simp] theorem setHw_grants (s : State) (h : HwSlot) : (s.setHw h).grants = s.grants := rfl
@[simp] theorem setHw_given (s : State) (h : HwSlot) : (s.setHw h).given = s.given := rfl
@[simp] theorem setHw_grantWait (s : State) (h : HwSlot) : (s.setHw h).grantWait = s.grantWait := rfl
@[simp] theorem setHw_sockets (s : State) (h : HwSlot) : (s.setHw h).sockets = s.sockets := rfl
@[simp] theorem setHw_lanes (s : State) (h : HwSlot) : (s.setHw h).lanes = s.lanes := rfl
@[simp] theorem setHw_fevput (s : State) (h : HwSlot) : (s.setHw h).fevput = s.fevput := rfl
@[simp] theorem setHw_fevget (s : State) (h : HwSlot) : (s.setHw h).fevget = s.fevget := rfl
@[simp] theorem setHw_fevhovf (s : State) (h : HwSlot) : (s.setHw h).fevhovf = s.fevhovf := rfl
@[simp] theorem setHw_fevrec (s : State) (h : HwSlot) : (s.setHw h).fevrec = s.fevrec := rfl
@[simp] theorem setHw_eseq (s : State) (h : HwSlot) : (s.setHw h).eseq = s.eseq := rfl
@[simp] theorem setHw_out (s : State) (h : HwSlot) : (s.setHw h).out = s.out := rfl
@[simp] theorem setHw_asks (s : State) (h : HwSlot) : (s.setHw h).asks = s.asks := rfl
@[simp] theorem setHw_granted (s : State) (h : HwSlot) : (s.setHw h).granted = s.granted := rfl
@[simp] theorem setHw_hostq (s : State) (h : HwSlot) : (s.setHw h).hostq = s.hostq := rfl
@[simp] theorem setHw_ppw (s : State) (h : HwSlot) : (s.setHw h).ppw = s.ppw := rfl
@[simp] theorem setHw_cadence (s : State) (h : HwSlot) : (s.setHw h).cadence = s.cadence := rfl
@[simp] theorem setHw_boot (s : State) (h : HwSlot) : (s.setHw h).boot = s.boot := rfl

/-! ### setCmd -/

@[simp] theorem setCmd_cycle (s : State) (x : Cmd) : (s.setCmd x).cycle = s.cycle := rfl
@[simp] theorem setCmd_time (s : State) (x : Cmd) : (s.setCmd x).time = s.time := rfl
@[simp] theorem setCmd_issues (s : State) (x : Cmd) : (s.setCmd x).issues = s.issues := rfl
@[simp] theorem setCmd_agenda (s : State) (x : Cmd) : (s.setCmd x).agenda = s.agenda := rfl
@[simp] theorem setCmd_plan (s : State) (x : Cmd) : (s.setCmd x).plan = s.plan := rfl
@[simp] theorem setCmd_cur (s : State) (x : Cmd) : (s.setCmd x).cur = s.cur := rfl
@[simp] theorem setCmd_uid (s : State) (x : Cmd) : (s.setCmd x).uid = s.uid := rfl
@[simp] theorem setCmd_fresh (s : State) (x : Cmd) : (s.setCmd x).fresh = s.fresh := rfl
@[simp] theorem setCmd_mem (s : State) (x : Cmd) : (s.setCmd x).mem = s.mem := rfl
@[simp] theorem setCmd_poison (s : State) (x : Cmd) : (s.setCmd x).poison = s.poison := rfl
@[simp] theorem setCmd_scrub (s : State) (x : Cmd) : (s.setCmd x).scrub = s.scrub := rfl
@[simp] theorem setCmd_groups (s : State) (x : Cmd) : (s.setCmd x).groups = s.groups := rfl
@[simp] theorem setCmd_teams (s : State) (x : Cmd) : (s.setCmd x).teams = s.teams := rfl
@[simp] theorem setCmd_launches (s : State) (x : Cmd) : (s.setCmd x).launches = s.launches := rfl
@[simp] theorem setCmd_commits (s : State) (x : Cmd) : (s.setCmd x).commits = s.commits := rfl
@[simp] theorem setCmd_locals (s : State) (x : Cmd) : (s.setCmd x).locals = s.locals := rfl
@[simp] theorem setCmd_locks (s : State) (x : Cmd) : (s.setCmd x).locks = s.locks := rfl
@[simp] theorem setCmd_lockReqs (s : State) (x : Cmd) : (s.setCmd x).lockReqs = s.lockReqs := rfl
@[simp] theorem setCmd_chases (s : State) (x : Cmd) : (s.setCmd x).chases = s.chases := rfl
@[simp] theorem setCmd_mats (s : State) (x : Cmd) : (s.setCmd x).mats = s.mats := rfl
@[simp] theorem setCmd_arrayFree (s : State) (x : Cmd) : (s.setCmd x).arrayFree = s.arrayFree := rfl
@[simp] theorem setCmd_ligs (s : State) (x : Cmd) : (s.setCmd x).ligs = s.ligs := rfl
@[simp] theorem setCmd_ligOps (s : State) (x : Cmd) : (s.setCmd x).ligOps = s.ligOps := rfl
@[simp] theorem setCmd_reqs (s : State) (x : Cmd) : (s.setCmd x).reqs = s.reqs := rfl
@[simp] theorem setCmd_hints (s : State) (x : Cmd) : (s.setCmd x).hints = s.hints := rfl
@[simp] theorem setCmd_cached (s : State) (x : Cmd) : (s.setCmd x).cached = s.cached := rfl
@[simp] theorem setCmd_tready (s : State) (x : Cmd) : (s.setCmd x).tready = s.tready := rfl
@[simp] theorem setCmd_tpending (s : State) (x : Cmd) : (s.setCmd x).tpending = s.tpending := rfl
@[simp] theorem setCmd_ttransit (s : State) (x : Cmd) : (s.setCmd x).ttransit = s.ttransit := rfl
@[simp] theorem setCmd_treqs (s : State) (x : Cmd) : (s.setCmd x).treqs = s.treqs := rfl
@[simp] theorem setCmd_proofs (s : State) (x : Cmd) : (s.setCmd x).proofs = s.proofs := rfl
@[simp] theorem setCmd_parts (s : State) (x : Cmd) : (s.setCmd x).parts = s.parts := rfl
@[simp] theorem setCmd_hws (s : State) (x : Cmd) : (s.setCmd x).hws = s.hws := rfl
@[simp] theorem setCmd_pendq (s : State) (x : Cmd) : (s.setCmd x).pendq = s.pendq := rfl
@[simp] theorem setCmd_preempts (s : State) (x : Cmd) : (s.setCmd x).preempts = s.preempts := rfl
@[simp] theorem setCmd_saved (s : State) (x : Cmd) : (s.setCmd x).saved = s.saved := rfl
@[simp] theorem setCmd_modules (s : State) (x : Cmd) : (s.setCmd x).modules = s.modules := rfl
@[simp] theorem setCmd_tx (s : State) (x : Cmd) : (s.setCmd x).tx = s.tx := rfl
@[simp] theorem setCmd_rx (s : State) (x : Cmd) : (s.setCmd x).rx = s.rx := rfl
@[simp] theorem setCmd_wire (s : State) (x : Cmd) : (s.setCmd x).wire = s.wire := rfl
@[simp] theorem setCmd_grants (s : State) (x : Cmd) : (s.setCmd x).grants = s.grants := rfl
@[simp] theorem setCmd_given (s : State) (x : Cmd) : (s.setCmd x).given = s.given := rfl
@[simp] theorem setCmd_grantWait (s : State) (x : Cmd) : (s.setCmd x).grantWait = s.grantWait := rfl
@[simp] theorem setCmd_sockets (s : State) (x : Cmd) : (s.setCmd x).sockets = s.sockets := rfl
@[simp] theorem setCmd_lanes (s : State) (x : Cmd) : (s.setCmd x).lanes = s.lanes := rfl
@[simp] theorem setCmd_fevput (s : State) (x : Cmd) : (s.setCmd x).fevput = s.fevput := rfl
@[simp] theorem setCmd_fevget (s : State) (x : Cmd) : (s.setCmd x).fevget = s.fevget := rfl
@[simp] theorem setCmd_fevhovf (s : State) (x : Cmd) : (s.setCmd x).fevhovf = s.fevhovf := rfl
@[simp] theorem setCmd_fevrec (s : State) (x : Cmd) : (s.setCmd x).fevrec = s.fevrec := rfl
@[simp] theorem setCmd_eseq (s : State) (x : Cmd) : (s.setCmd x).eseq = s.eseq := rfl
@[simp] theorem setCmd_out (s : State) (x : Cmd) : (s.setCmd x).out = s.out := rfl
@[simp] theorem setCmd_asks (s : State) (x : Cmd) : (s.setCmd x).asks = s.asks := rfl
@[simp] theorem setCmd_granted (s : State) (x : Cmd) : (s.setCmd x).granted = s.granted := rfl
@[simp] theorem setCmd_hostq (s : State) (x : Cmd) : (s.setCmd x).hostq = s.hostq := rfl
@[simp] theorem setCmd_ppw (s : State) (x : Cmd) : (s.setCmd x).ppw = s.ppw := rfl
@[simp] theorem setCmd_cadence (s : State) (x : Cmd) : (s.setCmd x).cadence = s.cadence := rfl
@[simp] theorem setCmd_boot (s : State) (x : Cmd) : (s.setCmd x).boot = s.boot := rfl

/-! ### setReq -/

@[simp] theorem setReq_cycle (s : State) (r : Req) : (s.setReq r).cycle = s.cycle := rfl
@[simp] theorem setReq_time (s : State) (r : Req) : (s.setReq r).time = s.time := rfl
@[simp] theorem setReq_issues (s : State) (r : Req) : (s.setReq r).issues = s.issues := rfl
@[simp] theorem setReq_agenda (s : State) (r : Req) : (s.setReq r).agenda = s.agenda := rfl
@[simp] theorem setReq_plan (s : State) (r : Req) : (s.setReq r).plan = s.plan := rfl
@[simp] theorem setReq_cur (s : State) (r : Req) : (s.setReq r).cur = s.cur := rfl
@[simp] theorem setReq_uid (s : State) (r : Req) : (s.setReq r).uid = s.uid := rfl
@[simp] theorem setReq_fresh (s : State) (r : Req) : (s.setReq r).fresh = s.fresh := rfl
@[simp] theorem setReq_mem (s : State) (r : Req) : (s.setReq r).mem = s.mem := rfl
@[simp] theorem setReq_poison (s : State) (r : Req) : (s.setReq r).poison = s.poison := rfl
@[simp] theorem setReq_scrub (s : State) (r : Req) : (s.setReq r).scrub = s.scrub := rfl
@[simp] theorem setReq_groups (s : State) (r : Req) : (s.setReq r).groups = s.groups := rfl
@[simp] theorem setReq_teams (s : State) (r : Req) : (s.setReq r).teams = s.teams := rfl
@[simp] theorem setReq_launches (s : State) (r : Req) : (s.setReq r).launches = s.launches := rfl
@[simp] theorem setReq_commits (s : State) (r : Req) : (s.setReq r).commits = s.commits := rfl
@[simp] theorem setReq_locals (s : State) (r : Req) : (s.setReq r).locals = s.locals := rfl
@[simp] theorem setReq_locks (s : State) (r : Req) : (s.setReq r).locks = s.locks := rfl
@[simp] theorem setReq_lockReqs (s : State) (r : Req) : (s.setReq r).lockReqs = s.lockReqs := rfl
@[simp] theorem setReq_chases (s : State) (r : Req) : (s.setReq r).chases = s.chases := rfl
@[simp] theorem setReq_mats (s : State) (r : Req) : (s.setReq r).mats = s.mats := rfl
@[simp] theorem setReq_arrayFree (s : State) (r : Req) : (s.setReq r).arrayFree = s.arrayFree := rfl
@[simp] theorem setReq_ligs (s : State) (r : Req) : (s.setReq r).ligs = s.ligs := rfl
@[simp] theorem setReq_ligOps (s : State) (r : Req) : (s.setReq r).ligOps = s.ligOps := rfl
@[simp] theorem setReq_cmds (s : State) (r : Req) : (s.setReq r).cmds = s.cmds := rfl
@[simp] theorem setReq_hints (s : State) (r : Req) : (s.setReq r).hints = s.hints := rfl
@[simp] theorem setReq_cached (s : State) (r : Req) : (s.setReq r).cached = s.cached := rfl
@[simp] theorem setReq_tready (s : State) (r : Req) : (s.setReq r).tready = s.tready := rfl
@[simp] theorem setReq_tpending (s : State) (r : Req) : (s.setReq r).tpending = s.tpending := rfl
@[simp] theorem setReq_ttransit (s : State) (r : Req) : (s.setReq r).ttransit = s.ttransit := rfl
@[simp] theorem setReq_treqs (s : State) (r : Req) : (s.setReq r).treqs = s.treqs := rfl
@[simp] theorem setReq_proofs (s : State) (r : Req) : (s.setReq r).proofs = s.proofs := rfl
@[simp] theorem setReq_parts (s : State) (r : Req) : (s.setReq r).parts = s.parts := rfl
@[simp] theorem setReq_hws (s : State) (r : Req) : (s.setReq r).hws = s.hws := rfl
@[simp] theorem setReq_pendq (s : State) (r : Req) : (s.setReq r).pendq = s.pendq := rfl
@[simp] theorem setReq_preempts (s : State) (r : Req) : (s.setReq r).preempts = s.preempts := rfl
@[simp] theorem setReq_saved (s : State) (r : Req) : (s.setReq r).saved = s.saved := rfl
@[simp] theorem setReq_modules (s : State) (r : Req) : (s.setReq r).modules = s.modules := rfl
@[simp] theorem setReq_tx (s : State) (r : Req) : (s.setReq r).tx = s.tx := rfl
@[simp] theorem setReq_rx (s : State) (r : Req) : (s.setReq r).rx = s.rx := rfl
@[simp] theorem setReq_wire (s : State) (r : Req) : (s.setReq r).wire = s.wire := rfl
@[simp] theorem setReq_grants (s : State) (r : Req) : (s.setReq r).grants = s.grants := rfl
@[simp] theorem setReq_given (s : State) (r : Req) : (s.setReq r).given = s.given := rfl
@[simp] theorem setReq_grantWait (s : State) (r : Req) : (s.setReq r).grantWait = s.grantWait := rfl
@[simp] theorem setReq_sockets (s : State) (r : Req) : (s.setReq r).sockets = s.sockets := rfl
@[simp] theorem setReq_lanes (s : State) (r : Req) : (s.setReq r).lanes = s.lanes := rfl
@[simp] theorem setReq_fevput (s : State) (r : Req) : (s.setReq r).fevput = s.fevput := rfl
@[simp] theorem setReq_fevget (s : State) (r : Req) : (s.setReq r).fevget = s.fevget := rfl
@[simp] theorem setReq_fevhovf (s : State) (r : Req) : (s.setReq r).fevhovf = s.fevhovf := rfl
@[simp] theorem setReq_fevrec (s : State) (r : Req) : (s.setReq r).fevrec = s.fevrec := rfl
@[simp] theorem setReq_eseq (s : State) (r : Req) : (s.setReq r).eseq = s.eseq := rfl
@[simp] theorem setReq_out (s : State) (r : Req) : (s.setReq r).out = s.out := rfl
@[simp] theorem setReq_asks (s : State) (r : Req) : (s.setReq r).asks = s.asks := rfl
@[simp] theorem setReq_granted (s : State) (r : Req) : (s.setReq r).granted = s.granted := rfl
@[simp] theorem setReq_hostq (s : State) (r : Req) : (s.setReq r).hostq = s.hostq := rfl
@[simp] theorem setReq_ppw (s : State) (r : Req) : (s.setReq r).ppw = s.ppw := rfl
@[simp] theorem setReq_cadence (s : State) (r : Req) : (s.setReq r).cadence = s.cadence := rfl
@[simp] theorem setReq_boot (s : State) (r : Req) : (s.setReq r).boot = s.boot := rfl

/-! ### msix -/

@[simp] theorem msix_cycle (s : State) (v : Nat) : (s.msix v).cycle = s.cycle := rfl
@[simp] theorem msix_time (s : State) (v : Nat) : (s.msix v).time = s.time := rfl
@[simp] theorem msix_issues (s : State) (v : Nat) : (s.msix v).issues = s.issues := rfl
@[simp] theorem msix_agenda (s : State) (v : Nat) : (s.msix v).agenda = s.agenda := rfl
@[simp] theorem msix_plan (s : State) (v : Nat) : (s.msix v).plan = s.plan := rfl
@[simp] theorem msix_cur (s : State) (v : Nat) : (s.msix v).cur = s.cur := rfl
@[simp] theorem msix_uid (s : State) (v : Nat) : (s.msix v).uid = s.uid := rfl
@[simp] theorem msix_fresh (s : State) (v : Nat) : (s.msix v).fresh = s.fresh := rfl
@[simp] theorem msix_mem (s : State) (v : Nat) : (s.msix v).mem = s.mem := rfl
@[simp] theorem msix_poison (s : State) (v : Nat) : (s.msix v).poison = s.poison := rfl
@[simp] theorem msix_scrub (s : State) (v : Nat) : (s.msix v).scrub = s.scrub := rfl
@[simp] theorem msix_groups (s : State) (v : Nat) : (s.msix v).groups = s.groups := rfl
@[simp] theorem msix_teams (s : State) (v : Nat) : (s.msix v).teams = s.teams := rfl
@[simp] theorem msix_launches (s : State) (v : Nat) : (s.msix v).launches = s.launches := rfl
@[simp] theorem msix_commits (s : State) (v : Nat) : (s.msix v).commits = s.commits := rfl
@[simp] theorem msix_locals (s : State) (v : Nat) : (s.msix v).locals = s.locals := rfl
@[simp] theorem msix_locks (s : State) (v : Nat) : (s.msix v).locks = s.locks := rfl
@[simp] theorem msix_lockReqs (s : State) (v : Nat) : (s.msix v).lockReqs = s.lockReqs := rfl
@[simp] theorem msix_chases (s : State) (v : Nat) : (s.msix v).chases = s.chases := rfl
@[simp] theorem msix_mats (s : State) (v : Nat) : (s.msix v).mats = s.mats := rfl
@[simp] theorem msix_arrayFree (s : State) (v : Nat) : (s.msix v).arrayFree = s.arrayFree := rfl
@[simp] theorem msix_ligs (s : State) (v : Nat) : (s.msix v).ligs = s.ligs := rfl
@[simp] theorem msix_ligOps (s : State) (v : Nat) : (s.msix v).ligOps = s.ligOps := rfl
@[simp] theorem msix_cmds (s : State) (v : Nat) : (s.msix v).cmds = s.cmds := rfl
@[simp] theorem msix_reqs (s : State) (v : Nat) : (s.msix v).reqs = s.reqs := rfl
@[simp] theorem msix_hints (s : State) (v : Nat) : (s.msix v).hints = s.hints := rfl
@[simp] theorem msix_cached (s : State) (v : Nat) : (s.msix v).cached = s.cached := rfl
@[simp] theorem msix_tready (s : State) (v : Nat) : (s.msix v).tready = s.tready := rfl
@[simp] theorem msix_tpending (s : State) (v : Nat) : (s.msix v).tpending = s.tpending := rfl
@[simp] theorem msix_ttransit (s : State) (v : Nat) : (s.msix v).ttransit = s.ttransit := rfl
@[simp] theorem msix_treqs (s : State) (v : Nat) : (s.msix v).treqs = s.treqs := rfl
@[simp] theorem msix_proofs (s : State) (v : Nat) : (s.msix v).proofs = s.proofs := rfl
@[simp] theorem msix_parts (s : State) (v : Nat) : (s.msix v).parts = s.parts := rfl
@[simp] theorem msix_hws (s : State) (v : Nat) : (s.msix v).hws = s.hws := rfl
@[simp] theorem msix_pendq (s : State) (v : Nat) : (s.msix v).pendq = s.pendq := rfl
@[simp] theorem msix_preempts (s : State) (v : Nat) : (s.msix v).preempts = s.preempts := rfl
@[simp] theorem msix_saved (s : State) (v : Nat) : (s.msix v).saved = s.saved := rfl
@[simp] theorem msix_modules (s : State) (v : Nat) : (s.msix v).modules = s.modules := rfl
@[simp] theorem msix_tx (s : State) (v : Nat) : (s.msix v).tx = s.tx := rfl
@[simp] theorem msix_rx (s : State) (v : Nat) : (s.msix v).rx = s.rx := rfl
@[simp] theorem msix_wire (s : State) (v : Nat) : (s.msix v).wire = s.wire := rfl
@[simp] theorem msix_grants (s : State) (v : Nat) : (s.msix v).grants = s.grants := rfl
@[simp] theorem msix_given (s : State) (v : Nat) : (s.msix v).given = s.given := rfl
@[simp] theorem msix_grantWait (s : State) (v : Nat) : (s.msix v).grantWait = s.grantWait := rfl
@[simp] theorem msix_sockets (s : State) (v : Nat) : (s.msix v).sockets = s.sockets := rfl
@[simp] theorem msix_lanes (s : State) (v : Nat) : (s.msix v).lanes = s.lanes := rfl
@[simp] theorem msix_fevput (s : State) (v : Nat) : (s.msix v).fevput = s.fevput := rfl
@[simp] theorem msix_fevget (s : State) (v : Nat) : (s.msix v).fevget = s.fevget := rfl
@[simp] theorem msix_fevhovf (s : State) (v : Nat) : (s.msix v).fevhovf = s.fevhovf := rfl
@[simp] theorem msix_fevrec (s : State) (v : Nat) : (s.msix v).fevrec = s.fevrec := rfl
@[simp] theorem msix_eseq (s : State) (v : Nat) : (s.msix v).eseq = s.eseq := rfl
@[simp] theorem msix_out (s : State) (v : Nat) : (s.msix v).out = s.out := rfl
@[simp] theorem msix_asks (s : State) (v : Nat) : (s.msix v).asks = s.asks := rfl
@[simp] theorem msix_granted (s : State) (v : Nat) : (s.msix v).granted = s.granted := rfl
@[simp] theorem msix_hostq (s : State) (v : Nat) : (s.msix v).hostq = s.hostq := rfl
@[simp] theorem msix_ppw (s : State) (v : Nat) : (s.msix v).ppw = s.ppw := rfl
@[simp] theorem msix_cadence (s : State) (v : Nat) : (s.msix v).cadence = s.cadence := rfl

/-! ### launchLocals -/

@[simp] theorem launchLocals_cycle (s : State) (ls : List Local) : (s.launchLocals ls).cycle = s.cycle := rfl
@[simp] theorem launchLocals_time (s : State) (ls : List Local) : (s.launchLocals ls).time = s.time := rfl
@[simp] theorem launchLocals_issues (s : State) (ls : List Local) : (s.launchLocals ls).issues = s.issues := rfl
@[simp] theorem launchLocals_agenda (s : State) (ls : List Local) : (s.launchLocals ls).agenda = s.agenda := rfl
@[simp] theorem launchLocals_plan (s : State) (ls : List Local) : (s.launchLocals ls).plan = s.plan := rfl
@[simp] theorem launchLocals_cur (s : State) (ls : List Local) : (s.launchLocals ls).cur = s.cur := rfl
@[simp] theorem launchLocals_uid (s : State) (ls : List Local) : (s.launchLocals ls).uid = s.uid := rfl
@[simp] theorem launchLocals_fresh (s : State) (ls : List Local) : (s.launchLocals ls).fresh = s.fresh := rfl
@[simp] theorem launchLocals_mem (s : State) (ls : List Local) : (s.launchLocals ls).mem = s.mem := rfl
@[simp] theorem launchLocals_poison (s : State) (ls : List Local) : (s.launchLocals ls).poison = s.poison := rfl
@[simp] theorem launchLocals_scrub (s : State) (ls : List Local) : (s.launchLocals ls).scrub = s.scrub := rfl
@[simp] theorem launchLocals_groups (s : State) (ls : List Local) : (s.launchLocals ls).groups = s.groups := rfl
@[simp] theorem launchLocals_teams (s : State) (ls : List Local) : (s.launchLocals ls).teams = s.teams := rfl
@[simp] theorem launchLocals_launches (s : State) (ls : List Local) : (s.launchLocals ls).launches = s.launches := rfl
@[simp] theorem launchLocals_commits (s : State) (ls : List Local) : (s.launchLocals ls).commits = s.commits := rfl
@[simp] theorem launchLocals_locks (s : State) (ls : List Local) : (s.launchLocals ls).locks = s.locks := rfl
@[simp] theorem launchLocals_lockReqs (s : State) (ls : List Local) : (s.launchLocals ls).lockReqs = s.lockReqs := rfl
@[simp] theorem launchLocals_chases (s : State) (ls : List Local) : (s.launchLocals ls).chases = s.chases := rfl
@[simp] theorem launchLocals_mats (s : State) (ls : List Local) : (s.launchLocals ls).mats = s.mats := rfl
@[simp] theorem launchLocals_arrayFree (s : State) (ls : List Local) : (s.launchLocals ls).arrayFree = s.arrayFree := rfl
@[simp] theorem launchLocals_ligs (s : State) (ls : List Local) : (s.launchLocals ls).ligs = s.ligs := rfl
@[simp] theorem launchLocals_ligOps (s : State) (ls : List Local) : (s.launchLocals ls).ligOps = s.ligOps := rfl
@[simp] theorem launchLocals_cmds (s : State) (ls : List Local) : (s.launchLocals ls).cmds = s.cmds := rfl
@[simp] theorem launchLocals_reqs (s : State) (ls : List Local) : (s.launchLocals ls).reqs = s.reqs := rfl
@[simp] theorem launchLocals_hints (s : State) (ls : List Local) : (s.launchLocals ls).hints = s.hints := rfl
@[simp] theorem launchLocals_cached (s : State) (ls : List Local) : (s.launchLocals ls).cached = s.cached := rfl
@[simp] theorem launchLocals_tready (s : State) (ls : List Local) : (s.launchLocals ls).tready = s.tready := rfl
@[simp] theorem launchLocals_tpending (s : State) (ls : List Local) : (s.launchLocals ls).tpending = s.tpending := rfl
@[simp] theorem launchLocals_ttransit (s : State) (ls : List Local) : (s.launchLocals ls).ttransit = s.ttransit := rfl
@[simp] theorem launchLocals_treqs (s : State) (ls : List Local) : (s.launchLocals ls).treqs = s.treqs := rfl
@[simp] theorem launchLocals_proofs (s : State) (ls : List Local) : (s.launchLocals ls).proofs = s.proofs := rfl
@[simp] theorem launchLocals_parts (s : State) (ls : List Local) : (s.launchLocals ls).parts = s.parts := rfl
@[simp] theorem launchLocals_hws (s : State) (ls : List Local) : (s.launchLocals ls).hws = s.hws := rfl
@[simp] theorem launchLocals_pendq (s : State) (ls : List Local) : (s.launchLocals ls).pendq = s.pendq := rfl
@[simp] theorem launchLocals_preempts (s : State) (ls : List Local) : (s.launchLocals ls).preempts = s.preempts := rfl
@[simp] theorem launchLocals_saved (s : State) (ls : List Local) : (s.launchLocals ls).saved = s.saved := rfl
@[simp] theorem launchLocals_modules (s : State) (ls : List Local) : (s.launchLocals ls).modules = s.modules := rfl
@[simp] theorem launchLocals_tx (s : State) (ls : List Local) : (s.launchLocals ls).tx = s.tx := rfl
@[simp] theorem launchLocals_rx (s : State) (ls : List Local) : (s.launchLocals ls).rx = s.rx := rfl
@[simp] theorem launchLocals_wire (s : State) (ls : List Local) : (s.launchLocals ls).wire = s.wire := rfl
@[simp] theorem launchLocals_grants (s : State) (ls : List Local) : (s.launchLocals ls).grants = s.grants := rfl
@[simp] theorem launchLocals_given (s : State) (ls : List Local) : (s.launchLocals ls).given = s.given := rfl
@[simp] theorem launchLocals_grantWait (s : State) (ls : List Local) : (s.launchLocals ls).grantWait = s.grantWait := rfl
@[simp] theorem launchLocals_sockets (s : State) (ls : List Local) : (s.launchLocals ls).sockets = s.sockets := rfl
@[simp] theorem launchLocals_lanes (s : State) (ls : List Local) : (s.launchLocals ls).lanes = s.lanes := rfl
@[simp] theorem launchLocals_fevput (s : State) (ls : List Local) : (s.launchLocals ls).fevput = s.fevput := rfl
@[simp] theorem launchLocals_fevget (s : State) (ls : List Local) : (s.launchLocals ls).fevget = s.fevget := rfl
@[simp] theorem launchLocals_fevhovf (s : State) (ls : List Local) : (s.launchLocals ls).fevhovf = s.fevhovf := rfl
@[simp] theorem launchLocals_fevrec (s : State) (ls : List Local) : (s.launchLocals ls).fevrec = s.fevrec := rfl
@[simp] theorem launchLocals_eseq (s : State) (ls : List Local) : (s.launchLocals ls).eseq = s.eseq := rfl
@[simp] theorem launchLocals_out (s : State) (ls : List Local) : (s.launchLocals ls).out = s.out := rfl
@[simp] theorem launchLocals_asks (s : State) (ls : List Local) : (s.launchLocals ls).asks = s.asks := rfl
@[simp] theorem launchLocals_granted (s : State) (ls : List Local) : (s.launchLocals ls).granted = s.granted := rfl
@[simp] theorem launchLocals_hostq (s : State) (ls : List Local) : (s.launchLocals ls).hostq = s.hostq := rfl
@[simp] theorem launchLocals_ppw (s : State) (ls : List Local) : (s.launchLocals ls).ppw = s.ppw := rfl
@[simp] theorem launchLocals_cadence (s : State) (ls : List Local) : (s.launchLocals ls).cadence = s.cadence := rfl
@[simp] theorem launchLocals_boot (s : State) (ls : List Local) : (s.launchLocals ls).boot = s.boot := rfl

/-! ### Records put back -/

theorem find?_replaceBy {α : Type} (p q : α → Bool) (x : α) (ys : List α) (h : ∀ y, q y = true → p y = false) (hx : q x = false) :
    (replaceBy p x ys).find? q = ys.find? q := by
  induction ys with
  | nil => rfl
  | cons y ys ih =>
    simp only [replaceBy]
    by_cases hp : p y = true
    · have : q y = false := by
        cases hq : q y with
        | false => rfl
        | true => rw [h y hq] at hp; cases hp
      simp [hp, this, hx]
    · simp only [hp, Bool.false_eq_true, if_false, List.find?_cons, ih]

theorem find?_replaceBy_self {α : Type} (p : α → Bool) (x : α) (ys : List α) (hx : p x = true) :
    (replaceBy p x ys).find? p = (ys.find? p).map fun _ => x := by
  induction ys with
  | nil => rfl
  | cons y ys ih =>
    simp only [replaceBy]
    by_cases hp : p y = true
    · simp [hp, hx]
    · simp [hp, ih]

/-- A group put back is found in its slot. -/
theorem group?_setGroup_self {s : State} {g h : Group} (e : s.group? g.core g.slot = some h) :
    (s.setGroup g).group? g.core g.slot = some g := by
  unfold State.group? State.setGroup at *
  rw [find?_replaceBy_self _ _ _ (by simp), e]; rfl

/-- Every other slot is as before. -/
theorem group?_setGroup_other {s : State} {g : Group} {k n : Nat} (e : ¬ (k = g.core ∧ n = g.slot)) :
    (s.setGroup g).group? k n = s.group? k n := by
  unfold State.group? State.setGroup
  refine find?_replaceBy _ _ _ _ (fun y hy => ?_) ?_
  · simp only [Bool.and_eq_true, beq_iff_eq] at hy
    simp only [Bool.and_eq_false_iff, beq_eq_false_iff_ne]
    omega
  · simp only [Bool.and_eq_false_iff, beq_eq_false_iff_ne]
    omega

/-- A group found in a slot stands there. -/
theorem group?_slot {s : State} {k n : Nat} {g : Group} (e : s.group? k n = some g) : g.core = k ∧ g.slot = n := by
  have := List.find?_some e
  simpa using this

/-- A proof core put back is found. -/
theorem proof_setProof_self (s : State) (p : ProofCore) : (s.setProof p).proof p.cluster = p := by
  unfold State.proof State.setProof
  dsimp only
  split
  · rename_i h
    rw [find?_replaceBy_self _ _ _ (by simp)]
    obtain ⟨q, hq, hc⟩ := List.any_eq_true.1 h
    cases e : s.proofs.find? (·.cluster == p.cluster) with
    | none => rw [List.find?_eq_none] at e; exact absurd hc (e q hq)
    | some q => rfl
  · rename_i h
    have : s.proofs.find? (·.cluster == p.cluster) = none := by
      rw [List.find?_eq_none]
      intro q hq hc
      exact h (List.any_eq_true.2 ⟨q, hq, hc⟩)
    simp [List.find?_append, this]

/-- Every other proof core is as before. -/
theorem proof_setProof_other {s : State} {p : ProofCore} {k : Nat} (e : k ≠ p.cluster) : (s.setProof p).proof k = s.proof k := by
  unfold State.proof State.setProof
  dsimp only
  split
  · rw [find?_replaceBy]
    · intro y hy
      simp only [beq_iff_eq] at hy
      simp only [beq_eq_false_iff_ne]
      omega
    · simp only [beq_eq_false_iff_ne]; omega
  · have : (p.cluster == k) = false := by simp only [beq_eq_false_iff_ne]; omega
    simp [List.find?_append, this]

theorem proof_cluster (s : State) (k : Nat) : (s.proof k).cluster = k := by
  unfold State.proof
  cases e : s.proofs.find? (·.cluster == k) with
  | none => rfl
  | some q => have := List.find?_some e; simpa using this

end Sys2Proof.Machine
end

