-- ==== Sys2Proof/Laws/Ops.lean ====
section
/-! SUPPORT. Laws of the shared operations: who may issue, what a completion, a trap and a wait leave alone, what a write of a
register does, and when the checks of an access go on. -/

namespace Sys2Proof.Machine

/-! ### Who may issue -/

theorem GroupIssuing.issuing {s : State} {c : Cur} {g : Group} (h : s.GroupIssuing c g) : s.Issuing c := by
  refine ⟨h.1, ?_⟩
  rw [h.2.1]
  simp [h.2.2]

theorem ProofIssuing.issuing {s : State} {c : Cur} {k : Nat} (h : s.ProofIssuing c k) : s.Issuing c := by
  refine ⟨h.1, ?_⟩
  rw [h.2]
  trivial

/-- An instruction of both kinds of agent runs. -/
theorem withAgent_issuing {s : State} {c : Cur} (h : s.Issuing c) (k : Cur → State) : withAgent s k = .next (k c) := by
  obtain ⟨h, h2⟩ := h
  unfold withAgent
  rw [h]
  dsimp only
  split
  · rfl
  · rename_i e
    rw [e] at h2
    dsimp only at h2
    split
    · rename_i e2; rw [e2] at h2; cases h2
    · rfl

/-- An instruction of groups runs on a group. -/
theorem withGroup_group {s : State} {c : Cur} {g : Group} (h : s.GroupIssuing c g) (k : Cur → Group → State) :
    withGroup s k = .next (k c g) := by
  obtain ⟨h, h2, h3⟩ := h
  unfold withGroup
  simp only [h, h2, h3]

/-- It halts a proof core. -/
theorem withGroup_proof {s : State} {c : Cur} {p : Nat} (h : s.ProofIssuing c p) (k : Cur → Group → State) :
    withGroup s k = .next (s.trap c cILLOP) := by
  obtain ⟨h, h2⟩ := h
  unfold withGroup
  simp only [h, h2]

/-- A privileged instruction runs on a proof core. -/
theorem withProof_proof {s : State} {c : Cur} {p : Nat} (h : s.ProofIssuing c p) (k : Cur → ProofCore → State) :
    withProof s k = .next (k c (s.proof p)) := by
  obtain ⟨h, h2⟩ := h
  unfold withProof
  simp only [h, h2]

/-- It takes PRIV on a group. -/
theorem withProof_group {s : State} {c : Cur} {g : Group} (h : s.GroupIssuing c g) (k : Cur → ProofCore → State) :
    withProof s k = .next (s.trap c cPRIV) := by
  obtain ⟨h, h2, h3⟩ := h
  unfold withProof
  simp only [h, h2, h3]

/-- What an instruction of both kinds of agent can answer. -/
theorem withAgent_next {s t : State} {k : Cur → State} (h : withAgent s k = .next t) : ∃ c, s.Issuing c ∧ t = k c := by
  unfold withAgent at h
  split at h
  · cases h
  · rename_i c e
    split at h
    · rename_i p ea
      cases h
      exact ⟨c, ⟨e, by rw [ea]; trivial⟩, rfl⟩
    · rename_i a b ea
      split at h
      · cases h
      · rename_i g eg
        cases h
        exact ⟨c, ⟨e, by rw [ea]; simp [eg]⟩, rfl⟩

/-- What an instruction of groups can answer. -/
theorem withGroup_next {s t : State} {k : Cur → Group → State} (h : withGroup s k = .next t) :
    ∃ c, (∃ p, s.ProofIssuing c p ∧ t = s.trap c cILLOP) ∨ ∃ g, s.GroupIssuing c g ∧ t = k c g := by
  unfold withGroup at h
  split at h
  · cases h
  · rename_i c e
    split at h
    · rename_i p ea
      cases h
      exact ⟨c, .inl ⟨p, ⟨e, ea⟩, rfl⟩⟩
    · rename_i a b ea
      split at h
      · cases h
      · rename_i g eg
        cases h
        have := group?_slot eg
        exact ⟨c, .inr ⟨g, ⟨e, by rw [ea, this.1, this.2], by rw [this.1, this.2, eg]⟩, rfl⟩⟩

/-- What a privileged instruction can answer. -/
theorem withProof_next {s t : State} {k : Cur → ProofCore → State} (h : withProof s k = .next t) :
    ∃ c, (∃ g, s.GroupIssuing c g ∧ t = s.trap c cPRIV) ∨ ∃ p, s.ProofIssuing c p ∧ t = k c (s.proof p) := by
  unfold withProof at h
  split at h
  · cases h
  · rename_i c e
    split at h
    · rename_i p ea
      cases h
      exact ⟨c, .inr ⟨p, ⟨e, ea⟩, rfl⟩⟩
    · rename_i a b ea
      split at h
      · cases h
      · rename_i g eg
        cases h
        have := group?_slot eg
        exact ⟨c, .inl ⟨g, ⟨e, by rw [ea, this.1, this.2], by rw [this.1, this.2, eg]⟩, rfl⟩⟩

/-! ### What leaves memory alone -/

@[simp] theorem halt_mem (s : State) (c : Nat) : (s.halt c).mem = s.mem := rfl

@[simp] theorem queueRecord_mem (s : State) (c : Nat) (b : Bool) (r : TrapRec) : (s.queueRecord c b r).mem = s.mem := by
  unfold State.queueRecord
  dsimp only
  split <;> rfl

@[simp] theorem settleTrap_mem (s : State) (k n : Nat) : (s.settleTrap k n).mem = s.mem := by
  unfold State.settleTrap
  split
  · split
    · split
      · simp
      · rfl
    · rfl
  · rfl

@[simp] theorem trapAt_mem (s : State) (c : Cur) (pc : DWord) (cause code : Nat) (x y : DWord) :
    (s.trapAt c pc cause code x y).mem = s.mem := by
  unfold State.trapAt
  split
  · rfl
  · split
    · rfl
    · simp

@[simp] theorem trap_mem (s : State) (c : Cur) (cause : Nat) : (s.trap c cause).mem = s.mem := trapAt_mem ..

@[simp] theorem setPc_mem (s : State) (a : Agent) (pc : DWord) : (s.setPc a pc).mem = s.mem := by
  unfold State.setPc
  split
  · rfl
  · split <;> rfl

@[simp] theorem goTo_mem (s : State) (c : Cur) (pc : DWord) : (s.goTo c pc).mem = s.mem := setPc_mem ..

@[simp] theorem tailTrap_mem (s : State) (c : Cur) : (s.tailTrap c).mem = s.mem := by
  unfold State.tailTrap
  split <;> simp

@[simp] theorem finish_mem (s : State) (c : Cur) : (s.finish c).mem = s.mem := by
  simp [State.finish]

@[simp] theorem resume_mem (s : State) (c : Cur) : (s.resume c).mem = s.mem := by
  unfold State.resume
  split
  · simp
  · split
    · simp
    · rfl

@[simp] theorem wait_mem (s : State) (c : Cur) (w : Wait) : (s.wait c w).mem = s.mem := by
  unfold State.wait
  split
  · split <;> rfl
  · rfl

@[simp] theorem unissue_mem (s : State) (c : Cur) : (s.unissue c).mem = s.mem := by
  unfold State.unissue
  split
  · split <;> rfl
  · rfl

@[simp] theorem waitAgain_mem (s : State) (c : Cur) (w : Wait) : (s.waitAgain c w).mem = s.mem := by
  unfold State.waitAgain
  simp

@[simp] theorem retryAt_mem (s : State) (c : Cur) (t : Nat) : (s.retryAt c t).mem = s.mem := by
  unfold State.retryAt
  split
  · split <;> rfl
  · rfl

@[simp] theorem wake_mem (s : State) (g : Group) : (s.wake g).mem = s.mem := rfl
@[simp] theorem pwait_mem (s : State) (k : Nat) (w : PWait) : (s.pwait k w).mem = s.mem := rfl

@[simp] theorem later_mem (s : State) (c : Cur) (lat la : Nat) (k : Commit → Commit) : (s.later c lat la k).mem = s.mem :=
  (tailTrap_mem ..).trans (goTo_mem ..)

@[simp] theorem raise_mem (s : State) (a : Agent) (f : Flags) : (s.raise a f).mem = s.mem := by
  unfold State.raise
  split
  · split <;> rfl
  · rfl

/-- A fold of an operation that leaves memory alone leaves it alone. -/
theorem foldl_mem {α : Type} (f : State → α → State) (h : ∀ s x, (f s x).mem = s.mem) (xs : List α) (s : State) :
    (xs.foldl f s).mem = s.mem := by
  induction xs generalizing s with
  | nil => rfl
  | cons x xs ih => rw [List.foldl_cons, ih, h]

@[simp] theorem release_mem (s : State) (gs : List Group) : (s.release gs).mem = s.mem := by
  unfold State.release
  refine foldl_mem _ (fun s g => ?_) gs s
  split <;> simp

@[simp] theorem barriers_mem (s : State) (team : Nat) : (s.barriers team).mem = s.mem := by
  unfold State.barriers
  split
  · rfl
  · dsimp only
    split <;> split <;> simp

@[simp] theorem stopGroup_mem (s : State) (k n : Nat) (x : StopKind) (r : Option TrapRec) : (s.stopGroup k n x r).mem = s.mem := by
  unfold State.stopGroup
  split <;> rfl

@[simp] theorem fire_mem (s : State) (word : Nat) : (s.fire word).mem = s.mem :=
  foldl_mem (fun s g => s.wake g) (fun _ _ => rfl) _ _

@[simp] theorem setHeld_mem (s : State) (a : Agent) (x : Option (Nat × Nat)) : (s.setHeld a x).mem = s.mem := by
  unfold State.setHeld
  split
  · split <;> rfl
  · rfl

@[simp] theorem unlocked_mem {s k : State} {c : Cur} (h : k.mem = s.mem) : (s.unlocked c k).mem = s.mem := by
  unfold State.unlocked
  split <;> simp [h]

@[simp] theorem ordered_mem {s k : State} {c : Cur} {rel : Bool} {lat : Nat} (h : k.mem = s.mem) :
    (s.ordered c rel lat k).mem = s.mem := by
  unfold State.ordered
  split <;> simp [h]

/-- What leaves memory alone keeps the invariant. -/
theorem inv_of_mem {s t : State} (h : s.Inv) (e : t.mem = s.mem) : t.Inv := by
  unfold State.Inv at *
  rw [e]
  exact h

/-! ### What a completion does to the issuing group -/

/-- The pc of a group is set, and nothing else of it but its fetch marks. -/
theorem setPc_group {s : State} {g : Group} (e : s.group? g.core g.slot = some g) (pc : DWord) :
    s.setPc (.group g.core g.slot) pc = s.setGroup { g with pc := pc, fresh := false, checkPc := false } := by
  unfold State.setPc
  simp only [e]

/-- Without a broken filler tail behind it, an instruction completes by going on at the next one. -/
theorem finish_whole (s : State) {c : Cur} (h : c.tail = none) : s.finish c = s.goTo c c.next := by
  unfold State.finish State.tailTrap
  simp only [h]
  rfl

/-- After completing without a broken tail the group stands in its slot with the next pc. -/
theorem finish_group {s : State} {c : Cur} {g : Group} (ha : c.agent = .group g.core g.slot)
    (e : s.group? g.core g.slot = some g) (h : c.tail = none) :
    (s.finish c).group? g.core g.slot = some { g with pc := c.next, fresh := false, checkPc := false } := by
  rw [finish_whole s h]
  unfold State.goTo
  rw [ha, setPc_group (by simpa [State.group?] using e)]
  exact group?_setGroup_self (h := g) (by simpa [State.group?] using e)

/-- Other groups are as before. -/
theorem finish_group_other {s : State} {c : Cur} {g : Group} (ha : c.agent = .group g.core g.slot)
    (e : s.group? g.core g.slot = some g) (h : c.tail = none) {k n : Nat} (o : ¬ (k = g.core ∧ n = g.slot)) :
    (s.finish c).group? k n = s.group? k n := by
  rw [finish_whole s h]
  unfold State.goTo
  rw [ha, setPc_group (by simpa [State.group?] using e), group?_setGroup_other (by simpa using o)]
  rfl

/-! ### Registers -/

/-- A group's scalar register is written by its bytes. -/
theorem setSregA_group {s : State} {g : Group} (e : s.group? g.core g.slot = some g) (r : Nat) (x : DWord) :
    s.setSregA (.group g.core g.slot) r x = s.write (g.scells r x) := by
  unfold State.setSregA
  simp only [e]

/-- Writing a scalar register of the issuing agent keeps the invariant. -/
theorem setSregA_inv {s : State} (h : s.Inv) (a : Agent) (r : Nat) (x : DWord) : (s.setSregA a r x).Inv := by
  unfold State.setSregA
  split
  · split
    · exact write_inv h
    · exact h
  · split <;> exact h

theorem putS_inv {s : State} (h : s.Inv) (c : Cur) (d : SReg) (x : Nat) : (s.putS c d x).Inv :=
  inv_of_mem (setSregA_inv h ..) (finish_mem ..)

theorem putV_inv {s : State} (h : s.Inv) (c : Cur) (g : Group) (d : Nat) (ls : List Nat) (f : Nat → Nat × Flags) :
    (s.putV c g d ls f).Inv := by
  unfold State.putV
  exact inv_of_mem (write_inv h) (by rw [finish_mem, raise_mem])

@[simp] theorem putM_mem (s : State) (c : Cur) (g : Group) (d : MReg) (x : DWord) : (s.putM c g d x).mem = s.mem := finish_mem ..

/-- Bytes of a scalar register. -/
theorem mem_scells {g : Group} {r : Nat} {x : DWord} {c : Host.Cell} (h : c ∈ g.scells r x) :
    r ≠ 0 ∧ g.skey r ≤ c.1 ∧ c.1 < g.skey r + 8 := by
  unfold Group.scells at h
  split at h
  · cases h
  · exact ⟨‹_›, mem_cellsLE h⟩

/-- Bytes of the lanes that an instruction writes. -/
theorem mem_laneCells {g : Group} {d : Nat} {rs : List (Nat × Nat)} {c : Host.Cell} (h : c ∈ g.laneCells d rs) :
    ∃ r ∈ rs, g.vkey d r.1 ≤ c.1 ∧ c.1 < g.vkey d r.1 + 4 := by
  unfold Group.laneCells at h
  obtain ⟨r, hr, hc⟩ := List.mem_flatMap.1 h
  exact ⟨r, hr, mem_cellsLE hc⟩

/-- A scalar register just written reads as what was written; s0 reads as zero. -/
theorem sreg_write {s : State} (h : s.Inv) (g : Group) {r : Nat} (hr : r ≠ 0) (x : DWord) :
    (s.write (g.scells r x)).sreg g r = x := by
  unfold State.sreg Group.scells
  rw [if_neg hr, if_neg hr, le_write h]
  apply BitVec.eq_of_toNat_eq
  simp only [BitVec.toNat_ofNat]
  have := x.isLt
  omega

@[simp] theorem sreg_zero (s : State) (g : Group) : s.sreg g 0 = 0 := rfl

/-- A lane just written reads back. -/
theorem vlane_write {s : State} (h : s.Inv) (g : Group) (v i x : Nat) : (s.write (g.vcells v i x)).vlane g v i = x % 2 ^ 32 :=
  le_write h

@[simp] theorem mask_zero (g : Group) : g.mask 0 = lanesMask g.width := rfl
@[simp] theorem setMask_zero (g : Group) (x : DWord) : g.setMask 0 x = g := rfl

/-- A mask just written reads back below the group's width. -/
theorem mask_setMask {g : Group} {m : MReg} (h : m ≠ 0) (x : DWord) : (g.setMask m x).mask m = x &&& lanesMask g.width := by
  unfold Group.setMask Group.mask
  rw [if_neg h, if_neg h]
  simp

/-- The other masks are as before. -/
theorem mask_setMask_other {g : Group} {m n : MReg} (h : n ≠ m) (x : DWord) : (g.setMask m x).mask n = g.mask n := by
  by_cases hm : m = 0
  · rw [hm, setMask_zero]
  · have : m.toNat ≠ n.toNat := fun e => h (BitVec.eq_of_toNat_eq e.symm)
    unfold Group.setMask Group.mask
    rw [if_neg hm]
    split
    · rfl
    · simp [this]

/-! ### Checks of accesses -/

/-- No lane fails a step of R181. -/
theorem laneFails_none {s : State} {g : Group} {acc : List Nat} {store plain8 : Bool} {n : Nat} {as : List (Nat × Nat)}
    (h : ∀ x ∈ as, s.addrStep g acc store plain8 x.2 n = 0) : s.laneFails g acc store plain8 n as = none := by
  have e : (as.map fun a => (a, s.addrStep g acc store plain8 a.2 n)).filter (·.2 != 0) = [] := by
    rw [List.filter_eq_nil_iff]
    intro x hx
    obtain ⟨y, hy, rfl⟩ := List.mem_map.1 hx
    simp [h y hy]
  unfold State.laneFails
  simp only [e]
  rfl

/-- Bytes that meet no poisoned word have no first one. -/
theorem badKey_none {s : State} {a n : Nat} (h : s.poisoned a n = false) : s.badKey a n = none := by
  unfold State.badKey
  rw [List.filter_eq_nil_iff.2 fun w hw => by
    have := List.any_eq_false.1 h w hw
    simpa using this]

/-- Runs of keys that meet no poisoned word read none. -/
theorem badRead_none {s : State} {rs : List (Nat × Nat)} (h : ∀ r ∈ rs, s.poisoned r.1 r.2 = false) : s.badRead rs = none := by
  unfold State.badRead
  rw [List.findSome?_eq_none_iff]
  intro r hr
  simp [badKey_none (h r hr)]

/-- An instruction that reads no uncorrectable word goes on (18 R390). -/
theorem sound_ok {s k : State} {c : Cur} {rs : List (Nat × Nat)} (h : ∀ r ∈ rs, s.poisoned r.1 r.2 = false) : s.sound c rs k = k := by
  unfold State.sound
  rw [badRead_none h]

/-- One that reads an uncorrectable word takes UNCORR with the granule's offset (18 R390). -/
theorem sound_bad {s k : State} {c : Cur} {rs : List (Nat × Nat)} {x : Nat} (h : s.badRead rs = some x) :
    s.sound c rs k = State.dropGrants (s.trapAt c c.pc cUNCORR 0 (.ofNat 64 x) 0) c.agent := by
  unfold State.sound
  rw [h]

/-- Lane accesses that pass every check go on. -/
theorem checked_ok {s : State} {c : Cur} {g : Group} {acc : List Nat} {store plain8 : Bool} {n : Nat} {as : List (Nat × Nat)}
    {k : State} (h : ∀ x ∈ as, s.addrStep g acc store plain8 x.2 n = 0) : s.checked c g acc store plain8 n as k = k := by
  unfold State.checked
  rw [laneFails_none h]

/-- R100 and R101 let an access issue that is late enough. -/
theorem ordered_ok {s k : State} {c : Cur} {rel : Bool} {lat : Nat} (h : s.orderHold c.agent rel lat ≤ s.cycle) :
    s.ordered c rel lat k = k := by
  unfold State.ordered
  rw [if_neg (Nat.not_lt.2 h)]

/-- An agent with no lock goes on. -/
theorem unlocked_ok {s k : State} {c : Cur} (h : s.heldLock c.agent = none) : s.unlocked c k = k := by
  unfold State.unlocked
  simp [h]

/-- An agent with a lock takes LOCK (R190). -/
theorem unlocked_held {s k : State} {c : Cur} {x : Nat × Nat} (h : s.heldLock c.agent = some x) : s.unlocked c k = s.trap c cLOCK := by
  unfold State.unlocked
  simp [h]

/-- An access that R100, R101 or R296 holds is tried again when they let it issue. -/
theorem ordered_held {s k : State} {c : Cur} {rel : Bool} {lat : Nat} (h : s.cycle < s.orderHold c.agent rel lat) :
    s.ordered c rel lat k = s.retryAt c (s.orderHold c.agent rel lat) := by
  unfold State.ordered
  rw [if_pos h]

/-- A group's scalar access that passes every check goes on at its key and latency. -/
theorem scalarAccess_group {s : State} {c : Cur} {g : Group} {acc : List Nat} {store plain8 : Bool} {addr n : Nat}
    {k : Nat → Nat → State} (hg : s.GroupIssuing c g) (h : s.addrStep g acc store plain8 addr n = 0) :
    s.scalarAccess c acc store plain8 addr n k = k (s.locate g addr).1 (s.locate g addr).2 := by
  unfold State.scalarAccess
  simp only [hg.2.1, hg.2.2]
  exact checked_ok (by simpa using h)

/-- A proof core's access inside its memory goes on. -/
theorem scalarAccess_proof {s : State} {c : Cur} {p : Nat} {acc : List Nat} {store plain8 : Bool} {addr n : Nat}
    {k : Nat → Nat → State} (hp : c.agent = .proof p) (h : addr % n = 0) (hb : addr + n ≤ 65536) :
    s.scalarAccess c acc store plain8 addr n k = k (proofKey p addr) 20 := by
  unfold State.scalarAccess
  simp only [hp]
  rw [if_neg (by omega)]

/-- A group's read at issue that is not held hands on the bytes when nothing of its own is pending over them. -/
theorem readAtIssue_ok {s : State} {c : Cur} {g : Group} {acc : List Nat} {rel : Bool} {addr n : Nat} {k : Nat → State}
    (h : s.addrStep g acc false false addr n = 0) (hr : s.poisoned (s.locate g addr).1 n = false)
    (ho : s.ownPending c.agent (s.locate g addr).1 n = false) (hq : s.opsOver c.agent (s.locate g addr).1 n = [])
    (ht : s.orderHold c.agent rel 2 ≤ s.cycle) : s.readAtIssue c g acc rel addr n k = k (s.le (s.locate g addr).1 n) := by
  unfold State.readAtIssue
  rw [checked_ok (by simpa using h)]
  simp only [ho, hq, ordered_ok ht]
  exact sound_ok (by simpa using hr)

end Sys2Proof.Machine
end

