-- ==== Sys2Proof/Laws/Fabric.lean ====
section
/-! SUPPORT. Laws of the streams, of a module's acceptance, of the registers that software clears bit by bit, and of a burst that crosses: its
flits pass the checks of its receiver. -/

namespace Sys2Proof.Machine

/-! ### Streams move no byte of memory -/

@[simp] theorem setTx_mem (s : State) (x : TxStream) : (s.setTx x).mem = s.mem := rfl

@[simp] theorem use_mem (s : State) (w : Way) : (s.use w).mem = s.mem := rfl

@[simp] theorem setRx_mem (s : State) (x : RxStream) : (s.setRx x).mem = s.mem := rfl

@[simp] theorem send_mem (s : State) (w : Way) (src dst stream vc : Nat) (cs : List Chunk) : (s.send w src dst stream vc cs).mem = s.mem := by
  unfold State.send
  dsimp only
  split <;> split <;> rfl

/-- A burst that goes out leaves memory as it is. -/
theorem emit_mem {s : State} {x : TxStream} {cs : List Chunk} {r : State × (Nat × Nat)} (h : s.emit x cs = some r) : r.1.mem = s.mem := by
  unfold State.emit at h
  rw [Option.map_eq_some_iff] at h
  obtain ⟨w, -, rfl⟩ := h
  exact send_mem ..

@[simp] theorem pump_mem (s : State) (n : Nat) (x : TxStream) : (s.pump n x).mem = s.mem := by
  induction n generalizing s x with
  | zero => exact setTx_mem ..
  | succ n ih =>
    unfold State.pump
    dsimp only
    split
    · exact setTx_mem ..
    · split
      · exact setTx_mem ..
      · rename_i h; rw [ih, emit_mem h]

@[simp] theorem queueChunks_mem (s : State) (x : TxStream) (cs : List Chunk) : (s.queueChunks x cs).mem = s.mem := pump_mem ..
@[simp] theorem respond_mem (s : State) (ep : Nat) (cs : List Chunk) : (s.respond ep cs).mem = s.mem := queueChunks_mem ..

theorem emitAgain_mem (s : State) (x : TxStream) (n : Nat) (cs : List Chunk) : (s.emitAgain x n cs).1.mem = s.mem := by
  induction n generalizing s cs with
  | zero => rfl
  | succ n ih =>
    unfold State.emitAgain
    split
    · rfl
    · split
      · rfl
      · rename_i h; dsimp only; rw [ih, emit_mem h]

@[simp] theorem resend_mem (s : State) (x : TxStream) (cs : List Chunk) : (s.resend x cs).mem = s.mem := by
  unfold State.resend
  simp [emitAgain_mem]

@[simp] theorem flow_mem (s : State) (p : TxStream → Bool) : (s.flow p).mem = s.mem := by
  unfold State.flow
  refine foldl_mem _ (fun s x => ?_) _ _
  dsimp only
  rw [pump_mem]
  split
  · exact resend_mem ..
  · rfl

/-! ### What a module does with a request that has reached it (16 R335, 17 R354) -/

theorem acceptReq_waits {s : State} {r : Req} (h : s.streamWaits r = true) (w : Answer) (k : State → Req → Nat → State) :
    s.acceptReq r w k = s := by simp [State.acceptReq, h]

theorem acceptReq_hint {s : State} {r : Req} {n : Nat} (h : s.streamWaits r = false) (h2 : s.streamHint r = some n) (w : Answer)
    (k : State → Req → Nat → State) : s.acceptReq r w k = s.refuseReq r n := by simp [State.acceptReq, h, h2]

theorem acceptReq_hot {s : State} {r : Req} {w : Answer} (h : s.streamWaits r = false) (h2 : s.streamHint r = none)
    (h3 : (s.module r.ep).step = 3 ∧ w.hint ≠ 0) (k : State → Req → Nat → State) : s.acceptReq r w k = s.refuseReq r 16 := by
  simp [State.acceptReq, h, h2, h3]

/-- A request in its turn, at a module that is not hot, ends as its page answers. -/
theorem acceptReq_page {s : State} {r : Req} {w : Answer} (h : s.streamWaits r = false) (h2 : s.streamHint r = none)
    (h3 : ¬ ((s.module r.ep).step = 3 ∧ w.hint ≠ 0)) (k : State → Req → Nat → State) :
    s.acceptReq r w k = match s.pageAns r.ep r.part r.page with
      | .moving n => s.refuseReq r n
      | .absent => s.failReq r 6 7 r.ep false
      | .mapped f => k (s.setReq r.accept) r.accept f := by
  unfold State.acceptReq
  rw [if_neg (by simp [h]), h2]
  dsimp only
  exact if_neg h3

/-! ### Bits that a write of 1 clears (00 R7) -/

theorem w1c_testBit (old x i : Nat) : (w1c old x).testBit i = (old.testBit i && !x.testBit i) := by
  simp only [w1c, Nat.testBit_xor, Nat.testBit_and]
  cases old.testBit i <;> simp

/-! ### Flits that their receiver takes (17 R352) -/

theorem crcBit_lt {x : Nat} (h : x < 2 ^ 32) : crcBit x < 2 ^ 32 := by
  unfold crcBit
  split
  · exact Nat.xor_lt_two_pow (by omega) (by decide)
  · omega

theorem crcByte_lt {x : Nat} (h : x < 2 ^ 32) (b : Byte) : crcByte x b < 2 ^ 32 := by
  have hb : b.toNat < 2 ^ 32 := by have := b.isLt; omega
  have h0 := Nat.xor_lt_two_pow h hb
  exact crcBit_lt (crcBit_lt (crcBit_lt (crcBit_lt (crcBit_lt (crcBit_lt (crcBit_lt (crcBit_lt h0)))))))

theorem crc32c_lt (bs : List Byte) : crc32c bs < 2 ^ 32 := by
  refine Nat.xor_lt_two_pow ?_ (by decide)
  suffices h : ∀ (bs : List Byte) (x : Nat), x < 2 ^ 32 → bs.foldl crcByte x < 2 ^ 32 from h bs _ (by decide)
  intro bs
  induction bs with
  | nil => exact fun _ h => h
  | cons b bs ih => exact fun x h => ih _ (crcByte_lt h b)

/-- A header of no acknowledgement whose fields fit keeps them, and its reserved fields are zero. -/
theorem header_low {h : Header} (ha : h.ack = none) (ht : h.type < 2 ^ 8) (hd : h.dst < 2 ^ 7) (hn : h.nflit < 2 ^ 5) :
    h.low < 2 ^ 192 ∧ (readHeader h.low).type = h.type ∧ (readHeader h.low).dst = h.dst ∧ (readHeader h.low).nflit = h.nflit
    ∧ fld h.low 144 16 = 0 ∧ fld h.low 92 4 = 0 ∧ fld h.low 42 6 = 0 ∧ fld h.low 28 4 = 0 := by
  have e : h.low = h.type + h.vc % 2 * 2 ^ 8 + h.src % 128 * 2 ^ 9 + h.dst * 2 ^ 16 + h.nflit * 2 ^ 23 + h.stream % 1024 * 2 ^ 32
    + h.seq % 2 ^ 32 * 2 ^ 48 + h.tag % 512 * 2 ^ 128 + h.cluster % 128 * 2 ^ 137 + h.offset % 2 ^ 32 * 2 ^ 160 := by
    simp only [Header.low, ha]; omega
  simp only [readHeader, fld]
  rw [e]
  clear e
  have b1 : h.vc % 2 < 2 := Nat.mod_lt _ (by decide)
  have b2 : h.src % 128 < 2 ^ 7 := Nat.mod_lt _ (by decide)
  have b3 : h.stream % 1024 < 2 ^ 10 := Nat.mod_lt _ (by decide)
  have b4 : h.seq % 2 ^ 32 < 2 ^ 32 := Nat.mod_lt _ (by decide)
  have b5 : h.tag % 512 < 2 ^ 9 := Nat.mod_lt _ (by decide)
  have b6 : h.cluster % 128 < 2 ^ 7 := Nat.mod_lt _ (by decide)
  have b7 : h.offset % 2 ^ 32 < 2 ^ 32 := Nat.mod_lt _ (by decide)
  generalize h.vc % 2 = a1 at *
  generalize h.src % 128 = a2 at *
  generalize h.stream % 1024 = a3 at *
  generalize h.seq % 2 ^ 32 = a4 at *
  generalize h.tag % 512 = a5 at *
  generalize h.cluster % 128 = a6 at *
  generalize h.offset % 2 ^ 32 = a7 at *
  generalize h.type = x1 at *
  generalize h.dst = x2 at *
  generalize h.nflit = x3 at *
  refine ⟨?_, ?_, ?_, ?_, ?_, ?_, ?_, ?_⟩ <;> omega

theorem padded_length (c : Chunk) : c.padded.length = 32 * c.flits := by
  simp only [Chunk.padded, List.length_append, List.length_replicate, Chunk.flits]; omega

theorem sumL_cons (x : Nat) (xs : List Nat) : sumL (x :: xs) = x + sumL xs := by
  suffices h : ∀ (xs : List Nat) (a : Nat), xs.foldl (· + ·) a = a + xs.foldl (· + ·) 0 by
    show xs.foldl (· + ·) (0 + x) = _
    rw [h, Nat.zero_add]; rfl
  intro xs
  induction xs with
  | nil => exact fun _ => rfl
  | cons y ys ih => exact fun a => by rw [List.foldl_cons, List.foldl_cons, ih, ih (0 + y)]; omega

theorem padded_all (cs : List Chunk) : (cs.flatMap Chunk.padded).length = 32 * sumL (cs.map Chunk.flits) := by
  induction cs with
  | nil => rfl
  | cons c cs ih => simp only [List.flatMap_cons, List.length_append, ih, padded_length, List.map_cons, sumL_cons]; omega

/-- A receiver finds nothing amiss with the flits of a burst that is addressed to it and carries at most 16 of them (17 R352). -/
theorem flitsSound_flitBytes (s : State) {b : Burst} (ha : b.ack = none) (hd : b.dst < 128) (hn : sumL (b.chunks.map Chunk.flits) ≤ 16) :
    flitsSound b.dst (s.flitBytes b) = true := by
  have ht : (s.header b).type < 2 ^ 8 ∧ ((s.header b).type = 1 ∨ (s.header b).type = 2
      ∨ ((s.header b).type = 3 ∧ (s.header b).nflit = 0)) := by
    simp only [State.header]
    split
    · next h => simp only [List.isEmpty_iff] at h; simp [h, sumL]
    · split <;> simp
  have hl := header_low (h := s.header b) ha ht.1 hd (by show sumL _ < _; omega)
  have hc := crc32c_lt (leBytes 28 (s.header b).low ++ b.chunks.flatMap Chunk.padded)
  have e1 : ((s.flitBytes b)).take 28 = leBytes 28 (s.header b).low := by
    simp [State.flitBytes, leBytes_length]
  have e2 : (s.flitBytes b).drop 28 = leBytes 4 (crc32c (leBytes 28 (s.header b).low ++ b.chunks.flatMap Chunk.padded)) ++ b.chunks.flatMap Chunk.padded := by
    simp [State.flitBytes, leBytes_length]
  have e3 : (s.flitBytes b).drop 32 = b.chunks.flatMap Chunk.padded := by
    rw [show 32 = 28 + 4 from rfl, ← List.drop_drop, e2]; simp [leBytes_length]
  have e4 : (s.flitBytes b).length = 32 + 32 * (s.header b).nflit := by
    rw [State.flitBytes, List.length_append, List.length_append, padded_all, leBytes_length, leBytes_length]
    show _ = 32 + 32 * sumL (b.chunks.map Chunk.flits); omega
  have e5 : fld (s.header b).low 192 32 = 0 := by simp only [fld]; omega
  have e6 : leNat (leBytes 28 (s.header b).low) = (s.header b).low := by rw [leNat_leBytes]; omega
  have e7 : leNat (((s.flitBytes b).drop 28).take 4) = crc32c (leBytes 28 (s.header b).low ++ b.chunks.flatMap Chunk.padded) := by
    rw [e2, List.take_append, leBytes_length, List.take_of_length_le (by simp [leBytes_length])]
    simp [leNat_leBytes]; omega
  have e8 : (s.header b).dst = b.dst := rfl
  have e9 : (s.header b).nflit ≤ 16 := hn
  simp only [flitsSound, e1, e3, e4, e6, e7, e5, hl, e8, beq_self_eq_true, Bool.and_true, Bool.true_and, decide_eq_true e9]
  rcases ht.2 with h | h | ⟨h, h'⟩ <;> simp [*]

/-- A burst of one chunk of at most 16 flits gets across where there is a way for it. -/
theorem cross_some {s : State} {src dst stream vc : Nat} {bs : List Byte} {w : Way} (h : s.way src dst vc none = some w) (hs : src < 128)
    (hd : dst < 128) (hb : bs.length ≤ 512) : ∃ tx rx ds, s.cross src dst stream vc bs = some ({ s.use w with tx := tx, rx := rx }, ds) := by
  have hx : planeExit src (wavelength src dst) = dst := by simp only [planeExit, wavelength]; omega
  have hg : ∀ ds : List Byte, damaged [] ds = ds := fun ds => by
    simp only [damaged, List.find?_nil, Option.map_none, Option.getD_none]
    exact List.map_snd_zip (by simp)
  have key : ∀ (t : State) (c : Chunk), c.bytes = bs →
      let b : Burst := { src := src, dst := dst, wave := wavelength src dst, stream := stream, vc := vc, lane := w.lane, chunks := [c], ack := none, pin := w.pin }
      (t.arrivedBurst dst b (.changed [])).isSome = true := by
    intro t c hc b
    have hf : flitsSound dst (t.flitBytes b) = true := flitsSound_flitBytes t (b := b) rfl hd (by
      show sumL [c.flits] ≤ 16
      rw [sumL_cons]; simp only [Chunk.flits, hc, sumL, List.foldl_nil]; omega)
    have hx' : planeExit b.src b.wave = dst := hx
    simp only [State.arrivedBurst, hx', hg, hf, ne_eq, not_true_eq_false, if_false, if_true, Option.isSome_some]
  let t := s.use w
  let x := t.txOf src dst stream vc
  obtain ⟨b, hb⟩ := Option.isSome_iff_exists.mp
    (key t { seq := x.next, cmd := 0, req := 0, no := 0, bytes := bs, parts := [], bad := false, lane := some w.lane } rfl)
  let u := (t.setTx { x with next := x.next + 1 }).setRx { dst := dst, src := src, stream := stream, vc := vc, next := x.next + 1, owes := false }
  refine ⟨u.tx, u.rx, b.chunks.flatMap (·.bytes), ?_⟩
  simp only [State.cross, h, Option.bind_some]
  exact (congrArg (Option.map _) hb).trans rfl

end Sys2Proof.Machine
end

