-- ==== Sys2Proof/Laws/PerInstr.lean ====
section
/-! SUPPORT. Laws per instruction. Family `Encoded`: an instruction has a word and an event has none (05 R121 to R124). -/

namespace Sys2Proof.Laws

/-- The family: the encoder writes a word for an instruction and nothing for an event. -/
def Encoded.Statement (i : Instr) : Prop := (encode i).isEmpty = i.isEvent

theorem Encoded.nop : Encoded.Statement .nop := rfl
theorem Encoded.bra (t : Target) : Encoded.Statement (.bra t) := rfl
theorem Encoded.brs (c : SCond) (a : SReg) (t : Target) : Encoded.Statement (.brs c a t) := rfl
theorem Encoded.brm (c : MCond) (a : MReg) (t : Target) : Encoded.Statement (.brm c a t) := rfl
theorem Encoded.jmp (a : SReg) : Encoded.Statement (.jmp a) := rfl
theorem Encoded.callLong (d a : SReg) : Encoded.Statement (.callLong d a) := rfl
theorem Encoded.callLiteral (d : SReg) (t : Target) : Encoded.Statement (.callLiteral d t) := rfl
theorem Encoded.ret (e : EReg) : Encoded.Statement (.ret e) := rfl
theorem Encoded.enrol (g : MReg) (d : JReg) (t : Target) : Encoded.Statement (.enrol g d t) := rfl
theorem Encoded.park (g : MReg) (d : JReg) : Encoded.Statement (.park g d) := rfl
theorem Encoded.strike (g : MReg) (d : JReg) : Encoded.Statement (.strike g d) := rfl
theorem Encoded.safept (idx : Byte) : Encoded.Statement (.safept idx) := rfl
theorem Encoded.yield : Encoded.Statement .yield := rfl
theorem Encoded.exit : Encoded.Statement .exit := rfl
theorem Encoded.smovShort (d : SReg) (e : EReg) : Encoded.Statement (.smovShort d e) := rfl
theorem Encoded.smovLong (t : Option ITy) (d a : SReg) : Encoded.Statement (.smovLong t d a) := by cases t <;> rfl
theorem Encoded.sli (t : ITy) (d : SReg) (lit : Word) : Encoded.Statement (.sli t d lit) := rfl
theorem Encoded.saddLong (t : ITy) (d a b : SReg) : Encoded.Statement (.saddLong t d a b) := rfl
theorem Encoded.saddLiteral (t : ITy) (d a : SReg) (lit : Word) : Encoded.Statement (.saddLiteral t d a lit) := rfl
theorem Encoded.ssubLong (t : ITy) (d a b : SReg) : Encoded.Statement (.ssubLong t d a b) := rfl
theorem Encoded.ssubLiteral (t : ITy) (d a : SReg) (lit : Word) : Encoded.Statement (.ssubLiteral t d a lit) := rfl
theorem Encoded.smulLong (t : ITy) (d a b : SReg) : Encoded.Statement (.smulLong t d a b) := rfl
theorem Encoded.smulLiteral (t : ITy) (d a : SReg) (lit : Word) : Encoded.Statement (.smulLiteral t d a lit) := rfl
theorem Encoded.smulhLong (t : ITy) (d a b : SReg) : Encoded.Statement (.smulhLong t d a b) := rfl
theorem Encoded.smulhLiteral (t : ITy) (d a : SReg) (lit : Word) : Encoded.Statement (.smulhLiteral t d a lit) := rfl
theorem Encoded.sdivLong (la : BitVec 4) (t : ITy) (d a b : SReg) : Encoded.Statement (.sdivLong la t d a b) := rfl
theorem Encoded.sdivLiteral (la : BitVec 4) (t : ITy) (d a : SReg) (lit : Word) : Encoded.Statement (.sdivLiteral la t d a lit) := rfl
theorem Encoded.sremLong (la : BitVec 4) (t : ITy) (d a b : SReg) : Encoded.Statement (.sremLong la t d a b) := rfl
theorem Encoded.sremLiteral (la : BitVec 4) (t : ITy) (d a : SReg) (lit : Word) : Encoded.Statement (.sremLiteral la t d a lit) := rfl
theorem Encoded.sandLong (t : ITy) (d a b : SReg) : Encoded.Statement (.sandLong t d a b) := rfl
theorem Encoded.sandLiteral (t : ITy) (d a : SReg) (lit : Word) : Encoded.Statement (.sandLiteral t d a lit) := rfl
theorem Encoded.sorLong (t : ITy) (d a b : SReg) : Encoded.Statement (.sorLong t d a b) := rfl
theorem Encoded.sorLiteral (t : ITy) (d a : SReg) (lit : Word) : Encoded.Statement (.sorLiteral t d a lit) := rfl
theorem Encoded.sxorLong (t : ITy) (d a b : SReg) : Encoded.Statement (.sxorLong t d a b) := rfl
theorem Encoded.sxorLiteral (t : ITy) (d a : SReg) (lit : Word) : Encoded.Statement (.sxorLiteral t d a lit) := rfl
theorem Encoded.sshlLong (t : ITy) (d a b : SReg) : Encoded.Statement (.sshlLong t d a b) := rfl
theorem Encoded.sshlLiteral (t : ITy) (d a : SReg) (lit : Word) : Encoded.Statement (.sshlLiteral t d a lit) := rfl
theorem Encoded.sshrLong (t : ITy) (d a b : SReg) : Encoded.Statement (.sshrLong t d a b) := rfl
theorem Encoded.sshrLiteral (t : ITy) (d a : SReg) (lit : Word) : Encoded.Statement (.sshrLiteral t d a lit) := rfl
theorem Encoded.ssarLong (t : ITy) (d a b : SReg) : Encoded.Statement (.ssarLong t d a b) := rfl
theorem Encoded.ssarLiteral (t : ITy) (d a : SReg) (lit : Word) : Encoded.Statement (.ssarLiteral t d a lit) := rfl
theorem Encoded.sminLong (t : ITy) (d a b : SReg) : Encoded.Statement (.sminLong t d a b) := rfl
theorem Encoded.sminLiteral (t : ITy) (d a : SReg) (lit : Word) : Encoded.Statement (.sminLiteral t d a lit) := rfl
theorem Encoded.smaxLong (t : ITy) (d a b : SReg) : Encoded.Statement (.smaxLong t d a b) := rfl
theorem Encoded.smaxLiteral (t : ITy) (d a : SReg) (lit : Word) : Encoded.Statement (.smaxLiteral t d a lit) := rfl
theorem Encoded.scmpLong (c : ICond) (t : ITy) (d a b : SReg) : Encoded.Statement (.scmpLong c t d a b) := rfl
theorem Encoded.scmpLiteral (c : ICond) (t : ITy) (d a : SReg) (lit : Word) : Encoded.Statement (.scmpLiteral c t d a lit) := rfl
theorem Encoded.ssel (d a b c : SReg) : Encoded.Statement (.ssel d a b c) := rfl
theorem Encoded.spopcShort (d : SReg) (e : EReg) : Encoded.Statement (.spopcShort d e) := rfl
theorem Encoded.spopcLong (t : ITy) (d a : SReg) : Encoded.Statement (.spopcLong t d a) := rfl
theorem Encoded.sclzShort (d : SReg) (e : EReg) : Encoded.Statement (.sclzShort d e) := rfl
theorem Encoded.sclzLong (t : ITy) (d a : SReg) : Encoded.Statement (.sclzLong t d a) := rfl
theorem Encoded.sbfx (t : ITy) (d a : SReg) (pos : BitVec 6) (len : BitVec 7) : Encoded.Statement (.sbfx t d a pos len) := rfl
theorem Encoded.sbfi (t : ITy) (d a : SReg) (pos : BitVec 6) (len : BitVec 7) : Encoded.Statement (.sbfi t d a pos len) := rfl
theorem Encoded.saddr (t : ITy) (d a b c : SReg) (k : BitVec 3) : Encoded.Statement (.saddr t d a b c k) := rfl
theorem Encoded.vmovShort (g : MReg) (d : VReg) (e : EReg) : Encoded.Statement (.vmovShort g d e) := rfl
theorem Encoded.vmovLong (g : MReg) (d a : VReg) : Encoded.Statement (.vmovLong g d a) := rfl
theorem Encoded.vmovBcast (g : MReg) (d : VReg) (a : SReg) : Encoded.Statement (.vmovBcast g d a) := rfl
theorem Encoded.vli (g : MReg) (t : Ty) (d : VReg) (lit : Word) : Encoded.Statement (.vli g t d lit) := rfl
theorem Encoded.vaddLong (g : MReg) (t : ITy) (d a b : VReg) : Encoded.Statement (.vaddLong g t d a b) := rfl
theorem Encoded.vaddLiteral (g : MReg) (t : ITy) (d a : VReg) (lit : Word) : Encoded.Statement (.vaddLiteral g t d a lit) := rfl
theorem Encoded.vsubLong (g : MReg) (t : ITy) (d a b : VReg) : Encoded.Statement (.vsubLong g t d a b) := rfl
theorem Encoded.vsubLiteral (g : MReg) (t : ITy) (d a : VReg) (lit : Word) : Encoded.Statement (.vsubLiteral g t d a lit) := rfl
theorem Encoded.vmulLong (g : MReg) (t : ITy) (d a b : VReg) : Encoded.Statement (.vmulLong g t d a b) := rfl
theorem Encoded.vmulLiteral (g : MReg) (t : ITy) (d a : VReg) (lit : Word) : Encoded.Statement (.vmulLiteral g t d a lit) := rfl
theorem Encoded.vmulhLong (g : MReg) (t : ITy) (d a b : VReg) : Encoded.Statement (.vmulhLong g t d a b) := rfl
theorem Encoded.vmulhLiteral (g : MReg) (t : ITy) (d a : VReg) (lit : Word) : Encoded.Statement (.vmulhLiteral g t d a lit) := rfl
theorem Encoded.vmad (g : MReg) (t : ITy) (d a b c : VReg) : Encoded.Statement (.vmad g t d a b c) := rfl
theorem Encoded.vaddsatLong (g : MReg) (t : ITy) (d a b : VReg) : Encoded.Statement (.vaddsatLong g t d a b) := rfl
theorem Encoded.vaddsatLiteral (g : MReg) (t : ITy) (d a : VReg) (lit : Word) : Encoded.Statement (.vaddsatLiteral g t d a lit) := rfl
theorem Encoded.vsubsatLong (g : MReg) (t : ITy) (d a b : VReg) : Encoded.Statement (.vsubsatLong g t d a b) := rfl
theorem Encoded.vsubsatLiteral (g : MReg) (t : ITy) (d a : VReg) (lit : Word) : Encoded.Statement (.vsubsatLiteral g t d a lit) := rfl
theorem Encoded.vandLong (g : MReg) (t : ITy) (d a b : VReg) : Encoded.Statement (.vandLong g t d a b) := rfl
theorem Encoded.vandLiteral (g : MReg) (t : ITy) (d a : VReg) (lit : Word) : Encoded.Statement (.vandLiteral g t d a lit) := rfl
theorem Encoded.vorLong (g : MReg) (t : ITy) (d a b : VReg) : Encoded.Statement (.vorLong g t d a b) := rfl
theorem Encoded.vorLiteral (g : MReg) (t : ITy) (d a : VReg) (lit : Word) : Encoded.Statement (.vorLiteral g t d a lit) := rfl
theorem Encoded.vxorLong (g : MReg) (t : ITy) (d a b : VReg) : Encoded.Statement (.vxorLong g t d a b) := rfl
theorem Encoded.vxorLiteral (g : MReg) (t : ITy) (d a : VReg) (lit : Word) : Encoded.Statement (.vxorLiteral g t d a lit) := rfl
theorem Encoded.vshlLong (g : MReg) (t : ITy) (d a b : VReg) : Encoded.Statement (.vshlLong g t d a b) := rfl
theorem Encoded.vshlLiteral (g : MReg) (t : ITy) (d a : VReg) (lit : Word) : Encoded.Statement (.vshlLiteral g t d a lit) := rfl
theorem Encoded.vshrLong (g : MReg) (t : ITy) (d a b : VReg) : Encoded.Statement (.vshrLong g t d a b) := rfl
theorem Encoded.vshrLiteral (g : MReg) (t : ITy) (d a : VReg) (lit : Word) : Encoded.Statement (.vshrLiteral g t d a lit) := rfl
theorem Encoded.vsarLong (g : MReg) (t : ITy) (d a b : VReg) : Encoded.Statement (.vsarLong g t d a b) := rfl
theorem Encoded.vsarLiteral (g : MReg) (t : ITy) (d a : VReg) (lit : Word) : Encoded.Statement (.vsarLiteral g t d a lit) := rfl
theorem Encoded.vminLong (g : MReg) (t : ITy) (d a b : VReg) : Encoded.Statement (.vminLong g t d a b) := rfl
theorem Encoded.vminLiteral (g : MReg) (t : ITy) (d a : VReg) (lit : Word) : Encoded.Statement (.vminLiteral g t d a lit) := rfl
theorem Encoded.vmaxLong (g : MReg) (t : ITy) (d a b : VReg) : Encoded.Statement (.vmaxLong g t d a b) := rfl
theorem Encoded.vmaxLiteral (g : MReg) (t : ITy) (d a : VReg) (lit : Word) : Encoded.Statement (.vmaxLiteral g t d a lit) := rfl
theorem Encoded.vabsShort (g : MReg) (d : VReg) (e : EReg) : Encoded.Statement (.vabsShort g d e) := rfl
theorem Encoded.vabsLong (g : MReg) (t : ITy) (d a : VReg) : Encoded.Statement (.vabsLong g t d a) := rfl
theorem Encoded.vcmpLong (g : MReg) (c : ICond) (t : ITy) (d : MReg) (a b : VReg) : Encoded.Statement (.vcmpLong g c t d a b) := rfl
theorem Encoded.vcmpLiteral (g : MReg) (c : ICond) (t : ITy) (d : MReg) (a : VReg) (lit : Word) : Encoded.Statement (.vcmpLiteral g c t d a lit) := rfl
theorem Encoded.vsel (g : MReg) (d a b : VReg) (c : MReg) : Encoded.Statement (.vsel g d a b c) := rfl
theorem Encoded.vpopcShort (g : MReg) (d : VReg) (e : EReg) : Encoded.Statement (.vpopcShort g d e) := rfl
theorem Encoded.vpopcLong (g : MReg) (t : ITy) (d a : VReg) : Encoded.Statement (.vpopcLong g t d a) := rfl
theorem Encoded.vclzShort (g : MReg) (d : VReg) (e : EReg) : Encoded.Statement (.vclzShort g d e) := rfl
theorem Encoded.vclzLong (g : MReg) (t : ITy) (d a : VReg) : Encoded.Statement (.vclzLong g t d a) := rfl
theorem Encoded.vbfx (g : MReg) (t : ITy) (d a : VReg) (pos : BitVec 6) (len : BitVec 7) : Encoded.Statement (.vbfx g t d a pos len) := rfl
theorem Encoded.vdot4 (g : MReg) (sgn mix sat : Bool) (d a b c : VReg) : Encoded.Statement (.vdot4 g sgn mix sat d a b c) := rfl
theorem Encoded.vfaddLong (g : MReg) (t : FTy) (rm : RMode) (d a b : VReg) : Encoded.Statement (.vfaddLong g t rm d a b) := rfl
theorem Encoded.vfaddLiteral (g : MReg) (t : FTy) (rm : RMode) (d a : VReg) (lit : Word) : Encoded.Statement (.vfaddLiteral g t rm d a lit) := rfl
theorem Encoded.vfsubLong (g : MReg) (t : FTy) (rm : RMode) (d a b : VReg) : Encoded.Statement (.vfsubLong g t rm d a b) := rfl
theorem Encoded.vfsubLiteral (g : MReg) (t : FTy) (rm : RMode) (d a : VReg) (lit : Word) : Encoded.Statement (.vfsubLiteral g t rm d a lit) := rfl
theorem Encoded.vfmulLong (g : MReg) (t : FTy) (rm : RMode) (d a b : VReg) : Encoded.Statement (.vfmulLong g t rm d a b) := rfl
theorem Encoded.vfmulLiteral (g : MReg) (t : FTy) (rm : RMode) (d a : VReg) (lit : Word) : Encoded.Statement (.vfmulLiteral g t rm d a lit) := rfl
theorem Encoded.vfma (g : MReg) (t : FTy) (rm : RMode) (d a b c : VReg) : Encoded.Statement (.vfma g t rm d a b c) := rfl
theorem Encoded.vfminLong (g : MReg) (t : FTy) (d a b : VReg) : Encoded.Statement (.vfminLong g t d a b) := rfl
theorem Encoded.vfminLiteral (g : MReg) (t : FTy) (d a : VReg) (lit : Word) : Encoded.Statement (.vfminLiteral g t d a lit) := rfl
theorem Encoded.vfmaxLong (g : MReg) (t : FTy) (d a b : VReg) : Encoded.Statement (.vfmaxLong g t d a b) := rfl
theorem Encoded.vfmaxLiteral (g : MReg) (t : FTy) (d a : VReg) (lit : Word) : Encoded.Statement (.vfmaxLiteral g t d a lit) := rfl
theorem Encoded.vfabsShort (g : MReg) (d : VReg) (e : EReg) : Encoded.Statement (.vfabsShort g d e) := rfl
theorem Encoded.vfabsLong (g : MReg) (t : FTy) (d a : VReg) : Encoded.Statement (.vfabsLong g t d a) := rfl
theorem Encoded.vfnegShort (g : MReg) (d : VReg) (e : EReg) : Encoded.Statement (.vfnegShort g d e) := rfl
theorem Encoded.vfnegLong (g : MReg) (t : FTy) (d a : VReg) : Encoded.Statement (.vfnegLong g t d a) := rfl
theorem Encoded.vfcmpLong (g : MReg) (c : FCond) (t : FTy) (d : MReg) (a b : VReg) : Encoded.Statement (.vfcmpLong g c t d a b) := rfl
theorem Encoded.vfcmpLiteral (g : MReg) (c : FCond) (t : FTy) (d : MReg) (a : VReg) (lit : Word) : Encoded.Statement (.vfcmpLiteral g c t d a lit) := rfl
theorem Encoded.vrcpShort (g : MReg) (la : BitVec 4) (d : VReg) (e : EReg) : Encoded.Statement (.vrcpShort g la d e) := rfl
theorem Encoded.vrcpLong (g : MReg) (la : BitVec 4) (t : FTy) (rm : RMode) (d a : VReg) : Encoded.Statement (.vrcpLong g la t rm d a) := rfl
theorem Encoded.vrsqShort (g : MReg) (la : BitVec 4) (d : VReg) (e : EReg) : Encoded.Statement (.vrsqShort g la d e) := rfl
theorem Encoded.vrsqLong (g : MReg) (la : BitVec 4) (t : FTy) (rm : RMode) (d a : VReg) : Encoded.Statement (.vrsqLong g la t rm d a) := rfl
theorem Encoded.vsqrtShort (g : MReg) (la : BitVec 4) (d : VReg) (e : EReg) : Encoded.Statement (.vsqrtShort g la d e) := rfl
theorem Encoded.vsqrtLong (g : MReg) (la : BitVec 4) (t : FTy) (rm : RMode) (d a : VReg) : Encoded.Statement (.vsqrtLong g la t rm d a) := rfl
theorem Encoded.vdivShort (g : MReg) (la : BitVec 4) (d : VReg) (e : EReg) : Encoded.Statement (.vdivShort g la d e) := rfl
theorem Encoded.vdivLong (g : MReg) (la : BitVec 4) (t : FTy) (rm : RMode) (d a b : VReg) : Encoded.Statement (.vdivLong g la t rm d a b) := rfl
theorem Encoded.vexp2Short (g : MReg) (la : BitVec 4) (d : VReg) (e : EReg) : Encoded.Statement (.vexp2Short g la d e) := rfl
theorem Encoded.vexp2Long (g : MReg) (la : BitVec 4) (t : FTy) (d a : VReg) : Encoded.Statement (.vexp2Long g la t d a) := rfl
theorem Encoded.vlog2Short (g : MReg) (la : BitVec 4) (d : VReg) (e : EReg) : Encoded.Statement (.vlog2Short g la d e) := rfl
theorem Encoded.vlog2Long (g : MReg) (la : BitVec 4) (t : FTy) (d a : VReg) : Encoded.Statement (.vlog2Long g la t d a) := rfl
theorem Encoded.vsinShort (g : MReg) (la : BitVec 4) (d : VReg) (e : EReg) : Encoded.Statement (.vsinShort g la d e) := rfl
theorem Encoded.vsinLong (g : MReg) (la : BitVec 4) (t : FTy) (d a : VReg) : Encoded.Statement (.vsinLong g la t d a) := rfl
theorem Encoded.vcosShort (g : MReg) (la : BitVec 4) (d : VReg) (e : EReg) : Encoded.Statement (.vcosShort g la d e) := rfl
theorem Encoded.vcosLong (g : MReg) (la : BitVec 4) (t : FTy) (d a : VReg) : Encoded.Statement (.vcosLong g la t d a) := rfl
theorem Encoded.vtanhShort (g : MReg) (la : BitVec 4) (d : VReg) (e : EReg) : Encoded.Statement (.vtanhShort g la d e) := rfl
theorem Encoded.vtanhLong (g : MReg) (la : BitVec 4) (t : FTy) (d a : VReg) : Encoded.Statement (.vtanhLong g la t d a) := rfl
theorem Encoded.vcvt (g : MReg) (td ts : Ty) (rm : RMode) (sat : Bool) (d a : VReg) : Encoded.Statement (.vcvt g td ts rm sat d a) := rfl
theorem Encoded.vfrint (g : MReg) (t : FTy) (rm : RMode) (d a : VReg) : Encoded.Statement (.vfrint g t rm d a) := rfl
theorem Encoded.mand (d a b : MReg) : Encoded.Statement (.mand d a b) := rfl
theorem Encoded.mor (d a b : MReg) : Encoded.Statement (.mor d a b) := rfl
theorem Encoded.mxor (d a b : MReg) : Encoded.Statement (.mxor d a b) := rfl
theorem Encoded.mandn (d a b : MReg) : Encoded.Statement (.mandn d a b) := rfl
theorem Encoded.mnot (d e : MReg) : Encoded.Statement (.mnot d e) := rfl
theorem Encoded.mmovToMask (d : MReg) (a : SReg) : Encoded.Statement (.mmovToMask d a) := rfl
theorem Encoded.mmovToScalar (d : SReg) (a : MReg) : Encoded.Statement (.mmovToScalar d a) := rfl
theorem Encoded.mballot (d : MReg) (a : VReg) (k : MReg) : Encoded.Statement (.mballot d a k) := rfl
theorem Encoded.mpopc (d : SReg) (a : MReg) : Encoded.Statement (.mpopc d a) := rfl
theorem Encoded.mfirst (d : SReg) (a : MReg) : Encoded.Statement (.mfirst d a) := rfl
theorem Encoded.mset (d : MReg) (first : BitVec 6) (count : BitVec 7) : Encoded.Statement (.mset d first count) := rfl
theorem Encoded.vshfl (g : MReg) (la : BitVec 4) (md : ShflMode) (d a b : VReg) (k : MReg) : Encoded.Statement (.vshfl g la md d a b k) := rfl
theorem Encoded.vrotLong (g : MReg) (la : BitVec 4) (d a : VReg) (b : SReg) (k : MReg) : Encoded.Statement (.vrotLong g la d a b k) := rfl
theorem Encoded.vrotLiteral (g : MReg) (la : BitVec 4) (d a : VReg) (lit : Word) (k : MReg) : Encoded.Statement (.vrotLiteral g la d a lit k) := rfl
theorem Encoded.vbcast (g : MReg) (la : BitVec 4) (d a : VReg) (b : SReg) (k : MReg) : Encoded.Statement (.vbcast g la d a b k) := rfl
theorem Encoded.vred (g : MReg) (la : BitVec 4) (op : RedOp) (t : Ty) (d a : VReg) (k : MReg) : Encoded.Statement (.vred g la op t d a k) := rfl
theorem Encoded.vscan (g : MReg) (la : BitVec 4) (op : RedOp) (excl : Bool) (t : Ty) (d a : VReg) (k : MReg) : Encoded.Statement (.vscan g la op excl t d a k) := rfl
theorem Encoded.vcompact (g : MReg) (la : BitVec 4) (d a : VReg) (k : MReg) : Encoded.Statement (.vcompact g la d a k) := rfl
theorem Encoded.vexpand (g : MReg) (la : BitVec 4) (d a : VReg) (k : MReg) : Encoded.Statement (.vexpand g la d a k) := rfl
theorem Encoded.vldLong (g : MReg) (la : BitVec 4) (md : VMode) (wd : Width) (sx : Bool) (d : VReg) (a : SReg) (disp : Byte) : Encoded.Statement (.vldLong g la md wd sx d a disp) := rfl
theorem Encoded.vldLiteral (g : MReg) (la : BitVec 4) (md : VMode) (wd : Width) (sx : Bool) (d : VReg) (a : SReg) (lit : Word) : Encoded.Statement (.vldLiteral g la md wd sx d a lit) := rfl
theorem Encoded.vstLong (g : MReg) (off : Option VReg) (wd : Width) (d : VReg) (a : SReg) (disp : Byte) : Encoded.Statement (.vstLong g off wd d a disp) := rfl
theorem Encoded.vstLiteral (g : MReg) (off : Option VReg) (wd : Width) (d : VReg) (a : SReg) (lit : Word) : Encoded.Statement (.vstLiteral g off wd d a lit) := rfl
theorem Encoded.sldLong (la : BitVec 4) (wd : Width) (sx : Bool) (d a : SReg) (disp : Byte) : Encoded.Statement (.sldLong la wd sx d a disp) := rfl
theorem Encoded.sldLiteral (la : BitVec 4) (wd : Width) (sx : Bool) (d a : SReg) (lit : Word) : Encoded.Statement (.sldLiteral la wd sx d a lit) := rfl
theorem Encoded.sstLong (wd : Width) (d a : SReg) (disp : Byte) : Encoded.Statement (.sstLong wd d a disp) := rfl
theorem Encoded.sstLiteral (wd : Width) (d a : SReg) (lit : Word) : Encoded.Statement (.sstLiteral wd d a lit) := rfl
theorem Encoded.ll (la : BitVec 4) (dbl : Bool) (acq : Option Scope) (d a : SReg) (disp : Byte) : Encoded.Statement (.ll la dbl acq d a disp) := rfl
theorem Encoded.su (dbl : Bool) (rel : Option Scope) (d a : SReg) (disp : Byte) : Encoded.Statement (.su dbl rel d a disp) := rfl
theorem Encoded.vatom (g : MReg) (la : BitVec 4) (op : AtOp) (ord : AOrd) (sc : AScope) (t : Ty) (d a b c : VReg) : Encoded.Statement (.vatom g la op ord sc t d a b c) := rfl
theorem Encoded.satom (la : BitVec 4) (op : AtOp) (ord : AOrd) (sc : AScope) (t : Ty) (d a b c : SReg) : Encoded.Statement (.satom la op ord sc t d a b c) := rfl
theorem Encoded.arinitLong (a : SReg) (off : Byte) (b : SReg) : Encoded.Statement (.arinitLong a off b) := rfl
theorem Encoded.arinitLiteral (a : SReg) (off : Byte) (lit : Word) : Encoded.Statement (.arinitLiteral a off lit) := rfl
theorem Encoded.arwait (sc : Scope) (d a : SReg) (off : Byte) (b : SReg) : Encoded.Statement (.arwait sc d a off b) := rfl
theorem Encoded.artest (sc : Scope) (d a : SReg) (off : Byte) (b : SReg) : Encoded.Statement (.artest sc d a off b) := rfl
theorem Encoded.araddLong (sc : Scope) (a : SReg) (off : Byte) (b : SReg) : Encoded.Statement (.araddLong sc a off b) := rfl
theorem Encoded.araddLiteral (sc : Scope) (a : SReg) (off : Byte) (lit : Word) : Encoded.Statement (.araddLiteral sc a off lit) := rfl
theorem Encoded.tmbar : Encoded.Statement .tmbar := rfl
theorem Encoded.clbar : Encoded.Statement .clbar := rfl
theorem Encoded.fence (k : FenceKind) (sc : Scope) : Encoded.Statement (.fence k sc) := rfl
theorem Encoded.tfetch (d a b c : SReg) : Encoded.Statement (.tfetch d a b c) := rfl
theorem Encoded.tmcast (mask : BitVec 4) (d a b c : SReg) : Encoded.Statement (.tmcast mask d a b c) := rfl
theorem Encoded.tgather (d a b c : SReg) : Encoded.Statement (.tgather d a b c) := rfl
theorem Encoded.tstore (d a b c : SReg) : Encoded.Statement (.tstore d a b c) := rfl
theorem Encoded.treduce (op : FarRed) (d a b c : SReg) : Encoded.Statement (.treduce op d a b c) := rfl
theorem Encoded.tfill (d a b c : SReg) : Encoded.Statement (.tfill d a b c) := rfl
theorem Encoded.tcopy (d a b c : SReg) : Encoded.Statement (.tcopy d a b c) := rfl
theorem Encoded.tatom (op : AtOp) (t : Ty) (d a b c : SReg) : Encoded.Statement (.tatom op t d a b c) := rfl
theorem Encoded.bulkld (d a b c : SReg) : Encoded.Statement (.bulkld d a b c) := rfl
theorem Encoded.bulkst (d a b c : SReg) : Encoded.Statement (.bulkst d a b c) := rfl
theorem Encoded.pagereq (d a b c : SReg) : Encoded.Statement (.pagereq d a b c) := rfl
theorem Encoded.twinLim (d : SReg) : Encoded.Statement (.twinLim d) := rfl
theorem Encoded.twinOut (d : SReg) : Encoded.Statement (.twinOut d) := rfl
theorem Encoded.twinSet (d a : SReg) : Encoded.Statement (.twinSet d a) := rfl
theorem Encoded.thint (a b : SReg) : Encoded.Statement (.thint a b) := rfl
theorem Encoded.forme (la : BitVec 4) (d : FReg) (a : SReg) (m : Byte) : Encoded.Statement (.forme la d a m) := rfl
theorem Encoded.formeR (la : BitVec 4) (d : FReg) (a : SReg) : Encoded.Statement (.formeR la d a) := rfl
theorem Encoded.mma (pair : Bool) (sg : MmaSign) (d : GReg) (a b : FReg) (c : SReg) : Encoded.Statement (.mma pair sg d a b c) := rfl
theorem Encoded.mzero (d : GReg) : Encoded.Statement (.mzero d) := rfl
theorem Encoded.mldg (d : GReg) (a : FReg) (b : SReg) : Encoded.Statement (.mldg d a b) := rfl
theorem Encoded.mstg (d : FReg) (a : GReg) (b : SReg) : Encoded.Statement (.mstg d a b) := rfl
theorem Encoded.mcvt (relu : Bool) (rm : RMode) (d : FReg) (a : GReg) (c : SReg) : Encoded.Statement (.mcvt relu rm d a c) := rfl
theorem Encoded.maddg (isInt : Bool) (rm : RMode) (d a b : GReg) : Encoded.Statement (.maddg isInt rm d a b) := rfl
theorem Encoded.mwait : Encoded.Statement .mwait := rfl
theorem Encoded.ligbind (c : BitVec 2) (a b : SReg) : Encoded.Statement (.ligbind c a b) := rfl
theorem Encoded.ligeval (a : SReg) : Encoded.Statement (.ligeval a) := rfl
theorem Encoded.ligemit (bf : Bool) (a b : SReg) : Encoded.Statement (.ligemit bf a b) := rfl
theorem Encoded.ligwait : Encoded.Statement .ligwait := rfl
theorem Encoded.ligclr : Encoded.Statement .ligclr := rfl
theorem Encoded.handoff (idx : BitVec 3) (a : SReg) (m : Byte) : Encoded.Statement (.handoff idx a m) := rfl
theorem Encoded.taskq (d a b : SReg) : Encoded.Statement (.taskq d a b) := rfl
theorem Encoded.taskpush (d a b : SReg) : Encoded.Statement (.taskpush d a b) := rfl
theorem Encoded.taskdone (d a : SReg) : Encoded.Statement (.taskdone d a) := rfl
theorem Encoded.launch (d a b : SReg) : Encoded.Statement (.launch d a b) := rfl
theorem Encoded.grow (d : SReg) (m : Byte) : Encoded.Statement (.grow d m) := rfl
theorem Encoded.shrink (m : Byte) : Encoded.Statement (.shrink m) := rfl
theorem Encoded.trap (code : Byte) : Encoded.Statement (.trap code) := rfl
theorem Encoded.brk (code : Byte) : Encoded.Statement (.brk code) := rfl
theorem Encoded.rdsr (g : MReg) (r : SpReg) (d : Byte) : Encoded.Statement (.rdsr g r d) := rfl
theorem Encoded.wrsr (r : SpReg) (a : SReg) : Encoded.Statement (.wrsr r a) := rfl
theorem Encoded.dbgmap (d a : SReg) : Encoded.Statement (.dbgmap d a) := rfl
theorem Encoded.dbgmapU (d : SReg) : Encoded.Statement (.dbgmapU d) := rfl
theorem Encoded.dbgrd (la : BitVec 4) (wd : Width) (d a : SReg) (m : Byte) : Encoded.Statement (.dbgrd la wd d a m) := rfl
theorem Encoded.dbgwr (wd : Width) (d a : SReg) (m : Byte) : Encoded.Statement (.dbgwr wd d a m) := rfl
theorem Encoded.tret : Encoded.Statement .tret := rfl
theorem Encoded.tretExit : Encoded.Statement .tretExit := rfl
theorem Encoded.preempt (d a b : SReg) : Encoded.Statement (.preempt d a b) := rfl
theorem Encoded.preemptQ (d a : SReg) : Encoded.Statement (.preemptQ d a) := rfl
theorem Encoded.xlatinvPg (d a : SReg) : Encoded.Statement (.xlatinvPg d a) := rfl
theorem Encoded.xlatinvAll (d a : SReg) : Encoded.Statement (.xlatinvAll d a) := rfl
theorem Encoded.xlatinvUnreach (d a : SReg) : Encoded.Statement (.xlatinvUnreach d a) := rfl
theorem Encoded.xlatinvReach (d a : SReg) : Encoded.Statement (.xlatinvReach d a) := rfl
theorem Encoded.csrrd (d : SReg) (r : Csr) : Encoded.Statement (.csrrd d r) := rfl
theorem Encoded.csrwr (r : Csr) (a : SReg) : Encoded.Statement (.csrwr r a) := rfl
theorem Encoded.tqnextRead (d : SReg) : Encoded.Statement (.tqnextRead d) := rfl
theorem Encoded.tqnextWaitEnd (cluster : Nat) : Encoded.Statement (.tqnextWaitEnd cluster) := rfl
theorem Encoded.fevnextRead (d : SReg) : Encoded.Statement (.fevnextRead d) := rfl
theorem Encoded.fevnextWaitEnd (cluster : Nat) : Encoded.Statement (.fevnextWaitEnd cluster) := rfl
theorem Encoded.lookaheadCommit (uid : Nat) : Encoded.Statement (.lookaheadCommit uid) := rfl
theorem Encoded.localAccessPerform (uid : Nat) : Encoded.Statement (.localAccessPerform uid) := rfl
theorem Encoded.fenceWaitEnd (ag : Agent) : Encoded.Statement (.fenceWaitEnd ag) := rfl
theorem Encoded.chaseWaitEnd (core slot : Nat) : Encoded.Statement (.chaseWaitEnd core slot) := rfl
theorem Encoded.matrixQueueEnter (core slot : Nat) : Encoded.Statement (.matrixQueueEnter core slot) := rfl
theorem Encoded.matrixOpStart (core : Nat) : Encoded.Statement (.matrixOpStart core) := rfl
theorem Encoded.matrixOpRetire (uid : Nat) : Encoded.Statement (.matrixOpRetire uid) := rfl
theorem Encoded.ligQueueEnter (core slot : Nat) : Encoded.Statement (.ligQueueEnter core slot) := rfl
theorem Encoded.ligOpStart (core : Nat) : Encoded.Statement (.ligOpStart core) := rfl
theorem Encoded.ligOpComplete (uid : Nat) : Encoded.Statement (.ligOpComplete uid) := rfl
theorem Encoded.ligclrClear (core slot : Nat) : Encoded.Statement (.ligclrClear core slot) := rfl
theorem Encoded.requestSend (cmd req : Nat) : Encoded.Statement (.requestSend cmd req) := rfl
theorem Encoded.requestRetry (cmd req : Nat) : Encoded.Statement (.requestRetry cmd req) := rfl
theorem Encoded.translationWalkComplete (cmd unit : Nat) : Encoded.Statement (.translationWalkComplete cmd unit) := rfl
theorem Encoded.responseBurstReceive (n : Nat) (t : Transit) : Encoded.Statement (.responseBurstReceive n t) := rfl
theorem Encoded.ackOnlyReceive (n : Nat) (t : Transit) : Encoded.Statement (.ackOnlyReceive n t) := rfl
theorem Encoded.zeroFillAddition (cmd : Nat) : Encoded.Statement (.zeroFillAddition cmd) := rfl
theorem Encoded.replayTimeout (stream : Nat) : Encoded.Statement (.replayTimeout stream) := rfl
theorem Encoded.resumeReceive (stream : Nat) (r : Word) : Encoded.Statement (.resumeReceive stream r) := rfl
theorem Encoded.grantRequestReceive (src plane slot vc bursts : Nat) (refuse : Nat) : Encoded.Statement (.grantRequestReceive src plane slot vc bursts refuse) := rfl
theorem Encoded.grantReceive (peer plane slot vc bursts : Nat) : Encoded.Statement (.grantReceive peer plane slot vc bursts) := rfl
theorem Encoded.grantRefusalReceive (peer plane vc hint : Nat) : Encoded.Statement (.grantRefusalReceive peer plane vc hint) := rfl
theorem Encoded.grantRetry (peer plane vc : Nat) : Encoded.Statement (.grantRetry peer plane vc) := rfl
theorem Encoded.completionNoticeReceive (cmd req : Nat) : Encoded.Statement (.completionNoticeReceive cmd req) := rfl
theorem Encoded.moduleRead (ep n : Nat) (w : Answer) : Encoded.Statement (.moduleRead ep n w) := rfl
theorem Encoded.moduleWrite (ep n : Nat) (w : Answer) : Encoded.Statement (.moduleWrite ep n w) := rfl
theorem Encoded.moduleReduce (ep n : Nat) (w : Answer) : Encoded.Statement (.moduleReduce ep n w) := rfl
theorem Encoded.moduleFill (ep n : Nat) (w : Answer) : Encoded.Statement (.moduleFill ep n w) := rfl
theorem Encoded.moduleAtomic (ep n : Nat) (w : Answer) : Encoded.Statement (.moduleAtomic ep n w) := rfl
theorem Encoded.moduleCopy (ep n : Nat) (w : Answer) : Encoded.Statement (.moduleCopy ep n w) := rfl
theorem Encoded.moduleHint (ep n : Nat) (drop : Bool) : Encoded.Statement (.moduleHint ep n drop) := rfl
theorem Encoded.moduleTableRead (ep addr : Nat) : Encoded.Statement (.moduleTableRead ep addr) := rfl
theorem Encoded.moduleTableWrite (ep : Nat) : Encoded.Statement (.moduleTableWrite ep) := rfl
theorem Encoded.pageMoveComplete (ep page : Nat) : Encoded.Statement (.pageMoveComplete ep page) := rfl
theorem Encoded.moduleThermalStep (ep stack temp : Nat) : Encoded.Statement (.moduleThermalStep ep stack temp) := rfl
theorem Encoded.handoffTransfer (team : Nat) : Encoded.Statement (.handoffTransfer team) := rfl
theorem Encoded.successorStart (team : Nat) : Encoded.Statement (.successorStart team) := rfl
theorem Encoded.scrubWrite (core granule : Nat) : Encoded.Statement (.scrubWrite core granule) := rfl
theorem Encoded.growRecheck (core slot : Nat) : Encoded.Statement (.growRecheck core slot) := rfl
theorem Encoded.allWaitingFailure (core : Nat) : Encoded.Statement (.allWaitingFailure core) := rfl
theorem Encoded.taskqAnswer (cluster n : Nat) : Encoded.Statement (.taskqAnswer cluster n) := rfl
theorem Encoded.pendingRecordMove (cluster index : Nat) : Encoded.Statement (.pendingRecordMove cluster index) := rfl
theorem Encoded.imposerBalance (part : Nat) : Encoded.Statement (.imposerBalance part) := rfl
theorem Encoded.movedRecordArrive (n : Nat) : Encoded.Statement (.movedRecordArrive n) := rfl
theorem Encoded.notifyWrite (part q : Nat) (x : DWord) : Encoded.Statement (.notifyWrite part q x) := rfl
theorem Encoded.packetKernel (slot : Nat) : Encoded.Statement (.packetKernel slot) := rfl
theorem Encoded.packetWait (slot : Nat) : Encoded.Statement (.packetWait slot) := rfl
theorem Encoded.waitPacketPoll (slot idx : Nat) : Encoded.Statement (.waitPacketPoll slot idx) := rfl
theorem Encoded.packetNoop (slot : Nat) : Encoded.Statement (.packetNoop slot) := rfl
theorem Encoded.packetReserveLanes (slot : Nat) : Encoded.Statement (.packetReserveLanes slot) := rfl
theorem Encoded.packetReleaseLanes (slot : Nat) : Encoded.Statement (.packetReleaseLanes slot) := rfl
theorem Encoded.laneReservationPin (slot : Nat) : Encoded.Statement (.laneReservationPin slot) := rfl
theorem Encoded.packetComplete (slot idx : Nat) : Encoded.Statement (.packetComplete slot idx) := rfl
theorem Encoded.teamPlace (launch : Nat) : Encoded.Statement (.teamPlace launch) := rfl
theorem Encoded.placementRetry (part : Nat) : Encoded.Statement (.placementRetry part) := rfl
theorem Encoded.bindingIssue (team : Nat) : Encoded.Statement (.bindingIssue team) := rfl
theorem Encoded.queueMap (part slot : Nat) : Encoded.Statement (.queueMap part slot) := rfl
theorem Encoded.priorityEviction (part : Nat) : Encoded.Statement (.priorityEviction part) := rfl
theorem Encoded.sliceEviction (slot : Nat) : Encoded.Statement (.sliceEviction slot) := rfl
theorem Encoded.idleUnmap (slot : Nat) : Encoded.Statement (.idleUnmap slot) := rfl
theorem Encoded.leaseExpire (slot : Nat) : Encoded.Statement (.leaseExpire slot) := rfl
theorem Encoded.preemptDeadline (n : Nat) : Encoded.Statement (.preemptDeadline n) := rfl
theorem Encoded.contextSave (n : Nat) : Encoded.Statement (.contextSave n) := rfl
theorem Encoded.saveComplete (n : Nat) : Encoded.Statement (.saveComplete n) := rfl
theorem Encoded.xinvWrite (part : Nat) (x : DWord) : Encoded.Statement (.xinvWrite part x) := rfl
theorem Encoded.shootdownComplete (part : Nat) : Encoded.Statement (.shootdownComplete part) := rfl
theorem Encoded.fresolveWrite (part : Nat) (x : DWord) : Encoded.Statement (.fresolveWrite part x) := rfl
theorem Encoded.fbgetWrite (part : Nat) (x : DWord) : Encoded.Statement (.fbgetWrite part x) := rfl
theorem Encoded.registerWrite (off : Nat) (x : DWord) : Encoded.Statement (.registerWrite off x) := rfl
theorem Encoded.mailboxRead (win off size : Nat) : Encoded.Statement (.mailboxRead win off size) := rfl
theorem Encoded.mailboxWrite (win off size x : Nat) : Encoded.Statement (.mailboxWrite win off size x) := rfl
theorem Encoded.proofCoreRestart (cluster : Nat) : Encoded.Statement (.proofCoreRestart cluster) := rfl
theorem Encoded.bootVerifyFirmware : Encoded.Statement .bootVerifyFirmware := rfl
theorem Encoded.bootVerifyConfiguration : Encoded.Statement .bootVerifyConfiguration := rfl
theorem Encoded.firmwareVerifyDone : Encoded.Statement .firmwareVerifyDone := rfl
theorem Encoded.configurationBringupDone (selfTestOk : Bool) : Encoded.Statement (.configurationBringupDone selfTestOk) := rfl
theorem Encoded.featureLock : Encoded.Statement .featureLock := rfl
theorem Encoded.attestGo : Encoded.Statement .attestGo := rfl
theorem Encoded.attestReportDone : Encoded.Statement .attestReportDone := rfl
theorem Encoded.mmgmtSend : Encoded.Statement .mmgmtSend := rfl
theorem Encoded.packageReset : Encoded.Statement .packageReset := rfl
theorem Encoded.sockGo (s : Nat) : Encoded.Statement (.sockGo s) := rfl
theorem Encoded.sockQuiesce (s : Nat) : Encoded.Statement (.sockQuiesce s) := rfl
theorem Encoded.sockReset (s : Nat) : Encoded.Statement (.sockReset s) := rfl
theorem Encoded.engineInsert (s : Nat) (rom : List Byte) : Encoded.Statement (.engineInsert s rom) := rfl
theorem Encoded.engineRemove (s : Nat) : Encoded.Statement (.engineRemove s) := rfl
theorem Encoded.romVerifyDone (s : Nat) : Encoded.Statement (.romVerifyDone s) := rfl
theorem Encoded.drainComplete (s : Nat) : Encoded.Statement (.drainComplete s) := rfl
theorem Encoded.drainTimeout (s : Nat) : Encoded.Statement (.drainTimeout s) := rfl
theorem Encoded.laneFail (s lane reason : Nat) : Encoded.Statement (.laneFail s lane reason) := rfl
theorem Encoded.spareLock (s lane spare : Nat) : Encoded.Statement (.spareLock s lane spare) := rfl
theorem Encoded.laneRetry (s lane : Nat) (pass : Bool) : Encoded.Statement (.laneRetry s lane pass) := rfl
theorem Encoded.retrain (s lane : Nat) (pass : Bool) : Encoded.Statement (.retrain s lane pass) := rfl
theorem Encoded.ageingUpdate (s lane current : Nat) : Encoded.Statement (.ageingUpdate s lane current) := rfl
theorem Encoded.laserRetire (s lane spare : Nat) : Encoded.Statement (.laserRetire s lane spare) := rfl
theorem Encoded.cadenceTickSend : Encoded.Statement .cadenceTickSend := rfl
theorem Encoded.cadenceTickReceive (n level : Nat) : Encoded.Statement (.cadenceTickReceive n level) := rfl
theorem Encoded.levelApply : Encoded.Statement .levelApply := rfl
theorem Encoded.demandReceive (member level : Nat) : Encoded.Statement (.demandReceive member level) := rfl
theorem Encoded.cadenceLost : Encoded.Statement .cadenceLost := rfl
theorem Encoded.thermalEmergency : Encoded.Statement .thermalEmergency := rfl
theorem Encoded.powerSample (m : Monitors) : Encoded.Statement (.powerSample m) := rfl
theorem Encoded.rowSelfTestDone (core row : Nat) (pass : Bool) : Encoded.Statement (.rowSelfTestDone core row pass) := rfl
theorem Encoded.throttleDemandReceive (ep : Nat) (on : Bool) : Encoded.Statement (.throttleDemandReceive ep on) := rfl

end Sys2Proof.Laws
end

