-- ==== Sys2Proof/Tests/Slice0.lean ====
section
/-! SUPPORT. Tests: ill-formed terms that WellFormed refuses, words written out from the tables of 05, a few steps,
and for each statement of Obligations.lean with hypotheses a state that meets them (its name stands in the docstring). -/

namespace Sys2Proof.Tests

open Sys2Proof Sys2Proof.Machine Sys2Proof.Claims

set_option Elab.async false

/-! ### Ill-formed terms, one for each check of `Instr.wf` -/

theorem test_wf_target_syllable : (Instr.bra ⟨0, 15⟩).wf = false := by decide
theorem test_wf_call_target : (Instr.callLiteral 1 ⟨5, 15⟩).wf = false := by decide
theorem test_wf_field_beyond_type : (Instr.sbfx .i32 1 2 20 13).wf = false ∧ (Instr.sbfi .i32 1 2 0 0).wf = false := by decide
theorem test_wf_saddr_type : (Instr.saddr .i16 1 2 3 4 5).wf = false := by decide
theorem test_wf_vli : (Instr.vli 0 (.int .i64) 1 0).wf = false ∧ (Instr.vli 0 (.flt .f16) 1 0x10000).wf = false := by decide
theorem test_wf_vector_integer_type : (Instr.vaddLong 0 .i64 1 2 3).wf = false ∧ (Instr.vabsLong 0 .n8 1 2).wf = false := by decide
theorem test_wf_vbfx : (Instr.vbfx 0 .n64 1 2 0 8).wf = false ∧ (Instr.vbfx 0 .n8 1 2 4 5).wf = false := by decide
theorem test_wf_float_type : (Instr.vfma 0 .e4m3 .rn 1 2 3 4).wf = false := by decide
theorem test_wf_float_literal : (Instr.vfaddLiteral 0 .bf16 .rn 1 2 0x10000).wf = false := by decide
theorem test_wf_vcvt : (Instr.vcvt 0 (.int .i8) (.flt .f32) .rn true 1 2).wf = false
    ∧ (Instr.vcvt 0 (.int .i8) (.int .i16) .rz false 1 2).wf = false := by decide
theorem test_wf_mset : (Instr.mset 1 60 5).wf = false ∧ (Instr.mset 1 0 65).wf = false := by decide
theorem test_wf_reduction_type : (Instr.vred 0 0 .fadd (.int .i32) 1 2 3).wf = false := by decide
theorem test_wf_load_sign : (Instr.vldLong 0 0 .unit .w true 1 2 3).wf = false ∧ (Instr.sldLong 0 .d true 1 2 3).wf = false := by decide
theorem test_wf_atomic : (Instr.vatom 0 0 .add .none .team (.int .i64) 1 2 3 0).wf = false
    ∧ (Instr.satom 0 .add .none .clu (.int .i64) 1 2 3 0).wf = false ∧ (Instr.tatom .add (.int .i64) 1 2 3 4).wf = false := by decide
theorem test_wf_mask_and_tiles : (Instr.tmcast 0 1 2 3 4).wf = false ∧ (Instr.mzero 48).wf = false ∧ (Instr.mcvt true .rn 1 48 2).wf = false
    ∧ (Instr.maddg true .rz 1 2 3).wf = false := by decide
theorem test_wf_registers : (Instr.rdsr 1 .clock 2).wf = false ∧ (Instr.rdsr 0 .clock 128).wf = false ∧ (Instr.wrsr .clock 1).wf = false
    ∧ (Instr.csrwr .pcid 1).wf = false := by decide

/-! ### Words that hold no instruction (05 R121, R131 to R133) -/

theorem test_decode_rejects : decode [0x00000003] = .error .filler ∧ decode [0x00000401] = .error .beyond ∧ decode [] = .error .beyond
    ∧ decode [0x0D * 4] = .error .opcode ∧ decode [0xFC * 4] = .error .opcode ∧ decode [0x04 * 4] = .error .form
    ∧ decode [0x00000089, 0] = .error .field := by
  and_intros <;> rfl
/-- A reserved bit, a guard on a scalar instruction, a window on a short-latency one (05 R124, R128, R129). -/
theorem test_decode_unused_fields : decode [0x00080089, 0x01000000] = .error .field ∧ decode [0x0008408D, 0] = .error .field
    ∧ decode [0x0008048D, 0] = .error .field := by
  and_intros <;> rfl

theorem test_decode_control :
    decode [0x00000000] = .ok .nop
    ∧ decode [0x00000006, 0x00000000, 0x00000052] = .ok (.bra ⟨5, 2⟩)
    ∧ decode [0x00000006, 0x00000000, 0xFFFFFFFE] = .ok (.bra ⟨0xFFFFFFF, 14⟩)
    ∧ decode [0x0000000A, 0x00000900, 0x00000030] = .ok (.brs .z 9 ⟨3, 0⟩)
    ∧ decode [0x0800000A, 0x00000900, 0x00000031] = .ok (.brs .nz 9 ⟨3, 1⟩)
    ∧ decode [0x1000000A, 0x00000900, 0x00000032] = .ok (.brs .lt 9 ⟨3, 2⟩)
    ∧ decode [0x1800000A, 0x00000900, 0x00000033] = .ok (.brs .ge 9 ⟨3, 3⟩)
    ∧ decode [0x0000000E, 0x00000900, 0x00000030] = .ok (.brm .any 9 ⟨3, 0⟩)
    ∧ decode [0x0800000E, 0x00000900, 0x00000031] = .ok (.brm .all 9 ⟨3, 1⟩)
    ∧ decode [0x1000000E, 0x00000900, 0x00000032] = .ok (.brm .none 9 ⟨3, 2⟩)
    ∧ decode [0x00000011, 0x00006400] = .ok (.jmp 100)
    ∧ decode [0x00000015, 0x00006403] = .ok (.callLong 3 100)
    ∧ decode [0x00000016, 0x00000003, 0x7FFFFFF0] = .ok (.callLiteral 3 ⟨0x7FFFFFF, 0⟩)
    ∧ decode [0xFC000018] = .ok (.ret 63)
    ∧ decode [0x0000C01E, 0x00000007, 0x00000014] = .ok (.enrol 3 7 ⟨1, 4⟩)
    ∧ decode [0x00148020] = .ok (.park 2 5)
    ∧ decode [0x00044024] = .ok (.strike 1 1)
    ∧ decode [0x03FC0028] = .ok (.safept 255)
    ∧ decode [0x0000002C] = .ok .yield
    ∧ decode [0x00000030] = .ok .exit := by
  and_intros <;> rfl

theorem test_decode_scalar :
    decode [0xFD900080] = .ok (.smovShort 100 63)
    ∧ decode [0x00000081, 0x00007F05] = .ok (.smovLong none 5 127)
    ∧ decode [0x00200081, 0x00007F05] = .ok (.smovLong (some .n64) 5 127)
    ∧ decode [0x00100086, 0x00000005, 0xFFFFFFFE] = .ok (.sli .i64 5 0xFFFFFFFE)
    ∧ decode [0x00040089, 0x007F1401] = .ok (.saddLong .i8 1 20 127)
    ∧ decode [0x0004008A, 0x00001401, 0xF0000000] = .ok (.saddLiteral .i8 1 20 0xF0000000)
    ∧ decode [0x0008008D, 0x007E1502] = .ok (.ssubLong .i16 2 21 126)
    ∧ decode [0x0008008E, 0x00001502, 0xF0000001] = .ok (.ssubLiteral .i16 2 21 0xF0000001)
    ∧ decode [0x000C0091, 0x007D1603] = .ok (.smulLong .i32 3 22 125)
    ∧ decode [0x000C0092, 0x00001603, 0xF0000002] = .ok (.smulLiteral .i32 3 22 0xF0000002)
    ∧ decode [0x00100095, 0x007C1704] = .ok (.smulhLong .i64 4 23 124)
    ∧ decode [0x00100096, 0x00001704, 0xF0000003] = .ok (.smulhLiteral .i64 4 23 0xF0000003)
    ∧ decode [0x00141099, 0x007B1805] = .ok (.sdivLong 4 .n8 5 24 123)
    ∧ decode [0x0014109A, 0x00001805, 0xF0000004] = .ok (.sdivLiteral 4 .n8 5 24 0xF0000004)
    ∧ decode [0x0018149D, 0x007A1906] = .ok (.sremLong 5 .n16 6 25 122)
    ∧ decode [0x0018149E, 0x00001906, 0xF0000005] = .ok (.sremLiteral 5 .n16 6 25 0xF0000005)
    ∧ decode [0x001C00A1, 0x00791A07] = .ok (.sandLong .n32 7 26 121)
    ∧ decode [0x001C00A2, 0x00001A07, 0xF0000006] = .ok (.sandLiteral .n32 7 26 0xF0000006)
    ∧ decode [0x002000A5, 0x00781B08] = .ok (.sorLong .n64 8 27 120)
    ∧ decode [0x002000A6, 0x00001B08, 0xF0000007] = .ok (.sorLiteral .n64 8 27 0xF0000007)
    ∧ decode [0x000400A9, 0x00771C09] = .ok (.sxorLong .i8 9 28 119)
    ∧ decode [0x000400AA, 0x00001C09, 0xF0000008] = .ok (.sxorLiteral .i8 9 28 0xF0000008)
    ∧ decode [0x000800AD, 0x00761D0A] = .ok (.sshlLong .i16 10 29 118)
    ∧ decode [0x000800AE, 0x00001D0A, 0xF0000009] = .ok (.sshlLiteral .i16 10 29 0xF0000009)
    ∧ decode [0x000C00B1, 0x00751E0B] = .ok (.sshrLong .i32 11 30 117)
    ∧ decode [0x000C00B2, 0x00001E0B, 0xF000000A] = .ok (.sshrLiteral .i32 11 30 0xF000000A)
    ∧ decode [0x001000B5, 0x00741F0C] = .ok (.ssarLong .i64 12 31 116)
    ∧ decode [0x001000B6, 0x00001F0C, 0xF000000B] = .ok (.ssarLiteral .i64 12 31 0xF000000B)
    ∧ decode [0x001400B9, 0x0073200D] = .ok (.sminLong .n8 13 32 115)
    ∧ decode [0x001400BA, 0x0000200D, 0xF000000C] = .ok (.sminLiteral .n8 13 32 0xF000000C)
    ∧ decode [0x001800BD, 0x0072210E] = .ok (.smaxLong .n16 14 33 114)
    ∧ decode [0x001800BE, 0x0000210E, 0xF000000D] = .ok (.smaxLiteral .n16 14 33 0xF000000D)
    ∧ decode [0x001C00C2, 0x00000302, 0x00000007] = .ok (.scmpLiteral .eq .n32 2 3 7)
    ∧ decode [0x080C00C1, 0x00040302] = .ok (.scmpLong .ne .i32 2 3 4)
    ∧ decode [0x101C00C2, 0x00000302, 0x00000007] = .ok (.scmpLiteral .lt .n32 2 3 7)
    ∧ decode [0x180C00C1, 0x00040302] = .ok (.scmpLong .le .i32 2 3 4)
    ∧ decode [0x201C00C2, 0x00000302, 0x00000007] = .ok (.scmpLiteral .gt .n32 2 3 7)
    ∧ decode [0x280C00C1, 0x00040302] = .ok (.scmpLong .ge .i32 2 3 4)
    ∧ decode [0x000000C5, 0x04030201] = .ok (.ssel 1 2 3 4)
    ∧ decode [0x080400C8] = .ok (.spopcShort 1 2)
    ∧ decode [0x001400C9, 0x00005A01] = .ok (.spopcLong .n8 1 90)
    ∧ decode [0x080400CC] = .ok (.sclzShort 1 2)
    ∧ decode [0x001800CD, 0x00005A01] = .ok (.sclzLong .n16 1 90)
    ∧ decode [0x000C00D2, 0x00000403, 0x00000C08] = .ok (.sbfx .i32 3 4 8 12)
    ∧ decode [0x002000D6, 0x00000403, 0x00004000] = .ok (.sbfi .n64 3 4 0 64)
    ∧ decode [0x281000D9, 0x04030201] = .ok (.saddr .i64 1 2 3 4 5) := by
  and_intros <;> rfl

theorem test_decode_vector :
    decode [0xFF23C100] = .ok (.vmovShort 15 200 63)
    ∧ decode [0x00004101, 0x0000C9C8] = .ok (.vmovLong 1 200 201)
    ∧ decode [0x00004101, 0x010065C8] = .ok (.vmovBcast 1 200 101)
    ∧ decode [0x00088106, 0x00000009, 0x0000FFFF] = .ok (.vli 2 (.int .i16) 9 0xFFFF)
    ∧ decode [0x00240106, 0x00000009, 0x3F800000] = .ok (.vli 0 (.flt .f32) 9 0x3F800000)
    ∧ decode [0x00040109, 0x00FF6401] = .ok (.vaddLong 0 .i8 1 100 255)
    ∧ decode [0x0004010A, 0x00006401, 0x00000080] = .ok (.vaddLiteral 0 .i8 1 100 128)
    ∧ decode [0x0008410D, 0x00FE6502] = .ok (.vsubLong 1 .i16 2 101 254)
    ∧ decode [0x0008410E, 0x00006502, 0x00000081] = .ok (.vsubLiteral 1 .i16 2 101 129)
    ∧ decode [0x000C8111, 0x00FD6603] = .ok (.vmulLong 2 .i32 3 102 253)
    ∧ decode [0x000C8112, 0x00006603, 0x00000082] = .ok (.vmulLiteral 2 .i32 3 102 130)
    ∧ decode [0x0014C115, 0x00FC6704] = .ok (.vmulhLong 3 .n8 4 103 252)
    ∧ decode [0x0014C116, 0x00006704, 0x00000083] = .ok (.vmulhLiteral 3 .n8 4 103 131)
    ∧ decode [0x001D4119, 0x04030201] = .ok (.vmad 5 .n32 1 2 3 4)
    ∧ decode [0x0005011D, 0x00FB6805] = .ok (.vaddsatLong 4 .i8 5 104 251)
    ∧ decode [0x0005011E, 0x00006805, 0x00000084] = .ok (.vaddsatLiteral 4 .i8 5 104 132)
    ∧ decode [0x00094121, 0x00FA6906] = .ok (.vsubsatLong 5 .i16 6 105 250)
    ∧ decode [0x00094122, 0x00006906, 0x00000085] = .ok (.vsubsatLiteral 5 .i16 6 105 133)
    ∧ decode [0x000D8125, 0x00F96A07] = .ok (.vandLong 6 .i32 7 106 249)
    ∧ decode [0x000D8126, 0x00006A07, 0x00000086] = .ok (.vandLiteral 6 .i32 7 106 134)
    ∧ decode [0x0015C129, 0x00F86B08] = .ok (.vorLong 7 .n8 8 107 248)
    ∧ decode [0x0015C12A, 0x00006B08, 0x00000087] = .ok (.vorLiteral 7 .n8 8 107 135)
    ∧ decode [0x001A012D, 0x00F76C09] = .ok (.vxorLong 8 .n16 9 108 247)
    ∧ decode [0x001A012E, 0x00006C09, 0x00000088] = .ok (.vxorLiteral 8 .n16 9 108 136)
    ∧ decode [0x001E4131, 0x00F66D0A] = .ok (.vshlLong 9 .n32 10 109 246)
    ∧ decode [0x001E4132, 0x00006D0A, 0x00000089] = .ok (.vshlLiteral 9 .n32 10 109 137)
    ∧ decode [0x00068135, 0x00F56E0B] = .ok (.vshrLong 10 .i8 11 110 245)
    ∧ decode [0x00068136, 0x00006E0B, 0x0000008A] = .ok (.vshrLiteral 10 .i8 11 110 138)
    ∧ decode [0x000AC139, 0x00F46F0C] = .ok (.vsarLong 11 .i16 12 111 244)
    ∧ decode [0x000AC13A, 0x00006F0C, 0x0000008B] = .ok (.vsarLiteral 11 .i16 12 111 139)
    ∧ decode [0x000F013D, 0x00F3700D] = .ok (.vminLong 12 .i32 13 112 243)
    ∧ decode [0x000F013E, 0x0000700D, 0x0000008C] = .ok (.vminLiteral 12 .i32 13 112 140)
    ∧ decode [0x00174141, 0x00F2710E] = .ok (.vmaxLong 13 .n8 14 113 242)
    ∧ decode [0x00174142, 0x0000710E, 0x0000008D] = .ok (.vmaxLiteral 13 .n8 14 113 141)
    ∧ decode [0x201C0144] = .ok (.vabsShort 0 7 8)
    ∧ decode [0x00040145, 0x00000807] = .ok (.vabsLong 0 .i8 7 8)
    ∧ decode [0x001C014A, 0x00000302, 0x00000007] = .ok (.vcmpLiteral 0 .eq .n32 2 3 7)
    ∧ decode [0x080C4149, 0x00040302] = .ok (.vcmpLong 1 .ne .i32 2 3 4)
    ∧ decode [0x101C814A, 0x00000302, 0x00000007] = .ok (.vcmpLiteral 2 .lt .n32 2 3 7)
    ∧ decode [0x180CC149, 0x00040302] = .ok (.vcmpLong 3 .le .i32 2 3 4)
    ∧ decode [0x201D014A, 0x00000302, 0x00000007] = .ok (.vcmpLiteral 4 .gt .n32 2 3 7)
    ∧ decode [0x280D4149, 0x00040302] = .ok (.vcmpLong 5 .ge .i32 2 3 4)
    ∧ decode [0x0000414D, 0x04030201] = .ok (.vsel 1 1 2 3 4)
    ∧ decode [0x08040150] = .ok (.vpopcShort 0 1 2)
    ∧ decode [0x00140151, 0x00000201] = .ok (.vpopcLong 0 .n8 1 2)
    ∧ decode [0x08040154] = .ok (.vclzShort 0 1 2)
    ∧ decode [0x00180155, 0x00000201] = .ok (.vclzLong 0 .n16 1 2)
    ∧ decode [0x000C415A, 0x00000201, 0x0000011F] = .ok (.vbfx 1 .i32 1 2 31 1)
    ∧ decode [0x0404015D, 0x04030201] = .ok (.vdot4 0 true false true 1 2 3 4)
    ∧ decode [0x0814015D, 0x04030201] = .ok (.vdot4 0 false true false 1 2 3 4) := by
  and_intros <;> rfl

theorem test_decode_float :
    decode [0x00244181, 0x00030201] = .ok (.vfaddLong 1 .f32 .rn 1 2 3)
    ∧ decode [0x00244182, 0x00000201, 0x3F800000] = .ok (.vfaddLiteral 1 .f32 .rn 1 2 0x3F800000)
    ∧ decode [0x01284185, 0x00030201] = .ok (.vfsubLong 1 .f16 .rz 1 2 3)
    ∧ decode [0x01284186, 0x00000201, 0x00003C00] = .ok (.vfsubLiteral 1 .f16 .rz 1 2 0x3C00)
    ∧ decode [0x022C4189, 0x00030201] = .ok (.vfmulLong 1 .bf16 .ru 1 2 3)
    ∧ decode [0x022C418A, 0x00000201, 0x00003F80] = .ok (.vfmulLiteral 1 .bf16 .ru 1 2 0x3F80)
    ∧ decode [0x0324018D, 0x0B0A0908] = .ok (.vfma 0 .f32 .rd 8 9 10 11)
    ∧ decode [0x00280191, 0x00030201] = .ok (.vfminLong 0 .f16 1 2 3)
    ∧ decode [0x002C0192, 0x00000201, 0x00008000] = .ok (.vfminLiteral 0 .bf16 1 2 0x8000)
    ∧ decode [0x00280195, 0x00030201] = .ok (.vfmaxLong 0 .f16 1 2 3)
    ∧ decode [0x002C0196, 0x00000201, 0x00008000] = .ok (.vfmaxLiteral 0 .bf16 1 2 0x8000)
    ∧ decode [0x08048198] = .ok (.vfabsShort 2 1 2)
    ∧ decode [0x002C8199, 0x00000201] = .ok (.vfabsLong 2 .bf16 1 2)
    ∧ decode [0x0804819C] = .ok (.vfnegShort 2 1 2)
    ∧ decode [0x002C819D, 0x00000201] = .ok (.vfnegLong 2 .bf16 1 2)
    ∧ decode [0x002401A2, 0x00000302, 0x00000007] = .ok (.vfcmpLiteral 0 .eq .f32 2 3 7)
    ∧ decode [0x082401A1, 0x00040302] = .ok (.vfcmpLong 0 .ne .f32 2 3 4)
    ∧ decode [0x102401A2, 0x00000302, 0x00000007] = .ok (.vfcmpLiteral 0 .lt .f32 2 3 7)
    ∧ decode [0x182401A1, 0x00040302] = .ok (.vfcmpLong 0 .le .f32 2 3 4)
    ∧ decode [0x202401A2, 0x00000302, 0x00000007] = .ok (.vfcmpLiteral 0 .gt .f32 2 3 7)
    ∧ decode [0x282401A1, 0x00040302] = .ok (.vfcmpLong 0 .ge .f32 2 3 4)
    ∧ decode [0x302401A2, 0x00000302, 0x00000007] = .ok (.vfcmpLiteral 0 .un .f32 2 3 7)
    ∧ decode [0x382401A1, 0x00040302] = .ok (.vfcmpLong 0 .ord .f32 2 3 4)
    ∧ decode [0x0804C5A4] = .ok (.vrcpShort 3 1 1 2)
    ∧ decode [0x0028FDA5, 0x00000201] = .ok (.vrcpLong 3 15 .f16 .rn 1 2)
    ∧ decode [0x0804C9A8] = .ok (.vrsqShort 3 2 1 2)
    ∧ decode [0x0128F9A9, 0x00000201] = .ok (.vrsqLong 3 14 .f16 .rz 1 2)
    ∧ decode [0x0804CDAC] = .ok (.vsqrtShort 3 3 1 2)
    ∧ decode [0x0228F5AD, 0x00000201] = .ok (.vsqrtLong 3 13 .f16 .ru 1 2)
    ∧ decode [0x080411B0] = .ok (.vdivShort 0 4 1 2)
    ∧ decode [0x022411B1, 0x00030201] = .ok (.vdivLong 0 4 .f32 .ru 1 2 3)
    ∧ decode [0x080401B4] = .ok (.vexp2Short 0 0 1 2)
    ∧ decode [0x002401B5, 0x00000201] = .ok (.vexp2Long 0 0 .f32 1 2)
    ∧ decode [0x080405B8] = .ok (.vlog2Short 0 1 1 2)
    ∧ decode [0x002805B9, 0x00000201] = .ok (.vlog2Long 0 1 .f16 1 2)
    ∧ decode [0x080409BC] = .ok (.vsinShort 0 2 1 2)
    ∧ decode [0x002C09BD, 0x00000201] = .ok (.vsinLong 0 2 .bf16 1 2)
    ∧ decode [0x08040DC0] = .ok (.vcosShort 0 3 1 2)
    ∧ decode [0x00240DC1, 0x00000201] = .ok (.vcosLong 0 3 .f32 1 2)
    ∧ decode [0x080411C4] = .ok (.vtanhShort 0 4 1 2)
    ∧ decode [0x002811C5, 0x00000201] = .ok (.vtanhLong 0 4 .f16 1 2)
    ∧ decode [0x0425C1C9, 0x0D001514] = .ok (.vcvt 7 (.flt .e4m3) (.flt .f32) .rn true 20 21)
    ∧ decode [0x012C01C9, 0x03001514] = .ok (.vcvt 0 (.int .i32) (.flt .bf16) .rz false 20 21)
    ∧ decode [0x032441CD, 0x00000201] = .ok (.vfrint 1 .f32 .rd 1 2) := by
  and_intros <;> rfl

theorem test_decode_masks_and_lanes :
    decode [0x00000201, 0x00060501] = .ok (.mand 1 5 6)
    ∧ decode [0x00000205, 0x00060502] = .ok (.mor 2 5 6)
    ∧ decode [0x00000209, 0x00060503] = .ok (.mxor 3 5 6)
    ∧ decode [0x0000020D, 0x00060504] = .ok (.mandn 4 5 6)
    ∧ decode [0x100C0210] = .ok (.mnot 3 4)
    ∧ decode [0x00000215, 0x00006403] = .ok (.mmovToMask 3 100)
    ∧ decode [0x00000215, 0x01000364] = .ok (.mmovToScalar 100 3)
    ∧ decode [0x00000219, 0x0400C803] = .ok (.mballot 3 200 4)
    ∧ decode [0x0000021D, 0x00000364] = .ok (.mpopc 100 3)
    ∧ decode [0x00000221, 0x00000364] = .ok (.mfirst 100 3)
    ∧ decode [0x00000226, 0x00000003, 0x00000838] = .ok (.mset 3 8 56)
    ∧ decode [0x00015A41, 0x04030201] = .ok (.vshfl 5 6 .idx 1 2 3 4)
    ∧ decode [0x08015A41, 0x04030201] = .ok (.vshfl 5 6 .xor 1 2 3 4)
    ∧ decode [0x10015A41, 0x04030201] = .ok (.vshfl 5 6 .up 1 2 3 4)
    ∧ decode [0x18015A41, 0x04030201] = .ok (.vshfl 5 6 .down 1 2 3 4)
    ∧ decode [0x00015A45, 0x04640201] = .ok (.vrotLong 5 6 1 2 100 4)
    ∧ decode [0x00015A46, 0x04000201, 0x00000007] = .ok (.vrotLiteral 5 6 1 2 7 4)
    ∧ decode [0x00000249, 0x04640201] = .ok (.vbcast 0 0 1 2 100 4)
    ∧ decode [0x000C0E4D, 0x04000201] = .ok (.vred 0 3 .add (.int .i32) 1 2 4)
    ∧ decode [0x881C0E51, 0x04000201] = .ok (.vscan 0 3 .min true (.int .n32) 1 2 4)
    ∧ decode [0x100C0E4D, 0x04000201] = .ok (.vred 0 3 .max (.int .i32) 1 2 4)
    ∧ decode [0x981C0E51, 0x04000201] = .ok (.vscan 0 3 .and true (.int .n32) 1 2 4)
    ∧ decode [0x200C0E4D, 0x04000201] = .ok (.vred 0 3 .or (.int .i32) 1 2 4)
    ∧ decode [0xA81C0E51, 0x04000201] = .ok (.vscan 0 3 .xor true (.int .n32) 1 2 4)
    ∧ decode [0x30240E4D, 0x04000201] = .ok (.vred 0 3 .fadd (.flt .f32) 1 2 4)
    ∧ decode [0xB8240E51, 0x04000201] = .ok (.vscan 0 3 .fmin true (.flt .f32) 1 2 4)
    ∧ decode [0x40240E4D, 0x04000201] = .ok (.vred 0 3 .fmax (.flt .f32) 1 2 4)
    ∧ decode [0x00000E55, 0x04000201] = .ok (.vcompact 0 3 1 2 4)
    ∧ decode [0x00000E59, 0x04000201] = .ok (.vexpand 0 3 1 2 4) := by
  and_intros <;> rfl

theorem test_decode_memory :
    decode [0xA8000281, 0x20060402] = .ok (.vldLong 0 0 (.offset 6) .h true 2 4 0x20)
    ∧ decode [0x10005681, 0x01000402] = .ok (.vldLong 1 5 .unit .w false 2 4 1)
    ∧ decode [0x58000282, 0x00000402, 0x00001234] = .ok (.vldLiteral 0 0 .bcast .d false 2 4 0x1234)
    ∧ decode [0x20000285, 0x03060402] = .ok (.vstLong 0 (some 6) .b 2 4 3)
    ∧ decode [0x10004286, 0x00000402, 0x00001234] = .ok (.vstLiteral 1 none .w 2 4 0x1234)
    ∧ decode [0x90002689, 0x03000402] = .ok (.sldLong 9 .w true 2 4 3)
    ∧ decode [0x1800028A, 0x00000402, 0xFFFFFFF8] = .ok (.sldLiteral 0 .d false 2 4 0xFFFFFFF8)
    ∧ decode [0x0800028D, 0x03000402] = .ok (.sstLong .h 2 4 3)
    ∧ decode [0x1800028E, 0x00000402, 0x00001234] = .ok (.sstLiteral .d 2 4 0x1234)
    ∧ decode [0x10000291, 0x03000402] = .ok (.ll 0 false none 2 4 3)
    ∧ decode [0xD9000A91, 0x03000402] = .ok (.ll 2 true (some .sys) 2 4 3)
    ∧ decode [0x7A000295, 0x03000402] = .ok (.su true (some .clu) 2 4 3)
    ∧ decode [0x001C0299, 0x00050403] = .ok (.vatom 0 0 .add .none .team (.int .n32) 3 4 5 0)
    ∧ decode [0x0D1C0299, 0x00050403] = .ok (.vatom 0 0 .sub .acq .clu (.int .n32) 3 4 5 0)
    ∧ decode [0x921C0299, 0x00050403] = .ok (.vatom 0 0 .min .rel .pkg (.int .n32) 3 4 5 0)
    ∧ decode [0x9F1C0299, 0x00050403] = .ok (.vatom 0 0 .max .acqrel .sys (.int .n32) 3 4 5 0)
    ∧ decode [0x201C0299, 0x00050403] = .ok (.vatom 0 0 .and .none .team (.int .n32) 3 4 5 0)
    ∧ decode [0x2D1C0299, 0x00050403] = .ok (.vatom 0 0 .or .acq .clu (.int .n32) 3 4 5 0)
    ∧ decode [0xB21C0299, 0x00050403] = .ok (.vatom 0 0 .xor .rel .pkg (.int .n32) 3 4 5 0)
    ∧ decode [0xBF1C0299, 0x00050403] = .ok (.vatom 0 0 .exch .acqrel .sys (.int .n32) 3 4 5 0)
    ∧ decode [0x401C0299, 0x09050403] = .ok (.vatom 0 0 .cas .none .team (.int .n32) 3 4 5 9)
    ∧ decode [0x4D240299, 0x00050403] = .ok (.vatom 0 0 .fadd .acq .clu (.flt .f32) 3 4 5 0)
    ∧ decode [0xC7201E9D, 0x06050403] = .ok (.satom 7 .cas .acqrel .sys (.int .n64) 3 4 5 6) := by
  and_intros <;> rfl

theorem test_decode_arrival_words_and_far_memory :
    decode [0x00000301, 0x06050400] = .ok (.arinitLong 4 6 5)
    ∧ decode [0x00000302, 0x06000400, 0x00000063] = .ok (.arinitLiteral 4 6 99)
    ∧ decode [0x08000305, 0x06050401] = .ok (.arwait .team 1 4 6 5)
    ∧ decode [0x30000309, 0x06050401] = .ok (.artest .sys 1 4 6 5)
    ∧ decode [0x1000030D, 0x06050400] = .ok (.araddLong .pair 4 6 5)
    ∧ decode [0x0000030E, 0x06000400, 0x00000063] = .ok (.araddLiteral .grp 4 6 99)
    ∧ decode [0x00000310] = .ok .tmbar
    ∧ decode [0x00000314] = .ok .clbar
    ∧ decode [0x00380318] = .ok (.fence .rel .clu)
    ∧ decode [0x00040318] = .ok (.fence .acq .grp)
    ∧ decode [0x005C0318] = .ok (.fence .acqrel .dom)
    ∧ decode [0x00000341, 0x0C0B0A09] = .ok (.tfetch 9 10 11 12)
    ∧ decode [0x78000345, 0x0C0B0A09] = .ok (.tmcast 0xF 9 10 11 12)
    ∧ decode [0x00000349, 0x0C0B0A09] = .ok (.tgather 9 10 11 12)
    ∧ decode [0x0000034D, 0x0C0B0A09] = .ok (.tstore 9 10 11 12)
    ∧ decode [0x00000351, 0x0C0B0A09] = .ok (.treduce .add 9 10 11 12)
    ∧ decode [0x08000351, 0x0C0B0A09] = .ok (.treduce .min 9 10 11 12)
    ∧ decode [0x10000351, 0x0C0B0A09] = .ok (.treduce .max 9 10 11 12)
    ∧ decode [0x00000355, 0x0C0B0A09] = .ok (.tfill 9 10 11 12)
    ∧ decode [0x00000359, 0x0C0B0A09] = .ok (.tcopy 9 10 11 12)
    ∧ decode [0x4020035D, 0x0C0B0A09] = .ok (.tatom .cas (.int .n64) 9 10 11 12)
    ∧ decode [0x00000361, 0x0C0B0A09] = .ok (.bulkld 9 10 11 12)
    ∧ decode [0x00000365, 0x0C0B0A09] = .ok (.bulkst 9 10 11 12)
    ∧ decode [0x00000369, 0x0C0B0A09] = .ok (.pagereq 9 10 11 12)
    ∧ decode [0x0000036D, 0x00000005] = .ok (.twinLim 5)
    ∧ decode [0x0800036D, 0x00000005] = .ok (.twinOut 5)
    ∧ decode [0x1000036D, 0x00000605] = .ok (.twinSet 5 6)
    ∧ decode [0x00000371, 0x00060500] = .ok (.thint 5 6) := by
  and_intros <;> rfl

theorem test_decode_matrix_and_ligature :
    decode [0x00000B81, 0xFF000403] = .ok (.forme 2 3 4 255)
    ∧ decode [0x08000381, 0x00000403] = .ok (.formeR 0 3 4)
    ∧ decode [0x00000385, 0x0302012F] = .ok (.mma false .ss 47 1 2 3)
    ∧ decode [0x18000385, 0x0302012F] = .ok (.mma true .us 47 1 2 3)
    ∧ decode [0x20000385, 0x0302012F] = .ok (.mma false .su 47 1 2 3)
    ∧ decode [0x38000385, 0x0302012F] = .ok (.mma true .uu 47 1 2 3)
    ∧ decode [0x001C0388] = .ok (.mzero 7)
    ∧ decode [0x0000038D, 0x00640107] = .ok (.mldg 7 1 100)
    ∧ decode [0x00000391, 0x00640701] = .ok (.mstg 1 7 100)
    ∧ decode [0x09000395, 0x05000203] = .ok (.mcvt true .rz 3 2 5)
    ∧ decode [0x02240399, 0x00030201] = .ok (.maddg false .ru 1 2 3)
    ∧ decode [0x000C0399, 0x00030201] = .ok (.maddg true .rn 1 2 3)
    ∧ decode [0x0000039C] = .ok .mwait
    ∧ decode [0x180003A1, 0x00060500] = .ok (.ligbind 3 5 6)
    ∧ decode [0x000003A5, 0x00000500] = .ok (.ligeval 5)
    ∧ decode [0x002403A9, 0x00060500] = .ok (.ligemit false 5 6)
    ∧ decode [0x002C03A9, 0x00060500] = .ok (.ligemit true 5 6)
    ∧ decode [0x000003AC] = .ok .ligwait
    ∧ decode [0x040003AC] = .ok .ligclr := by
  and_intros <;> rfl

theorem test_decode_handoffs_tasks_and_privilege :
    decode [0x380003B1, 0x09000500] = .ok (.handoff 7 5 9)
    ∧ decode [0x000003B5, 0x00030201] = .ok (.taskq 1 2 3)
    ∧ decode [0x080003B5, 0x00030201] = .ok (.taskpush 1 2 3)
    ∧ decode [0x100003B5, 0x00000201] = .ok (.taskdone 1 2)
    ∧ decode [0x000003B9, 0x00030201] = .ok (.launch 1 2 3)
    ∧ decode [0x000003BD, 0xFF000001] = .ok (.grow 1 255)
    ∧ decode [0x080003BD, 0x0F000000] = .ok (.shrink 15)
    ∧ decode [0x032003C0] = .ok (.trap 200)
    ∧ decode [0x000403C4] = .ok (.brk 1)
    ∧ decode [0x000003C9, 0x00000005] = .ok (.rdsr 0 .clock 5)
    ∧ decode [0x000003C9, 0x02000005] = .ok (.rdsr 0 .group 5)
    ∧ decode [0x000003C9, 0x03000005] = .ok (.rdsr 0 .team 5)
    ∧ decode [0x000003C9, 0x04000005] = .ok (.rdsr 0 .core 5)
    ∧ decode [0x000003C9, 0x05000005] = .ok (.rdsr 0 .cluster 5)
    ∧ decode [0x000003C9, 0x06000005] = .ok (.rdsr 0 .fstat 5)
    ∧ decode [0x000003C9, 0x07000005] = .ok (.rdsr 0 .kdata 5)
    ∧ decode [0x000003C9, 0x08000005] = .ok (.rdsr 0 .ngroups 5)
    ∧ decode [0x000003C9, 0x09000005] = .ok (.rdsr 0 .width 5)
    ∧ decode [0x000003C9, 0x0A000005] = .ok (.rdsr 0 .vregs 5)
    ∧ decode [0x000003C9, 0x0B000005] = .ok (.rdsr 0 .kargs 5)
    ∧ decode [0x000003C9, 0x40000005] = .ok (.rdsr 0 .dsel 5)
    ∧ decode [0x000003C9, 0x41000005] = .ok (.rdsr 0 .ddata 5)
    ∧ decode [0x0000C3C9, 0x010000C8] = .ok (.rdsr 3 .lane 200)
    ∧ decode [0x000003CD, 0x06000500] = .ok (.wrsr .fstat 5)
    ∧ decode [0x000003CD, 0x41000500] = .ok (.wrsr .ddata 5)
    ∧ decode [0x000003CD, 0x40000500] = .ok (.wrsr .dsel 5)
    ∧ decode [0x000003D1, 0x00000201] = .ok (.dbgmap 1 2)
    ∧ decode [0x080003D1, 0x00000001] = .ok (.dbgmapU 1)
    ∧ decode [0x180013D5, 0x03000201] = .ok (.dbgrd 4 .d 1 2 3)
    ∧ decode [0x000003D9, 0x03000201] = .ok (.dbgwr .b 1 2 3)
    ∧ decode [0x000003DC] = .ok .tret
    ∧ decode [0x040003DC] = .ok .tretExit
    ∧ decode [0x000003E1, 0x00030201] = .ok (.preempt 1 2 3)
    ∧ decode [0x080003E1, 0x00000201] = .ok (.preemptQ 1 2)
    ∧ decode [0x000003E5, 0x00000605] = .ok (.xlatinvPg 5 6)
    ∧ decode [0x080003E5, 0x00000605] = .ok (.xlatinvAll 5 6)
    ∧ decode [0x100003E5, 0x00000605] = .ok (.xlatinvUnreach 5 6)
    ∧ decode [0x180003E5, 0x00000605] = .ok (.xlatinvReach 5 6)
    ∧ decode [0x000003E9, 0x00000005] = .ok (.csrrd 5 .pcid)
    ∧ decode [0x000003E9, 0x02000005] = .ok (.csrrd 5 .treca)
    ∧ decode [0x000003E9, 0x03000005] = .ok (.csrrd 5 .trecb)
    ∧ decode [0x000003E9, 0x04000005] = .ok (.csrrd 5 .trecc)
    ∧ decode [0x000003E9, 0x05000005] = .ok (.csrrd 5 .trecd)
    ∧ decode [0x000003E9, 0x06000005] = .ok (.csrrd 5 .tqcount)
    ∧ decode [0x000003E9, 0x07000005] = .ok (.csrrd 5 .orphovf)
    ∧ decode [0x000003E9, 0x08000005] = .ok (.csrrd 5 .dbgstat)
    ∧ decode [0x000003E9, 0x09000005] = .ok (.csrrd 5 .predl)
    ∧ decode [0x000003E9, 0x11000005] = .ok (.csrrd 5 .feva)
    ∧ decode [0x000003E9, 0x12000005] = .ok (.csrrd 5 .fevb)
    ∧ decode [0x000003E9, 0x13000005] = .ok (.csrrd 5 .fevcount)
    ∧ decode [0x000003E9, 0x14000005] = .ok (.csrrd 5 .fevovf)
    ∧ decode [0x000003E9, 0x15000005] = .ok (.csrrd 5 .preach0)
    ∧ decode [0x000003E9, 0x16000005] = .ok (.csrrd 5 .preach1)
    ∧ decode [0x000003E9, 0x17000005] = .ok (.csrrd 5 .fepid)
    ∧ decode [0x000003E9, 0x01000005] = .ok (.tqnextRead 5)
    ∧ decode [0x000003E9, 0x10000005] = .ok (.fevnextRead 5)
    ∧ decode [0x000003ED, 0x07000500] = .ok (.csrwr .orphovf 5)
    ∧ decode [0x000003ED, 0x09000500] = .ok (.csrwr .predl 5)
    ∧ decode [0x000003ED, 0x14000500] = .ok (.csrwr .fevovf 5) := by
  and_intros <;> rfl

set_option maxRecDepth 20000
set_option exponentiation.threshold 600

/-! ### A small machine: one team of one group on core 0, its code and its far page in module 1 -/

def krec : KRec :=
  { addr := 0, entry := 0, kdata := 0, safetab := 0, nsafe := 4, width := 8, paired := false, lig := true, nsucc := 1, groups := 1
    vregs := 16, sregs := 128, galley := 4, folio := 24576, binds := [], succs := [4096] }
def group : Group := { Group.new 0 0 1 0 0 0 krec 0x40000 0x30000 (0, 0) with fresh := false, notBefore := 0 }
def team : Team :=
  { uid := 1, launch := 2, num := 0, krec := krec, seats := [{ core := 0, folio := 0, tiles := [0, 1, 2, 3] }], cset := none
    formes := .replicate 16 0, limB := 262144, limC := 64, tqOut := 0, bound := 0, started := true, hand := none, notBefore := 0, exited := false }
def launch : Launch :=
  { uid := 2, hw := 0, part := 0, queue := 0, packet := 0, krec := krec, kargs := 0, teams := 1, cset := 1, next := 1, priv := true
    diag := true, prio := 0, held := none, lastCore := 0, descs := [], sealed := false, ended := false, outstanding := 0 }
def cur : Cur := { agent := .group 0 0, pc := 20, next := 32, tail := none, last := none }
/-- The worked line of 05: VFMA, VFADD, SADD at syllables 0, 2 and 4, EXIT at 7, fillers; only syllable 0 is a target. -/
def codeLine : List Nat :=
  [0x09010001, 0x0024018D, 0x0B0A0908, 0x01240181, 0x000D0E0C, 0x0010008A, 0x00000606, 0x00000010, 0x00000030, 3, 3, 3, 3, 3, 3, 3]
def cells (key : Nat) (ws : List Nat) : List Host.Cell :=
  (ws.zip (List.range 16)).flatMap fun w => cellsLE (key + 4 * w.2) 4 w.1
/-- s3 holds 4, s4 the number 2^63, s5 the folio offset 768, s6 the number 5. -/
def base : State :=
  { State.reset with
    cycle := 100, groups := [group], teams := [team], launches := [launch], parts := [.init 0 [0] [0]]
    cached := [{ cluster := 0, unit := 0, count := 1, ep := 1, page := 0, cls := 0, cmp := false, wr := true, tables := [], ptrs := [] }]
    modules := [{ ep := 1, table := [(0, .ofNat 64 (2 ^ 62 + 2 ^ 61))], manager := 0, moves := [], staged := [], temps := [], pendingWrite := none }]
    mem := memSetAll [] (cells (hbmKey 1 0 0) codeLine ++ group.scells 3 4 ++ group.scells 4 0x8000000000000000 ++ group.scells 5 768 ++ group.scells 6 5)
    boot := { Boot.init with st := 5, lock := true } }
/-- The group issues. -/
def demo : State := { base with cur := some cur }
def pcur : Cur := { agent := .proof 0, pc := 4, next := 8, tail := none, last := none }
/-- The proof core of cluster 0 issues; the worked line stands at its address 0, and its registers hold what the group's hold. -/
def demoP : State :=
  { base with
    cur := some pcur
    proofs := [{ ProofCore.init 0 with sregs := (((Vector.replicate 128 0).set 3 4).set 4 0x8000000000000000).set 5 768 }]
    mem := memSetAll [] (cells (proofKey 0 0) codeLine) }
/-- The group as it stands with another run state. -/
def running (r : Run) : State := { base with groups := [{ group with run := r }] }

theorem test_issuing : demo.GroupIssuing cur group ∧ demo.Issuing cur ∧ demoP.ProofIssuing pcur 0 ∧ demoP.Issuing pcur :=
  ⟨⟨rfl, rfl, rfl⟩, ⟨rfl, rfl⟩, ⟨rfl, rfl⟩, ⟨rfl, trivial⟩⟩

theorem test_inv : base.Inv ∧ demoP.Inv := by unfold State.Inv; decide

/-! ### One step -/

/-- Whether a step goes on to a state of which `p` holds. -/
def after (o : Host.Outcome State Fault Refusal) (p : State → Bool) : Bool :=
  match o with
  | .next t => p t
  | _ => false


/-- The worked line at syllable 4: SADD s6, s6, #16 leaves 21 in s6 and goes to EXIT at syllable 7. -/
theorem test_step_sadd :
    after (step { base with agenda := [.issue (.group 0 0)], groups := [{ group with pc := 20 }] }) fun t =>
      t.le (group.skey 6) 8 == 21 && (t.group? 0 0).map (·.pc) == some 32 && t.cur == none := by
  decide

/-! ### Witnesses: control -/

/-- ControlTransfersComplete: the target ⟨0, 0⟩ is allowed for both agents; each branch is taken and not taken somewhere. -/
theorem test_witness_transfers :
    demo.targetOk cur.agent (targetAddr cur.pc ⟨0, 0⟩) = .ok ∧ demoP.targetOk pcur.agent 4 = .ok
    ∧ demo.src cur 3 = 4 ∧ demoP.src pcur 3 = 4 ∧ demo.src cur 0 = 0 ∧ demo.src cur 6 ≠ 0
    ∧ (demo.sregA cur.agent 4).toInt < 0 ∧ 0 ≤ (demo.sregA cur.agent 6).toInt
    ∧ group.mask 0 &&& group.running ≠ 0 ∧ group.mask 1 &&& group.running = 0
    ∧ group.running &&& ~~~ group.mask 0 = 0 ∧ group.running &&& ~~~ group.mask 1 ≠ 0 := by decide

/-- TransferTargetsAreChecked: a syllable that is no target, and the forms at their bounds. -/
theorem test_witness_target_checks :
    demo.targetOk cur.agent (demo.src cur 5) = .cause 2 ∧ demo.targetOk cur.agent 8 = .cause 2
    ∧ targetForm (2 ^ 57) = false ∧ targetForm (2 ^ 57 - 4) = true ∧ targetForm 64 = false ∧ targetForm 6 = false
    ∧ { demo with mem := memSet demo.mem (hbmKey 1 0 0) 3 }.targetOk cur.agent 8 = .cause 1 := by decide

/-- A group whose j1 holds enrolled and parked lanes; m1 names lane 0. -/
def joined (e a p1 p2 : DWord) : Group :=
  { group with
    masks := group.masks.set 1 1
    rejoins := (group.rejoins.set 1 { enrolled := e, arrived := a, point := 4, parked := p1, valid := true }).set 2
      { enrolled := p2, arrived := p2, point := 4, parked := p2, valid := p2 != 0 } }

/-- DivergenceInstructionsComplete: one group for each clause. -/
theorem test_witness_divergence :
    demo.targetOk cur.agent (targetAddr cur.pc ⟨0, 0⟩) = .ok ∧ group.rejoins[1].valid = false
    ∧ (let g := joined 0xFF 0 0 0; g.rejoins[1].valid = true ∧ g.rejoins[1].parked = 0 ∧ g.running &&& ~~~ g.active 1 ≠ 0)
    ∧ (let g := joined 0x0F 0x0F 0 0; g.rejoins[1].enrolled &&& ~~~ (g.rejoins[1].arrived ||| g.active 0) = 0)
    ∧ (let g := joined 0xFF 0 0 0x0F
       g.rejoins[1].valid = true ∧ g.running &&& ~~~ g.active 0 = 0
        ∧ g.rejoins[1].enrolled &&& ~~~ (g.rejoins[1].arrived ||| g.active 0) ≠ 0)
    ∧ demo.heldLock cur.agent = none := by decide

def commit : Commit := { Commit.of 9 (.group 0 0) 200 0 with cells := group.scells 7 1 }
def request (st : Nat) : Preempt :=
  { id := 1, hw := 0, cluster := 0, root := 4096, space := none, teams := [1], at_ := 0, st := st, forced := 0, sched := false, live := [] }

/-- SafePointYieldAndExitComplete: with and without a commit, with and without a pre-emption. -/
theorem test_witness_safepoint :
    3 < ((demo.team? group.team).map (·.krec.nsafe)).getD 0 ∧ demo.commitsOf cur.agent = [] ∧ demo.heldLock cur.agent = none
    ∧ { demo with commits := [commit] }.commitsOf cur.agent ≠ [] ∧ demo.preempting 1 = false
    ∧ { demo with preempts := [request 1] }.preempting 1 = true ∧ cur.tail = none ∧ demoP.heldLock pcur.agent = none := by decide

/-- TrapAndBreakAreTaken and SpecialRegistersAreReadAndWritten: a launch with and one without the diagnostic privilege. -/
theorem test_witness_special_registers :
    cur.tail = none ∧ demo.diagOk group = true ∧ { demo with launches := [{ launch with diag := false, priv := false }] }.diagOk group = false
    ∧ isDiag .dsel = true ∧ SpReg.fstat ≠ .lane ∧ SpReg.team ≠ .clock ∧ SpReg.team ≠ .cluster := by decide

/-! ### Witnesses: local access -/

/-- VectorLoadsAndStoresGoInFlight and ScalarLoadsAndStoresGoInFlight: the last granule of the folio and an empty guard; a
proof core's last word. -/
theorem test_witness_local_access :
    LanesOk demo group false true false 4 (lanesAt (group.lanes 0) fun i => (24544 + i * 4) % 2 ^ 32)
    ∧ LanesOk demo group true false true 4 (lanesAt (group.lanes 1) fun i => 4 * i)
    ∧ Timely demo cur false 20 ∧ Timely demo cur true 20
    ∧ AccessOk demo cur false true false 24568 8 ∧ AccessOk demo cur true false true 0 4
    ∧ AccessOk demoP pcur false true false 65528 8 ∧ AccessOk demoP pcur true false false 0 1 ∧ Timely demoP pcur true 20 := by
  refine ⟨?_, ?_, ?_, ?_, ⟨group, rfl, ?_, ?_⟩, ⟨group, rfl, ?_, ?_⟩, ?_, ?_, ?_⟩ <;>
    (try simp only [LanesOk, Timely, AccessOk, pcur]) <;> decide

/-- LockedAccessesAndAtomicsComplete: a free granule, and the granule an LL holds. -/
def holding : State :=
  { demo with groups := [{ group with lock := some (0, 768) }], locks := [{ core := 0, bank := 0, bit := 1, holder := .group 0 0, atomic := false, until_ := 0, ll := true }] }
theorem test_witness_locks :
    demo.heldLock cur.agent = none ∧ BitsFree demo cur [0, 768] ∧ AccessOk demo cur true true false 768 4
    ∧ sameGranule holding cur.agent 772 = true ∧ sameGranule demo cur.agent 772 = false ∧ sameGranule holding cur.agent 784 = false
    ∧ holding.heldLock cur.agent ≠ none
    ∧ LanesOk demo group true true false 4 (lanesAt (group.lanes 0) fun i => demo.vlane group 1 i) ∧ group.lanes 0 ≠ [] ∧ group.lanes 1 = []
    ∧ BitsFree demoP pcur [proofKey 0 8] ∧ AccessOk demoP pcur true true false 8 8 := by
  refine ⟨?_, ?_, ⟨group, rfl, ?_, ?_⟩, ?_, ?_, ?_, ?_, ?_, ?_, ?_, ?_, ?_⟩
  case refine_2 => exact fun k n _ key hk => .inr (by
    rcases List.mem_cons.1 hk with rfl | hk
    · decide
    · rw [List.mem_singleton.1 hk]; decide)
  case refine_12 => intro k n h; cases h
  all_goals (try simp only [LanesOk, AccessOk, pcur]); decide

def storeOf (uid key due : Nat) : Local :=
  { uid := uid, agent := .group 0 0, due := due, commit := 0, addr := key, size := 4, acq := false, op := .store [1, 2, 3, 4] }

/-- AccessesPerformAndResultsCommit: an access that is due, and a result with nothing left to wait for. -/
theorem test_witness_perform :
    (let s := { base with locals := [storeOf 7 768 100] }
     s.locals.filter (fun l => l.uid == 7 && decide (l.due ≤ s.cycle)) ≠ [] ∧ ∀ l ∈ s.locals, l.op.writes = true)
    ∧ (let s := { base with commits := [{ commit with due := 100 }] }
       s.commits.find? (fun x => x.uid == 9 && x.left == 0 && decide (x.due ≤ s.cycle)) = some { commit with due := 100 }
        ∧ s.locals.any (·.commit == 9) = false) := by decide

/-- The same base with an arrival word at folio offset 16: target 64, count 32, generation 5, V set. -/
def armed (g : Group) (flags : Nat) : State :=
  { base with groups := [g], mem := memSetAll base.mem (cells (storeKey 0 16) [64, 32, 5, flags]) }

/-- CountedAdditionFollowsR73: both branches, and a group that waits for the word. -/
theorem test_witness_counting :
    (armed group 1).le (storeKey 0 28) 4 % 2 = 1 ∧ (armed group 1).le (storeKey 0 16) 4 ≠ 0
    ∧ 64 ≤ ((armed group 1).le (storeKey 0 20) 4 + 32) % 2 ^ 32 ∧ (armed group 0).le (storeKey 0 28) 4 % 2 = 0
    ∧ (let g := { group with run := .waiting (.arrival 16) }
       g ∈ (armed g 1).groups ∧ g.run = .waiting (.arrival 16) ∧ (armed g 1).group? 0 0 = some g) := by decide
/-- The additions of R73 on that word: 32 bytes pass the target once, 96 twice with OVR; without V they are counted, with PRE. -/
theorem test_counted_addition :
    (let t := (armed group 1).countAdd 16 32 0; t.le 20 4 = 0 ∧ t.le 24 4 = 6 ∧ t.le 28 4 = 1)
    ∧ (let t := (armed group 1).countAdd 16 96 0; t.le 20 4 = 0 ∧ t.le 24 4 = 7 ∧ t.le 28 4 = 3)
    ∧ (let t := (armed group 0).countAdd 16 8 0; t.le 20 4 = 40 ∧ t.le 24 4 = 5 ∧ t.le 28 4 = 16) := by decide

/-- ArrivalWordInstructionsComplete: a word in the folio; one that has passed the expected generation and one that has not. -/
theorem test_witness_arrival :
    demo.addrStep group [0, 8] true true 16 16 = 0 ∧ demo.addrStep group [0, 8] false true 16 16 = 0 ∧ demo.poisoned 16 16 = false
    ∧ demo.ownPending cur.agent 16 16 = false ∧ Timely demo cur false 20 ∧ Timely demo cur true 20 ∧ Timely demo cur false 2
    ∧ demo.heldLock cur.agent = none
    ∧ (let gen := (armed group 1).le (16 + 8) 4
       0 < (gen + 2 ^ 32 - 4) % 2 ^ 32 ∧ (gen + 2 ^ 32 - 4) % 2 ^ 32 < 2 ^ 31 ∧ (gen + 2 ^ 32 - 5) % 2 ^ 32 = 0) := by
  simp only [Timely]
  decide

/-- BarriersAndFencesComplete: nothing in flight, something in flight, a wait that is over. -/
theorem test_witness_barriers :
    demo.heldLock cur.agent = none ∧ (demo.localsOf cur.agent).filter (fenceNames .rel) = []
    ∧ ({ demo with locals := [storeOf 7 768 200] }.localsOf cur.agent).filter (fenceNames .rel) ≠ []
    ∧ (running (.waiting (.fence cur [7]))).group? 0 0 = some { group with run := .waiting (.fence cur [7]) }
    ∧ (∀ l ∈ (running (.waiting (.fence cur [7]))).locals, l.uid ∉ [7])
    ∧ ({ demoP with proofs := [{ ProofCore.init 0 with wait := some (.fence pcur [7]) }] }.proof 0).wait = some (.fence pcur [7]) := by decide

/-! ### Witnesses: engine commands -/

/-- A descriptor: 16 bytes of row 0 of a 16 x 4 tensor at 4096 into a plane of four rows; arrival word 2, residency word 4. -/
def descWord : Nat :=
  0x8000400000000000000000000000000040000010000000000000000000000000000000000000001000000000000100100000000004090400000000001000
/-- s10 names the descriptor, s11 the plane, s12 the index list, s14 the arrival word, s15 a far byte, s16 and s18 local places. -/
def demoE : State :=
  { demo with
    mem := memSetAll demo.mem (cellsLE 128 64 descWord ++ group.scells 10 128 ++ group.scells 11 3072 ++ group.scells 12 192
      ++ group.scells 14 32 ++ group.scells 15 4096 ++ group.scells 16 (.ofNat 64 (64 + 32 * 2 ^ 32)) ++ group.scells 17 3072
      ++ group.scells 18 (.ofNat 64 (256 + 32 * 2 ^ 32))) }
def descE : Desc := descAt demoE cur group 10
def itemsE (fetch : Bool) : List Item := descE.items { plane := true, fetch := fetch } 3072 [0, 0, 0, 0, 0] none

theorem test_witness_descriptor :
    ReadsAtIssue demoE cur group apAll (demoE.src cur 10 % 2 ^ 32) 64 ∧ demoE.team? group.team = some team ∧ Timely demoE cur false 2
    ∧ demoE.src cur 11 % 768 = 0 ∧ demoE.src cur 11 = 3072 ∧ descE.check true 3072 team.krec.folio (descE.orgN (demoE.originAt group 0) 0) = none
    ∧ demoE.originAt group 0 = [0, 0, 0, 0, 0] := by
  simp only [ReadsAtIssue, Timely]
  decide

/-- FetchCommandsAreSent: the checks that follow, for TFETCH, TMCAST to one core, and TGATHER of one row. -/
theorem test_witness_fetch :
    itemsOk descE (spanOf (itemLocs (itemsE true) ++ descE.padBytes 3072)) (itemUnits .fetch (itemsE true)) = true
    ∧ Admits demoE (fetchCmd demoE group team .fetch descE 3072 (itemsE true) [(0, 0)])
    ∧ itemsOk descE (spanOf (itemLocs (itemsE true) ++ descE.padBytes 3072)) (itemUnits .mcast (itemsE true)) = true
    ∧ [0].filterMap (demoE.mcastFolio team) = [(0, 0)] ∧ Admits demoE (fetchCmd demoE group team .mcast descE 3072 (itemsE true) [(0, 0)])
    ∧ descE.ndim = 2 ∧ descE.rowmode = false ∧ descE.store = 0 ∧ descE.boxN 1 = 1 ∧ demoE.src cur 12 = 192
    ∧ demoE.listStep group 192 4 = 0 ∧ demoE.poisoned 192 4 = false
    ∧ demoE.ownPending cur.agent 192 4 = false ∧ demoE.opsOver cur.agent 192 4 = [] := by
  simp only [Admits]
  decide
theorem test_witness_gather :
    let its := descE.items { plane := true, fetch := true } 3072 [0, 0, 0, 0, 0] (some [demoE.le 192 4])
    itemsOk descE (spanOf (itemLocs (descE.items { plane := true, fetch := true } 3072 [0, 0, 0, 0, 0] (some [])) ++ descE.padBytes 3072)) [] = true
    ∧ (itemUnits .gather its).length ≤ 64 ∧ Admits demoE (fetchCmd demoE group team .gather descE 3072 its [(0, 0)]) := by
  simp only [Admits]
  decide

/-- StoreCommandsAreSent. -/
theorem test_witness_store :
    let cmd := fun (kind : CmdKind) =>
      { cmdOf demoE group team kind [recvOf 0 0 descE.arrw (some descE.resw)] with
        items := itemsE false, units := itemUnits kind (itemsE false), bytes := itemCount (itemsE false), esize := descE.esize, efmt := descE.efmt
        held := demoE.sourceHolds cur.agent 0 0 (itemLocs (itemsE false))
        spans := mkSpan 0 0 false (spanOf (itemLocs (itemsE false))) ++ mkSpan 0 0 true (some (16 * descE.resw, 16 * descE.resw + 8)) }
    itemsOk descE (spanOf (itemLocs (itemsE false))) (itemUnits .store (itemsE false)) = true ∧ descE.store ≠ 2 ∧ Admits demoE (cmd .store)
    ∧ itemsOk descE (spanOf (itemLocs (itemsE false))) (itemUnits (.reduce .add) (itemsE false)) = true ∧ descE.efmt ∈ [0, 1, 2, 8, 9, 10]
    ∧ Admits demoE (cmd (.reduce .add)) := by
  simp only [Admits]
  decide

/-- FarCommandsAreSent: the descriptor is source and destination of the copy. -/
theorem test_witness_far :
    let its := descE.items { plane := false, fetch := false } 0 [0, 0, 0, 0, 0] none
    let org := [0, 0, 0, 0, 0]
    let cp := ((descE.boxRows org none).zip (descE.boxRows org none)).flatMap fun p => copyRow descE descE org org p.1 p.2
    let words := recvOf 0 0 descE.arrw (some descE.resw)
    descE.check false 0 team.krec.folio 0 = none ∧ (itemUnits .fill its).length ≤ 64
    ∧ Admits demoE { farCmd demoE group team .fill descE words (itemUnits .fill its) with items := its, bytes := itemCount its, operand := 32 }
    ∧ demoE.src cur 14 = 32 ∧ (itemUnits .pagereq its).length ≤ 64
    ∧ Admits demoE (farCmd demoE group team .pagereq descE { core := 0, folio := 0, arr := 32, resw := some (16 * descE.resw) } (itemUnits .pagereq its))
    ∧ descE.step1 false = false ∧ descE.step2 false 0 = false ∧ descE.step3 false 0 team.krec.folio = false ∧ (itemUnits .copy cp).length ≤ 64
    ∧ Admits demoE { farCmd demoE group team .copy descE words (itemUnits .copy cp) with items := cp, bytes := itemCount cp } := by
  simp only [Admits]
  decide

/-- BulkAndAtomicCommandsAreSent: an atomic on 4 bytes and 256 bytes each way. -/
theorem test_witness_bulk :
    let f := [{ core := 0, folio := 0, arr := 32, resw := none : Recv }]
    let one := [{ itemAt 4096 4 .plain ((List.range 8).map (64 + ·)) [] 8 with far := some 4096 }]
    let its := (cutRun 4096 (256 / 4096 + 2) 256).map fun p => itemAt (4096 + p.1) p.2 .plain ((List.range p.2).map (3072 + p.1 + ·)) [] p.2
    let cmd := fun (kind : CmdKind) (held : List Nat) =>
      { cmdOf demoE group team kind f with
        items := its, units := itemUnits kind its, bytes := 256, held := held, spans := mkSpan 0 0 (kind != .bulkst) (some (3072, 3328)) }
    demoE.src cur 15 = 4096 ∧ atomicSize (.int .n32) = 4 ∧ (demoE.sreg group 16).toNat = 64 + 32 * 2 ^ 32 ∧ demoE.src cur 17 = 3072
    ∧ demoE.src cur 18 = 256 + 32 * 2 ^ 32
    ∧ Admits demoE { cmdOf demoE group team (.atom .add (.int .n32)) f with
        items := one, units := itemUnits (.atom .add (.int .n32)) one, bytes := 8, esize := 4, spans := mkSpan 0 0 true (some (64, 72)) }
    ∧ Admits demoE (cmd .bulkld []) ∧ Admits demoE (cmd .bulkst []) := by
  simp only [Admits]
  decide

def fetchE : Cmd := fetchCmd demoE group team .fetch descE 3072 (itemsE true) [(0, 0)]

/-- AllowanceAndHintsComplete: with and without a partition, and both waits. -/
theorem test_witness_allowance :
    demo.team? group.team = some team ∧ { demo with parts := [] }.part? ({ demo with parts := [] }.partOf 0) = none
    ∧ (demo.part? (demo.partOf 0)).isSome = true
    ∧ (let s := { running (.waiting (.chase cur 9 0)) with cmds := [fetchE] }; (s.cmd? 0).isSome = true ∧ s.chaseFits fetchE = true)
    ∧ (running (.waiting (.taskq cur 9 1024 512))).slotFits 0 1024 = true := by decide

/-! ### Witnesses: matrix and ligature -/

/-- An image with V, 32 rows at EBASE 0 and SBASE 16384, KLEN 256. -/
def forme (efmt scaled : Nat) : Line := .ofNat 512 (2 ^ 511 + scaled * 2 ^ 116 + efmt * 2 ^ 112 + 256 * 2 ^ 96 + 32 * 2 ^ 56 + 16384 * 2 ^ 28)
/-- fm0 and fm1 hold bytes, fm2 words, fm3 a scaled middle format, fm4 nothing. -/
def matTeam : Team := { team with formes := (((team.formes.set 0 (forme 8 0)).set 1 (forme 8 0)).set 2 (forme 0 0)).set 3 (forme 3 1) }
def demoM : State := { demo with teams := [matTeam] }
def pairTeam : Team := { matTeam with seats := matTeam.seats ++ [{ core := 1, folio := 0, tiles := [0, 1, 2, 3] }] }
def matOp (n : Nat) (start : Option Nat) : MatOp :=
  { uid := n, core := 0, slot := 0, team := 1, kind := .mzero, tile := 0, pairTile := none, folio := 0, folio2 := 0, issued := 50, start := start, retire := 90
    cells := [], flags := 0, bad := none, gate := none }

/-- MatrixInstructionsComplete: sound formes for each use and one that is not; a queue with room and a full one; a paired team. -/
theorem test_witness_matrix :
    demoM.team? group.team = some matTeam ∧ group.uncorrM = []
    ∧ formeOk (matTeam.forme 0) (mmaW 8 8) 0 24576 = true ∧ fEfmt (matTeam.forme 0) = 8 ∧ fEfmt (matTeam.forme 1) = 8 ∧ mmaK 8 8 ≠ 0
    ∧ (∀ r ∈ sliceRuns (matTeam.forme 0) (mmaW 8 8) 0, demoM.early false 0 r.1 r.2 = false)
    ∧ pairTeam.paired = true ∧ group.core % 2 = 0
    ∧ wordPlane (matTeam.forme 2) 0 24576 = true ∧ wordPlane (matTeam.forme 4) 0 24576 = false
    ∧ formeOk (matTeam.forme 3) (mcvtW 3) 0 24576 = true ∧ fEfmt (matTeam.forme 3) = 3 ∧ isMid 3 = true ∧ fScaled (matTeam.forme 3) = true
    ∧ demoM.matRoom (matOp 5 none) = true
    ∧ { demoM with mats := (List.range 8).map fun i => matOp i none }.matRoom (matOp 9 none) = false
    ∧ demoM.addrStep group ap0 false true 64 64 = 0 ∧ demoM.poisoned 64 64 = false ∧ Timely demoM cur false 20 := by
  simp only [Timely]
  decide

/-- MWAIT with and without an operation, and EngineQueuesRun: an operation that may start, and one that may retire. -/
theorem test_witness_matrix_queue :
    (∀ m ∈ demoM.mats, ¬ (m.core = group.core ∧ m.slot = group.slot)) ∧ demoM.heldLock cur.agent = none
    ∧ (∃ m ∈ [matOp 5 none], m.core = group.core ∧ m.slot = group.slot)
    ∧ (running (.waiting (.matrixQ cur (matOp 5 none)))).matRoom (matOp 5 none) = true
    ∧ (let s := { base with mats := [matOp 5 none] }; (s.matQueue 0).head? = some (matOp 5 none) ∧ s.matStarts (matOp 5 none) = true)
    ∧ (let s := { base with mats := [matOp 5 (some 70)] }
       s.mats.find? (·.uid == 5) = some (matOp 5 (some 70)) ∧ (matOp 5 (some 70)).start.isSome = true ∧ (matOp 5 (some 70)).retire ≤ s.cycle) := by
  decide

def ligOp (n : Nat) (k : LigKind) (start : Option Nat) : LigOp :=
  { uid := n, core := 0, slot := 0, team := 1, kind := k, folio := 0, issued := 50, start := start, finish := 90, cells := [], flags := 0, fault := none
    bad := none, gate := none }
def bindOp : LigKind := .bind 1 4 0 0

/-- EngineQueuesRun: ligature operations that enter, start and complete, and a waiting LIGCLR. -/
theorem test_witness_ligature_queue :
    ((running (.waiting (.ligQ cur (ligOp 5 bindOp none)))).ligQueue 0).length < 8
    ∧ (running (.waiting (.ligclr cur))).ligIdle 0 = true
    ∧ (∀ k ∈ [bindOp, .eval 0 0, .emit false 0 0 1 0 1],
        let s := { base with ligOps := [ligOp 5 k none] }
        (s.ligQueue 0).head? = some (ligOp 5 k none) ∧ (s.lig 0).freeAt ≤ s.cycle ∧ s.ownBefore 0 0 5 = true)
    ∧ (let s := { base with ligOps := [ligOp 5 bindOp (some 70)] }
       s.ligOps.find? (·.uid == 5) = some (ligOp 5 bindOp (some 70)) ∧ (ligOp 5 bindOp (some 70)).finish ≤ s.cycle) := by
  decide

/-- An engine bound to four inputs, one column, at folio offset 2048, and a sheet of one ligature at 1024. -/
def bound : LigEngine := { LigEngine.fresh 0 (some 1) with bound := some (1, 4, 0, 2048) }
def demoL : State :=
  { demo with
    ligs := [bound]
    mem := memSetAll demo.mem (cellsLE 1024 16 (20 * 2 ^ 96 + 2 ^ 64) ++ group.scells 21 1024 ++ group.scells 22 (.ofNat 64 (2 ^ 16)) ++ group.scells 23 4) }

/-- LigatureInstructionsComplete: an idle and a busy engine, a binding, a sheet, an emission, a queue with room and a full one. -/
theorem test_witness_ligature :
    demoL.team? group.team = some team ∧ team.krec.lig = true ∧ demoL.ligIdle 0 = true
    ∧ { demoL with ligOps := [ligOp 5 bindOp none] }.ligIdle 0 = false
    ∧ (demoL.lig 0).fault = none ∧ group.uncorrL = [] ∧ demoL.src cur 21 = 1024
    ∧ demoL.src cur 23 % 2 ^ 32 = 4 ∧ demoL.src cur 23 / 2 ^ 32 = 0 ∧ (demoL.ligQueue 0).length < 8
    ∧ 8 ≤ ({ demoL with ligOps := (List.range 8).map fun i => ligOp i bindOp none }.ligQueue 0).length
    ∧ (demoL.lig 0).bound = some (1, 4, 0, 2048)
    ∧ (let h := demoL.sheet (storeKey 0 1024)
       h.reserved = false ∧ 0 < h.count ∧ h.count ≤ 16384 ∧ 16 ≤ h.bytes ∧ h.bytes % 4 = 0 ∧ h.base + h.count ≤ 16384 ∧ h.tfmt ∈ [0, 2, 3, 4]
        ∧ 1024 + h.bytes ≤ team.krec.folio ∧ h.lo ≤ h.hi ∧ (demoL.lig 0).mark ≤ h.lo ∧ demoL.early false 0 1024 h.bytes = false)
    ∧ demoL.early false 0 2048 16 = false ∧ demoL.ownPending cur.agent 1024 16 = false
    ∧ demoL.src cur 22 % 2 ^ 16 = 0 ∧ demoL.src cur 22 / 2 ^ 16 % 2 ^ 16 = 1 ∧ demoL.early true 0 1024 4 = false
    ∧ demoL.heldLock cur.agent = none := by
  decide

/-! ### Witnesses: handoff, allocation, tasks -/

def hand : Hand := { idx := 0, addr := 0, succ := krec, vmap := 0, smap := 0, gmap := 0, ranges := [], since := 0 }
def handTeam : Team := { team with hand := some hand }

/-- HandoffsComplete: a handoff that is free to go, one that a chase entry holds, one still to be checked, a successor to start. -/
theorem test_witness_handoff :
    0 < ((demo.team? group.team).map (·.krec.nsucc)).getD 0 ∧ demo.heldLock cur.agent = none
    ∧ (let s := { base with teams := [handTeam] }; s.team? 1 = some handTeam ∧ s.handHeld handTeam hand = false ∧ s.handFits handTeam hand = true)
    ∧ { base with teams := [handTeam], chases := [{ span := { core := 0, lo := 0, hi := 16, dest := true }, team := 1, tag := 5 }] }.handHeld
        handTeam hand = true
    ∧ base.team? 1 = some team ∧ team.hand = none
    ∧ (let t := { team with started := false }; { base with teams := [t] }.team? 1 = some t ∧ t.started = false ∧ t.notBefore ≤ base.cycle) := by
  decide

/-- AllocationCompletes: more registers that fit and that do not, fewer, and the two ways a waiting GROW ends. -/
theorem test_witness_allocation :
    demo.heldLock cur.agent = none ∧ 16 ≤ group.vregs ∧ group.vregs < 32 ∧ demo.growFits group 32 = true
    ∧ (let g := { group with win := 0x2FD00 }; { demo with groups := [g] }.growFits g 32 = false)
    ∧ group.vregs ≤ 16 ∧ 15 < group.vregs
    ∧ (running (.waiting (.grow cur 9 32 4))).growFits { group with run := .waiting (.grow cur 9 32 4) } 32 = true
    ∧ (let g : Group := { group with win := 0x2FD00, run := .waiting (.grow cur 9 32 4) }
       let s := { base with groups := [g] }
       g.slot = maxL ((s.groups.filter fun h => h.core == g.core && h.run != .exited).map (·.slot)) ∧ (∀ h ∈ s.groups, s.waitsSpace h = true)
        ∧ (∀ h ∈ s.groups, h = g) ∧ g ∈ s.groups) := by
  decide

/-- Queue 1 has room, queue 2 is full; both are enabled, with rings of 16 entries. -/
def demoQ : State :=
  { demo with
    parts := [{ Partition.init 0 [0] [0] with qtbase := 4096, qtcount := 3 }]
    cached := demo.cached ++ [{ cluster := 0, unit := 0, count := 1, ep := 1, page := 0, cls := 0, cmp := false, wr := true, tables := [], ptrs := [] }]
    mem := memSetAll demo.mem (cellsLE (hbmKey 1 0 4160) 64 (8192 + 4 * 2 ^ 64 + 2 ^ 73 + 3 * 2 ^ 96 + 2 ^ 128)
      ++ cellsLE (hbmKey 1 0 4224) 64 (8192 + 4 * 2 ^ 64 + 2 ^ 73 + 16 * 2 ^ 96) ++ group.scells 1 1 ++ group.scells 2 2
      ++ group.scells 19 1024 ++ group.scells 20 512) }
def partQ : Partition := { Partition.init 0 [0] [0] with qtbase := 4096, qtcount := 3 }

/-- TaskInstructionsComplete: TASKQ with room, without, and with 16 answers out; a record to push, ready, refused or pending; a
queue with room and a full one. -/
theorem test_witness_tasks :
    demoQ.team? group.team = some team ∧ demoQ.launch? team.launch = some launch
    ∧ demoQ.addrStep group ap0 false true 1024 64 ∈ [0, 5] ∧ demoQ.addrStep group ap0 false true 512 16 ∈ [0, 5]
    ∧ demoQ.src cur 19 = 1024 ∧ demoQ.src cur 20 = 512 ∧ team.tqOut < 16 ∧ demoQ.slotFits 0 1024 = true
    ∧ { demoQ with chases := [{ span := { core := 0, lo := 1024, hi := 1040, dest := false }, team := 1, tag := 5 }] }.slotFits 0 1024 = false
    ∧ 16 ≤ { team with tqOut := 16 }.tqOut
    ∧ ReadsAtIssue demoQ cur group ap0 1024 64 ∧ Timely demoQ cur true 2 ∧ launch.ended = false
    ∧ 0 < (demoQ.drainPending 0 pendingMax).readyRoom 0
    ∧ ((List.range 1024).find? fun i => !(demoQ.drainPending 0 pendingMax).tpending.any fun z => z.cluster == 0 && z.idx == i) = some 0
    ∧ demoQ.src cur 1 = 1 ∧ demoQ.src cur 2 = 2 := by
  simp only [ReadsAtIssue, Timely]
  decide
theorem test_witness_full_ready_queue (x : TaskRec) (h : x.cluster = 0) :
    { demoQ with tready := List.replicate readyMax x }.readyRoom 0 = 0 := by
  simp [State.readyRoom, h]
theorem test_witness_launch :
    demoQ.part? (demoQ.partOf group.core) = some partQ ∧ demoQ.boot.lock = true
    ∧ (∃ q, demoQ.qdesc partQ 1 = .ok q ∧ q.en = true ∧ 4 ≤ q.rsize ∧ q.rsize ≤ 16 ∧ launch.priv = true ∧ (q.widx - q.ridx).toNat < 2 ^ q.rsize
        ∧ demoQ.farKey partQ partQ.ppUnit true (farWrap (q.rbase + 64 * (q.widx.toNat % 2 ^ q.rsize))) ≠ .busy)
    ∧ ∃ q, demoQ.qdesc partQ 2 = .ok q ∧ q.en = true ∧ 2 ^ q.rsize ≤ (q.widx - q.ridx).toNat :=
  ⟨by decide, by decide, ⟨_, rfl, by decide⟩, ⟨_, rfl, by decide⟩⟩

/-! ### Witnesses: the proof core -/

def trappedGroup : Group := { group with run := .trapped .zero true }
def stopped : State := { demoP with groups := [trappedGroup], proofs := [{ demoP.proof 0 with map := some (0, 0) }] }

/-- DebugInstructionsComplete: a slot that is trapped, empty, exited and ready, an operand of seven bits and one above; a debug
access that is made and one with a code; TRET with and without a mapping. -/
theorem test_witness_debug :
    stopped.ProofIssuing pcur 0 ∧ stopped.src pcur 0 = 0 + 4 * 0 ∧ stopped.group? 0 0 = some trappedGroup
    ∧ demoP.src pcur 3 = 0 + 4 * 1 ∧ demoP.group? 0 1 = none ∧ 128 ≤ demoP.src pcur 5 ∧ demoP.group? 0 0 = some group ∧ group.run = .ready
    ∧ { demoP with groups := [{ group with run := .exited }] }.group? 0 0 = some { group with run := .exited }
    ∧ stopped.debugCode (stopped.proof 0) false 0 4 = 0 ∧ stopped.debugCode (stopped.proof 0) true 508 4 = 0
    ∧ (stopped.proof 0).map = some (0, 0) ∧ demoP.debugCode (demoP.proof 0) false 0 4 ≠ 0 ∧ demoP.debugCode (demoP.proof 0) true 0 4 ≠ 0
    ∧ stopped.localsOf pcur.agent = [] ∧ (demoP.proof 0).map = none :=
  ⟨⟨rfl, rfl⟩, by decide⟩

def partS : Partition := { Partition.init 0 [0] [0] with shoots := [{ id := 3, kind := 1, operand := 0, from_ := none, begun := true, reqs := [] }] }
def xlatS : State :=
  { demoP with
    parts := [{ partS with shoots := [{ id := 3, kind := 1, operand := 0, from_ := some 0, begun := true, reqs := [] }] }]
    proofs := [{ ProofCore.init 0 with wait := some (.xlat pcur 9 3) }] }

/-- PreemptionRequestsAndShootdownsComplete: a slot out of range, one with no team, an open pre-emption and none, a root that is
no multiple of 4096; operands of XLATINV in and out of range; a shootdown of the host and one that the proof core waits for. -/
theorem test_witness_preempt :
    64 ≤ demoP.src pcur 5 ∧ demoP.src pcur 3 = 4 ∧ demoP.contextTeams 4 0 = [] ∧ demoP.src pcur 0 = 0 ∧ demoP.contextTeams 0 0 ≠ []
    ∧ { demoP with preempts := [request 1] }.preemptOpen 0 0 = true ∧ demoP.preemptOpen 0 0 = false ∧ demoP.src pcur 3 % 4096 ≠ 0
    ∧ demoP.src pcur 0 % 4096 = 0 ∧ demoP.src pcur 3 < 128 ∧ ¬ demoP.src pcur 5 < 128
    ∧ { demoP with parts := [partS] }.part? partS.p = some partS ∧ partS.shoots.head?.map (·.begun) = some true
    ∧ xlatS.part? 0 = xlatS.parts.head? ∧ (xlatS.proof 0).wait = some (.xlat pcur 9 3) := by decide

/-- ControlAndStatusRegistersComplete: a trap record and a fault event on their queues, empty queues, and both waits. -/
theorem test_witness_queues :
    (let p := ({ demoP with proofs := [{ demoP.proof 0 with queue := [(false, .zero)], fev := [(1, 2)] }] } : State).proof 0
     p.queue = [(false, .zero)] ∧ p.fev = [(1, 2)])
    ∧ (demoP.proof 0).queue = [] ∧ (demoP.proof 0).fev = []
    ∧ (let s := { base with proofs := [{ demoP.proof 0 with wait := some (.tqnext pcur 9), queue := [(true, .zero)] }] }
       (s.proof 0).wait = some (.tqnext pcur 9) ∧ (s.proof 0).queue = [(true, .zero)])
    ∧ (let s := { base with proofs := [{ demoP.proof 0 with wait := some (.fevnext pcur 9), fev := [(1, 2)] }] }
       (s.proof 0).wait = some (.fevnext pcur 9) ∧ (s.proof 0).fev = [(1, 2)]) := by decide

/-! ### Witnesses: the fetch path and the modules -/

def reqF (op : ReqOp) (run : ReqRun) : Req :=
  { cmd := 0, n := 0, team := 1, ep := 1, page := 0, leaf := 0, cls := 0, cmp := false, part := 0, va := 4096, len := 64, op := op, items := [0]
    run := run, tries := 0, hint := 0, left := [], owed := [(4096, 4160)], piece := ([], false), data := [], stream := 1, seq := 0 }
def unitF (res : Xlat) : FUnit := { va := 4096, write := false, res := res, done := false, refused := false, posted := false, faulted := false, lost := false }
/-- The fetch of demoE, taken up; its translation is in force, and its one request is sent, unsent or refused. -/
def cmdF : Cmd := { fetchE with charged := true, resDone := true, units := [unitF (.served (.ok 1 0 0 false true 0 1 []))] }
def demoF (op : ReqOp) (run : ReqRun) : State := { base with cmds := [cmdF], reqs := [reqF op run] }
def burstF (chunks : List Chunk) : Burst := { src := 1, dst := 0, wave := 127, stream := 0, vc := 1, lane := (0, 0), chunks := chunks, ack := some (1, 0, 1), pin := none }
def chunkF : Chunk := (reqF .read .sent).chunk 0
def txF : TxStream := { src := 0, dst := 1, stream := 1, vc := 0, next := 1, copies := [chunkF], waiting := [], progress := 0, lane := some (0, 0) }
def liveSocket (st : Nat) : Socket := { (base.socket 0) with s := 0, st := st, present := true }
def laneF (pos st : Nat) : Lane := { (base.lane 0 pos) with s := 0, pos := pos, st := st }

/-- FetchPathEventsComplete: a request to send and one refused whose delay is over; a unit whose walk has ended and one to start,
with a translation cached and without; a burst with chunks and one without; a command to fill; a stream with copies that has not
progressed for 1 µs; a plane that a lane serves. -/
theorem test_witness_fetch_path :
    (demoF .read .unsent).cmd? 0 = some cmdF ∧ (demoF .read .unsent).req? 0 0 = some (reqF .read .unsent) ∧ cmdF.charged = true
    ∧ (demoF .read .unsent).maySend cmdF (reqF .read .unsent) = true
    ∧ (let r := reqF .read (.refused 4 0); (demoF .read (.refused 4 0)).req? 0 0 = some r ∧ (demoF .read (.refused 4 0)).maySend cmdF r = true)
    ∧ nth [unitF (.ended (.bad 1 4 127)), unitF .pending] 0 = some (unitF (.ended (.bad 1 4 127)))
    ∧ nth [unitF (.ended (.bad 1 4 127)), unitF .pending] 1 = some (unitF .pending) ∧ base.part? (base.partOf 0) ≠ none
    ∧ (base.cachedFor 0 4096).isSome = true ∧ base.cachedFor 0 65536 = none
    ∧ (let s := { base with wire := [burstF [chunkF], burstF []] }; nth s.wire 0 = some (burstF [chunkF]) ∧ nth s.wire 1 = some (burstF []))
    ∧ base.arrivedBurst 0 (burstF [chunkF]) .intact = some (burstF [chunkF]) ∧ base.arrivedBurst 0 (burstF []) .uncorrected = none
    ∧ cmdF.resDone = true
    ∧ (let s := { base with tx := [txF], time := 1000 * nsUnits }; nth s.tx 0 = some txF ∧ txF.copies ≠ [] ∧ txF.progress + 1000 * nsUnits ≤ s.time)
    ∧ ({ base with sockets := [liveSocket 3], lanes := [laneF 0 1] }.planeLane 0 0).isSome = true := by decide

/-- Header bits 0 to 95 of an acknowledgement by hand from R352: TYPE 3, VC 1, SRC 1 at bit 9, DST 0, ACKV at bit 80,
ACKSTREAM 1 at bit 82; ACKSEQ 1 at bit 96. A receiver takes its flits as they were sent, and discards them for any other index,
when a codeword was not corrected, and when the byte of SRC arrives as another. Port 5 reaches port 3 on wavelength 126. -/
theorem test_burst_flits :
    (base.header (burstF [])).low = 0x1000500000000000000000303
    ∧ flitsSound 0 (base.flitBytes (burstF [])) = true ∧ flitsSound 1 (base.flitBytes (burstF [])) = false
    ∧ base.arrivedBurst 0 (burstF []) .intact = some (burstF []) ∧ base.arrivedBurst 0 (burstF []) .uncorrected = none
    ∧ base.arrivedBurst 3 (burstF []) .intact = none ∧ base.arrivedBurst 0 (burstF []) (.changed [(1, 5)]) = none ∧ planeExit 5 126 = 3 ∧ wavelength 5 3 = 126 := by decide

/-- ModulesCarryRequestsOut: a request of each kind that has reached a module whose page is mapped. -/
theorem test_witness_modules :
    (∀ op ∈ [ReqOp.read, .write, .fill, .reduce .add, .atomic .add (.int .n32), .copy],
      let s := demoF op .there
      s.streamWaits (reqF op .there) = false ∧ s.streamHint (reqF op .there) = none ∧ s.pageAns 1 0 0 = .mapped 0 ∧ (s.module 1).step < 3
        ∧ s.cmd? 0 = some cmdF)
    ∧ (demoF .read .there).reqAt 1 0 (· == .read) = some (reqF .read .there)
    ∧ (demoF .write .there).reqAt 1 0 (· == .write) = some (reqF .write .there)
    ∧ (demoF .fill .there).reqAt 1 0 (· == .fill) = some (reqF .fill .there)
    ∧ (demoF (.reduce .add) .there).reqAt 1 0 ReqOp.isReduce = some (reqF (.reduce .add) .there)
    ∧ (demoF (.atomic .add (.int .n32)) .there).reqAt 1 0 ReqOp.isAtomic = some (reqF (.atomic .add (.int .n32)) .there)
    ∧ (demoF .copy .there).copyReq 1 0 = some (reqF .copy .there) := by decide

/-- ModulesCarryRequestsOut: an earlier request of the stream that is there, one that was refused, a page that moves, one that is absent, a
hot stack, and the first and the last refusal. -/
theorem test_witness_modules_refuse :
    (let r := { reqF .read .there with n := 1, seq := 1 }
     ({ demoF .read .there with reqs := [reqF .read .there, r] } : State).streamWaits r = true
      ∧ (let q := { reqF .read (.refused 9 0) with tries := 1, hint := 9 }
         ({ demoF .read .there with reqs := [q, r] } : State).streamHint r = some 9))
    ∧ (let m := fun (e : Nat) => ({ base with modules := [{ (base.module 1) with table := [(0, .ofNat 64 e)] }] } : State)
       (∃ h, (m (2 ^ 63 + 2 ^ 61)).pageAns 1 0 0 = .moving h) ∧ (m 0).pageAns 1 0 0 = .absent)
    ∧ ({ (base.module 1) with temps := [(0, 3)] } : Module).step = 3
    ∧ (reqF .read .there).tries < 255 ∧ 255 ≤ { reqF .read .there with tries := 255 }.tries :=
  ⟨by decide, ⟨⟨_, rfl⟩, rfl⟩, by decide, by decide, by decide⟩

def moduleF (manager new : Nat) : Module :=
  { (base.module 1) with manager := manager, pendingWrite := some (0, .ofNat 64 new), moves := [(0, 2 ^ 62 + 2 ^ 61 + 7, 0)] }

/-- ModuleEventsComplete: a hint on its way; a table write from another package, one that maps, one that moves; a move that is due. -/
theorem test_witness_module_events :
    nth ({ base with hints := [(1, 4096, 512, 0)] }.hints.filter (·.1 == 1)) 0 = some (1, 4096, 512, 0)
    ∧ (∀ x ∈ [(5, 2 ^ 62 + 2 ^ 61), (0, 0), (0, 2 ^ 62 + 2 ^ 61 + 7)],
        ({ base with modules := [moduleF x.1 x.2] }.module 1).pendingWrite = some (0, .ofNat 64 x.2))
    ∧ (moduleF 5 0).manager ≠ base.boot.endpoint ∧ (moduleF 0 0).manager = base.boot.endpoint
    ∧ (let old := (moduleF 0 0).entry 0; old / 2 ^ 62 % 4 = 1 ∧ old % 2 ^ 24 ≠ (2 ^ 62 + 2 ^ 61 + 7) % 2 ^ 24)
    ∧ ¬ (0 / 2 ^ 62 % 4 = 1)
    ∧ ({ base with modules := [moduleF 0 0] }.module 1).moves.find? (·.1 == 0) = some (0, 2 ^ 62 + 2 ^ 61 + 7, 0) := by decide

/-! ### Witnesses: imposers, queues, placement -/

def taskReq : TaskReq := { uid := 5, cluster := 0, launch := 2, team := 1, core := 0, slot := 1024, word := 512 }
def taskRec : TaskRec := { cluster := 0, launch := 2, image := 7, idx := 0, count := 0, zeroAt := none }

/-- ImposerEventsComplete: a request with a record to give it, and one of a domain that has ended; a stalled record; a partition;
a record in transit. -/
theorem test_witness_imposer :
    (let s := { base with treqs := [taskReq], tready := [taskRec] }
     nth (s.treqs.filter (·.cluster == 0)) 0 = some taskReq ∧ s.treqs.find? (fun q => q.cluster == 0 && q.launch == 2) = some taskReq
      ∧ s.launch? 2 = some launch ∧ launch.ended = false ∧ s.tready.find? (fun x => x.cluster == 0 && x.launch == 2) = some taskRec)
    ∧ { base with treqs := [taskReq], launches := [{ launch with ended := true }] }.launch? 2 = some { launch with ended := true }
    ∧ { base with tpending := [{ taskRec with zeroAt := some 4 }] }.stalled 0 = some { taskRec with zeroAt := some 4 }
    ∧ base.part? 0 = base.parts.head?
    ∧ (let s := { base with ttransit := [{ taskRec with idx := 90 }] }
       nth s.ttransit 0 = some { taskRec with idx := 90 } ∧ 0 < (s.drainPending 0 pendingMax).readyRoom 0
        ∧ (s.drainPending 0 pendingMax).ttransit.find? (fun y => y.cluster == 0 && y.launch == 2) = some { taskRec with idx := 90 }) := by
  decide

def mappedQ : Mapped :=
  { q := 1, prio := 0, priv := true, diag := true, since := 0, evicting := false, stopped := false, cursor := 1, packets := [], replay := none }
def slotQ : HwSlot := { n := 0, part := 0, queue := some mappedQ, lastCore := none, resv := none }
/-- Queue 1 of demoQ is mapped, and its next packet is `x`; a kernel record of one group at 16384, one endpoint at 20480. -/
def demoR (x : Nat) : State :=
  { demoQ with
    cur := none, hws := [slotQ], boot := { demoQ.boot with featacc := 63 }
    mem := memSetAll [] (cellsLE (hbmKey 1 0 4160) 20 (8192 + 4 * 2 ^ 64 + 2 ^ 73 + 3 * 2 ^ 96 + 2 ^ 128)
      ++ cellsLE (hbmKey 1 0 4224) 20 (8192 + 4 * 2 ^ 64 + 2 ^ 73 + 16 * 2 ^ 96) ++ cellsLE (hbmKey 1 0 8256) 24 x ++ cellsLE (hbmKey 1 0 20480) 1 1
      ++ cellsLE (hbmKey 1 0 (16384 + 24)) 8 (2 ^ 20 + 16 * 2 ^ 26 + 128 * 2 ^ 35 + 32 * 2 ^ 49)) }
/-- The next packet of that queue is `x`. -/
def isNext (x : Nat) : Bool :=
  match (demoR x).nextPacket slotQ mappedQ partQ with
  | .packet y => y == x
  | _ => false
theorem next_packet {x : Nat} (h : isNext x = true) : (demoR x).nextPacket slotQ mappedQ partQ = .packet x := by
  unfold isNext at h
  split at h <;> simp_all

def kernelPacket : Nat := 1 + 2 ^ 32 + 16384 * 2 ^ 64
def waitPacket : Nat := 2 + 24576 * 2 ^ 64 + 7 * 2 ^ 128
def reservePacket : Nat := 3 + 20480 * 2 ^ 64 + 257 * 2 ^ 128

/-- PacketEventsComplete: each type of packet stands next on a mapped queue. -/
theorem test_witness_packets :
    (∀ x ∈ [0, 4, kernelPacket, waitPacket, reservePacket], isNext x = true)
    ∧ (demoR 0).hw? 0 = some slotQ ∧ slotQ.queue = some mappedQ ∧ (demoR 0).part? 0 = some partQ := by decide
/-- A RESERVE_LANES packet of one lane to one endpoint, and a kernel packet whose record passes its checks. -/
theorem test_witness_packet_contents :
    (match (demoR reservePacket).ppRead partQ 20480 1 with
      | .ok bs => bs == [1]
      | .error _ => false) = true
    ∧ 1 ≤ partQ.pinShare
    ∧ (match (demoR kernelPacket).ppRead partQ 16384 256 with
      | .ok bs => (demoR kernelPacket).krecOk (leNat bs) && !(krecOf 16384 (leNat bs)).onPair && (krecOf 16384 (leNat bs)).binds.isEmpty
      | .error _ => false) = true := by decide
/-- A WAIT whose word is 0: value 0 is reached, value 7 is not; a kernel packet whose launch has no team left. -/
theorem test_witness_packets_under_way :
    (∀ x ∈ [2 + 24576 * 2 ^ 64, waitPacket, kernelPacket],
      let w := { packetOf 1 x with launch := some 2 }
      let m := { mappedQ with packets := [w] }
      m.packets.find? (fun k => k.idx == w.idx && k.type == x % 256 && !k.done) = some w ∧ w.pollAt ≤ base.time ∧ m.evicting = false)
    ∧ (match (demoR 0).ppRead partQ 24576 8 with
      | .ok bs => leNat bs == 0
      | .error _ => false) = true
    ∧ ((packetOf 1 waitPacket).words.getD 1 0).toNat = 24576 ∧ ((packetOf 1 waitPacket).words.getD 2 0).toNat = 7
    ∧ (let s := { base with teams := [], launches := [{ launch with next := 1 }] }
       s.launch? 2 = some { launch with next := 1 } ∧ s.launchOver { launch with next := 1 } = true) := by decide

def small : Team := { team with krec := { krec with galley := 0, folio := 0, lig := false }, seats := [{ core := 0, folio := 0, tiles := [] }] }
def next (folio : Nat) : Launch := { launch with queue := 1, teams := 2, krec := { krec with lig := false, folio := folio } }
def pendingQ (prio : Nat) : PendingQ := { part := 0, q := 2, since := 0, prio := prio, cursor := none, packets := [], replay := none, idle := false }

/-- QueueAndPlacementEventsComplete: a launch that may place, with room and in a partition without a die; an empty binding and
one that is not, with nothing outstanding. -/
theorem test_witness_placement :
    { demoR 0 with launches := [next 768] }.launch? 2 = some (next 768) ∧ { demoR 0 with launches := [next 768] }.mayPlace (next 768) = true
    ∧ (next 768).held = none
    ∧ ({ demoR 0 with launches := [next 768] }.placeNext (next 768)).isSome = true
    ∧ { demoR 0 with launches := [next 768], parts := [{ partQ with dies := [] }] }.placeNext (next 768) = none
    ∧ (let b : Binding := { desc := 0, plane := 0, origins := [0, 0, 0, 0, 0] }
       let t := { team with krec := { krec with binds := [b, { b with desc := 128, plane := 3072 }] } }
       nth t.krec.binds t.bound = some b ∧ b.isEmpty = true ∧ t.seats.head? = some { core := 0, folio := 0, tiles := [0, 1, 2, 3] }
        ∧ nth t.krec.binds 1 = some { b with desc := 128, plane := 3072 } ∧ { b with desc := 128, plane := 3072 }.isEmpty = false)
    ∧ demoE.chaseFits fetchE = true ∧ base.outstanding 1 = (0, 0) := by decide

/-- QueueAndPlacementEventsComplete: a free slot with a queue to map; a mapped queue whose slice is over; one that is idle; a
lease that has run out; a pending queue of higher priority. -/
theorem test_witness_queue_events :
    (let s := { demoR 0 with hws := [{ slotQ with queue := none }], pendq := [pendingQ 0] }
     s.hw? 0 = some { slotQ with queue := none } ∧ s.nextPending 0 = some (pendingQ 0) ∧ (s.qdesc partQ 2).isOk = true)
    ∧ (let s := { demoR 0 with pendq := [pendingQ 0], time := 100000 * nsUnits }
       s.hw? 0 = some slotQ ∧ mappedQ.evicting = false ∧ s.pendPrio 0 = some 0 ∧ mappedQ.since + partQ.tslice ≤ s.time)
    ∧ (let m := { mappedQ with cursor := 3 }
       let s := { demoR 0 with teams := [], hws := [{ slotQ with queue := some m }] }
       (match s.qdesc partQ 1 with
        | .ok d => d.widx == BitVec.ofNat 32 m.cursor
        | .error _ => false) = true ∧ s.slotBusy { slotQ with queue := some m } m = false ∧ s.savedOf 0 1 = [])
    ∧ (let v : Resv := { ends := [1], lanes := 1, pinned := [(1, 8, 0)], until_ := 0, waiting := false, lapsing := false }
       { demoR 0 with hws := [{ slotQ with resv := some v }] }.hw? 0 = some { slotQ with resv := some v } ∧ v.until_ ≤ base.time)
    ∧ (let s := { demoR 0 with pendq := [pendingQ 2] }
       s.part? partQ.p = some partQ ∧ s.pendPrio 0 = some 2 ∧ s.slotFree 0 = false ∧ s.victim 0 2 = some (slotQ, mappedQ)) := by decide

/-! ### Witnesses: pre-emption, the host, boot -/

/-- PreemptionEventsComplete: a deadline that is past, a drained context whose save area can be written, a save that is done. -/
theorem test_witness_preemption :
    (let s := { base with preempts := [request 1], time := 100000 * nsUnits }
     nth s.preempts 0 = some (request 1) ∧ (request 1).at_ + (s.proof 0).predl.toNat * 1000 * nsUnits ≤ s.time)
    ∧ (let s := { demoR 0 with teams := [small], groups := [{ group with run := .saving .wait none }], preempts := [request 1] }
       s.drained (request 1) = true ∧ s.part? (s.partOf 0) = some partQ
        ∧ (s.saveUnits partQ 4096 ((4096 + (s.saveImage (request 1)).2 - 1) / 65536 - 4096 / 65536 + 1)).2 = none)
    ∧ (let s := { demoR 0 with preempts := [request 3] }
       nth s.preempts 0 = some (request 3) ∧ s.hw? (request 3).hw = some slotQ ∧ slotQ.queue = some mappedQ) := by decide

/-- HostAccessesComplete: a partition with a shootdown of the host under way and one without; operands of each kind; FBGET at
both sides of 256; a window that names a page, one that names the staging store, one that is not valid. -/
theorem test_witness_host :
    { base with parts := [partS] }.part? partS.p = some partS ∧ partS.busy = true ∧ (Partition.init 0 [0] [0]).busy = false
    ∧ xinvOk 0 65536 = true ∧ xinvOk 1 0 = true ∧ xinvOk 2 127 = true ∧ xinvOk 2 128 = false
    ∧ ((Partition.init 0 [0] [0]).fbput - (0xFFFFFF00 : DWord).setWidth 32).toNat = 256
    ∧ 256 < ((Partition.init 0 [0] [0]).fbput - (0xFFFFFEFF : DWord).setWidth 32).toNat
    ∧ (let s := { base with boot := { base.boot with mbwin := base.boot.mbwin.set 1 (.ofNat 64 (2 ^ 63)) } }
       (∀ p ∈ pieces 4096 8, s.windowBusy 1 true p.1 = false) ∧ ∀ p ∈ pieces 4097 3, s.windowBusy 0 false p.1 = false)
    ∧ ({ base with boot := { Boot.init with mbwin := base.boot.mbwin.set 0 (.ofNat 64 (2 ^ 63)) } }.window 0 64 matches .staging 64) = true
    ∧ base.boot.mmStat ≠ 1 ∧ { base.boot with mmStat := 1 }.mmStat = 1 := by decide

/-- BootEventsComplete: the boot states. Whether an image verifies rests on constants without a value (log 10), so that
the statement has a clause for either answer. -/
theorem test_witness_boot :
    State.reset.boot.st = 1 ∧ State.reset.boot.attBusy = false ∧ { State.reset.boot with attBusy := true }.attBusy = true
    ∧ (∀ n ∈ [2, 3, 4], { State.reset.boot with st := n }.st = n)
    ∧ (∀ k < 16, (State.reset.socket k).st ≠ 3) ∧ ({ base with sockets := [liveSocket 3] }.socket 0).st = 3 := by decide

/-! ### Witnesses: sockets, lanes, cadence, power and errors -/

/-- SocketEventsComplete: an absent socket, and sockets in each state, present and not. -/
theorem test_witness_sockets :
    (base.socket 5).st = 0 ∧ (∀ n ∈ [1, 2, 3, 4, 5, 6], ({ base with sockets := [liveSocket n] }.socket 0).st = n)
    ∧ (liveSocket 6).present = true ∧ { liveSocket 6 with present := false }.present = false
    ∧ (let s := { base with boot := { base.boot with fw := some { version := 1, digest := [], body := [] } } }; s.boot.fw.isSome = true)
    ∧ { base with sockets := [liveSocket 4] }.streamsOn (·.1 == 0) = [] ∧ (liveSocket 4).drainAt ≤ base.time := by decide

def laned (ls : List Lane) : State := { base with sockets := [liveSocket 3], lanes := ls, time := 1000000 * nsUnits }

/-- LaneEventsComplete: an active lane, a failed one without a spare and a spare that is free, a failure of 1 ms ago, a lane past its
age. -/
theorem test_witness_lanes :
    (laned [laneF 0 1]).laneUp (0, 0) = true
    ∧ (let s := laned [{ laneF 5 3 with replaced := 127, failAt := some 0 }, laneF 64 0]
       (s.socket 0).st = 3 ∧ (s.lane 0 5).st = 3 ∧ 68 ≤ (s.lane 0 5).replaced ∧ (s.lane 0 64).st = 0 ∧ (∀ i < 68, (s.lane 0 i).replaced ≠ 5)
        ∧ (s.lane 0 5).failAt = some 0 ∧ 0 + 1000000 * nsUnits ≤ s.time)
    ∧ (let s := laned [{ laneF 5 1 with age := 307 }, laneF 64 0]
       (s.lane 0 5).st = 1 ∧ (s.socket 0).retire ≤ (s.lane 0 5).age ∧ (s.lane 0 64).st = 0) := by decide

def monitors (temp : Nat) : Monitors :=
  { dieTemp := [temp], dieVolt := [], dieProc := [], inlet := 0, flow := 0, avgPower := 0, nowPower := 0, predicted := 0 }

/-- CadencePowerAndRowEventsComplete: a leader that is due, a tick to apply that brings the group up to an emergency and one that
does not, a member, 3 ms of silence, a die above its limit and one below, a managed module, a row under test. -/
theorem test_witness_cadence :
    (let s := { base with boot := { base.boot with leader := true, members := [0, 1] } }
     s.boot.leader = true ∧ s.boot.st = 5 ∧ s.cadence.nextSend ≤ s.time ∧ 1 ∈ s.boot.members)
    ∧ (let c := { Cadence.init with pending := [(1, 3, 0), (2, 15, 0)], emerg := true, level := 15 }
       c.pending.head? = some (1, 3, 0) ∧ c.emerg = true ∧ 3 < c.level ∧ ¬ 15 < c.level)
    ∧ (let s := { base with time := 3000000 * nsUnits }; s.cadence.lost = false ∧ s.cadence.lastTick + 3000000 * nsUnits ≤ s.time)
    ∧ (∃ t ∈ (monitors 1760).dieTemp, 16 * base.boot.limits.2.2 ≤ t) ∧ ¬ (∃ t ∈ (monitors 1759).dieTemp, 16 * base.boot.limits.2.2 ≤ t)
    ∧ (base.module 1).manager = base.boot.endpoint
    ∧ (3, 7) ∈ { base.boot with tests := [(3, 7)] }.tests := by decide

/-! ### Witnesses: frames and the machine as a whole -/

/-- ImmediateResultsChangeTheirDestination and LaterEffectsChangeNothingAtIssue: an instruction of each kind runs on demo. -/
theorem test_witness_frames :
    scalarDest (.saddLiteral .i64 6 6 16) = some 6 ∧ after (exec (.saddLiteral .i64 6 6 16) demo) (fun _ => true) = true
    ∧ scalarDest (.saddLiteral .i64 0 6 16) = some 0 ∧ after (exec (.saddLiteral .i64 0 6 16) demo) (fun _ => true) = true
    ∧ vectorDest (.vaddLiteral 0 .i32 3 4 1) = some (0, 3, 0) ∧ after (exec (.vaddLiteral 0 .i32 3 4 1) demo) (fun _ => true) = true
    ∧ maskDest (.mand 1 0 0) = some 1 ∧ after (exec (.mand 1 0 0) demo) (fun _ => true) = true
    ∧ changesLater (.bra ⟨0, 0⟩) = true ∧ after (exec (.bra ⟨0, 0⟩) demo) (fun _ => true) = true
    ∧ (1024 + group.sblk ≤ group.win ∨ group.win + group.vregs * 4 * group.width ≤ group.sblk) := by decide

/-- AccessesAndCommitsChangeTheirBytes: a store and a commit that are due. -/
theorem test_witness_performing :
    after (exec (.localAccessPerform 7) { base with locals := [storeOf 7 768 100] }) (fun t => t.byte 769 == 2 && t.byte 772 == 0) = true
    ∧ isDebug (storeOf 7 768 100) = false ∧ writtenBytes (storeOf 7 768 100) = some (768, 4)
    ∧ after (exec (.lookaheadCommit 9) { base with commits := [{ commit with due := 100 }] }) (fun t => t.le (group.skey 7) 8 == 1) = true := by
  decide

/-- StepRunsTheDecodedInstruction: SADD stands at syllable 4 of the worked line. -/
def atSadd : State := { base with groups := [{ group with pc := 20 }], agenda := [.issue (.group 0 0)], plan := some [.group 0 0] }
theorem test_witness_step :
    atSadd.fetchOf (.group 0 0) = some (20, none, .instr [0x0010008A, 0x00000606, 0x00000010] 32 none)
    ∧ decode [0x0010008A, 0x00000606, 0x00000010] = .ok (.saddLiteral .i64 6 6 16) ∧ privilegedOp 0x0010008A = false
    ∧ ({ atSadd.noteIssue (.group 0 0) with cur := some { cur with pc := 20, next := 32 } }.operandTrap { cur with pc := 20, next := 32 }
        (.saddLiteral .i64 6 6 16)) = none
    ∧ atSadd.lineFor (.group 0 0) 20 = .line codeLine ∧ lineCause codeLine = 0 ∧ sylOf 20 = 4
    ∧ (instrStarts codeLine 15 0).contains 4 = true ∧ sylLen (codeLine.getD 5 0) = 3 := by
  and_intros <;> rfl
theorem test_witness_plan : Agent.group 0 0 ∈ [Agent.group 0 0] ∧ Agent.group 0 1 ∉ [Agent.group 0 0] := by decide
theorem test_witness_event_step : (Instr.moduleTableRead 1 0).isEvent = true := rfl

/-- DecodeInvertsEncode and DecodedWordsAreEncodings: an instruction and its words. -/
theorem test_witness_encoding :
    (Instr.saddLiteral .i64 6 6 16).wf = true ∧ (Instr.saddLiteral .i64 6 6 16).isEvent = false
    ∧ encode (.saddLiteral .i64 6 6 16) = [0x0010008A, 0x00000606, 0x00000010] := by and_intros <;> rfl

/-- EveryStepKeepsTheInvariant: base satisfies the invariant (test_inv), and steps. -/
theorem test_witness_steps : after (step { base with agenda := [.issue (.group 0 0)] }) (fun _ => true) = true := by decide

/-! ### Witnesses: the clauses that say where forms trap, wait and are turned away -/

/-- FloatArithmeticRoundsOnce to FloatFunctionsCommitLater: operands of each kind, and a place of the grid on each side of a value. -/
theorem test_witness_numbers :
    Machine.decF .f32 0x7FC00000 = .nan ∧ Machine.decF .f32 0x7F800000 = .inf false ∧ Machine.decF .f32 0x80000000 = .zero true
    ∧ Machine.decF .e2m1 5 = .fin false 3 0 false ∧ (3 : Rat) ≤ ((3 : Nat) : Rat) * 2 ^ (0 : Int) ∧ ((3 : Nat) : Rat) * 2 ^ (0 : Int) < 3 + 1
    ∧ cutAt (5 / 2) (gridAt .e2m1 4) ≠ .gt ∧ cutAt (5 / 2) (gridAt .e2m1 5) = .gt ∧ group.width = 2 ^ 3
    ∧ FTy.f32.hasInf = true ∧ FTy.f32.nanCode = some 0x7FC00000 ∧ FTy.e2m1.nanCode = none ∧ FTy.e4m3.hasInf = false := by decide +kernel

/-- The local access statements: each step that an address may fail, and the last byte on either side of it. -/
theorem test_witness_access_traps :
    (let s := { demo with chases := [{ span := { core := 0, lo := 768, hi := 784, dest := false }, team := 1, tag := 5 }] }
     s.addrStep group apAll true true 783 1 = 5 ∧ s.addrStep group apAll true true 784 1 = 0 ∧ s.addrStep group apAll false true 768 4 = 0)
    ∧ demo.addrStep group apAll false true 24572 4 = 0 ∧ demo.addrStep group apAll false true 24576 4 = 4
    ∧ demo.addrStep group apAll false true 1 4 = 3 ∧ demo.addrStep group apAll false false 0x80000000 4 = 3
    ∧ demo.addrStep group apAll false true 0x50000000 4 = 2 ∧ demo.addrStep group apAll false true 0x90000000 4 = 1
    ∧ demo.addrStep group ap0 false true 0x10000000 4 = 1 ∧ team.partner? 0 = none ∧ (pairTeam.partner? 0).isSome = true
    ∧ demo.peer? team 1 = none ∧ 65536 < 65533 + 4 ∧ demoP.ProofIssuing pcur 0 ∧ cur.tail = none :=
  ⟨by decide, by decide, by decide, by decide, by decide, by decide, by decide, by decide, by decide, by decide, by decide, by decide,
    ⟨rfl, rfl⟩, rfl⟩

/-- AccessesPerformAndResultsCommit and CountedAdditionFollowsR73: a forme's commit with the follower's before it; an initialisation. -/
theorem test_witness_forme_order :
    (let two := { pairTeam with seats := pairTeam.seats }
     let m := fun (k : Nat) => { Commit.of (9 + k) (.group k 0) 100 0 with formes := [(1, 2, 5)] }
     let s := { base with teams := [two], groups := [group, { group with core := 1 }], commits := [m 0, m 1] }
     s.partnerForme (m 0) = true ∧ s.partnerForme (m 1) = false)
    ∧ (base.Inv ∧ 64 < 2 ^ 32 ∧ (64 : Nat) ≠ 0 ∧ 0 ≤ (armed group 1).le (storeKey 0 20) 4) := by
  unfold State.Inv; decide

/-- TakesUp: a full chase table, and a charge that meets each limit and one that passes it. -/
theorem test_witness_allowances :
    { demoE with chases := List.replicate 64 { span := { core := 0, lo := 0, hi := 16, dest := true }, team := 1, tag := 5 } }.chaseFits fetchE = false
    ∧ (∀ x ∈ fetchE.spans, x.lo ≤ x.hi) ∧ demoE.outstanding 1 = (0, 0) ∧ { team with limC := 0 }.limC < 0 + 1 ∧ 0 + 1 ≤ { team with limC := 1 }.limC
    ∧ { team with limB := 63 }.limB < 0 + 64 ∧ 0 + 64 ≤ { team with limB := 64 }.limB := by decide

/-- AllocationCompletes, DebugInstructionsComplete, EngineQueuesRun: an earlier waiting GROW that fits; an access of the proof core in
flight; a LIGEVAL from before the binding. -/
theorem test_witness_waits :
    (let h : Group := { group with slot := 1, placed := 1, run := .waiting (.grow { cur with agent := .group 0 1 } 9 32 3) }
     let g : Group := { group with run := .waiting (.grow cur 9 32 4) }
     let s := { base with groups := [g, h] }
     h ∈ s.groups ∧ h.core = g.core ∧ 3 < 4 ∧ s.growFits h 32 = true)
    ∧ { demoP with locals := [{ storeOf 7 768 200 with agent := .proof 0 }] }.localsOf pcur.agent ≠ []
    ∧ (let e := { bound with marked := 6 }; (ligOp 5 (.eval 0 0) none).uid < ({ demoL with ligs := [e] }.lig 0).marked)
    ∧ (demoL.lig 0).marked ≤ (ligOp 5 (.eval 0 0) none).uid ∧ formeOk (matTeam.forme 4) (mcvtW 0) 0 24576 = false ∧ matTeam.paired = false := by
  decide

/-! ### Witnesses: grants, bursts and lanes -/

/-- A Live socket with its lane 0 in service, the module's lane on plane 0 and its control lane; grants each way of plane 0. -/
def linked : State :=
  { base with
    sockets := [liveSocket 3]
    lanes := [laneF 0 1, { (base.lane 17 0) with s := 17, pos := 0, st := 1 }, { (base.lane 17 272) with s := 17, pos := 272, st := 1 }]
    grants := [{ peer := 1, plane := 0, slot := 0, vc := 0, bursts := 16 }], given := [{ peer := 1, plane := 0, slot := 0, vc := 1, bursts := 16 }] }
def outF (pin : Option Nat) : Burst :=
  { src := 0, dst := 1, wave := 1, stream := 1, vc := 0, lane := (0, 0), chunks := [chunkF], ack := none, pin := pin }

/-- FetchPathEventsComplete, ModuleEventsComplete and LaneEventsComplete: a grant that comes, one that is there, one whose turn has come;
bursts of the package, under a reservation that has run out and under none; an exchange; a module lane that serves. -/
theorem test_witness_links :
    linked.controlTo 1 = true ∧ (linked.planeLane 0 0).isSome = true ∧ (∀ h ∈ linked.grants, ¬ (h.peer = 2 ∧ h.plane = 0 ∧ h.vc = 0))
    ∧ (∃ h ∈ linked.grants, h.peer = 1 ∧ h.plane = 0 ∧ h.vc = 0)
    ∧ (let g : Grant := { peer := 1, plane := 0, slot := 0, vc := 0, bursts := 4 }; { linked with asks := [g] }.nextAsk = some g)
    ∧ nth { linked with out := [outF none] }.out 0 = some (outF none) ∧ linked.arrivedBurst 1 (outF none) .intact = some (outF none)
    ∧ linked.lapsed (outF none) = false ∧ linked.lapsed (outF (some 9)) = true
    ∧ base.ask 1 (tableReadBody 0 8) = none ∧ (base.exchange 1 (tableReadBody 0 8) fun _ => []).isNone = true
    ∧ (linked.lane 17 0).st = 1 ∧ linked.moduleLane 1 0 = true ∧ (base.way 0 1 0 none).isNone = true
    ∧ (let l := { (base.lane 17 5) with s := 17, pos := 5, st := 3, replaced := 511, failAt := some 0 }
       let s := { base with lanes := [l], time := 1000000 * nsUnits }
       (s.lane 17 5).st = 3 ∧ 272 ≤ (s.lane 17 5).replaced ∧ (s.lane 17 256).st = 0 ∧ s.moduleLane 1 5 = false ∧ (s.lane 17 5).failAt = some 0
        ∧ 0 + 1000000 * nsUnits ≤ s.time) := by decide

/-- ModuleEventsComplete: a copy that a page move waits for, and a move with none. -/
theorem test_witness_page_move :
    (let r := { reqF .copy .accepted with left := [0] }
     r ∈ { demoF .copy .accepted with reqs := [r] }.reqs ∧ r.ep = 1 ∧ r.page = 0 ∧ r.run = .accepted ∧ r.left ≠ [])
    ∧ (∀ r ∈ base.reqs, ¬ (r.op = .copy)) ∧ (0 : Nat) ≤ base.time := by decide

/-! ### Witnesses: queues, the host, errors -/

/-- PacketEventsComplete and QueueAndPlacementEventsComplete: a queue that holds its packets; the notify writes of R311 at their bounds. -/
theorem test_witness_notify :
    demoQ.part? partQ.p = some partQ ∧ demoQ.boot.lock = true
    ∧ (match demoQ.qdesc partQ 1 with
      | .ok d => d.en && d.err == 0 && d.rsize == 4 && decide ((d.widx + 1 - d.widx).toNat = 1) && decide ((d.ridx + 16 - d.ridx).toNat ≤ 2 ^ d.rsize)
          && decide (2 ^ d.rsize < (d.ridx + 17 - d.ridx).toNat)
      | .error _ => false) = true
    ∧ partQ.qtcount ≤ 3 ∧ { demoQ.boot with lock := false }.lock = false
    ∧ { mappedQ with stopped := true }.stopped = true ∧ (demoR 0).savedOf 0 1 = [] ∧ mappedQ.packets = [] ∧ mappedQ.replay = none
    ∧ (demoR 0).cplBusy 0 (packetOf 1 kernelPacket) = false := by decide

/-- HostAccessesComplete and BootEventsComplete: an access that waits; a piece that meets a page that moves and one that does not; window 0 and
a window of a partition; proof cores that run and that are halted. -/
theorem test_witness_host_order :
    base.hostq = [] ∧ { base with hostq := [.reg 0x40 1] }.hostq ≠ [] ∧ base.hostBusy (.reg 0x40 1) = false
    ∧ (let w := { base with
         boot := { base.boot with mbwin := base.boot.mbwin.set 1 (.ofNat 64 (2 ^ 63)) }
         parts := [{ (Partition.init 0 [0] [0]) with xroot := .ofNat 64 (2 ^ 63 + 2 ^ 30) }] }
       w.window 1 64 = .far { (Partition.init 0 [0] [0]) with xroot := .ofNat 64 (2 ^ 63 + 2 ^ 30) } 64 ∧ w.window 1 (2 ^ 28) = .none_)
    ∧ (base.proof 3).halted = false ∧ { (base.proof 3) with halted := true }.halted = true ∧ (base.proof 3).cluster = 3 := by decide

/-- CadencePowerAndRowEventsComplete: words with a corrected and an uncorrectable error, at the ends of each SRAM's keys; power at the
envelope and at the ceiling. -/
theorem test_witness_errors :
    { base with agenda := [.corrected 768] }.agenda = [.corrected 768] ∧ sramRow 768 ∉ base.boot.spareRows ++ base.boot.tests
    ∧ base.sparesUsed (sramRow 768).1 (sramRow 768).2 < 8
    ∧ { base with agenda := [.uncorrectable (2 ^ 32)] }.agenda = [.uncorrectable (2 ^ 32)] ∧ 2 ^ 32 ≤ 2 ^ 32 ∧ (2 ^ 34 + 65535) / 2 ^ 16 = 2 ^ 18 + 0
    ∧ (base.proof 0).cluster = 0 ∧ 3300 ≤ { monitors 0 with avgPower := 3300 }.avgPower ∧ 3600 ≤ { monitors 0 with nowPower := 3600 }.nowPower
    ∧ base.boot.st = 5 := by decide

/-- ImmediateResultsChangeTheirDestination and LaterEffectsChangeNothingAtIssue: instructions of each other kind run, on demo, demoE and demoP. -/
theorem test_witness_other_frames :
    statusDest (.twinLim 9) = some 9 ∧ after (exec (.twinLim 9) demo) (fun _ => true) = true
    ∧ commandDest (.tfetch 9 10 11 0) = some 9
    ∧ after (exec (.tfetch 9 10 11 0) demoE) (fun t => t.cmds.any fun m => m.uid == demoE.uid && !m.units.isEmpty) = true
    ∧ queuesAtIssue (.mzero 0) = true ∧ after (exec (.mzero 0) demo) (fun _ => true) = true
    ∧ after (exec .ligclr demo) (fun _ => true) = true ∧ after (exec (.grow 9 31) demo) (fun _ => true) = true
    ∧ after (exec (.shrink 7) demo) (fun _ => true) = true ∧ after (exec .exit demo) (fun _ => true) = true
    ∧ after (exec (.saddLiteral .i64 6 6 16) demoP) (fun t => (t.proof 0).sregs[6] == 16) = true := by decide

/-- ResetLeavesTheResetValues: a proof core whose turn comes at state 5 and before it. -/
theorem test_witness_proof_turn :
    (let s := { State.reset with agenda := [.issue (.proof 0)], plan := some [.proof 0] }; s.boot.st ≠ 5 ∧ .proof 0 ∈ s.plan.getD [])
    ∧ base.boot.st = 5 ∧ (base.proof 0).halted = false ∧ (base.proof 0).wait = none ∧ (base.proof 0).notBefore ≤ base.cycle := by decide

/-! ### Witnesses: where forms stop, trap and are held back -/

/-- A second group of the team, in slot 1. -/
def second (r : Run) : Group := { group with slot := 1, index := 1, run := r }

/-- SafePointYieldAndExitComplete: a group that ends, as its team's last group and not; a commit of it. -/
theorem test_witness_exit :
    base.group? 0 0 = some group ∧ (∀ h ∈ base.groups, base.group? h.core h.slot = some h) ∧ base.opsOf 0 0 = false ∧ base.team? group.team = some team
    ∧ (∀ h ∈ base.groups, h.team = group.team → h ≠ group → h.run = .exited) ∧ (second .ready).team = group.team ∧ second .ready ≠ group
    ∧ (second .ready).run ≠ .exited ∧ commit.agent = .group 0 0 ∧ 0 < windowBytes group.vregs group.width := by decide +kernel

/-- TrapAndBreakAreTaken: a group with a pending commit and without, and a record that is not queued yet; a NOSTOP part that is full and one
that has a place; the fields of TRECA at their bounds. -/
theorem test_witness_trap :
    cur.agent = .group group.core group.slot ∧ demo.group? 0 0 = some group ∧ demo.launch? team.launch = some launch
    ∧ (∀ m ∈ demo.commits, m.agent ≠ cur.agent) ∧ (∃ m ∈ { demo with commits := [commit] }.commits, m.agent = cur.agent)
    ∧ (running (.trapped .zero false)).group? 0 0 = some { group with run := .trapped .zero false }
    ∧ 32 ≤ ((List.replicate 32 (true, TrapRec.zero)).filter (·.1)).length ∧ ¬ 32 ≤ ((List.replicate 31 (true, TrapRec.zero)).filter (·.1)).length
    ∧ pcur.agent = .proof 0 ∧ (7 : Nat) < 8 ∧ (31 : Nat) < 32 ∧ (63 : Nat) < 64 ∧ (255 : Nat) < 256 := by decide +kernel

/-- SpecialRegistersAreReadAndWritten: the last core of die 0 and the first of die 1; selectors of each kind, and lanes 67 and 68. -/
theorem test_witness_special_values :
    (47 : Nat) < 48 ∧ 48 ≤ { group with core := 48 }.core ∧ demo.team? group.team = some team ∧ demo.launch? team.launch = some launch
    ∧ (∀ k < 6, (.ofNat 64 (k * 2 ^ 12 + 67) : DWord).toNat / 2 ^ 12 % 2 ^ 4 = k) ∧ (0x1043 : DWord).toNat % 2 ^ 7 ≤ 67 ∧ 67 < (0x2044 : DWord).toNat % 2 ^ 7
    ∧ 6 ≤ (0x6000 : DWord).toNat / 2 ^ 12 % 2 ^ 4 := by decide +kernel

/-- AccessesPerformAndResultsCommit: the sign bit of a byte on each side; s0's bytes and the word after them; the COUNT of a word through
aperture 0x8 and the word beside it; a commit held by an access and by a later commit of its group. -/
theorem test_witness_access_values :
    (0x80 : Nat) < 2 ^ (8 * 1) ∧ 2 ^ (8 * 1 - 1) ≤ 0x80 ∧ ¬ 2 ^ (8 * 1 - 1) ≤ 0x7F ∧ 0x20000000 / 2 ^ 28 % 16 = 2 ∧ 0x20000000 % 2 ^ 28 + 8 ≤ 8
    ∧ ¬ 0x20000001 % 2 ^ 28 + 8 ≤ 8 ∧ 0x80000014 / 2 ^ 28 % 16 = 8 ∧ 0x80000014 % 16 = 4 ∧ ¬ 0x80000018 % 16 = 4
    ∧ (∃ l ∈ [{ storeOf 7 768 200 with commit := 9 }], l.commit = commit.uid)
    ∧ (∃ o ∈ [commit, { commit with uid := 10, due := 100 }], o.agent = commit.agent ∧ o.left = 0 ∧ o.due ≤ base.cycle ∧ commit.uid < o.uid) := by
  decide +kernel

/-- BarriersAndFencesComplete: a team whose groups all wait, one with a group that does not, one with an access left; a cluster set. -/
theorem test_witness_barrier_release :
    (let gs := [{ group with run := .waiting (.tmbar cur) }, second (.waiting (.tmbar { cur with agent := .group 0 1 }))]
     let s := { base with groups := gs }
     s.team? 1 = some team ∧ gs ≠ [] ∧ (∀ g ∈ gs, g.inTmbar = true) ∧ s.locals = []
      ∧ (∃ l ∈ { s with locals := [storeOf 7 768 200] }.locals, l.agent = .group group.core group.slot))
    ∧ (second .ready).inTmbar = false ∧ (second (.waiting (.clbar cur))).inClbar = true
    ∧ (let t := { team with cset := some 3 }
       ({ base with teams := [t] }.team? 1 = some t ∧ t.cset = some 3) ∧ cur.tail = none ∧ base.group? 0 0 = some group) := by decide +kernel

/-- FetchCommandsAreSent, StoreCommandsAreSent, FarCommandsAreSent: descriptors that fail each step of R66, at their bounds; a base that is
no plane's; a core of the cluster without the team; a list out of range; storage that a reduction does not take. -/
theorem test_witness_command_traps :
    { descE with ndim := 6 }.check true 3072 24576 0 = some 0x0A ∧ { descE with efmt := 10 }.step1 true = false
    ∧ { descE with efmt := 11 }.check true 3072 24576 0 = some 0x0A ∧ { descE with efmt := 5 }.check true 3072 24576 0 = some 0x09
    ∧ { descE with efmt := 0, base := descE.base + 2 }.check true 3072 24576 0 = some 0x09 ∧ { descE with ph := 0 }.check true 3072 24576 0 = some 0x0A
    ∧ descE.check true 3072 (descE.planeEnd 3072) 0 = none ∧ descE.check true 3072 (descE.planeEnd 3072 - 1) 0 = some 0x0A
    ∧ 3073 % 768 ≠ 0 ∧ (2 : BitVec 4).getLsbD 1 = true ∧ demoE.mcastFolio team (4 * (group.core / 4) + 1) = none
    ∧ { descE with rowmode := true }.rowmode ≠ false ∧ demoE.listStep group 0x30000000 4 ≠ 0 ∧ descE.efmt ∈ [0, 1, 2, 8, 9, 10] ∧ 4 ∉ [0, 1, 2, 8, 9, 10]
    ∧ ReadsAtIssue demoE cur group apAll 128 64 := by
  simp only [ReadsAtIssue]
  decide +kernel

/-- FarCommandsAreSent, BulkAndAtomicCommandsAreSent: a completion word and operands beyond each limit, and at it. -/
theorem test_witness_operand_traps :
    2 ^ 28 ≤ 0x10000000 ∧ 0xFFFFFFF < 2 ^ 28 ∧ 24576 < 24561 + 16 ∧ ¬ 24576 < 24560 + 16 ∧ 24568 + 8 ≤ 24576 ∧ ¬ 24569 + 8 ≤ 24576 ∧ 40 % 16 ≠ 0
    ∧ 4098 % 4 ≠ 0 ∧ 2 ^ 57 ≤ 2 ^ 57 ∧ (60 : Nat) < 48 + 16 ∧ (48 : Nat) < 56 + 8 ∧ ¬ (0 < 0) ∧ ¬ (2 ^ 20 + 16 ≤ 2 ^ 20) := by decide +kernel

/-- AllowanceAndHintsComplete: outstanding bytes that fit their field, and 2^32 of them. -/
theorem test_witness_outstanding :
    { demo with cmds := [{ fetchE with charged := true, spans := [], bytes := 2 ^ 32 }] }.outstanding group.team = (2 ^ 32, 1)
    ∧ { demo with cmds := [{ fetchE with charged := true, spans := [], bytes := 2 ^ 32 - 1 }] }.outstanding group.team = (2 ^ 32 - 1, 1) := by decide +kernel

/-- EngineQueuesRun: operations that have waited, of a group with a late error and without; values of each storage; a row of a record with a
NaN, with none but zeros, and with a greatest magnitude of 3. -/
theorem test_witness_engine_values :
    (let g := { group with run := .waiting (.matrixQ cur (matOp 5 none)), uncorrM := [(16, 0)] }
     { base with groups := [g] }.group? 0 0 = some g ∧ g.uncorrM = (16, 0) :: [] ∧ { base with groups := [g] }.matRoom (matOp 5 none) = true)
    ∧ (let g := { group with run := .waiting (.ligQ cur (ligOp 5 bindOp none)), uncorrL := [(16, 0)] }
       { base with groups := [g] }.group? 0 0 = some g ∧ { base with groups := [g] }.ligRoom 0 5 = true ∧ { base with groups := [g] }.ligRoom 0 6 = false)
    ∧ fEfmt (forme 7 1) = 7 ∧ fEfmt (forme 9 0) = 9 ∧ fScaled (forme 7 1) = true ∧ fScaled (forme 8 0) = false
    ∧ (3 : Rat) * 2 ^ (0 : Int) ≤ gridAt .e2m1 FTy.e2m1.maxCode * 2 ^ (-1 : Int) ∧ gridAt .e2m1 FTy.e2m1.maxCode * 2 ^ (-1 - 1 : Int) < 3 * 2 ^ (0 : Int)
    ∧ XVal.nan ∈ [XVal.nan, .zero false] ∧ ¬ (XVal.nan ∈ [XVal.fin false 3 0 false]) ∧ (7 : Nat) ≠ 8 := by decide +kernel

/-- EngineQueuesRun: a ligature of one term at the head of a sheet, evaluated, and ones that fail each check; an emission of a value that is
valid and of one that is not. -/
def ligV (header item : Nat) : LigEval :=
  { st := { demo with mem := memSetAll demo.mem (cellsLE 1040 12 (header + 2 ^ 32 * item)) }, out := [], levels := [(3, 15), (4, 0)], pos := 16, prev := 0
    cycle := 4, flags := 0, late := none, fault := none }
theorem test_witness_ligature_faults :
    (∀ x ∈ [(1, 0, none), (0x1001, 0, some 0x0A), (1, 2 ^ 31, some 0x0A), (0x20000001, 0, some 0x0C), (0x10000001, 0, some 0x0D), (1, 4, some 0x0A),
        (0x10000001, 2 ^ 30 + 4, none), (0x10000001, 2 ^ 30 + 5, some 0x0C), (0x10000001, 2 ^ 30 + 3, some 0x0D), (5, 0, some 0x0A)],
      (((ligV x.1 x.2.1).one 0 0 1024 0 7 1 28 0 (1, 4, 0, 2048)).fault.map (·.cause)) = x.2.2)
    ∧ (4, 0) ∈ (ligV 1 0).levels ∧ ¬ (∃ l ∈ (ligV 1 0).levels, l.1 = 5) ∧ demoL.poisoned 1024 16 = false
    ∧ { demoL with poison := [128] }.poisoned 1024 16 = true := by decide +kernel

/-- LigatureInstructionsComplete: an engine with a fault, a group with a late error, an engine that is not bound, a sheet that begins below
the mark, operands that do not fit; a kernel without the engine. -/
theorem test_witness_ligature_traps :
    ({ demoL with ligs := [{ bound with fault := some { cause := 0x0C, c := 0, d := 0 } }] }.lig 0).fault = some { cause := 0x0C, c := 0, d := 0 }
    ∧ { group with uncorrL := [(16, 0)] }.uncorrL = (16, 0) :: [] ∧ ({ demoL with ligs := [{ bound with bound := none }] }.lig 0).bound = none
    ∧ (let s := { demoL with ligs := [{ bound with mark := 1 }] }; (s.sheet (storeKey 0 1024)).lo < (s.lig 0).mark)
    ∧ { krec with lig := false }.lig = false ∧ ¬ (0 < 0 ∧ 0 ≤ 2 ^ 20) ∧ (2 ^ 20 : Nat) ≤ 2 ^ 20 ∧ ¬ (16384 + 1 ≤ 16384 / 1) ∧ 16383 + 1 ≤ 16384 / 1
    ∧ ¬ ((1 : Nat) ∈ [0, 2, 3, 4]) := by decide +kernel

/-- A handoff descriptor at 128 of a team whose one group has arrived; its successor's record stands at 4096. -/
def arriving (desc entry : Nat) : State :=
  { base with
    groups := [{ group with run := .waiting (.handoff cur 0 128 true) }], boot := { base.boot with featacc := 63 }
    mem := memSetAll base.mem (cellsLE 128 64 desc ++ cellsLE (hbmKey 1 0 4096) 32 (entry + 2 ^ 212 + 16 * 2 ^ 218 + 128 * 2 ^ 227 + 32 * 2 ^ 241)) }
/-- HandoffsComplete: an arrival with a commit left and without; the checks of R248, each where it fails first; a handoff set up; survivors of
a pair; ranges of whole granules. -/
theorem test_witness_handoff_checks :
    (running (.waiting (.handoff cur 0 128 false))).group? 0 0 = some { group with run := .waiting (.handoff cur 0 128 false) }
    ∧ (∀ m ∈ base.commits, m.agent ≠ .group 0 0) ∧ (∀ l ∈ base.locals, l.agent ≠ .group 0 0)
    ∧ ((arriving 0 0).live 1).head? = some { group with run := .waiting (.handoff cur 0 128 true) } ∧ team.krec.groups ≤ ((arriving 0 0).live 1).length
    ∧ (arriving 0 0).addrStep group ap0 false true 128 64 = 0 ∧ (arriving 0 0).addrStep group ap0 false true 132 64 = 3
    ∧ { arriving 0 0 with poison := [16] }.poisoned 128 64 = true ∧ 2 ^ 491 / 2 ^ 491 % 2 ^ 21 ≠ 0 ∧ 16 < 17 * 2 ^ 486 / 2 ^ 486 % 32
    ∧ (∀ x ∈ [(0, 0, true), (2 ^ 16, 0, false), (2 ^ 384, 0, false), (0, 2 ^ 204, true), (2 ^ 491, 0, false), (0, 2 ^ 121, false)],
        ((((arriving x.1 x.2.1).handCheck 1).team? 1).any fun t => t.hand.isSome) = x.2.2)
    ∧ survivors { krec with paired := true, groups := 4 } { krec with paired := true, groups := 2 } = [0, 2]
    ∧ (∀ r ∈ [(768, 1024)], r.1 % 16 = 0 ∧ r.2 % 16 = 0) ∧ 8 ≤ (8 : Nat) ∧ demo.heldLock cur.agent = none ∧ holding.heldLock cur.agent ≠ none := by
  decide +kernel
/-- HandoffsComplete: the transfer of that team, whose s3 and s5 are not inherited, and of one that inherits s5. -/
theorem test_witness_handoff_transfer :
    (let s := arriving (2 ^ 261) 0
     (∀ g ∈ s.groups, s.group? g.core g.slot = some g)
      ∧ (match (s.handCheck 1).team? 1 with
        | some t => match t.hand with
          | some h => h.smap == 32 && decide (h.succ.vregs ≤ 256) && (survivors t.krec h.succ).all (fun i => (s.live 1).any (·.index == i))
              && (let u := s.handTransfer t h; u.le (group.skey 5) 8 == 768 && u.le (group.skey 3) 8 == 0 && (u.group? 0 0).any (·.run == .ready))
          | none => false
        | none => false) = true) := by decide +kernel

/-- TaskInstructionsComplete: a domain that has ended, a table with no free index, addresses that fail, a word inside its slot; a queue that
is not enabled, one beyond the table, a descriptor that is not served. -/
theorem test_witness_task_traps :
    { launch with ended := true }.ended = true ∧ demo.addrStep group ap0 false true 4 64 ∉ [0, 5] ∧ demo.addrStep group ap0 false true 0x20000000 16 ∉ [0, 5]
    ∧ 1024 ≤ 1087 ∧ 1087 < 1024 + 64 ∧ (2 ^ 16 : Nat) ≤ 2 ^ 16 ∧ 2 ^ 14 ≤ 2 ^ 14 ∧ partQ.qtcount ≤ 3
    ∧ (match demoQ.qdesc partQ 0 with
      | .ok q => !q.en
      | .error _ => false) = true
    ∧ (match { demoQ with cached := [] }.qdesc { partQ with qtbase := 2 ^ 56 } 1 with
      | .error (.bad _ _ _) => true
      | _ => false) = true := by decide +kernel
theorem test_witness_full_table (x : TaskRec) (h : x.cluster = 0) :
    ∀ i < 1024, ∃ z ∈ (List.range 1024).map (fun (k : Nat) => { x with idx := k }), z.cluster = 0 ∧ z.idx = i :=
  fun i hi => ⟨_, List.mem_map.2 ⟨i, List.mem_range.2 hi, rfl⟩, h, rfl⟩

/-- DebugInstructionsComplete and PreemptionRequestsAndShootdownsComplete: a group whose record is not queued; an open shootdown and none; a
leaf that a shootdown of each kind drops, and one that none does. -/
theorem test_witness_shootdowns :
    (∀ r, { group with run := .trapped .zero false }.run ≠ .trapped r true) ∧ stopped.group? 0 0 = some trappedGroup
    ∧ trappedGroup.run = .trapped .zero true
    ∧ Drops 0 65536 1 1 5 [] ∧ Drops 1 0 9 1 5 [] ∧ Drops 2 5 9 1 5 [] ∧ Drops 3 7 9 1 5 [(1, 7, 0)] ∧ ¬ Drops 0 131072 1 1 5 [] ∧ ¬ Drops 2 6 1 1 5 [(1, 7, 0)]
    ∧ base.parts.head?.map (·.shoots) = some [] ∧ partS.shoots.head?.map (·.begun) = some true ∧ (127 : Nat) < 128 ∧ (0 : Nat) < 2 ^ 57 := by
  unfold Drops
  refine ⟨by intro r h; simp at h, by decide, rfl, ?_⟩
  decide +kernel

/-- FetchPathEventsComplete: a stream that owes an acknowledgement and one that owes none; items to fill; slots 3 and 4 of a plane. -/
theorem test_witness_acks :
    (let y : RxStream := { dst := 0, src := 1, stream := 1, vc := 1, next := 1, owes := true }
     { linked with rx := [y] }.ackFor 0 1 = some y ∧ { linked with rx := [{ y with owes := false }] }.ackFor 0 1 = none
      ∧ ({ linked with rx := [y] }.way 0 1 1 none).isSome = false ∧ (linked.way 0 1 0 none).isSome = true)
    ∧ (linked.planeLane 0 0).isSome = true ∧ (3 : Nat) < 4 ∧ ¬ (4 : Nat) < 4 ∧ base.armed cmdF = true
    ∧ (let i := { (itemsE true).getD 0 (itemAt 0 0 .plain [] [] 0) with fill := true, done := false }
       base.toFill { cmdF with items := [i] } = [(i, 0)] ∧ 0 < i.cnt ∧ i.cnt ≤ 256) := by decide +kernel

/-- ModulesCarryRequestsOut and ModuleEventsComplete: formats of each kind; a table entry of the last page; bodies at the bounds of their fields. -/
theorem test_witness_bodies :
    8 ∈ [8, 9, 10] ∧ 0 ∈ [0, 1, 2] ∧ base.Inv ∧ (0 : Nat) < 2 ^ 22
    ∧ (let b : Body := { op := 2 ^ 8 - 1, detail := 1, len := 2 ^ 13 - 1, part := 7, addr := 2 ^ 38 - 1, arg := 2 ^ 64 - 1, cmp := 5 }
       b.bytes.length = 32 ∧ readBody b.bytes = b)
    ∧ (base.cross 0 1 1 0 [1]).isNone = true := by unfold State.Inv; decide +kernel

/-- ImposerEventsComplete: an arrival word with bytes still owed before the answer, and one with none. -/
theorem test_witness_word_owed :
    base.writeOwed 5 (storeKey 0 512) 16 = false
    ∧ { base with locals := [{ storeOf 3 512 200 with size := 16, op := .init 0 }] }.writeOwed 5 (storeKey 0 512) 16 = true := by decide +kernel

/-- QueueAndPlacementEventsComplete: a reservation that waits and one that is pinned; a slot that is being evicted, with teams and without; a
lease whose renewal is due; regions with room below, between and nowhere. -/
theorem test_witness_eviction :
    (let v : Resv := { ends := [1], lanes := 1, pinned := [], until_ := 0, waiting := true, lapsing := false }
     let s := { linked with hws := [{ slotQ with resv := some v }] }
     s.hw? 0 = some { slotQ with resv := some v } ∧ s.pinAll [] 1 [1] ≠ none ∧ base.pinAll [] 1 [1] = none ∧ { v with waiting := false }.waiting = false)
    ∧ { mappedQ with evicting := true }.evicting = true ∧ base.preempts = [] ∧ { demoR 0 with teams := [] }.teams = []
    ∧ (let c := { Cadence.init with pending := [(1, 3, 0)] }; ∃ x ∈ c.pending, x.2.2 ≤ base.time ∧ x.2.2 ≤ 0)
    ∧ firstFit [(0, 768), (1536, 768)] 768 768 = some 768 ∧ firstFit [(0, 2359296)] 1 768 = none ∧ fitAll [] [(768, 768), (1024, 256)] = some [0, 768]
    ∧ (next 768).next < (next 768).teams ∧ (demoR 0).part? (next 768).part = some partQ := by decide +kernel

/-- PreemptionEventsComplete: a group that runs, waits, is trapped and is saved; a safe-point entry that can be read and one that cannot. -/
theorem test_witness_forced :
    (let s := { base with preempts := [request 1] }
     s.group? 0 0 = some group ∧ s.preempts.find? (·.id == (request 1).id) = some (request 1) ∧ group.run = .ready
      ∧ ((s.forceStop (request 1) group).group? 0 0).map (·.run) = some (.saving .forced none))
    ∧ (∀ r ∈ [Run.trapped .zero true, .trapped .zero false, .exited, .saving .wait none, .waiting .lock, .waiting (.ligclr cur)], { group with run := r }.run = r)
    ∧ (demoR 0).part? ((demoR 0).partOf 0) = some partQ ∧ ((demoR 0).ppRead partQ 64 64).isOk = true ∧ ((demoR 0).ppRead partQ (2 ^ 56) 64).isOk = false
    ∧ nth (base.live 1) 0 = some group ∧ nth team.seats 0 = some { core := 0, folio := 0, tiles := [0, 1, 2, 3] } ∧ 3 < 128 ∧ (16 : Nat) ≤ group.vregs := by
  decide +kernel

/-- StepRunsTheDecodedInstruction: an instruction with a register that the group lacks, one with a poisoned source, a line that fails its
parity, one with a reserved bit, a pc that is no instruction's, a group in its line and one that goes back in it; the privileged opcodes. -/
theorem test_witness_issue_checks :
    has group 4 (.vr 15) ∧ ¬ has group 4 (.vr 16) ∧ has group 4 (.sr 127) ∧ ¬ has group 4 (.tile 4)
    ∧ readBytes group (.sr 3) = some (group.skey 3, 8) ∧ { demo with poison := [group.skey 3 / 8] }.poisoned (group.skey 3) 8 = true
    ∧ lineCause codeLine = 0 ∧ lineCause (codeLine.set 4 2) = 0x03 ∧ lineCause (codeLine.set 0 0x89110001) = 0x01
    ∧ 1 ∉ instrStarts codeLine 15 0 ∧ codeLine.getD 0 0 / 2 ^ 4 % 2 ≠ 1 ∧ targetForm 64 = false
    ∧ (let g := { group with line := some (0, 20, codeLine) }
       let s := { base with groups := [g] }
       s.lineFor (.group 0 0) 32 = .line codeLine ∧ lineOf 32 = 0 ∧ ¬ 20 ≤ 4 ∧ s.group? 0 0 = some g)
    ∧ (0x3D0 : Nat) / 4 % 256 = 0xF4 ∧ (0x3EC : Nat) / 4 % 256 = 0xFB ∧ base.fetchOf (.group 0 1) = none
    ∧ (lineOf 4 + 64 ≤ 65536 ∧ demoP.poisoned (proofKey 0 0) 64 = false) ∧ 65536 < lineOf 65536 + 64 := by
  simp only [has]
  decide +kernel
/-- A core whose one group may issue: it is chosen; the state before the choice, with no turn given. -/
theorem test_witness_choice :
    (let s := { base with groups := [{ group with pc := 20 }] }
     s.agenda = [] ∧ s.plan = none ∧ s.isReady { group with pc := 20 } = true ∧ s.stuck { group with pc := 20 } = false ∧ group.bundle < 33
      ∧ s.coreIssues 0 = [.group 0 0])
    ∧ { group with lastIssue := some 100 }.lastIssue = some base.cycle ∧ group.lastIssue ≠ some base.cycle := by decide +kernel

/-! ### Witnesses: what is held, waits and is tried again -/

/-- An acquire of the group that is due at cycle 130. -/
def acquiring : State := { demo with locals := [{ storeOf 7 768 130 with acq := true }] }
/-- HeldBack, ReadHeld, TakesUncorr, LockTraps: an access behind an acquire; a word with an own write on its way, with an operation that writes
it and with neither; a poisoned word under a run and the granule before it; a held lock. -/
theorem test_witness_held :
    acquiring.cycle < acquiring.orderHold cur.agent false 20 ∧ acquiring.cycle < acquiring.orderHold cur.agent false 2
    ∧ (let s := { demo with locals := [storeOf 7 768 130] }
       s.ownPending cur.agent 768 16 = true ∧ s.ownPending cur.agent 784 16 = false ∧ s.cycle < s.orderHold cur.agent true 2
        ∧ s.addrStep group apAll false false 768 64 = 0)
    ∧ (let m : MatOp := { matOp 5 none with kind := .mstg (forme 8 0) 0 }
       { demoM with mats := [m] }.opsOver cur.agent 0 16 ≠ [] ∧ { demoM with mats := [m] }.opsOver cur.agent 16384 16 = [])
    ∧ (let s := { demo with poison := [97, 96] }
       [(640, 16), (768, 16)].find? (fun r => s.poisoned r.1 r.2) = some (768, 16) ∧ 96 ∈ s.poison ∧ 8 * 96 < 768 + 16 ∧ 768 < 8 * 96 + 8)
    ∧ holding.heldLock cur.agent ≠ none ∧ 4 ≤ ((demo.team? group.team).map (·.krec.nsafe)).getD 0 := by
  decide +kernel

/-- QueuesForBits: a bit that another group's LL keeps and one that an atomic keeps; a request that is granted, and one behind another. -/
def askFor (a : Agent) (since : Nat) (ll : Bool) : LockReq := { core := 0, bank := 0, bit := 1, agent := a, since := since, ll := ll }
theorem test_witness_lock_queue :
    (let b := (dedupBits ([768].map lockId)).filter fun b => !(demo.lockOf b).any (·.holder == cur.agent)
     b = [(0, 0, 1)]
      ∧ (∀ ll, let s := { holding with locks := holding.locks.map fun (l : Lock) => { l with holder := .group 0 1, ll := ll } }
        s.lockOf (0, 0, 1) ≠ none ∧ { s with lockReqs := [askFor cur.agent 100 true] }.behindLL cur.agent = ll))
    ∧ (let s := { demo with lockReqs := [askFor (.group 0 1) 50 false, askFor cur.agent 50 true] }
       s.grantable = some (askFor cur.agent 50 true) ∧ (∀ x ∈ s.lockReqs, x.bank < 48 ∧ x.bit < 8) ∧ ∃ x ∈ s.lockReqs, x.agent = cur.agent)
    ∧ { holding with lockReqs := [askFor (.group 0 1) 50 false] }.grantable = none
    ∧ (∀ x ∈ base.lockReqs, x.agent ≠ cur.agent) ∧ (running (.waiting .lock)).group? 0 0 = some { group with run := .waiting .lock } := by
  decide +kernel

/-- ControlTransfersComplete, DivergenceInstructionsComplete: targets on lines of each kind. -/
theorem test_witness_target_lines :
    targetForm 4 = true
    ∧ (match { demo with modules := [{ demo.module 1 with table := [(0, .ofNat 64 (2 ^ 63 + 2 ^ 61))] }] }.readLine cur.agent 0 with
      | .busy => true
      | _ => false) = true
    ∧ (match demo.readLine cur.agent (2 ^ 56) with
      | .bad _ _ _ => true
      | _ => false) = true
    ∧ (match demoP.readLine pcur.agent 65536 with
      | .none => true
      | _ => false) = true
    ∧ (match demo.readLine cur.agent 0 with
      | .line ws => syllableCause ws 1 != 0 && syllableCause ws 0 == 0
      | _ => false) = true := by
  decide +kernel

/-- TakesUp: a command of the group that waits, and is the only one. AllowanceAndHintsComplete: an entry of a command and none. -/
theorem test_witness_held_command :
    (let s := { demoE with cmds := [{ fetchE with uid := 40 }] }
     s.heldCmd cur.agent ≠ none ∧ (∀ x ∈ s.cmds, x.agent = cur.agent ∧ x.charged = false ∧ x.uid = 40)
      ∧ { s with cmds := s.cmds.filter fun x => !(x.agent == cur.agent && !x.charged) }.heldCmd cur.agent = none)
    ∧ demoE.heldCmd cur.agent = none ∧ commandDest (.tfetch 9 10 11 0) = some 9
    ∧ (let m := { fetchE with charged := true }
       { demo with cmds := [m] }.outstanding 1 = (0, 0)
        ∧ { demo with cmds := [m], chases := [{ span := { core := 0, lo := 0, hi := 16, dest := true }, team := 1, tag := m.uid }] }.outstanding 1 = (m.bytes, 1)) := by
  decide +kernel

/-- MatrixInstructionsComplete: slices of each format on the folio's rows; a byte that is being fetched under a slice. -/
theorem test_witness_matrix_early :
    (let s := { demoM with chases := [{ span := { core := 0, lo := 0, hi := 16, dest := true }, team := 1, tag := 5 }] }
     let acc := (sliceRuns (matTeam.forme 0) 128 0).map fun r => (false, 0, r)
     acc.find? (fun x => s.early x.1 x.2.1 x.2.2.1 x.2.2.2) = some (false, 0, 0, 16)
      ∧ s.early false 0 16384 16 = false)
    ∧ 128 ∈ [16, 32, 64, 128] ∧ { group with uncorrM := [(16, 0)] }.uncorrM = (16, 0) :: []
    ∧ (let m := { base with mats := [matOp 5 (some 70), matOp 6 (some 60)] }
       m.matBefore (matOp 6 (some 60)) = true ∧ m.matBefore (matOp 5 (some 70)) = false
        ∧ m.mats = [matOp 5 (some 70)] ++ matOp 6 (some 60) :: [] ∧ ∀ o ∈ [matOp 5 (some 70)], o.uid ≠ 6)
    ∧ (running (.waiting (.mwait cur))).group? 0 0 = some { group with run := .waiting (.mwait cur) }
    ∧ (running .exited).group? 0 0 = some { group with run := .exited } := by
  decide +kernel

/-- EngineQueuesRun: operations with a fault, of the team and of a predecessor, under a group of the team, an exited one and none; an engine with
a predecessor's values; one that its last operation leaves; a queue with waiting groups. LigatureInstructionsComplete: what fails each step. -/
theorem test_witness_ligature_end :
    (let f : LigFault := { cause := 0x0E, c := 16, d := 0 }
     let op := { ligOp 5 bindOp (some 70) with fault := some f }
     let s := { base with ligOps := [op, { ligOp 6 bindOp none with gate := some [(9, 10)] }] }
     s.ligOps.find? (·.uid == 5) = some op ∧ op.finish ≤ s.cycle ∧ s.group? op.core op.slot = some group ∧ group.team = op.team ∧ group.run ≠ .exited
      ∧ (running .exited).group? op.core op.slot = some { group with run := .exited } ∧ { s with groups := [] }.group? op.core op.slot = none
      ∧ (let e := { bound with team := some 1, fault := some f, faultBy := some 0 }
         { s with ligs := [e] }.ligs.find? (fun e => e.core == group.core && e.team == some group.team && e.faultBy == some group.slot) = some e))
    ∧ ({ base with ligs := [{ bound with stale := true }] }.lig 0).stale = true ∧ (base.lig 0).stale = false
    ∧ (let t := { team with krec := { krec with lig := false } }
       let s := { base with teams := [t], ligs := [bound] }
       (∃ e ∈ s.ligs, e.core = 0 ∧ e.team = some 1) ∧ (∀ o ∈ s.ligOps, o.core ≠ 0) ∧ s.team? 1 = some t ∧ t.krec.lig = false)
    ∧ (2 ^ 28 ≤ 0x10000000 ∧ 8 % 16 ≠ 0 ∧ 24576 < 24576 + 16 ∧ 24560 + 16 ≤ 24576)
    ∧ demoL.ligRoom 0 demoL.uid = true ∧ { demoL with ligOps := (List.range 8).map fun i => ligOp i bindOp none }.ligRoom 0 demoL.uid = false
    ∧ { demoL with chases := [{ span := { core := 0, lo := 1024, hi := 1040, dest := true }, team := 1, tag := 5 }] }.early false 0 1024 20 = true := by
  decide +kernel

/-- TaskInstructionsComplete and ImposerEventsComplete: stalled records; a domain that is drained and one that is not; handles of each kind; a
descriptor with SEAL; clusters that balance; an answer that waits for a store. -/
theorem test_witness_domains :
    (let x := { taskRec with zeroAt := some 4 }
     let s := { base with tpending := [{ x with idx := 1, zeroAt := some 9 }, x] }
     s.stalled 0 = some x ∧ s.readyRoom 0 ≠ 0 ∧ base.stalled 0 = none)
    ∧ (let l := { launch with sealed := true }
       ({ base with launches := [l] }.launch? 2 = some l ∧ l.outstanding = 0 ∧ l.ended = false ∧ base.tready = [] ∧ base.tpending = [] ∧ base.ttransit = [])
        ∧ launch.sealed = false ∧ 2 ^ 257 / 2 ^ 257 % 2 = 1)
    ∧ (∀ n ∈ [0, 1, 2], let y := { taskRec with idx := 3, count := n }
       { base with tpending := [y] }.tpending.find? (fun y => y.cluster == 3 / 1024 && y.idx == 3 % 1024 && y.launch == 2) = some y)
    ∧ (base.tpending.find? fun y => y.cluster == 3 / 1024 && y.idx == 3 % 1024 && y.launch == 2) = none ∧ (2 ^ 17 : Nat) ≤ 2 ^ 17
    ∧ min 2 ([taskRec, taskRec].filter fun x => x.launch == 2 && x.cluster == 0).length = 2
    ∧ ringNeighbours 3 0 = [1, 2] ∧ toward 5 0 [3] = some 4
    ∧ (∃ l ∈ [storeOf 3 512 200], l.op.writes = true ∧ l.onStore = true ∧ l.uid < taskReq.uid ∧ l.addr < 512 + 16 ∧ 512 < l.addr + l.size) := by
  decide +kernel

/-- DebugWindow: an access with each code; a map whose slot holds a group; a byte of memory, a doubleword, a gap. -/
theorem test_witness_debug_window :
    (stopped.proof 0).map = some (0, 0) ∧ stopped.group? 0 0 = some trappedGroup ∧ stopped.team? trappedGroup.team = some team
    ∧ { stopped with groups := [] }.group? 0 0 = none
    ∧ (∀ x ∈ [(false, 0x10000, 4, 0), (true, 0x10404, 4, 0), (false, 0x10438, 8, 2), (true, 0x100004, 8, 4), (false, 0x200000, 8, 0)],
        stopped.debugCode (stopped.proof 0) x.1 x.2.1 x.2.2.1 = x.2.2.2)
    ∧ { stopped with chases := [{ span := { core := 0, lo := 768, hi := 784, dest := false }, team := 1, tag := 5 }] }.debugCode (stopped.proof 0) true
        0x100300 8 = 3
    ∧ { stopped with mats := [matOp 5 none] }.debugCode (stopped.proof 0) false 0x200000 8 = 5
    ∧ stopped.debugKey trappedGroup 0x10008 = some (trappedGroup.skey 1) ∧ stopped.debugKey trappedGroup 0x10408 = none
    ∧ stopped.debugWord trappedGroup 0x10438 = none ∧ (stopped.debugWord trappedGroup 0x10408).isSome = true
    ∧ [1, 2, 3, 4].length ∈ [1, 2, 4, 8] ∧ 0x10404 % [1, 2, 3, 4].length = 0
    ∧ (let l : Local := { storeOf 7 0 100 with agent := .proof 0, op := .debug 0 0 768 (some [1]) 5 }
       { base with locals := [l] }.locals.filter (·.uid == 7) = [l]) := by
  decide +kernel

/-- UnitsAreServed: a unit that is served and one that is not, of each access; a command that is armed and one that is not; runs on served
bytes, on others, and with a second place; a command with all of its bytes, without, and with requests left. -/
theorem test_witness_units :
    base.armed cmdF = true ∧ { base with locals := [{ storeOf 0 32 200 with uid := 0 }], cmds := [{ cmdF with uid := 4 }] }.armed { cmdF with uid := 4 } = false
    ∧ (∃ u ∈ { cmdF with units := [unitF .pending] }.units, u.over = false) ∧ (∀ u ∈ cmdF.units, u.over = true)
    ∧ (let i := { itemAt 4096 16 .plain [] [] 16 with far := some 4096 }
       (∀ u ∈ unitsOf 4096 i.len, ∃ x, cmdF.unitOf false (u * 65536) = some x ∧ x.served = true)
        ∧ ¬ (∀ u ∈ unitsOf 65536 i.len, ∃ x, cmdF.unitOf false (u * 65536) = some x ∧ x.served = true)
        ∧ { i with far2 := some 8192 }.far2 = some 8192)
    ∧ (∀ r ∈ base.reqs, r.cmd = cmdF.uid → r.run = .finished) ∧ (∃ r ∈ (demoF .read .sent).reqs, r.cmd = cmdF.uid ∧ r.run ≠ .finished)
    ∧ (∃ i ∈ [{ itemAt 4096 16 .plain [] [] 16 with fill := true }], i.done = false) ∧ fetchE.bindingOf.isSome = false := by
  refine ⟨by decide +kernel, by decide +kernel, ⟨_, List.mem_singleton.2 rfl, rfl⟩, by decide +kernel, ⟨?_, ?_, rfl⟩, by decide +kernel, by decide +kernel,
    ⟨_, List.mem_singleton.2 rfl, rfl⟩, rfl⟩
  · intro u hu
    exact ⟨unitF (.served (.ok 1 0 0 false true 0 1 [])), by revert hu; revert u; decide +kernel, rfl⟩
  · intro h
    obtain ⟨x, hx, -⟩ := h 1 (by decide +kernel)
    exact absurd hx (by rw [show cmdF.unitOf false (1 * 65536) = none from rfl]; simp)

/-- StreamsGoOn and ChunksAreDelivered: two chunks of a transaction, a stream adrift and one with a way; parts of each kind; records whole and not. -/
theorem test_witness_chunks :
    (burstSize [chunkF, chunkF] = 2 ∧ burstSize [chunkF, { chunkF with req := 1 }] = 1)
    ∧ { txF with lane := none }.copies ≠ [] ∧ (linked.emit txF [chunkF]).isSome = true ∧ base.emit txF [chunkF] = none
    ∧ [chunkF].take (min (burstSize [chunkF]) (16 - txF.copies.length)) ≠ []
    ∧ (demoF .read .accepted).cmd? chunkF.cmd = some cmdF ∧ (demoF .read .accepted).req? chunkF.cmd chunkF.req = some (reqF .read .accepted)
    ∧ (let p : Part := { lo := 4096, hi := 4160, n := 64, coded := false, more := false }
       let as := (partsArrive false ([], false) (List.replicate 64 1) [p]).1.filter fun a => (reqF .read .accepted).owed.any (· == (a.lo, a.hi))
       as.map (fun a => (a.lo, a.hi)) = [(4096, 4160)] ∧ { p with coded := true }.coded = true ∧ { p with more := true }.more = true)
    ∧ { itemAt 4096 16 .plain [] [] 16 with far := some 4096 }.far = some 4096 ∧ (itemAt 4096 16 .plain [] [] 16).form = .plain := by
  decide +kernel

/-- HostAccessesComplete and BootEventsComplete: windows of each kind on bytes that are there and that are not; a PAGEREQ's unit to post again;
partitions that an image makes and one that it does not. -/
theorem test_witness_windows :
    (let s := { base with
       boot := { base.boot with mbwin := base.boot.mbwin.set 1 (.ofNat 64 (2 ^ 63)) }
       parts := [{ (Partition.init 0 [0] [0]) with xroot := .ofNat 64 (2 ^ 63 + 2 ^ 30) }] }
     (match s.farKey { (Partition.init 0 [0] [0]) with xroot := .ofNat 64 (2 ^ 63 + 2 ^ 30) } 254 false (2 ^ 56) with
      | .bad _ _ _ => true
      | _ => false) = true)
    ∧ ({ demoR 0 with cached := (demoR 0).cached.map fun (x : Cached) => { x with cluster := 254 } }.farKey partQ 254 false 64 matches .key _) = true
    ∧ (let u := { unitF (.served (.bad 1 4 127)) with posted := false }
       u.res = .served (.bad 1 4 127) ∧ u.done = false ∧ u.posted = false)
    ∧ (∀ p ∈ [(0 : Nat), 1], (p < 1 ∨ 1 ≤ p)) ∧ base.hostBusy (.notify 0 1 0) = false ∧ base.boot.fw = none := by
  decide +kernel

/-- FetchPathEventsComplete, ModuleEventsComplete: an exchange gets across both ways where grants are there. -/
theorem test_witness_exchange (f : Body → List Byte) (h : ∀ b, (f b).length ≤ 512) : ∃ r, linked.exchange 1 (tableReadBody 0 8) f = some r := by
  have hb : (tableReadBody 0 8).bytes.length ≤ 512 := by decide +kernel
  obtain ⟨w, hw, hv⟩ : ∃ w, linked.way linked.boot.endpoint 1 0 none = some w
      ∧ ∀ tx rx, ∃ v, ({ linked.use w with tx := tx, rx := rx } : State).way 1 linked.boot.endpoint 1 none = some v :=
    ⟨_, rfl, fun _ _ => ⟨_, rfl⟩⟩
  obtain ⟨tx, rx, ds, e⟩ := cross_some hw (stream := 0) (by decide +kernel) (by decide) hb
  obtain ⟨v, hv⟩ := hv tx rx
  obtain ⟨tx', rx', ds', e'⟩ := cross_some hv (stream := 1) (by decide) (by decide +kernel) (h (readBody ds))
  unfold State.exchange State.ask
  rw [e, Option.map_some, Option.bind_some, e']
  exact ⟨_, rfl⟩

/-- LaneEventsComplete and SocketEventsComplete: streams of either side, with a lane to go on by and none; a peer with a control channel and one
without; a lane that is granted and one that is not; events that find room and that find none; a lane that lost a stream. -/
theorem test_witness_streams_move :
    txF.dst ≠ base.boot.endpoint ∧ { txF with dst := 0, src := 1 }.dst = base.boot.endpoint
    ∧ (linked.otherLane 1 0).isSome = true ∧ base.otherLane 1 0 = none ∧ linked.controlTo 1 = true ∧ base.controlTo 1 = false
    ∧ (∃ g ∈ linked.given, g.plane = 0 ∧ g.slot = 0 ∧ g.vc = 1) ∧ (∀ g ∈ base.given, ¬ (g.plane = 0 ∧ g.slot = 0 ∧ g.vc = 1))
    ∧ ((base.fevput - base.fevget).toNat < 256) ∧ 256 ≤ ((256 : Word) - 0).toNat ∧ (6 : Nat) < 2 ^ 5
    ∧ (let l := { laneF 5 3 with replaced := 127, failAt := some 0, streams := [(1, 0, 1, 1)] }
       let s := laned [l, laneF 64 0]
       (s.lane 0 5).pos = 5 ∧ (s.lane 0 5).streams = [(1, 0, 1, 1)] ∧ (s.txOf 1 0 1 1).dst = s.boot.endpoint
        ∧ (∀ z ∈ s.streamsOn (· == (0, 5)), (z.src, z.dst, z.stream, z.vc) ≠ (1, 0, 1, 1))
        ∧ (∃ z ∈ { s with tx := [{ txF with copies := [{ chunkF with lane := some (0, 5) }], lane := some (0, 5) }] }.streamsOn (· == (0, 5)),
          (z.src, z.dst, z.stream, z.vc) = (0, 1, 1, 0))) := by
  decide +kernel

/-- The saved context of the one team, its bytes and its engine with it. -/
def sv : Saved := (running (.saving .wait none)).savedContext { request 2 with live := [] } 0 1 false
/-- A core with nothing on it. -/
def bare : State := { base with groups := [], teams := [], ligs := [] }
/-- RestoresContexts and SavesContexts: a context that is restored on a free core, and one for whose tiles or chase entries there is no room;
groups with each kind of stop; a group whose safe point is recorded. -/
theorem test_witness_restore :
    (bare.restoreIn sv 0).isSome = true ∧ (bare.restoreIn { sv with teams := [({ team with krec := { krec with galley := 49 } }, [])] } 0).isNone = true
    ∧ (let e : Chase := { span := { core := 0, lo := 0, hi := 16, dest := true }, team := 1, tag := 5 }
       (base.restoreChases { sv with chases := [e] } team).isSome = true
        ∧ ({ base with chases := List.replicate 64 e }.restoreChases { sv with chases := [e] } team).isNone = true)
    ∧ (bare.restoreShare team [group] 0).isSome = true ∧ (bare.restoreShare { team with krec := { krec with folio := 2 ^ 22 } } [group] 0).isNone = true
    ∧ (sv.cells.any fun c => c.1 == 1 && c.2.1 == 0 && c.2.2.1 == 2 ^ 24 + 2 ^ 23 + 24) = true
    ∧ { group with run := .saving .trap (some .zero) }.run = .saving .trap (some .zero) ∧ StopKind.wait ≠ .trap
    ∧ (running (.saving (.safept 3) none)).group? 0 0 = some { group with run := .saving (.safept 3) none } ∧ 1 ∈ (request 1).teams
    ∧ (∀ g ∈ base.groups, base.group? g.core g.slot = some g) ∧ base.imageKey team { core := 0, folio := 768, tiles := [4] } (2 ^ 32 + 5) = tileKey 0 4 + 5 := by
  decide +kernel

/-- A group about to issue two words, of an even number of ones, at syllable 0 of its line. -/
def atWords (w v : Nat) : State :=
  { base with
    groups := [group], agenda := [.issue (.group 0 0)]
    mem := memSetAll base.mem (cells (hbmKey 1 0 0) [0x80000001, w, v, 3, 3, 3, 3, 3, 3, 3, 3, 3, 3, 3, 3, 3]) }
/-- OneStepPerformsOneEvent: a turn of an agent that takes lock bits; an ARTEST whose word has an own write on its way. PacketEventsComplete: a
request above the share, and a list that cannot be read. -/
theorem test_witness_turns :
    (let s := { atWords 0x30000309 0x06050401 with locals := [storeOf 7 96 200] }
     s.isReady group = true ∧ s.ownWait group = some (.ownWrites 96 16) ∧ (atWords 0x30000309 0x06050401).ownWait group = none ∧ s.takesBits (.group 0 0) = false
      ∧ (atWords 0xD9000A91 0x03000402).takesBits (.group 0 0) = true)
    ∧ partQ.pinShare < 2 * 200 ∧ ((demoR 0).ppRead partQ (2 ^ 56) 8).isOk = false := by
  decide +kernel

end Sys2Proof.Tests
end

section
/-! PROOFS. The registers right after package reset (00 R6, 14 R291, 15 R310, 16 R339, 17 R366, 18 R372, R376), the turn of a proof core
(log 7), and the masks and status of a new group (01 R29, 02 R46, 07 R179). -/

namespace Sys2Proof.Machine

/-! ### Which block of BAR0 a read reaches (18 R371) -/

theorem barRead_global {s : State} {o : Nat} (h : o < 0x18000) : s.barRead o = .ofNat 64 (s.readGlobal o) := by
  rw [State.barRead, if_pos h]

theorem barRead_part {s : State} {p o : Nat} (hp : p < 8) (ho : o < 0x10000) :
    s.barRead (0x100000 + 0x10000 * p + o) = .ofNat 64 (s.readPart p o) := by
  rw [State.barRead, if_neg (by omega), if_pos (by omega), show (0x100000 + 0x10000 * p + o - 0x100000) / 65536 = p by omega,
    show (0x100000 + 0x10000 * p + o) % 65536 = o by omega]

theorem barRead_fabric {s : State} {o : Nat} (h : o < 0x3000) : s.barRead (0x200000 + o) = .ofNat 64 (s.readFabric o) := by
  rw [State.barRead, if_neg (by omega), if_neg (by omega), if_pos (by omega), Nat.add_sub_cancel_left]

/-! ### The global block (18 R372, R376) -/

/-- ATTREP reads as bytes of the report, which follow one another from 0x10000 up. -/
theorem readGlobal_attrep {s : State} {o : Nat} (h : 0x10000 ≤ o) :
    s.readGlobal o = leNat ((List.range 8).map fun i => s.boot.attrep.getD (o - 0x10000 + i) 0) := by
  simp (disch := omega) only [State.readGlobal, if_neg, if_pos]

theorem reset_readGlobal_zero : ∀ o ∈ [0x20, 0x28, 0x30, 0x38, 0x40, 0x100, 0x108, 0x110, 0x118, 0x120, 0x128, 0x130, 0x138, 0x200,
    0x208, 0x300, 0x308, 0x310, 0x318, 0x320, 0x700, 0x708], State.reset.readGlobal o = 0 := by
  decide

theorem reset_readGlobal_attrep {o : Nat} (h : 0x10000 ≤ o) : State.reset.readGlobal o = 0 := by
  rw [readGlobal_attrep h]
  rfl

/-! ### The fabric block (17 R366) -/

/-- No lane of a socket has failed or is retired at reset. -/
theorem reset_lane_st (k i : Nat) : (State.reset.lane k i).st = 0 ∨ (State.reset.lane k i).st = 1 := by
  exact (ite_eq_or_eq _ 1 0).symm

theorem reset_lanes_gone (k n : Nat) :
    ((List.range n).filter fun i => (State.reset.lane k i).st == 3 || (State.reset.lane k i).st == 4) = [] := by
  refine List.filter_eq_nil_iff.2 fun i _ => ?_
  rcases reset_lane_st k i with h | h <;> simp [h]

/-- A socket is Absent at reset, has no bad command, and its thresholds have their reset values. -/
theorem reset_socket (k : Nat) : State.reset.socket k =
    { s := k, st := 0, badcmd := false, retire := 307, warn := 205, romaddr := 0, rom := [], present := false
      drainAt := 0, moved := 0, resumes := 0, discards := 0 } := rfl

theorem reset_readFabric_socket {k : Nat} (hk : k < 16) :
    (∀ o ∈ [0x00, 0x10, 0x20, 0x28], State.reset.readFabric (0x100 * k + o) = 0)
    ∧ State.reset.readFabric (0x100 * k + 0x18) = 205 + 307 * 2 ^ 16 := by
  have at_ (o : Nat) (ho : o < 0x100) : 0x100 * k + o < 0x1000 ∧ (0x100 * k + o) / 0x100 = k ∧ (0x100 * k + o) % 0x100 = o := by omega
  constructor
  · intro o ho
    obtain ⟨lt, quot, rem⟩ := at_ o (by revert o; decide)
    simp only [State.readFabric, if_pos lt, quot, rem, reset_socket, reset_lanes_gone]
    simp only [List.mem_cons, List.not_mem_nil, or_false] at ho
    rcases ho with rfl | rfl | rfl | rfl <;> rfl
  · obtain ⟨lt, quot, rem⟩ := at_ 0x18 (by decide)
    simp only [State.readFabric, if_pos lt, quot, rem, reset_socket]
    rfl

theorem reset_readFabric_zero : ∀ o ∈ [0x1000, 0x1008, 0x1010, 0x1018], State.reset.readFabric o = 0 := by
  decide

/-- The ring of event records holds none at reset. -/
theorem reset_readFabric_records {o : Nat} (h : 0x2000 ≤ o) : State.reset.readFabric o = 0 := by
  simp (disch := omega) only [State.readFabric, if_neg]
  split <;> rfl

/-! ### The blocks of the partitions (15 R310, 16 R339) -/

theorem reset_part {p : Nat} (h : p < 8) : State.reset.part? p = some (Partition.init p [] []) := by
  interval_cases p <;> rfl

theorem reset_readPart {p : Nat} (h : p < 8) :
    (∀ o ∈ [0, 8, 0x18, 0x800, 0x820, 0x828, 0x830, 0x838, 0x840], State.reset.readPart p o = 0)
    ∧ (∀ o ∈ [0x808, 0x810], State.reset.readPart p o = 2 ^ 64 - 1) ∧ State.reset.readPart p 0x10 = 0x1000000 + 0x20000 * p := by
  simp [State.readPart, reset_part h, Partition.init, Partition.busy]

/-- The fault buffer of a partition holds no record at reset. -/
theorem reset_readPart_records {p o : Nat} (h : p < 8) (ho : 0x1000 ≤ o) : State.reset.readPart p o = 0 := by
  simp (disch := omega) only [State.readPart, reset_part h, if_neg]
  split <;> rfl

/-! ### The registers of a proof core (14 R291, 17 R362) -/

theorem reset_proof (k : Nat) : State.reset.proof k = ProofCore.init k := rfl

theorem reset_csr_zero (k : Nat) : ∀ r ∈ [Csr.treca, .trecb, .trecc, .trecd, .tqcount, .orphovf, .dbgstat, .feva, .fevb, .fevcount, .fevovf],
    State.reset.csr (ProofCore.init k) r = 0 := by
  simp only [List.forall_mem_cons, List.not_mem_nil, false_imp_iff, implies_true, and_true]
  exact ⟨rfl, rfl, rfl, rfl, rfl, rfl, rfl, rfl, rfl, rfl, rfl⟩

/-! ### The turn of a proof core (log 7) -/

/-- What makes a proof core ready: the package is, the core runs and waits for nothing, and no due result of its own is left. -/
theorem proofReady_iff {s : State} {c : Nat} : s.proofReady c = true ↔ s.boot.st = 5 ∧ (s.proof c).halted = false ∧ (s.proof c).wait = none
    ∧ (s.proof c).notBefore ≤ s.cycle ∧ ∀ m ∈ s.commits, m.agent = .proof c → m.left ≠ 0 := by
  simp [State.proofReady, and_assoc]

theorem fetchOf_proof_ready {s : State} {c : Nat} (h : s.proofReady c = true) :
    s.fetchOf (.proof c) = some ((s.proof c).pc, none, s.fetchPc (.proof c) (s.proof c).pc.toNat false false) := by
  simp [State.fetchOf, h]

theorem fetchOf_proof_not_ready {s : State} {c : Nat} (h : s.proofReady c = false) : s.fetchOf (.proof c) = none := by
  simp [State.fetchOf, h]

theorem proofReady_of_boot {s : State} (c : Nat) (h : s.boot.st ≠ 5) : s.proofReady c = false := by
  simp [State.proofReady, h]

theorem takesBits_of_fetchOf_none {s : State} {a : Agent} (h : s.fetchOf a = none) : s.takesBits a = false := by
  simp [State.takesBits, h]

theorem issue_of_fetchOf_none {s : State} {a : Agent} (h : s.fetchOf a = none) : s.issue a = .next s := by
  simp [State.issue, h]

theorem step_issue {s : State} {a : Agent} {ts : List Turn} (h : s.agenda = .issue a :: ts) :
    step s = State.issueTurn { s with agenda := ts } a := by
  simp [step, State.stepOnce, h, State.turn]

/-- The turn of a chosen agent that takes no lock bits is its own (08 R191 puts others before one that does). -/
theorem issueTurn_own {s : State} {a : Agent} {as : List Agent} (hp : s.plan = some as) (hm : a ∈ as) (hb : s.takesBits a = false) :
    s.issueTurn a = State.issue { s with plan := some (as.filter (· != a)) } a := by
  simp [State.issueTurn, State.planned, hp, hm, State.whoIssues, hb]

/-- Before state 5 the turn of a proof core that was chosen passes: it issues nothing. -/
theorem step_issue_proof_before_ready {s : State} {c : Nat} {ts : List Turn} {as : List Agent} (h : s.boot.st ≠ 5)
    (ha : s.agenda = .issue (.proof c) :: ts) (hp : s.plan = some as) (hm : .proof c ∈ as) :
    step s = .next { s with agenda := ts, plan := some (as.filter (· != .proof c)) } := by
  have fetches_none (t : State) (ht : t.boot = s.boot) : t.fetchOf (.proof c) = none :=
    fetchOf_proof_not_ready (proofReady_of_boot c (ht ▸ h))
  calc step s = State.issueTurn { s with agenda := ts } (.proof c) := step_issue ha
    _ = State.issue { s with agenda := ts, plan := some (as.filter (· != .proof c)) } (.proof c) :=
      issueTurn_own (s := { s with agenda := ts }) hp hm (takesBits_of_fetchOf_none (fetches_none _ rfl))
    _ = _ := issue_of_fetchOf_none (fetches_none _ rfl)

/-! ### A new group (01 R29, 02 R46, 07 R173, R179) -/

theorem groupNew_mask {core slot team index placed cycle : Nat} {k : KRec} {win sblk : Nat} {b : Nat × Nat} {m : MReg} (h : m ≠ 0) :
    (Group.new core slot team index placed cycle k win sblk b).mask m = 0 := by
  rw [Group.mask, if_neg h]
  exact Vector.getElem_replicate _

/-! ### The obligation -/

/-- Settles O54: each block of BAR0, the registers of a proof core and a new group read as reset and placement leave them, and a proof core
is not ready before state 5. -/
theorem resetLeavesTheResetValues : Obligations.ResetLeavesTheResetValues := by
  have word {x y n : Nat} (h : State.reset.barRead x = .ofNat 64 n) (e : n = y) : State.reset.barRead x = .ofNat 64 y := e ▸ h
  refine ⟨fun o ho => ?_, rfl, rfl, fun i hi => ?_, fun k hk => ?_, fun o ho => ?_, fun i hi => ?_, fun p hp => ?_, fun p _ dies hw => ?_,
    fun k => ?_, fun s c => ⟨?_, ?_⟩, fun core slot team index placed cycle k win sblk b => ?_⟩
  · exact word (barRead_global (by revert o; decide)) (reset_readGlobal_zero o ho)
  · exact word (barRead_global (by omega)) (reset_readGlobal_attrep (by omega))
  · obtain ⟨zero, thresholds⟩ := reset_readFabric_socket hk
    refine ⟨fun o ho => ?_, ?_⟩
    · have lt : o < 0x100 := by revert o; decide
      rw [Nat.add_assoc]
      exact word (barRead_fabric (by omega)) (zero o ho)
    · rw [Nat.add_assoc]
      exact word (barRead_fabric (by omega)) thresholds
  · exact word (barRead_fabric (by revert o; decide)) (reset_readFabric_zero o ho)
  · rw [show 0x202000 + 8 * i = 0x200000 + (0x2000 + 8 * i) by omega]
    exact word (barRead_fabric (by omega)) (reset_readFabric_records (by omega))
  · obtain ⟨zero, ones, notify⟩ := reset_readPart hp
    refine ⟨fun o ho => ?_, fun o ho => ?_, ?_, fun i hi => ?_⟩
    · exact word (barRead_part hp (by revert o; decide)) (zero o ho)
    · exact word (barRead_part hp (by revert o; decide)) (ones o ho)
    · exact word (barRead_part hp (by decide)) notify
    · rw [Nat.add_assoc]
      exact word (barRead_part hp (by omega)) (reset_readPart_records hp (by omega))
  · exact ⟨rfl, rfl, rfl, rfl, rfl, rfl, rfl, rfl, rfl, rfl, rfl, rfl⟩
  · exact ⟨reset_csr_zero k, rfl, rfl⟩
  · intro hst
    exact ⟨fetchOf_proof_not_ready (proofReady_of_boot c hst), fun _ _ => step_issue_proof_before_ready hst⟩
  · intro hst hh hw hn hc
    exact fetchOf_proof_ready (proofReady_iff.2 ⟨hst, hh, hw, hn, hc⟩)
  · refine ⟨rfl, rfl, fun j => ?_, rfl, fun m hm => groupNew_mask hm, rfl⟩
    exact congrArg Rejoin.valid (Vector.getElem_replicate _)

end Sys2Proof.Machine
end

section
/-! PROOFS. Host accesses (00 R6, R7, 04 R112, 15 R310, 16 R339, R340, 17 R366, 18 R371 to R373): their order, what a write of each register
does, and what the pieces of a mailbox access do. -/

namespace Sys2Proof.Machine

/-! ### The order of host accesses (04 R112) -/

@[simp] theorem hostBusy_reg (s : State) (off : Nat) (x : DWord) : s.hostBusy (.reg off x) = false := rfl

theorem hostBusy_read {s : State} {n off size : Nat} :
    s.hostBusy (.read n off size) = true ↔ ∃ p ∈ pieces off size, s.windowBusy n false p.1 = true := List.any_eq_true

theorem hostBusy_write {s : State} {n off : Nat} {bs : List Byte} :
    s.hostBusy (.write n off bs) = true ↔ ∃ p ∈ pieces off bs.length, s.windowBusy n true p.1 = true := List.any_eq_true

theorem hostBusy_notify {s : State} {part q : Nat} {x : DWord} :
    s.hostBusy (.notify part q x) = true ↔ s.boot.lock = true ∧ s.tableBusy part q = true := Bool.and_eq_true_iff

theorem inOrder_first {s k : State} {o : HostOp} (hq : s.hostq = []) (hb : s.hostBusy o = false) : s.inOrder o k = k := by
  simp [State.inOrder, hq, hb]

theorem inOrder_waits {s k : State} {o : HostOp} (h : s.hostq ≠ [] ∨ s.hostBusy o = true) :
    s.inOrder o k = { s with hostq := s.hostq ++ [o] } := by
  rw [State.inOrder, if_neg]
  rcases h with h | h <;> simp [h]

/-- A write of a register has nothing of its own to wait for. -/
theorem inOrder_reg {s k : State} {off : Nat} {x : DWord} (hq : s.hostq = []) : s.inOrder (.reg off x) k = k :=
  inOrder_first hq (hostBusy_reg ..)

/-! ### Which block a write reaches (18 R371) -/

theorem registerWrite_first {s : State} {off : Nat} {x : DWord} (hq : s.hostq = []) (h : off < 0x1000000 ∨ 0x1100000 ≤ off) :
    exec (.registerWrite off x) s = .next (s.regWrite off x) := by
  show execRegisterWrite off x s = _
  rw [execRegisterWrite, if_neg (by omega), inOrder_reg hq]

theorem registerWrite_waits {s : State} {off : Nat} {x : DWord} (hq : s.hostq ≠ []) (h : off < 0x1000000) :
    exec (.registerWrite off x) s = .next { s with hostq := s.hostq ++ [.reg off x] } := by
  show execRegisterWrite off x s = _
  rw [execRegisterWrite, if_neg (by omega), inOrder_waits (.inl hq)]

theorem registerWrite_notify {s : State} {p q : Nat} {x : DWord} (hp : p < 8) (hq : q < 16384) :
    exec (.registerWrite (0x1000000 + 0x20000 * p + 8 * q) x) s = exec (.notifyWrite p q x) s := by
  show execRegisterWrite _ x s = execNotifyWrite p q x s
  rw [execRegisterWrite, if_pos (by omega), show (0x1000000 + 0x20000 * p + 8 * q - 0x1000000) / 0x20000 = p by omega,
    show (0x1000000 + 0x20000 * p + 8 * q) % 0x20000 / 8 = q by omega]

theorem registerWrite_global {s : State} {off : Nat} {x : DWord} (hq : s.hostq = []) (h : off < 0x18000) :
    exec (.registerWrite off x) s = .next (s.writeGlobal off x.toNat) := by
  rw [registerWrite_first hq (by omega), State.regWrite, if_pos h]

theorem registerWrite_part {s : State} {p o : Nat} {x : DWord} (hq : s.hostq = []) (hp : p < 8) (ho : o < 0x10000) :
    exec (.registerWrite (0x100000 + 0x10000 * p + o) x) s = .next (s.writePart p o x.toNat) := by
  rw [registerWrite_first hq (by omega), State.regWrite, if_neg (by omega), if_pos (by omega),
    show (0x100000 + 0x10000 * p + o - 0x100000) / 65536 = p by omega, show (0x100000 + 0x10000 * p + o) % 65536 = o by omega]

theorem registerWrite_fabric {s : State} {o : Nat} {x : DWord} (hq : s.hostq = []) (ho : o < 0x3000) :
    exec (.registerWrite (0x200000 + o) x) s = .next (s.writeFabric o x.toNat) := by
  rw [registerWrite_first hq (by omega), State.regWrite, if_neg (by omega), if_neg (by omega), if_pos (by omega), Nat.add_sub_cancel_left]

/-- A write outside the blocks is ignored. -/
theorem registerWrite_outside {s : State} {off : Nat} {x : DWord} (hq : s.hostq = []) (hg : 0x18000 ≤ off)
    (hp : off < 0x100000 ∨ 0x180000 ≤ off) (hf : off < 0x200000 ∨ 0x203000 ≤ off) (hn : off < 0x1000000 ∨ 0x1100000 ≤ off) :
    exec (.registerWrite off x) s = .next s := by
  rw [registerWrite_first hq hn, State.regWrite, if_neg (by omega), if_neg (by omega), if_neg (by omega)]

/-! The same, for a write whose effect on the block is known. -/

theorem takes_global {s t : State} {off : Nat} {x : DWord} (hq : s.hostq = []) (h : off < 0x18000) (e : s.writeGlobal off x.toNat = t) :
    exec (.registerWrite off x) s = .next t :=
  (registerWrite_global hq h).trans (congrArg _ e)

theorem takes_part {s t : State} {p o : Nat} {x : DWord} (hq : s.hostq = []) (hp : p < 8) (ho : o < 0x10000) (e : s.writePart p o x.toNat = t) :
    exec (.registerWrite (0x100000 + 0x10000 * p + o) x) s = .next t :=
  (registerWrite_part hq hp ho).trans (congrArg _ e)

theorem takes_fabric {s t : State} {o : Nat} {x : DWord} (hq : s.hostq = []) (ho : o < 0x3000) (e : s.writeFabric o x.toNat = t) :
    exec (.registerWrite (0x200000 + o) x) s = .next t :=
  (registerWrite_fabric hq ho).trans (congrArg _ e)

/-! ### Fields of a doubleword (00 R10) -/

theorem fld_low (y n : Nat) : fld y 0 n = y % 2 ^ n := by
  rw [fld, Nat.pow_zero, Nat.div_one]

theorem fld_top (x : DWord) {lo n : Nat} (h : lo + n = 64) : fld x.toNat lo n = x.toNat / 2 ^ lo :=
  Nat.mod_eq_of_lt (Nat.div_lt_of_lt_mul (by rw [← Nat.pow_add, h]; exact x.isLt))

theorem fld_testBit (y lo n i : Nat) : (fld y lo n).testBit i = (decide (i < n) && y.testBit (lo + i)) := by
  rw [fld, Nat.testBit_mod_two_pow, Nat.testBit_div_two_pow, Nat.add_comm]

/-! ### Bits that a write of 1 clears (00 R7) -/

/-- A 32-bit register whose bits a write of 1 clears. -/
theorem getLsbD_w1c {b : BitVec 32} {y i : Nat} (h : i < 32) : (BitVec.ofNat 32 (w1c b.toNat y)).getLsbD i = (b.getLsbD i && !y.testBit i) := by
  rw [BitVec.getLsbD_ofNat, decide_eq_true h, Bool.true_and, w1c_testBit, BitVec.testBit_toNat]

theorem getLsbD_w1c_low {b : BitVec 32} {y i : Nat} (h : i < 32) :
    (BitVec.ofNat 32 (w1c b.toNat (y % 2 ^ 32))).getLsbD i = (b.getLsbD i && !y.testBit i) := by
  rw [getLsbD_w1c h, Nat.testBit_mod_two_pow, decide_eq_true h, Bool.true_and]

theorem getLsbD_w1c_high {b : BitVec 32} {y i : Nat} (h : i < 32) :
    (BitVec.ofNat 32 (w1c b.toNat (y / 2 ^ 32))).getLsbD i = (b.getLsbD i && !y.testBit (32 + i)) := by
  rw [getLsbD_w1c h, Nat.testBit_div_two_pow, Nat.add_comm]

/-- A field of `w` bits from bit `sh` up of a wider register. -/
theorem w1c_testBit_field (old x sh w i : Nat) :
    (w1c old (x % 2 ^ w * 2 ^ sh)).testBit i = (old.testBit i && !(decide (sh ≤ i) && decide (i < sh + w) && x.testBit (i - sh))) := by
  rw [w1c_testBit, Nat.testBit_mul_two_pow, Nat.testBit_mod_two_pow]
  by_cases h : sh ≤ i
  · simp [h, show i - sh < w ↔ i < sh + w by omega]
  · simp [h]

/-! ### The global block (18 R372, R375 to R378, R383) -/

section Global
variable (s : State) (x : DWord)

theorem writeGlobal_featacc (v : Nat) :
    s.writeGlobal 0x20 v = if s.boot.lock then s else { s with boot := { s.boot with featacc := v &&& 0x3F } } := rfl

theorem writeGlobal_featlock (v : Nat) : s.writeGlobal 0x40 v = if v % 2 = 1 then { s with boot := { s.boot with lock := true } } else s := rfl

theorem writeGlobal_bootctl (v : Nat) : s.writeGlobal 0x50 v =
    if v % 4 = 1 ∧ s.boot.st = 1 then s.bootTo 2 0 else if v % 4 = 2 ∧ s.boot.st = 3 then s.bootTo 4 0 else s := rfl

theorem writeGlobal_haltstat :
    s.writeGlobal 0x200 x.toNat = { s with boot := { s.boot with halt := w1c s.boot.halt (x.toNat % 2 ^ 64 * 2 ^ 0) } } := by
  rw [Nat.mod_eq_of_lt x.isLt, Nat.pow_zero, Nat.mul_one]
  rfl

theorem writeGlobal_haltstat_high (v : Nat) :
    s.writeGlobal 0x208 v = { s with boot := { s.boot with halt := w1c s.boot.halt (v % 2 ^ 32 * 2 ^ 64) } } := rfl

theorem writeGlobal_attctl (v : Nat) : s.writeGlobal 0x320 v = if v % 2 = 1 then s.startReport else s := rfl

theorem writeGlobal_mmctl (v : Nat) : s.writeGlobal 0x618 v = if v = 1 then s.sendTable else s := rfl

theorem writeGlobal_errors (v : Nat) : s.writeGlobal 0x700 v =
    { s with boot := { s.boot with
        cor := .ofNat 32 (w1c s.boot.cor.toNat (v % 2 ^ 32)), unc := .ofNat 32 (w1c s.boot.unc.toNat (v / 2 ^ 32)) } } := rfl

/-- The fields of a window register, valid, partition and page (18 R373), are the bits of one mask. -/
theorem window_fields :
    BitVec.ofNat 64 (fld x.toNat 63 1 * 2 ^ 63 + fld x.toNat 59 3 * 2 ^ 59 + fld x.toNat 28 29 * 2 ^ 28) = x &&& 0xB9FFFFFFF0000000#64 := by
  have bounds : fld x.toNat 59 3 < 2 ^ 3 ∧ fld x.toNat 28 29 < 2 ^ 29 := ⟨Nat.mod_lt _ (by decide), Nat.mod_lt _ (by decide)⟩
  have mask (i : Nat) : (0xB9FFFFFFF0000000#64).getLsbD i = (2 ^ 63 * (2 ^ 1 - 1) + (2 ^ 59 * (2 ^ 3 - 1) + 2 ^ 28 * (2 ^ 29 - 1))).testBit i := rfl
  refine BitVec.eq_of_getLsbD_eq fun i hi => ?_
  have back {k : Nat} (h : k ≤ i) : k + (i - k) = i := by omega
  rw [BitVec.getLsbD_and, mask, BitVec.getLsbD_ofNat,
    show fld x.toNat 63 1 * 2 ^ 63 + fld x.toNat 59 3 * 2 ^ 59 + fld x.toNat 28 29 * 2 ^ 28
      = 2 ^ 63 * fld x.toNat 63 1 + (2 ^ 59 * fld x.toNat 59 3 + 2 ^ 28 * fld x.toNat 28 29) by omega]
  repeat rw [Nat.testBit_two_pow_mul_add _ (by omega)]
  simp only [Nat.testBit_two_pow_mul, fld_testBit, Nat.testBit_two_pow_sub_one, ← BitVec.testBit_toNat, hi, decide_true, Bool.true_and]
  split
  · split
    · by_cases h : 28 ≤ i <;> simp [h, Bool.and_comm]
    · rw [back (by omega), Bool.and_comm]
  · rw [back (by omega), Bool.and_comm]

theorem writeGlobal_mbwin {i : Nat} (h : i < 8) : s.writeGlobal (0x100 + 8 * i) x.toNat =
    { s with boot := { s.boot with mbwin := s.boot.mbwin.setIfInBounds i (x &&& 0xB9FFFFFFF0000000#64) } } := by
  simp (disch := omega) only [State.writeGlobal, if_neg, if_pos, window_fields x, show (0x100 + 8 * i - 0x100) / 8 = i by omega]

theorem writeGlobal_nonce {i : Nat} (h : i < 4) (v : Nat) : s.writeGlobal (0x300 + 8 * i) v =
    { s with boot := { s.boot with nonce := putQuad s.boot.nonce i v } } := by
  simp (disch := omega) only [State.writeGlobal, if_neg, if_pos, show (0x300 + 8 * i - 0x300) / 8 = i by omega]

theorem lanesIn_eq_filter_testBit {w : Nat} : lanesIn w x = (List.range w).filter fun i => x.toNat.testBit i :=
  List.filter_congr fun i _ => by rw [inMask, Nat.testBit_eq_decide_div_mod_eq]; rfl

/-- A write of PCRESTART restarts the halted proof cores whose bits are 1. -/
theorem writeGlobal_restart :
    s.writeGlobal 0x210 x.toNat = ((List.range 64).filter fun i => x.toNat.testBit i).foldl State.restart s := by
  show (lanesIn 64 (.ofNat 64 x.toNat)).foldl State.restart s = _
  rw [BitVec.ofNat_toNat, BitVec.setWidth_eq, lanesIn_eq_filter_testBit]

theorem writeGlobal_restart_high :
    s.writeGlobal 0x218 x.toNat = ((List.range 32).filter fun i => x.toNat.testBit i).foldl (fun s i => s.restart (64 + i)) s := by
  show ((lanesIn 32 (.ofNat 64 x.toNat)).map (64 + ·)).foldl State.restart s = _
  rw [BitVec.ofNat_toNat, BitVec.setWidth_eq, lanesIn_eq_filter_testBit, List.foldl_map]

theorem writeGlobal_mmep : s.writeGlobal 0x600 x.toNat = { s with boot := { s.boot with mmEp := x } } := by
  simp [State.writeGlobal]

theorem writeGlobal_mmpage : s.writeGlobal 0x608 x.toNat = { s with boot := { s.boot with mmPage := x } } := by
  simp [State.writeGlobal]

theorem writeGlobal_mmentry : s.writeGlobal 0x610 x.toNat = { s with boot := { s.boot with mmEntry := x } } := by
  simp [State.writeGlobal]

/-- A register that is not listed ignores a write. -/
theorem writeGlobal_other {o : Nat} (v : Nat) (hw : ¬ (0x100 ≤ o ∧ o < 0x140 ∧ o % 8 = 0)) (hn : ¬ (0x300 ≤ o ∧ o < 0x320 ∧ o % 8 = 0))
    (ho : o ∉ [0x20, 0x40, 0x50, 0x200, 0x208, 0x210, 0x218, 0x320, 0x600, 0x608, 0x610, 0x618, 0x700]) : s.writeGlobal o v = s := by
  simp only [List.mem_cons, List.not_mem_nil, or_false, not_or] at ho
  simp only [State.writeGlobal, ho, hw, hn, if_false]

theorem startReport_of_idle (h : s.boot.attBusy = false) :
    s.startReport = { s with boot := { s.boot with attBusy := true, attNonce := s.boot.nonce } } := by
  simp [State.startReport, h]

theorem startReport_of_busy (h : s.boot.attBusy = true) : s.startReport = s := by
  simp [State.startReport, h]

theorem sendTable_of_free (h : s.boot.mmStat ≠ 1) : s.sendTable = State.setModule { s with boot := { s.boot with mmStat := 1 } }
    { s.module (s.boot.mmEp.toNat % 128) with pendingWrite := some (s.boot.mmPage.toNat % 2 ^ 22, s.boot.mmEntry) } := by
  rw [State.sendTable, if_neg h]

theorem sendTable_of_outstanding (h : s.boot.mmStat = 1) : s.sendTable = s := by
  rw [State.sendTable, if_pos h]

end Global

/-! ### The blocks of the partitions (15 R310, 16 R339, R340) -/

section Part
variable {s : State} {p : Partition} (h : s.part? p.p = some p)
include h

theorem xinv_busy (y : Nat) (hb : p.busy = true) : s.xinv p.p y = s.setPart { p with lost := true } := by
  simp [State.xinv, h, hb]

theorem xinv_takes {x : DWord} (hb : p.busy = false) (hx : xinvOk (x.toNat / 2 ^ 62) (x.toNat % 2 ^ 57) = true) :
    s.xinv p.p x.toNat = s.shoot p.p (x.toNat / 2 ^ 62) (x.toNat % 2 ^ 57) none := by
  rw [← fld_top x (n := 2) rfl, ← fld_low] at hx ⊢
  simp [State.xinv, h, hb, hx]

theorem xinv_out_of_range {x : DWord} (hb : p.busy = false) (hx : xinvOk (x.toNat / 2 ^ 62) (x.toNat % 2 ^ 57) = false) :
    s.xinv p.p x.toNat = s := by
  rw [← fld_top x (n := 2) rfl, ← fld_low] at hx
  simp [State.xinv, h, hb, hx]

theorem setFbget_ignored {y : BitVec 32} (hy : 256 < (p.fbput - y).toNat) : s.setFbget p.p y = s := by
  simp only [State.setFbget, h, if_pos hy]

theorem setFbget_advances {y : BitVec 32} (hy : (p.fbput - y).toNat ≤ 256) (ha : (p.fbput - y).toNat < (p.fbput - p.fbget).toNat) :
    s.setFbget p.p y = State.repost (s.setPart { p with fbget := y }) p.p := by
  simp only [State.setFbget, h, if_neg (Nat.not_lt.2 hy), if_pos ha]

theorem setFbget_stays {y : BitVec 32} (hy : (p.fbput - y).toNat ≤ 256) (ha : (p.fbput - p.fbget).toNat ≤ (p.fbput - y).toNat) :
    s.setFbget p.p y = s.setPart { p with fbget := y } := by
  simp only [State.setFbget, h, if_neg (Nat.not_lt.2 hy), if_neg (Nat.not_lt.2 ha)]

theorem writePart_qtbase (v : Nat) : s.writePart p.p 0 v = s.setPart { p with qtbase := .ofNat 64 (v / 2 ^ 12 % 2 ^ 45 * 2 ^ 12) } := by
  simp only [State.writePart, h]; rfl

theorem writePart_qtcount (v : Nat) :
    s.writePart p.p 8 v = if 16384 < v % 2 ^ 15 then s else s.setPart { p with qtcount := v % 2 ^ 15 } := by
  simp only [State.writePart, h]; rfl

theorem writePart_xroot (x : DWord) :
    s.writePart p.p 0x800 x.toNat = s.setPart { p with xroot := .ofNat 64 (x.toNat / 2 ^ 63 * 2 ^ 63 + x.toNat % 2 ^ 37) } := by
  rw [← fld_top x (n := 1) rfl, ← fld_low]
  simp only [State.writePart, h]; rfl

theorem writePart_xinv (v : Nat) : s.writePart p.p 0x818 v = s.xinv p.p v := by
  simp only [State.writePart, h]; rfl

theorem writePart_xstat (v : Nat) : s.writePart p.p 0x820 v = if v / 2 % 2 = 1 then s.setPart { p with lost := false } else s := by
  simp only [State.writePart, h]; rfl

theorem writePart_fbget (x : DWord) : s.writePart p.p 0x830 x.toNat = s.setFbget p.p (x.setWidth 32) := by
  rw [← BitVec.ofNat_toNat 32 x]
  simp only [State.writePart, h]; rfl

theorem writePart_fbovf (v : Nat) : s.writePart p.p 0x838 v = s.setPart { p with fbovf := .ofNat 32 (w1c p.fbovf.toNat (v % 2 ^ 32)) } := by
  simp only [State.writePart, h]; rfl

theorem writePart_fbctl (v : Nat) : s.writePart p.p 0x840 v = s.setPart { p with fbctl := .ofNat 2 v } := by
  simp only [State.writePart, h]; rfl

theorem writePart_fresolve (v : Nat) : s.writePart p.p 0x848 v = s.fresolve p.p v := by
  simp only [State.writePart, h]; rfl

theorem writePart_other {o : Nat} (v : Nat) (ho : o ∉ [0, 8, 0x800, 0x818, 0x820, 0x830, 0x838, 0x840, 0x848]) : s.writePart p.p o v = s := by
  simp only [List.mem_cons, List.not_mem_nil, or_false, not_or] at ho
  simp only [State.writePart, h, ho, if_false]

end Part

theorem xinvWrite_first {s : State} {part : Nat} {x : DWord} (hq : s.hostq = []) : exec (.xinvWrite part x) s = .next (s.xinv part x.toNat) :=
  congrArg _ (inOrder_reg hq)

theorem fbgetWrite_first {s : State} {part : Nat} {x : DWord} (hq : s.hostq = []) :
    exec (.fbgetWrite part x) s = .next (s.setFbget part (x.setWidth 32)) :=
  congrArg _ (inOrder_reg hq)

theorem fresolveWrite_first {s : State} {part : Nat} {x : DWord} (hq : s.hostq = []) :
    exec (.fresolveWrite part x) s = .next (s.fresolve part x.toNat) :=
  congrArg _ (inOrder_reg hq)

/-! ### Faults that a PAGEREQ posts again (16 R338) -/

/-- Nothing is posted for a unit that translation serves, that the driver has settled, or whose fault stands posted. -/
theorem repostUnit_none {s : State} {m : Cmd} {u : FUnit}
    (h : (∀ r l e, u.res ≠ .served (.bad r l e)) ∨ u.done = true ∨ u.posted = true) : s.repostUnit m.uid u = s := by
  unfold State.repostUnit
  split
  · next r l e _ hu =>
    obtain h | h | h := h
    · exact absurd hu (h r l e)
    all_goals simp [h]
  · rfl

theorem repostUnit_again {s : State} {m : Cmd} {u : FUnit} {r l e : Nat} (hm : s.cmd? m.uid = some m) (hu : u.res = .served (.bad r l e))
    (hd : u.done = false) (hp : u.posted = false) :
    s.repostUnit m.uid u =
      let x := s.faultOf m.team (agentCore m.agent) u.va r l e 2
      let t := s.postFault (s.partOf (agentCore m.agent)) x
      let posted := (t.part? (t.partOf (agentCore m.agent))).any fun p => p.holds x
      t.setCmd { m with units := m.units.map fun (v : FUnit) => if v.va = u.va then { v with posted := posted } else v } := by
  simp [State.repostUnit, hm, hu, hd, hp]

/-! ### The fabric block (17 R365, R366) -/

section Socket
variable {s : State} {k : Nat} (hk : k < 16)
include hk

theorem writeFabric_socket {r : Nat} (hr : r < 0x100) (v : Nat) : s.writeFabric (0x100 * k + r) v =
    if r = 0 then if fld v 23 1 = 1 then s.setSocket { s.socket k with badcmd := false } else s
    else if r = 8 then s.sockCmd k (v % 8)
    else if r = 0x18 then s.setSocket { s.socket k with retire := fld v 16 16, warn := fld v 0 16 }
    else if r = 0x20 then s.setSocket { s.socket k with romaddr := fld v 3 13 * 8 }
    else s := by
  rw [State.writeFabric, if_pos (by omega), show (0x100 * k + r) / 0x100 = k by omega, show (0x100 * k + r) % 0x100 = r by omega]

theorem writeFabric_sockstat (v : Nat) :
    s.writeFabric (0x100 * k + 0) v = if v / 2 ^ 23 % 2 = 1 then s.setSocket { s.socket k with badcmd := false } else s :=
  writeFabric_socket hk (by decide) v

theorem writeFabric_sockcmd {v c : Nat} (hv : v % 8 = c) : s.writeFabric (0x100 * k + 8) v = s.sockCmd k c := by
  rw [← hv]
  exact writeFabric_socket hk (by decide) v

theorem writeFabric_sockthr (v : Nat) : s.writeFabric (0x100 * k + 0x18) v =
    s.setSocket { s.socket k with warn := v % 2 ^ 16, retire := v / 2 ^ 16 % 2 ^ 16 } := by
  rw [← fld_low v]
  exact writeFabric_socket hk (by decide) v

theorem writeFabric_romaddr (v : Nat) : s.writeFabric (0x100 * k + 0x20) v = s.setSocket { s.socket k with romaddr := v / 8 % 2 ^ 13 * 8 } :=
  writeFabric_socket hk (by decide) v

theorem writeFabric_socket_other {r : Nat} (hr : r < 0x100) (v : Nat) (h : r ∉ [0, 8, 0x18, 0x20]) : s.writeFabric (0x100 * k + r) v = s := by
  simp only [List.mem_cons, List.not_mem_nil, or_false, not_or] at h
  simp only [writeFabric_socket hk hr, h, if_false]

theorem takes_socket {t : State} {r : Nat} {x : DWord} (hq : s.hostq = []) (hr : r < 0x100) (e : s.writeFabric (0x100 * k + r) x.toNat = t) :
    exec (.registerWrite (0x200000 + 0x100 * k + r) x) s = .next t := by
  rw [Nat.add_assoc]
  exact takes_fabric hq (by omega) e

theorem sockGo_first (hq : s.hostq = []) : exec (.sockGo k) s = .next (s.sockCmd k 1) := by
  show execSockGo k s = _
  rw [execSockGo, if_neg (by omega), sockReg, inOrder_reg hq]
  simp [State.sockCmd]

theorem sockQuiesce_first (hq : s.hostq = []) : exec (.sockQuiesce k) s = .next (s.sockCmd k 2) := by
  show execSockQuiesce k s = _
  rw [execSockQuiesce, if_neg (by omega), sockReg, inOrder_reg hq]
  simp [State.sockCmd]

theorem sockReset_first (hq : s.hostq = []) : exec (.sockReset k) s = .next (s.sockCmd k 3) := by
  show execSockReset k s = _
  rw [execSockReset, if_neg (by omega), sockReg, inOrder_reg hq]
  simp [State.sockCmd]

end Socket

theorem sockCmd_unlisted {s : State} {k c : Nat} (h : c ∉ [1, 2, 3]) : s.sockCmd k c = s.setSocket { s.socket k with badcmd := true } := by
  simp only [List.mem_cons, List.not_mem_nil, or_false, not_or] at h
  simp [State.sockCmd, h, State.badCmd]

theorem writeFabric_fevget (s : State) (v : Nat) :
    s.writeFabric 0x1008 v = if 256 < (s.fevput - .ofNat 32 v).toNat then s else { s with fevget := .ofNat 32 v } := rfl

theorem writeFabric_fevhovf (s : State) (v : Nat) :
    s.writeFabric 0x1010 v = { s with fevhovf := .ofNat 32 (w1c s.fevhovf.toNat (v % 2 ^ 32)) } := rfl

theorem writeFabric_other {s : State} {o : Nat} (v : Nat) (h : 0x1000 ≤ o) (hg : o ≠ 0x1008) (ho : o ≠ 0x1010) : s.writeFabric o v = s := by
  rw [State.writeFabric, if_neg (by omega), if_neg hg, if_neg ho]

/-! ### Mailbox windows (18 R373) -/

section Window
variable (s : State) {n off : Nat}

theorem window_none (h : (s.boot.mbwin.toList.getD n 0).toNat / 2 ^ 63 % 2 = 0 ∨ 2 ^ 28 ≤ off) : s.window n off = .none_ :=
  if_pos h

theorem window_far (hv : (s.boot.mbwin.toList.getD n 0).toNat / 2 ^ 63 % 2 = 1) (ho : off < 2 ^ 28) (hst : s.boot.st = 5) {p : Partition}
    (hp : s.part? ((s.boot.mbwin.toList.getD n 0).toNat / 2 ^ 59 % 8) = some p) :
    s.window n off = .far p (farWrap ((s.boot.mbwin.toList.getD n 0).toNat / 2 ^ 28 % 2 ^ 29 * 2 ^ 28 + off)) := by
  have here : ¬ (fld (s.boot.mbwin.toList.getD n 0).toNat 63 1 = 0 ∨ 2 ^ 28 ≤ off) := by simp only [fld]; omega
  have hp : s.part? (fld (s.boot.mbwin.toList.getD n 0).toNat 59 3) = some p := hp
  rw [State.window, if_neg here, if_pos hst, hp]
  rfl

theorem window_staging (hv : (s.boot.mbwin.toList.getD n 0).toNat / 2 ^ 63 % 2 = 1) (ho : off < 2 ^ 25) (h5 : s.boot.st ≠ 5)
    (h7 : s.boot.st ≠ 7) (hn : n = 0) : s.window n off = .staging off := by
  have here : ¬ (fld (s.boot.mbwin.toList.getD n 0).toNat 63 1 = 0 ∨ 2 ^ 28 ≤ off) := by simp only [fld]; omega
  rw [State.window, if_neg here, if_neg h5, if_pos ⟨hn, h7, ho⟩]

end Window

section Piece
variable {s : State} {n o k va a r l e : Nat} {bs : List Byte} {p : Partition}

theorem windowBusy_near {wr : Bool} (h : ∀ p va, s.window n o ≠ .far p va) : s.windowBusy n wr o = false := by
  unfold State.windowBusy
  split
  · next p va hw => exact absurd hw (h p va)
  · rfl

theorem windowBusy_far {wr : Bool} (h : s.window n o = .far p va) : s.windowBusy n wr o = true ↔ s.farKey p hostCluster wr va = .busy := by
  simp [State.windowBusy, h]

theorem windowRead_key (h : s.window n o = .far p va) (hk : s.farKey p hostCluster false va = .key a) :
    s.windowRead n o k = (s, s.bytes a k) := by
  simp [State.windowRead, h, hk]

theorem windowRead_bad (h : s.window n o = .far p va) (hk : s.farKey p hostCluster false va = .bad r l e) :
    s.windowRead n o k = (s.hostFault p.p va r l e 0, List.replicate k 0) := by
  simp [State.windowRead, h, hk]

theorem windowWrite_key (h : s.window n o = .far p va) (hk : s.farKey p hostCluster true va = .key a) :
    s.windowWrite n o bs = s.write (cellsAt a bs) := by
  simp [State.windowWrite, h, hk]

theorem windowWrite_bad (h : s.window n o = .far p va) (hk : s.farKey p hostCluster true va = .bad r l e) :
    s.windowWrite n o bs = s.hostFault p.p va r l e 1 := by
  simp [State.windowWrite, h, hk]

end Piece

/-! ### Accesses that wait (04 R112) -/

theorem hostNext_busy {s : State} {o : HostOp} {os : List HostOp} (h : s.hostq = o :: os) (hb : s.hostBusy o = true) : s.hostNext = s := by
  simp [State.hostNext, h, hb]

theorem hostNext_free {s : State} {o : HostOp} {os : List HostOp} (h : s.hostq = o :: os) (hb : s.hostBusy o = false) :
    s.hostNext = State.hostDo { s with hostq := os } o := by
  simp [State.hostNext, h, hb]

theorem mailboxRead_first {s : State} {n off size : Nat} (hq : s.hostq = []) (hb : s.hostBusy (.read n off size) = false) :
    exec (.mailboxRead n off size) s = .next (s.hostRead n off size) :=
  congrArg _ (inOrder_first hq hb)

theorem mailboxRead_waits {s : State} {n off size : Nat} (h : s.hostq ≠ [] ∨ s.hostBusy (.read n off size) = true) :
    exec (.mailboxRead n off size) s = .next { s with hostq := s.hostq ++ [.read n off size] } :=
  congrArg _ (inOrder_waits h)

theorem mailboxWrite_first {s : State} {n off size x : Nat} (hq : s.hostq = []) (hb : s.hostBusy (.write n off (leBytes size x)) = false) :
    exec (.mailboxWrite n off size x) s = .next (s.hostWrite n off (leBytes size x)) :=
  congrArg _ (inOrder_first hq hb)

theorem mailboxWrite_waits {s : State} {n off size x : Nat} (h : s.hostq ≠ [] ∨ s.hostBusy (.write n off (leBytes size x)) = true) :
    exec (.mailboxWrite n off size x) s = .next { s with hostq := s.hostq ++ [.write n off (leBytes size x)] } :=
  congrArg _ (inOrder_waits h)

theorem mmgmtSend_first {s : State} (hq : s.hostq = []) : exec .mmgmtSend s = .next s.sendTable :=
  congrArg _ (inOrder_reg hq)

/-! ### The obligation -/

/-- Settles O46: each access goes through the order of R112 to the block, register or window that it reaches, whose lemma says its effect. -/
theorem hostAccessesComplete : Obligations.HostAccessesComplete := by
  refine ⟨fun s p x hp hq => ?xinvAndFbget, fun s part x hq => ?fresolve, fun s x hq => ?registers, fun s x p q hp hq => ?notify,
    fun s off x hq ho => ?waits, fun s n off => ?windows, fun s n off size => ?reads, fun s n off size x => ?writes, fun s n o k bs => ?pieces,
    fun s n o size part q bs x => ?held, fun s part => ?reposts, fun s o os hq => ?queued, fun s hq => ?mmgmt⟩
  case xinvAndFbget =>
    refine ⟨fun hb => ?_, fun hb ho => ?_, fun hb ho => ?_, fun hg => ?_, fun hg => ⟨fun ha => ?_, fun ha => ?_⟩⟩
    · exact (xinvWrite_first hq).trans (congrArg _ (xinv_busy hp _ hb))
    · exact (xinvWrite_first hq).trans (congrArg _ (xinv_takes hp hb ho))
    · exact (xinvWrite_first hq).trans (congrArg _ (xinv_out_of_range hp hb ho))
    · exact (fbgetWrite_first hq).trans (congrArg _ (setFbget_ignored hp hg))
    · exact (fbgetWrite_first hq).trans (congrArg _ (setFbget_advances hp hg ha))
    · exact (fbgetWrite_first hq).trans (congrArg _ (setFbget_stays hp hg ha))
  case fresolve => exact fresolveWrite_first hq
  case registers =>
    refine ⟨fun hl => ?_, fun hl => ?_, fun hv => ?_, fun hv => ?_, fun hv hst => ?_, fun hv hst => ?_, fun h1 h2 => ?_, fun i hi => ?_, ?_, ?_,
      ?_, ?_, fun i hi => ?_, fun hv hb => ?_, fun hv => ?_, ?_, ?_, ?_, fun hv hm => ?_, fun hv => ?_, ?_, fun off ho hw hn hl => ?_,
      fun p hp8 hp => ?partition, fun k hk => ?socket, fun hg => ?_, fun hg => ?_, ?_, fun o h1 h3 hg ho => ?_, fun off hg hp hf hn => ?_⟩
    case partition =>
      refine ⟨?_, fun hv => ?_, fun hv => ?_, ?_, ?_, fun hv => ?_, fun hv => ?_, ?_, ?_, ?_, ?_, fun o ho hl => ?_⟩
      · exact takes_part hq hp8 (by decide) (writePart_qtbase hp _)
      · exact takes_part hq hp8 (by decide) ((writePart_qtcount hp _).trans (if_neg (Nat.not_lt.2 hv)))
      · exact takes_part hq hp8 (by decide) ((writePart_qtcount hp _).trans (if_pos hv))
      · exact takes_part hq hp8 (by decide) (writePart_xroot hp x)
      · exact (takes_part hq hp8 (by decide) (writePart_xinv hp _)).trans (xinvWrite_first hq).symm
      · exact takes_part hq hp8 (by decide) ((writePart_xstat hp _).trans (if_pos hv))
      · exact takes_part hq hp8 (by decide) ((writePart_xstat hp _).trans (if_neg (by omega)))
      · rw [fbgetWrite_first hq]
        exact takes_part hq hp8 (by decide) (writePart_fbget hp x)
      · exact ⟨_, takes_part hq hp8 (by decide) (writePart_fbovf hp _), fun i hi => getLsbD_w1c_low hi⟩
      · exact takes_part hq hp8 (by decide) (writePart_fbctl hp _)
      · exact (takes_part hq hp8 (by decide) (writePart_fresolve hp _)).trans (fresolveWrite_first hq).symm
      · exact takes_part hq hp8 ho (writePart_other hp _ hl)
    case socket =>
      refine ⟨fun hv => ?_, fun hv => ?_, fun hv => ?_, fun hv => ?_, fun hv => ?_, fun hv => ?_, ?_, ?_, fun o ho hl => ?_⟩
      · exact takes_socket hk hq (by decide) ((writeFabric_sockstat hk _).trans (if_pos hv))
      · exact takes_socket hk hq (by decide) ((writeFabric_sockstat hk _).trans (if_neg (by omega)))
      · exact (takes_socket hk hq (by decide) (writeFabric_sockcmd hk hv)).trans (sockGo_first hk hq).symm
      · exact (takes_socket hk hq (by decide) (writeFabric_sockcmd hk hv)).trans (sockQuiesce_first hk hq).symm
      · exact (takes_socket hk hq (by decide) (writeFabric_sockcmd hk hv)).trans (sockReset_first hk hq).symm
      · exact takes_socket hk hq (by decide) ((writeFabric_sockcmd hk rfl).trans (sockCmd_unlisted hv))
      · exact takes_socket hk hq (by decide) (writeFabric_sockthr hk _)
      · exact takes_socket hk hq (by decide) (writeFabric_romaddr hk _)
      · exact takes_socket hk hq ho (writeFabric_socket_other hk ho _ hl)
    · exact takes_global hq (by decide) ((writeGlobal_featacc s _).trans (if_neg (by simp [hl])))
    · exact takes_global hq (by decide) ((writeGlobal_featacc s _).trans (if_pos hl))
    · exact takes_global hq (by decide) ((writeGlobal_featlock s _).trans (if_pos hv))
    · exact takes_global hq (by decide) ((writeGlobal_featlock s _).trans (if_neg (by omega)))
    · exact takes_global hq (by decide) ((writeGlobal_bootctl s _).trans (if_pos ⟨hv, hst⟩))
    · exact takes_global hq (by decide) ((writeGlobal_bootctl s _).trans ((if_neg (by omega)).trans (if_pos ⟨hv, hst⟩)))
    · exact takes_global hq (by decide) ((writeGlobal_bootctl s _).trans ((if_neg h1).trans (if_neg h2)))
    · exact takes_global hq (by omega) (writeGlobal_mbwin s x hi)
    · exact ⟨_, takes_global hq (by decide) (writeGlobal_haltstat s x), rfl, w1c_testBit_field _ _ 0 64⟩
    · exact ⟨_, takes_global hq (by decide) (writeGlobal_haltstat_high s _), rfl, w1c_testBit_field _ _ 64 32⟩
    · exact takes_global hq (by decide) (writeGlobal_restart s x)
    · exact takes_global hq (by decide) (writeGlobal_restart_high s x)
    · exact takes_global hq (by omega) (writeGlobal_nonce s hi _)
    · exact takes_global hq (by decide) ((writeGlobal_attctl s _).trans ((if_pos hv).trans (startReport_of_idle s hb)))
    · refine takes_global hq (by decide) ((writeGlobal_attctl s _).trans ?_)
      split
      · exact startReport_of_busy s (hv.resolve_left (by omega))
      · rfl
    · exact takes_global hq (by decide) (writeGlobal_mmep s x)
    · exact takes_global hq (by decide) (writeGlobal_mmpage s x)
    · exact takes_global hq (by decide) (writeGlobal_mmentry s x)
    · exact takes_global hq (by decide) ((writeGlobal_mmctl s _).trans ((if_pos hv).trans (sendTable_of_free s hm)))
    · refine takes_global hq (by decide) ((writeGlobal_mmctl s _).trans ?_)
      split
      · next h => exact sendTable_of_outstanding s (hv.resolve_left (not_not_intro h))
      · rfl
    · exact ⟨_, takes_global hq (by decide) (writeGlobal_errors s _), rfl, fun i hi => getLsbD_w1c_low hi, fun i hi => getLsbD_w1c_high hi⟩
    · exact takes_global hq ho (writeGlobal_other s _ hw hn hl)
    · exact takes_fabric (o := 0x1008) hq (by decide) ((writeFabric_fevget s _).trans (if_neg (Nat.not_lt.2 hg)))
    · exact takes_fabric (o := 0x1008) hq (by decide) ((writeFabric_fevget s _).trans (if_pos hg))
    · exact ⟨_, takes_fabric (o := 0x1010) hq (by decide) (writeFabric_fevhovf s _), fun i hi => getLsbD_w1c_low hi⟩
    · exact takes_fabric hq h3 (writeFabric_other _ h1 hg ho)
    · exact registerWrite_outside hq hg hp hf hn
  case notify => exact registerWrite_notify hp hq
  case waits => exact registerWrite_waits hq ho
  case windows =>
    exact ⟨window_none s, fun hv ho hst p hp => window_far s hv ho hst hp, fun hv ho h5 h7 hn => window_staging s hv ho h5 h7 hn⟩
  case reads =>
    refine ⟨fun h => mailboxRead_waits (h.imp_right hostBusy_read.2), fun hq hb => ?_⟩
    exact mailboxRead_first hq (Bool.eq_false_iff.2 (mt hostBusy_read.1 hb))
  case writes =>
    have busy : s.hostBusy (.write n off (leBytes size x)) = true ↔ ∃ p ∈ pieces off size, s.windowBusy n true p.1 = true := by
      rw [hostBusy_write, leBytes_length]
    refine ⟨fun h => mailboxWrite_waits (h.imp_right busy.2), fun hq hb => ?_⟩
    rw [mailboxWrite_first hq (Bool.eq_false_iff.2 (mt busy.1 hb)), State.hostWrite, leBytes_length]
  case pieces =>
    refine ⟨fun h => ⟨?_, ?_, fun wr => ?_⟩, fun y h => ⟨?_, ?_, fun wr => ?_⟩, fun p va h =>
      ⟨fun a ha => windowRead_key h ha, fun r l e hb => windowRead_bad h hb, fun a ha => windowWrite_key h ha, fun r l e hb => windowWrite_bad h hb,
        fun wr => windowBusy_far h⟩⟩
    · simp [State.windowRead, h]
    · simp [State.windowWrite, h]
    · exact windowBusy_near (by simp [h])
    · simp [State.windowRead, h]
    · simp [State.windowWrite, h]
    · exact windowBusy_near (by simp [h])
  case held =>
    refine ⟨rfl, hostBusy_read, hostBusy_write, hostBusy_notify, rfl, fun hq ho => registerWrite_first hq (.inl ho), fun hq hb => ?_,
      fun y hq hb => ?_⟩
    · exact mailboxRead_first hq (Bool.eq_false_iff.2 (mt hostBusy_read.1 hb))
    · exact mailboxWrite_first hq (Bool.eq_false_iff.2 (mt (by rw [hostBusy_write, leBytes_length]; exact id) hb))
  case reposts =>
    exact ⟨rfl, fun m u hm => ⟨repostUnit_none, fun r l e hu hd hp => repostUnit_again hm hu hd hp⟩⟩
  case queued => exact ⟨hostNext_busy hq, hostNext_free hq⟩
  case mmgmt =>
    exact ⟨fun h => (mmgmtSend_first hq).trans (congrArg _ (sendTable_of_free s h)),
      fun h => (mmgmtSend_first hq).trans (congrArg _ (sendTable_of_outstanding s h))⟩

end Sys2Proof.Machine
end

section
/-! PROOFS. ENROL, PARK and STRIKE (01 R30, 07 R172): what each answers, and that a transfer is a jump of the model. -/

namespace Sys2Proof.Machine

open Sys2Proof.Claims

theorem transferred_eq_jump (s : State) (c : Cur) (pc : DWord) : transferred s c pc = s.jump c pc := by
  unfold transferred State.jump State.leaveLine
  cases c.agent <;> rfl

/-! ### What each instruction answers -/

section Divergence
variable {s : State} {c : Cur} {g : Group} (hg : s.GroupIssuing c g) (gd : MReg) (d : JReg)
include hg

theorem enrol_of_ok {t : Target} (ht : s.targetOk c.agent (targetAddr c.pc t) = .ok) :
    exec (.enrol gd d t) s = .next (
      if g.rejoins[d.toNat].valid && g.rejoins[d.toNat].parked != 0 then s.trap c cREJOIN
      else State.finish (s.setGroup (g.setRejoin d
        { enrolled := g.active gd, arrived := 0, point := .ofNat 64 (targetAddr c.pc t), parked := g.rejoins[d.toNat].parked, valid := true })) c) := by
  show execEnrol gd d t s = _
  rw [execEnrol, withGroup_group hg]
  simp only [ht]

theorem park_unlocked (hl : s.heldLock c.agent = none) : exec (.park gd d) s = .next (
    let j := g.rejoins[d.toNat]
    let act := g.active gd
    if !j.valid then s.trap c cREJOIN
    else if g.running &&& ~~~act = 0 ∧ j.enrolled &&& ~~~(j.arrived ||| act) ≠ 0 then s.trap c cSTRANDED
    else s.releaseJoin c g d { j with arrived := j.arrived ||| act, parked := j.parked ||| act }) := by
  show execPark gd d s = _
  rw [execPark, withGroup_group hg, unlocked_ok hl]

theorem park_holding (hl : s.heldLock c.agent ≠ none) : exec (.park gd d) s = .next (s.trap c cLOCK) := by
  obtain ⟨x, hx⟩ := Option.ne_none_iff_exists'.1 hl
  show execPark gd d s = _
  rw [execPark, withGroup_group hg, unlocked_held hx]

theorem strike_group : exec (.strike gd d) s = .next (
    let j := g.rejoins[d.toNat]
    if !j.valid then s.trap c cREJOIN else s.releaseJoin c g d { j with enrolled := j.enrolled &&& ~~~g.active gd }) :=
  withGroup_group hg _

end Divergence

/-! ### The obligation -/

/-- Settles O14: each clause is one branch of what the instruction answers. -/
theorem divergenceInstructionsComplete : Obligations.DivergenceInstructionsComplete := by
  intro s c g hg gd d j put release act
  have release_eq (x : Rejoin) : s.releaseJoin c g d x = release x := by
    simp only [State.releaseJoin, release, transferred_eq_jump]
    rfl
  refine ⟨fun t ht hj => ?enrols, fun t ht (hv : g.rejoins[d.toNat].valid = true) hp => ?rejoins, fun hl => park_holding hg gd d hl,
    fun hl (hv : g.rejoins[d.toNat].valid = true) hr => ?parks, fun (hv : g.rejoins[d.toNat].valid = true) => ?strikes,
    fun (hv : g.rejoins[d.toNat].valid = false) => ⟨?strikeInvalid, fun hl => ?parkInvalid⟩,
    fun hl (hv : g.rejoins[d.toNat].valid = true) hr he => ?strands⟩
  case enrols =>
    have free : ¬ (g.rejoins[d.toNat].valid && g.rejoins[d.toNat].parked != 0) = true := by
      simpa using hj
    rw [enrol_of_ok hg gd d ht, if_neg free]
    rfl
  case rejoins =>
    have taken : (g.rejoins[d.toNat].valid && g.rejoins[d.toNat].parked != 0) = true := by
      simpa [hv] using hp
    rw [enrol_of_ok hg gd d ht, if_pos taken]
    rfl
  case parks =>
    rw [park_unlocked hg gd d hl]
    dsimp only
    rw [if_neg (by simp [hv]), if_neg fun h => hr.elim (fun hr => hr h.1) h.2, release_eq]
  case strikes =>
    rw [strike_group hg gd d]
    dsimp only
    rw [if_neg (by simp [hv]), release_eq]
  case strikeInvalid =>
    simp only [strike_group hg gd d, hv, Bool.not_false, if_true]
    rfl
  case parkInvalid =>
    simp only [park_unlocked hg gd d hl, hv, Bool.not_false, if_true]
    rfl
  case strands =>
    rw [park_unlocked hg gd d hl]
    simp only [hv, Bool.not_true, Bool.false_eq_true, if_false]
    rw [if_pos ⟨hr, he⟩]
    rfl

end Sys2Proof.Machine
end

section
/-! PROOFS. Taking a trap (01 R32, 07 R177, 14 R287, R288, R290, R291): how a group stops, when its record is queued, what the queue
takes, and how a proof core halts. -/

namespace Sys2Proof.Machine

open Sys2Proof.Claims

/-! ### Records put back twice -/

theorem replaceBy_replaceBy {α : Type} {p : α → Bool} {x y : α} (hx : p x = true) (ys : List α) :
    replaceBy p y (replaceBy p x ys) = replaceBy p y ys := by
  induction ys with
  | nil => rfl
  | cons z zs ih =>
    simp only [replaceBy]
    by_cases hz : p z = true
    · simp [hz, hx, replaceBy]
    · simp [hz, replaceBy, ih]

/-- Of two groups put into one slot the later one stays. -/
theorem setGroup_setGroup {s : State} {g h : Group} (hk : h.core = g.core) (hn : h.slot = g.slot) :
    (s.setGroup g).setGroup h = s.setGroup h := by
  unfold State.setGroup
  rw [hk, hn, replaceBy_replaceBy (by simp)]

/-- The same of a proof core. -/
theorem setProof_setProof {s : State} {p q : ProofCore} (h : q.cluster = p.cluster) : (s.setProof p).setProof q = s.setProof q := by
  by_cases hp : s.proofs.any (·.cluster == p.cluster) = true
  · have stays : (replaceBy (fun x : ProofCore => x.cluster == p.cluster) p s.proofs).any (·.cluster == p.cluster) = true := by
      rw [List.any_eq_true] at hp ⊢
      obtain ⟨x, hx, hc⟩ := hp
      have found : (s.proofs.find? (·.cluster == p.cluster)).isSome = true := List.find?_isSome.2 ⟨x, hx, hc⟩
      obtain ⟨y, hy⟩ := Option.isSome_iff_exists.1 found
      have put := find?_replaceBy_self (fun x : ProofCore => x.cluster == p.cluster) p s.proofs (by simp)
      rw [hy] at put
      exact ⟨p, List.mem_of_find?_eq_some put, by simp⟩
    simp only [State.setProof, h, hp, stays, if_true, replaceBy_replaceBy (p := fun x : ProofCore => x.cluster == p.cluster) (x := p) (by simp)]
  · have none : ∀ x ∈ s.proofs, (x.cluster == p.cluster) = false := by simpa using hp
    have last : ∀ ys : List ProofCore, (∀ x ∈ ys, (x.cluster == p.cluster) = false) →
        replaceBy (fun x : ProofCore => x.cluster == p.cluster) q (ys ++ [p]) = ys ++ [q] := by
      intro ys
      induction ys with
      | nil => simp [replaceBy]
      | cons y ys ih => intro hy; simp_all [replaceBy]
    simp [State.setProof, h, hp, last _ none]

/-! ### The record and the queue -/

theorem trapRecord_eq {s : State} {g : Group} {t : Team} {l : Launch} (ht : s.team? g.team = some t) (hl : s.launch? t.launch = some l)
    (cause code : Nat) (pc x y : DWord) : s.trapRecord g cause code pc x y =
      { a := recordA t.num (s.partOf g.core) (decide (1 < t.seats.length)) false g.core g.slot l.hw code cause
        b := pc &&& 0x1FFFFFFFFFFFFFF, c := x, d := y } := by
  simp [State.trapRecord, ht, hl, Team.paired, show lanesMask 57 = 0x1FFFFFFFFFFFFFF by decide]

/-- The fields of TRECA lie side by side (14 R290). -/
theorem recordA_toNat {team part core slot hw code cause : Nat} {paired nostop : Bool} (hp : part < 8) (hs : slot < 32) (hh : hw < 64)
    (ho : code < 256) (ha : cause < 256) : (recordA team part paired nostop core slot hw code cause).toNat =
      cause + 2 ^ 8 * code + 2 ^ 16 * hw + 2 ^ 22 * slot + 2 ^ 27 * (core % 4) + 2 ^ 29 * nostop.toNat + 2 ^ 30 * paired.toNat + 2 ^ 32 * part
        + 2 ^ 48 * (team % 2 ^ 16) := by
  rw [recordA, BitVec.toNat_ofNat, Nat.mod_eq_of_lt]
  have := nostop.toNat_lt
  have := paired.toNat_lt
  omega

theorem queueRecord_full {s : State} {k : Nat} {nostop : Bool} (r : TrapRec)
    (h : nostop = true ∧ 32 ≤ ((s.proof k).queue.filter (·.1)).length) :
    s.queueRecord k nostop r = s.setProof { s.proof k with orphovf := (s.proof k).orphovf + 1 } := by
  simp [State.queueRecord, h]

theorem queueRecord_takes {s : State} {k : Nat} {nostop : Bool} (r : TrapRec)
    (h : ¬ (nostop = true ∧ 32 ≤ ((s.proof k).queue.filter (·.1)).length)) :
    s.queueRecord k nostop r = s.setProof { s.proof k with queue := (s.proof k).queue ++ [(nostop, r)] } := by
  unfold State.queueRecord
  rw [if_neg (by simpa using h)]

/-! ### When a stopped group's record is queued -/

theorem commitsOf_isEmpty {s : State} {a : Agent} : (s.commitsOf a).isEmpty = true ↔ ∀ m ∈ s.commits, m.agent ≠ a := by
  simp [State.commitsOf]

section Settle
variable {s : State} {g : Group} {r : TrapRec} (hg : s.group? g.core g.slot = some g) (hr : g.run = .trapped r false)
include hg hr

theorem settleTrap_pending (h : ∃ m ∈ s.commits, m.agent = .group g.core g.slot) : s.settleTrap g.core g.slot = s := by
  have pending : ¬ (s.commitsOf (.group g.core g.slot)).isEmpty = true := by
    rw [commitsOf_isEmpty]
    exact fun none => h.elim fun m hm => none m hm.1 hm.2
  simp only [State.settleTrap, hg, hr, pending, Bool.false_eq_true, if_false]

theorem settleTrap_complete (h : ∀ m ∈ s.commits, m.agent ≠ .group g.core g.slot) :
    s.settleTrap g.core g.slot = State.queueRecord (s.setGroup { g with run := .trapped r true }) (g.core / 4) false r := by
  simp only [State.settleTrap, hg, hr, commitsOf_isEmpty.2 h, if_true]
  rfl

end Settle

/-! ### Taking a trap -/

/-- The group is stopped at a pc with its record, and its commits wait for nothing but their latency (01 R32). -/
def State.stopAt (s : State) (g : Group) (pc : DWord) (r : TrapRec) (queued : Bool) : State :=
  { s.setGroup { g with pc := pc, run := .trapped r queued } with
    commits := s.commits.map fun (m : Commit) => if m.agent == .group g.core g.slot then { m with left := 0 } else m }

section Trap
variable {s : State} {c : Cur} {g : Group} (hc : c.agent = .group g.core g.slot) (hg : s.group? g.core g.slot = some g)
  (pc x y : DWord) (cause code : Nat)
include hc hg

theorem trapAt_group : s.trapAt c pc cause code x y = (s.stopAt g pc (s.trapRecord g cause code pc x y) false).settleTrap g.core g.slot := by
  simp only [State.trapAt, hc, hg]
  rfl

omit hc hg in
theorem stopAt_queued (r : TrapRec) :
    (s.stopAt g pc r false).setGroup { g with pc := pc, run := .trapped r true } = s.stopAt g pc r true := by
  simp only [State.stopAt, State.setGroup]
  rw [replaceBy_replaceBy (by simp)]

omit hc in
theorem stopAt_group (r : TrapRec) (queued : Bool) :
    (s.stopAt g pc r queued).group? g.core g.slot = some { g with pc := pc, run := .trapped r queued } :=
  group?_setGroup_self (g := { g with pc := pc, run := .trapped r queued }) hg

omit hc hg in
theorem stopAt_commits {r : TrapRec} {queued : Bool} {p : Agent → Prop} :
    (∀ m ∈ (s.stopAt g pc r queued).commits, p m.agent) ↔ ∀ m ∈ s.commits, p m.agent := by
  simp only [State.stopAt, List.mem_map, forall_exists_index, and_imp, forall_apply_eq_imp_iff₂]
  exact forall₂_congr fun m _ => by split <;> rfl

theorem trapAt_pending (h : ∃ m ∈ s.commits, m.agent = c.agent) :
    s.trapAt c pc cause code x y = s.stopAt g pc (s.trapRecord g cause code pc x y) false := by
  rw [trapAt_group hc hg]
  refine settleTrap_pending (g := { g with pc := pc, run := .trapped _ false }) (stopAt_group hg ..) rfl ?_
  by_contra none
  push Not at none
  obtain ⟨m, hm, ha⟩ := h
  exact stopAt_commits (p := (· ≠ .group g.core g.slot)) pc |>.1 none m hm (ha.trans hc)

theorem trapAt_complete (h : ∀ m ∈ s.commits, m.agent ≠ c.agent) : s.trapAt c pc cause code x y =
    (s.stopAt g pc (s.trapRecord g cause code pc x y) true).queueRecord (g.core / 4) false (s.trapRecord g cause code pc x y) := by
  rw [trapAt_group hc hg]
  have done := settleTrap_complete (g := { g with pc := pc, run := .trapped _ false }) (stopAt_group hg pc (s.trapRecord g cause code pc x y) false) rfl
    (stopAt_commits (p := (· ≠ .group g.core g.slot)) pc |>.2 (hc ▸ h))
  exact done.trans (congrArg (State.queueRecord · (g.core / 4) false _) (stopAt_queued pc _))

end Trap

/-- A trap halts a proof core at the instruction and reports it to the host (14 R287). -/
theorem trapAt_proof {s : State} {c : Cur} {k : Nat} (hc : c.agent = .proof k) (pc x y : DWord) (cause code : Nat) :
    s.trapAt c pc cause code x y = { s.setProof { s.proof k with pc := pc, halted := true, wait := none } with
      boot := { s.boot with halt := s.boot.halt ||| 2 ^ k, msix := s.boot.msix ++ [1] } } := by
  have found := proof_setProof_self s { s.proof k with pc := pc }
  rw [show ({ s.proof k with pc := pc } : ProofCore).cluster = k from proof_cluster s k] at found
  simp only [State.trapAt, hc, State.halt, found, setProof_setProof]
  rfl

/-! ### TRAP and BRK -/

theorem brk_takes {s : State} {c : Cur} (h : s.Issuing c) (code : Byte) : exec (.brk code) s = .next (s.trapAt c c.pc 0x0F code.toNat 0 0) :=
  withAgent_issuing h _

theorem trap_group {s : State} {c : Cur} {g : Group} (h : s.GroupIssuing c g) (code : Byte) : exec (.trap code) s
    = .next ((s.goTo c (c.tail.getD c.next)).trapAt c (c.tail.getD c.next) 0x10 code.toNat 0 0) := by
  show execTrap code s = _
  rw [execTrap, withAgent_issuing (GroupIssuing.issuing h)]
  simp only [h.2.1]
  rfl

theorem trap_proof {s : State} {c : Cur} {k : Nat} (h : s.ProofIssuing c k) (code : Byte) :
    exec (.trap code) s = .next (s.trapAt c c.pc 0x10 code.toNat 0 0) := by
  show execTrap code s = _
  rw [execTrap, withAgent_issuing (ProofIssuing.issuing h)]
  simp only [h.2]
  rfl

/-! ### The obligation -/

/-- Settles O16: a group stops with its record, which the queue takes once no commit of the group is pending; a proof core halts. -/
theorem trapAndBreakAreTaken : Obligations.TrapAndBreakAreTaken := by
  refine ⟨fun s c g t l pc x y cause code hc hg ht hl => ?group, fun team part core slot hw code cause paired nostop hp hs hh ho ha =>
      recordA_toNat hp hs hh ho ha, fun s g r hg hr => ⟨settleTrap_pending hg hr, settleTrap_complete hg hr⟩,
    fun s k nostop r => ⟨queueRecord_full r, queueRecord_takes r⟩, fun s c k pc x y cause code hc => trapAt_proof hc pc x y cause code,
    fun s c h code => ⟨brk_takes h code, fun g hg ht => ?trap, fun k hk => trap_proof hk code⟩⟩
  case group =>
    rw [← trapRecord_eq ht hl]
    refine ⟨fun pending => ?_, fun done => ?_⟩
    · rw [trapAt_pending hc hg pc x y cause code pending, State.stopAt, hc]
    · rw [trapAt_complete hc hg pc x y cause code done, State.stopAt, hc]
  case trap =>
    rw [trap_group hg code, ht]
    rfl

end Sys2Proof.Machine
end

section
/-! PROOFS. Accesses performed and results committed (01 R31, 03 R73 to R75, 04 R92, 08 R182, R183, R193): what an access of each kind
does, the values that loads and atomics give, and when a result that is due commits. -/

namespace Sys2Proof.Machine

/-! ### Accesses of one number -/

section Perform
variable {s : State} {uid : Nat}

/-- The accesses of a number whose cycle has come. -/
def State.localsDue (s : State) (uid : Nat) : List Local := s.locals.filter fun l => l.uid == uid && decide (l.due ≤ s.cycle)

/-- The machine without them. -/
def State.withoutDue (s : State) (uid : Nat) : State := { s with locals := s.locals.filter fun l => !(l.uid == uid && decide (l.due ≤ s.cycle)) }

/-- What follows the accesses: groups whose own writes are done wake, the groups that issued them go on, and exited teams give up what
no access holds. -/
def State.afterAccesses (s : State) (now : List Local) : State :=
  State.reapExited ((groupsOf (now.map (·.agent))).foldl (fun s k => s.settleGroup k.1 k.2) s.wakeOwn)

theorem localAccessPerform_now (h : s.localsDue uid ≠ [])
    (hw : ∀ l ∈ s.localsDue uid, l.op.writes = false → ∀ m ∈ s.locals, m.uid ≠ uid → m.op.writes = true → s.cycle < m.due) :
    exec (.localAccessPerform uid) s = .next (State.afterAccesses ((s.withoutDue uid).performAll (s.localsDue uid)) (s.localsDue uid)) := by
  have free : ((s.localsDue uid).any fun l =>
      !l.op.writes && s.locals.any fun m => m.op.writes && decide (m.due ≤ s.cycle) && m.uid != uid) = false := by
    simp only [List.any_eq_false, Bool.and_eq_true, Bool.not_eq_true', List.any_eq_true, decide_eq_true_eq, bne_iff_ne, not_and, not_exists]
    exact fun l hl hr m hm ⟨hmw, hmd⟩ hu => absurd (hw l hl hr m hm hu hmw) (by omega)
  show execLocalAccessPerform uid s = _
  rw [execLocalAccessPerform, if_neg]
  · rfl
  · rw [Bool.or_eq_true, List.isEmpty_iff, not_or]
    exact ⟨h, Bool.eq_false_iff.1 free⟩

/-- An access event changes nothing, or performs the accesses that are due. -/
theorem localAccessPerform_next {t : State} (h : exec (.localAccessPerform uid) s = .next t) :
    t = s ∨ t = State.afterAccesses ((s.withoutDue uid).performAll (s.localsDue uid)) (s.localsDue uid) := by
  have h : execLocalAccessPerform uid s = .next t := h
  rw [execLocalAccessPerform] at h
  split at h
  · exact .inl (Host.Outcome.next.inj h).symm
  · exact .inr (Host.Outcome.next.inj h).symm

end Perform

/-! ### Values (08 R182, R183, R193) -/

theorem loadValue_plain (size n x : Nat) : loadValue false size n x = x := rfl

/-- A load with sign puts its value's two's complement into the destination. -/
theorem loadValue_signed {size n x : Nat} (hn : size ≤ n) (hx : x < 2 ^ (8 * size)) :
    loadValue true size n x = if 2 ^ (8 * size - 1) ≤ x then x + 2 ^ (8 * n) - 2 ^ (8 * size) else x := by
  have wide : 2 ^ (8 * size) ≤ 2 ^ (8 * n) := Nat.pow_le_pow_right (by decide) (by omega)
  have cast : (2 : Int) ^ (8 * n) = ((2 ^ (8 * n) : Nat) : Int) := by push_cast; rfl
  have cast' : (2 : Int) ^ (8 * size) = ((2 ^ (8 * size) : Nat) : Int) := by push_cast; rfl
  simp only [loadValue, if_true, wrapN, sext, Nat.mod_eq_of_lt hx, cast, cast']
  generalize 2 ^ (8 * n) = N at *
  generalize 2 ^ (8 * size) = S at *
  by_cases low : x < 2 ^ (8 * size - 1)
  · rw [if_pos low, if_neg (by omega), Int.emod_eq_of_lt (by omega) (by omega)]
    omega
  · rw [if_neg low, if_pos (by omega), ← Int.add_emod_right, Int.emod_eq_of_lt (by omega) (by omega)]
    omega

section Atomic
variable (t : ITy) (old b x : Nat)

theorem wrapN_natCast (y w : Nat) : wrapN (y : Int) w = y % 2 ^ w := by
  have : ((2 : Int) ^ w) = ((2 ^ w : Nat) : Int) := by push_cast; rfl
  rw [wrapN, this, ← Int.natCast_emod, Int.toNat_natCast]

theorem atomicStep_min : atomicStep .min (.int t) old b x = (wrapN (min (valI t old) (valI t b)) t.width, fNone) := by
  simp only [atomicStep, ibin, min_def]

theorem atomicStep_max : atomicStep .max (.int t) old b x = (wrapN (max (valI t old) (valI t b)) t.width, fNone) := by
  simp only [atomicStep, ibin, max_def]

theorem atomicStep_bits : atomicStep .and (.int t) old b x = (wrapN (old &&& b : Nat) t.width, fNone)
    ∧ atomicStep .or (.int t) old b x = (wrapN (old ||| b : Nat) t.width, fNone)
    ∧ atomicStep .xor (.int t) old b x = (wrapN (old ^^^ b : Nat) t.width, fNone) := by
  simp only [wrapN_natCast]
  exact ⟨rfl, rfl, rfl⟩

theorem atomicStep_exch : atomicStep .exch (.int t) old b x = (wrapN b t.width, fNone) := by
  rw [wrapN_natCast]
  rfl

theorem atomicStep_cas :
    atomicStep .cas (.int t) old b x = (wrapN (if old % 2 ^ t.width = x % 2 ^ t.width then (b : Int) else (old : Int)) t.width, fNone) := by
  simp only [atomicStep]
  split <;> rw [wrapN_natCast]

end Atomic

/-! ### Stores through an aperture (01 R19, 03 R75) -/

section Store
variable {whole : Bool} {addr n : Nat} (x : Nat)

theorem isZeroReg_iff : isZeroReg addr n = true ↔ addr / 2 ^ 28 % 16 = 2 ∧ addr % 2 ^ 28 + n ≤ 8 := by
  simp [isZeroReg]

theorem apStore_zeroReg (h : isZeroReg addr n = true) : apStore whole addr x n = .store [] := if_pos h

theorem apStore_counts (h : ¬ isZeroReg addr n = true) (hc : addr / 2 ^ 28 % 16 = 8 ∧ addr % 16 = 4 ∧ whole = false) :
    apStore whole addr x n = .count (x % 2 ^ 32) := by
  rw [apStore, if_neg h, if_pos (by simpa using hc)]

theorem apStore_plain (h : ¬ isZeroReg addr n = true) (hc : ¬ (addr / 2 ^ 28 % 16 = 8 ∧ addr % 16 = 4 ∧ whole = false)) :
    apStore whole addr x n = .store (leBytes n x) := by
  rw [apStore, if_neg h, if_neg (by simpa using hc)]

end Store

/-! ### Commits (01 R31) -/

section Commit
variable {s : State} {m : Commit}

theorem commitHeld_iff : s.commitHeld m = true ↔ (∃ l ∈ s.locals, l.commit = m.uid) ∨ s.partnerForme m = true
    ∨ ∃ o ∈ s.commits, o.agent = m.agent ∧ o.left = 0 ∧ o.due ≤ s.cycle ∧ m.uid < o.uid := by
  simp [State.commitHeld, State.windowFirst, and_assoc, or_assoc]

variable (hm : s.commits.find? (fun x => x.uid == m.uid && x.left == 0 && decide (x.due ≤ s.cycle)) = some m)
include hm

theorem lookaheadCommit_held (h : s.commitHeld m = true) : exec (.lookaheadCommit m.uid) s = .next s := by
  show execLookaheadCommit m.uid s = _
  simp only [execLookaheadCommit, hm, h, if_true]

theorem lookaheadCommit_commits (h : ¬ s.commitHeld m = true) : exec (.lookaheadCommit m.uid) s = .next (
    let t := State.afterCommit (State.applyCommit { s with commits := s.commits.filter (·.uid != m.uid) } m) m.agent
    match m.agent with
    | .group k n => t.settleGroup k n
    | .proof _ => t) := by
  show execLookaheadCommit m.uid s = _
  simp only [execLookaheadCommit, hm, h]
  cases m.agent <;> rfl

end Commit

/-- What a commit event does: nothing, or the results of a commit of that number. -/
theorem lookaheadCommit_next {s t : State} {uid : Nat} (h : exec (.lookaheadCommit uid) s = .next t) : t = s ∨
    ∃ m ∈ s.commits, m.uid = uid ∧
      let u := State.afterCommit (State.applyCommit { s with commits := s.commits.filter (·.uid != uid) } m) m.agent
      t = u ∨ ∃ k n, t = u.settleGroup k n := by
  have h : execLookaheadCommit uid s = .next t := h
  unfold execLookaheadCommit at h
  split at h
  · exact .inl (Host.Outcome.next.inj h).symm
  · next m hm =>
    have hu : m.uid = uid := by
      have := List.find?_some hm
      simp only [Bool.and_eq_true, beq_iff_eq] at this
      exact this.1.1
    split at h
    · exact .inl (Host.Outcome.next.inj h).symm
    · refine .inr ⟨m, List.mem_of_find?_eq_some hm, hu, ?_⟩
      dsimp only at h ⊢
      split at h
      · exact .inr ⟨_, _, (Host.Outcome.next.inj h).symm⟩
      · exact .inl (Host.Outcome.next.inj h).symm

theorem afterCommit_group {u : State} {g : Group} (h : u.group? g.core g.slot = some g) :
    u.afterCommit (.group g.core g.slot) = u.setGroup { g with notBefore := max g.notBefore (u.cycle + 1) } := by
  simp only [State.afterCommit, h]

/-! ### The obligation -/

/-- Settles O21: the accesses of a number are performed in lane order, each as its kind says, and a result commits that nothing holds. -/
theorem accessesPerformAndResultsCommit : Obligations.AccessesPerformAndResultsCommit := by
  refine ⟨fun s uid => localAccessPerform_now, fun s ls => rfl, fun s l bs h => ?store, fun s l n h => ?count, fun s l n h => ?init,
    fun s l team r h => ?forme, fun s l core slot off reg => ⟨fun bs h => ?debugWrite, fun h => ⟨fun hg => ?debugNone, fun g hg => ?debugRead⟩⟩,
    fun s l sx dst reg h => ?load, fun s l op t b x dst reg h => ?atomic,
    fun size n x _ hn hx => ⟨loadValue_plain size n x, loadValue_signed hn hx⟩, fun t old b x => ?steps, fun f old b x n => ⟨rfl, rfl⟩,
    fun whole addr x n => ?apertures, fun s m hm => ⟨fun h => lookaheadCommit_held hm (commitHeld_iff.2 h),
      fun h => ⟨lookaheadCommit_commits hm (commitHeld_iff.not.2 h), fun u g => afterCommit_group⟩⟩⟩
  case store | count | init | debugWrite => simp only [State.performAny, State.performOne, h]
  case forme | load | atomic =>
    simp only [State.performAny, State.performOne, h]
    rfl
  case debugNone => simp only [State.performAny, h, hg]
  case debugRead => simp only [State.performAny, h, hg]
  case steps =>
    obtain ⟨hand, hor, hxor⟩ := atomicStep_bits t old b x
    exact ⟨rfl, rfl, atomicStep_min t old b x, atomicStep_max t old b x, hand, hor, hxor, atomicStep_exch t old b x, atomicStep_cas t old b x,
      fun n => rfl⟩
  case apertures =>
    simp only [← isZeroReg_iff]
    exact ⟨apStore_zeroReg x, apStore_counts x, apStore_plain x⟩

end Sys2Proof.Machine
end

section
/-! PROOFS. What the end of an instruction, a trap and a wait leave alone (05 R116, R121, 14 R287, R288): all of the machine but groups,
pending commits, proof cores and what a halt reports. -/

namespace Sys2Proof.Machine

/-- The rest of the machine, apart from groups, pending commits, proof cores and what a halt reports to the host, is as it was. -/
def State.RestSame (s t : State) : Prop :=
  t = { s with groups := t.groups, commits := t.commits, proofs := t.proofs, boot := { s.boot with halt := t.boot.halt, msix := t.boot.msix } }

namespace State.RestSame

variable {s t u : State}

theorem refl (s : State) : s.RestSame s := rfl

theorem trans (h : s.RestSame t) (k : t.RestSame u) : s.RestSame u := by
  unfold State.RestSame at *
  rw [k, h]

theorem cycle (h : s.RestSame t) : t.cycle = s.cycle := by rw [h]
theorem mem (h : s.RestSame t) : t.mem = s.mem := by rw [h]
theorem uid (h : s.RestSame t) : t.uid = s.uid := by rw [h]
theorem teams (h : s.RestSame t) : t.teams = s.teams := by rw [h]
theorem cmds (h : s.RestSame t) : t.cmds = s.cmds := by rw [h]
theorem locals (h : s.RestSame t) : t.locals = s.locals := by rw [h]

end State.RestSame

/-! ### One by one -/

theorem setGroup_rest (s : State) (g : Group) : s.RestSame (s.setGroup g) := rfl
theorem commits_rest (s : State) (ms : List Commit) : s.RestSame { s with commits := ms } := rfl
theorem setProof_rest (s : State) (p : ProofCore) : s.RestSame (s.setProof p) := rfl
theorem halt_rest (s : State) (k : Nat) : s.RestSame (s.halt k) := rfl

theorem queueRecord_rest (s : State) (k : Nat) (nostop : Bool) (r : TrapRec) : s.RestSame (s.queueRecord k nostop r) := by
  unfold State.queueRecord
  dsimp only
  split <;> exact setProof_rest ..

theorem settleTrap_rest (s : State) (k n : Nat) : s.RestSame (s.settleTrap k n) := by
  unfold State.settleTrap
  split
  · split
    · split
      · exact (setGroup_rest ..).trans (queueRecord_rest ..)
      · exact .refl s
    · exact .refl s
  · exact .refl s

theorem trapAt_rest (s : State) (c : Cur) (pc : DWord) (cause code : Nat) (x y : DWord) : s.RestSame (s.trapAt c pc cause code x y) := by
  unfold State.trapAt
  split
  · exact (setProof_rest ..).trans (halt_rest ..)
  · split
    · exact .refl s
    · exact ((commits_rest ..).trans (setGroup_rest ..)).trans (settleTrap_rest ..)

theorem trap_rest (s : State) (c : Cur) (cause : Nat) : s.RestSame (s.trap c cause) := trapAt_rest ..

theorem setPc_rest (s : State) (a : Agent) (pc : DWord) : s.RestSame (s.setPc a pc) := by
  unfold State.setPc
  split
  · exact setProof_rest ..
  · split
    · exact setGroup_rest ..
    · exact .refl s

theorem goTo_rest (s : State) (c : Cur) (pc : DWord) : s.RestSame (s.goTo c pc) :=
  (commits_rest ..).trans (setPc_rest ..)

theorem tailTrap_rest (s : State) (c : Cur) : s.RestSame (s.tailTrap c) := by
  unfold State.tailTrap
  split
  · exact .refl s
  · exact trapAt_rest ..

theorem finish_rest (s : State) (c : Cur) : s.RestSame (s.finish c) := (goTo_rest ..).trans (tailTrap_rest ..)

theorem resume_rest (s : State) (c : Cur) : s.RestSame (s.resume c) := by
  unfold State.resume
  split
  · exact (setProof_rest ..).trans (finish_rest ..)
  · split
    · exact (setGroup_rest ..).trans (finish_rest ..)
    · exact .refl s

theorem retryAt_rest (s : State) (c : Cur) (n : Nat) : s.RestSame (s.retryAt c n) := by
  unfold State.retryAt
  split
  · split
    · exact setGroup_rest ..
    · exact .refl s
  · exact setProof_rest ..

theorem later_rest (s : State) (c : Cur) (lat la : Nat) (k : Commit → Commit) : State.RestSame { s with uid := s.uid + 1 } (s.later c lat la k) :=
  ((goTo_rest ..).trans (commits_rest ..)).trans (tailTrap_rest ..)

@[simp] theorem finish_cycle (s : State) (c : Cur) : (s.finish c).cycle = s.cycle := (finish_rest s c).cycle
@[simp] theorem later_cycle (s : State) (c : Cur) (lat la : Nat) (k : Commit → Commit) : (s.later c lat la k).cycle = s.cycle :=
  (later_rest s c lat la k).cycle

end Sys2Proof.Machine
end

section
/-! PROOFS. The debug window and the proof core's instructions on it (01 R32, 04 R92, 14 R293 to R297): where each byte of the window lies, what
its doublewords hold and take, the codes of an access, and what DBGMAP, DBGRD, DBGWR and TRET answer. -/

namespace Sys2Proof.Machine

open Sys2Proof.Claims

/-! ### Keys of the window's bytes -/

theorem debugKey_of_team {s : State} {g : Group} {t : Team} (ht : s.team? g.team = some t) (o : Nat) : s.debugKey g o =
    if o < 0x10000 then (if o < g.vregs * 4 * g.width then some (g.vkey 0 0 + o) else none)
    else if o < 0x10400 then some (g.skey 0 + (o - 0x10000))
    else if 0x100000 ≤ o ∧ o < 0x200000 then
      (if o - 0x100000 < t.krec.folio then (t.seat? g.core).map fun x => storeKey g.core (x.folio + (o - 0x100000)) else none)
    else if 0x200000 ≤ o ∧ o < 0x300000 then
      (if (o - 0x200000) / 4096 < t.krec.galley then
        (t.seat? g.core).map fun x => tileKey g.core (x.tiles.getD ((o - 0x200000) / 4096) 0) + o % 4096 else none)
    else none := by
  simp only [State.debugKey, ht]

/-- Within eight aligned bytes no two offsets of the debug window lie at one key. -/
theorem debugKey_inj {s : State} {g : Group} {o p k : Nat} (h : o / 8 = p / 8) (ho : s.debugKey g o = some k) (hp : s.debugKey g p = some k) :
    o = p := by
  cases ht : s.team? g.team with
  | none => simp [State.debugKey, ht] at ho
  | some t =>
    rw [debugKey_of_team ht] at ho hp
    by_cases h1 : o < 0x10000
    · rw [if_pos h1] at ho
      rw [if_pos (by omega)] at hp
      simp only [Option.ite_none_right_eq_some, Option.some.injEq] at ho hp
      omega
    rw [if_neg h1] at ho
    rw [if_neg (by omega)] at hp
    by_cases h2 : o < 0x10400
    · rw [if_pos h2] at ho
      rw [if_pos (by omega)] at hp
      simp only [Option.some.injEq] at ho hp
      omega
    rw [if_neg h2] at ho
    rw [if_neg (by omega)] at hp
    by_cases h3 : 0x100000 ≤ o ∧ o < 0x200000
    · rw [if_pos h3] at ho
      rw [if_pos (by omega)] at hp
      simp only [Option.ite_none_right_eq_some, Option.map_eq_some_iff] at ho hp
      obtain ⟨-, x, hx, ho⟩ := ho
      obtain ⟨-, y, hy, hp⟩ := hp
      cases hx.symm.trans hy
      simp only [storeKey] at ho hp
      omega
    rw [if_neg h3] at ho
    rw [if_neg (by omega)] at hp
    by_cases h4 : 0x200000 ≤ o ∧ o < 0x300000
    · rw [if_pos h4] at ho
      rw [if_pos (by omega)] at hp
      simp only [Option.ite_none_right_eq_some, Option.map_eq_some_iff] at ho hp
      obtain ⟨-, x, hx, ho⟩ := ho
      obtain ⟨-, y, hy, hp⟩ := hp
      cases hx.symm.trans hy
      rw [show (p - 0x200000) / 4096 = (o - 0x200000) / 4096 by omega] at hp
      omega
    · rw [if_neg h4] at ho
      cases ho

/-! ### Writes through the window leave the rest of memory alone -/

theorem setDebugWord_mem (s : State) (g : Group) (o x : Nat) : (s.setDebugWord g o x).mem = s.mem := by
  unfold State.setDebugWord
  repeat' split
  all_goals rfl

theorem setDebugByte_mem (s : State) (core slot : Nat) (b : Nat × Byte) : (s.setDebugByte core slot b).mem = s.mem := by
  unfold State.setDebugByte
  repeat' split
  · rfl
  · exact setDebugWord_mem ..
  · rfl

theorem debugWrite_mem (s : State) (core slot : Nat) (bs : List (Nat × Byte)) :
    (s.debugWrite core slot bs).mem = (s.write (s.debugCells core slot bs)).mem :=
  foldl_mem _ (fun s b => setDebugByte_mem s core slot b) _ _

/-! ### Numbers by their digits -/

/-- The number whose digits to the base `2 ^ w` are `d 0` to `d (n - 1)`. -/
def ofDigitsBelow (w : Nat) (d : Nat → Nat) (n : Nat) : Nat := sumL ((List.range n).map fun i => d i * 2 ^ (w * i))

theorem ofDigitsBelow_succ (w : Nat) (d : Nat → Nat) (n : Nat) : ofDigitsBelow w d (n + 1) = ofDigitsBelow w d n + d n * 2 ^ (w * n) := by
  simp [ofDigitsBelow, sumL, List.range_succ]

theorem ofDigitsBelow_lt {w : Nat} {d : Nat → Nat} (hd : ∀ i, d i < 2 ^ w) (n : Nat) : ofDigitsBelow w d n < 2 ^ (w * n) := by
  induction n with
  | zero => exact Nat.one_pos
  | succ n ih =>
    calc ofDigitsBelow w d (n + 1) < 2 ^ (w * n) + d n * 2 ^ (w * n) := by rw [ofDigitsBelow_succ]; omega
      _ = (d n + 1) * 2 ^ (w * n) := by ring
      _ ≤ 2 ^ w * 2 ^ (w * n) := Nat.mul_le_mul_right _ (hd n)
      _ = 2 ^ (w * (n + 1)) := by ring

theorem ofDigitsBelow_digit {w : Nat} {d : Nat → Nat} (hd : ∀ i, d i < 2 ^ w) {n i : Nat} (hi : i < n) :
    ofDigitsBelow w d n / 2 ^ (w * i) % 2 ^ w = d i := by
  induction n with
  | zero => omega
  | succ n ih =>
    rw [ofDigitsBelow_succ]
    by_cases last : i = n
    · subst last
      rw [Nat.add_mul_div_right _ _ (by positivity), Nat.div_eq_of_lt (ofDigitsBelow_lt hd i), Nat.zero_add, Nat.mod_eq_of_lt (hd i)]
    · have places : w * n = w * (n - i - 1) + w + w * i := by
        rw [← Nat.mul_succ, ← Nat.mul_add]
        congr 1
        omega
      have split : d n * 2 ^ (w * n) = d n * 2 ^ (w * (n - i - 1)) * 2 ^ w * 2 ^ (w * i) := by
        rw [places, Nat.pow_add, Nat.pow_add]
        ring
      rw [split, Nat.add_mul_div_right _ _ (by positivity), Nat.add_mul_mod_self_right, ih (by omega)]

/-! ### The rejoin registers in the window -/

theorem drop_flatMap_length {α β : Type} {f : α → List β} {n : Nat} (xs : List α) (h : ∀ x, (f x).length = n) (i : Nat) :
    (xs.flatMap f).drop (n * i) = (xs.drop i).flatMap f := by
  induction xs generalizing i with
  | nil => simp
  | cons x xs ih =>
    cases i with
    | zero => simp
    | succ i =>
      rw [List.flatMap_cons, List.drop_succ_cons, ← ih i, Nat.mul_succ, Nat.add_comm, ← List.drop_drop, List.drop_left' (h x)]

/-- The bytes of a rejoin register stand at its place. -/
theorem joinBytes_drop (g : Group) (n : Fin 8) : ∃ rest, g.joinBytes.drop (24 * n.val) =
    leBytes 8 g.rejoins[n].enrolled.toNat ++ leBytes 8 g.rejoins[n].arrived.toNat ++ leBytes 8 g.rejoins[n].point.toNat ++ rest := by
  have len : n.val < g.rejoins.toList.length := by simp
  refine ⟨(g.rejoins.toList.drop (n.val + 1)).flatMap fun j => leBytes 8 j.enrolled.toNat ++ leBytes 8 j.arrived.toNat ++ leBytes 8 j.point.toNat, ?_⟩
  rw [Group.joinBytes, drop_flatMap_length _ (by simp [leBytes_length]), List.drop_eq_getElem_cons len, List.flatMap_cons]
  simp

theorem leNat_leBytes_word (x : DWord) : leNat (leBytes 8 x.toNat) = x.toNat := by
  rw [leNat_leBytes, Nat.mod_eq_of_lt x.isLt]

theorem joinBytes_words (g : Group) (n : Fin 8) :
    leNat ((g.joinBytes.drop (24 * n.val)).take 8) = g.rejoins[n].enrolled.toNat
    ∧ leNat ((g.joinBytes.drop (24 * n.val + 8)).take 8) = g.rejoins[n].arrived.toNat
    ∧ leNat ((g.joinBytes.drop (24 * n.val + 16)).take 8) = g.rejoins[n].point.toNat := by
  obtain ⟨rest, h⟩ := joinBytes_drop g n
  rw [← List.drop_drop, ← List.drop_drop, h]
  simp only [List.append_assoc]
  refine ⟨?_, ?_, ?_⟩
  · rw [List.take_left' leBytes_length, leNat_leBytes_word]
  · rw [List.drop_left' leBytes_length, List.take_left' leBytes_length, leNat_leBytes_word]
  · rw [← List.append_assoc, List.drop_left' (by simp [leBytes_length]), List.take_left' leBytes_length, leNat_leBytes_word]

theorem validBits_eq (g : Group) :
    g.validBits = ofDigitsBelow 1 (fun n => if (g.rejoins.toList.getD n .off).valid then 1 else 0) 8 := by
  unfold Group.validBits ofDigitsBelow
  congr 2
  funext n
  rw [ite_mul, Nat.one_mul, Nat.one_mul, Nat.zero_mul]

theorem rejoins_getD (g : Group) (n : Fin 8) : g.rejoins.toList.getD n.val .off = g.rejoins[n] := by
  simp [List.getD_eq_getElem?_getD]

/-- The value of a bit of the valid word. -/
theorem validBits_bit (g : Group) (n : Fin 8) : g.validBits / 2 ^ n.val % 2 = if g.rejoins[n].valid then 1 else 0 := by
  have digit := ofDigitsBelow_digit (w := 1) (d := fun n => if (g.rejoins.toList.getD n .off).valid then 1 else 0)
    (fun i => by split <;> decide) n.isLt
  rw [← validBits_eq, Nat.one_mul] at digit
  rw [← rejoins_getD]
  exact digit

theorem validBits_lt (g : Group) : g.validBits < 2 ^ 8 := by
  rw [validBits_eq]
  exact ofDigitsBelow_lt (w := 1) (fun i => by split <;> decide) 8

/-- The rejoin register on which a lane is parked, as the parked-lane map codes it. -/
def Group.parkCode (g : Group) (i : Nat) : Nat :=
  match (List.range 8).find? fun n => inMask ((g.rejoins.toList.getD n .off).parked) i with
  | some n => 8 + n
  | none => 0

theorem parkCode_lt (g : Group) (i : Nat) : g.parkCode i < 2 ^ 4 := by
  unfold Group.parkCode
  split
  · next n h =>
    have := List.mem_range.1 (List.mem_of_find?_eq_some h)
    omega
  · decide

theorem parkMap_eq (g : Group) : g.parkMap = ofDigitsBelow 4 g.parkCode 64 := by
  unfold Group.parkMap ofDigitsBelow
  congr 2
  funext i
  unfold Group.parkCode
  generalize List.find? _ _ = parked
  cases parked <;> simp

theorem parkMap_digit (g : Group) {i : Nat} (hi : i < 64) : g.parkMap / 2 ^ (4 * i) % 16 = g.parkCode i := by
  rw [parkMap_eq]
  exact ofDigitsBelow_digit (w := 4) (parkCode_lt g) hi

theorem inMask_eq_getLsbD (x : DWord) (i : Nat) : inMask x i = x.getLsbD i := by
  rw [inMask, BitVec.getLsbD, Nat.testBit_eq_decide_div_mod_eq]
  rfl

/-! ### Doublewords of state outside the store (14 R294) -/

section Word
variable (s : State) (g : Group) (x : Nat)

theorem debugWord_mask (n : MReg) : s.debugWord g (0x10440 + 8 * n.toNat) = some (g.mask n).toNat
    ∧ s.setDebugWord g (0x10440 + 8 * n.toNat) x = s.setGroup (g.setMask n (.ofNat 64 x)) := by
  have hn := n.isLt
  have place : BitVec.ofNat 4 ((0x10440 + 8 * n.toNat - 0x10440) / 8) = n := by
    rw [Nat.add_sub_cancel_left, Nat.mul_div_cancel_left _ (by decide), BitVec.ofNat_toNat, BitVec.setWidth_eq]
  constructor
  · rw [State.debugWord, if_neg (by omega), if_neg (by omega), if_neg (by omega), if_neg (by omega), if_pos (by omega), place]
  · rw [State.setDebugWord, if_neg (by omega), if_neg (by omega), if_neg (by omega), if_pos (by omega), place]

/-- A group with a word of a rejoin register written. -/
def Group.setJoinWord (g : Group) (n k : Nat) (x : DWord) : Group :=
  { g with rejoins := g.rejoins.setIfInBounds n ((g.rejoins.toList.getD n .off).setWord k x) }

theorem setJoinWord_eq (n : Fin 8) (k : Nat) (x : DWord) :
    g.setJoinWord n.val k x = { g with rejoins := g.rejoins.set n.val (g.rejoins[n].setWord k x) } := by
  rw [Group.setJoinWord, rejoins_getD]
  simp [Vector.setIfInBounds, Vector.set, Array.setIfInBounds]

theorem debugWord_join {o : Nat} (h : 0x104C0 ≤ o ∧ o < 0x10580) :
    s.debugWord g o = some (leNat ((g.joinBytes.drop (o - 0x104C0)).take 8)) := by
  rw [State.debugWord, if_neg (by omega), if_neg (by omega), if_neg (by omega), if_neg (by omega), if_neg (by omega), if_pos h]

theorem setDebugWord_join {o : Nat} (h : 0x104C0 ≤ o ∧ o < 0x10580) :
    s.setDebugWord g o x = s.setGroup (g.setJoinWord ((o - 0x104C0) / 24) ((o - 0x104C0) / 8 % 3) (.ofNat 64 x)) := by
  rw [State.setDebugWord, if_neg (by omega), if_neg (by omega), if_neg (by omega), if_neg (by omega), if_pos h]
  rfl

/-- The k-th word of rejoin register n is written by itself. -/
theorem setDebugWord_joinWord (n : Fin 8) {k : Nat} (hk : k < 3) : s.setDebugWord g (0x104C0 + 24 * n.val + 8 * k) x =
    s.setGroup { g with rejoins := g.rejoins.set n.val (g.rejoins[n].setWord k (.ofNat 64 x)) } := by
  rw [setDebugWord_join s g x (by omega), show (0x104C0 + 24 * n.val + 8 * k - 0x104C0) / 24 = n.val by omega,
    show (0x104C0 + 24 * n.val + 8 * k - 0x104C0) / 8 % 3 = k by omega, setJoinWord_eq]

theorem debugWord_joinWords (n : Fin 8) : s.debugWord g (0x104C0 + 24 * n.val) = some g.rejoins[n].enrolled.toNat
    ∧ s.debugWord g (0x104C0 + 24 * n.val + 8) = some g.rejoins[n].arrived.toNat
    ∧ s.debugWord g (0x104C0 + 24 * n.val + 16) = some g.rejoins[n].point.toNat := by
  obtain ⟨enrolled, arrived, point⟩ := joinBytes_words g n
  rw [← enrolled, ← arrived, ← point]
  refine ⟨?_, ?_, ?_⟩
  · rw [debugWord_join s g (o := 0x104C0 + 24 * n.val) (by omega), Nat.add_sub_cancel_left]
  · rw [debugWord_join s g (o := 0x104C0 + 24 * n.val + 8) (by omega), Nat.add_assoc, Nat.add_sub_cancel_left]
  · rw [debugWord_join s g (o := 0x104C0 + 24 * n.val + 16) (by omega), Nat.add_assoc, Nat.add_sub_cancel_left]

theorem debugWord_park {k : Nat} (hk : k < 4) : s.debugWord g (0x10588 + 8 * k) = some (g.parkMap / 2 ^ (64 * k) % 2 ^ 64)
    ∧ s.setDebugWord g (0x10588 + 8 * k) x = s.setGroup (g.setParkMap (putWord g.parkMap (8 * k) x)) := by
  have place : 8 * (0x10588 + 8 * k - 0x10588) = 64 * k := by omega
  constructor
  · rw [State.debugWord, if_neg (by omega), if_neg (by omega), if_neg (by omega), if_neg (by omega), if_neg (by omega), if_neg (by omega),
      if_neg (by omega), if_pos (by omega), place]
  · rw [State.setDebugWord, if_neg (by omega), if_neg (by omega), if_neg (by omega), if_neg (by omega), if_neg (by omega), if_neg (by omega),
      if_pos (by omega), Nat.add_sub_cancel_left]

theorem putWord_place (m k y : Nat) : putWord m (8 * k) y = m - 2 ^ (64 * k) * (m / 2 ^ (64 * k) % 2 ^ 64) + 2 ^ (64 * k) * (y % 2 ^ 64) := by
  rw [putWord, show 8 * (8 * k) = 64 * k by omega]

theorem debugWord_forme {t : Team} (ht : s.team? g.team = some t) (n : Fin 16) {k : Nat} (hk : k < 8) :
    s.debugWord g (0x300000 + 64 * n.val + 8 * k) = some ((t.formes[n]).toNat / 2 ^ (64 * k) % 2 ^ 64)
    ∧ s.setDebugWord g (0x300000 + 64 * n.val + 8 * k) x =
      s.setTeam { t with formes := t.formes.set n.val (.ofNat 512 (putWord (t.formes[n]).toNat (8 * k) x)) } := by
  have hn := n.isLt
  have register : (0x300000 + 64 * n.val + 8 * k - 0x300000) / 64 = n.val := by omega
  have place : (0x300000 + 64 * n.val + 8 * k) % 64 = 8 * k := by omega
  have forme : t.formes.toList.getD n.val 0 = t.formes[n] := by simp [List.getD_eq_getElem?_getD]
  constructor
  · rw [State.debugWord, if_neg (by omega), if_neg (by omega), if_neg (by omega), if_neg (by omega), if_neg (by omega), if_neg (by omega),
      if_neg (by omega), if_neg (by omega), if_neg (by omega), if_pos (by omega), ht, Option.map_some, register, place, forme,
      show 8 * (8 * k) = 64 * k by omega]
  · rw [State.setDebugWord, if_neg (by omega), if_neg (by omega), if_neg (by omega), if_neg (by omega), if_neg (by omega), if_neg (by omega),
      if_neg (by omega), if_pos (by omega), ht]
    simp only [register, place, forme]
    simp [Vector.setIfInBounds, Vector.set, Array.setIfInBounds]

end Word

/-! ### Bytes written through the window -/

/-- A key that some cells name with one byte alone holds it after their write. -/
theorem memGet_memSetAll_of_unique {cs m : List Host.Cell} {k : Nat} {b : Byte} (h : Memory.wf m = true) (hc : (k, b) ∈ cs)
    (hu : ∀ c ∈ cs, c.1 = k → c.2 = b) : memGet (memSetAll m cs) k = b := by
  induction cs generalizing m with
  | nil => cases hc
  | cons c cs ih =>
    have step : memSetAll m (c :: cs) = memSetAll (memSet m c.1 c.2) cs := rfl
    rw [step]
    by_cases later : (k, b) ∈ cs
    · exact ih (memSet_wf h) later fun d hd => hu d (List.mem_cons_of_mem _ hd)
    · obtain rfl : (k, b) = c := (List.mem_cons.1 hc).resolve_right later
      have none : ∀ d ∈ cs, d.1 ≠ k := fun d hd e => later (by rw [← hu d (List.mem_cons_of_mem _ hd) e, ← e]; exact hd)
      rw [memGet_memSetAll (memSet_wf h) none, memGet_memSet h, if_pos rfl]

theorem mem_cellsAt_iff {bs : List Byte} {a : Nat} {c : Host.Cell} : c ∈ cellsAt a bs ↔ ∃ i, nth bs i = some c.2 ∧ c.1 = a + i := by
  induction bs generalizing a with
  | nil => simp [cellsAt, nth]
  | cons b bs ih =>
    simp only [cellsAt, List.mem_cons, ih]
    constructor
    · rintro (rfl | ⟨i, hi, hc⟩)
      · exact ⟨0, rfl, rfl⟩
      · exact ⟨i + 1, hi, by omega⟩
    · rintro ⟨i, hi, hc⟩
      cases i with
      | zero => exact .inl (Prod.ext hc (Option.some.inj hi).symm)
      | succ i => exact .inr ⟨i, hi, by omega⟩

theorem nth_lt {α : Type} {xs : List α} {i : Nat} {x : α} (h : nth xs i = some x) : i < xs.length := by
  induction xs generalizing i with
  | nil => cases h
  | cons y ys ih =>
    cases i with
    | zero => exact Nat.succ_pos _
    | succ i => exact Nat.succ_lt_succ (ih h)

section Write
variable {s : State} {core slot : Nat} {g : Group} (hg : s.group? core slot = some g)
include hg

/-- The cells of a write through the window: each byte at the key of its offset, but for those of s0. -/
theorem mem_debugCells {bs : List (Nat × Byte)} {x : Host.Cell} : x ∈ s.debugCells core slot bs ↔
    ∃ b ∈ bs, ¬ (0x10000 ≤ b.1 ∧ b.1 < 0x10008) ∧ s.debugKey g b.1 = some x.1 ∧ b.2 = x.2 := by
  simp only [State.debugCells, hg, List.mem_filterMap]
  refine exists_congr fun b => and_congr_right fun _ => ?_
  by_cases zero : 0x10000 ≤ b.1 ∧ b.1 < 0x10008
  · simp [zero]
  · rw [if_neg zero, Option.map_eq_some_iff]
    constructor
    · rintro ⟨k, hk, rfl⟩
      exact ⟨zero, hk, rfl⟩
    · rintro ⟨-, hk, hb⟩
      exact ⟨x.1, hk, Prod.ext rfl hb⟩

variable {o : Nat} {bs : List Byte} (hs : s.Inv)
include hs

theorem debugWrite_byte (hn : bs.length ∈ [1, 2, 4, 8]) (ho : o % bs.length = 0) {i k : Nat} {b : Byte} (hk : s.debugKey g (o + i) = some k)
    (hi : nth bs i = some b) (hz : ¬ (0x10000 ≤ o + i ∧ o + i < 0x10008)) : (s.debugWrite core slot (cellsAt o bs)).byte k = b := by
  rw [State.byte, debugWrite_mem]
  refine memGet_memSetAll_of_unique hs ((mem_debugCells hg).2 ⟨(o + i, b), mem_cellsAt_iff.2 ⟨i, hi, rfl⟩, hz, hk, rfl⟩) fun x hx hxk => ?_
  obtain ⟨y, hy, -, hky, hyb⟩ := (mem_debugCells hg).1 hx
  obtain ⟨j, hj, hyo⟩ := mem_cellsAt_iff.1 hy
  have hij := nth_lt hi
  have hjl := nth_lt hj
  have block : (o + i) / 8 = (o + j) / 8 := by
    simp only [List.mem_cons, List.not_mem_nil, or_false] at hn
    obtain hn | hn | hn | hn := hn <;> rw [hn] at ho hij hjl <;> omega
  have same := debugKey_inj block hk (by rw [← hyo, hky, hxk])
  obtain rfl : i = j := by omega
  exact hyb ▸ Option.some.inj (hj.symm.trans hi)

theorem debugWrite_outside {a : Nat} (ha : ∀ i < bs.length, s.debugKey g (o + i) = some a → 0x10000 ≤ o + i ∧ o + i < 0x10008) :
    (s.debugWrite core slot (cellsAt o bs)).byte a = s.byte a := by
  rw [State.byte, debugWrite_mem]
  refine byte_write hs fun x hx hxa => ?_
  obtain ⟨y, hy, hz, hky, -⟩ := (mem_debugCells hg).1 hx
  obtain ⟨j, hj, hyo⟩ := mem_cellsAt_iff.1 hy
  rw [hyo, hxa] at hky
  rw [hyo] at hz
  exact hz (ha j (nth_lt hj) hky)

end Write

/-! ### Bytes and codes of an access (14 R295) -/

section Code
variable {s : State} {g : Group}

theorem debugByte_key {o k : Nat} (h : s.debugKey g o = some k) : s.debugByte g o =
    some (if 0x10000 ≤ o ∧ o < 0x10008 then 0 else if s.poisoned k 1 then Config.freeByte s.fresh k else s.byte k) := by
  simp only [State.debugByte, h]
  rfl

theorem debugByte_word {o : Nat} (h : s.debugKey g o = none) :
    s.debugByte g o = (s.debugWord g (o / 8 * 8)).map fun x => .ofNat 8 (x / 2 ^ (8 * (o % 8))) := by
  simp only [State.debugByte, h]

theorem debugCode_unmapped {p : ProofCore} (h : ∀ m, p.map = some m → s.group? m.1 m.2 = none) (wr : Bool) (o n : Nat) :
    s.debugCode p wr o n = 1 := by
  have none : (p.map.bind fun m => s.group? m.1 m.2) = none := Option.bind_eq_none_iff.2 h
  simp only [State.debugCode, none]

theorem debugCode_mapped {p : ProofCore} {m : Nat × Nat} (hm : p.map = some m) (hg : s.group? m.1 m.2 = some g) (wr : Bool) (o n : Nat) :
    s.debugCode p wr o n = if ∃ i < n, s.debugByte g (o + i) = none then 2
      else if wr = true ∧ ∃ i < n, o + i < 0x200000 ∧ ∃ k, s.debugKey g (o + i) = some k ∧ ∃ e ∈ s.chases, e.span.overlaps (keyCore k) (keyOff k) 1 = true
      then 3 else if o % n ≠ 0 then 4 else if 0x200000 ≤ o ∧ o < 0x300000 ∧ ∃ m ∈ s.mats, m.team = g.team then 5 else 0 := by
  have outside : ((List.range n).map (o + ·)).any (fun o => (s.debugByte g o).isNone) = true ↔ ∃ i < n, s.debugByte g (o + i) = none := by
    simp
  have inSpan : (wr && ((List.range n).map (o + ·)).any fun o => (s.debugKey g o).any fun k =>
      decide (o < 0x200000) && s.chases.any fun e => e.span.overlaps (keyCore k) (keyOff k) 1) = true ↔
      wr = true ∧ ∃ i < n, o + i < 0x200000 ∧ ∃ k, s.debugKey g (o + i) = some k ∧ ∃ e ∈ s.chases, e.span.overlaps (keyCore k) (keyOff k) 1 = true := by
    simp only [Bool.and_eq_true, List.any_eq_true, List.mem_map, List.mem_range, exists_exists_and_eq_and, Option.any_eq_true,
      decide_eq_true_eq]
    exact and_congr_right fun _ => exists_congr fun i => and_congr_right fun _ =>
      ⟨fun ⟨k, hk, hi, he⟩ => ⟨hi, k, hk, he⟩, fun ⟨hi, k, hk, he⟩ => ⟨k, hk, hi, he⟩⟩
  have mats : s.mats.any (fun m => m.team == g.team) = true ↔ ∃ m ∈ s.mats, m.team = g.team := by
    simp
  simp only [State.debugCode, hm, Option.bind_some, hg, outside, inSpan, mats]

theorem setDebugByte_key {core slot o k : Nat} {b : Byte} (hg : s.group? core slot = some g) (h : s.debugKey g o = some k) :
    s.setDebugByte core slot (o, b) = s := by
  simp only [State.setDebugByte, hg, h]

theorem setDebugByte_gap {core slot o : Nat} {b : Byte} (hg : s.group? core slot = some g) (h : s.debugKey g o = none)
    (hw : s.debugWord g (o / 8 * 8) = none) : s.setDebugByte core slot (o, b) = s := by
  simp only [State.setDebugByte, hg, h, hw]

theorem setDebugByte_word {core slot o x : Nat} {b : Byte} (hg : s.group? core slot = some g) (h : s.debugKey g o = none)
    (hw : s.debugWord g (o / 8 * 8) = some x) : s.setDebugByte core slot (o, b) = s.setDebugWord g (o / 8 * 8)
      (x - 2 ^ (8 * (o % 8)) * (x / 2 ^ (8 * (o % 8)) % 256) + 2 ^ (8 * (o % 8)) * b.toNat) := by
  simp only [State.setDebugByte, hg, h, hw]

end Code

/-! ### The window as a whole -/

theorem debugWindow_keys {s : State} {g : Group} {t : Team} (ht : s.team? g.team = some t) (o : Nat) :
    let place := fun (f : Seat → Nat) => (t.seat? g.core).map f
    (o < 0x10000 → s.debugKey g o = if o < g.vregs * 4 * g.width then some (g.vkey 0 0 + o) else none)
    ∧ (0x10000 ≤ o → o < 0x10400 → s.debugKey g o = some (g.skey 0 + (o - 0x10000)))
    ∧ (0x100000 ≤ o → o < 0x200000 → s.debugKey g o
      = if o - 0x100000 < t.krec.folio then place fun x => storeKey g.core (x.folio + (o - 0x100000)) else none)
    ∧ (0x200000 ≤ o → o < 0x300000 → s.debugKey g o
      = if (o - 0x200000) / 4096 < t.krec.galley then place fun x => tileKey g.core (x.tiles.getD ((o - 0x200000) / 4096) 0) + o % 4096 else none)
    ∧ (0x10400 ≤ o → o < 0x100000 ∨ 0x300000 ≤ o → s.debugKey g o = none) := by
  rw [debugKey_of_team ht]
  refine ⟨fun h => if_pos h, fun h h' => ?_, fun h h' => ?_, fun h h' => ?_, fun h h' => ?_⟩
  · rw [if_neg (by omega), if_pos h']
  · rw [if_neg (by omega), if_neg (by omega), if_pos ⟨h, h'⟩]
  · rw [if_neg (by omega), if_neg (by omega), if_neg (by omega), if_pos ⟨h, h'⟩]
  · rw [if_neg (by omega), if_neg (by omega), if_neg (by omega), if_neg (by omega)]

theorem parkCode_eq (g : Group) (i : Nat) : g.parkCode i =
    match (List.range 8).find? fun n => (g.rejoins.toList.getD n .off).parked.getLsbD i with
    | some n => 8 + n
    | none => 0 := by
  simp only [Group.parkCode, inMask_eq_getLsbD]

/-- The debug window's bytes, doublewords and codes are as 14 R293 to R296 say. -/
theorem debugWindow_holds (s : State) : DebugWindow s := by
  refine ⟨fun g t o ht => ?keys, fun g t x ht => ?words, fun p m g wr o n hm hg => debugCode_mapped hm hg wr o n,
    fun p h wr o n => debugCode_unmapped h wr o n,
    fun core slot g o b hg => ⟨fun k => setDebugByte_key hg, setDebugByte_gap hg, fun x => setDebugByte_word hg⟩,
    fun core slot g o bs hg hs hn ho => ⟨rfl, fun i k b hk hi hz => debugWrite_byte hg hs hn ho hk hi hz, fun a => debugWrite_outside hg hs⟩,
    fun l core slot o reg => ⟨fun bs h => ?write, fun g h hg => ?read⟩⟩
  case keys =>
    obtain ⟨vregs, sregs, folio, tiles, gap⟩ := debugWindow_keys ht o
    exact ⟨vregs, sregs, folio, tiles, gap, fun k => debugByte_key, debugByte_word⟩
  case words =>
    refine ⟨⟨rfl, rfl⟩, ⟨rfl, rfl⟩, ⟨rfl, rfl⟩, ⟨?team, rfl⟩, debugWord_mask s g x, fun n => ?joins, ⟨⟨g.validBits, rfl, validBits_lt g, validBits_bit g⟩, rfl⟩,
      fun k hk => ?park, fun i hi => (parkMap_digit g hi).trans (parkCode_eq g i), ⟨rfl, rfl⟩, fun n k hk => ?formes⟩
    case team =>
      rw [State.debugWord, ht]
      rfl
    case joins =>
      obtain ⟨enrolled, arrived, point⟩ := debugWord_joinWords s g n
      exact ⟨enrolled, setDebugWord_joinWord s g x n (k := 0) (by decide), arrived, setDebugWord_joinWord s g x n (k := 1) (by decide), point,
        setDebugWord_joinWord s g x n (k := 2) (by decide)⟩
    case park =>
      obtain ⟨holds, takes⟩ := debugWord_park s g x hk
      rw [putWord_place] at takes
      exact ⟨holds, takes⟩
    case formes =>
      obtain ⟨holds, takes⟩ := debugWord_forme s g x ht n hk
      rw [putWord_place] at takes
      exact ⟨holds, takes⟩
  case write => simp only [State.performAny, h]
  case read => simp only [State.performAny, h, hg]

/-! ### DBGMAP -/

/-- What DBGMAP answers for a slot: 0 for a trapped group whose record is queued, 1 for no group, 2 for another. -/
def mapCode : Option Group → Nat
  | none => 1
  | some g => if g.run == .exited then 1 else if g.inTrap then 0 else 2

theorem mapCode_trapped {g : Group} {r : TrapRec} (h : g.run = .trapped r true) : mapCode (some g) = 0 := by
  simp [mapCode, Group.inTrap, h]

theorem mapCode_exited {g : Group} (h : g.run = .exited) : mapCode (some g) = 1 := by
  simp [mapCode, h]

theorem inTrap_iff {g : Group} : g.inTrap = true ↔ ∃ r, g.run = .trapped r true := by
  unfold Group.inTrap
  cases g.run <;> simp

theorem mapCode_other {g : Group} (h : g.run ≠ .exited) (hr : ∀ r, g.run ≠ .trapped r true) : mapCode (some g) = 2 := by
  have out : ¬ g.inTrap = true := fun ht => (inTrap_iff.1 ht).elim hr
  simp [mapCode, h, out]

section Instructions
variable {s : State} {c : Cur} {k : Nat} (hp : s.ProofIssuing c k)
include hp

theorem dbgmap_slot {core slot : Nat} (d : SReg) {a : SReg} (hc : core < 4) (hs : slot < 32) (h : s.src c a = core + 4 * slot) {st : Nat}
    (hst : mapCode (s.group? (4 * (s.proof k).cluster + core) slot) = st) : exec (.dbgmap d a) s = .next (State.finish
      ((s.setProof { s.proof k with map := if st = 0 then some (4 * (s.proof k).cluster + core, slot) else none }).setSregA c.agent d.toNat
        (.ofNat 64 st)) c) := by
  have h : (s.sregA c.agent a.toNat).toNat = core + 4 * slot := h
  show execDbgmap d a s = _
  rw [execDbgmap, withProof_proof hp, h, if_neg (by omega), show (core + 4 * slot) % 4 = core by omega,
    show (core + 4 * slot) / 4 = slot by omega, ← hst]
  dsimp only
  cases s.group? (4 * (s.proof k).cluster + core) slot <;> rfl

theorem dbgmap_unlisted (d : SReg) {a : SReg} (h : 128 ≤ s.src c a) : exec (.dbgmap d a) s = .next (s.trap c 0x01) := by
  show execDbgmap d a s = _
  rw [execDbgmap, withProof_proof hp]
  exact congrArg _ (if_pos h)

theorem dbgmapU_unmaps (d : SReg) : exec (.dbgmapU d) s
    = .next (State.finish ((s.setProof { s.proof k with map := none }).setSregA c.agent d.toNat (.ofNat 64 0)) c) := by
  show execDbgmapU d s = _
  rw [execDbgmapU, withProof_proof hp]
  rfl

/-! ### DBGRD and DBGWR -/

/-- A debug access of the issuing proof core to a slot. -/
def debugLocal (s : State) (c : Cur) (w : Option (List Byte)) (commit reg off n : Nat) (at_ : Nat × Nat) : Local :=
  { uid := s.uid, agent := c.agent, due := s.cycle + (if w.isSome then 59 else 58), commit := commit, addr := off, size := n, acq := false
    op := .debug at_.1 at_.2 off w reg }

/-- The machine with the code of a debug instruction in DBGSTAT and its number taken. -/
def coded (s : State) (k x : Nat) : State := { s.setProof { s.proof k with dbgstat := .ofNat 64 x } with uid := s.uid + 1 }

/-- DBGSTAT is no register that an instruction reads. -/
theorem sregA_dbgstat (x : DWord) (r : Nat) : (s.setProof { s.proof k with dbgstat := x }).sregA c.agent r = s.sregA c.agent r := by
  have found := proof_setProof_self s { s.proof k with dbgstat := x }
  rw [show ({ s.proof k with dbgstat := x } : ProofCore).cluster = k from proof_cluster s k] at found
  simp only [State.sregA, hp.2, found]

section Access
variable (wd : Width) (d a : SReg) (m : Byte) {off : Nat} (ho : (s.src c a % 2 ^ 32 + wsize wd * m.toNat) % 2 ^ 32 = off)
include ho

theorem dbgrd_reads (la : BitVec 4) (hc : s.debugCode (s.proof k) false off (wsize wd) = 0) {at_ : Nat × Nat} (hm : (s.proof k).map = some at_) :
    exec (.dbgrd la wd d a m) s = .next (State.launchLocals (State.later (coded s k 0) c 60 la.toNat id)
      [debugLocal s c none (s.uid + 1) d.toNat off (wsize wd) at_]) := by
  have hat : (s.proof k).map.getD (0, 0) = at_ := by rw [hm, Option.getD_some]
  have ho : baseOf s c.agent a (wsize wd * m.toNat) % 2 ^ 32 = off := ho
  show debugAccess s la.toNat wd a m none d.toNat = _
  rw [debugAccess, withProof_proof hp]
  simp only [ho, Option.isSome_none, hc, hat, if_true, ne_eq, not_true_eq_false, if_false, later_cycle]
  rfl

theorem dbgrd_refused (la : BitVec 4) (hc : s.debugCode (s.proof k) false off (wsize wd) ≠ 0) :
    exec (.dbgrd la wd d a m) s = .next (State.later (coded s k (s.debugCode (s.proof k) false off (wsize wd))) c 60 la.toNat
      fun x => { x with regs := dstReg (some d.toNat) 0 }) := by
  have ho : baseOf s c.agent a (wsize wd * m.toNat) % 2 ^ 32 = off := ho
  show debugAccess s la.toNat wd a m none d.toNat = _
  rw [debugAccess, withProof_proof hp]
  simp only [ho, Option.isSome_none, hc, if_false, ne_eq, not_false_eq_true, if_true]
  rfl

theorem dbgwr_writes (hc : s.debugCode (s.proof k) true off (wsize wd) = 0) {at_ : Nat × Nat} (hm : (s.proof k).map = some at_) :
    exec (.dbgwr wd d a m) s = .next (State.launchLocals (State.finish (coded s k 0) c)
      [debugLocal s c (some (leBytes (wsize wd) (s.src c d))) 0 0 off (wsize wd) at_]) := by
  have hat : (s.proof k).map.getD (0, 0) = at_ := by rw [hm, Option.getD_some]
  have ho : baseOf s c.agent a (wsize wd * m.toNat) % 2 ^ 32 = off := ho
  show debugAccess s 0 wd a m (some d) 0 = _
  rw [debugAccess, withProof_proof hp]
  simp only [ho, Option.isSome_some, hc, hat, if_true, ne_eq, not_true_eq_false, if_false, finish_cycle, sregA_dbgstat hp]
  rfl

theorem dbgwr_refused (hc : s.debugCode (s.proof k) true off (wsize wd) ≠ 0) :
    exec (.dbgwr wd d a m) s = .next (State.finish (coded s k (s.debugCode (s.proof k) true off (wsize wd))) c) := by
  have ho : baseOf s c.agent a (wsize wd * m.toNat) % 2 ^ 32 = off := ho
  show debugAccess s 0 wd a m (some d) 0 = _
  rw [debugAccess, withProof_proof hp]
  simp only [ho, Option.isSome_some, hc, ne_eq, not_false_eq_true, if_true]
  rfl

end Access

/-! ### TRET -/

omit hp in
theorem exec_tret : exec .tret s = tretOp s fun s g => s.wake { g with line := none } := rfl

omit hp in
theorem exec_tretExit : exec .tretExit s = tretOp s fun s g => (s.endGroup g.core g.slot).handCheck g.team := rfl

section Tret
variable {f : State → Group → State}

theorem tretOp_waits (h : s.localsOf c.agent ≠ []) : tretOp s f = .next (s.retryAt c 0) := by
  rw [tretOp, withProof_proof hp]
  simp [h]

variable (h : s.localsOf c.agent = [])
include h

theorem tretOp_unmapped (hm : ∀ m, (s.proof k).map = some m → s.group? m.1 m.2 = none) :
    tretOp s f = .next (State.finish (s.setProof { s.proof k with dbgstat := 1, map := none }) c) := by
  have none : ((s.proof k).map.bind fun m => s.group? m.1 m.2) = none := Option.bind_eq_none_iff.2 hm
  rw [tretOp, withProof_proof hp]
  simp [h, none]

theorem tretOp_mapped {m : Nat × Nat} {g : Group} (hm : (s.proof k).map = some m) (hg : s.group? m.1 m.2 = some g) : tretOp s f = .next (
    let t := s.setProof { s.proof k with map := none }
    State.finish (if g.inTrap then f (t.dropHeld (.group g.core g.slot)) g else t) c) := by
  rw [tretOp, withProof_proof hp]
  simp [h, hm, hg]

end Tret

end Instructions

/-! ### The obligation -/

/-- Settles O36: the window is as its lemmas say, and each instruction answers by the code of its access or by the slot that is mapped. -/
theorem debugInstructionsComplete : Obligations.DebugInstructionsComplete := by
  refine ⟨debugWindow_holds, fun s c k hp d a => ⟨fun core slot hc hs h => ?dbgmap, dbgmap_unlisted hp d, dbgmapU_unmaps hp d, fun wd m => ?access⟩,
    fun s c k hp h => ⟨exec_tret.trans (tretOp_waits hp h), exec_tretExit.trans (tretOp_waits hp h)⟩, fun s c k hp h => ?tret⟩
  case dbgmap =>
    refine ⟨fun g r hg hr => ?_, fun hg => ?_, fun g hg hr => ?_, fun g hg hx hr => ?_⟩
    · exact dbgmap_slot hp d hc hs h (hg ▸ mapCode_trapped hr)
    · exact dbgmap_slot hp d hc hs h (hg ▸ rfl)
    · exact dbgmap_slot hp d hc hs h (hg ▸ mapCode_exited hr)
    · exact dbgmap_slot hp d hc hs h (hg ▸ mapCode_other hx hr)
  case access =>
    exact ⟨fun hm wr => debugCode_unmapped (fun at_ h => nomatch hm.symm.trans h) wr _ _,
      fun la => ⟨fun hc at_ hm => dbgrd_reads hp wd d a m rfl la hc hm, dbgrd_refused hp wd d a m rfl la⟩,
      fun hc at_ hm => dbgwr_writes hp wd d a m rfl hc hm, dbgwr_refused hp wd d a m rfl⟩
  case tret =>
    refine ⟨fun m g hm hg hr => ?running, fun m hm hg => ?gone, fun m g r hm hg hr => ?trapped, fun hm => ?unmapped⟩
    case running =>
      have out : ¬ g.inTrap = true := fun ht => (inTrap_iff.1 ht).elim hr
      have answers (f : State → Group → State) := tretOp_mapped hp h (f := f) hm hg
      simp only [out, Bool.false_eq_true, if_false] at answers
      exact ⟨exec_tret.trans (answers _), exec_tretExit.trans (answers _)⟩
    case gone =>
      have none : ∀ n, (s.proof k).map = some n → s.group? n.1 n.2 = none := fun n hn => by
        cases hm.symm.trans hn
        exact hg
      exact ⟨exec_tret.trans (tretOp_unmapped hp h none), exec_tretExit.trans (tretOp_unmapped hp h none)⟩
    case trapped =>
      have answers (f : State → Group → State) := tretOp_mapped hp h (f := f) hm hg
      simp only [inTrap_iff.2 ⟨r, hr⟩, if_true] at answers
      exact ⟨exec_tret.trans (answers _), exec_tretExit.trans (answers _)⟩
    case unmapped =>
      have none : ∀ n, (s.proof k).map = some n → s.group? n.1 n.2 = none := fun n hn => nomatch hm.symm.trans hn
      exact ⟨exec_tret.trans (tretOp_unmapped hp h none), exec_tretExit.trans (tretOp_unmapped hp h none)⟩

end Sys2Proof.Machine
end

section
/-! PROOFS. Vector loads and stores (01 R22, R23, 03 R81, 04 R92, R100, R101, 08 R181 to R187, 18 R390): the checks of an access, what each
check that fails or holds back does to an instruction, and what the instruction puts in flight. -/

namespace Sys2Proof.Machine

open Sys2Proof.Claims

/-! ### When an access may issue (04 R100, R101, 14 R296) -/

theorem maxL_le {xs : List Nat} {n : Nat} : maxL xs ≤ n ↔ ∀ x ∈ xs, x ≤ n := by
  have bounds (ys : List Nat) (m : Nat) : ys.foldl max m ≤ n ↔ m ≤ n ∧ ∀ y ∈ ys, y ≤ n := by
    induction ys generalizing m with
    | nil => simp
    | cons y ys ih => simp only [List.foldl_cons, ih, List.forall_mem_cons, Nat.max_le, and_assoc]
  rw [maxL, bounds]
  simp

theorem maxL_map_le {α : Type} {xs : List α} {f : α → Nat} {n : Nat} : maxL (xs.map f) ≤ n ↔ ∀ x ∈ xs, f x ≤ n := by
  rw [maxL_le, List.forall_mem_map]

theorem orderHold_le {s : State} {a : Agent} {rel : Bool} {lat n : Nat} : s.orderHold a rel lat ≤ n ↔ ∀ l ∈ s.locals, l.agent = a →
    (l.acq = true → l.due + 3 ≤ n + lat) ∧ (rel = true → l.due + 2 ≤ n + lat) ∧ (l.op.isDebug = true → l.due + 3 ≤ n + lat) := by
  have release : (if rel = true then maxL ((s.localsOf a).map fun l => l.due + 2 - lat) else 0) ≤ n ↔
      ∀ l ∈ s.locals, l.agent = a → rel = true → l.due + 2 ≤ n + lat := by
    cases rel with
    | false => simp
    | true => simp [State.localsOf, maxL_map_le]
  simp only [State.orderHold, Nat.max_le, release, maxL_map_le]
  simp only [State.localsOf, List.mem_filter, beq_iff_eq, and_imp, Nat.sub_le_iff_le_add]
  exact ⟨fun ⟨debug, acq, release⟩ l hl ha => ⟨acq l hl ha, release l hl ha, debug l hl ha⟩,
    fun h => ⟨fun l hl ha => (h l hl ha).2.2, fun l hl ha => (h l hl ha).1, fun l hl ha => (h l hl ha).2.1⟩⟩

theorem ownPending_iff {s : State} {a : Agent} {key n : Nat} : s.ownPending a key n = true ↔
    ∃ l ∈ s.locals, l.agent = a ∧ l.op.writes = true ∧ l.addr < key + n ∧ key < l.addr + l.size := by
  simp [State.ownPending, State.localsOf, and_assoc]

section Wait
variable {s : State} {c : Cur} {g : Group} (hc : c.agent = .group g.core g.slot) (hg : s.group? g.core g.slot = some g)
include hc hg

theorem retryAt_group (n : Nat) : s.retryAt c n = s.setGroup { g with lastIssue := c.last, notBefore := max n (s.cycle + 1) } := by
  simp only [State.retryAt, hc, hg]

theorem waitAgain_group (w : Wait) : s.waitAgain c w = s.setGroup { g with run := .waiting w, lastIssue := c.last } := by
  have found : (s.setGroup { g with run := .waiting w }).group? g.core g.slot = some { g with run := .waiting w } :=
    group?_setGroup_self (g := { g with run := .waiting w }) hg
  simp only [State.waitAgain, State.wait, State.unissue, hc, hg, found]
  exact setGroup_setGroup rfl rfl

end Wait

/-! ### The steps of R181 -/

section Step
variable {s : State} {g : Group} {acc : List Nat} {store plain8 : Bool} {a n : Nat}

theorem addrStep_closed (h : a / 2 ^ 28 % 16 ∉ acc) : s.addrStep g acc store plain8 a n = 1 := by
  have shut : (!acc.any (· == a / 2 ^ 28 % 16)) = true := by
    simp only [Bool.not_eq_true', List.any_eq_false, beq_iff_eq]
    exact fun x hx e => h (e ▸ hx)
  exact if_pos shut

theorem addrStep_open (h : a / 2 ^ 28 % 16 ∈ acc) : s.addrStep g acc store plain8 a n =
    match s.aperture g a with
    | .none => 1
    | .absent => 2
    | .region r =>
      if a % n ≠ 0 ∨ (a / 2 ^ 28 % 16 = 8 ∧ !plain8) then 3
      else if r.size < a % 2 ^ 28 + n then 4
      else if s.early store r.core (r.base + a % 2 ^ 28) n then 5
      else 0 := by
  have here : ¬ (!acc.any (· == a / 2 ^ 28 % 16)) = true := by simpa using h
  exact if_neg here

theorem addrStep_le (s : State) (g : Group) (acc : List Nat) (store plain8 : Bool) (a n : Nat) : s.addrStep g acc store plain8 a n ≤ 5 := by
  unfold State.addrStep
  dsimp only
  repeat' split
  all_goals decide

theorem early_iff {core lo : Nat} : s.early store core lo n = true ↔
    ∃ e ∈ s.chases, (e.span.dest = true ∨ store = true) ∧ e.span.core = core ∧ lo < e.span.hi ∧ e.span.lo < lo + n := by
  simp [State.early, Span.overlaps, and_assoc]

end Step

/-! ### The regions of 01 R22 and R23 -/

section Aperture
variable {s : State} {g : Group} {t : Team} {a : Nat} (ht : s.team? g.team = some t)
include ht

omit ht in
/-- A team's folio on a core where it sits. -/
theorem folioOn_seated {core lat : Nat} (h : (t.seat? core).isSome = true) :
    t.folioOn core lat = { core := core, base := t.base core, size := t.krec.folio, lat := lat } := by
  obtain ⟨x, hx⟩ := Option.isSome_iff_exists.1 h
  simp [Team.folioOn, Team.base, hx]

omit ht in
/-- The partner's seat is the team's seat on the partner's core. -/
theorem seat?_partner {x : Seat} {core : Nat} (h : t.partner? core = some x) (hk : x.core ≠ core) : t.seat? x.core = some x := by
  unfold Team.partner? at h
  unfold Team.seat?
  rw [List.find?_eq_some_iff_append] at h ⊢
  obtain ⟨-, before, after, hs, hb⟩ := h
  refine ⟨by simp, before, after, hs, fun y hy => ?_⟩
  have same : y.core = core := by simpa using hb y hy
  simp only [Bool.not_eq_true', beq_eq_false_iff_ne]
  omega

omit ht in
theorem peer?_seat {u : Team} {core : Nat} (h : s.peer? t core = some u) : (u.seat? core).isSome = true := by
  unfold State.peer? at h
  split at h
  · cases h
  · have := List.find?_some h
    simp only [Bool.and_eq_true] at this
    exact this.2

/-- Apertures 0x0 and 0x8 are the group's own folio. -/
theorem aperture_folio (seated : (t.seat? g.core).isSome = true) (h : a / 2 ^ 28 % 16 = 0 ∨ a / 2 ^ 28 % 16 = 8) :
    s.aperture g a = .region { core := g.core, base := t.base g.core, size := t.krec.folio, lat := 20 } := by
  simp only [State.aperture, ht]
  rw [if_pos h, folioOn_seated seated]

theorem aperture_window (h : a / 2 ^ 28 % 16 = 1) :
    s.aperture g a = .region { core := g.core, base := g.win, size := g.vregs * 4 * g.width, lat := 20 } := by
  simp only [State.aperture, ht]
  rw [if_neg (by omega), if_pos h]

theorem aperture_scalars (h : a / 2 ^ 28 % 16 = 2) :
    s.aperture g a = .region { core := g.core, base := g.sblk, size := 1024, lat := 20 } := by
  simp only [State.aperture, ht]
  rw [if_neg (by omega), if_neg (by omega), if_pos h]

/-- Aperture 0x3 is the partner's folio, and empty for a team without a partner. -/
theorem aperture_pair (h : a / 2 ^ 28 % 16 = 3) : s.aperture g a =
    match t.partner? g.core with
    | some x => .region { core := x.core, base := x.folio, size := t.krec.folio, lat := 34 }
    | none => .region { core := g.core, base := 0, size := 0, lat := 34 } := by
  simp only [State.aperture, ht]
  rw [if_neg (by omega), if_neg (by omega), if_neg (by omega), if_pos h] <;> cases t.partner? g.core <;> rfl

/-- Apertures 0x4 to 0x7 name the cores of the cluster. -/
theorem aperture_core (h : 4 ≤ a / 2 ^ 28 % 16) (h' : a / 2 ^ 28 % 16 ≤ 7) : s.aperture g a =
    (let k := 4 * (g.core / 4) + (a / 2 ^ 28 % 16 - 4)
    if k = g.core then .region (t.folioOn k 20)
    else if (t.partner? g.core).any (·.core == k) then .region (t.folioOn k 34)
    else ((s.peer? t k).map fun u => Aperture.region (u.folioOn k (if k / 2 = g.core / 2 then 34 else 60))).getD .absent) := by
  simp only [State.aperture, ht]
  rw [if_neg (by omega), if_neg (by omega), if_neg (by omega), if_neg (by omega), if_pos ⟨h, h'⟩]
  simp only [clusterOf]
  cases s.peer? t (4 * (g.core / 4) + (a / 2 ^ 28 % 16 - 4)) <;> rfl

theorem aperture_closed (h : 9 ≤ a / 2 ^ 28 % 16) : s.aperture g a = .none := by
  simp only [State.aperture, ht]
  rw [if_neg (by omega), if_neg (by omega), if_neg (by omega), if_neg (by omega), if_neg (by omega)]

end Aperture

/-! ### What fails, is held back, or meets an uncorrectable word -/

/-- The least of some numbers, found by going through them. -/
theorem foldl_min_eq {α : Type} {f : α → Nat} {xs : List α} {b m : Nat} (hx : ∀ x ∈ xs, m ≤ f x) (hb : m ≤ b)
    (h : b = m ∨ ∃ x ∈ xs, f x = m) : xs.foldl (fun a x => min a (f x)) b = m := by
  induction xs generalizing b with
  | nil => simpa using h
  | cons x xs ih =>
    have here := hx x List.mem_cons_self
    refine ih (fun z hz => hx z (List.mem_cons_of_mem _ hz)) (le_min hb here) ?_
    obtain rfl | ⟨z, hz, e⟩ := h
    · exact .inl (Nat.min_eq_left here)
    · obtain rfl | hz := List.mem_cons.1 hz
      · exact .inl ((congrArg _ e).trans (Nat.min_eq_right hb))
      · exact .inr ⟨z, hz, e⟩

/-- The first poisoned word that some bytes meet. -/
theorem badKey_eq {s : State} {a n w : Nat} (hw : w ∈ s.poison) (hl : 8 * w < a + n) (hh : a < 8 * w + 8)
    (low : ∀ v ∈ s.poison, 8 * v < a + n → a < 8 * v + 8 → w ≤ v) : s.badKey a n = some (8 * w) := by
  have mem : w ∈ s.poison.filter fun w => decide (8 * w < a + n) && decide (a < 8 * w + 8) := by simp [hw, hl, hh]
  have all : ∀ v ∈ s.poison.filter (fun w => decide (8 * w < a + n) && decide (a < 8 * w + 8)), w ≤ v := by
    simpa using low
  unfold State.badKey
  split
  · next e => rw [e] at mem; cases mem
  · next v vs e =>
    rw [e, List.mem_cons] at mem
    rw [e, List.forall_mem_cons] at all
    exact congrArg (fun x => some (8 * x)) (foldl_min_eq (f := id) all.2 all.1 (mem.imp Eq.symm fun hw => ⟨w, hw, rfl⟩))

section Instruction
variable {s k : State} {c : Cur} {i : Instr}

theorem takesUncorr_of_sound {rs : List (Nat × Nat)} (h : exec i s = .next (s.sound c rs k)) : TakesUncorr s c rs i := by
  intro r w hr hw hl hh low
  obtain ⟨-, before, after, hs, hb⟩ := List.find?_eq_some_iff_append.1 hr
  have none : before.findSome? (fun r => (s.badKey r.1 r.2).map fun k => keyOff k / 16 * 16) = none := by
    rw [List.findSome?_eq_none_iff]
    intro x hx
    rw [badKey_none (by simpa using hb x hx)]
    rfl
  have bad : s.badRead rs = some (8 * w % 2 ^ 22 / 16 * 16) := by
    rw [State.badRead, hs, List.findSome?_append, none, Option.none_or, List.findSome?_cons, badKey_eq hw hl hh low]
    rfl
  rw [h, sound_bad bad]
  rfl

theorem heldBack_of_ordered {rel : Bool} {lat : Nat} (h : exec i s = .next (s.ordered c rel lat k)) : HeldBack s c rel lat i :=
  fun hold => h.trans (congrArg _ (ordered_held hold))

variable {g : Group} {acc : List Nat} {store plain8 : Bool} {n : Nat} {as : List (Nat × Nat)}

/-- The lanes that fail the lowest step that any lane fails. -/
theorem laneFails_some {m : Nat} {x : Nat × Nat} (hm : m ≠ 0)
    (low : ∀ y ∈ as, s.addrStep g acc store plain8 y.2 n = 0 ∨ m ≤ s.addrStep g acc store plain8 y.2 n)
    (hx : as.find? (fun y => s.addrStep g acc store plain8 y.2 n == m) = some x) : s.laneFails g acc store plain8 n as =
      some (m, x.2, maskOf ((as.filter fun y => s.addrStep g acc store plain8 y.2 n == m).map (·.1))) := by
  let step := fun y : Nat × Nat => s.addrStep g acc store plain8 y.2 n
  let tag := fun y : Nat × Nat => (y, step y)
  have found : step x = m := by simpa using List.find?_some hx
  have fails : (as.map tag).filter (·.2 != 0) = (as.filter fun y => step y != 0).map tag := by
    rw [List.filter_map]
    rfl
  have deciding : (((as.filter fun y => step y != 0).map tag).foldl (fun m k => min m k.2) 9) = m := by
    rw [List.foldl_map]
    refine foldl_min_eq (fun y hy => ?_) (found ▸ (addrStep_le s g acc store plain8 x.2 n).trans (by decide))
      (.inr ⟨x, List.mem_filter.2 ⟨List.mem_of_find?_eq_some hx, by simpa [found] using hm⟩, found⟩)
    have := List.mem_filter.1 hy
    exact (low y this.1).resolve_left (by simpa using this.2)
  have those : (((as.filter fun y => step y != 0).map tag).filter (·.2 == m)) = (as.filter fun y => step y == m).map tag := by
    rw [List.filter_map, List.filter_filter]
    congr 1
    refine List.filter_congr fun y _ => ?_
    by_cases e : step y = m
    · simp [tag, e, hm]
    · simp [tag, e]
  obtain ⟨rest, hrest⟩ : ∃ rest, as.filter (fun y => step y == m) = x :: rest :=
    List.head?_eq_some_iff.1 ((List.head?_filter ..).trans hx)
  unfold State.laneFails
  dsimp only
  rw [show (as.map fun a => (a, s.addrStep g acc store plain8 a.2 n)) = as.map tag from rfl, fails, deciding, those, hrest]
  simp [tag, step, Function.comp_def]

theorem stepCause_eq {m : Nat} (h : m ≠ 0) (hm : m ≤ 5) : stepCause m = [0, 0x06, 0x08, 0x05, 0x06, 0x07].getD m 0 := by
  interval_cases m
  · exact absurd rfl h
  all_goals rfl

theorem trapsAt_of_checked (h : exec i s = .next (s.checked c g acc store plain8 n as k)) : TrapsAt s c g acc store plain8 n as i := by
  intro m x hm low hx
  have found : s.addrStep g acc store plain8 x.2 n = m := by simpa using List.find?_some hx
  have cause := stepCause_eq hm (found ▸ addrStep_le s g acc store plain8 x.2 n)
  rw [h, State.checked, laneFails_some hm low hx, ← cause]

end Instruction

/-! ### Loads and stores -/

/-- What a vector load that passes its checks leaves: its lanes' reads in flight, and its commit (08 R184, R186). -/
def loaded (s : State) (c : Cur) (g : Group) (d : VReg) (n : Nat) (la : BitVec 4) (sx : Bool) (as : List (Nat × Nat)) : State :=
  if as = [] then s.finish c
  else State.launchLocals (State.later { s with uid := s.uid + 1 } c (s.latOf g as) la.toNat id) (as.map fun x =>
    { uid := s.uid, agent := c.agent, due := s.cycle + (s.locate g x.2).2 - 2, commit := s.uid + 1, addr := (s.locate g x.2).1
      size := n, acq := false, op := .load sx (laneDst g d.toNat x.1 n) none })

/-- What a vector store that passes its checks leaves: its lanes' writes in flight (08 R185 to R187). -/
def stored (s : State) (c : Cur) (g : Group) (d : VReg) (n : Nat) (u : Bool) (as : List (Nat × Nat)) : State :=
  State.launchLocals (State.finish { s with uid := s.uid + 1 } c) (as.map fun x =>
    { uid := s.uid, agent := c.agent, due := s.cycle + (s.locate g x.2).2 - 1, commit := 0, addr := (s.locate g x.2).1, size := n
      acq := false, op := apStore (u && wholeWord as x.2) x.2 (storeValue s g d.toNat x.1 n % 2 ^ (8 * n)) n })

section Access
variable {s : State} {c : Cur} {g : Group} (hg : s.GroupIssuing c g) (gd : MReg) (d : VReg) (a : SReg)
include hg

theorem vectorLoad_group (la : BitVec 4) (md : VMode) (wd : Width) (sx : Bool) (disp : Nat) : vectorLoad s gd la md wd sx d a disp = .next (
    let as := lanesAt (g.lanes gd) (vaddr s g md (baseOf s c.agent a disp) (wsize wd))
    s.checked c g apAll false (wd == .w) (wsize wd) as <| s.ordered c false (min (s.latOf g as) 20) <|
      s.sound c (s.runsAt g (wsize wd) as) <| loaded s c g d (wsize wd) la sx as) := by
  rw [vectorLoad, withGroup_group hg]
  simp only [loaded, List.isEmpty_iff]
  rfl

theorem vectorStore_group (off : Option VReg) (wd : Width) (disp : Nat) : vectorStore s gd off wd d a disp = .next (
    let md : VMode := match off with
      | some b => .offset b
      | none => .unit
    let as := lanesAt (g.lanes gd) (vaddr s g md (baseOf s c.agent a disp) (wsize wd))
    s.checked c g apAll true (wd == .w) (wsize wd) as <| s.ordered c (as.any (countsAt off.isNone as)) 20 <|
      stored s c g d (wsize wd) off.isNone as) :=
  withGroup_group hg _

end Access

section Goes
variable {s : State} {c : Cur} {g : Group} {d : VReg} {n : Nat} {plain8 : Bool} {as : List (Nat × Nat)} {i : Instr}

/-- An instruction that is a checked vector load traps, is held back, or goes in flight. -/
theorem load_goes {la : BitVec 4} {sx : Bool} (hi : exec i s = .next (s.checked c g apAll false plain8 n as <|
      s.ordered c false (min (s.latOf g as) 20) <| s.sound c (s.runsAt g n as) <| loaded s c g d n la sx as)) :
    TrapsAt s c g apAll false plain8 n as i
    ∧ (LanesOk s g false false plain8 n as → HeldBack s c false (min (s.latOf g as) 20) i
      ∧ (Timely s c false (min (s.latOf g as) 20) → TakesUncorr s c (as.map fun x => ((s.locate g x.2).1, n)) i))
    ∧ (LanesOk s g false true plain8 n as → Timely s c false (min (s.latOf g as) 20) → exec i s = .next (loaded s c g d n la sx as)) := by
  refine ⟨trapsAt_of_checked hi, fun ok => ?_, fun ok timely => ?_⟩
  · rw [checked_ok fun x hx => (ok x hx).1] at hi
    exact ⟨heldBack_of_ordered hi, fun timely => takesUncorr_of_sound (hi.trans (congrArg _ (ordered_ok timely)))⟩
  · have sound : ∀ r ∈ s.runsAt g n as, s.poisoned r.1 r.2 = false := List.forall_mem_map.2 fun x hx => (ok x hx).2 rfl
    rw [checked_ok fun x hx => (ok x hx).1, ordered_ok timely, sound_ok sound] at hi
    exact hi

/-- The same of a store. -/
theorem store_goes {u : Bool} (hi : exec i s = .next (s.checked c g apAll true plain8 n as <|
      s.ordered c (as.any (countsAt u as)) 20 <| stored s c g d n u as)) :
    TrapsAt s c g apAll true plain8 n as i
    ∧ (LanesOk s g true false plain8 n as → HeldBack s c (as.any (countsAt u as)) 20 i)
    ∧ (LanesOk s g true false plain8 n as → Timely s c (as.any (countsAt u as)) 20 → exec i s = .next (stored s c g d n u as)) := by
  refine ⟨trapsAt_of_checked hi, fun ok => ?_, fun ok timely => ?_⟩
  · rw [checked_ok fun x hx => (ok x hx).1] at hi
    exact heldBack_of_ordered hi
  · rw [checked_ok fun x hx => (ok x hx).1, ordered_ok timely] at hi
    exact hi

end Goes

/-! ### The obligation -/

/-- Settles O18: a load or store is its checks in their order, and then its accesses in flight. -/
theorem vectorLoadsAndStoresGoInFlight : Obligations.VectorLoadsAndStoresGoInFlight := by
  refine ⟨fun s a rel lat n => orderHold_le, fun s c g n w hc hg => ⟨retryAt_group hc hg n, waitAgain_group hc hg w⟩,
    fun s a key n => ownPending_iff, fun s g acc store plain8 a n => ⟨addrStep_closed, fun here => ?steps⟩,
    fun s g t a ht seated => ?apertures, fun s c g hg gd wd d a => ⟨fun m => ?long, fun w => ?literal⟩⟩
  case steps =>
    rw [addrStep_open here]
    refine ⟨fun h => by rw [h], fun h => by rw [h], fun r h => ⟨fun bad => ?_, fun aligned plain => ⟨fun out => ?_, fun inside => ⟨fun touched => ?_, fun free => ?_⟩⟩⟩⟩
      <;> simp only [h]
    · rw [if_pos (by simpa using bad)]
    all_goals rw [if_neg (by simpa [aligned] using plain)]
    · rw [if_pos out]
    all_goals rw [if_neg (Nat.not_lt.2 inside)]
    · rw [if_pos (early_iff.2 touched)]
    · rw [if_neg fun h => free (early_iff.1 h)]
  case apertures =>
    refine ⟨aperture_folio ht seated, aperture_window ht, aperture_scalars ht, fun h => ⟨fun x hx => ?pair, fun hx => ?alone⟩,
      fun h h' => ⟨fun hk => ?own, fun hk x hx e => ?partner, fun hk hx => ?peer⟩, aperture_closed ht⟩
    case pair => rw [aperture_pair ht h, hx]
    case alone => exact ⟨_, (aperture_pair ht h).trans (by rw [hx]), rfl⟩
    case own =>
      rw [aperture_core ht h h']
      dsimp only
      rw [if_pos hk, hk, folioOn_seated seated]
    case partner =>
      have seat := seat?_partner hx (by omega)
      rw [e] at seat
      rw [aperture_core ht h h']
      dsimp only
      rw [if_neg hk, if_pos (by simp [hx, e]), folioOn_seated (by rw [seat]; rfl), Team.base, seat]
      rfl
    case peer =>
      have other : ¬ (t.partner? g.core).any (·.core == 4 * (g.core / 4) + (a / 2 ^ 28 % 16 - 4)) = true := by
        simpa [Option.any_eq_true] using hx
      rw [aperture_core ht h h']
      dsimp only
      rw [if_neg hk, if_neg other]
      refine ⟨fun u hu => ?_, fun hu => ?_⟩
      · rw [hu, Option.map_some, Option.getD_some, folioOn_seated (peer?_seat hu)]
      · rw [hu]
        rfl
  case long =>
    exact ⟨fun la sx => load_goes (vectorLoad_group hg gd d a la .unit wd sx (dispOf wd m)),
      fun la sx => load_goes (vectorLoad_group hg gd d a la .bcast wd sx (dispOf wd m)),
      fun b => ⟨fun la sx => load_goes (vectorLoad_group hg gd d a la (.offset b) wd sx (dispOf wd m)),
        store_goes (vectorStore_group hg gd d a (some b) wd (dispOf wd m))⟩,
      store_goes (vectorStore_group hg gd d a none wd (dispOf wd m))⟩
  case literal =>
    exact ⟨fun la sx => load_goes (vectorLoad_group hg gd d a la .unit wd sx w.toNat),
      fun la sx => load_goes (vectorLoad_group hg gd d a la .bcast wd sx w.toNat),
      fun b => ⟨fun la sx => load_goes (vectorLoad_group hg gd d a la (.offset b) wd sx w.toNat),
        store_goes (vectorStore_group hg gd d a (some b) wd w.toNat)⟩,
      store_goes (vectorStore_group hg gd d a none wd w.toNat)⟩

end Sys2Proof.Machine
end

section
/-! PROOFS. The frame of accesses and commits (01 R31, 04 R92, 07 R176, 14 R294): what each step of performing an access, of committing a result
and of settling a group leaves of a byte, and of the places that teams hold. -/

namespace Sys2Proof.Machine
open Sys2Proof.Claims

/-! ### One byte and the teams' places -/

/-- A byte reads as before, memory's form is kept, and every team that stands afterwards stood before with its number, its place and its end. -/
structure State.Still (a : Nat) (s t : State) : Prop where
  inv : s.Inv → t.Inv
  byte : s.Inv → t.byte a = s.byte a
  teams : ∀ u ∈ t.teams, ∃ v ∈ s.teams, v.uid = u.uid ∧ v.seats = u.seats ∧ v.krec = u.krec ∧ v.exited = u.exited

/-- A byte lies outside the places of every team that has exited. -/
def State.OutsideExited (s : State) (a : Nat) : Prop := ∀ u ∈ s.teams, u.exited = true → OutsidePlaces u a

namespace State.Still
variable {a : Nat} {s t u : State}

theorem refl (s : State) : s.Still a s := ⟨id, fun _ => rfl, fun u hu => ⟨u, hu, rfl, rfl, rfl, rfl⟩⟩

theorem trans (h : s.Still a t) (k : t.Still a u) : s.Still a u where
  inv hs := k.inv (h.inv hs)
  byte hs := (k.byte (h.inv hs)).trans (h.byte hs)
  teams w hw := by
    obtain ⟨v, hv, uid, seats, krec, exited⟩ := k.teams w hw
    obtain ⟨x, hx, uid', seats', krec', exited'⟩ := h.teams v hv
    exact ⟨x, hx, uid'.trans uid, seats'.trans seats, krec'.trans krec, exited'.trans exited⟩

theorem of_same (mem : t.mem = s.mem) (teams : t.teams = s.teams) : s.Still a t where
  inv hs := inv_of_mem hs mem
  byte _ := by rw [State.byte, mem, State.byte]
  teams u hu := ⟨u, teams ▸ hu, rfl, rfl, rfl, rfl⟩

theorem of_rest (h : s.RestSame t) : s.Still a t := of_same h.mem h.teams

theorem foldl {α : Type} {f : State → α → State} {xs : List α} (h : ∀ s : State, ∀ x ∈ xs, s.Still a (f s x)) (s : State) : s.Still a (xs.foldl f s) := by
  induction xs generalizing s with
  | nil => exact refl s
  | cons x xs ih => exact (h s x List.mem_cons_self).trans (ih (fun s y hy => h s y (List.mem_cons_of_mem _ hy)) (f s x))

theorem outside (h : s.Still a t) (hs : s.OutsideExited a) : t.OutsideExited a := fun u hu hx y hy => by
  obtain ⟨v, hv, -, seats, krec, exited⟩ := h.teams u hu
  exact krec ▸ hs v hv (exited.trans hx) y (seats ▸ hy)

end State.Still

section Single
variable {a : Nat} {s : State}

theorem write_still {cs : List Host.Cell} (h : ∀ c ∈ cs, c.1 ≠ a) : s.Still a (s.write cs) :=
  ⟨write_inv, fun hs => byte_write hs h, (State.Still.refl (a := a) s).teams⟩

theorem memGet_filter {p : Host.Cell → Bool} (h : ∀ b, p (a, b) = true) (m : List Host.Cell) : memGet (m.filter p) a = memGet m a := by
  induction m with
  | nil => rfl
  | cons c m ih =>
    obtain ⟨k, v⟩ := c
    rw [List.filter_cons]
    split
    · simp only [memGet, ih]
    · next hp =>
      have : k ≠ a := fun e => hp (e ▸ h v)
      rw [ih, memGet, if_neg this]

theorem team?_mem {k : Nat} {u : Team} (h : s.team? k = some u) : u ∈ s.teams := List.mem_of_find?_eq_some h

theorem mem_replaceBy {α : Type} {p : α → Bool} {x y : α} {xs : List α} (h : y ∈ replaceBy p x xs) : y = x ∨ y ∈ xs := by
  induction xs with
  | nil => exact .inr h
  | cons z xs ih =>
    unfold replaceBy at h
    split at h
    · exact (List.mem_cons.1 h).imp_right (List.mem_cons_of_mem _)
    · obtain rfl | h := List.mem_cons.1 h
      · exact .inr List.mem_cons_self
      · exact (ih h).imp_right (List.mem_cons_of_mem _)

/-- A team put back with its number, its place and its end. -/
theorem setTeam_still {v u : Team} (hv : v ∈ s.teams) (uid : v.uid = u.uid) (seats : v.seats = u.seats) (krec : v.krec = u.krec) (exited : v.exited = u.exited) :
    s.Still a (s.setTeam u) := by
  refine ⟨id, fun _ => rfl, fun w hw => ?_⟩
  obtain rfl | hw := mem_replaceBy hw
  · exact ⟨v, hv, uid, seats, krec, exited⟩
  · exact ⟨w, hw, rfl, rfl, rfl, rfl⟩

end Single

/-! ### Groups that settle -/

section Settle
variable (a : Nat) (s : State)

theorem release_rest (gs : List Group) : s.RestSame (s.release gs) := by
  unfold State.release
  induction gs generalizing s with
  | nil => exact .refl s
  | cons g gs ih =>
    rw [List.foldl_cons]
    refine State.RestSame.trans ?_ (ih _)
    split
    · exact resume_rest ..
    · exact .refl s

theorem barriers_rest (team : Nat) : s.RestSame (s.barriers team) := by
  unfold State.barriers
  split
  · exact .refl s
  · have some_released : ∀ (b : Bool) (t : State) (gs : List Group), t.RestSame (if b = true then t.release gs else t) := fun b t gs => by
      cases b
      · exact .refl t
      · exact release_rest t gs
    exact (some_released ..).trans (some_released ..)

theorem stopGroup_still (k n : Nat) (x : StopKind) (r : Option TrapRec) : s.Still a (s.stopGroup k n x r) := by
  unfold State.stopGroup
  split
  · exact .refl s
  · exact .of_same rfl rfl

theorem safeptEnd_still (c : Cur) (i : Nat) : s.Still a (s.safeptEnd c i) := by
  refine (State.Still.of_rest (resume_rest s c)).trans ?_
  unfold State.safeptEnd
  dsimp only
  split
  · exact .refl _
  · split
    · exact .refl _
    · split
      · exact stopGroup_still ..
      · exact .refl _

theorem postFault_still (part : Nat) (r : FaultRec) : s.Still a (s.postFault part r) := by
  unfold State.postFault
  split
  · exact .refl s
  · dsimp only
    split
    · exact .refl s
    · split <;> split <;> exact .of_same rfl rfl

theorem handTrap_still (team cause : Nat) (x y : DWord) : s.Still a (s.handTrap team cause x y) := by
  unfold State.handTrap
  refine State.Still.trans (t := match s.team? team with | some t => s.setTeam { t with hand := none } | none => s) ?_ ?_
  · split
    · next ht => exact setTeam_still (team?_mem ht) rfl rfl rfl rfl
    · exact .refl s
  · refine State.Still.foldl (fun s g _ => ?_) _
    split
    · exact .of_rest (trapAt_rest ..)
    · exact .refl s

theorem handCheck_still (team : Nat) : s.Still a (s.handCheck team) := by
  unfold State.handCheck
  split
  · exact .refl s
  · next t ht =>
    dsimp only
    split
    · exact .refl s
    · split
      · split
        · exact handTrap_still ..
        · split
          · exact handTrap_still ..
          · exact .refl s
          · exact (postFault_still ..).trans (handTrap_still ..)
          · exact setTeam_still (team?_mem ht) rfl rfl rfl rfl
      · exact .refl s

theorem handArrive_still (k n : Nat) : s.Still a (s.handArrive k n) := by
  unfold State.handArrive
  split
  · exact .refl s
  · split
    · split
      · exact (State.Still.of_rest (setGroup_rest ..)).trans (handCheck_still ..)
      · exact .refl s
    · exact .refl s

theorem settleGroup_still (k n : Nat) : s.Still a (s.settleGroup k n) := by
  refine (State.Still.of_rest (settleTrap_rest s k n)).trans ?_
  unfold State.settleGroup
  dsimp only
  split
  · exact .refl _
  · split
    · split
      · exact safeptEnd_still ..
      · exact .refl _
    · exact handArrive_still ..
    · exact .of_rest (barriers_rest ..)
    · exact .of_rest (barriers_rest ..)
    · exact .refl _

end Settle

/-! ### Accesses -/

section Access
variable {a : Nat} {s : State}

theorem fire_still (word : Nat) : s.Still a (s.fire word) := .foldl (fun _ _ _ => .of_rest (setGroup_rest ..)) s

theorem mem_cellsFrom_passTarget {word count gen target flags : Nat} {z : List Host.Cell} (hz : ∀ c ∈ z, c.1 < 16) {c : Host.Cell}
    (h : c ∈ cellsFrom word (passTarget count gen target flags z)) : word ≤ c.1 ∧ c.1 < word + 16 := by
  obtain ⟨d, hd, rfl⟩ := List.mem_map.1 h
  simp only [passTarget, List.mem_append] at hd
  have : d.1 < 16 := by
    obtain ((hd | hd) | hd) | hd := hd
    · exact hz d hd
    all_goals have := mem_cellsLE hd; omega
  exact ⟨Nat.le_add_right .., by dsimp only; omega⟩

theorem mem_cellsFrom_two {word o n x p m y : Nat} (ho : o + n ≤ 16) (hp : p + m ≤ 16) {c : Host.Cell}
    (h : c ∈ cellsFrom word (cellsLE o n x ++ cellsLE p m y)) : word ≤ c.1 ∧ c.1 < word + 16 := by
  obtain ⟨d, hd, rfl⟩ := List.mem_map.1 h
  have : d.1 < 16 := by
    obtain hd | hd := List.mem_append.1 hd <;> have := mem_cellsLE hd <;> omega
  exact ⟨Nat.le_add_right .., by dsimp only; omega⟩

variable {word : Nat} (h : a < word ∨ word + 16 ≤ a)
include h

theorem countAdd_still (n flags : Nat) : s.Still a (s.countAdd word n flags) := by
  unfold State.countAdd
  dsimp only
  split
  · exact write_still fun c hc => by have := mem_cellsFrom_two (by decide) (by decide) hc; omega
  · have pass : s.Still a (s.write (cellsFrom word (passTarget ((s.le (word + 4) 4 + n) % 2 ^ 32) (s.le (word + 8) 4) (s.le word 4)
        (s.le (word + 12) 4 ||| flags) []))) :=
      write_still fun c hc => by have := mem_cellsFrom_passTarget (by simp) hc; omega
    split
    · exact pass.trans (fire_still word)
    · exact pass

theorem initWord_still (target : Nat) : s.Still a (s.initWord word target) := by
  unfold State.initWord
  dsimp only
  split
  · exact write_still fun c hc => by have := mem_cellsFrom_two (by decide) (by decide) hc; omega
  · have pass : s.Still a (s.write (cellsFrom word (passTarget (s.le (word + 4) 4) (s.le (word + 8) 4) target
        (s.le (word + 12) 4 / 16 * 16 + 1) (cellsLE 0 4 target)))) :=
      write_still fun c hc => by
        have := mem_cellsFrom_passTarget (fun d hd => by have := mem_cellsLE hd; omega) hc
        omega
    split
    · exact pass.trans (fire_still word)
    · exact pass

end Access

section Debug
variable {a : Nat}

theorem setDebugWord_still (s : State) (g : Group) (o x : Nat) : s.Still a (s.setDebugWord g o x) := by
  unfold State.setDebugWord
  iterate 7
    split
    · exact .of_rest (setGroup_rest ..)
  split
  · split
    · next ht => exact setTeam_still (team?_mem ht) rfl rfl rfl rfl
    · exact .refl s
  · exact .refl s

theorem setDebugByte_still (s : State) (core slot : Nat) (b : Nat × Byte) : s.Still a (s.setDebugByte core slot b) := by
  unfold State.setDebugByte
  split
  · exact .refl s
  · split
    · exact setDebugWord_still ..
    · exact .refl s

theorem debugWrite_still {s : State} {core slot : Nat} {bs : List (Nat × Byte)} (h : ∀ c ∈ s.debugCells core slot bs, c.1 ≠ a) :
    s.Still a (s.debugWrite core slot bs) :=
  (write_still h).trans (.foldl (fun s b _ => setDebugByte_still s core slot b) _)

end Debug

/-- Bytes that a debug access names lie at its offsets, s0's left out. -/
theorem mem_debugCells_cellsAt {s : State} {core slot o : Nat} {bs : List Byte} {c : Host.Cell} (h : c ∈ s.debugCells core slot (cellsAt o bs)) :
    ∃ g, s.group? core slot = some g ∧ ∃ i < bs.length, ¬ (0x10000 ≤ o + i ∧ o + i < 0x10008) ∧ s.debugKey g (o + i) = some c.1 := by
  cases hg : s.group? core slot with
  | none => simp [State.debugCells, hg] at h
  | some g =>
    obtain ⟨y, hy, hz, hk, -⟩ := (mem_debugCells hg).1 h
    obtain ⟨i, hi, hy⟩ := mem_cellsAt_iff.1 hy
    exact ⟨g, rfl, i, nth_lt hi, hy ▸ hz, hy ▸ hk⟩

section Perform
variable {a : Nat} {s : State} {l : Local}

theorem performOne_still (h : ∀ k n, writtenBytes l = some (k, n) → a < k ∨ k + n ≤ a) : s.Still a (s.performOne l) := by
  unfold State.performOne
  unfold writtenBytes at h
  split
  · exact .of_same rfl rfl
  · next e =>
    rw [e] at h
    exact write_still fun c hc => by have := mem_cellsAt hc; have := h _ _ rfl; omega
  · next e =>
    rw [e] at h
    exact countAdd_still (h _ _ rfl) ..
  · exact .of_same rfl rfl
  · next e =>
    rw [e] at h
    exact initWord_still (h _ _ rfl) ..
  · next e =>
    rw [e] at h
    refine (write_still (cs := cellsLE l.addr l.size _) fun c hc => ?_).trans (.of_same rfl rfl)
    have := mem_cellsLE hc
    have := h _ _ rfl
    omega
  · exact .refl s

theorem performAny_still (hd : isDebug l = false) (h : ∀ k n, writtenBytes l = some (k, n) → a < k ∨ k + n ≤ a) : s.Still a (s.performAny l) := by
  unfold State.performAny
  split
  · next e => simp [isDebug, e] at hd
  · exact performOne_still h

theorem performAny_debug_still {core slot o reg : Nat} {w : Option (List Byte)} (e : l.op = .debug core slot o w reg)
    (h : ∀ g bs, s.group? core slot = some g → w = some bs → ∀ i < bs.length, s.debugKey g (o + i) = some a →
      0x10000 ≤ o + i ∧ o + i < 0x10008) : s.Still a (s.performAny l) := by
  simp only [State.performAny, e]
  cases w with
  | none =>
    dsimp only
    split <;> exact .of_same rfl rfl
  | some bs =>
    refine debugWrite_still fun c hc hca => ?_
    obtain ⟨g, hg, i, hi, hz, hk⟩ := mem_debugCells_cellsAt hc
    exact hz (h g bs hg rfl i hi (hca ▸ hk))

theorem performAll_still {ls : List Local} (h : ∀ s : State, ∀ l ∈ ls, s.Still a (s.performAny l)) : s.Still a (s.performAll ls) :=
  (State.Still.foldl h s).trans (.of_same rfl rfl)

end Perform

/-! ### Exited teams -/

section Reap
variable {a : Nat}

theorem clearLig_still {s : State} {core : Nat} (h : a < valueKey core 0 ∨ valueKey core 16384 ≤ a) : s.Still a (s.clearLig core) where
  inv hs := filter_wf hs
  byte _ := memGet_filter (fun _ => by
    simp only [Bool.not_eq_true', Bool.and_eq_false_iff, decide_eq_false_iff_not]
    omega) s.mem
  teams u hu := ⟨u, hu, rfl, rfl, rfl, rfl⟩

theorem reap_still {s : State} {k : Nat} (hs : ∀ u, s.team? k = some u → u.exited = true → OutsidePlaces u a) : s.Still a (s.reap k) := by
  unfold State.reap
  split
  · exact .refl s
  · next u hu =>
    split
    · exact .refl s
    · next hx =>
      have exited : u.exited = true := by simp at hx; exact hx.1
      have seats : ∀ t : State, ∀ x ∈ u.seats, t.Still a (if t.ligs.any fun e => e.core == x.core && e.team == some k then
          { t.clearLig x.core with ligs := (t.clearLig x.core).ligs.filter fun e => e.core != x.core } else t) := fun t x hx => by
        split
        · exact (clearLig_still (hs u hu exited x hx).2.2).trans (.of_same rfl rfl)
        · exact .refl t
      refine (State.Still.foldl seats s).trans ⟨id, fun _ => rfl, fun v hv => ⟨v, (List.mem_filter.1 hv).1, rfl, rfl, rfl, rfl⟩⟩

theorem reapExited_still {s : State} (hs : s.OutsideExited a) : s.Still a s.reapExited := by
  unfold State.reapExited
  generalize s.teams.filter (·.exited) = us
  induction us generalizing s with
  | nil => exact .refl s
  | cons u us ih =>
    have first : s.Still a (s.reap u.uid) := reap_still fun v hv => hs v (team?_mem hv)
    exact first.trans (ih (first.outside hs))

theorem afterAccesses_still {s : State} (hs : s.OutsideExited a) (now : List Local) : s.Still a (s.afterAccesses now) := by
  have woken : s.Still a s.wakeOwn := .foldl (fun _ _ _ => .of_rest (setGroup_rest ..)) s
  have settled := woken.trans (.foldl (xs := groupsOf (now.map (·.agent))) (fun s k _ => settleGroup_still a s k.1 k.2) _)
  exact settled.trans (reapExited_still (settled.outside hs))

/-- An access event changes a byte only through its accesses. -/
theorem localAccessPerform_still {s t : State} {uid : Nat} (h : exec (.localAccessPerform uid) s = .next t) (hs : s.OutsideExited a)
    (perform : (s.withoutDue uid).Still a ((s.withoutDue uid).performAll (s.localsDue uid))) : s.Still a t := by
  obtain rfl | rfl := localAccessPerform_next h
  · exact .refl t
  · have taken : s.Still a (s.withoutDue uid) := .of_same rfl rfl
    have performed := taken.trans perform
    exact performed.trans (afterAccesses_still (performed.outside hs) _)

end Reap

/-! ### Commits -/

section Commit
variable {a : Nat} {s : State} {m : Commit}

theorem applyCommit_still (h : ∀ x ∈ m.cells, x.1 ≠ a) : s.Still a (s.applyCommit m) := by
  have regs : ∀ t : State, t.Still a (match m.agent with
      | .proof _ => m.regs.foldl (fun (s : State) (r : Nat × DWord) => s.setSregA m.agent r.1 r.2) t
      | .group .. => t) := fun t => by
    split
    · next k hk =>
      refine .foldl (fun s r _ => ?_) t
      rw [hk, State.setSregA]
      split <;> exact .of_same rfl rfl
    · exact .refl t
  have formes : ∀ t : State, t.Still a (m.formes.foldl (fun s f =>
      match s.team? f.1 with
      | some t => s.setTeam { t with formes := t.formes.setIfInBounds f.2.1 f.2.2 }
      | none => s) t) := .foldl fun s f _ => by
    split
    · next hu => exact setTeam_still (team?_mem hu) rfl rfl rfl rfl
    · exact .refl s
  have flags : ∀ t : State, t.Still a (t.raiseLate m.agent m.flags) := fun t => by
    unfold State.raiseLate
    split
    · split
      · exact .of_rest (setGroup_rest ..)
      · exact .refl t
    · exact .refl t
  exact (((write_still h).trans (regs _)).trans (formes _)).trans (flags _)

theorem afterCommit_still (s : State) (g : Agent) : s.Still a (s.afterCommit g) := by
  unfold State.afterCommit
  split
  · split
    · exact .of_rest (setGroup_rest ..)
    · exact .refl s
  · exact .of_rest (setProof_rest ..)

theorem lookaheadCommit_still {s t : State} {uid : Nat} (h : exec (.lookaheadCommit uid) s = .next t)
    (hc : ∀ m ∈ s.commits, m.uid = uid → ∀ x ∈ m.cells, x.1 ≠ a) : s.Still a t := by
  obtain rfl | ⟨m, hm, hu, ht⟩ := lookaheadCommit_next h
  · exact .refl t
  · have committed : s.Still a (State.afterCommit (State.applyCommit { s with commits := s.commits.filter (·.uid != uid) } m) m.agent) :=
      ((State.Still.of_rest (commits_rest s _)).trans (applyCommit_still (hc m hm hu))).trans (afterCommit_still ..)
    obtain rfl | ⟨k, n, rfl⟩ := ht
    · exact committed
    · exact committed.trans (settleGroup_still ..)

end Commit

/-! ### The obligation -/

theorem localsDue_mem {s : State} {uid : Nat} {l : Local} (h : l ∈ s.localsDue uid) : l ∈ s.locals ∧ l.uid = uid := by
  simp only [State.localsDue, List.mem_filter, Bool.and_eq_true, beq_iff_eq] at h
  exact ⟨h.1, h.2.1⟩

/-- The due accesses of a number that one access has: that one, or none. -/
theorem localsDue_single {s : State} {uid : Nat} {l : Local} (h : s.locals.filter (·.uid == uid) = [l]) :
    s.localsDue uid = [l] ∨ s.localsDue uid = [] := by
  have : s.localsDue uid = (s.locals.filter (·.uid == uid)).filter fun l => decide (l.due ≤ s.cycle) := by
    simp only [State.localsDue, List.filter_filter, Bool.and_comm]
  rw [this, h, List.filter_singleton]
  by_cases due : l.due ≤ s.cycle
  · exact .inl (by simp [due])
  · exact .inr (by simp [due])

/-- Settles O53: by the chain of what an access or commit event does, each link of which leaves the byte. -/
theorem accessesAndCommitsChangeTheirBytes : Obligations.AccessesAndCommitsChangeTheirBytes := by
  refine fun s t uid hs => ⟨fun h plain a outside ha => ?accesses, fun l core slot o w reg hl hop h a outside ha => ?debug,
    fun h a hc => (lookaheadCommit_still h hc).byte hs⟩
  case accesses =>
    refine (localAccessPerform_still h outside (performAll_still fun u l hl => ?_)).byte hs
    obtain ⟨mem, num⟩ := localsDue_mem hl
    exact performAny_still (plain l mem num) (ha l mem num)
  case debug =>
    refine (localAccessPerform_still h outside ?_).byte hs
    obtain due | due := localsDue_single hl <;> rw [due]
    · have first : (s.withoutDue uid).Still a _ := performAny_debug_still hop ha
      exact first.trans (.of_same rfl rfl)
    · exact .of_same rfl rfl

end Sys2Proof.Machine
end

section
/-! PROOFS. Calm steps (01 R31, 04 R92, 07 R170): the shared operations of an instruction that issues leave memory as it is, and of a group or
a proof core they change only where it stands and when it may issue. -/

namespace Sys2Proof.Machine
open Sys2Proof.Claims

/-! ### What may change -/

/-- Of a group only its program counter, its line and its turn to issue may have changed. -/
def GroupCalm (g h : Group) : Prop :=
  h = { g with pc := h.pc, run := h.run, fresh := h.fresh, checkPc := h.checkPc, lastIssue := h.lastIssue, notBefore := h.notBefore
               held := h.held, line := h.line }

/-- Of a proof core only its program counter, its turn to issue and its trap queue. -/
def ProofCalm (p q : ProofCore) : Prop :=
  q = { p with pc := q.pc, halted := q.halted, wait := q.wait, notBefore := q.notBefore, queue := q.queue, orphovf := q.orphovf }

theorem GroupCalm.refl (g : Group) : GroupCalm g g := rfl
theorem ProofCalm.refl (p : ProofCore) : ProofCalm p p := rfl

theorem GroupCalm.trans {g h i : Group} (a : GroupCalm g h) (b : GroupCalm h i) : GroupCalm g i := by
  unfold GroupCalm at *
  rw [b, a]

theorem ProofCalm.trans {p q r : ProofCore} (a : ProofCalm p q) (b : ProofCalm q r) : ProofCalm p r := by
  unfold ProofCalm at *
  rw [b, a]

/-- Every group and every proof core is calm. -/
structure State.AgentsCalm (s t : State) : Prop where
  groups : ∀ k n h, s.group? k n = some h → ∃ h', t.group? k n = some h' ∧ GroupCalm h h'
  proofs : ∀ k, ProofCalm (s.proof k) (t.proof k)

/-- And memory is as it was. -/
structure State.Calm (s t : State) : Prop extends s.AgentsCalm t where
  mem : t.mem = s.mem

namespace State.AgentsCalm
variable {s t u : State}

theorem trans (h : s.AgentsCalm t) (k : t.AgentsCalm u) : s.AgentsCalm u where
  groups a b g hg := by
    obtain ⟨g', hg', c⟩ := h.groups a b g hg
    obtain ⟨g'', hg'', d⟩ := k.groups a b g' hg'
    exact ⟨g'', hg'', c.trans d⟩
  proofs a := (h.proofs a).trans (k.proofs a)

theorem of_same (groups : t.groups = s.groups) (proofs : t.proofs = s.proofs) : s.AgentsCalm t where
  groups a b g hg := ⟨g, by rwa [State.group?, groups], rfl⟩
  proofs a := by
    rw [show t.proof a = s.proof a by rw [State.proof, State.proof, proofs]]
    rfl

end State.AgentsCalm

namespace State.Calm
variable {s t u : State}

theorem of_same (groups : t.groups = s.groups) (proofs : t.proofs = s.proofs) (mem : t.mem = s.mem) : s.Calm t :=
  ⟨.of_same groups proofs, mem⟩

theorem refl (s : State) : s.Calm s := of_same rfl rfl rfl

theorem trans (h : s.Calm t) (k : t.Calm u) : s.Calm u := ⟨h.toAgentsCalm.trans k.toAgentsCalm, k.mem.trans h.mem⟩

theorem after (k : t.Calm u) (h : s.Calm t) : s.Calm u := h.trans k

theorem foldl {α : Type} {f : State → α → State} (h : ∀ (s : State) x, s.Calm (f s x)) (xs : List α) (s : State) : s.Calm (xs.foldl f s) := by
  induction xs generalizing s with
  | nil => exact refl s
  | cons x xs ih => exact (h s x).trans (ih (f s x))

end State.Calm

/-! ### Groups, proof cores and faults -/

section Basic
variable (s : State) (c : Cur)

theorem setGroup_calm {s : State} {k n : Nat} {g h : Group} (e : s.group? k n = some g) (hc : GroupCalm g h) : s.Calm (s.setGroup h) where
  mem := rfl
  proofs _ := rfl
  groups a b i hi := by
    obtain ⟨rfl, rfl⟩ := group?_slot e
    have core : h.core = g.core := by rw [hc]
    have slot : h.slot = g.slot := by rw [hc]
    by_cases here : a = h.core ∧ b = h.slot
    · obtain ⟨rfl, rfl⟩ := here
      rw [core, slot] at hi
      obtain rfl := Option.some.inj (hi.symm.trans e)
      exact ⟨h, group?_setGroup_self (h := i) (by rw [core, slot]; exact e), hc⟩
    · exact ⟨i, (group?_setGroup_other here).trans hi, rfl⟩

theorem setProof_calm {s : State} {k : Nat} {q : ProofCore} (hc : ProofCalm (s.proof k) q) : s.Calm (s.setProof q) where
  mem := rfl
  groups a b g hg := ⟨g, hg, rfl⟩
  proofs j := by
    have cluster : q.cluster = k := by
      rw [hc]
      exact proof_cluster s k
    by_cases here : j = q.cluster
    · subst here
      rw [proof_setProof_self]
      exact cluster ▸ hc
    · rw [proof_setProof_other here]
      exact .refl _

theorem queueRecord_calm (k : Nat) (nostop : Bool) (r : TrapRec) : s.Calm (s.queueRecord k nostop r) := by
  unfold State.queueRecord
  dsimp only
  split <;> exact setProof_calm (k := k) rfl

theorem settleTrap_calm (k n : Nat) : s.Calm (s.settleTrap k n) := by
  unfold State.settleTrap
  split
  · next hg =>
    split
    · split
      · exact (queueRecord_calm ..).after (setGroup_calm hg rfl)
      · exact .refl s
    · exact .refl s
  · exact .refl s

theorem halt_calm (k : Nat) : s.Calm (s.halt k) :=
  have halted : s.Calm (s.setProof { s.proof k with halted := true, wait := none }) := setProof_calm rfl
  halted.trans (.of_same rfl rfl rfl)

theorem trapAt_calm (pc : DWord) (cause code : Nat) (x y : DWord) : s.Calm (s.trapAt c pc cause code x y) := by
  unfold State.trapAt
  split
  · exact (halt_calm ..).after (setProof_calm rfl)
  · split
    · exact .refl s
    · next hg =>
      have marked : s.Calm { s with commits := s.commits.map fun m => if m.agent == c.agent then { m with left := 0 } else m } :=
        .of_same rfl rfl rfl
      exact (settleTrap_calm ..).after (.after (setGroup_calm hg rfl) marked)

theorem trap_calm (cause : Nat) : s.Calm (s.trap c cause) := trapAt_calm ..
theorem addrTrap_calm (step a : Nat) : s.Calm (s.addrTrap c step a) := trapAt_calm ..
theorem cmdTrap_calm (cause a : Nat) : s.Calm (s.cmdTrap c cause a) := trapAt_calm ..

theorem postFault_calm (part : Nat) (r : FaultRec) : s.Calm (s.postFault part r) := by
  unfold State.postFault
  split
  · exact .refl s
  · dsimp only
    split
    · exact .refl s
    · split <;> split <;> exact .of_same rfl rfl rfl

theorem codeFault_calm (va reason level ep : Nat) : s.Calm (s.codeFault c va reason level ep) := by
  unfold State.codeFault
  split
  · exact trap_calm ..
  · exact (postFault_calm ..).trans (trapAt_calm ..)

end Basic

/-! ### The end of an instruction, waits and retries -/

section Ends
variable (s : State) (c : Cur)

theorem setPc_calm (a : Agent) (pc : DWord) : s.Calm (s.setPc a pc) := by
  unfold State.setPc
  split
  · exact setProof_calm rfl
  · split
    · next hg => exact setGroup_calm hg rfl
    · exact .refl s

theorem goTo_calm (pc : DWord) : s.Calm (s.goTo c pc) :=
  State.Calm.trans (t := { s with commits := s.commits.map (countWindow s.cycle c.agent) }) (.of_same rfl rfl rfl) (setPc_calm ..)

theorem leaveLine_calm (a : Agent) : s.Calm (s.leaveLine a) := by
  unfold State.leaveLine
  split
  · split
    · next hg => exact setGroup_calm hg rfl
    · exact .refl s
  · exact .refl s

theorem jump_calm (pc : DWord) : s.Calm (s.jump c pc) := (goTo_calm ..).trans (leaveLine_calm ..)

theorem tailTrap_calm : s.Calm (s.tailTrap c) := by
  unfold State.tailTrap
  split
  · exact .refl s
  · exact trapAt_calm ..

theorem finish_calm : s.Calm (s.finish c) := (goTo_calm ..).trans (tailTrap_calm ..)

theorem resume_calm : s.Calm (s.resume c) := by
  unfold State.resume
  split
  · exact (finish_calm ..).after (setProof_calm rfl)
  · split
    · next hg => exact (finish_calm ..).after (setGroup_calm hg rfl)
    · exact .refl s

theorem wait_calm (w : Wait) : s.Calm (s.wait c w) := by
  unfold State.wait
  split
  · split
    · next hg => exact setGroup_calm hg rfl
    · exact .refl s
  · exact .refl s

theorem unissue_calm : s.Calm (s.unissue c) := by
  unfold State.unissue
  split
  · split
    · next hg => exact setGroup_calm hg rfl
    · exact .refl s
  · exact .refl s

theorem waitAgain_calm (w : Wait) : s.Calm (s.waitAgain c w) := (wait_calm ..).trans (unissue_calm ..)

theorem retryAt_calm (n : Nat) : s.Calm (s.retryAt c n) := by
  unfold State.retryAt
  split
  · split
    · next hg => exact setGroup_calm hg rfl
    · exact .refl s
  · exact setProof_calm rfl

theorem bankRetry_calm : s.Calm (s.bankRetry c) := by
  unfold State.bankRetry
  split
  · split
    · next hg => exact setGroup_calm hg rfl
    · exact .refl s
  · exact .refl s

theorem pwait_calm (k : Nat) (w : PWait) : s.Calm (s.pwait k w) := setProof_calm rfl

theorem later_calm (lat la : Nat) (k : Commit → Commit) : s.Calm (s.later c lat la k) :=
  have issued : s.Calm { s with uid := s.uid + 1 } := .of_same rfl rfl rfl
  have pending : ∀ (t : State) (ms : List Commit), t.Calm { t with commits := ms } := fun _ _ => .of_same rfl rfl rfl
  ((issued.trans (goTo_calm ..)).trans (pending ..)).trans (tailTrap_calm ..)

theorem transfer_calm (addr : Nat) : s.Calm (s.transfer c addr id) := by
  unfold State.transfer
  split
  · exact jump_calm ..
  · exact trap_calm ..
  · exact codeFault_calm ..
  · exact retryAt_calm ..

theorem branch_calm (taken : Bool) (t : Target) : s.Calm (s.branch c taken t) := by
  unfold State.branch
  split
  · exact transfer_calm ..
  · exact finish_calm ..

end Ends

/-! ### Lock bits (08 R191) -/

section Locks
variable (s : State) (c : Cur)

theorem lockReady_calm (a : Agent) : s.Calm (s.lockReady a) := by
  unfold State.lockReady
  split
  · exact .refl s
  · split
    · split
      · next hg =>
        split
        · exact setGroup_calm hg rfl
        · exact .refl s
      · exact .refl s
    · exact .refl s

theorem grantLocks_calm (n : Nat) : s.Calm (s.grantLocks n) := by
  induction n generalizing s with
  | zero => exact .refl s
  | succ n ih =>
    unfold State.grantLocks
    split
    · exact .refl s
    · next x _ =>
      have granted : s.Calm { s with
          locks := s.locks ++ [{ core := x.core, bank := x.bank, bit := x.bit, holder := x.agent, atomic := true, until_ := 0, ll := x.ll }]
          lockReqs := s.lockReqs.filter (· != x) } := .of_same rfl rfl rfl
      exact (granted.trans (lockReady_calm ..)).trans (ih _)

theorem freeLocks_calm (p : Lock → Bool) : s.Calm (s.freeLocks p) :=
  State.Calm.trans (t := { s with locks := s.locks.filter fun l => !p l }) (.of_same rfl rfl rfl) (grantLocks_calm ..)

theorem dropGrants_calm (a : Agent) : s.Calm (s.dropGrants a) :=
  State.Calm.trans (t := { s with lockReqs := s.lockReqs.filter fun r => !(r.agent == a) }) (.of_same rfl rfl rfl) (freeLocks_calm ..)

theorem dropLocks_calm (a : Agent) : s.Calm (s.dropLocks a) :=
  State.Calm.trans (t := { s with lockReqs := s.lockReqs.filter fun r => !(r.agent == a) }) (.of_same rfl rfl rfl) (freeLocks_calm ..)

theorem queueLocks_calm (ll : Bool) (bs : List (Nat × Nat × Nat)) : s.Calm (s.queueLocks c ll bs) := by
  unfold State.queueLocks
  dsimp only
  have granted : ∀ rs n, s.Calm (State.grantLocks { s with lockReqs := rs } n) := fun rs n =>
    State.Calm.trans (t := { s with lockReqs := rs }) (.of_same rfl rfl rfl) (grantLocks_calm ..)
  split
  · exact (granted ..).trans (waitAgain_calm ..)
  · exact (granted ..).trans (bankRetry_calm ..)

end Locks

/-! ### Checks before an instruction goes on -/

section Checks
variable {s k : State} (c : Cur)

theorem checked_calm (g : Group) (acc : List Nat) (store plain8 : Bool) (n : Nat) (as : List (Nat × Nat)) (h : s.Calm k) :
    s.Calm (s.checked c g acc store plain8 n as k) := by
  unfold State.checked
  split
  · exact (trapAt_calm ..).trans (dropGrants_calm ..)
  · exact h

theorem sound_calm (rs : List (Nat × Nat)) (h : s.Calm k) : s.Calm (s.sound c rs k) := by
  unfold State.sound
  split
  · exact (trapAt_calm ..).trans (dropGrants_calm ..)
  · exact h

theorem ordered_calm (rel : Bool) (lat : Nat) (h : s.Calm k) : s.Calm (s.ordered c rel lat k) := by
  unfold State.ordered
  split
  · exact retryAt_calm ..
  · exact h

theorem unlocked_calm (h : s.Calm k) : s.Calm (s.unlocked c k) := by
  unfold State.unlocked
  split
  · exact trap_calm ..
  · exact h

theorem withBits_calm (ll : Bool) (keys : List Nat) (h : s.Calm k) : s.Calm (s.withBits c ll keys k) := by
  unfold State.withBits
  split
  · exact h
  · dsimp only
    split
    · exact h
    · exact queueLocks_calm ..

theorem scalarAccess_calm {f : Nat → Nat → State} (acc : List Nat) (store plain8 : Bool) (addr n : Nat) (h : ∀ key lat, s.Calm (f key lat)) :
    s.Calm (s.scalarAccess c acc store plain8 addr n f) := by
  unfold State.scalarAccess
  split
  · split
    · exact trap_calm ..
    · exact h ..
  · split
    · exact .refl s
    · exact checked_calm c _ _ _ _ _ _ (h ..)

theorem readAtIssue_calm {f : Nat → State} (g : Group) (acc : List Nat) (rel : Bool) (addr n : Nat) (h : ∀ x, s.Calm (f x)) :
    s.Calm (s.readAtIssue c g acc rel addr n f) := by
  refine checked_calm c _ _ _ _ _ _ ?_
  dsimp only
  split
  · exact waitAgain_calm ..
  · split
    · exact retryAt_calm ..
    · exact ordered_calm c _ _ (sound_calm c _ (h _))

theorem arrChecked_calm {f : Nat → State} (g : Group) (store : Bool) (addr : Nat) (h : ∀ key, s.Calm (f key)) :
    s.Calm (s.arrChecked c g store addr f) := checked_calm c _ _ _ _ _ _ (h _)

variable {t : State}

/-- An instruction of groups that leaves things calm on a group leaves them so on every agent: a proof core takes ILLOP. -/
theorem withGroup_calm {f : Cur → Group → State} (e : withGroup s f = .next t) (h : ∀ c g, s.GroupIssuing c g → s.Calm (f c g)) : s.Calm t := by
  obtain ⟨c, ⟨p, -, rfl⟩ | ⟨g, hg, rfl⟩⟩ := withGroup_next e
  · exact trap_calm ..
  · exact h c g hg

theorem withAgent_calm {f : Cur → State} (e : withAgent s f = .next t) (h : ∀ c, s.Calm (f c)) : s.Calm t := by
  obtain ⟨c, -, rfl⟩ := withAgent_next e
  exact h c

end Checks

/-! ### Accesses that go in flight, and results that come later -/

section Launch
variable (s : State) (c : Cur)

theorem launchLocals_calm (ls : List Local) : s.Calm (s.launchLocals ls) := .of_same rfl rfl rfl

theorem uid_calm (n : Nat) : s.Calm { s with uid := n } := .of_same rfl rfl rfl

theorem launchStore_calm (key lat size : Nat) (op : LocalOp) : s.Calm (s.launchStore c key lat size op) :=
  ((uid_calm ..).trans (finish_calm ..)).trans (launchLocals_calm ..)

theorem launchLoad_calm (la key lat size : Nat) (sx acq : Bool) (d : Nat) : s.Calm (s.launchLoad c la key lat size sx acq d) :=
  ((uid_calm ..).trans (later_calm ..)).trans (launchLocals_calm ..)

theorem holdBits_calm (a : Agent) (bs : List (Nat × Nat × Nat)) (n : Nat) : s.Calm (s.holdBits a bs n) := .of_same rfl rfl rfl

end Launch

section Moulds
variable {s t : State}

theorem scalarDiv_calm {la : BitVec 4} {ty : ITy} {d a : SReg} {b : SrcB} {f : ITy → Nat → Nat → Int}
    (e : scalarDiv s la ty d a b f = .next t) : s.Calm t := withAgent_calm e fun _ => later_calm ..

theorem vectorLater_calm {gd : MReg} {la : BitVec 4} {lat : Nat} {d : VReg} {f : Group → Nat → Nat × Flags}
    (e : vectorLater s gd la lat d f = .next t) : s.Calm t := withGroup_calm e fun _ _ _ => later_calm ..

theorem crossLane_calm {la : BitVec 4} {lat : Nat} {d : VReg} {rs : Group → List Nat} {f : Group → Nat → Nat} {fl : Group → Flags}
    (e : crossLane s la lat d rs f fl = .next t) : s.Calm t := withGroup_calm e fun _ _ _ => later_calm ..

theorem vectorLoad_calm {gd : MReg} {la : BitVec 4} {md : VMode} {wd : Width} {sx : Bool} {d : VReg} {a : SReg} {disp : Nat}
    (e : vectorLoad s gd la md wd sx d a disp = .next t) : s.Calm t := withGroup_calm e fun c g _ => by
  refine checked_calm c _ _ _ _ _ _ (ordered_calm c _ _ (sound_calm c _ ?_))
  split
  · exact finish_calm ..
  · exact ((uid_calm ..).trans (later_calm ..)).trans (launchLocals_calm ..)

theorem vectorStore_calm {gd : MReg} {off : Option VReg} {wd : Width} {d : VReg} {a : SReg} {disp : Nat}
    (e : vectorStore s gd off wd d a disp = .next t) : s.Calm t := withGroup_calm e fun c _ _ =>
  checked_calm c _ _ _ _ _ _ (ordered_calm c _ _ (((uid_calm ..).trans (finish_calm ..)).trans (launchLocals_calm ..)))

theorem scalarLoad_calm {la : BitVec 4} {wd : Width} {sx : Bool} {d a : SReg} {disp : Nat}
    (e : scalarLoad s la wd sx d a disp = .next t) : s.Calm t := withAgent_calm e fun c =>
  scalarAccess_calm c _ _ _ _ _ fun _ _ => ordered_calm c _ _ (sound_calm c _ (launchLoad_calm ..))

theorem scalarStore_calm {wd : Width} {d a : SReg} {disp : Nat} (e : scalarStore s wd d a disp = .next t) : s.Calm t :=
  withAgent_calm e fun c => scalarAccess_calm c _ _ _ _ _ fun _ _ => ordered_calm c _ _ (launchStore_calm ..)

theorem vatom_calm {gd : MReg} {la : BitVec 4} {op : AtOp} {ord : AOrd} {sc : AScope} {ty : Ty} {d a b x : VReg}
    (e : exec (.vatom gd la op ord sc ty d a b x) s = .next t) : s.Calm t := withGroup_calm e fun c _ _ => by
  refine checked_calm c _ _ _ _ _ _ ?_
  split
  · exact finish_calm ..
  · refine withBits_calm c _ _ (ordered_calm c _ _ (sound_calm c _ ?_))
    exact (((uid_calm ..).trans (holdBits_calm ..)).trans (later_calm ..)).trans (launchLocals_calm ..)

theorem satom_calm {la : BitVec 4} {op : AtOp} {ord : AOrd} {sc : AScope} {ty : Ty} {d a b x : SReg}
    (e : exec (.satom la op ord sc ty d a b x) s = .next t) : s.Calm t := withAgent_calm e fun c => by
  refine scalarAccess_calm c _ _ _ _ _ fun key lat => withBits_calm c _ _ (ordered_calm c _ _ (sound_calm c _ ?_))
  refine State.Calm.trans ?_ (launchLocals_calm ..)
  refine State.Calm.trans ?_ (later_calm ..)
  split
  · exact uid_calm ..
  · exact (uid_calm ..).trans (holdBits_calm ..)

theorem arinit_calm {a : SReg} {off : Byte} {target : State → Agent → Nat} (e : arinit s a off target = .next t) : s.Calm t :=
  withGroup_calm e fun c _ _ => arrChecked_calm c _ _ _ fun _ => ordered_calm c _ _ (sound_calm c _ (launchStore_calm ..))

theorem aradd_calm {a : SReg} {off : Byte} {n : State → Agent → Nat} (e : aradd s a off n = .next t) : s.Calm t :=
  withGroup_calm e fun c _ _ => arrChecked_calm c _ _ _ fun _ => ordered_calm c _ _ (sound_calm c _ (launchStore_calm ..))

theorem fenceCmds_calm (s : State) (a : Agent) (k : FenceKind) (sc : Scope) : s.Calm (s.fenceCmds a k sc) := by
  unfold State.fenceCmds
  split
  · exact .of_same rfl rfl rfl
  · exact .refl s

theorem fence_calm {k : FenceKind} {sc : Scope} (e : execFence k sc s = .next t) : s.Calm t := withAgent_calm e fun c => by
  refine (fenceCmds_calm s c.agent k sc).trans ?_
  dsimp only
  split
  · exact finish_calm ..
  · split
    · exact wait_calm ..
    · exact pwait_calm ..

theorem brm_calm {k : MCond} {a : MReg} {target : Target} (e : execBrm k a target s = .next t) : s.Calm t := withAgent_calm e fun c => by
  split
  · exact State.Calm.trans (t := { s with fresh := s.fresh + 2 }) (.of_same rfl rfl rfl) (branch_calm ..)
  · split
    · exact .refl s
    · exact branch_calm ..

/-- An instruction that transfers control, or whose result or access comes later, leaves things calm. -/
theorem changesLater_calm {i : Instr} (hi : changesLater i = true) (e : exec i s = .next t) : s.Calm t := by
  cases i <;> cases hi
  case nop => exact withAgent_calm e fun _ => finish_calm ..
  case bra | brs => exact withAgent_calm e fun _ => branch_calm ..
  case brm => exact brm_calm e
  case jmp | ret => exact withAgent_calm e fun _ => transfer_calm ..
  case sdivLong | sdivLiteral | sremLong | sremLiteral => exact scalarDiv_calm e
  case vrcpShort | vrcpLong | vrsqShort | vrsqLong | vsqrtShort | vsqrtLong | vdivShort | vdivLong | vexp2Short | vexp2Long | vlog2Short
      | vlog2Long | vsinShort | vsinLong | vcosShort | vcosLong | vtanhShort | vtanhLong => exact vectorLater_calm e
  case vshfl | vrotLong | vrotLiteral | vbcast | vred | vscan | vcompact | vexpand => exact crossLane_calm e
  case vldLong | vldLiteral => exact vectorLoad_calm e
  case vstLong | vstLiteral => exact vectorStore_calm e
  case sldLong | sldLiteral => exact scalarLoad_calm e
  case sstLong | sstLiteral => exact scalarStore_calm e
  case vatom => exact vatom_calm e
  case satom => exact satom_calm e
  case arinitLong => exact arinit_calm e
  case arinitLiteral lit => exact arinit_calm (target := fun _ _ => lit.toNat) e
  case araddLong => exact aradd_calm e
  case araddLiteral lit => exact aradd_calm (n := fun _ _ => lit.toNat) e
  case fence => exact fence_calm e

end Moulds

end Sys2Proof.Machine
end

section
/-! PROOFS. The frame of instructions whose effect comes later (01 R31, 07 R176, 09 R211, R224, 10 R232, R238, R240, 11 R247, R257, R259). -/

namespace Sys2Proof.Machine
open Sys2Proof.Claims

/-! ### Late errors and queues -/

/-- Calm, but for the late errors of one group, of which some may have been taken (09 R224, 10 R238). -/
def State.LateCalm (s t : State) : Prop :=
  s.Calm t ∨ ∃ g ms ls, s.group? g.core g.slot = some g ∧ (s.setGroup { g with uncorrM := ms, uncorrL := ls }).Calm t

section Late
variable {s k t : State} {c : Cur} {g : Group}

theorem lateM_late (hg : s.group? g.core g.slot = some g) (h : s.Calm k) : s.LateCalm (s.lateM c g k) := by
  unfold State.lateM
  split
  · exact .inr ⟨g, _, g.uncorrL, hg, trapAt_calm ..⟩
  · exact .inl h

theorem lateL_late (hg : s.group? g.core g.slot = some g) (h : s.Calm k) : s.LateCalm (s.lateL c g k) := by
  unfold State.lateL
  split
  · exact .inr ⟨g, g.uncorrM, _, hg, trapAt_calm ..⟩
  · exact .inl h

theorem ligTrap_calm (s : State) (c : Cur) (core slot : Nat) (f : LigFault) : s.Calm (s.ligTrap c core slot f) := by
  have put : ∀ e, s.Calm (s.setLig e) := fun _ => .of_same rfl rfl rfl
  exact (put _).trans (trapAt_calm ..)

theorem ligReady_late (hg : s.group? g.core g.slot = some g) (h : s.Calm k) : s.LateCalm (s.ligReady c g k) := by
  unfold State.ligReady
  split
  · exact .inl (ligTrap_calm ..)
  · exact lateL_late hg h

theorem unlocked_late (h : s.LateCalm k) : s.LateCalm (s.unlocked c k) := by
  unfold State.unlocked
  split
  · exact .inl (trap_calm ..)
  · exact h

theorem withGroup_late {f : Cur → Group → State} (e : withGroup s f = .next t) (h : ∀ c g, s.GroupIssuing c g → s.LateCalm (f c g)) :
    s.LateCalm t := by
  obtain ⟨c, ⟨p, -, rfl⟩ | ⟨g, hg, rfl⟩⟩ := withGroup_next e
  · exact .inl (trap_calm ..)
  · exact h c g hg

theorem matrixOp_late {f : Cur → Group → Team → State} (e : matrixOp s f = .next t) (h : ∀ c g u, s.Calm (f c g u)) : s.LateCalm t :=
  withGroup_late e fun c g hg => by
    split
    · exact .inl (.refl s)
    · exact lateM_late hg.2.2 (h ..)

theorem ligatureOp_late {f : Cur → Group → Team → State} (e : ligatureOp s f = .next t)
    (h : ∀ c g u, s.GroupIssuing c g → s.LateCalm (f c g u)) : s.LateCalm t :=
  withGroup_late e fun c g hg => by
    split
    · exact .inl (.refl s)
    · split
      · exact h _ _ _ hg
      · exact .inl (trap_calm ..)

end Late

/-! ### Matrix instructions (09 R211) -/

section Matrix
variable {s t : State} (c : Cur)

theorem enterMat_calm (op : MatOp) : s.Calm (s.enterMat c op) := by
  unfold State.enterMat
  split
  · exact State.Calm.trans (t := { s with mats := s.mats ++ [op], uid := s.uid + 1 }) (.of_same rfl rfl rfl) (finish_calm ..)
  · exact (uid_calm ..).trans (wait_calm ..)

theorem issueMat_calm (g : Group) (u : Team) (ok : Bool) (acc : List (Bool × Nat × List (Nat × Nat))) (kind : MatKind) (tile : Nat)
    (pair : Option Nat) : s.Calm (s.issueMat c g u ok acc kind tile pair) := by
  unfold State.issueMat
  split
  · exact trap_calm ..
  · split
    · exact trapAt_calm ..
    · dsimp only
      split
      · exact enterMat_calm ..
      · exact ordered_calm c _ _ (enterMat_calm ..)

theorem mma_late {pair : Bool} {sg : MmaSign} {d : GReg} {a b : FReg} {x : SReg} (e : execMma pair sg d a b x s = .next t) : s.LateCalm t :=
  withGroup_late e fun c g hg => by
    split
    · exact .inl (.refl s)
    · split
      · exact .inl (trap_calm ..)
      · exact lateM_late hg.2.2 (issueMat_calm ..)

theorem mwait_late (e : execMwait s = .next t) : s.LateCalm t := withGroup_late e fun c g hg => by
  refine unlocked_late (lateM_late hg.2.2 ?_)
  split
  · exact waitAgain_calm ..
  · exact finish_calm ..

theorem forme_late {la : BitVec 4} {d : FReg} {a : SReg} {m : Byte} (e : execForme la d a m s = .next t) : s.LateCalm t :=
  matrixOp_late e fun c _ _ => checked_calm c _ _ _ _ _ _ (ordered_calm c _ _ (sound_calm c _
    (((uid_calm ..).trans (later_calm ..)).trans (launchLocals_calm ..))))

end Matrix

/-! ### Ligature instructions (10 R231 to R239) -/

section Ligature
variable {s t : State} (c : Cur)

theorem enterLig_calm (g : Group) (since : Nat) (kind : LigKind) : s.Calm (s.enterLig c g since kind) := by
  unfold State.enterLig
  dsimp only
  split
  · refine State.Calm.trans ?_ (finish_calm ..)
    exact .of_same rfl rfl rfl
  · exact (uid_calm ..).trans (wait_calm ..)

theorem ligevalAt_calm (g : Group) (u : Team) (since addr : Nat) : s.Calm (s.ligevalAt c g u since addr) := by
  unfold State.ligevalAt
  dsimp only
  split
  · exact trap_calm ..
  · split
    · exact addrTrap_calm ..
    · refine ordered_calm c _ _ ?_
      split
      · exact waitAgain_calm ..
      · split
        · exact trap_calm ..
        · split
          · exact trap_calm ..
          · split
            · exact addrTrap_calm ..
            · split
              · exact trap_calm ..
              · split
                · exact trap_calm ..
                · split
                  · exact addrTrap_calm ..
                  · split
                    · exact addrTrap_calm ..
                    · exact enterLig_calm ..

theorem ligemitAt_calm (g : Group) (u : Team) (since : Nat) (bf : Bool) (addr f n q : Nat) : s.Calm (s.ligemitAt c g u since bf addr f n q) := by
  unfold State.ligemitAt
  dsimp only
  generalize (if bf = true then 2 else 4) = size
  split
  · exact trap_calm ..
  · split
    · exact trap_calm ..
    · split
      · exact addrTrap_calm ..
      · split
        · exact addrTrap_calm ..
        · exact ordered_calm c _ _ (enterLig_calm ..)

theorem ligbind_late {cc : BitVec 2} {a b : SReg} (e : execLigbind cc a b s = .next t) : s.LateCalm t :=
  ligatureOp_late e fun c g u hg => ligReady_late hg.2.2 <| by
    dsimp only
    split
    · exact trap_calm ..
    · split
      · exact addrTrap_calm ..
      · exact enterLig_calm ..

theorem ligeval_late {a : SReg} (e : execLigeval a s = .next t) : s.LateCalm t :=
  ligatureOp_late e fun _ _ _ hg => ligReady_late hg.2.2 (ligevalAt_calm ..)

theorem ligemit_late {bf : Bool} {a b : SReg} (e : execLigemit bf a b s = .next t) : s.LateCalm t :=
  ligatureOp_late e fun _ _ _ hg => ligReady_late hg.2.2 (ligemitAt_calm ..)

theorem ligwait_late (e : execLigwait s = .next t) : s.LateCalm t :=
  ligatureOp_late e fun c g _ hg => unlocked_late <| ligReady_late hg.2.2 <| by
    split
    · exact waitAgain_calm ..
    · exact finish_calm ..

end Ligature

/-! ### HANDOFF (11 R247) and THINT -/

section Handoff
variable (s : State)

theorem handTrap_calm (team cause : Nat) (x y : DWord) : s.Calm (s.handTrap team cause x y) := by
  unfold State.handTrap
  refine State.Calm.trans (t := match s.team? team with | some t => s.setTeam { t with hand := none } | none => s) ?_ ?_
  · split <;> exact .of_same rfl rfl rfl
  · refine State.Calm.foldl (fun s g => ?_) _ _
    split
    · exact trapAt_calm ..
    · exact .refl s

theorem handCheck_calm (team : Nat) : s.Calm (s.handCheck team) := by
  unfold State.handCheck
  split
  · exact .refl s
  · dsimp only
    split
    · exact .refl s
    · split
      · split
        · exact handTrap_calm ..
        · split
          · exact handTrap_calm ..
          · exact .refl s
          · exact (postFault_calm ..).trans (handTrap_calm ..)
          · exact .of_same rfl rfl rfl
      · exact .refl s

theorem handArrive_calm (k n : Nat) : s.Calm (s.handArrive k n) := by
  unfold State.handArrive
  split
  · exact .refl s
  · next hg =>
    split
    · split
      · exact (handCheck_calm ..).after (setGroup_calm hg rfl)
      · exact .refl s
    · exact .refl s

variable {s} {t : State}

theorem handoff_calm {i : BitVec 3} {a : SReg} {m : Byte} (e : execHandoff i a m s = .next t) : s.Calm t := withGroup_calm e fun c g _ => by
  dsimp only
  split
  · exact trap_calm ..
  · refine unlocked_calm c ?_
    have counted : ∀ ms, s.Calm { s with commits := ms } := fun _ => .of_same rfl rfl rfl
    exact ((counted _).trans (wait_calm ..)).trans (handArrive_calm ..)

theorem thint_calm {a b : SReg} (e : execThint a b s = .next t) : s.Calm t := withGroup_calm e fun c g _ => by
  split
  · exact finish_calm ..
  · have hinted : ∀ hs, s.Calm { s with hints := hs } := fun _ => .of_same rfl rfl rfl
    exact (hinted _).trans (finish_calm ..)

/-- What enters a queue, waits, or has a result that comes later leaves things calm but for late errors. -/
theorem queuesAtIssue_late {i : Instr} (hi : queuesAtIssue i = true) (e : exec i s = .next t) : s.LateCalm t := by
  cases i <;> cases hi
  case forme => exact forme_late e
  case formeR => exact matrixOp_late e fun _ _ _ => later_calm ..
  case mma => exact mma_late e
  case mzero | mldg | mstg | mcvt | maddg => exact matrixOp_late e fun _ _ _ => issueMat_calm ..
  case mwait => exact mwait_late e
  case ligbind => exact ligbind_late e
  case ligeval => exact ligeval_late e
  case ligemit => exact ligemit_late e
  case ligwait => exact ligwait_late e
  case handoff => exact .inl (handoff_calm e)
  case thint => exact .inl (thint_calm e)

end Handoff

/-! ### In the statement's words -/

section Same
variable {s t : State}

theorem GroupCalm.same {g h : Group} (c : GroupCalm g h) : SameGroup g h ∧ h.masks = g.masks ∧ h.fstat = g.fstat := by
  have masks : h.masks = g.masks := by rw [c]
  have fstat : h.fstat = g.fstat := by rw [c]
  refine ⟨?_, masks, fstat⟩
  unfold SameGroup
  rw [masks, fstat]
  exact c

theorem ProofCalm.sregs {p q : ProofCore} (c : ProofCalm p q) : q.sregs = p.sregs := by rw [c]

theorem AgentsCalm.groupsSame (h : s.AgentsCalm t) : GroupsSame s t := fun k n g hg => by
  obtain ⟨g', hg', c⟩ := h.groups k n g hg
  have late : { g with uncorrM := g'.uncorrM, uncorrL := g'.uncorrL } = g := by rw [c]
  exact ⟨g', hg', late.symm ▸ c.same.1, c.same.2⟩

theorem LateCalm.mem (h : s.LateCalm t) : t.mem = s.mem := by
  obtain h | ⟨g, ms, ls, -, h⟩ := h <;> exact h.mem

theorem LateCalm.sregs (h : s.LateCalm t) (k : Nat) : (t.proof k).sregs = (s.proof k).sregs := by
  obtain h | ⟨g, ms, ls, -, h⟩ := h <;> exact (h.proofs k).sregs

theorem LateCalm.groupsSame (h : s.LateCalm t) : GroupsSame s t := by
  obtain h | ⟨g, ms, ls, e, h⟩ := h
  · exact AgentsCalm.groupsSame h.toAgentsCalm
  · intro k n i hi
    by_cases here : k = g.core ∧ n = g.slot
    · obtain ⟨rfl, rfl⟩ := here
      obtain rfl := Option.some.inj (e.symm.trans hi)
      obtain ⟨h', hh', c⟩ := h.groups g.core g.slot _ (group?_setGroup_self (g := { g with uncorrM := ms, uncorrL := ls }) e)
      have late : { g with uncorrM := h'.uncorrM, uncorrL := h'.uncorrL } = { g with uncorrM := ms, uncorrL := ls } := by rw [c]
      exact ⟨h', hh', late.symm ▸ c.same.1, c.same.2⟩
    · obtain ⟨h', hh', c⟩ := h.groups k n i ((group?_setGroup_other (g := { g with uncorrM := ms, uncorrL := ls }) here).trans hi)
      have late : { i with uncorrM := h'.uncorrM, uncorrL := h'.uncorrL } = i := by rw [c]
      exact ⟨h', hh', late.symm ▸ c.same.1, c.same.2⟩

end Same

/-! ### LIGCLR, GROW, SHRINK and EXIT -/

section Bytes
variable {a : Nat}

theorem zero_byte {s : State} {b n : Nat} (h : a < b ∨ b + n ≤ a) : (s.zero b n).byte a = s.byte a :=
  memGet_filter (fun _ => by
    simp only [Bool.not_eq_true', Bool.and_eq_false_iff, decide_eq_false_iff_not]
    omega) s.mem

theorem zero_still {s : State} {b n : Nat} (h : a < b ∨ b + n ≤ a) : s.Still a (s.zero b n) :=
  ⟨zero_inv, fun _ => zero_byte h, fun u hu => ⟨u, hu, rfl, rfl, rfl, rfl⟩⟩

theorem byte_of_mem {s t : State} (h : t.mem = s.mem) : t.byte a = s.byte a := by rw [State.byte, h, State.byte]

theorem ligclr_frame {s t : State} {c : Cur} {g : Group} (hg : s.GroupIssuing c g) (e : exec .ligclr s = .next t) :
    (∀ a, a < valueKey g.core 0 ∨ valueKey g.core 16384 ≤ a → t.byte a = s.byte a) ∧ GroupsSame s t := by
  have calm : ∀ {u}, s.Calm u → (∀ a, a < valueKey g.core 0 ∨ valueKey g.core 16384 ≤ a → u.byte a = s.byte a) ∧ GroupsSame s u :=
    fun h => ⟨fun _ _ => byte_of_mem h.mem, AgentsCalm.groupsSame h.toAgentsCalm⟩
  obtain rfl := Host.Outcome.next.inj ((withGroup_group hg _).symm.trans e)
  split
  · exact calm (.refl s)
  · split
    · dsimp only
      split
      · have cleared : s.AgentsCalm (s.clearLig g.core) := .of_same rfl rfl
        refine ⟨fun a ha => (byte_of_mem (finish_mem ..)).trans ?_, AgentsCalm.groupsSame (cleared.trans (finish_calm ..).toAgentsCalm)⟩
        exact memGet_filter (fun _ => by
          simp only [Bool.not_eq_true', Bool.and_eq_false_iff, decide_eq_false_iff_not]
          omega) s.mem
      · exact calm (wait_calm ..)
    · exact calm (trap_calm ..)

theorem setSregA_byte {u : State} {g h : Group} (hu : u.Inv) (hh : u.group? g.core g.slot = some h) (sblk : h.sblk = g.sblk) {d : Nat} {x : DWord}
    (ha : d = 0 ∨ a < g.skey d ∨ g.skey d + 8 ≤ a) : (u.setSregA (.group g.core g.slot) d x).byte a = u.byte a := by
  have core : h.core = g.core := (group?_slot hh).1
  have key : h.skey d = g.skey d := by rw [Group.skey, Group.skey, core, sblk]
  rw [State.setSregA, hh]
  refine byte_write hu fun y hy hya => ?_
  obtain ⟨hd, low, high⟩ := mem_scells hy
  rw [key] at low high
  omega

theorem growEnd_byte {u : State} {c : Cur} {g h : Group} (hu : u.Inv) (hc : c.agent = .group g.core g.slot)
    (hh : u.group? g.core g.slot = some h) (sblk : h.sblk = g.sblk) {d : SReg} {x : Nat}
    (ha : d = 0 ∨ a < g.skey d.toNat ∨ g.skey d.toNat + 8 ≤ a) : (u.growEnd c d x).byte a = u.byte a := by
  rw [State.growEnd, byte_of_mem (resume_mem ..), hc]
  exact setSregA_byte hu hh sblk (ha.imp_left (congrArg BitVec.toNat))

theorem unlocked_byte {s k : State} {c : Cur} (h : k.byte a = s.byte a) : (s.unlocked c k).byte a = s.byte a := by
  unfold State.unlocked
  split
  · exact byte_of_mem (trap_mem ..)
  · exact h

theorem grow_byte {s t : State} {c : Cur} {g : Group} (hs : s.Inv) (hg : s.GroupIssuing c g) {d : SReg} {m : Byte}
    (e : exec (.grow d m) s = .next t) (hd : d = 0 ∨ a < g.skey d.toNat ∨ g.skey d.toNat + 8 ≤ a)
    (hv : a < g.vkey g.vregs 0 ∨ g.vkey g.vregs 0 + (m.toNat + 1 - g.vregs) * 4 * g.width ≤ a) : t.byte a = s.byte a := by
  obtain rfl := Host.Outcome.next.inj ((withGroup_group hg _).symm.trans e)
  obtain ⟨-, agent, found⟩ := hg
  refine unlocked_byte ?_
  dsimp only
  split
  · exact growEnd_byte hs agent found rfl hd
  · split
    · have taken : (s.growTake g (m.toNat + 1)).group? g.core g.slot = some { g with vregs := m.toNat + 1 } :=
        group?_setGroup_self (g := { g with vregs := m.toNat + 1 }) found
      have inv : (s.growTake g (m.toNat + 1)).Inv := zero_inv (inv_of_mem hs rfl)
      have grown : (s.growTake g (m.toNat + 1)).byte a = s.byte a := zero_byte hv
      exact (growEnd_byte inv agent taken rfl hd).trans grown
    · exact byte_of_mem (wait_mem ..)

theorem freeRegion_still {s : State} {core lo n : Nat} (h : a < storeKey core lo ∨ storeKey core lo + n ≤ a) :
    s.Still a (s.freeRegion core lo n) := by
  unfold State.freeRegion
  split
  · exact .refl s
  · have dropped : ∀ ls, s.Still a { s with locals := ls } := fun _ => .of_same rfl rfl
    exact (dropped _).trans (zero_still h)

theorem shrink_byte {s t : State} {c : Cur} {g : Group} (hs : s.Inv) (hg : s.GroupIssuing c g) {m : Byte} (e : exec (.shrink m) s = .next t)
    (ha : a < storeKey g.core (g.win + windowBytes (m.toNat + 1) g.width)
      ∨ storeKey g.core (g.win + windowBytes (m.toNat + 1) g.width) + (windowBytes g.vregs g.width - windowBytes (m.toNat + 1) g.width) ≤ a) :
    t.byte a = s.byte a := by
  obtain rfl := Host.Outcome.next.inj ((withGroup_group hg _).symm.trans e)
  dsimp only
  split
  · exact byte_of_mem (finish_mem ..)
  · have dropped : ∀ ms ls, s.Still a { s with commits := ms, locals := ls } := fun _ _ => .of_same rfl rfl
    exact ((((dropped _ _).trans (.of_rest (setGroup_rest ..))).trans (freeRegion_still ha)).trans (.of_rest (finish_rest ..))).byte hs

end Bytes

/-! ### EXIT (07 R176) -/

section Exit
variable (a : Nat)

theorem orphan_rest (s : State) (g : Group) (e : Nat × Nat) : s.RestSame (s.orphan g e) := queueRecord_rest ..

theorem orphanFault_still (s : State) (g : Group) (f : LigFault) : s.Still a (s.orphanFault g f) := by
  unfold State.orphanFault
  split
  · exact .of_rest (orphan_rest ..)
  · have drawn : s.Still a s.freeWord.2 := .of_same rfl rfl
    exact drawn.trans (.of_rest (queueRecord_rest ..))

theorem orphans_still (s : State) (g : Group) : s.Still a (s.orphans g) := by
  unfold State.orphans
  have reported : s.Still a ((g.uncorrM ++ g.uncorrL).foldl (fun s e => s.orphan g e) s) :=
    .foldl (fun s e _ => .of_rest (orphan_rest s g e)) s
  refine reported.trans ?_
  unfold State.orphanLig
  split
  · refine State.Still.trans ?_ (orphanFault_still ..)
    exact .of_same rfl rfl
  · exact .refl _

theorem lockReady_still (s : State) (b : Agent) : s.Still a (s.lockReady b) := by
  unfold State.lockReady
  split
  · exact .refl s
  · split
    · split
      · split
        · exact .of_rest (setGroup_rest ..)
        · exact .refl s
      · exact .refl s
    · exact .refl s

theorem grantLocks_still (s : State) (n : Nat) : s.Still a (s.grantLocks n) := by
  induction n generalizing s with
  | zero => exact .refl s
  | succ n ih =>
    unfold State.grantLocks
    split
    · exact .refl s
    · have granted : ∀ ls rs, s.Still a { s with locks := ls, lockReqs := rs } := fun _ _ => .of_same rfl rfl
      exact ((granted _ _).trans (lockReady_still ..)).trans (ih _)

theorem dropLocks_still (s : State) (b : Agent) : s.Still a (s.dropLocks b) := by
  have freed : ∀ ls rs, s.Still a { s with locks := ls, lockReqs := rs } := fun _ _ => .of_same rfl rfl
  exact (freed _ _).trans (grantLocks_still ..)

/-- A group put back is the one found in its slot, if one is. -/
theorem group?_setGroup_eq {s : State} {g h : Group} (e : (s.setGroup g).group? g.core g.slot = some h) : h = g := by
  unfold State.group? State.setGroup at e
  rw [find?_replaceBy_self _ _ _ (by simp), Option.map_eq_some_iff] at e
  obtain ⟨-, -, e⟩ := e
  exact e.symm

theorem releaseSlot_still {s : State} {k n team : Nat} (hk : ∀ g, s.group? k n = some g → g.team = team)
    (hs : ∀ u ∈ s.teams, u.uid = team → OutsidePlaces u a) : s.Still a (s.releaseSlot k n) := by
  unfold State.releaseSlot
  split
  · exact .refl s
  · next g hg =>
    split
    · have gone : ∀ gs, s.Still a { s with groups := gs } := fun _ => .of_same rfl rfl
      refine (gone _).trans (reap_still fun u hu _ => hs u (team?_mem hu) ?_)
      have := List.find?_some hu
      rw [← hk g hg]
      simpa using this
    · exact .refl s

variable {a}

/-- The end of a group frees its window, its scalar block and, with its last group, its team's engines; no other byte changes. -/
theorem endGroup_byte {s : State} {g : Group} (hs : s.Inv) (hg : s.group? g.core g.slot = some g)
    (win : a < storeKey g.core g.win ∨ storeKey g.core g.win + windowBytes g.vregs g.width ≤ a)
    (sblk : a < storeKey g.core g.sblk ∨ storeKey g.core g.sblk + 1024 ≤ a) (out : ∀ u ∈ s.teams, u.uid = g.team → OutsidePlaces u a) :
    (s.endGroup g.core g.slot).byte a = s.byte a := by
  have stripped : ∀ (t : State) (ms : List Commit) (ls : List Local), t.Still a { t with commits := ms, locals := ls } :=
    fun _ _ _ => .of_same rfl rfl
  unfold State.endGroup
  rw [hg]
  dsimp only
  set u := State.setGroup _ _ with hu
  have freed : s.Still a u := by
    refine State.Still.trans ?_ (.of_rest (setGroup_rest ..))
    refine State.Still.trans ?_ (freeRegion_still sblk)
    refine State.Still.trans ?_ (freeRegion_still win)
    exact ((orphans_still a s g).trans (dropLocks_still ..)).trans (stripped ..)
  have mine : ∀ h, u.group? g.core g.slot = some h → h.team = g.team := fun h hh => by
    rw [group?_setGroup_eq (g := { g with run := .exited, uncorrM := [], uncorrL := [], lock := none }) hh]
  have outside : ∀ v ∈ u.teams, v.uid = g.team → OutsidePlaces v a := fun v hv hvu y hy => by
    obtain ⟨w, hw, uid, seats, krec, -⟩ := freed.teams v hv
    exact krec ▸ out w hw (uid.trans hvu) y (seats ▸ hy)
  have rest : ∀ w : State, w.mem = u.mem → w.groups = u.groups → (∀ v ∈ w.teams, v.uid = g.team → OutsidePlaces v a) → ∀ peers : List Nat,
      (peers.foldl State.barriers (w.releaseSlot g.core g.slot)).byte a = s.byte a := fun w mem groups outside peers => by
    have kept : w.Still a (w.releaseSlot g.core g.slot) := releaseSlot_still a (fun h hh => mine h (by rwa [State.group?, ← groups])) outside
    have done := kept.trans (.foldl (f := State.barriers) (xs := peers) (fun s n _ => .of_rest (barriers_rest s n)) _)
    exact (done.byte (inv_of_mem (freed.inv hs) mem)).trans ((byte_of_mem mem).trans (freed.byte hs))
  split
  · split
    · next t ht =>
      refine rest (u.setTeam { t with exited := true }) rfl rfl (fun v hv => ?_) _
      obtain rfl | hv := mem_replaceBy hv
      · exact outside t (team?_mem ht)
      · exact outside v hv
    · exact rest _ rfl rfl outside _
  · exact rest _ rfl rfl outside _

theorem exit_byte {s t : State} {c : Cur} {g : Group} (hs : s.Inv) (hg : s.GroupIssuing c g) (e : exec .exit s = .next t)
    (win : a < storeKey g.core g.win ∨ storeKey g.core g.win + windowBytes g.vregs g.width ≤ a)
    (sblk : a < storeKey g.core g.sblk ∨ storeKey g.core g.sblk + 1024 ≤ a) (out : ∀ u ∈ s.teams, u.uid = g.team → OutsidePlaces u a) :
    t.byte a = s.byte a := by
  obtain rfl := Host.Outcome.next.inj ((withAgent_issuing (GroupIssuing.issuing hg) _).symm.trans e)
  obtain ⟨-, agent, found⟩ := hg
  refine unlocked_byte ?_
  simp only [agent]
  exact (byte_of_mem (handCheck_calm ..).mem).trans (endGroup_byte hs found win sblk out)

end Exit

/-- Settles O52: most of these instructions leave things calm; the rest name the bytes they free. -/
theorem laterEffectsChangeNothingAtIssue : Obligations.LaterEffectsChangeNothingAtIssue := by
  refine ⟨fun s c i t _ hi e => ?later, fun s c g i t _ hi e => ?queues, fun s c g t hg e => ligclr_frame hg e,
    fun s c g t hs hg => ⟨fun d m e a => grow_byte hs hg e, fun m e a => shrink_byte hs hg e, fun e a => exit_byte hs hg e⟩⟩
  case later =>
    have calm := changesLater_calm hi e
    refine ⟨calm.mem, fun k n h hh => ?_, calm.proofs⟩
    obtain ⟨h', hh', c⟩ := calm.groups k n h hh
    exact ⟨h', hh', c.same⟩
  case queues =>
    have calm := queuesAtIssue_late hi e
    exact ⟨LateCalm.mem calm, LateCalm.groupsSame calm, LateCalm.sregs calm⟩

end Sys2Proof.Machine
end

section
/-! PROOFS. The frame of immediate results (01 R29, 02 R46, 06 R138, R139, 07 R163): what an instruction with a scalar, a vector or a mask
result leaves as it is, on a group and on a proof core. -/

namespace Sys2Proof.Machine
open Sys2Proof.Claims

/-! ### What these instructions answer -/

section Answers
variable {s t : State} {c : Cur} {g : Group}

theorem maskScalar_answer {d : SReg} {a : MReg} {f : Nat → Nat} (hc : s.Issuing c) (e : maskScalar s d a f = .next t) :
    (∃ x, t = s.putS c d x) ∨ (∃ k, s.ProofIssuing c k) ∧ t = s.trap c cILLOP := by
  obtain ⟨b, ⟨k, hk, rfl⟩ | ⟨g, hg, rfl⟩⟩ := withGroup_next e
  · obtain rfl := Option.some.inj (hc.1.symm.trans hk.1)
    exact .inr ⟨⟨k, hk⟩, rfl⟩
  · obtain rfl := Option.some.inj (hc.1.symm.trans hg.1)
    exact .inl ⟨_, rfl⟩

/-- An instruction with a scalar result puts it; one that reads a mask takes ILLOP on a proof core. -/
theorem scalarDest_answer {i : Instr} {d : SReg} (hc : s.Issuing c) (hi : scalarDest i = some d) (e : exec i s = .next t) :
    (∃ x, t = s.putS c d x) ∨ (∃ k, s.ProofIssuing c k) ∧ t = s.trap c cILLOP := by
  cases i <;> cases hi
  case mmovToScalar | mpopc | mfirst => exact maskScalar_answer hc e
  all_goals
    obtain rfl := Host.Outcome.next.inj ((withAgent_issuing hc _).symm.trans e)
    exact .inl ⟨_, rfl⟩

/-- An instruction with a mask result puts it. -/
theorem maskDest_answer {i : Instr} {d : MReg} (hg : s.GroupIssuing c g) (hi : maskDest i = some d) (e : exec i s = .next t) :
    ∃ x, t = s.putM c g d x := by
  cases i <;> cases hi
  all_goals
    obtain rfl := Host.Outcome.next.inj ((withGroup_group hg _).symm.trans e)
    exact ⟨_, rfl⟩

end Answers

/-! ### Flags that an instruction may raise (02 R46) -/

/-- A flag set lies within another. -/
def FlagsIn (fl x : Flags) : Prop := x &&& fl = x

section Flags

theorem FlagsIn.intro {fl x : Flags} (h : x &&& fl = x) : FlagsIn fl x := h

theorem FlagsIn.none {fl : Flags} : FlagsIn fl fNone := .intro BitVec.zero_and
theorem FlagsIn.is : FlagsIn 32 fIS := .intro rfl
theorem FlagsIn.nv : FlagsIn 31 fNV := .intro rfl
theorem FlagsIn.nx : FlagsIn 31 fNX := .intro rfl
theorem FlagsIn.uf : FlagsIn 31 (fUF ||| fNX) := .intro rfl
theorem FlagsIn.of : FlagsIn 31 (fOF ||| fNX) := .intro rfl

/-- What is in a set is joined to anything else as far as it lies in the set. -/
theorem FlagsIn.join {fl y : Flags} (h : FlagsIn fl y) (x : Flags) : x ||| y = x ||| ((x ||| y) &&& fl) := by
  refine BitVec.eq_of_getLsbD_eq fun i _ => ?_
  have bit : (y.getLsbD i && fl.getLsbD i) = y.getLsbD i := by rw [← BitVec.getLsbD_and, h]
  simp only [BitVec.getLsbD_or, BitVec.getLsbD_and]
  cases hx : x.getLsbD i <;> simp [bit]

theorem FlagsIn.or {fl x y : Flags} (hx : FlagsIn fl x) (hy : FlagsIn fl y) : FlagsIn fl (x ||| y) := by
  refine BitVec.eq_of_getLsbD_eq fun i _ => ?_
  have bitx : (x.getLsbD i && fl.getLsbD i) = x.getLsbD i := by rw [← BitVec.getLsbD_and, hx]
  have bity : (y.getLsbD i && fl.getLsbD i) = y.getLsbD i := by rw [← BitVec.getLsbD_and, hy]
  rw [BitVec.getLsbD_and, BitVec.getLsbD_or, Bool.and_or_distrib_right, bitx, bity]

theorem FlagsIn.orFlags {fl : Flags} {xs : List Flags} (h : ∀ x ∈ xs, FlagsIn fl x) : FlagsIn fl (orFlags xs) := by
  have fold : ∀ (y : Flags), FlagsIn fl y → FlagsIn fl (xs.foldl (· ||| ·) y) := by
    induction xs with
    | nil => exact fun y hy => hy
    | cons x xs ih => exact fun y hy => ih (fun z hz => h z (List.mem_cons_of_mem _ hz)) _ (hy.or (h x List.mem_cons_self))
  exact fold 0 (.intro BitVec.zero_and)

theorem FlagsIn.ite {fl x y : Flags} {p : Prop} [Decidable p] (hx : FlagsIn fl x) (hy : FlagsIn fl y) : FlagsIn fl (if p then x else y) := by
  split
  · exact hx
  · exact hy

theorem FlagsIn.iteSnd {α : Type} {fl : Flags} {x y : α × Flags} {p : Prop} [Decidable p] (hx : FlagsIn fl x.2) (hy : FlagsIn fl y.2) :
    FlagsIn fl (if p then x else y).2 := by
  split
  · exact hx
  · exact hy

theorem satI_flags (ty : ITy) (y : Int) : FlagsIn 32 (satI ty y).2 := .iteSnd .is (.iteSnd .is .none)

theorem dot4_flags (sgn mix sat : Bool) (a b x : Nat) : FlagsIn 32 (dot4 sgn mix sat a b x).2 := .iteSnd (satI_flags ..) .none

theorem roundFin_flags (f : FTy) (mode : RMode) (sat neg : Bool) (m : Nat) (e : Int) (more : Bool) :
    FlagsIn 31 (roundFin f mode sat neg m e more).2 := .iteSnd .of (.ite (.ite .uf .nx) .none)

theorem roundF_flags (f : FTy) (mode : RMode) (sat : Bool) (x : XVal) : FlagsIn 31 (roundF f mode sat x).2 := by
  cases x with
  | nan =>
    show FlagsIn 31 (match f.nanCode with
      | some c => (c, fNone)
      | none => (0, fNV)).2
    cases f.nanCode with
    | some c => exact .none
    | none => exact .nv
  | inf neg => exact .iteSnd .none .of
  | zero neg => exact .none
  | fin neg m e more => exact roundFin_flags ..

theorem mulX_flags (x y : XVal) : FlagsIn 31 (mulX x y).2 := by
  cases x <;> cases y
  case inf.zero | zero.inf => exact .nv
  all_goals exact .none

theorem sumX_flags (mode : RMode) (xs : List XVal) : FlagsIn 31 (sumX mode xs).2 :=
  .iteSnd .none (.iteSnd .nv (.iteSnd .none (.iteSnd .none (.iteSnd .none .none))))

theorem roundWith_flags {f : FTy} {mode : RMode} {x : XVal × Flags} (h : FlagsIn 31 x.2) : FlagsIn 31 (roundWith f mode x).2 :=
  h.or (roundF_flags ..)

theorem ffma_flags (f : FTy) (mode : RMode) (a b c : XVal) : FlagsIn 31 (ffma f mode a b c).2 :=
  roundWith_flags (.ite .none ((mulX_flags ..).or (sumX_flags ..)))

theorem frint_flags (f : FTy) (mode : RMode) (c : Nat) : FlagsIn 31 (frint f mode c).2 := by
  unfold frint
  split
  · exact .ite .nx .none
  · exact .none

variable {s t : State} {c : Cur} {g : Group}

/-- An instruction with lane results puts them, with flags that it may raise. -/
theorem vectorDest_answer {i : Instr} {gd : MReg} {d : VReg} {fl : Flags} (hg : s.GroupIssuing c g) (hi : vectorDest i = some (gd, d, fl))
    (e : exec i s = .next t) : ∃ f, t = s.putV c g d.toNat (g.lanes gd) f ∧ ∀ n, FlagsIn fl (f n).2 := by
  cases i <;> cases hi
  all_goals obtain rfl := Host.Outcome.next.inj ((withGroup_group hg _).symm.trans e)
  case vli ty _ => exact ⟨_, rfl, fun _ => by cases ty <;> exact .none⟩
  case vaddsatLong | vaddsatLiteral | vsubsatLong | vsubsatLiteral => exact ⟨_, rfl, fun _ => satI_flags ..⟩
  case vdot4 => exact ⟨_, rfl, fun _ => dot4_flags ..⟩
  case vfaddLong | vfaddLiteral | vfsubLong | vfsubLiteral => exact ⟨_, rfl, fun _ => roundWith_flags (sumX_flags ..)⟩
  case vfmulLong | vfmulLiteral => exact ⟨_, rfl, fun _ => roundWith_flags (mulX_flags ..)⟩
  case vfma => exact ⟨_, rfl, fun _ => ffma_flags ..⟩
  case vfrint => exact ⟨_, rfl, fun _ => frint_flags ..⟩
  case vcvt => exact ⟨_, rfl, fun _ => .intro BitVec.and_allOnes⟩
  all_goals exact ⟨_, rfl, fun _ => .none⟩

end Flags

/-! ### Everything but the issuing group -/

section Others
variable {s t u : State} {c : Cur} {g h : Group}

theorem othersSame_refl (s : State) (g : Group) : OthersSame s s g := ⟨fun _ _ _ => rfl, rfl⟩

theorem othersSame_trans (a : OthersSame s t g) (b : OthersSame t u g) : OthersSame s u g := by
  refine ⟨fun k n e => (b.1 k n e).trans (a.1 k n e), ?_⟩
  rw [b.2, a.2]

theorem write_others (cs : List Host.Cell) : OthersSame s (s.write cs) g := ⟨fun _ _ _ => rfl, rfl⟩

theorem commits_others (ms : List Commit) : OthersSame s { s with commits := ms } g := ⟨fun _ _ _ => rfl, rfl⟩

theorem setProof_others (p : ProofCore) : OthersSame s (s.setProof p) g := ⟨fun _ _ _ => rfl, rfl⟩

theorem setGroup_others (core : h.core = g.core) (slot : h.slot = g.slot) : OthersSame s (s.setGroup h) g :=
  ⟨fun _ _ e => group?_setGroup_other (by rwa [core, slot]), rfl⟩

theorem setFound_others (f : Group → Group) (e : s.group? g.core g.slot = some h) (core : (f h).core = h.core) (slot : (f h).slot = h.slot) :
    OthersSame s (s.setGroup (f h)) g :=
  setGroup_others (core.trans (group?_slot e).1) (slot.trans (group?_slot e).2)

theorem queueRecord_others (k : Nat) (nostop : Bool) (r : TrapRec) : OthersSame s (s.queueRecord k nostop r) g := by
  unfold State.queueRecord
  dsimp only
  split <;> exact setProof_others ..

theorem settleTrap_others : OthersSame s (s.settleTrap g.core g.slot) g := by
  unfold State.settleTrap
  split
  · next h e =>
    split
    · next r _ =>
      split
      · exact othersSame_trans (setFound_others (fun h => { h with run := .trapped r true }) e rfl rfl) (queueRecord_others ..)
      · exact othersSame_refl s g
    · exact othersSame_refl s g
  · exact othersSame_refl s g

variable (hc : c.agent = .group g.core g.slot)
include hc

theorem trapAt_others (pc : DWord) (cause code : Nat) (x y : DWord) : OthersSame s (s.trapAt c pc cause code x y) g := by
  simp only [State.trapAt, hc]
  split
  · exact othersSame_refl s g
  · next h e =>
    refine othersSame_trans ?_ settleTrap_others
    refine othersSame_trans (commits_others _)
      (setFound_others (fun h => { h with pc := pc, run := .trapped (s.trapRecord h cause code pc x y) false }) ?_ rfl rfl)
    exact e

theorem finish_others : OthersSame s (s.finish c) g := by
  have moved : ∀ pc, OthersSame s (s.goTo c pc) g := fun pc => by
    refine othersSame_trans (commits_others (s.commits.map (countWindow s.cycle c.agent))) ?_
    simp only [State.goTo, State.setPc, hc]
    split
    · next e => exact setFound_others (fun h => { h with pc := pc, fresh := false, checkPc := false }) e rfl rfl
    · exact othersSame_refl _ g
  refine othersSame_trans (moved (c.tail.getD c.next)) ?_
  unfold State.finish
  unfold State.tailTrap
  split
  · exact othersSame_refl _ g
  · exact trapAt_others hc ..

theorem raise_others (f : Flags) : OthersSame s (s.raise c.agent f) g := by
  simp only [State.raise, hc]
  split
  · next e => exact setFound_others (fun h => { h with fstat := h.fstat ||| f }) e rfl rfl
  · exact othersSame_refl s g

end Others

/-! ### Registers by their bytes (01 R18) -/

section Registers
variable {s t : State} {g : Group}

theorem le_of_bytes {a n : Nat} (h : ∀ j < n, t.byte (a + j) = s.byte (a + j)) : t.le a n = s.le a n := by
  unfold State.le
  refine congrArg leNat ?_
  induction n generalizing a with
  | zero => rfl
  | succ n ih =>
    rw [State.bytes, State.bytes, ih fun j hj => by simpa [Nat.add_assoc, Nat.add_comm 1] using h (j + 1) (by omega)]
    rw [show t.byte a = s.byte a from h 0 (by omega)]

theorem sreg_of_bytes {r : Nat} (h : ∀ j < 8, t.byte (g.skey r + j) = s.byte (g.skey r + j)) : t.sreg g r = s.sreg g r := by
  rw [State.sreg, State.sreg, le_of_bytes h]

theorem vlane_of_bytes {v n : Nat} (h : ∀ j < 4, t.byte (g.vkey v n + j) = s.byte (g.vkey v n + j)) : t.vlane g v n = s.vlane g v n := le_of_bytes h

/-- Different scalar registers share no byte. -/
theorem skey_apart {r d : SReg} (h : r ≠ d) : g.skey r.toNat + 8 ≤ g.skey d.toNat ∨ g.skey d.toNat + 8 ≤ g.skey r.toNat := by
  have : r.toNat ≠ d.toNat := fun e => h (BitVec.eq_of_toNat_eq e)
  unfold Group.skey storeKey
  omega

/-- A lane lies within its register. -/
theorem vkey_within {v n : Nat} (hn : n < g.width) :
    g.win + v * (4 * g.width) + storeKey g.core 0 ≤ g.vkey v n ∧ g.vkey v n + 4 ≤ g.win + (v + 1) * (4 * g.width) + storeKey g.core 0 := by
  unfold Group.vkey storeKey
  rw [Nat.mul_assoc, Nat.add_one_mul v]
  omega

/-- Different lanes of a register, and lanes of different registers, share no byte. -/
theorem vkey_apart {v w n m : Nat} (hn : n < g.width) (hm : m < g.width) (h : v ≠ w ∨ n ≠ m) :
    g.vkey v n + 4 ≤ g.vkey w m ∨ g.vkey w m + 4 ≤ g.vkey v n := by
  obtain ⟨lowv, highv⟩ := vkey_within (v := v) hn
  obtain ⟨loww, highw⟩ := vkey_within (v := w) hm
  obtain lt | eq | lt := Nat.lt_trichotomy v w
  · have := Nat.mul_le_mul_right (4 * g.width) (show v + 1 ≤ w from lt)
    omega
  · subst eq
    unfold Group.vkey storeKey
    omega
  · have := Nat.mul_le_mul_right (4 * g.width) (show w + 1 ≤ v from lt)
    omega

/-- A group's scalar registers lie apart from its vector registers. -/
theorem skey_vkey_apart (h : Group.Apart g) (r : SReg) {v n : Nat} (hv : v < g.vregs) (hn : n < g.width) :
    g.skey r.toNat + 8 ≤ g.vkey v n ∨ g.vkey v n + 4 ≤ g.skey r.toNat := by
  obtain ⟨low, high⟩ := vkey_within (v := v) hn
  have top := Nat.mul_le_mul_right (4 * g.width) (show v + 1 ≤ g.vregs from hv)
  have := r.isLt
  rw [Group.Apart, Nat.mul_assoc] at h
  unfold Group.skey storeKey
  unfold storeKey at low high
  omega

theorem mem_lanes {gd : MReg} {n : Nat} (h : n ∈ g.lanes gd) : n < g.width := by
  unfold Group.lanes lanesIn at h
  simpa using (List.mem_filter.1 h).1

end Registers

/-! ### The frame of each result -/

section Frames
variable {s : State} {c : Cur} {g : Group}

/-- A completion leaves the issuing group calm and everything else as it is. -/
theorem finish_frame {u : State} {h : Group} (hc : c.agent = .group g.core g.slot) (e : u.group? g.core g.slot = some h) :
    (∃ i, (u.finish c).group? g.core g.slot = some i ∧ GroupCalm h i) ∧ OthersSame u (u.finish c) g :=
  ⟨(finish_calm u c).groups _ _ h e, finish_others hc⟩

theorem putS_byte (hs : s.Inv) (hg : s.GroupIssuing c g) {d : SReg} {x a : Nat} (ha : d = 0 ∨ a < g.skey d.toNat ∨ g.skey d.toNat + 8 ≤ a) :
    (s.putS c d x).byte a = s.byte a := by
  obtain ⟨-, agent, found⟩ := hg
  rw [State.putS, byte_of_mem (finish_mem ..), agent]
  exact setSregA_byte hs found rfl (ha.imp_left (congrArg BitVec.toNat))

theorem putV_byte (hs : s.Inv) {d a : Nat} {ls : List Nat} {f : Nat → Nat × Flags} (ha : ∀ n ∈ ls, a < g.vkey d n ∨ g.vkey d n + 4 ≤ a) :
    (s.putV c g d ls f).byte a = s.byte a := by
  rw [State.putV, byte_of_mem ((finish_mem ..).trans (raise_mem ..))]
  refine byte_write hs fun y hy hya => ?_
  obtain ⟨r, hr, low, high⟩ := mem_laneCells hy
  obtain ⟨n, hn, rfl⟩ := List.mem_map.1 hr
  have := ha n hn
  dsimp only at low high
  omega

theorem scalarDest_frame (hs : s.Inv) (hg : s.GroupIssuing c g) (d : SReg) (x : Nat) : let t := s.putS c d x
    (∀ a, d = 0 ∨ a < g.skey d.toNat ∨ g.skey d.toNat + 8 ≤ a → t.byte a = s.byte a)
    ∧ (∀ r : SReg, r ≠ d ∨ d = 0 → t.sreg g r.toNat = s.sreg g r.toNat)
    ∧ (Group.Apart g → ∀ (v : VReg) (n : Nat), v.toNat < g.vregs → n < g.width → t.vlane g v.toNat n = s.vlane g v.toNat n)
    ∧ (∃ h, t.group? g.core g.slot = some h ∧ SameGroup g h ∧ h.masks = g.masks ∧ h.fstat = g.fstat) ∧ OthersSame s t g := by
  have written : s.setSregA c.agent d.toNat (.ofNat 64 x) = s.write (g.scells d.toNat (.ofNat 64 x)) := by
    rw [hg.2.1, setSregA_group hg.2.2]
  have found : (s.setSregA c.agent d.toNat (.ofNat 64 x)).group? g.core g.slot = some g := by
    rw [written]
    exact hg.2.2
  obtain ⟨⟨h, hh, calm⟩, others⟩ := finish_frame hg.2.1 found
  refine ⟨fun a => putS_byte hs hg, fun r hr => sreg_of_bytes fun j hj => putS_byte hs hg ?_,
    fun apart v n hv hn => vlane_of_bytes fun j hj => putS_byte hs hg (.inr ?_), ⟨h, hh, calm.same⟩, ?_⟩
  · obtain hr | zero := hr
    · have := skey_apart (g := g) hr
      omega
    · exact .inl zero
  · have := skey_vkey_apart apart d hv hn
    omega
  · refine othersSame_trans ?_ others
    rw [written]
    exact write_others _

theorem vectorDest_frame (hs : s.Inv) (hg : s.GroupIssuing c g) (gd : MReg) (d : VReg) {fl : Flags} {f : Nat → Nat × Flags}
    (hf : ∀ n, FlagsIn fl (f n).2) : let t := s.putV c g d.toNat (g.lanes gd) f
    (∀ a, (∀ n ∈ g.lanes gd, a < g.vkey d.toNat n ∨ g.vkey d.toNat n + 4 ≤ a) → t.byte a = s.byte a)
    ∧ (∀ n, n < g.width → n ∉ g.lanes gd → t.vlane g d.toNat n = s.vlane g d.toNat n)
    ∧ (∀ (v : VReg) (n : Nat), v ≠ d → n < g.width → t.vlane g v.toNat n = s.vlane g v.toNat n)
    ∧ (Group.Apart g → d.toNat < g.vregs → ∀ r : SReg, t.sreg g r.toNat = s.sreg g r.toNat)
    ∧ (∃ h, t.group? g.core g.slot = some h ∧ SameGroup g h ∧ h.masks = g.masks ∧ h.fstat = g.fstat ||| (h.fstat &&& fl))
    ∧ OthersSame s t g := by
  have flags : FlagsIn fl (orFlags ((g.lanes gd).map fun i => (f i).2)) := .orFlags fun x hx => by
    obtain ⟨n, -, rfl⟩ := List.mem_map.1 hx
    exact hf n
  generalize hfl : orFlags ((g.lanes gd).map fun i => (f i).2) = y at flags
  obtain ⟨-, agent, found⟩ := hg
  have raised : ∀ cs, (s.write cs).raise c.agent y = (s.write cs).setGroup { g with fstat := g.fstat ||| y } := fun cs => by
    have written : (s.write cs).group? g.core g.slot = some g := found
    simp only [State.raise, agent, written]
  have standing := group?_setGroup_self (s := s.write (g.laneCells d.toNat ((g.lanes gd).map fun i => (i, (f i).1))))
    (g := { g with fstat := g.fstat ||| y }) found
  rw [← raised] at standing
  obtain ⟨⟨h, hh, calm⟩, others⟩ := finish_frame agent standing
  refine ⟨fun a => putV_byte hs, fun n hn out => vlane_of_bytes fun j hj => putV_byte hs fun m hm => ?_,
    fun v n hv hn => vlane_of_bytes fun j hj => putV_byte hs fun m hm => ?_,
    fun apart hd r => sreg_of_bytes fun j hj => putV_byte hs fun m hm => ?_, ?_, ?_⟩
  · have := vkey_apart (v := d.toNat) (w := d.toNat) hn (mem_lanes hm) (.inr fun e => out (e ▸ hm))
    omega
  · have := vkey_apart (v := v.toNat) (w := d.toNat) hn (mem_lanes hm) (.inl fun e => hv (BitVec.eq_of_toNat_eq e))
    omega
  · have := skey_vkey_apart apart r hd (mem_lanes hm)
    omega
  · obtain ⟨same, masks, fstat⟩ := calm.same
    refine ⟨h, by rw [State.putV, hfl]; exact hh, same, masks, ?_⟩
    rw [fstat]
    exact flags.join _
  · rw [State.putV, hfl]
    exact othersSame_trans (othersSame_trans (write_others _) (raise_others agent _)) others

theorem maskDest_frame (hg : s.GroupIssuing c g) (d : MReg) (x : DWord) : let t := s.putM c g d x
    t.mem = s.mem
    ∧ (∃ h, t.group? g.core g.slot = some h ∧ SameGroup g h ∧ (∀ m, m ≠ d ∨ d = 0 → h.mask m = g.mask m) ∧ h.fstat = g.fstat)
    ∧ OthersSame s t g := by
  obtain ⟨-, agent, found⟩ := hg
  have core : (g.setMask d x).core = g.core := by unfold Group.setMask; split <;> rfl
  have slot : (g.setMask d x).slot = g.slot := by unfold Group.setMask; split <;> rfl
  have same : SameGroup g (g.setMask d x) := by unfold Group.setMask; split <;> rfl
  have fstat : (g.setMask d x).fstat = g.fstat := by unfold Group.setMask; split <;> rfl
  have standing : (s.setGroup (g.setMask d x)).group? g.core g.slot = some (g.setMask d x) := by
    have := group?_setGroup_self (g := g.setMask d x) (by rw [core, slot]; exact found)
    rwa [core, slot] at this
  obtain ⟨⟨h, hh, calm⟩, others⟩ := finish_frame agent standing
  refine ⟨finish_mem .., ⟨h, hh, ?_, fun m hm => ?_, ?_⟩, othersSame_trans (setGroup_others core slot) others⟩
  · unfold GroupCalm at calm
    unfold SameGroup at same ⊢
    rw [calm, same]
  · have : h.mask m = (g.setMask d x).mask m := by rw [calm]; rfl
    rw [this]
    obtain other | rfl := hm
    · exact mask_setMask_other other x
    · rfl
  · rw [calm]
    exact fstat

end Frames

/-! ### A proof core's results (06 R138, 14 R287) -/

section ProofCores
variable {s t u : State} {c : Cur} {k : Nat}

/-- Of the machine one proof core's registers, program counter and halting may have changed, and what they report. -/
def OneProof (s t : State) (k : Nat) : Prop :=
  t.proof k = { s.proof k with
    sregs := (t.proof k).sregs, pc := (t.proof k).pc, halted := (t.proof k).halted, wait := (t.proof k).wait }
  ∧ (∀ j, j ≠ k → t.proof j = s.proof j)
  ∧ t = { s with proofs := t.proofs, commits := t.commits, boot := { s.boot with halt := t.boot.halt, msix := t.boot.msix } }

theorem OneProof.refl (s : State) (k : Nat) : OneProof s s k := ⟨rfl, fun _ _ => rfl, rfl⟩

theorem OneProof.trans (a : OneProof s t k) (b : OneProof t u k) : OneProof s u k := by
  obtain ⟨a1, a2, a3⟩ := a
  obtain ⟨b1, b2, b3⟩ := b
  refine ⟨?_, fun j hj => (b2 j hj).trans (a2 j hj), by rw [b3, a3]⟩
  rw [b1, a1]

theorem setProof_one {q : ProofCore}
    (h : q = { s.proof k with sregs := q.sregs, pc := q.pc, halted := q.halted, wait := q.wait }) : OneProof s (s.setProof q) k := by
  have cluster : q.cluster = k := by
    rw [h]
    exact proof_cluster s k
  have self : (s.setProof q).proof k = q := by
    rw [← cluster]
    exact proof_setProof_self s q
  refine ⟨?_, fun j hj => proof_setProof_other (cluster.symm ▸ hj), rfl⟩
  rw [self]
  exact h

theorem trapAt_one (hc : c.agent = .proof k) (pc : DWord) (cause code : Nat) (x y : DWord) : OneProof s (s.trapAt c pc cause code x y) k := by
  simp only [State.trapAt, hc]
  have moved : OneProof s (s.setProof { s.proof k with pc := pc }) k := setProof_one rfl
  refine moved.trans ?_
  generalize s.setProof { s.proof k with pc := pc } = u
  have halted : OneProof u (u.setProof { u.proof k with halted := true, wait := none }) k := setProof_one rfl
  exact halted.trans ⟨rfl, fun _ _ => rfl, rfl⟩

theorem finish_one (hc : c.agent = .proof k) : OneProof s (s.finish c) k := by
  have moved : ∀ pc, OneProof s (s.goTo c pc) k := fun pc => by
    simp only [State.goTo, State.setPc, hc]
    have counted : OneProof s { s with commits := s.commits.map (countWindow s.cycle (.proof k)) } k := ⟨rfl, fun _ _ => rfl, rfl⟩
    exact counted.trans (setProof_one rfl)
  refine (moved (c.tail.getD c.next)).trans ?_
  unfold State.finish
  unfold State.tailTrap
  split
  · exact .refl _ k
  · exact trapAt_one hc ..

/-- A scalar register of a proof core that is not written reads as before. -/
theorem setSregA_proof_other {d r : SReg} (h : r ≠ d ∨ d = 0) (x : DWord) :
    (s.setSregA (.proof k) d.toNat x).sregA (.proof k) r.toNat = s.sregA (.proof k) r.toNat := by
  unfold State.setSregA
  dsimp only
  split
  · rfl
  · next hd =>
    have cluster := proof_cluster s k
    have self : (s.setProof { s.proof k with sregs := (s.proof k).sregs.setIfInBounds d.toNat x }).proof k
        = { s.proof k with sregs := (s.proof k).sregs.setIfInBounds d.toNat x } := by
      have := proof_setProof_self s { s.proof k with sregs := (s.proof k).sregs.setIfInBounds d.toNat x }
      rwa [cluster] at this
    have other : d.toNat ≠ r.toNat := by
      obtain h | h := h
      · exact fun e => h (BitVec.eq_of_toNat_eq e.symm)
      · exact absurd (congrArg BitVec.toNat h) hd
    simp only [State.sregA, self]
    split
    · rfl
    · simp [List.getD_eq_getElem?_getD, List.getElem?_set_ne other]

theorem sregA_of_sregs (h : (t.proof k).sregs = (s.proof k).sregs) (r : Nat) : t.sregA (.proof k) r = s.sregA (.proof k) r := by
  simp only [State.sregA, h]

theorem proof_scalar_frame {i : Instr} {d : SReg} (hp : s.ProofIssuing c k) (hi : scalarDest i = some d) (e : exec i s = .next t) :
    t.mem = s.mem ∧ (∀ r : SReg, r ≠ d ∨ d = 0 → t.sregA (.proof k) r.toNat = s.sregA (.proof k) r.toNat) ∧ OneProof s t k := by
  obtain ⟨x, rfl⟩ | ⟨-, rfl⟩ := scalarDest_answer (ProofIssuing.issuing hp) hi e
  · have put : OneProof s (s.setSregA c.agent d.toNat (.ofNat 64 x)) k := by
      rw [hp.2]
      unfold State.setSregA
      dsimp only
      split
      · exact .refl s k
      · exact setProof_one rfl
    have mem : (s.setSregA c.agent d.toNat (.ofNat 64 x)).mem = s.mem := by rw [put.2.2]
    refine ⟨(finish_mem ..).trans mem, fun r hr => ?_, put.trans (finish_one hp.2)⟩
    rw [State.putS, sregA_of_sregs ((finish_calm ..).proofs k).sregs, hp.2]
    exact setSregA_proof_other hr _
  · exact ⟨trap_mem .., fun r _ => sregA_of_sregs ((trap_calm ..).proofs k).sregs _, trapAt_one hp.2 ..⟩

end ProofCores

end Sys2Proof.Machine
end

section
/-! PROOFS. The frame of instructions that answer with a status (08 R197, R202, 11 R262 to R264): the register of the status changes alone,
but for the words that a command with nothing to translate writes at once. -/

namespace Sys2Proof.Machine
open Sys2Proof.Claims

/-! ### Instructions that go on, or leave things calm -/

section Reads
variable {s k : State} (c : Cur)

theorem checked_cases (g : Group) (acc : List Nat) (store plain8 : Bool) (n : Nat) (as : List (Nat × Nat)) :
    s.checked c g acc store plain8 n as k = k ∨ s.Calm (s.checked c g acc store plain8 n as k) := by
  unfold State.checked
  split
  · exact .inr ((trapAt_calm ..).trans (dropGrants_calm ..))
  · exact .inl rfl

theorem sound_cases (rs : List (Nat × Nat)) : s.sound c rs k = k ∨ s.Calm (s.sound c rs k) := by
  unfold State.sound
  split
  · exact .inr ((trapAt_calm ..).trans (dropGrants_calm ..))
  · exact .inl rfl

theorem ordered_cases (rel : Bool) (lat : Nat) : s.ordered c rel lat k = k ∨ s.Calm (s.ordered c rel lat k) := by
  unfold State.ordered
  split
  · exact .inr (retryAt_calm ..)
  · exact .inl rfl

theorem readAtIssue_cases (g : Group) (acc : List Nat) (rel : Bool) (addr n : Nat) (f : Nat → State) :
    (∃ x, s.readAtIssue c g acc rel addr n f = f x) ∨ s.Calm (s.readAtIssue c g acc rel addr n f) := by
  unfold State.readAtIssue
  dsimp only
  obtain h | h := checked_cases (s := s) (k := if s.ownPending c.agent (s.locate g addr).1 n = true then
      s.waitAgain c (.ownWrites (s.locate g addr).1 n)
    else if (!(s.opsOver c.agent (s.locate g addr).1 n).isEmpty) = true then s.retryAt c 0
    else s.ordered c rel 2 (s.sound c [((s.locate g addr).1, n)] (f (s.le (s.locate g addr).1 n)))) c g acc false false n [(0, addr)]
  · rw [h]
    split
    · exact .inr (waitAgain_calm ..)
    · split
      · exact .inr (retryAt_calm ..)
      · obtain h | h := ordered_cases (s := s) (k := s.sound c [((s.locate g addr).1, n)] (f (s.le (s.locate g addr).1 n))) c rel 2
        · rw [h]
          exact (sound_cases (k := f (s.le (s.locate g addr).1 n)) c _).imp_left fun h => ⟨_, h⟩
        · exact .inr h
  · exact .inr h

theorem readList_cases (g : Group) (a n : Nat) (f : List Nat → State) :
    (∃ x, s.readList c g a n f = f x) ∨ s.Calm (s.readList c g a n f) := by
  unfold State.readList
  dsimp only
  split
  · exact .inr (cmdTrap_calm ..)
  · split
    · exact .inr (waitAgain_calm ..)
    · split
      · exact .inr (retryAt_calm ..)
      · exact (sound_cases c _).imp_left fun h => ⟨_, h⟩

end Reads

/-! ### One register of status -/

/-- Of memory the register of a status may have changed alone, of groups and proof cores no register. -/
def StatusFrame (g : Group) (d : SReg) (s t : State) : Prop :=
  (∀ a, d = 0 ∨ a < g.skey d.toNat ∨ g.skey d.toNat + 8 ≤ a → t.byte a = s.byte a) ∧ GroupsSame s t ∧ ∀ p, (t.proof p).sregs = (s.proof p).sregs

section Status
variable {s t u : State} {c : Cur} {g : Group} {d : SReg}

theorem StatusFrame.of_calm (h : s.Calm t) : StatusFrame g d s t :=
  ⟨fun _ _ => byte_of_mem h.mem, AgentsCalm.groupsSame h.toAgentsCalm, fun p => (h.proofs p).sregs⟩

theorem setSregA_agents (u : State) (k n r : Nat) (x : DWord) : u.AgentsCalm (u.setSregA (.group k n) r x) := by
  unfold State.setSregA
  dsimp only
  split <;> exact .of_same rfl rfl

/-- A status is put after calm steps, and calm steps follow. -/
theorem StatusFrame.of_put (hs : s.Inv) (hg : s.GroupIssuing c g) {x : DWord} (before : s.Calm u)
    (after : (u.setSregA c.agent d.toNat x).Calm t) : StatusFrame g d s t := by
  obtain ⟨-, agent, found⟩ := hg
  obtain ⟨h, hh, calm⟩ := before.groups _ _ g found
  rw [agent] at after
  have agents := (before.toAgentsCalm.trans (setSregA_agents ..)).trans after.toAgentsCalm
  refine ⟨fun a ha => ?_, AgentsCalm.groupsSame agents, fun p => (agents.proofs p).sregs⟩
  rw [byte_of_mem after.mem, setSregA_byte (inv_of_mem hs before.mem) hh (by rw [calm]) (ha.imp_left (congrArg BitVec.toNat)),
    byte_of_mem before.mem]

theorem StatusFrame.of_putS (hs : s.Inv) (hg : s.GroupIssuing c g) {x : Nat} (before : s.Calm u) : StatusFrame g d s (u.putS c d x) :=
  .of_put hs hg before (finish_calm ..)

theorem StatusFrame.of_status (hs : s.Inv) (hg : s.GroupIssuing c g) {x : DWord} (before : s.Calm u) : StatusFrame g d s (u.status c d x) :=
  .of_put hs hg before (finish_calm ..)

theorem drainPending_calm (s : State) (cl n : Nat) : s.Calm (s.drainPending cl n) := by
  induction n generalizing s with
  | zero => exact .refl s
  | succ n ih =>
    unfold State.drainPending
    split
    · exact .refl s
    · split
      · exact .refl s
      · have moved : ∀ xs ys, s.Calm { s with tready := xs, tpending := ys } := fun _ _ => .of_same rfl rfl rfl
        exact (moved _ _).trans (ih _)

theorem sealDomain_calm (s : State) (lid x : Nat) : s.Calm (s.sealDomain lid x) := by
  unfold State.sealDomain
  split
  · split
    · exact .of_same rfl rfl rfl
    · exact .refl s
  · exact .refl s

theorem doneHandle_calm (s : State) (lid h : Nat) : s.Calm (s.doneHandle lid h).1 := by
  unfold State.doneHandle
  split
  · exact .refl s
  · split
    · exact .refl s
    · split
      · exact .refl s
      · split
        · exact .refl s
        · split
          · exact .of_same rfl rfl rfl
          · refine State.Calm.trans ?_ (drainPending_calm ..)
            exact .of_same rfl rfl rfl

theorem domainEnd_calm (s : State) (lid : Nat) : s.Calm (s.domainEnd lid) := by
  unfold State.domainEnd
  split
  · exact .refl s
  · dsimp only
    split
    · exact .of_same rfl rfl rfl
    · exact .refl s

variable (hs : s.Inv) (hg : s.GroupIssuing c g)
include hs hg

theorem twinLim_frame (e : exec (.twinLim d) s = .next t) : StatusFrame g d s t := by
  obtain rfl := Host.Outcome.next.inj ((withGroup_group hg _).symm.trans e)
  split
  · exact .of_putS hs hg (.refl s)
  · exact .of_calm (.refl s)

theorem twinOut_frame (e : exec (.twinOut d) s = .next t) : StatusFrame g d s t := by
  obtain rfl := Host.Outcome.next.inj ((withGroup_group hg _).symm.trans e)
  dsimp only
  split
  · exact .of_putS hs hg (.refl s)
  · exact .of_putS hs hg (.of_same rfl rfl rfl)

theorem twinSet_frame {a : SReg} (e : exec (.twinSet d a) s = .next t) : StatusFrame g d s t := by
  obtain rfl := Host.Outcome.next.inj ((withGroup_group hg _).symm.trans e)
  split
  · exact .of_calm (.refl s)
  · exact .of_putS hs hg (.of_same rfl rfl rfl)

theorem taskq_frame {a b : SReg} (e : exec (.taskq d a b) s = .next t) : StatusFrame g d s t := by
  obtain rfl := Host.Outcome.next.inj ((withGroup_group hg _).symm.trans e)
  dsimp only
  split
  · exact .of_calm (addrTrap_calm ..)
  · split
    · exact .of_calm (addrTrap_calm ..)
    · split
      · exact .of_calm (trap_calm ..)
      · split
        · exact .of_status hs hg (.refl s)
        · split
          · unfold State.askTask
            split
            · exact .of_calm (.refl s)
            · refine .of_put hs hg ?_ (resume_calm ..)
              exact .of_same rfl rfl rfl
          · exact .of_calm (waitAgain_calm ..)

theorem taskpush_frame {a b : SReg} (e : exec (.taskpush d a b) s = .next t) : StatusFrame g d s t := by
  obtain rfl := Host.Outcome.next.inj ((withGroup_group hg _).symm.trans e)
  dsimp only
  split
  · exact .of_calm (trap_calm ..)
  · refine (readAtIssue_cases c g ap0 true _ 64 _).elim (fun ⟨x, h⟩ => ?_) .of_calm
    unfold State.readRecord
    rw [h]
    split
    · exact .of_calm (.refl s)
    · have drained : s.Calm (s.drainPending (clusterOf g.core) pendingMax) := drainPending_calm ..
      split
      · exact .of_status hs hg drained
      · split
        · split
          · exact .of_status hs hg drained
          · refine .of_status hs hg (.trans ?_ (sealDomain_calm ..))
            exact drained.trans (.of_same rfl rfl rfl)
        · split
          · exact .of_status hs hg drained
          · refine .of_status hs hg (.trans ?_ (sealDomain_calm ..))
            exact drained.trans (.of_same rfl rfl rfl)

theorem taskdone_frame {a : SReg} (e : exec (.taskdone d a) s = .next t) : StatusFrame g d s t := by
  obtain rfl := Host.Outcome.next.inj ((withGroup_group hg _).symm.trans e)
  dsimp only
  refine (readAtIssue_cases c g ap0 true _ 64 _).elim (fun ⟨x, h⟩ => ?_) .of_calm
  unfold State.readRecord
  rw [h]
  split
  · exact .of_calm (.refl s)
  · refine .of_status hs hg (.trans ?_ (domainEnd_calm ..))
    refine .trans ?_ (doneHandle_calm ..)
    refine .trans ?_ (doneHandle_calm ..)
    exact .of_same rfl rfl rfl

theorem statusDest_frame {i : Instr} (hi : statusDest i = some d) (e : exec i s = .next t) : StatusFrame g d s t := by
  cases i <;> cases hi
  case twinLim => exact twinLim_frame hs hg e
  case twinOut => exact twinOut_frame hs hg e
  case twinSet => exact twinSet_frame hs hg e
  case taskq => exact taskq_frame hs hg e
  case taskpush => exact taskpush_frame hs hg e
  case taskdone => exact taskdone_frame hs hg e

end Status

/-! ### Engine commands (08 R197) -/

/-- The frame of a command: it holds of one refused, of one with units to translate, and of one whose number is not taken. -/
def CommandFrame (g : Group) (d : SReg) (s t : State) : Prop :=
  t.uid = s.uid ∨ t.sreg g d.toNat ≠ 0 ∨ (∃ m ∈ t.cmds, m.uid = s.uid ∧ m.units ≠ []) → StatusFrame g d s t

/-- What the data of a command with no unit leaves: numbers, the groups' scalar blocks, memory's form, and that the command has no unit. -/
structure State.Serves (uid : Nat) (s t : State) : Prop where
  inv : s.Inv → t.Inv
  num : t.uid = s.uid
  groups : ∀ k n h, s.group? k n = some h → ∃ i, t.group? k n = some i ∧ i.sblk = h.sblk
  units : (∀ m ∈ s.cmds, m.uid = uid → m.units = []) → ∀ m ∈ t.cmds, m.uid = uid → m.units = []

namespace State.Serves
variable {uid : Nat} {s t u : State}

theorem refl (s : State) : s.Serves uid s := ⟨id, rfl, fun _ _ h e => ⟨h, e, rfl⟩, id⟩

theorem trans (h : s.Serves uid t) (k : t.Serves uid u) : s.Serves uid u where
  inv hs := k.inv (h.inv hs)
  num := k.num.trans h.num
  groups a b g hg := by
    obtain ⟨i, hi, same⟩ := h.groups a b g hg
    obtain ⟨j, hj, same'⟩ := k.groups a b i hi
    exact ⟨j, hj, same'.trans same⟩
  units hs := k.units (h.units hs)

theorem of_same (inv : s.Inv → t.Inv) (num : t.uid = s.uid) (groups : t.groups = s.groups) (cmds : ∀ m ∈ t.cmds, m ∈ s.cmds) :
    s.Serves uid t :=
  ⟨inv, num, fun a b g hg => ⟨g, by rwa [State.group?, groups], rfl⟩, fun hs m hm => hs m (cmds m hm)⟩

theorem foldl {α : Type} {f : State → α → State} (h : ∀ (s : State) x, s.Serves uid (f s x)) (xs : List α) (s : State) :
    s.Serves uid (xs.foldl f s) := by
  induction xs generalizing s with
  | nil => exact refl s
  | cons x xs ih => exact (h s x).trans (ih (f s x))

end State.Serves

section Serve
variable (uid : Nat) (s : State)

theorem write_serves (cs : List Host.Cell) : s.Serves uid (s.write cs) := .of_same write_inv rfl rfl fun _ => id

theorem writeRes_serves (m : Cmd) : s.Serves uid (s.writeRes m) := by
  unfold State.writeRes
  refine .foldl (fun s r => ?_) _ s
  split
  · exact write_serves ..
  · exact .refl s

theorem zeroFolio_serves (m : Cmd) (os : List Nat) : s.Serves uid (s.zeroFolio m os) := .foldl (fun s _ => write_serves uid s _) _ s

theorem reap_serves (k : Nat) : s.Serves uid (s.reap k) := by
  unfold State.reap
  split
  · exact .refl s
  · split
    · exact .refl s
    · refine State.Serves.trans (.foldl (fun t x => ?_) _ s) (.of_same id rfl rfl fun _ => id)
      split
      · exact .of_same filter_wf rfl rfl fun _ => id
      · exact .refl t

/-- Groups that keep their slots are found in them. -/
theorem group?_map {s : State} (f : Group → Group) (hf : ∀ g, (f g).core = g.core ∧ (f g).slot = g.slot) (k n : Nat) :
    State.group? { s with groups := s.groups.map f } k n = (s.group? k n).map f := by
  unfold State.group?
  rw [List.find?_map]
  refine congrArg (fun p => (s.groups.find? p).map f) (funext fun g => ?_)
  rw [Function.comp, (hf g).1, (hf g).2]

theorem retireCmd_serves (m : Cmd) : s.Serves uid (s.retireCmd m) := by
  unfold State.retireCmd
  dsimp only
  refine State.Serves.trans ?_ (.foldl (fun s k => reap_serves uid s k) _ _)
  split
  · refine ⟨id, rfl, fun a b g hg => ?_, fun hs n hn => hs n (List.mem_filter.1 hn).1⟩
    refine ⟨if g.team == m.team then { g with notBefore := s.cycle + 1 } else g, ?_, by split <;> rfl⟩
    have stands := group?_map (s := s) (fun g => if g.team == m.team then { g with notBefore := s.cycle + 1 } else g)
      (fun g => by split <;> exact ⟨rfl, rfl⟩) a b
    rw [hg] at stands
    exact stands
  · exact .of_same id rfl rfl fun n hn => (List.mem_filter.1 hn).1

theorem settleCmd_serves (k : Nat) : s.Serves uid (s.settleCmd k) := by
  unfold State.settleCmd
  split
  · exact .refl s
  · split
    · exact .refl s
    · split
      · exact retireCmd_serves ..
      · exact .of_same id rfl rfl fun _ => id

theorem startData_serves (k : Nat) : s.Serves uid (s.startData k) := by
  unfold State.startData
  split
  · exact .refl s
  · next m hm =>
    have put : ∀ n : Cmd, n.uid = m.uid → n.units = m.units → s.Serves uid (s.setCmd n) := fun n num same =>
      ⟨id, rfl, fun a b g hg => ⟨g, hg, rfl⟩, fun hs o ho => by
        obtain rfl | ho := mem_replaceBy ho
        · exact fun e => same.trans (hs m (List.mem_of_find?_eq_some hm) (num ▸ e))
        · exact hs o ho⟩
    have padded : ∀ (t : State) (n : Cmd), t.Serves uid (if n.kind.fetches = true then t.zeroFolio n n.pads else t) := fun t n => by
      split
      · exact zeroFolio_serves ..
      · exact .refl t
    have asked : ∀ (t : State) (rs : List Req), t.Serves uid { t with reqs := rs } := fun t rs => .of_same id rfl rfl fun _ => id
    refine State.Serves.trans ?_ (settleCmd_serves ..)
    refine State.Serves.trans ?_ (asked _ _)
    refine State.Serves.trans ?_ (padded _ _)
    refine State.Serves.trans ?_ (writeRes_serves ..)
    exact put _ rfl rfl

/-- The data of a command that is no PAGEREQ begins, or nothing happens. -/
theorem unitsDone_serves {s : State} {k : Nat} (h : ∀ m, s.cmd? k = some m → m.kind ≠ .pagereq) : s.Serves uid (s.unitsDone k) := by
  unfold State.unitsDone
  split
  · exact .refl s
  · next m hm =>
    split
    · exact .refl s
    · rw [if_neg (h m hm)]
      split
      · exact startData_serves ..
      · exact .refl s

end Serve

theorem beginUnits_keeps (s : State) (m : Cmd) : (s.beginUnits m).uid = m.uid ∧ (s.beginUnits m).kind = m.kind := by
  unfold State.beginUnits
  split <;> exact ⟨rfl, rfl⟩

/-- A command that is sent changes nothing yet, unless it has no unit to translate: then its data begins. -/
theorem sendCmd_cases (s : State) (m : Cmd) : s.Calm (s.sendCmd m) ∨
    ∃ u, s.Calm u ∧ u.uid = s.uid ∧ (∀ n ∈ u.cmds, n.uid = m.uid → n.units = []) ∧ u.Serves m.uid (s.sendCmd m) := by
  unfold State.sendCmd
  dsimp only
  obtain ⟨num, kind⟩ := beginUnits_keeps s { m with charged := true, issued := s.cycle, fences := s.fencesFor m.agent, behind := [] }
  generalize s.beginUnits _ = n at num kind
  dsimp only at num
  rw [← num]
  have kept : ∀ o ∈ s.cmds.filter (·.uid != n.uid) ++ [n], o.uid = n.uid → o = n := fun o ho same => by
    rw [List.mem_append, List.mem_filter, List.mem_singleton] at ho
    exact ho.resolve_left fun h => absurd same (bne_iff_ne.1 h.2)
  split
  · next empty =>
    rw [Bool.and_eq_true, List.isEmpty_iff, bne_iff_ne] at empty
    refine .inr ⟨_, ?_, ?_, ?_, unitsDone_serves _ fun o ho => ?_⟩
    · exact .of_same rfl rfl rfl
    · rfl
    · exact fun o ho same => kept o ho same ▸ empty.1
    · have found := List.find?_some ho
      exact kept o (List.mem_of_find?_eq_some ho) (eq_of_beq found) ▸ empty.2
  · exact .inl (.of_same rfl rfl rfl)

section Commands
variable {s t u : State} {c : Cur} {g : Group} {d : SReg}

theorem CommandFrame.of_calm (h : s.Calm t) : CommandFrame g d s t := fun _ => .of_calm h

variable (hs : s.Inv) (hg : s.GroupIssuing c g)
include hs hg

/-- A command whose data has begun at once has taken its number, answered 0 and has no unit: the frame does not speak of it. -/
theorem served_frame {v : State} {k : Nat} (hk : k = s.uid) (before : s.Calm u) (num : u.uid = s.uid + 1)
    (units : ∀ n ∈ u.cmds, n.uid = k → n.units = []) (sent : u.Serves k v) : CommandFrame g d s (State.resume (v.setSregA c.agent d.toNat (.ofNat 64 0)) c) := by
  subst hk
  obtain ⟨-, agent, found⟩ := hg
  obtain ⟨h, hh, calm⟩ := before.groups _ _ g found
  obtain ⟨i, hi, sblk⟩ := sent.groups _ _ h hh
  have rest := resume_rest (v.setSregA c.agent d.toNat (.ofNat 64 0)) c
  have core : i.core = g.core := (group?_slot hi).1
  have write : v.setSregA c.agent d.toNat (.ofNat 64 0) = v.write (g.scells d.toNat (.ofNat 64 0)) := by
    have key : i.skey d.toNat = g.skey d.toNat := by rw [Group.skey, Group.skey, core, sblk, calm]
    rw [agent, State.setSregA, hi]
    dsimp only
    rw [Group.scells, Group.scells, key]
  rw [write] at rest ⊢
  have inv : v.Inv := sent.inv (inv_of_mem hs before.mem)
  rintro (same | answer | ⟨m, hm, hu, some⟩)
  · have taken : (v.write (g.scells d.toNat (.ofNat 64 0))).uid = s.uid + 1 := sent.num.trans num
    rw [rest.uid, taken] at same
    omega
  · refine absurd ?_ answer
    rw [sreg_of_bytes fun _ _ => byte_of_mem (resume_mem ..)]
    by_cases hd : d.toNat = 0
    · rw [State.sreg, if_pos hd]
    · exact sreg_write inv g hd (.ofNat 64 0)
  · rw [rest.cmds] at hm
    exact absurd (sent.units units m hm hu) some

theorem takeUp_frame (before : s.Calm u) (num : u.uid = s.uid + 1) {m : Cmd} (hm : m.uid = s.uid) :
    CommandFrame g d s (u.takeUp c d m) := by
  unfold State.takeUp
  dsimp only
  have dropped : u.Calm { u with cmds := u.cmds.filter (·.uid != m.uid) } := .of_same rfl rfl rfl
  split
  · refine .of_calm ((before.trans ?_).trans (waitAgain_calm ..))
    exact .of_same rfl rfl rfl
  · split
    · next zero =>
      obtain calm | ⟨v, calm, same, units, sent⟩ := sendCmd_cases { u with cmds := u.cmds.filter (·.uid != m.uid) } m
      · exact fun _ => .of_put hs hg ((before.trans dropped).trans calm) (resume_calm ..)
      · rw [zero]
        exact served_frame hs hg hm ((before.trans dropped).trans calm) (same.trans num) units sent
    · exact fun _ => .of_put hs hg (before.trans dropped) (resume_calm ..)

theorem takeUp_new {m : Cmd} (hm : m.uid = s.uid) : CommandFrame g d s (State.takeUp { s with uid := s.uid + 1 } c d m) := by
  have before : s.Calm { s with uid := s.uid + 1 } := .of_same rfl rfl rfl
  exact takeUp_frame hs hg before rfl hm

theorem engineOp_frame {k : Cur → Group → Team → State} (hk : ∀ team, CommandFrame g d s (k c g team)) (e : engineOp s d k = .next t) :
    CommandFrame g d s t := by
  obtain rfl := Host.Outcome.next.inj ((withGroup_group hg _).symm.trans e)
  split
  · exact .of_calm (.refl s)
  · next team _ =>
    split
    · have before : s.Calm { s.dropHeld c.agent with uid := s.uid + 1 } := .of_same rfl rfl rfl
      exact takeUp_frame hs hg before rfl rfl
    · exact (ordered_cases c false 2).elim (fun h => h ▸ hk team) .of_calm

end Commands

theorem readAtIssue_frame {s : State} {c : Cur} {g : Group} {d : SReg} {acc : List Nat} {addr n : Nat} {f : Nat → State}
    (hf : ∀ x, CommandFrame g d s (f x)) : CommandFrame g d s (s.readAtIssue c g acc false addr n f) :=
  (readAtIssue_cases c g acc false addr n f).elim (fun ⟨x, h⟩ => h ▸ hf x) .of_calm

theorem withPlane_frame {s : State} {c : Cur} {g : Group} {d a b : SReg} {f : Desc → Nat → State}
    (hf : ∀ x base, CommandFrame g d s (f x base)) : CommandFrame g d s (s.withPlane c g a b f) := by
  refine readAtIssue_frame fun x => ?_
  dsimp only
  split
  · exact .of_calm (cmdTrap_calm ..)
  · exact hf _ _

section Checks
variable {s k : State} {c : Cur} {g : Group} {d : SReg} {p : Prop} [Decidable p] {n addr : Nat}

/-- A check of a command that traps: the frame is that of what follows. -/
theorem trap_or (hk : CommandFrame g d s k) : CommandFrame g d s (if p then s.trap c n else k) := by
  split
  · exact .of_calm (trap_calm ..)
  · exact hk

theorem cmdTrap_or (hk : CommandFrame g d s k) : CommandFrame g d s (if p then s.cmdTrap c n addr else k) := by
  split
  · exact .of_calm (cmdTrap_calm ..)
  · exact hk

end Checks

section Commands
variable {s t : State} {c : Cur} {g : Group} {d a b x : SReg} (hs : s.Inv) (hg : s.GroupIssuing c g)
include hs hg

theorem tfetch_frame (e : exec (.tfetch d a b x) s = .next t) : CommandFrame g d s t := by
  refine engineOp_frame hs hg (fun team => withPlane_frame fun ds base => ?_) e
  dsimp only
  split
  · exact .of_calm (trap_calm ..)
  · exact trap_or (takeUp_new hs hg rfl)

theorem tmcast_frame {mask : BitVec 4} (e : exec (.tmcast mask d a b x) s = .next t) : CommandFrame g d s t := by
  refine engineOp_frame hs hg (fun team => withPlane_frame fun ds base => ?_) e
  dsimp only
  split
  · exact .of_calm (trap_calm ..)
  · exact trap_or (cmdTrap_or (takeUp_new hs hg rfl))

theorem tgather_frame (e : exec (.tgather d a b x) s = .next t) : CommandFrame g d s t := by
  refine engineOp_frame hs hg (fun team => withPlane_frame fun ds base => ?_) e
  dsimp only
  split
  · exact .of_calm (trap_calm ..)
  · refine trap_or (trap_or ((readList_cases c g _ _ _).elim (fun ⟨idx, h⟩ => h ▸ ?_) .of_calm))
    exact trap_or (takeUp_new hs hg rfl)

theorem storeOp_frame {kind : CmdKind} {own : Desc → Bool} (e : storeOp s kind own d a b x = .next t) : CommandFrame g d s t := by
  refine engineOp_frame hs hg (fun team => withPlane_frame fun ds base => ?_) e
  dsimp only
  split
  · exact .of_calm (trap_calm ..)
  · exact trap_or (trap_or (takeUp_new hs hg rfl))

theorem tfill_frame (e : exec (.tfill d a b x) s = .next t) : CommandFrame g d s t := by
  refine engineOp_frame hs hg (fun team => readAtIssue_frame fun y => ?_) e
  dsimp only
  split
  · exact .of_calm (trap_calm ..)
  · exact trap_or (trap_or (takeUp_new hs hg rfl))

theorem tcopy_frame (e : exec (.tcopy d a b x) s = .next t) : CommandFrame g d s t := by
  refine engineOp_frame hs hg (fun team => readAtIssue_frame fun y1 => readAtIssue_frame fun y2 => ?_) e
  exact trap_or (trap_or (trap_or (trap_or (trap_or (trap_or (trap_or (takeUp_new hs hg rfl)))))))

theorem pagereq_frame (e : exec (.pagereq d a b x) s = .next t) : CommandFrame g d s t := by
  refine engineOp_frame hs hg (fun team => readAtIssue_frame fun y => ?_) e
  dsimp only
  split
  · exact .of_calm (trap_calm ..)
  · exact trap_or (cmdTrap_or (takeUp_new hs hg rfl))

theorem tatom_frame {op : AtOp} {ty : Ty} (e : exec (.tatom op ty d a b x) s = .next t) : CommandFrame g d s t := by
  refine engineOp_frame hs hg (fun team => ?_) e
  exact cmdTrap_or (cmdTrap_or (cmdTrap_or (cmdTrap_or (cmdTrap_or (cmdTrap_or (cmdTrap_or (trap_or (takeUp_new hs hg rfl))))))))

theorem bulkOp_frame {kind : CmdKind} (e : bulkOp s kind d a b x = .next t) : CommandFrame g d s t := by
  refine engineOp_frame hs hg (fun team => ?_) e
  refine cmdTrap_or (cmdTrap_or (cmdTrap_or (cmdTrap_or (cmdTrap_or (cmdTrap_or (trap_or ?_))))))
  exact cmdTrap_or (cmdTrap_or (trap_or (takeUp_new hs hg rfl)))

theorem commandDest_frame {i : Instr} (hi : commandDest i = some d) (e : exec i s = .next t) : CommandFrame g d s t := by
  cases i <;> cases hi
  case tfetch => exact tfetch_frame hs hg e
  case tmcast => exact tmcast_frame hs hg e
  case tgather => exact tgather_frame hs hg e
  case tstore | treduce => exact storeOp_frame hs hg e
  case tfill => exact tfill_frame hs hg e
  case tcopy => exact tcopy_frame hs hg e
  case tatom => exact tatom_frame hs hg e
  case bulkld | bulkst => exact bulkOp_frame hs hg e
  case pagereq => exact pagereq_frame hs hg e

end Commands

/-- A group that issues an instruction with a scalar result has it put. -/
theorem scalarDest_group {s t : State} {c : Cur} {g : Group} {i : Instr} {d : SReg} (hg : s.GroupIssuing c g) (hi : scalarDest i = some d)
    (e : exec i s = .next t) : ∃ x, t = s.putS c d x := by
  obtain put | ⟨⟨k, hk⟩, -⟩ := scalarDest_answer (GroupIssuing.issuing hg) hi e
  · exact put
  · exact absurd (hk.2.symm.trans hg.2.1) (by simp)

/-- Settles O51: an immediate result is one write of its destination, past which the turn ends; a status is the same, and a command
writes more only when it has nothing to translate. -/
theorem immediateResultsChangeTheirDestination : Obligations.ImmediateResultsChangeTheirDestination := by
  unfold Obligations.ImmediateResultsChangeTheirDestination
  refine ⟨fun s c k i t d hp e hi => proof_scalar_frame hp hi e, fun s c g i t d hs hg e => ⟨?_, ?_⟩, fun s c g i t hs hg e => ⟨?_, ?_, ?_⟩⟩
  · exact fun hi => statusDest_frame hs hg hi e
  · exact fun hi => commandDest_frame hs hg hi e
  · intro d hi
    obtain ⟨x, rfl⟩ := scalarDest_group hg hi e
    exact scalarDest_frame hs hg d x
  · intro gd d fl hi
    obtain ⟨f, rfl, flags⟩ := vectorDest_answer hg hi e
    exact vectorDest_frame hs hg gd d flags
  · intro d hi
    obtain ⟨x, rfl⟩ := maskDest_answer hg hi e
    exact maskDest_frame hg d x

end Sys2Proof.Machine
end

section
/-! PROOFS. A step (01 R26 to R28, 05 R115 to R133, 08 R191): whose turn it is, the line and the instruction that it fetches, the checks
that these meet, and which agents a cycle chooses. -/

namespace Sys2Proof.Machine
open Sys2Proof.Claims

/-! ### A line and its checks (05 R118 to R121) -/

/-- The ones of parity group p of a line, its parity bit apart. -/
def parityGroup (ws : List Nat) (p : Nat) : Nat :=
  if p = 7 then popCount 32 (ws.getD 15 0) + popCount 24 (ws.getD 0 0 % 2 ^ 24)
  else popCount 32 (ws.getD (2 * p + 1) 0) + popCount 32 (ws.getD (2 * p + 2) 0)

theorem fld_one (w k : Nat) : fld w k 1 = w / 2 ^ k % 2 := rfl

theorem parityOk_iff {ws : List Nat} {p : Nat} : parityOk ws p = true ↔ ¬ (parityGroup ws p + ws.getD 0 0 / 2 ^ (24 + p) % 2) % 2 = 1 := by
  have all : fld (ws.getD 0 0) 0 24 = ws.getD 0 0 % 2 ^ 24 := by rw [fld, Nat.pow_zero, Nat.div_one]
  unfold parityOk parityGroup
  simp only [all, fld_one, beq_iff_eq]
  exact (Nat.mod_two_ne_one).symm

theorem parity_all {ws : List Nat} :
    [0, 1, 2, 3, 4, 5, 6, 7].all (parityOk ws) = true ↔ ¬ ∃ p < 8, (parityGroup ws p + ws.getD 0 0 / 2 ^ (24 + p) % 2) % 2 = 1 := by
  rw [show [0, 1, 2, 3, 4, 5, 6, 7] = List.range 8 from rfl, List.all_eq_true]
  simp only [List.mem_range, parityOk_iff, not_exists, not_and]

theorem lineCause_spec (ws : List Nat) :
    let odd := ∃ p < 8, (parityGroup ws p + ws.getD 0 0 / 2 ^ (24 + p) % 2) % 2 = 1
    let malformed := ws.getD 0 0 / 2 ^ 20 % 16 ≠ 0 ∨ 7 < ws.getD 0 0 / 2 ^ 15 % 32 ∨ instrCount ws < 2 * (ws.getD 0 0 / 2 ^ 15 % 32)
    (odd → lineCause ws = 0x03) ∧ (¬ odd → malformed → lineCause ws = 0x01) ∧ (¬ odd → ¬ malformed → lineCause ws = 0) := by
  intro odd malformed
  have passed : (!([0, 1, 2, 3, 4, 5, 6, 7].all (parityOk ws))) = true ↔ odd := by
    rw [Bool.not_eq_true', ← Bool.not_eq_true, parity_all, not_not]
  unfold lineCause
  exact ⟨fun h => if_pos (passed.2 h), fun h m => (if_neg (passed.not.2 h)).trans (if_pos m),
    fun h m => (if_neg (passed.not.2 h)).trans (if_neg m)⟩

theorem words_eq_map (s : State) (key n : Nat) : s.words key n = (List.range n).map fun i => s.le (key + 4 * i) 4 := by
  induction n generalizing key with
  | zero => rfl
  | succ n ih =>
    rw [State.words, ih, List.range_succ_eq_map, List.map_cons, List.map_map]
    refine congrArg₂ _ rfl (List.map_congr_left fun i _ => ?_)
    rw [Function.comp, Nat.add_assoc, Nat.mul_succ, Nat.add_comm 4]

theorem readLine_proof (s : State) (p l : Nat) :
    (l + 64 ≤ 65536 → s.poisoned (proofKey p l) 64 = false →
      s.readLine (.proof p) l = .line ((List.range 16).map fun i => s.le (proofKey p l + 4 * i) 4))
    ∧ (65536 < l + 64 ∨ s.poisoned (proofKey p l) 64 = true → s.readLine (.proof p) l = .none) := by
  refine ⟨fun fits whole => ?_, fun h => if_pos h⟩
  rw [← words_eq_map]
  exact if_neg (not_or.2 ⟨Nat.not_lt.2 fits, by rw [whole]; exact Bool.false_ne_true⟩)

theorem readLine_group {s : State} {k n l x : Nat} {q : Partition} (hq : s.part? (s.partOf k) = some q)
    (hx : s.farKey q (k / 4) false l = .key x) :
    s.readLine (.group k n) l = .line ((List.range 16).map fun i => s.le (x + 4 * i) 4) := by
  unfold State.readLine
  dsimp only
  rw [hq]
  dsimp only
  rw [clusterOf, hx, ← words_eq_map]

theorem lineFor_group {s : State} {k n : Nat} {g : Group} (hg : s.group? k n = some g) (pc : Nat) :
    (∀ l p ws, g.line = some (l, p, ws) → l = lineOf pc → p ≤ pc → s.lineFor (.group k n) pc = .line ws)
    ∧ (g.line = none → s.lineFor (.group k n) pc = s.readLine (.group k n) (lineOf pc))
    ∧ ∀ l p ws, g.line = some (l, p, ws) → (l ≠ lineOf pc ∨ pc < p) → s.lineFor (.group k n) pc = s.readLine (.group k n) (lineOf pc) := by
  unfold State.lineFor
  dsimp only
  rw [hg, Option.bind_some]
  refine ⟨fun l p ws e same le => ?_, fun e => ?_, fun l p ws e away => ?_⟩
  · rw [e]
    exact if_pos ⟨same, le⟩
  · rw [e]
  · rw [e]
    exact if_neg fun h => away.elim (· h.1) fun lt => Nat.not_lt.2 h.2 lt

/-! ### The instruction at a program counter (05 R133) -/

theorem starts_iff {ws : List Nat} {k : Nat} : (instrStarts ws 15 0).any (· == k) = true ↔ k ∈ instrStarts ws 15 0 := by
  simp only [List.any_eq_true, beq_iff_eq, exists_eq_right]

/-- A syllable that is no target takes BADTARGET; one that is a target passes where an instruction begins. -/
theorem syllableCause_spec (ws : List Nat) (k : Nat) :
    (¬ ws.getD 0 0 / 2 ^ k % 2 = 1 → syllableCause ws k = 0x02)
    ∧ (ws.getD 0 0 / 2 ^ k % 2 = 1 → (k ∈ instrStarts ws 15 0 → syllableCause ws k = 0) ∧ (k ∉ instrStarts ws 15 0 → syllableCause ws k = 0x01)) := by
  unfold syllableCause
  rw [fld_one]
  refine ⟨fun h => if_pos (Nat.mod_two_ne_one.1 h), fun h => ?_⟩
  rw [if_neg (by omega)]
  exact ⟨fun k => if_pos (starts_iff.2 k), fun k => if_neg (starts_iff.not.2 k)⟩

theorem fetchSyl_spec (ws : List Nat) (l k : Nat) : let len := sylLen (ws.getD (k + 1) 0)
    (len = 0 ∨ 15 < k + len → fetchSyl ws l k = .trap 0x01)
    ∧ (0 < len → k + len ≤ 15 →
      fetchSyl ws l k = .instr (((ws.drop (k + 1)).take len).map (.ofNat 32)) (afterSyl ws l (k + len)).1 (afterSyl ws l (k + len)).2) :=
  ⟨fun h => if_pos h, fun pos le => if_neg (by omega)⟩

section Fetch
variable {s : State} {a : Agent} {pc : Nat} {entry written : Bool}

theorem fetchPc_form (h : targetForm pc = false) : s.fetchPc a pc entry true = .trap 0x02 := by
  unfold State.fetchPc
  rw [h]
  rfl

theorem fetchPc_lineFor (h : written = true → targetForm pc = true) : s.fetchPc a pc entry written =
    match s.lineFor a pc with
    | .none => .trap cILLOP
    | .busy => .busy
    | .bad r l e => .fault r l e
    | .line ws =>
      if lineCause ws ≠ 0 then .trap (lineCause ws)
      else if written ∧ syllableCause ws (sylOf pc) ≠ 0 then .trap (syllableCause ws (sylOf pc))
      else if entry ∧ fld (ws.getD 0 0) (sylOf pc) 1 = 0 then .trap cBADTARGET
      else if (instrStarts ws 15 0).any (· == sylOf pc) then fetchSyl ws (lineOf pc) (sylOf pc)
      else .trap cILLOP := by
  have form : ¬ (written && !targetForm pc) = true := by
    cases written with
    | false => exact Bool.false_ne_true
    | true => rw [h rfl]; exact Bool.false_ne_true
  exact if_neg form

variable (hw : written = true → targetForm pc = true) {ws : List Nat} (hl : s.lineFor a pc = .line ws)
include hw hl

theorem fetchPc_badLine (h : lineCause ws ≠ 0) : s.fetchPc a pc entry written = .trap (lineCause ws) := by
  rw [fetchPc_lineFor hw, hl]
  exact if_pos h

/-- A group that enters, or a proof core that wrote its program counter, must stand on a target (R119). -/
theorem fetchPc_noTarget (h : lineCause ws = 0) (checked : entry = true ∨ written = true) (no : ¬ ws.getD 0 0 / 2 ^ sylOf pc % 2 = 1) :
    s.fetchPc a pc entry written = .trap 0x02 := by
  have cause := (syllableCause_spec ws (sylOf pc)).1 no
  rw [fetchPc_lineFor hw, hl]
  dsimp only
  rw [if_neg (not_not.2 h), cause]
  split
  · rfl
  · next unwritten =>
    have entered : entry = true := checked.resolve_right fun w => unwritten ⟨w, by decide⟩
    exact if_pos ⟨entered, Nat.mod_two_ne_one.1 no⟩

/-- Past the check of a target, an instruction must begin at the syllable and end within the line. -/
theorem fetchPc_syllable (h : lineCause ws = 0) (target : entry = true ∨ written = true → ws.getD 0 0 / 2 ^ sylOf pc % 2 = 1) :
    (sylOf pc ∉ instrStarts ws 15 0 → s.fetchPc a pc entry written = .trap 0x01)
    ∧ (sylOf pc ∈ instrStarts ws 15 0 → s.fetchPc a pc entry written = fetchSyl ws (lineOf pc) (sylOf pc)) := by
  have entered : ¬ (entry = true ∧ fld (ws.getD 0 0) (sylOf pc) 1 = 0) := fun e => by
    rw [fld_one, target (.inl e.1)] at e
    exact absurd e.2 (by decide)
  rw [fetchPc_lineFor hw, hl]
  dsimp only
  rw [if_neg (not_not.2 h)]
  constructor
  · intro out
    by_cases w : written = true ∧ syllableCause ws (sylOf pc) ≠ 0
    · rw [if_pos w, ((syllableCause_spec ws (sylOf pc)).2 (target (.inr w.1))).2 out]
    · exact (if_neg w).trans ((if_neg entered).trans (if_neg (starts_iff.not.2 out)))
  · intro inside
    rw [if_neg fun w => w.2 (((syllableCause_spec ws (sylOf pc)).2 (target (.inr w.1))).1 inside), if_neg entered, if_pos (starts_iff.2 inside)]

end Fetch

theorem fetchPc_spec (s : State) (a : Agent) (pc : Nat) (entry written : Bool) (hw : written = true → targetForm pc = true) :
    let answer := s.fetchPc a pc entry written
    (s.lineFor a pc = .none → answer = .trap 0x01) ∧ (s.lineFor a pc = .busy → answer = .busy)
    ∧ (∀ r l e, s.lineFor a pc = .bad r l e → answer = .fault r l e)
    ∧ ∀ line, s.lineFor a pc = .line line →
      let k := sylOf pc
      let len := sylLen (line.getD (k + 1) 0)
      let target := line.getD 0 0 / 2 ^ k % 2 = 1
      (lineCause line ≠ 0 → answer = .trap (lineCause line))
      ∧ (lineCause line = 0 → (entry = true ∨ written = true) → ¬ target → answer = .trap 0x02)
      ∧ (lineCause line = 0 → (entry = true ∨ written = true → target) →
        (k ∉ instrStarts line 15 0 ∨ len = 0 ∨ 15 < k + len → answer = .trap 0x01)
        ∧ (k ∈ instrStarts line 15 0 → 0 < len → k + len ≤ 15 →
          answer = .instr (((line.drop (k + 1)).take len).map (.ofNat 32)) (afterSyl line (lineOf pc) (k + len)).1
            (afterSyl line (lineOf pc) (k + len)).2)) := by
  refine ⟨fun h => ?_, fun h => ?_, fun r l e h => ?_, fun line h => ⟨fetchPc_badLine hw h, fetchPc_noTarget hw h, fun sound target => ?_⟩⟩
  · rw [fetchPc_lineFor hw, h]
    rfl
  · rw [fetchPc_lineFor hw, h]
  · rw [fetchPc_lineFor hw, h]
  · obtain ⟨out, inside⟩ := fetchPc_syllable hw h sound target
    obtain ⟨broken, whole⟩ := fetchSyl_spec line (lineOf pc) (sylOf pc)
    refine ⟨fun bad => ?_, fun starts pos le => (inside starts).trans (whole pos le)⟩
    by_cases starts : sylOf pc ∈ instrStarts line 15 0
    · exact (inside starts).trans (broken (bad.resolve_left (not_not.2 starts)))
    · exact out starts

/-! ### The checks of the registers that an instruction names (05 R127, 18 R390) -/

theorem opd_ok_iff {g : Group} {tiles : Nat} {o : Opd} : Opd.ok g tiles o = true ↔ has g tiles o := by
  cases o <;> exact decide_eq_true_iff

theorem opd_bytes (g : Group) (o : Opd) : Opd.bytes g o = readBytes g o := by
  cases o <;> rfl

theorem badSource_none {s : State} {g : Group} {os : List Opd}
    (h : ¬ ∃ o ∈ os, ∃ b, readBytes g o = some b ∧ s.poisoned b.1 b.2 = true) : s.badSource g os = none := by
  unfold State.badSource
  rw [List.findSome?_eq_none_iff]
  intro b hb
  obtain ⟨o, ho, bytes⟩ := List.mem_filterMap.1 hb
  rw [Option.map_eq_none_iff, List.find?_eq_none]
  exact fun w hw bad => h ⟨o, ho, b, opd_bytes g o ▸ bytes, List.any_eq_true.2 ⟨w, hw, bad⟩⟩

theorem badSource_some {s : State} {g : Group} {os : List Opd} {x : Nat} (h : s.badSource g os = some x) :
    ∃ o ∈ os, ∃ b, readBytes g o = some b ∧ ∃ w ∈ s.poison, 8 * w < b.1 + b.2 ∧ b.1 < 8 * w + 8 ∧ x = keyOff (8 * w / 16 * 16) := by
  obtain ⟨b, hb, found⟩ := List.exists_of_findSome?_eq_some h
  obtain ⟨o, ho, bytes⟩ := List.mem_filterMap.1 hb
  obtain ⟨w, hw, rfl⟩ := Option.map_eq_some_iff.1 found
  have meets := List.find?_some hw
  rw [Bool.and_eq_true, decide_eq_true_iff, decide_eq_true_iff] at meets
  exact ⟨o, ho, b, opd_bytes g o ▸ bytes, w, List.mem_of_find?_eq_some hw, meets.1, meets.2, rfl⟩

theorem badSource_of_lost {s : State} {g : Group} {os : List Opd} (h : ∃ o ∈ os, ∃ b, readBytes g o = some b ∧ s.poisoned b.1 b.2 = true) :
    ∃ x, s.badSource g os = some x := by
  obtain ⟨o, ho, b, bytes, lost⟩ := h
  obtain ⟨w, hw, bad⟩ := List.any_eq_true.1 lost
  rw [← Option.isSome_iff_exists, State.badSource, List.findSome?_isSome_iff]
  refine ⟨b, List.mem_filterMap.2 ⟨o, ho, (opd_bytes g o).trans bytes⟩, ?_⟩
  rw [Option.isSome_map, List.find?_isSome]
  exact ⟨w, hw, bad⟩

theorem operandTrap_spec (s : State) (c : Cur) (i : Instr) :
    (∀ p, c.agent = .proof p → s.operandTrap c i = none)
    ∧ ∀ k n g, c.agent = .group k n → s.group? k n = some g →
      let ok := ∀ o ∈ Instr.opds i, has g (((s.team? g.team).map (·.krec.galley)).getD 0) o
      let lost := ∃ o ∈ Instr.opds i, ∃ b, readBytes g o = some b ∧ s.poisoned b.1 b.2 = true
      (¬ ok → s.operandTrap c i = some (s.trap c 0x01))
      ∧ (ok → ¬ lost → s.operandTrap c i = none)
      ∧ (ok → lost → ∃ o ∈ Instr.opds i, ∃ b, readBytes g o = some b ∧ ∃ w ∈ s.poison, 8 * w < b.1 + b.2 ∧ b.1 < 8 * w + 8
        ∧ s.operandTrap c i = some (s.trapAt c c.pc 0x0E 0 (.ofNat 64 (keyOff (8 * w / 16 * 16))) 0)) := by
  refine ⟨fun p hc => by rw [State.operandTrap, hc], fun k n g hc hg => ?_⟩
  intro ok lost
  have all : (!(Instr.opds i).all (Opd.ok g (((s.team? g.team).map (·.krec.galley)).getD 0))) = true ↔ ¬ ok := by
    rw [Bool.not_eq_true', ← Bool.not_eq_true, List.all_eq_true]
    simp only [opd_ok_iff]
    rfl
  unfold State.operandTrap
  rw [hc]
  dsimp only
  rw [hg]
  dsimp only
  refine ⟨fun no => if_pos (all.2 no), fun yes none => ?_, fun yes some => ?_⟩
  · rw [if_neg (all.not.2 (not_not.2 yes)), badSource_none none]
  · obtain ⟨x, hx⟩ := badSource_of_lost some
    obtain ⟨o, ho, b, bytes, w, hw, lo, hi, rfl⟩ := badSource_some hx
    refine ⟨o, ho, b, bytes, w, hw, lo, hi, ?_⟩
    rw [if_neg (all.not.2 (not_not.2 yes)), hx]
    rfl

/-! ### One agent issues -/

section Issue
variable {s : State} {a : Agent}

/-- The state in which a fetched instruction or a trap of its fetch takes place: the issue is noted. -/
def State.noted (s : State) (a : Agent) (c : Cur) : State := { s.noteIssue a with cur := some c }

variable {pc : DWord} {last : Option Nat} {ans : FetchAns} (h : s.fetchOf a = some (pc, last, ans))
include h

theorem issue_busy (e : ans = .busy) : s.issue a = .next (s.retryAt { agent := a, pc := pc, next := pc, tail := none, last := last } 0) := by
  subst e
  unfold State.issue
  rw [h]

theorem issue_trap {n : Nat} (e : ans = .trap n) : let here : Cur := { agent := a, pc := pc, next := pc, tail := none, last := last }
    s.issue a = issued a (s.bundleOf a) (.next ((s.noted a here).trap here n)) := by
  subst e
  unfold State.issue
  rw [h]
  rfl

theorem issue_fault {r l e : Nat} (eq : ans = .fault r l e) : let here : Cur := { agent := a, pc := pc, next := pc, tail := none, last := last }
    s.issue a = issued a (s.bundleOf a) (.next ((s.noted a here).codeFault here (lineOf pc.toNat) r l e)) := by
  subst eq
  unfold State.issue
  rw [h]
  rfl

theorem issue_instr {ws : List Word} {next : DWord} {tail : Option DWord} (e : ans = .instr ws next tail) :
    let c : Cur := { agent := a, pc := pc, next := next, tail := tail, last := last }
    s.issue a = issued a (s.bundleOf a) ((s.noted a c).runFetched c ws) := by
  subst e
  unfold State.issue
  rw [h]
  dsimp only
  unfold State.noted
  cases State.runFetched _ _ ws <;> rfl

end Issue

/-- A group's word whose opcode is among those of a proof core (14 R284). -/
def PrivilegedWord (a : Agent) (ws : List Word) : Prop :=
  (∃ k n, a = .group k n) ∧ 0xF4 ≤ (ws.headD 0).toNat / 4 % 256 ∧ (ws.headD 0).toNat / 4 % 256 ≤ 0xFB

theorem runFetched_spec (s : State) (c : Cur) (ws : List Word) :
    (∀ e, decode ws = .error e → (e = .field ∧ PrivilegedWord c.agent ws → s.runFetched c ws = .next (s.trap c 0x04))
      ∧ (¬ (e = .field ∧ PrivilegedWord c.agent ws) → s.runFetched c ws = .next (s.trap c 0x01)))
    ∧ ∀ i, decode ws = .ok i →
      (PrivilegedWord c.agent ws → s.runFetched c ws = .next (s.trap c 0x04))
      ∧ (¬ PrivilegedWord c.agent ws → s.operandTrap c i = none → s.runFetched c ws = exec i s)
      ∧ (¬ PrivilegedWord c.agent ws → ∀ t, s.operandTrap c i = some t → s.runFetched c ws = .next t) := by
  have opcode : privilegedOp (ws.headD 0) = true ↔ 0xF4 ≤ (ws.headD 0).toNat / 4 % 256 ∧ (ws.headD 0).toNat / 4 % 256 ≤ 0xFB := by
    rw [privilegedOp, Bool.and_eq_true, decide_eq_true_iff, decide_eq_true_iff]
    rfl
  have priv : ((match c.agent with
      | .group .. => true
      | .proof _ => false) && privilegedOp (ws.headD 0)) = true ↔ PrivilegedWord c.agent ws := by
    rw [Bool.and_eq_true, opcode, PrivilegedWord]
    refine and_congr_left fun _ => ?_
    cases c.agent with
    | group k n => exact ⟨fun _ => ⟨k, n, rfl⟩, fun _ => rfl⟩
    | proof p => exact ⟨fun e => absurd e Bool.false_ne_true, fun ⟨_, _, e⟩ => nomatch e⟩
  unfold State.runFetched
  dsimp only
  refine ⟨fun e he => ?_, fun i hi => ?_⟩
  · rw [he]
    refine ⟨fun ⟨field, p⟩ => ?_, fun no => ?_⟩
    · subst field
      exact congrArg (fun n => Host.Outcome.next (s.trap c n)) (if_pos (priv.2 p))
    · cases e with
      | field => exact congrArg (fun n => Host.Outcome.next (s.trap c n)) (if_neg fun p => no ⟨rfl, priv.1 p⟩)
      | _ => rfl
  · rw [hi]
    refine ⟨fun p => if_pos (priv.2 p), fun p h => ?_, fun p t h => ?_⟩
    · refine (if_neg (priv.not.2 p)).trans ?_
      rw [h]
    · refine (if_neg (priv.not.2 p)).trans ?_
      rw [h]

theorem takesBits_iff (s : State) (a : Agent) :
    s.takesBits a = true ↔ ∃ pc last ws next tail i, s.fetchOf a = some (pc, last, .instr ws next tail) ∧ decode ws = .ok i
      ∧ match i with
        | .ll .. | .vatom .. | .satom .. => True
        | _ => False := by
  unfold State.takesBits
  constructor
  · intro h
    split at h
    · next pc last ws next tail e =>
      refine ⟨pc, last, ws, next, tail, ?_⟩
      split at h
      · next d => exact ⟨_, e, d, trivial⟩
      · next d => exact ⟨_, e, d, trivial⟩
      · next d => exact ⟨_, e, d, trivial⟩
      · exact absurd h Bool.false_ne_true
    · exact absurd h Bool.false_ne_true
  · rintro ⟨pc, last, ws, next, tail, i, e, d, takes⟩
    rw [e]
    dsimp only
    rw [d]
    split at takes
    · rfl
    · rfl
    · rfl
    · exact takes.elim

end Sys2Proof.Machine
end

section
/-! PROOFS. Whose turn it is (01 R26 to R28, 08 R191, 15 R323): the turn of an agent, what the issue of a group notes, and which agents a
cycle chooses. -/

namespace Sys2Proof.Machine
open Sys2Proof.Claims

/-! ### The turn of an agent -/

section Turn
variable {s : State} {a b : Agent} {ts : List Turn} {as : List Agent}

/-- An agent among those of the cycle issues, or the one that takes lock bits before it does. -/
theorem step_turn (h : s.agenda = .issue a :: ts) (hp : s.plan = some as) (hm : a ∈ as) : let t : State := { s with agenda := ts }
    step s = State.issue { t with plan := some (as.filter (· != t.whoIssues as a)) } (t.whoIssues as a) := by
  intro t
  have chosen : as.any (· == a) = true := List.any_eq_true.2 ⟨a, hm, beq_self_eq_true a⟩
  have planned : t.planned = t := by
    unfold State.planned
    rw [show t.plan = some as from hp]
  rw [step_issue h]
  unfold State.issueTurn
  dsimp only
  rw [planned, show t.plan = some as from hp]
  exact if_pos chosen

theorem step_turn_past (h : s.agenda = .issue a :: ts) (hp : s.plan = some as) (hm : a ∉ as) : step s = .next { s with agenda := ts } := by
  have planned : State.planned { s with agenda := ts } = { s with agenda := ts } := by
    unfold State.planned
    dsimp only
    rw [hp]
  rw [step_issue h]
  unfold State.issueTurn
  dsimp only
  rw [planned]
  dsimp only
  rw [hp]
  exact if_neg fun e => hm (by
    obtain ⟨x, hx, same⟩ := List.any_eq_true.1 e
    exact eq_of_beq same ▸ hx)

/-- The lower core and slot goes first of those that take lock bits. -/
theorem step_turn_bits (h : s.agenda = .issue a :: ts) (hp : s.plan = some as) (hm : a ∈ as)
    (takes : State.takesBits { s with agenda := ts } a = true) (first : as.find? (State.takesBits { s with agenda := ts }) = some b) :
    step s = step { s with agenda := .issue b :: ts } := by
  have who : State.whoIssues { s with agenda := ts } as a = b := by
    rw [State.whoIssues, if_pos takes, first]
    rfl
  have whose : State.whoIssues { s with agenda := ts } as b = b := by
    rw [State.whoIssues, if_pos (List.find?_some first), first]
    rfl
  rw [step_turn h hp hm, step_turn (s := { s with agenda := .issue b :: ts }) rfl hp (List.mem_of_find?_eq_some first)]
  dsimp only
  rw [who, whose]

/-- The turn of an agent, given or not, is its issue. -/
theorem step_is_issue (h : (s.agenda = .issue a :: ts ∧ ∃ bs, s.plan = some bs ∧ a ∈ bs ∧ as = bs.filter (· != a)
      ∧ (State.takesBits { s with agenda := ts } a = true → bs.find? (State.takesBits { s with agenda := ts }) = some a))
    ∨ (s.agenda = [] ∧ ts = [] ∧ s.plan = some (a :: as))) :
    step s = State.issue { s with agenda := ts, plan := some as } a := by
  obtain ⟨turn, bs, hp, hm, rfl, first⟩ | ⟨none, rfl, hp⟩ := h
  · have who : State.whoIssues { s with agenda := ts } bs a = a := by
      rw [State.whoIssues]
      split
      · next takes => rw [first takes]; rfl
      · rfl
    rw [step_turn turn hp hm]
    dsimp only
    rw [who]
  · have same : s = { s with agenda := [] } := by rw [← none]
    unfold step State.stepOnce
    rw [none]
    dsimp only
    unfold State.runOn
    rw [hp]
    dsimp only
    rw [same]

end Turn

/-! ### What an issue notes -/

theorem noteIssue_group {s : State} {k n : Nat} {g : Group} (hg : s.group? k n = some g) :
    (s.noteIssue (.group k n)).group? k n = some { g with
      lastIssue := some s.cycle, notBefore := s.cycle + 1, yielded := none, held := false, line := s.latch (.group k n) g.pc.toNat } := by
  obtain ⟨rfl, rfl⟩ := group?_slot hg
  unfold State.noteIssue
  dsimp only
  rw [hg]
  exact group?_setGroup_self (g := { g with
    lastIssue := some s.cycle, notBefore := s.cycle + 1, yielded := none, held := false
    line := s.latch (.group g.core g.slot) g.pc.toNat }) hg

theorem noteIssued_late {s : State} {k n b : Nat} {g : Group} (hg : s.group? k n = some g) (h : g.lastIssue ≠ some s.cycle) :
    s.noteIssued (.group k n) b = s := by
  unfold State.noteIssued
  dsimp only
  rw [hg]
  refine if_pos ?_
  rw [Option.all_some, Bool.not_eq_true', beq_eq_false_iff_ne]
  exact h

theorem noteIssued_group {s : State} {k n b : Nat} {g : Group} (hg : s.group? k n = some g) (now : g.lastIssue = some s.cycle)
    {core m : Nat} {h : Group} (hh : s.group? core m = some h) :
    (s.noteIssued (.group k n) b).group? core m = some (if core = k then { h with
      yielded := h.yielded.map fun (y : Nat × List Nat) => (y.1, y.2.filter (· != n))
      readySince := if h.bundle = b then s.issueCount k else h.readySince
      waitSince := if m = n then s.issueCount k else h.waitSince } else h) := by
  obtain ⟨rfl, rfl⟩ := group?_slot hh
  have issued : ¬ (!((s.group? k n).all fun g => g.lastIssue == some s.cycle)) = true := by
    rw [hg, Option.all_some, now, beq_self_eq_true]
    exact Bool.false_ne_true
  unfold State.noteIssued
  dsimp only
  rw [if_neg issued, group?_map, hh, Option.map_some]
  · congr 1
    by_cases core : h.core = k
    · rw [if_pos core, if_neg (by rw [core, bne_self_eq_false]; exact Bool.false_ne_true)]
      by_cases bundle : h.bundle = b <;> by_cases slot : h.slot = n <;> simp [bundle, slot]
    · rw [if_neg core, if_pos (bne_iff_ne.2 core)]
  · intro h
    split
    · exact ⟨rfl, rfl⟩
    · split <;> split <;> exact ⟨rfl, rfl⟩

/-! ### Who issues in a cycle -/

/-- A group waits for its own writes where its issue would leave it waiting for them. -/
theorem ownWait_iff (s : State) (g : Group) (w : Wait) : s.ownWait g = some w ↔ ∃ t h key n, s.issue (.group g.core g.slot) = .next t
    ∧ t.group? g.core g.slot = some h ∧ h.run = .waiting (.ownWrites key n) ∧ w = .ownWrites key n := by
  unfold State.ownWait
  constructor
  · intro e
    split at e
    · next t next =>
      split at e
      · next key n run =>
        obtain ⟨h, hh, run⟩ := Option.map_eq_some_iff.1 run
        exact ⟨t, h, key, n, next, hh, run, (Option.some.inj e).symm⟩
      · cases e
    · cases e
  · rintro ⟨t, h, key, n, next, hh, run, rfl⟩
    rw [next]
    dsimp only
    rw [hh, Option.map_some, run]

theorem planned_none {s : State} (h : s.plan = none) :
    let wait := fun (g : Group) => match s.ownWait g with
      | some w => { g with run := .waiting w }
      | none => g
    let t := State.endYields { s with groups := s.groups.map fun (g : Group) => if s.isReady g then wait g else g }
    s.planned = (dedup ((groupsOf t.choose).map (·.1))).foldl State.countIssue { t with plan := some t.choose } := by
  unfold State.planned
  split
  · next some => cases h.symm.trans some
  · rfl

theorem step_planned {s : State} (ha : s.agenda = []) (hp : s.plan = none) : step s = .next s.planned := by
  unfold step State.stepOnce
  rw [ha]
  dsimp only
  unfold State.runOn
  rw [hp]

theorem oldestMember_mem {gs : List Group} {g : Group} (h : oldestMember gs = some g) : g ∈ gs := by
  induction gs generalizing g with
  | nil => cases h
  | cons x gs ih =>
    unfold oldestMember at h
    split at h
    · cases h
      exact List.mem_cons_self
    · next y hy =>
      split at h
      · cases h
        exact List.mem_cons_of_mem _ (ih hy)
      · cases h
        exact List.mem_cons_self

theorem oldestMember_some {gs : List Group} (h : gs ≠ []) : ∃ g, oldestMember gs = some g := by
  cases gs with
  | nil => exact absurd rfl h
  | cons x gs =>
    unfold oldestMember
    split
    · exact ⟨_, rfl⟩
    · split <;> exact ⟨_, rfl⟩

theorem bestUnit_mem {count : Nat} {us : List IssueUnit} {u : IssueUnit} (h : bestUnit count us = some u) : u ∈ us := by
  induction us generalizing u with
  | nil => cases h
  | cons x us ih =>
    unfold bestUnit at h
    split at h
    · cases h
      exact List.mem_cons_self
    · next y hy =>
      split at h
      · cases h
        exact List.mem_cons_self
      · cases h
        exact List.mem_cons_of_mem _ (ih hy)

theorem bestUnit_some (count : Nat) {us : List IssueUnit} (h : us ≠ []) : ∃ u, bestUnit count us = some u := by
  cases us with
  | nil => exact absurd rfl h
  | cons x us =>
    unfold bestUnit
    split
    · exact ⟨_, rfl⟩
    · split <;> exact ⟨_, rfl⟩

/-- The greatest element of a list is one of it. -/
theorem maxL_mem {xs : List Nat} (h : xs ≠ []) : maxL xs ∈ xs := by
  cases xs with
  | nil => exact absurd rfl h
  | cons x xs =>
    unfold maxL
    rw [List.foldl_cons, Nat.zero_max]
    exact List.max?_mem List.max?_cons'

theorem chosenUnit_mem {count : Nat} {us : List IssueUnit} {u : IssueUnit} (h : chosenUnit count us = some u) : u ∈ us := by
  unfold chosenUnit at h
  split at h
  · cases h
  · next v hv =>
    split at h
    · exact Option.some.inj h ▸ bestUnit_mem hv
    · exact (List.mem_filter.1 (bestUnit_mem h)).1

theorem chosenUnit_some (count : Nat) {us : List IssueUnit} (h : us ≠ []) : ∃ u, chosenUnit count us = some u := by
  obtain ⟨u, hu⟩ := bestUnit_some count h
  unfold chosenUnit
  rw [hu]
  dsimp only
  split
  · exact ⟨u, rfl⟩
  · obtain ⟨v, hv, longest⟩ := List.mem_map.1 (maxL_mem (xs := us.map (·.longest count)) (by rwa [ne_eq, List.map_eq_nil_iff]))
    exact bestUnit_some count (List.ne_nil_of_mem (List.mem_filter.2 ⟨hv, beq_iff_eq.2 longest⟩))

/-- A group of a core that has an instruction to issue in this cycle. -/
def MayIssue (s : State) (core : Nat) (g : Group) : Prop :=
  g ∈ s.groups ∧ g.core = core ∧ g.run = .ready ∧ s.isReady g = true ∧ s.stuck g = false

theorem run_of_isReady {s : State} {g : Group} (h : s.isReady g = true) : g.run = .ready := by
  simp only [State.isReady, State.canIssue, State.unheld, Bool.and_eq_true, beq_iff_eq] at h
  exact h.1.1.1.1.1

/-- A unit's members may issue and belong to one bundle, and it has some. -/
theorem issueUnits_ready {s : State} {core : Nat} {u : IssueUnit} (h : u ∈ s.issueUnits core) :
    u.ready ≠ [] ∧ ∃ b, ∀ g ∈ u.ready, MayIssue s core g ∧ g.bundle = b := by
  obtain ⟨b, -, made⟩ := List.mem_filterMap.1 h
  dsimp only at made
  split at made
  · cases made
  · next some =>
    obtain rfl := Option.some.inj made
    refine ⟨fun e => some (List.isEmpty_iff.2 e), b, fun g hg => ?_⟩
    simp only [List.mem_filter, Bool.and_eq_true, beq_iff_eq, Bool.not_eq_true'] at hg
    obtain ⟨⟨mem, ⟨core, -⟩, bundle⟩, ready, free⟩ := hg
    exact ⟨⟨mem, core, run_of_isReady ready, ready, free⟩, bundle⟩

theorem issueUnits_some {s : State} {core : Nat} {g : Group} (h : MayIssue s core g) (hb : g.bundle < 33) : s.issueUnits core ≠ [] := by
  obtain ⟨mem, core, run, ready, free⟩ := h
  refine fun e => ?_
  have none := List.filterMap_eq_nil_iff.1 e g.bundle (List.mem_range.2 hb)
  dsimp only at none
  split at none
  · next empty =>
    refine List.ne_nil_of_mem (a := g) ?_ (List.isEmpty_iff.1 empty)
    simp only [List.mem_filter, Bool.and_eq_true, beq_iff_eq, Bool.not_eq_true', bne_iff_ne]
    have present : g.run ≠ .exited := run ▸ by decide
    exact ⟨⟨mem, ⟨core, present⟩, trivial⟩, ready, free⟩
  · cases none

/-- Who issues on a core: the members of one chosen unit at its leader's program counter. -/
theorem mem_coreIssues {s : State} {core : Nat} : ∃ (pc : DWord) (b : Nat), ∀ a ∈ s.coreIssues core,
    ∃ g, MayIssue s core g ∧ a = .group g.core g.slot ∧ g.bundle = b ∧ g.pc = pc := by
  unfold State.coreIssues
  split
  · exact ⟨0, 0, fun _ h => absurd h List.not_mem_nil⟩
  · next u hu =>
    obtain ⟨-, b, members⟩ := issueUnits_ready (chosenUnit_mem hu)
    unfold IssueUnit.issuers
    split
    · exact ⟨0, 0, fun _ h => absurd h List.not_mem_nil⟩
    · next leader _ =>
      refine ⟨leader.pc, b, fun a ha => ?_⟩
      obtain ⟨g, hg, rfl⟩ := List.mem_map.1 ha
      obtain ⟨mem, pc⟩ := List.mem_filter.1 hg
      obtain ⟨may, bundle⟩ := members g mem
      exact ⟨g, may, rfl, bundle, eq_of_beq pc⟩

theorem coreIssues_some {s : State} {core : Nat} {g : Group} (h : MayIssue s core g) (hb : g.bundle < 33) : s.coreIssues core ≠ [] := by
  obtain ⟨u, hu⟩ := chosenUnit_some (s.issueCount core) (issueUnits_some h hb)
  obtain ⟨leader, hl⟩ := oldestMember_some (issueUnits_ready (chosenUnit_mem hu)).1
  have issues : leader ∈ u.issuers := by
    unfold IssueUnit.issuers IssueUnit.leader
    rw [hl]
    exact List.mem_filter.2 ⟨oldestMember_mem hl, beq_self_eq_true _⟩
  unfold State.coreIssues
  rw [hu]
  exact List.ne_nil_of_mem (List.mem_map.2 ⟨leader, issues, rfl⟩)

theorem coreIssues_spec (s : State) (core : Nat) :
    (∀ a ∈ s.coreIssues core, ∃ g, MayIssue s core g ∧ a = .group g.core g.slot)
    ∧ (∀ a ∈ s.coreIssues core, ∀ b ∈ s.coreIssues core, ∃ g h, MayIssue s core g ∧ MayIssue s core h ∧ a = .group g.core g.slot
      ∧ b = .group h.core h.slot ∧ g.bundle = h.bundle ∧ g.pc = h.pc)
    ∧ ∀ g, MayIssue s core g → g.bundle < 33 → s.coreIssues core ≠ [] := by
  obtain ⟨pc, bundle, members⟩ := mem_coreIssues (s := s) (core := core)
  refine ⟨fun a ha => ?_, fun a ha b hb => ?_, fun g => coreIssues_some⟩
  · obtain ⟨g, may, rfl, -⟩ := members a ha
    exact ⟨g, may, rfl⟩
  · obtain ⟨g, mayG, rfl, bg, pg⟩ := members a ha
    obtain ⟨h, mayH, rfl, bh, ph⟩ := members b hb
    exact ⟨g, h, mayG, mayH, rfl, rfl, bg.trans bh.symm, pg.trans ph.symm⟩

theorem step_event {s : State} {i : Instr} {ts : List Turn} (h : s.agenda = .event i :: ts) (event : i.isEvent = true) :
    step s = settleOut (exec i { s with agenda := ts }) := by
  unfold step State.stepOnce
  rw [h]
  exact if_pos event

/-- The checks and the meaning of what an agent fetches, as its step. -/
theorem step_fetched {s : State} {a : Agent} {ts : List Turn} {as : List Agent}
    (turn : step s = State.issue { s with agenda := ts, plan := some as } a) :
    let s0 := { s with agenda := ts, plan := some as }
    (s0.fetchOf a = none → step s = .next s0)
    ∧ ∀ pc last ans, s0.fetchOf a = some (pc, last, ans) →
      let here : Cur := { agent := a, pc := pc, next := pc, tail := none, last := last }
      let goes := fun (o : Out) => step s = issued a (s0.bundleOf a) o
      (ans = .busy → step s = .next (s0.retryAt here 0))
      ∧ (∀ n, ans = .trap n → goes (.next ((s0.noted a here).trap here n)))
      ∧ (∀ r l e, ans = .fault r l e → goes (.next ((s0.noted a here).codeFault here (lineOf pc.toNat) r l e)))
      ∧ ∀ ws next tail, ans = .instr ws next tail →
        let c : Cur := { here with next := next, tail := tail }
        let s1 := s0.noted a c
        let priv := PrivilegedWord a ws
        (∀ e, decode ws = .error e → (e = .field ∧ priv → goes (.next (s1.trap c 0x04)))
          ∧ (¬ (e = .field ∧ priv) → goes (.next (s1.trap c 0x01))))
        ∧ ∀ i, decode ws = .ok i →
          (priv → goes (.next (s1.trap c 0x04)))
          ∧ (¬ priv → s1.operandTrap c i = none → goes (exec i s1))
          ∧ (¬ priv → ∀ t, s1.operandTrap c i = some t → goes (.next t)) := by
  intro s0
  refine ⟨fun h => turn.trans (issue_of_fetchOf_none h), fun pc last ans h => ?_⟩
  intro here goes
  refine ⟨fun e => turn.trans (issue_busy h e), fun n e => turn.trans (issue_trap h e), fun r l e eq => turn.trans (issue_fault h eq),
    fun ws next tail e => ?_⟩
  intro c s1 priv
  have run : step s = issued a (s0.bundleOf a) (s1.runFetched c ws) := turn.trans (issue_instr h e)
  obtain ⟨bad, good⟩ := runFetched_spec s1 c ws
  refine ⟨fun e he => ⟨fun p => ?_, fun p => ?_⟩, fun i hi => ⟨fun p => ?_, fun p none => ?_, fun p t some => ?_⟩⟩
  · exact run.trans (congrArg _ ((bad e he).1 p))
  · exact run.trans (congrArg _ ((bad e he).2 p))
  · exact run.trans (congrArg _ ((good i hi).1 p))
  · exact run.trans (congrArg _ ((good i hi).2.1 p none))
  · exact run.trans (congrArg _ ((good i hi).2.2 p t some))

/-- Settles O55: each clause is a law of the fetch (05 R118 to R133), of the issue, or of the choice of a cycle. -/
theorem stepRunsTheDecodedInstruction : Obligations.StepRunsTheDecodedInstruction := by
  unfold Obligations.StepRunsTheDecodedInstruction
  refine ⟨fun s a ts as h => step_fetched (step_is_issue h), fun s a ts as => step_turn_past, fun s a b ts as => step_turn_bits,
    fun s a => takesBits_iff s a, fun s => planned_none, fun s g w => ownWait_iff s g w, fun s c i => operandTrap_spec s c i,
    fun ws => lineCause_spec ws, fun s a pc entry written => fetchPc_spec s a pc entry written, fun s a pc entry => fetchPc_form,
    fun s a pc => ⟨?_, ?_⟩, fun s => ⟨step_planned, fun core => coreIssues_spec s core⟩, ?_, fun s i ts => step_event⟩
  · rintro p rfl
    exact ⟨rfl, readLine_proof s p (lineOf pc)⟩
  · rintro k n g rfl hg
    obtain ⟨inside, none, anew⟩ := lineFor_group hg pc
    exact ⟨inside, none, anew, fun q x => readLine_group⟩
  · exact fun s k n b g hg => ⟨noteIssue_group hg, noteIssued_late hg, fun now core m h => noteIssued_group hg now⟩

end Sys2Proof.Machine
end

section
/-! PROOFS. The placement of teams (01 R14 to R18, 15 R321): the lowest free bytes of a store, the share of a team on a core, and the
order in which cores are tried. -/

namespace Sys2Proof.Machine
open Sys2Proof.Claims

/-! ### The first of some answers -/

theorem nth_eq_getElem? {α : Type} (xs : List α) (i : Nat) : nth xs i = xs[i]? := by
  induction xs generalizing i with
  | nil => rfl
  | cons x xs ih =>
    cases i with
    | zero => rfl
    | succ i => exact (ih i).trans List.getElem?_cons_succ.symm

theorem firstState_firstOf {α : Type} (f : α → Option State) (xs : List α) : FirstOf f xs (firstState f xs) := by
  induction xs with
  | nil => exact ⟨fun i x t h => absurd h (by unfold nth; exact nofun), fun _ => rfl⟩
  | cons y ys ih =>
    refine ⟨fun i x t hx ht before => ?_, fun none => ?_⟩
    · cases i with
      | zero =>
        cases hx
        rw [firstState, ht]
      | succ i =>
        rw [firstState, before 0 (Nat.succ_pos i) y rfl]
        exact ih.1 i x t hx ht fun j hj z hz => before (j + 1) (Nat.succ_lt_succ hj) z hz
    · unfold firstState
      rw [none y List.mem_cons_self]
      exact ih.2 fun x hx => none x (List.mem_cons_of_mem _ hx)

theorem firstState_map {α : Type} (f : α → Option State) (g : State → State) (xs : List α) :
    (firstState f xs).map g = firstState (fun x => (f x).map g) xs := by
  induction xs with
  | nil => rfl
  | cons x xs ih =>
    unfold firstState
    cases f x with
    | some t => rfl
    | none => exact ih

/-! ### The lowest free bytes (01 R18) -/

theorem roundUp_mod (x : Nat) {m : Nat} : roundUp x m % m = 0 := Nat.mul_mod_left _ _

theorem le_roundUp (x : Nat) {m : Nat} (hm : 0 < m) : x ≤ roundUp x m := by
  have less := Nat.lt_div_mul_add (a := x + m - 1) hm
  unfold roundUp
  omega

theorem roundUp_le {x y m : Nat} (hm : 0 < m) (hy : y % m = 0) (h : x ≤ y) : roundUp x m ≤ y := by
  obtain ⟨k, rfl⟩ := Nat.dvd_of_mod_eq_zero hy
  have few : (x + m - 1) / m < k + 1 := (Nat.div_lt_iff_lt_mul hm).2 (by rw [Nat.add_mul, Nat.mul_comm k m]; omega)
  unfold roundUp
  rw [Nat.mul_comm m k]
  exact Nat.mul_le_mul_right m (Nat.le_of_lt_succ few)

/-- `n` bytes at an aligned place lie in the store and meet no region. -/
def FreeAt (rs : List (Nat × Nat)) (n align x : Nat) : Prop :=
  x % align = 0 ∧ x + n ≤ 2359296 ∧ ∀ r ∈ rs, r.1 + r.2 ≤ x ∨ x + n ≤ r.1

section Fit
variable {rs : List (Nat × Nat)} {n align : Nat}

theorem clash_eq_false {x : Nat} : clash rs x n = false ↔ ∀ r ∈ rs, r.1 + r.2 ≤ x ∨ x + n ≤ r.1 := by
  simp only [clash, List.any_eq_false, Bool.and_eq_true, decide_eq_true_iff, not_and_or, not_lt]

/-- The places that are tried: the first byte of the store and the ends of its regions. -/
def fitPlaces (rs : List (Nat × Nat)) (n align : Nat) : List Nat :=
  (0 :: rs.map fun r => roundUp (r.1 + r.2) align).filter fun c => decide (c + n ≤ storeSize) && !clash rs c n

theorem mem_fitPlaces {c : Nat} :
    c ∈ fitPlaces rs n align ↔ (c = 0 ∨ ∃ r ∈ rs, roundUp (r.1 + r.2) align = c) ∧ c + n ≤ 2359296 ∧ ∀ r ∈ rs, r.1 + r.2 ≤ c ∨ c + n ≤ r.1 := by
  rw [fitPlaces, List.mem_filter, List.mem_cons, List.mem_map, Bool.and_eq_true, decide_eq_true_iff, Bool.not_eq_true', clash_eq_false]
  rfl

theorem fitPlaces_free {c : Nat} (h : c ∈ fitPlaces rs n align) : FreeAt rs n align c := by
  obtain ⟨rfl | ⟨r, -, rfl⟩, free⟩ := mem_fitPlaces.1 h
  · exact ⟨Nat.zero_mod _, free⟩
  · exact ⟨roundUp_mod _, free⟩

/-- Of the ends of regions below an aligned place, rounded, the last one lies below it too. -/
theorem last_end {y : Nat} (ha : 0 < align) (hy : y % align = 0) (rs : List (Nat × Nat)) :
    ∃ c, (c = 0 ∨ ∃ r ∈ rs, roundUp (r.1 + r.2) align = c) ∧ c ≤ y ∧ ∀ r ∈ rs, r.1 + r.2 ≤ y → r.1 + r.2 ≤ c := by
  induction rs with
  | nil => exact ⟨0, .inl rfl, Nat.zero_le y, fun r h => nomatch h⟩
  | cons r rs ih =>
    obtain ⟨c, place, le, ends⟩ := ih
    by_cases later : r.1 + r.2 ≤ y ∧ c < r.1 + r.2
    · have up := le_roundUp (r.1 + r.2) ha
      refine ⟨roundUp (r.1 + r.2) align, .inr ⟨r, List.mem_cons_self, rfl⟩, roundUp_le ha hy later.1, fun q hq hqy => ?_⟩
      obtain rfl | hq := List.mem_cons.1 hq
      · exact up
      · exact (ends q hq hqy).trans (later.2.le.trans up)
    · refine ⟨c, place.imp_right fun ⟨q, hq, e⟩ => ⟨q, List.mem_cons_of_mem _ hq, e⟩, le, fun q hq hqy => ?_⟩
      obtain rfl | hq := List.mem_cons.1 hq
      · exact Nat.not_lt.1 fun lt => later ⟨hqy, lt⟩
      · exact ends q hq hqy

/-- Below any free place lies one that is tried. -/
theorem exists_fitPlace {y : Nat} (ha : 0 < align) (hy : FreeAt rs n align y) : ∃ c ∈ fitPlaces rs n align, c ≤ y := by
  obtain ⟨aligned, fits, apart⟩ := hy
  obtain ⟨c, place, le, ends⟩ := last_end ha aligned rs
  refine ⟨c, mem_fitPlaces.2 ⟨place, by omega, fun r hr => (apart r hr).imp (ends r hr) fun h => by omega⟩, le⟩

theorem firstFit_eq : firstFit rs n align = (fitPlaces rs n align).min? := by
  unfold firstFit
  change (match fitPlaces rs n align with
    | [] => none
    | c :: cs => some (cs.foldl min c)) = _
  cases fitPlaces rs n align with
  | nil => rfl
  | cons c cs => exact List.min?_cons'.symm

theorem firstFit_lowest (ha : 0 < align) : LowestFree rs n align (firstFit rs n align) := by
  rw [firstFit_eq]
  refine ⟨fun x hx => ?_, fun none y hy => ?_⟩
  · obtain ⟨mem, least⟩ := List.min?_eq_some_iff.1 hx
    refine ⟨fitPlaces_free mem, fun y hy => ?_⟩
    obtain ⟨c, hc, le⟩ := exists_fitPlace ha hy
    exact (least c hc).trans le
  · obtain ⟨c, hc, -⟩ := exists_fitPlace ha hy
    rw [List.min?_eq_none_iff.1 none] at hc
    exact nomatch hc

theorem fitAll_cons_none {x : Nat × Nat} {xs : List (Nat × Nat)} (h : firstFit rs x.1 x.2 = none) : fitAll rs (x :: xs) = none := by
  unfold fitAll
  rw [h]

theorem fitAll_cons_some {x : Nat × Nat} {xs : List (Nat × Nat)} {a : Nat} (h : firstFit rs x.1 x.2 = some a) :
    fitAll rs (x :: xs) = (fitAll ((a, x.1) :: rs) xs).map (a :: ·) := by
  rw [fitAll, h]

theorem fitAll_length {xs : List (Nat × Nat)} {as : List Nat} (h : fitAll rs xs = some as) : as.length = xs.length := by
  induction xs generalizing rs as with
  | nil => cases h; rfl
  | cons x xs ih =>
    cases e : firstFit rs x.1 x.2 with
    | none => cases (fitAll_cons_none e).symm.trans h
    | some a =>
      rw [fitAll_cons_some e] at h
      obtain ⟨bs, hbs, rfl⟩ := Option.map_eq_some_iff.1 h
      exact congrArg (· + 1) (ih hbs)

end Fit

/-! ### A share of a team on a core -/

theorem zero_inside (s : State) {a b n : Nat} (lo : b ≤ a) (hi : a < b + n) : (s.zero b n).byte a = 0 := by
  unfold State.byte State.zero
  dsimp only
  induction s.mem with
  | nil => rfl
  | cons c m ih =>
    obtain ⟨k, v⟩ := c
    rw [List.filter_cons]
    split
    · next out =>
      have : k ≠ a := fun e => by
        subst e
        rw [decide_eq_true lo, decide_eq_true hi] at out
        exact absurd out (by decide)
      rw [memGet, if_neg this, ih]
    · exact ih

theorem zero_keeps (s : State) {a b n : Nat} (h : s.byte a = 0) : (s.zero b n).byte a = 0 := by
  by_cases within : b ≤ a ∧ a < b + n
  · exact zero_inside s within.1 within.2
  · exact (zero_byte (by omega)).trans h

/-- One region that a core gives out. -/
def State.giveRegion (core : Nat) (s : State) (r : Nat × Nat) : State := if r.2 = 0 then s else s.zero (storeKey core r.1) r.2

theorem give_eq (s : State) (core : Nat) (rs : List (Nat × Nat)) (tiles : List Nat) :
    s.give core rs tiles = tiles.foldl (fun s n => s.freeTile core n) (rs.foldl (State.giveRegion core) s) := rfl

theorem giveRegion_keeps (core : Nat) (s : State) (r : Nat × Nat) {a : Nat} (h : s.byte a = 0) : (s.giveRegion core r).byte a = 0 := by
  unfold State.giveRegion
  split
  · exact h
  · exact zero_keeps s h

/-- The regions that a core gives out are zero. -/
theorem give_zero {s : State} {core a : Nat} {rs : List (Nat × Nat)} {tiles : List Nat} {r : Nat × Nat} (hr : r ∈ rs)
    (lo : storeKey core r.1 ≤ a) (hi : a < storeKey core r.1 + r.2) : (s.give core rs tiles).byte a = 0 := by
  obtain ⟨before, after, rfl⟩ := List.append_of_mem hr
  rw [give_eq, List.foldl_append, List.foldl_cons]
  refine List.foldlRecOn tiles _ (motive := fun u => State.byte u a = 0) ?_ fun u hu _ _ => zero_keeps u hu
  refine List.foldlRecOn after _ (motive := fun u => State.byte u a = 0) ?_ fun u hu _ _ => giveRegion_keeps core u _ hu
  rw [State.giveRegion, if_neg (by omega)]
  exact zero_inside _ lo hi

/-- What a core gives out for a share: the team's seat, its engine, and its bytes, which are zero. -/
def State.seated (s : State) (t : Team) (seat : Seat) (e : LigEngine) (rs : List (Nat × Nat)) : State :=
  let s := { s with teams := if s.teams.any (·.uid == t.uid)
      then s.teams.map fun (u : Team) => if u.uid == t.uid then { u with seats := u.seats ++ [seat] } else u
      else s.teams ++ [{ t with seats := [seat] }] }
  let s := if t.krec.lig then s.setLig e else s
  s.give seat.core rs seat.tiles

theorem give_keeps (s : State) (core : Nat) (rs : List (Nat × Nat)) (tiles : List Nat) :
    (s.give core rs tiles).groups = s.groups ∧ (s.give core rs tiles).teams = s.teams ∧ (s.give core rs tiles).cycle = s.cycle := by
  rw [give_eq]
  let Kept (u : State) : Prop := u.groups = s.groups ∧ u.teams = s.teams ∧ u.cycle = s.cycle
  refine List.foldlRecOn tiles _ (motive := Kept) ?_ fun u hu _ _ => hu
  refine List.foldlRecOn rs _ (motive := Kept) ⟨rfl, rfl, rfl⟩ fun u hu r _ => ?_
  unfold State.giveRegion
  split <;> exact hu

section Seated
variable (s : State) (t : Team) (seat : Seat) (e : LigEngine) (rs : List (Nat × Nat))

theorem seated_groups : (s.seated t seat e rs).groups = s.groups := by
  unfold State.seated
  refine (give_keeps ..).1.trans ?_
  split <;> rfl

theorem seated_cycle : (s.seated t seat e rs).cycle = s.cycle := by
  unfold State.seated
  refine (give_keeps ..).2.2.trans ?_
  split <;> rfl

theorem seated_seat : ∃ v ∈ (s.seated t seat e rs).teams, v.uid = t.uid ∧ seat ∈ v.seats := by
  have teams : (s.seated t seat e rs).teams = if s.teams.any (·.uid == t.uid)
      then s.teams.map fun (u : Team) => if u.uid == t.uid then { u with seats := u.seats ++ [seat] } else u
      else s.teams ++ [{ t with seats := [seat] }] := by
    unfold State.seated
    refine (give_keeps ..).2.1.trans ?_
    cases t.krec.lig <;> rfl
  rw [teams]
  split
  · next known =>
    obtain ⟨u, hu, same⟩ := List.any_eq_true.1 known
    exact ⟨_, List.mem_map_of_mem hu, by rw [if_pos same]; exact eq_of_beq same, by
      rw [if_pos same]
      exact List.mem_append_right _ List.mem_cons_self⟩
  · exact ⟨_, List.mem_append_right _ List.mem_cons_self, rfl, List.mem_cons_self⟩

end Seated

/-- Bytes of the regions of a share, by their number. -/
theorem seated_zero {s : State} {t : Team} {seat : Seat} {e : LigEngine} {sizes : List (Nat × Nat)} {as : List Nat} (length : as.length = sizes.length)
    {i a : Nat} {x : Nat × Nat} (hx : nth sizes i = some x) (lo : storeKey seat.core (as.getD i 0) ≤ a)
    (hi : a < storeKey seat.core (as.getD i 0) + x.1) : (s.seated t seat e (as.zip (sizes.map (·.1)))).byte a = 0 := by
  have size : i < sizes.length := nth_lt hx
  have region : (as.getD i 0, x.1) ∈ as.zip (sizes.map (·.1)) := by
    rw [nth_eq_getElem?] at hx
    refine List.mem_of_getElem? (i := i) (List.getElem?_zip_eq_some.2 ⟨?_, ?_⟩)
    · rw [List.getD_eq_getElem?_getD, List.getElem?_eq_getElem (length ▸ size)]
      rfl
    · rw [List.getElem?_map, hx]
      rfl
  unfold State.seated
  exact give_zero region lo hi

theorem room_iff (s : State) (core n galley : Nat) (lig : Bool) : ¬ ((s.freeSlots core).length < n ∨ (s.freeTiles core).length < galley
      ∨ (lig = true ∧ (!s.ligFree core) = true)) ↔
    n ≤ (s.freeSlots core).length ∧ galley ≤ (s.freeTiles core).length ∧ (lig = true → ∀ e ∈ s.ligs, e.core = core → e.team = none) := by
  simp only [not_or, not_lt, not_and, Bool.not_eq_true', Bool.not_eq_false, State.ligFree, List.any_eq_false, Bool.and_eq_true, beq_iff_eq,
    Option.isSome_iff_ne_none, ne_eq, not_not]

theorem windowBytes_eq (v w : Nat) : windowBytes v w = (v * 4 * w + 767) / 768 * 768 := by
  rw [windowBytes, roundUp, Nat.add_sub_assoc (by decide)]

/-- The groups of a share, with the numbers of their places. -/
theorem addGroups_spec (core team first : Nat) (k : KRec) (xs : List (Nat × Nat × Nat)) (s : State) :
    ∃ gs, s.addGroups core team first k xs = { s with groups := s.groups ++ gs } ∧ gs.length = xs.length
      ∧ ∀ (i : Nat) x, xs[i]? = some x → ∃ b, gs[i]? = some (Group.new core x.1 team (first + i) team s.cycle k x.2.2 x.2.1 b) := by
  induction xs generalizing first s with
  | nil => exact ⟨[], by rw [List.append_nil]; rfl, rfl, fun i x h => nomatch h⟩
  | cons x xs ih =>
    obtain ⟨gs, same, length, each⟩ := ih (first + 1) { s with
      groups := s.groups ++ [Group.new core x.1 team first team s.cycle k x.2.2 x.2.1 (s.joinBundle core k.addr k.width)] }
    refine ⟨Group.new core x.1 team first team s.cycle k x.2.2 x.2.1 (s.joinBundle core k.addr k.width) :: gs, ?_, congrArg (· + 1) length, ?_⟩
    · refine same.trans ?_
      dsimp only
      rw [List.append_assoc]
      rfl
    · intro i y hy
      cases i with
      | zero =>
        cases hy
        exact ⟨_, rfl⟩
      | succ i =>
        obtain ⟨b, hb⟩ := each i y hy
        refine ⟨b, hb.trans ?_⟩
        rw [Nat.add_assoc, Nat.add_comm 1 i]

theorem getElem?_getD {xs : List Nat} {i : Nat} (h : i < xs.length) : xs[i]? = some (xs.getD i 0) := by
  rw [List.getD_eq_getElem?_getD, List.getElem?_eq_getElem h]
  rfl

theorem places_getElem? {slots as : List Nat} {o n i : Nat} (hs : n ≤ slots.length) (ha : as.length = o + n + n) (hi : i < n) :
    ((slots.take n).zip (((as.drop o).take n).zip ((as.drop (o + n)).take n)))[i]?
      = some (slots.getD i 0, as.getD (o + i) 0, as.getD (o + n + i) 0) := by
  refine List.getElem?_zip_eq_some.2 ⟨?_, List.getElem?_zip_eq_some.2 ⟨?_, ?_⟩⟩
  · rw [List.getElem?_take_of_lt hi, getElem?_getD (by omega)]
  · rw [List.getElem?_take_of_lt hi, List.getElem?_drop, getElem?_getD (by omega)]
  · rw [List.getElem?_take_of_lt hi, List.getElem?_drop, getElem?_getD (by omega)]

theorem nth_append_left {α : Type} {xs ys : List α} {i : Nat} (h : i < xs.length) : nth (xs ++ ys) i = nth xs i := by
  rw [nth_eq_getElem?, nth_eq_getElem?, List.getElem?_append_left h]

theorem nth_append_right {α : Type} {xs ys : List α} (i : Nat) : nth (xs ++ ys) (xs.length + i) = ys[i]? := by
  rw [nth_eq_getElem?, List.getElem?_append_right (Nat.le_add_right ..), Nat.add_sub_cancel_left]

/-- The regions of a share: its folio, its scalar blocks, its windows. -/
def shareSizes (k : KRec) (n : Nat) : List (Nat × Nat) :=
  (if k.folio = 0 then [] else [(k.folio, 768)]) ++ List.replicate n (1024, 256)
    ++ List.replicate n ((k.vregs * 4 * k.width + 767) / 768 * 768, 768)

theorem folioSizes_length (k : KRec) : (if k.folio = 0 then [] else [(k.folio, 768)] : List (Nat × Nat)).length = if k.folio = 0 then 0 else 1 := by
  split <;> rfl

section Share
variable {s : State} {t : Team} {core n first : Nat}

/-- The seat of a team whose regions lie at some places. -/
def State.seatAt (s : State) (t : Team) (core : Nat) (as : List Nat) : Seat :=
  { core := core, folio := if t.krec.folio = 0 then 0 else as.getD 0 0, tiles := (s.freeTiles core).take t.krec.galley }

theorem placeShare_none (h : ¬ (n ≤ (s.freeSlots core).length ∧ t.krec.galley ≤ (s.freeTiles core).length
      ∧ (t.krec.lig = true → ∀ e ∈ s.ligs, e.core = core → e.team = none))
    ∨ fitAll (s.regions core ++ s.guards core) (shareSizes t.krec n) = none) : s.placeShare t core n first = none := by
  rw [← room_iff, not_not] at h
  unfold State.placeShare
  dsimp only
  split
  · rfl
  · next room =>
    have full := h.resolve_left room
    unfold shareSizes at full
    rw [show windowBytes t.krec.vregs t.krec.width = _ from rfl, windowBytes_eq, full]

theorem placeShare_some {as : List Nat} (room : n ≤ (s.freeSlots core).length ∧ t.krec.galley ≤ (s.freeTiles core).length
      ∧ (t.krec.lig = true → ∀ e ∈ s.ligs, e.core = core → e.team = none))
    (places : fitAll (s.regions core ++ s.guards core) (shareSizes t.krec n) = some as) :
    let o := if t.krec.folio = 0 then 0 else 1
    s.placeShare t core n first = some (State.addGroups (s.seated t (s.seatAt t core as) { s.lig core with core := core, team := some t.uid }
        (as.zip ((shareSizes t.krec n).map (·.1)))) core t.uid first t.krec
      (((s.freeSlots core).take n).zip (((as.drop o).take n).zip ((as.drop (o + n)).take n)))) := by
  rw [← room_iff] at room
  unfold State.placeShare
  dsimp only
  rw [if_neg room]
  unfold shareSizes at places
  rw [windowBytes_eq, places]
  rfl

theorem placeShare_spec (s : State) (t : Team) (core n first : Nat) :
    let k := t.krec
    let slots := (List.range 32).filter fun i => (s.group? core i).isNone
    let tiles := (List.range 48).filter fun i => !s.teams.any fun u => u.seats.any fun x => x.core == core && x.tiles.any (· == i)
    let room := n ≤ slots.length ∧ k.galley ≤ tiles.length ∧ (k.lig = true → ∀ e ∈ s.ligs, e.core = core → e.team = none)
    let sizes := shareSizes k n
    let places := fitAll (s.regions core ++ s.guards core) sizes
    let o := if k.folio = 0 then 0 else 1
    (¬ room ∨ places = none → s.placeShare t core n first = none)
    ∧ ∀ as, room → places = some as → ∃ u, s.placeShare t core n first = some u ∧ u.groups.length = s.groups.length + n
      ∧ (∀ i < s.groups.length, nth u.groups i = nth s.groups i)
      ∧ (∀ i < n, ∃ b, nth u.groups (s.groups.length + i) = some (Group.new core (slots.getD i 0) t.uid (first + i) t.uid s.cycle k
          (as.getD (o + n + i) 0) (as.getD (o + i) 0) b))
      ∧ (∃ v ∈ u.teams, v.uid = t.uid ∧ { core := core, folio := if k.folio = 0 then 0 else as.getD 0 0, tiles := tiles.take k.galley } ∈ v.seats)
      ∧ (s.Inv → ∀ i x, nth sizes i = some x → ∀ a, storeKey core (as.getD i 0) ≤ a → a < storeKey core (as.getD i 0) + x.1 → u.byte a = 0) := by
  intro k slots tiles room sizes places o
  refine ⟨placeShare_none, fun as fits found => ?_⟩
  have length : as.length = o + n + n := by
    rw [fitAll_length found]
    simp only [sizes, shareSizes, List.length_append, folioSizes_length, List.length_replicate]
    rfl
  let v := s.seated t (s.seatAt t core as) { s.lig core with core := core, team := some t.uid } (as.zip (sizes.map (·.1)))
  have groups : v.groups = s.groups := seated_groups ..
  have cycle : v.cycle = s.cycle := seated_cycle ..
  have seat : ∃ w ∈ v.teams, w.uid = t.uid ∧ s.seatAt t core as ∈ w.seats := seated_seat ..
  have zero : ∀ i x, nth sizes i = some x → ∀ a, storeKey core (as.getD i 0) ≤ a → a < storeKey core (as.getD i 0) + x.1 → v.byte a = 0 :=
    fun i x hx a => seated_zero (seat := s.seatAt t core as) (fitAll_length found) hx
  obtain ⟨gs, same, number, each⟩ := addGroups_spec core t.uid first k ((slots.take n).zip (((as.drop o).take n).zip ((as.drop (o + n)).take n))) v
  have count : gs.length = n := by
    rw [number]
    simp only [List.length_zip, List.length_take, List.length_drop, length]
    have := fits.1
    omega
  refine ⟨{ v with groups := v.groups ++ gs }, (placeShare_some fits found).trans (congrArg some same), ?_⟩
  rw [groups]
  refine ⟨by rw [List.length_append, count], fun i hi => nth_append_left hi, fun i hi => ?_, seat, fun _ => zero⟩
  rw [nth_append_right, ← cycle]
  exact each i _ (places_getElem? fits.1 length hi)

end Share

/-! ### Placing a team, a set, the next of a launch (15 R321) -/

theorem placeTeam_eq {s : State} {l : Launch} {p : Partition} (hp : s.part? l.part = some p) (num core : Nat) (cset : Option Nat) :
    let t := Team.fresh s.uid l num cset (min p.ceilB 262144) (min p.ceilC 64)
    let n := if l.krec.onPair then (l.krec.groups + 1) / 2 else l.krec.groups
    let s' := { s with uid := s.uid + 1 }
    let both := if l.krec.onPair then (s'.placeShare t core n 0).bind fun u => u.placeShare t (core + 1) (l.krec.groups - n) n
      else s'.placeShare t core n 0
    s.placeTeam l num cset core = both.map fun (u : State) => { u with
      hws := u.hws.map fun (h : HwSlot) => if h.n == l.hw then { h with lastCore := some (if l.krec.onPair then core + 1 else core) } else h } := by
  have lead : l.krec.shares.getD 0 0 = if l.krec.onPair = true then (l.krec.groups + 1) / 2 else l.krec.groups := by
    unfold KRec.shares
    split <;> rfl
  unfold State.placeTeam
  rw [hp]
  dsimp only
  rw [lead]
  cases l.krec.onPair with
  | true =>
    rw [if_pos rfl, if_pos rfl]
    cases State.placeShare _ _ core _ 0 <;> rfl
  | false =>
    rw [if_neg Bool.false_ne_true, if_neg Bool.false_ne_true]
    cases State.placeShare _ _ core _ 0 <;> rfl

theorem placeNext_spec {s : State} {l : Launch} {p : Partition} (hp : s.part? l.part = some p) (hn : l.next < l.teams) :
    let leads := p.cores.filter fun k => !l.krec.onPair || k % 2 == 0
    let order := match (s.hw? l.hw).bind (·.lastCore) with
      | none => leads
      | some n => leads.filter (fun k => decide (n < k)) ++ leads.filter fun k => decide (k ≤ n)
    let set := (List.range (min l.cset (l.teams - l.next))).map (l.next + ·)
    (l.cset = 0 → FirstOf (fun k => (s.placeTeam l l.next none k).map fun t => t.setLaunch { l with next := l.next + 1, held := none })
      order (s.placeNext l))
    ∧ (l.cset ≠ 0 → FirstOf (fun cluster => (s.placeSet l (l.next / l.cset) (order.filter fun k => k / 4 == cluster) set).map fun t =>
      t.setLaunch { l with next := l.next + set.length, held := none }) (dedup (order.map (· / 4))) (s.placeNext l)) := by
  intro leads order set
  have tried : candidates p l.krec.onPair ((s.hw? l.hw).bind (·.lastCore)) = order := rfl
  unfold State.placeNext
  rw [hp]
  dsimp only
  rw [tried]
  constructor
  · intro single
    have one : l.batch.length = 1 := by
      rw [Launch.batch, List.length_map, List.length_range, if_pos single]
      omega
    rw [if_pos single, one, firstState_map]
    exact firstState_firstOf _ _
  · intro several
    have batch : l.batch = set := by
      rw [Launch.batch, if_neg several]
    rw [if_neg several, batch, firstState_map]
    exact firstState_firstOf _ _

end Sys2Proof.Machine
end

section
/-! PROOFS. The restore of a queue's contexts (14 R308, 15 R320): teams, their shares, their chase entries, their bytes and groups. -/

namespace Sys2Proof.Machine
open Sys2Proof.Claims

/-! ### A restored share on a core -/

/-- A group of a context as its new place has it, by its number in the share. -/
def Group.seatedAt (g : Group) (core fs n : Nat) (slots as : List Nat) (i : Nat) (b : Nat × Nat) : Group :=
  { g with core := core, slot := slots.getD i 0, sblk := as.getD (fs + i) 0, win := as.getD (fs + n + i) 0, bundle := b.1, pos := b.2 }

/-- A group of a context takes its place. -/
def State.regroup (core fs n kaddr : Nat) (slots as : List Nat) (s : State) (p : Group × Nat) : State :=
  { s with groups := s.groups ++ [p.1.seatedAt core fs n slots as p.2 (s.joinBundle core kaddr p.1.width)] }

theorem regroup_spec (core fs n kaddr : Nat) (slots as : List Nat) (ps : List (Group × Nat)) (s : State) :
    ∃ hs, ps.foldl (State.regroup core fs n kaddr slots as) s = { s with groups := s.groups ++ hs } ∧ hs.length = ps.length
      ∧ ∀ (i : Nat) p, ps[i]? = some p → ∃ b, hs[i]? = some (p.1.seatedAt core fs n slots as p.2 b) := by
  induction ps generalizing s with
  | nil => exact ⟨[], by rw [List.append_nil]; rfl, rfl, fun i p h => nomatch h⟩
  | cons p ps ih =>
    obtain ⟨hs, same, length, each⟩ := ih (s.regroup core fs n kaddr slots as p)
    refine ⟨p.1.seatedAt core fs n slots as p.2 (s.joinBundle core kaddr p.1.width) :: hs, ?_, congrArg (· + 1) length, ?_⟩
    · refine same.trans ?_
      unfold State.regroup
      dsimp only
      rw [List.append_assoc]
      rfl
    · intro i q hq
      cases i with
      | zero =>
        cases hq
        exact ⟨_, rfl⟩
      | succ i => exact each i q hq

/-- The regions of a restored share: its folio, its groups' scalar blocks, their windows. -/
def restoreSizes (k : KRec) (gs : List Group) : List (Nat × Nat) :=
  (if k.folio = 0 then [] else [(k.folio, 768)]) ++ List.replicate gs.length (1024, 256)
    ++ gs.map fun g => ((g.vregs * 4 * g.width + 767) / 768 * 768, 768)

theorem restoreSizes_eq (k : KRec) (gs : List Group) : (if k.folio = 0 then [] else [(k.folio, 768)]) ++ gs.map (fun _ => (1024, 256))
    ++ gs.map (fun g => (windowBytes g.vregs g.width, 768)) = restoreSizes k gs := by
  rw [restoreSizes, List.map_const']
  refine congrArg _ (List.map_congr_left fun g _ => ?_)
  rw [windowBytes_eq]

section Share
variable {s : State} {t : Team} {core : Nat} {gs : List Group}

theorem restoreShare_none (h : ¬ (gs.length ≤ (s.freeSlots core).length ∧ t.krec.galley ≤ (s.freeTiles core).length
      ∧ (t.krec.lig = true → ∀ e ∈ s.ligs, e.core = core → e.team = none))
    ∨ fitAll (s.regions core ++ s.guards core) (restoreSizes t.krec gs) = none) : s.restoreShare t gs core = none := by
  rw [← room_iff, not_not] at h
  unfold State.restoreShare
  dsimp only
  split
  · rfl
  · next room => rw [restoreSizes_eq, h.resolve_left room]

theorem restoreShare_some {as : List Nat} (room : gs.length ≤ (s.freeSlots core).length ∧ t.krec.galley ≤ (s.freeTiles core).length
      ∧ (t.krec.lig = true → ∀ e ∈ s.ligs, e.core = core → e.team = none))
    (places : fitAll (s.regions core ++ s.guards core) (restoreSizes t.krec gs) = some as) :
    s.restoreShare t gs core = some ((gs.zip (List.range gs.length)).foldl
      (State.regroup core (if t.krec.folio = 0 then 0 else 1) gs.length t.krec.addr (s.freeSlots core) as)
      (s.seated t (s.seatAt t core as) (.fresh core (some t.uid)) (as.zip ((restoreSizes t.krec gs).map (·.1))))) := by
  rw [← room_iff] at room
  unfold State.restoreShare
  dsimp only
  rw [if_neg room, restoreSizes_eq, places]
  rfl

theorem restoreShare_spec (s : State) (t : Team) (gs : List Group) (core : Nat) :
    let k := t.krec
    let n := gs.length
    let slots := (List.range 32).filter fun i => (s.group? core i).isNone
    let tiles := (List.range 48).filter fun i => !s.teams.any fun u => u.seats.any fun x => x.core == core && x.tiles.any (· == i)
    let room := n ≤ slots.length ∧ k.galley ≤ tiles.length ∧ (k.lig = true → ∀ e ∈ s.ligs, e.core = core → e.team = none)
    let sizes := restoreSizes k gs
    let places := fitAll (s.regions core ++ s.guards core) sizes
    let o := if k.folio = 0 then 0 else 1
    (¬ room ∨ places = none → s.restoreShare t gs core = none)
    ∧ ∀ as, room → places = some as → ∃ u, s.restoreShare t gs core = some u ∧ u.groups.length = s.groups.length + n
      ∧ (∀ i < s.groups.length, nth u.groups i = nth s.groups i)
      ∧ (∀ i g, nth gs i = some g → ∃ b pos, nth u.groups (s.groups.length + i) = some { g with
          core := core, slot := slots.getD i 0, win := as.getD (o + n + i) 0, sblk := as.getD (o + i) 0, bundle := b, pos := pos })
      ∧ (∃ v ∈ u.teams, v.uid = t.uid ∧ { core := core, folio := if k.folio = 0 then 0 else as.getD 0 0, tiles := tiles.take k.galley } ∈ v.seats)
      ∧ (s.Inv → ∀ i x, nth sizes i = some x → ∀ a, storeKey core (as.getD i 0) ≤ a → a < storeKey core (as.getD i 0) + x.1 → u.byte a = 0) := by
  intro k n slots tiles room sizes places o
  refine ⟨restoreShare_none, fun as fits found => ?_⟩
  let v := s.seated t (s.seatAt t core as) (.fresh core (some t.uid)) (as.zip (sizes.map (·.1)))
  have groups : v.groups = s.groups := seated_groups ..
  have seat : ∃ w ∈ v.teams, w.uid = t.uid ∧ s.seatAt t core as ∈ w.seats := seated_seat ..
  have zero : ∀ i x, nth sizes i = some x → ∀ a, storeKey core (as.getD i 0) ≤ a → a < storeKey core (as.getD i 0) + x.1 → v.byte a = 0 :=
    fun i x hx a => seated_zero (seat := s.seatAt t core as) (fitAll_length found) hx
  obtain ⟨hs, same, number, each⟩ := regroup_spec core o n k.addr slots as (gs.zip (List.range n)) v
  have count : hs.length = n := by rw [number, List.length_zip, List.length_range, Nat.min_self]
  refine ⟨{ v with groups := v.groups ++ hs }, (restoreShare_some fits found).trans (congrArg some same), ?_⟩
  rw [groups]
  refine ⟨by rw [List.length_append, count], fun i hi => nth_append_left hi, fun i g hg => ?_, seat, fun _ => zero⟩
  rw [nth_append_right]
  have pair : (gs.zip (List.range n))[i]? = some (g, i) :=
    List.getElem?_zip_eq_some.2 ⟨(nth_eq_getElem? gs i).symm.trans hg, List.getElem?_range (nth_lt hg)⟩
  obtain ⟨b, hb⟩ := each i _ pair
  exact ⟨b.1, b.2, hb⟩

end Share

/-! ### Contexts and their teams -/

theorem tryRestore_spec (s : State) (p : Partition) (q : Nat) :
    let waiting := s.saved.filter fun x => x.part == p.p && x.queue == q && !x.held
    (∀ t, s.restoreAll p waiting = some t → s.tryRestore p q = t) ∧ (s.restoreAll p waiting = none → s.tryRestore p q = s) := by
  intro waiting
  have same : (s.savedOf p.p q).filter (fun x => !x.held) = waiting := by
    rw [State.savedOf, List.filter_filter]
    refine List.filter_congr fun x _ => ?_
    rw [Bool.and_comm]
  unfold State.tryRestore
  rw [same]
  exact ⟨fun t h => by rw [h], fun h => by rw [h]⟩

theorem restoreTeams_cons (s : State) (sv : Saved) (cores : List Nat) (used : List (Nat × Nat × Nat)) (x : Team × List Group)
    (xs : List (Team × List Group)) :
    let t := x.1
    let lead := (t.seats.head?.map (·.core)).getD 0
    let own := x.2.filter (·.core == lead)
    let other := x.2.filter (·.core != lead)
    let leads := cores.filter fun k => (!t.paired || k % 2 == 0)
      && !(used.any fun u => t.cset == some u.1 && u.2.1 == t.launch && (u.2.2 == k || (t.paired && u.2.2 == k + 1)))
    let takes := fun (k : Nat) => t.cset.toList.flatMap fun n => (n, t.launch, k) :: if t.paired then [(n, t.launch, k + 1)] else []
    FirstOf (fun k =>
        let seated := (s.restoreShare t own k).bind fun s => if t.paired then s.restoreShare t other (k + 1) else some s
        (seated.bind fun s => s.restoreChases sv t).bind fun s => s.restoreTeams sv cores (takes k ++ used) xs) leads
      (s.restoreTeams sv cores used (x :: xs)) := by
  intro t lead own other leads takes
  have taken : ∀ k, takes k = (t.cset.map fun n => (n, t.launch, k)).toList
      ++ (if t.paired then (t.cset.map fun n => (n, t.launch, k + 1)).toList else []) := by
    intro k
    show t.cset.toList.flatMap _ = _
    cases t.cset <;> cases t.paired <;> rfl
  simp only [taken]
  exact firstState_firstOf _ _

theorem restoreChases_spec (s : State) (sv : Saved) (t : Team) :
    let es := (sv.chases.filter (·.team == t.uid)).map (sv.chase s)
    let all := s.chases ++ es
    let room := ∀ e ∈ es, (all.filter (·.span.core == e.span.core)).length ≤ 64
    (room → s.restoreChases sv t = some { s with chases := all }) ∧ (¬ room → s.restoreChases sv t = none) := by
  intro es all room
  have fits : (es.all fun e => decide ((all.filter (·.span.core == e.span.core)).length ≤ 64)) = true ↔ room := by
    simp only [List.all_eq_true, decide_eq_true_iff]
    rfl
  unfold State.restoreChases
  exact ⟨fun h => if_pos (fits.2 h), fun h => if_neg (fits.not.2 h)⟩

/-- Where the bytes of an image go: folio, tiles, value file, the window and the scalar block of a group. -/
theorem imageKey_spec (s : State) (t : Team) (x : Seat) (o : Nat) :
    (o < 2 ^ 24 → s.imageKey t x o = storeKey x.core (x.folio + o))
    ∧ (∀ n, o < 4096 → n < 2 ^ 20 → s.imageKey t x (2 ^ 32 + 4096 * n + o) = tileKey x.core (x.tiles.getD n 0) + o)
    ∧ s.imageKey t x (2 ^ 33 + o) = valueKey x.core 0 + o
    ∧ ∀ i g, i < 255 → o < 2 ^ 23 → (s.members t.uid).find? (·.index == i) = some g →
      s.imageKey t x (2 ^ 24 * (i + 1) + o) = g.vkey 0 0 + o ∧ s.imageKey t x (2 ^ 24 * (i + 1) + 2 ^ 23 + o) = g.skey 0 + o := by
  have lig : imgLig = 8589934592 := rfl
  have tile : imgTile 0 = 4294967296 := rfl
  have win : imgWin 0 = 16777216 := rfl
  have member : ∀ i g k, i < 255 → k < 2 ^ 24 → (s.members t.uid).find? (·.index == i) = some g → s.imageKey t x (2 ^ 24 * (i + 1) + k)
      = if k < 2 ^ 23 then g.vkey 0 0 + k else g.skey 0 + (k - 2 ^ 23) := by
    intro i g k hi hk hg
    have number : (2 ^ 24 * (i + 1) + k) / 2 ^ 24 - 1 = i := by omega
    have offset : (2 ^ 24 * (i + 1) + k) % 2 ^ 24 = k := by omega
    unfold State.imageKey
    rw [lig, tile, win, if_neg (by omega), if_neg (by omega), if_neg (by omega)]
    dsimp only
    rw [number, offset, hg]
  refine ⟨fun h => ?_, fun n ho hn => ?_, ?_, fun i g hi ho hg => ⟨?_, ?_⟩⟩
  · unfold State.imageKey
    rw [lig, tile, win, if_neg (by omega), if_neg (by omega), if_pos (by omega)]
  · have index : (2 ^ 32 + 4096 * n + o - 4294967296) / 4096 = n := by omega
    have offset : (2 ^ 32 + 4096 * n + o - 4294967296) % 4096 = o := by omega
    unfold State.imageKey
    rw [lig, tile, if_neg (by omega), if_pos (by omega), index, offset]
  · unfold State.imageKey
    rw [lig, if_pos (by omega), show 2 ^ 33 + o - 8589934592 = o by omega]
  · rw [member i g o hi (by omega) hg, if_pos ho]
  · rw [Nat.add_assoc, member i g (2 ^ 23 + o) hi (by omega) hg, if_neg (by omega), Nat.add_sub_cancel_left]

theorem chase_moved {s : State} {sv : Saved} {e : Chase} {old new : Team} {x y : Seat} (ht : sv.teamAt s e.span.core (some e.team) = some (old, new))
    (hs : (old.seats.zip new.seats).find? (fun p => p.1.core == e.span.core) = some (x, y)) :
    sv.chase s e = { e with span := { e.span with core := y.core, lo := y.folio + (e.span.lo - x.folio), hi := y.folio + (e.span.hi - x.folio) } } := by
  have seat : seatFor old new e.span.core = some (x, y) := hs
  unfold Saved.chase
  rw [ht]
  dsimp only
  rw [shiftCore, shiftOff, shiftOff, seat]
  rfl

theorem restoreGroup_spec (s : State) (g : Group) :
    let hw := (s.hwOf g.team).getD 0
    let placed := fun (r : TrapRec) => { r with a := .ofNat 64 (r.a.toNat - r.a.toNat / 2 ^ 16 % 2 ^ 13 * 2 ^ 16
      + 2 ^ 16 * hw + 2 ^ 22 * g.slot + 2 ^ 27 * (g.core % 4)) }
    (∀ r, g.run = .saving .trap (some r) → s.restoreGroup g = State.settleTrap (s.setGroup { g with run := .trapped (placed r) false }) g.core g.slot)
    ∧ (∀ k r, g.run = .saving k r → (k ≠ .trap ∨ r = none) → s.restoreGroup g = s.setGroup { g with run := .ready, notBefore := s.cycle + 1 }) := by
  intro hw placed
  unfold State.restoreGroup
  refine ⟨fun r h => ?_, fun k r h other => ?_⟩
  · rw [h]
    rfl
  · rw [h]
    split
    · next e =>
      cases e
      exact absurd other (by simp)
    · rfl
    · next none => exact absurd rfl (none k r)

theorem restoreIn_spec (s : State) (sv : Saved) (cluster : Nat) :
    let placed := s.restoreTeams sv ((List.range 4).map (4 * cluster + ·)) [] sv.teams
    (placed = none → s.restoreIn sv cluster = none)
    ∧ ∀ t, placed = some t →
      let bytes := sv.cells.filterMap fun c => (t.team? c.1).bind fun v => (nth v.seats c.2.1).map fun x => (t.imageKey v x c.2.2.1, c.2.2.2)
      let t := t.write bytes
      let t := { t with
        reqs := t.reqs ++ sv.reqs
        saved := t.saved.filter (· != sv)
        treqs := t.treqs ++ sv.treqs.map fun (r : TaskReq) =>
          match sv.teamAt t r.core (some r.team) with
          | none => r
          | some v => { r with cluster := cluster, core := shiftCore v.1 v.2 r.core, slot := shiftOff v.1 v.2 r.core r.slot
                               word := shiftOff v.1 v.2 r.core r.word } }
      let t := (sv.cmds.map (sv.cmd t)).foldl (fun t m => { t with cmds := t.cmds ++ [t.beginUnits m] }) t
      let t := (sv.ligs.filterMap (sv.engine t)).foldl State.setLig t
      s.restoreIn sv cluster = some ((t.groups.filter fun g => sv.teams.any fun x => x.1.uid == g.team).foldl State.restoreGroup t) := by
  unfold State.restoreIn
  exact ⟨fun h => congrArg _ h, fun t h => congrArg _ h⟩

theorem restoresContexts : RestoresContexts :=
  ⟨fun s p q => ⟨(tryRestore_spec s p q).1, (tryRestore_spec s p q).2, rfl, fun _ _ => firstState_firstOf _ _⟩, restoreIn_spec,
    fun s sv cores used x xs => ⟨rfl, restoreTeams_cons s sv cores used x xs⟩, restoreChases_spec, restoreShare_spec, imageKey_spec,
    fun _ _ _ _ _ _ _ => chase_moved, fun _ => rfl, restoreGroup_spec⟩

end Sys2Proof.Machine
end

section
/-! PROOFS. Queues (15 R311, R317 to R326): notify writes, placement and binding events, lane reservations, the mapping of queues,
their eviction and their leases. -/

namespace Sys2Proof.Machine
open Sys2Proof.Claims

/-! ### Notify writes (15 R311) -/

theorem notifyWrite_spec (s : State) (part q : Nat) (x : DWord) :
    (s.hostq = [] → s.hostBusy (.notify part q x) = false → exec (.notifyWrite part q x) s = .next (s.notify part q x.toNat))
    ∧ (s.hostq ≠ [] ∨ s.hostBusy (.notify part q x) = true →
      exec (.notifyWrite part q x) s = .next { s with hostq := s.hostq ++ [.notify part q x] }) := by
  have first : (s.hostq.isEmpty && !s.hostBusy (.notify part q x)) = true ↔ s.hostq = [] ∧ s.hostBusy (.notify part q x) = false := by
    rw [Bool.and_eq_true, List.isEmpty_iff, Bool.not_eq_true']
  refine ⟨fun empty free => congrArg _ (if_pos (first.2 ⟨empty, free⟩)), fun held => congrArg _ (if_neg (first.not.2 ?_))⟩
  exact fun ⟨empty, free⟩ => held.elim (· empty) fun busy => Bool.false_ne_true (free.symm.trans busy)

section Notify
variable {s : State} {p : Partition} {q x : Nat} (hp : s.part? p.p = some p)
include hp

theorem notify_closed (h : s.boot.lock = false ∨ p.qtcount ≤ q) : s.notify p.p q x = s := by
  unfold State.notify
  rw [hp]
  refine if_pos ?_
  rw [Bool.or_eq_true, Bool.not_eq_true', decide_eq_true_iff]
  exact h

/-- The checks of a notify write to a queue whose descriptor can be read, in order. -/
theorem notify_open {d : QDesc} (lock : s.boot.lock = true) (count : q < p.qtcount) (hd : s.qdesc p q = .ok d) :
    let new := BitVec.ofNat 32 x
    let t := s.ppWrite p (s.hwSlotOf p.p q) (p.qaddr q + 12) (leBytes 4 new.toNat)
    s.notify p.p q x =
      if !d.en then s
      else if d.rsize < 4 ∨ 16 < d.rsize then s.queueError p q 2
      else if x / 2 ^ 32 ≠ 0 ∨ new = d.widx ∨ 2 ^ 31 ≤ (new - d.widx).toNat then s
      else if 2 ^ d.rsize < (new - d.ridx).toNat then s.queueError p q 1
      else match s.farKey p p.ppUnit true (p.qaddr q + 12) with
        | .bad _ _ _ => t
        | _ => if d.err = 0 then t.makePending p.p q d.prio none [] none else t := by
  unfold State.notify
  rw [hp]
  dsimp only
  rw [if_neg (by rw [lock, decide_eq_false (Nat.not_le.2 count)]; decide), hd] <;> rfl

theorem notify_spec :
    let after := s.notify p.p q x
    (s.boot.lock = false ∨ p.qtcount ≤ q → after = s)
    ∧ ∀ d, s.boot.lock = true → q < p.qtcount → s.qdesc p q = .ok d →
      let new := BitVec.ofNat 32 x
      let ahead := (new - d.widx).toNat
      let used := (new - d.ridx).toNat
      let bad := d.rsize < 4 ∨ 16 < d.rsize
      let t := s.ppWrite p (s.hwSlotOf p.p q) (p.qaddr q + 12) (leBytes 4 new.toNat)
      (d.en = false → after = s)
      ∧ (d.en = true → bad → after = s.queueError p q 2)
      ∧ (d.en = true → ¬ bad → 2 ^ 32 ≤ x ∨ ahead = 0 ∨ 2 ^ 31 ≤ ahead → after = s)
      ∧ (d.en = true → ¬ bad → x < 2 ^ 32 → 0 < ahead → ahead < 2 ^ 31 → 2 ^ d.rsize < used → after = s.queueError p q 1)
      ∧ (d.en = true → ¬ bad → x < 2 ^ 32 → 0 < ahead → ahead < 2 ^ 31 → used ≤ 2 ^ d.rsize →
        let refused := ∃ r l e, s.farKey p p.ppUnit true (p.qaddr q + 12) = .bad r l e
        (d.err = 0 → ¬ refused → after = t.makePending p.p q d.prio none [] none) ∧ (d.err ≠ 0 ∨ refused → after = t)) := by
  refine ⟨notify_closed hp, fun d lock count hd => ?_⟩
  intro new ahead used bad t
  have same : new = d.widx ↔ ahead = 0 := by
    rw [← sub_eq_zero, ← BitVec.toNat_inj]
    rfl
  have stale : (x / 2 ^ 32 ≠ 0 ∨ new = d.widx ∨ 2 ^ 31 ≤ ahead) ↔ 2 ^ 32 ≤ x ∨ ahead = 0 ∨ 2 ^ 31 ≤ ahead := by
    rw [same]
    omega
  have enabled : d.en = true → ¬ (!d.en) = true := fun en => by rw [en]; decide
  rw [notify_open hp lock count hd]
  dsimp only
  refine ⟨fun off => ?_, fun en b => ?_, fun en b old => ?_, fun en b word pos near full => ?_, fun en b word pos near fits => ?_⟩
  · rw [off]
    rfl
  · rw [if_neg (enabled en), if_pos b]
  · rw [if_neg (enabled en), if_neg b, if_pos (stale.2 old)]
  · rw [if_neg (enabled en), if_neg b, if_neg (stale.not.2 (by omega)), if_pos full]
  · rw [if_neg (enabled en), if_neg b, if_neg (stale.not.2 (by omega)), if_neg (Nat.not_lt.2 fits)]
    refine ⟨fun err served => ?_, fun lost => ?_⟩
    · split
      · next r l e bad => exact absurd ⟨r, l, e, bad⟩ served
      · rw [if_pos err]
    · split
      · rfl
      · next served => exact if_neg (lost.resolve_right fun ⟨r, l, e, bad⟩ => served r l e bad)

end Notify

/-! ### Placement and binding events (15 R317, R321) -/

theorem teamPlace_spec {s : State} {l : Launch} (hl : s.launch? l.uid = some l) (may : s.mayPlace l = true) (free : l.held = none) :
    (∀ t, s.placeNext l = some t → exec (.teamPlace l.uid) s = .next (t.afterPlace l.uid))
    ∧ (s.placeNext l = none → exec (.teamPlace l.uid) s = .next (s.setLaunch { l with held := some s.cycle })) := by
  have goes : ¬ (!s.mayPlace l || l.held.isSome) = true := by rw [may, free]; decide
  have run : exec (.teamPlace l.uid) s = match s.placeNext l with
      | some t => .next (t.afterPlace l.uid)
      | none => .next (s.setLaunch { l with held := some s.cycle }) := by
    show execTeamPlace l.uid s = _
    unfold execTeamPlace
    rw [hl]
    exact if_neg goes
  exact ⟨fun t h => by rw [run, h], fun h => by rw [run, h]⟩

theorem bindingIssue_empty {s : State} {t : Team} {b : Binding} {l : Launch} {x : Seat} (ht : s.team? t.uid = some t)
    (hb : nth t.krec.binds t.bound = some b) (hl : s.launch? t.launch = some l) (hx : t.seats.head? = some x) (empty : b.isEmpty = true) :
    exec (.bindingIssue t.uid) s = .next (s.setTeam { t with bound := t.bound + 1 }) := by
  show execBindingIssue t.uid s = _
  unfold execBindingIssue
  rw [ht]
  dsimp only
  rw [hb, hl, hx]
  exact if_pos empty

theorem bindingIssue_fetch {s : State} {t : Team} {b : Binding} {l : Launch} {x : Seat} (ht : s.team? t.uid = some t)
    (hb : nth t.krec.binds t.bound = some b) (hl : s.launch? t.launch = some l) (hx : t.seats.head? = some x) (full : b.isEmpty = false) :
    let d := descOf (l.descs.getD t.bound 0)
    let its := d.items { plane := true, fetch := true } b.plane b.origins none
    let pads := d.padBytes b.plane
    let m := Cmd.of s.uid .fetch (.group x.core (((s.live t.uid).head?.map (·.slot)).getD 0)) x.core t [recvOf x.core x.folio d.arrw (some d.resw)]
    let m := { m with items := its, pads := pads, units := itemUnits .fetch its, bytes := itemCount its, esize := d.esize, efmt := d.efmt, desc := d.raw, spans := mkSpan x.core x.folio true (spanOf (itemLocs its ++ pads)), bindingOf := some t.bound }
    s.chaseFits m = true → (s.outstanding t.uid = (0, 0) ∨ s.allowance m = 0) →
    exec (.bindingIssue t.uid) s = .next (State.sendCmd ((State.initWord { s with uid := s.uid + 1 }
      (storeKey x.core (x.folio + 16 * d.arrw)) m.bytes).setTeam { t with bound := t.bound + 1 }) m) := by
  intro d its pads m0 m fits allowed
  have room : (((s.outstanding t.uid).1 == 0 && (s.outstanding t.uid).2 == 0) || s.allowance m == 0) = true := by
    rw [Bool.or_eq_true, beq_iff_eq]
    exact allowed.imp_left fun none => by rw [none]; rfl
  have goes : ¬ (!s.chaseFits m || !(((s.outstanding t.uid).1 == 0 && (s.outstanding t.uid).2 == 0) || s.allowance m == 0)) = true := by
    rw [fits, room]
    exact Bool.false_ne_true
  show execBindingIssue t.uid s = _
  unfold execBindingIssue
  rw [ht]
  dsimp only
  rw [hb, hl, hx]
  dsimp only
  rw [if_neg (by rw [full]; decide)]
  exact if_neg goes

/-! ### Lane reservations (15 R325, 17 R355, R365) -/

theorem sumL_eq_sum (xs : List Nat) : sumL xs = xs.sum := by
  induction xs with
  | nil => rfl
  | cons x xs ih => rw [sumL_cons, ih, List.sum_cons]

/-- A lane that can carry a pin: its socket's lane stands on both sides. -/
def State.PinFits (s : State) (x : Nat × Nat × Nat) : Prop :=
  x.2.1 < 256 ∧ x.2.2 < 4 ∧ s.moduleLane x.1 x.2.1 = true ∧ s.planeLane x.2.1 x.2.2 ≠ none

/-- Two pins take no transmit slot together, nor two lanes of one plane to one endpoint. -/
def PinsApart (x y : Nat × Nat × Nat) : Prop := x.2 ≠ y.2 ∧ (x.1 = y.1 → x.2.1 ≠ y.2.1)

section Pins
variable {s : State}

theorem pinEndpoint_spec {taken : List (Nat × Nat × Nat)} {ep n : Nat} {pls : List Nat} {xs : List (Nat × Nat × Nat)} (planes : ∀ pl ∈ pls, pl < 256)
    (distinct : pls.Nodup) (h : s.pinEndpoint taken ep n pls = some xs) :
    xs.length = n ∧ (∀ x ∈ xs, x.1 = ep ∧ x.2.1 ∈ pls ∧ s.PinFits x ∧ ∀ y ∈ taken, PinsApart y x) ∧ xs.Pairwise PinsApart := by
  induction pls generalizing n xs with
  | nil =>
    cases n with
    | zero =>
      obtain rfl := Option.some.inj h
      exact ⟨rfl, List.forall_mem_nil _, List.Pairwise.nil⟩
    | succ n => cases h
  | cons pl pls ih =>
    obtain ⟨fresh, distinct⟩ := List.nodup_cons.1 distinct
    have later := fun q hq => planes q (List.mem_cons_of_mem _ hq)
    have skip : ∀ {n xs}, s.pinEndpoint taken ep n pls = some xs →
        xs.length = n ∧ (∀ x ∈ xs, x.1 = ep ∧ x.2.1 ∈ pl :: pls ∧ s.PinFits x ∧ ∀ y ∈ taken, PinsApart y x) ∧ xs.Pairwise PinsApart := by
      intro n xs h
      obtain ⟨length, each, apart⟩ := ih later distinct h
      refine ⟨length, fun x hx => ?_, apart⟩
      obtain ⟨e, mem, rest⟩ := each x hx
      exact ⟨e, List.mem_cons_of_mem _ mem, rest⟩
    cases n with
    | zero =>
      obtain rfl := Option.some.inj h
      exact ⟨rfl, List.forall_mem_nil _, List.Pairwise.nil⟩
    | succ n =>
      unfold State.pinEndpoint at h
      dsimp only at h
      split at h
      · exact skip h
      · next unused =>
        split at h
        · exact skip h
        · next k hk =>
          obtain ⟨ys, hys, rfl⟩ := Option.map_eq_some_iff.1 h
          obtain ⟨length, each, apart⟩ := ih later distinct hys
          have found := List.find?_some hk
          have slot := List.mem_of_find?_eq_some hk
          simp only [Bool.and_eq_true, Bool.not_eq_true', List.any_eq_false, beq_iff_eq, not_and] at found
          simp only [List.any_eq_true, Bool.and_eq_true, beq_iff_eq, not_exists, not_and] at unused
          have small : k < 4 := by
            simp only [List.mem_cons, List.not_mem_nil, or_false] at slot
            omega
          refine ⟨congrArg (· + 1) length, fun x hx => ?_, List.pairwise_cons.2 ⟨fun y hy => ?_, apart⟩⟩
          · obtain rfl | hx := List.mem_cons.1 hx
            · refine ⟨rfl, List.mem_cons_self, ⟨planes pl List.mem_cons_self, small, found.1.1, Option.isSome_iff_ne_none.1 found.1.2⟩, ?_⟩
              intro y hy
              refine ⟨fun e => ?_, unused y hy⟩
              exact found.2 y hy (congrArg Prod.fst e) (congrArg Prod.snd e)
            · obtain ⟨e, mem, rest⟩ := each x hx
              exact ⟨e, List.mem_cons_of_mem _ mem, rest⟩
          · have other : pl ≠ y.2.1 := fun e => fresh (e ▸ (each y hy).2.1)
            exact ⟨fun e => other (congrArg Prod.fst e), fun _ => other⟩

theorem pinPlanes_lt {ep pl : Nat} (h : pl ∈ pinPlanes ep) : pl < 256 := by
  obtain ⟨i, -, rfl⟩ := List.mem_map.1 h
  exact Nat.mod_lt _ (by decide)

theorem pinPlanes_nodup (ep : Nat) : (pinPlanes ep).Nodup := by
  refine List.Nodup.map_on (fun i hi j hj same => ?_) List.nodup_range
  rw [List.mem_range] at hi hj
  omega

theorem pinAll_spec {taken : List (Nat × Nat × Nat)} {lanes : Nat} {ends : List Nat} {xs : List (Nat × Nat × Nat)}
    (h : s.pinAll taken lanes ends = some xs) :
    xs.length = ends.length * lanes ∧ (∀ x ∈ xs, x.1 ∈ ends ∧ s.PinFits x ∧ ∀ y ∈ taken, PinsApart y x) ∧ xs.Pairwise PinsApart := by
  induction ends generalizing taken xs with
  | nil =>
    obtain rfl := Option.some.inj h
    exact ⟨(Nat.zero_mul _).symm, List.forall_mem_nil _, List.Pairwise.nil⟩
  | cons e es ih =>
    unfold State.pinAll at h
    split at h
    · cases h
    · next zs hzs =>
      obtain ⟨ys, hys, rfl⟩ := Option.map_eq_some_iff.1 h
      obtain ⟨length, each, apart⟩ := pinEndpoint_spec (fun pl => pinPlanes_lt) (pinPlanes_nodup e) hzs
      obtain ⟨length', each', apart'⟩ := ih hys
      refine ⟨?_, fun x hx => ?_, List.pairwise_append.2 ⟨apart, apart', fun x hx y hy => ?_⟩⟩
      · rw [List.length_append, length, length', List.length_cons, Nat.succ_mul, Nat.add_comm]
      · obtain hx | hx := List.mem_append.1 hx
        · obtain ⟨rfl, -, fits, free⟩ := each x hx
          exact ⟨List.mem_cons_self, fits, free⟩
        · obtain ⟨mem, fits, free⟩ := each' x hx
          exact ⟨List.mem_cons_of_mem _ mem, fits, fun y hy => free y (List.mem_append_left _ hy)⟩
      · exact (each' y hy).2.2 x (List.mem_append_right _ hx)

theorem pinMore_keeps {others : List (Nat × Nat × Nat)} {v : Resv} {have_ : List (Nat × Nat × Nat)} {es : List Nat} {x : Nat × Nat × Nat}
    (h : x ∈ have_) : x ∈ s.pinMore others v have_ es := by
  induction es generalizing have_ with
  | nil => exact h
  | cons e es ih => exact ih (List.mem_append_left _ h)

end Pins

section Reserve
variable {s : State} {h : HwSlot} {v : Resv} (hh : s.hw? h.n = some h) (hv : h.resv = some v)
include hh hv

/-- A request stays as it is where it does not wait, goes beyond what may be pinned, or finds no lanes. -/
theorem tryPin_stays (stays : (!v.waiting || decide (256 < (s.pins h.n).length + v.ends.length * v.lanes) || s.shareFull h v) = true
    ∨ s.pinAll (s.pins h.n) v.lanes v.ends = none) : s.tryPin h.n = s := by
  unfold State.tryPin
  rw [hh]
  dsimp only
  rw [hv]
  dsimp only
  split
  · rfl
  · next goes => rw [stays.resolve_left goes]

theorem tryPin_pins {xs : List (Nat × Nat × Nat)}
    (goes : ¬ (!v.waiting || decide (256 < (s.pins h.n).length + v.ends.length * v.lanes) || s.shareFull h v) = true)
    (pinned : s.pinAll (s.pins h.n) v.lanes v.ends = some xs) :
    let t := s.setHw { h with resv := some { v with pinned := xs, waiting := false, until_ := s.time + 1000000 * nsUnits } }
    let packet := h.queue.bind fun m => (m.packets.find? fun k => k.type == 3 && !k.done).map fun k => (m, k)
    (packet = none → s.tryPin h.n = t) ∧ (∀ m k, packet = some (m, k) → s.tryPin h.n = t.completePacket h.n h.part m.q k) := by
  intro t packet
  have run : s.tryPin h.n = match h.queue with
      | none => t
      | some m => match m.packets.find? fun k => k.type == 3 && !k.done with
        | some k => t.completePacket h.n h.part m.q k
        | none => t := by
    unfold State.tryPin
    rw [hh]
    dsimp only
    rw [hv]
    dsimp only
    rw [if_neg goes, pinned]
    rfl
  rw [run]
  clear_value t
  simp only [packet]
  cases h.queue with
  | none => exact ⟨fun _ => rfl, fun m k some => by cases some⟩
  | some m =>
    rw [Option.bind_some]
    dsimp only
    cases m.packets.find? fun k => k.type == 3 && !k.done with
    | none => exact ⟨fun _ => rfl, fun m k some => by cases some⟩
    | some k =>
      have found : (some (m, k) : Option (Mapped × Packet)) ≠ none := Option.some_ne_none _
      refine ⟨fun none => absurd none found, fun m' k' same => ?_⟩
      cases same
      rfl

theorem repin_waits (w : v.waiting = true) : s.repin h.n = s := by
  unfold State.repin
  rw [hh]
  dsimp only
  rw [hv]
  exact if_pos w

/-- Pins of sockets that are Live stay. -/
theorem repin_moves (w : v.waiting = false) : ∃ xs, s.repin h.n = s.setHw { h with resv := some { v with pinned := xs } }
    ∧ ∀ x ∈ v.pinned, (s.socket (x.2.1 / 16)).st = 3 → x ∈ xs := by
  refine ⟨s.pinMore (s.pins h.n) v (v.pinned.filter fun x => (s.socket (x.2.1 / 16)).st == 3) (dedup v.ends), ?_, fun x hx live => ?_⟩
  · unfold State.repin
    rw [hh]
    dsimp only
    rw [hv]
    exact if_neg (by rw [w]; decide)
  · exact pinMore_keeps (List.mem_filter.2 ⟨hx, beq_iff_eq.2 live⟩)

theorem tryPin_spec :
    let others := (s.hws.filter (·.n != h.n)).flatMap fun g => match g.resv with
      | some w => w.pinned
      | none => []
    let beside := ((s.hws.filter fun g => g.part == h.part && g.n != h.n).map fun g => (g.resv.map (·.pinned.length)).getD 0).sum
    let above := 256 < others.length + v.ends.length * v.lanes ∨ ∃ p, s.part? h.part = some p ∧ p.pinShare < beside + v.ends.length * v.lanes
    let pinned := s.pinAll others v.lanes v.ends
    (v.waiting = false ∨ above ∨ pinned = none → s.tryPin h.n = s)
    ∧ (∀ xs, v.waiting = true → ¬ above → pinned = some xs →
      let t := s.setHw { h with resv := some { v with pinned := xs, waiting := false, until_ := s.time + 1000000 * nsUnits } }
      let packet := h.queue.bind fun m => (m.packets.find? fun k => k.type == 3 && !k.done).map fun k => (m, k)
      (packet = none → s.tryPin h.n = t)
      ∧ (∀ m k, packet = some (m, k) → s.tryPin h.n = t.completePacket h.n h.part m.q k)
      ∧ xs.length = v.ends.length * v.lanes
      ∧ (∀ x ∈ xs, x.1 ∈ v.ends ∧ x.2.1 < 256 ∧ x.2.2 < 4 ∧ s.moduleLane x.1 x.2.1 = true ∧ s.planeLane x.2.1 x.2.2 ≠ none
        ∧ ∀ y ∈ others, y.2 ≠ x.2)
      ∧ xs.Pairwise fun x y => x.2 ≠ y.2 ∧ (x.1 = y.1 → x.2.1 ≠ y.2.1))
    ∧ (v.waiting = true → s.repin h.n = s)
    ∧ (v.waiting = false → ∃ xs, s.repin h.n = s.setHw { h with resv := some { v with pinned := xs } }
      ∧ ∀ x ∈ v.pinned, (s.socket (x.2.1 / 16)).st = 3 → x ∈ xs) := by
  intro others beside above pinned
  have share : s.shareFull h v = true ↔ ∃ p, s.part? h.part = some p ∧ p.pinShare < beside + v.ends.length * v.lanes := by
    rw [State.shareFull, Option.any_eq_true, sumL_eq_sum]
    simp only [decide_eq_true_iff]
    rfl
  have stays : (!v.waiting || decide (256 < (s.pins h.n).length + v.ends.length * v.lanes) || s.shareFull h v) = true ↔ v.waiting = false ∨ above := by
    rw [Bool.or_eq_true, Bool.or_eq_true, share, decide_eq_true_iff, Bool.not_eq_true', or_assoc]
    rfl
  refine ⟨fun held => ?_, fun xs waits free found => ?_, repin_waits hh hv, repin_moves hh hv⟩
  · refine tryPin_stays hh hv ?_
    rw [stays, or_assoc]
    exact held
  · have goes := stays.not.2 (not_or.2 ⟨by rw [waits]; decide, free⟩)
    obtain ⟨none, packet⟩ := tryPin_pins hh hv goes found
    obtain ⟨length, each, apart⟩ := pinAll_spec found
    refine ⟨none, packet, length, fun x hx => ?_, apart⟩
    obtain ⟨mem, ⟨plane, slot, module, lane⟩, others⟩ := each x hx
    exact ⟨mem, plane, slot, module, lane, fun y hy => (others y hy).1⟩

end Reserve

end Sys2Proof.Machine
end

section
/-! PROOFS. The mapping of queues to hardware slots, their eviction, their unmapping and the lease of a reservation (15 R318 to R320, R326). -/

namespace Sys2Proof.Machine
open Sys2Proof.Claims

/-! ### A queue's descriptor does not depend on the slots -/

section Setting
variable (s : State) (h : HwSlot) (p : Partition)

theorem walkAll_setHw (write : Bool) (va n : Nat) (x : Xlat) : (s.setHw h).walkAll p write va n x = s.walkAll p write va n x := by
  induction n generalizing x with
  | zero => rfl
  | succ n ih =>
    cases x with
    | ended o => rfl
    | served o => rfl
    | pending => exact ih _
    | walking l e a ts => exact ih _

theorem farKey_setHw (cluster : Nat) (write : Bool) (va : Nat) : (s.setHw h).farKey p cluster write va = s.farKey p cluster write va := by
  have same : (s.setHw h).translate p cluster write va = s.translate p cluster write va := by
    unfold State.translate
    simp only [walkAll_setHw]
    rfl
  unfold State.farKey
  rw [same]
  rfl

theorem bytes_setHw (a n : Nat) : (s.setHw h).bytes a n = s.bytes a n := by
  induction n generalizing a with
  | zero => rfl
  | succ n ih => exact congrArg (s.byte a :: ·) (ih (a + 1))

theorem farRead_setHw (cluster va n : Nat) : (s.setHw h).farRead p cluster va n = s.farRead p cluster va n := by
  unfold State.farRead
  simp only [farKey_setHw, bytes_setHw]

theorem farReadN_setHw (cluster f va n : Nat) : (s.setHw h).farReadN p cluster f va n = s.farReadN p cluster f va n := by
  induction f generalizing va n with
  | zero => rfl
  | succ f ih =>
    unfold State.farReadN
    simp only [farRead_setHw, ih]

theorem qdesc_setHw (q : Nat) : (s.setHw h).qdesc p q = s.qdesc p q := by
  unfold State.qdesc State.ppRead
  rw [farReadN_setHw]
  rfl

end Setting

/-! ### Unmapping -/

/-- What is left of a reservation whose slot is unmapped: a request goes, a lease runs out. -/
def lapsed : Option Resv → Option Resv
  | some v => if v.waiting = true then none else some { v with lapsing := true }
  | none => none

/-- A queue that has nothing left leaves its slot without a trace. -/
theorem vacate_empty {s : State} {h : HwSlot} {m : Mapped} {p : Partition} {d : QDesc} (hp : s.part? h.part = some p)
    (hd : s.qdesc p m.q = .ok d) (empty : BitVec.ofNat 32 m.cursor = d.widx) (saved : s.savedOf h.part m.q = []) (packets : m.packets = [])
    (replay : m.replay = none) : s.vacate h m = s.setHw { h with queue := none, resv := lapsed h.resv } := by
  unfold State.vacate
  dsimp only
  generalize new : ({ n := h.n, part := h.part, queue := none, lastCore := h.lastCore, resv := _ } : HwSlot) = h'
  have slot : h' = { h with queue := none, resv := lapsed h.resv } := by
    rw [← new]
    unfold lapsed
    cases h.resv <;> rfl
  have read : ((s.setHw h').part? h.part).map (fun p => (s.setHw h').qdesc p m.q) = some (.ok d) := by
    rw [show (s.setHw h').part? h.part = some p from hp, Option.map_some, qdesc_setHw, hd]
  rw [read, packets, show (s.setHw h').savedOf h.part m.q = [] from saved, empty, replay, slot]
  cases m.stopped <;> simp

theorem idleUnmap_empty {s : State} {h : HwSlot} {m : Mapped} {p : Partition} {d : QDesc} (hh : s.hw? h.n = some h) (hp : s.part? h.part = some p)
    (hq : h.queue = some m) (stays : m.evicting = false) (hd : s.qdesc p m.q = .ok d) (empty : BitVec.ofNat 32 m.cursor = d.widx)
    (idle : s.slotBusy h m = false) (saved : s.savedOf h.part m.q = []) : exec (.idleUnmap h.n) s = .next (s.vacate h m) := by
  show execIdleUnmap h.n s = _
  unfold execIdleUnmap
  rw [hh]
  dsimp only
  rw [hq, hp]
  dsimp only
  rw [if_neg (by rw [stays]; decide), hd]
  refine congrArg _ (if_pos (Bool.or_eq_true _ _ ▸ .inl ?_))
  show (BitVec.ofNat 32 m.cursor == d.widx && !s.slotBusy h m && (s.savedOf h.part m.q).isEmpty) = true
  rw [empty, idle, saved, beq_self_eq_true]
  rfl

/-! ### Eviction -/

section Evict
variable {s : State} {h : HwSlot} {m : Mapped} {p : Partition} (hh : s.hw? h.n = some h) (hp : s.part? h.part = some p) (hq : h.queue = some m)

theorem evict_ok {d : QDesc} (hd : s.qdesc p m.q = .ok d) : s.evict h m p = (s.setMapped h.n { m with evicting := true }).evictOn h.n := by
  rw [State.evict, hd]

include hh hp hq

theorem evictOn_spec {d : QDesc} (hd : s.qdesc p m.q = .ok d) (evicting : m.evicting = true) :
    let here := (s.teams.filter fun t => !t.exited && (s.launch? t.launch).any fun l => l.hw == h.n).map fun t =>
      ((t.seats.head?.map (·.core)).getD 0) / 4
    let open_ := ∃ x ∈ s.preempts, x.hw = h.n ∧ x.st < 4
    (here = [] → open_ → s.evictOn h.n = s)
    ∧ (here = [] → ¬ open_ → s.evictOn h.n = s.vacate h m)
    ∧ (here ≠ [] → s.evictOn h.n = (dedup here).foldl (fun (s : State) c =>
      if s.preemptOpen h.n c = true then s
      else s.requestPreempt h.n c (farWrap (d.save + c * d.sstride * 2 ^ 20)) (some (d.sstride * 2 ^ 20)) true) s) := by
  intro here open_
  have clusters : s.slotClusters h.n = dedup here := rfl
  have opened : (s.preempts.any fun x => x.hw == h.n && decide (x.st < 4)) = true ↔ open_ := by
    simp only [List.any_eq_true, Bool.and_eq_true, beq_iff_eq, decide_eq_true_iff]
    rfl
  have empty : (dedup here).isEmpty = true ↔ here = [] := by
    rw [List.isEmpty_iff]
    cases here with
    | nil => exact ⟨fun _ => rfl, fun _ => rfl⟩
    | cons x xs => exact iff_of_false (List.cons_ne_nil _ _) (List.cons_ne_nil _ _)
  have run : s.evictOn h.n = if (s.slotClusters h.n).isEmpty then
        (if s.preempts.any fun x => x.hw == h.n && decide (x.st < 4) then s else s.vacate h m)
      else s.askClusters h.n d := by
    unfold State.evictOn
    rw [hh]
    dsimp only
    rw [hq, hp]
    dsimp only
    rw [if_neg (by rw [evicting]; decide), hd]
  rw [run, clusters]
  refine ⟨fun none asked => ?_, fun none free => ?_, fun some => ?_⟩
  · rw [if_pos (empty.2 none), if_pos (opened.2 asked)]
  · rw [if_pos (empty.2 none), if_neg (opened.not.2 free)]
  · rw [if_neg (empty.not.2 some)]
    rfl

/-- A slot that is being evicted goes on with it at its mapping event, and no other unmaps it. -/
theorem evicting_spec (evicting : m.evicting = true) : exec (.queueMap h.part h.n) s = .next (s.evictOn h.n)
    ∧ exec (.idleUnmap h.n) s = .next s ∧ exec (.sliceEviction h.n) s = .next s := by
  refine ⟨?_, ?_, ?_⟩
  · show execQueueMap h.part h.n s = _
    unfold execQueueMap
    rw [hh, hp]
    dsimp only
    rw [if_neg (not_not.2 rfl), hq]
    dsimp only
    rw [if_pos evicting]
  · show execIdleUnmap h.n s = _
    unfold execIdleUnmap
    rw [hh]
    dsimp only
    rw [hq, hp]
    exact if_pos evicting
  · show execSliceEviction h.n s = _
    unfold execSliceEviction
    rw [hh]
    dsimp only
    rw [hq, hp]
    cases s.pendPrio h.part with
    | none => rfl
    | some k =>
      refine if_pos ?_
      rw [Mapped.evictable, evicting]
      rfl

theorem queueMap_mapped (stays : m.evicting = false) : exec (.queueMap h.part h.n) s = .next (s.tryRestore p m.q) := by
  show execQueueMap h.part h.n s = _
  unfold execQueueMap
  rw [hh, hp]
  dsimp only
  rw [if_neg (not_not.2 rfl), hq]
  dsimp only
  rw [if_neg (by rw [stays]; decide)]

theorem sliceEviction_due (stays : m.evicting = false) {k : Nat} (runs : m.stopped = false) (hk : s.pendPrio h.part = some k) (prio : m.prio ≤ k)
    (slice : m.since + p.tslice ≤ s.time) : exec (.sliceEviction h.n) s = .next (s.evict h m p) := by
  show execSliceEviction h.n s = _
  unfold execSliceEviction
  rw [hh]
  dsimp only
  rw [hq, hp, hk]
  refine if_neg ?_
  rw [Mapped.evictable, stays, runs, decide_eq_false (Nat.not_lt.2 slice), decide_eq_false (Nat.not_lt.2 prio)]
  decide

end Evict

/-! ### Mapping -/

theorem queueMap_free {s : State} {h : HwSlot} {p : Partition} {x : PendingQ} {d : QDesc} (hh : s.hw? h.n = some h) (hp : s.part? h.part = some p)
    (hq : h.queue = none) (next : s.nextPending h.part = some x) (hd : s.qdesc p x.q = .ok d) :
    exec (.queueMap h.part h.n) s = .next ((s.mapQueue p h x d).tryRestore p x.q) := by
  show execQueueMap h.part h.n s = _
  unfold execQueueMap
  rw [hh, hp]
  dsimp only
  rw [if_neg (not_not.2 rfl), hq]
  dsimp only
  rw [next]
  dsimp only
  rw [hd]

/-- Of two states of one slot the later one stays. -/
theorem setHw_setHw {s : State} {g h : HwSlot} (same : g.n = h.n) : (s.setHw g).setHw h = s.setHw h := by
  unfold State.setHw
  rw [same]
  exact congrArg (fun hws => { s with hws := hws }) (replaceBy_replaceBy (p := fun x : HwSlot => x.n == h.n) (beq_iff_eq.2 same) s.hws)

theorem mapQueue_spec {s : State} {h : HwSlot} {p : Partition} (hp : s.part? h.part = some p) (x : PendingQ) (d : QDesc) :
    let m : Mapped := { q := x.q, prio := d.prio, priv := d.priv, diag := d.diag, since := s.time, evicting := false, stopped := d.err != 0
                        cursor := x.cursor.getD d.ridx.toNat, packets := x.packets, replay := x.replay }
    let resv := match x.replay with
      | some v => some { ends := v.1, lanes := v.2, pinned := [], until_ := 0, waiting := true, lapsing := false : Resv }
      | none => h.resv
    let mapped := fun (r : Option Resv) => State.setHw { s with
      pendq := s.pendq.filter (· != x)
      saved := s.saved.map fun (v : Saved) => if v.part == h.part && v.queue == x.q then { v with held := false, hw := h.n } else v
      launches := s.launches.map fun (l : Launch) => if l.part == h.part && l.queue == x.q then { l with hw := h.n } else l }
        { h with queue := some m, resv := r }
    let above := ∃ v, resv = some v ∧ v.waiting = true ∧ p.pinShare < v.ends.length * v.lanes
    (above → s.mapQueue p h x d = (mapped none).queueError p x.q 6) ∧ (¬ above → s.mapQueue p h x d = (mapped resv).tryPin h.n) := by
  intro m resv mapped above
  have run : s.mapQueue p h x d = if (resv.any fun v => v.waiting && (mapped resv).overShare h v) = true
      then State.queueError ((mapped resv).setHw { h with queue := some m, resv := none }) p x.q 6 else (mapped resv).tryPin h.n := rfl
  have share : ∀ v, (mapped resv).overShare h v = decide (p.pinShare < v.ends.length * v.lanes) := fun v => by
    rw [State.overShare, show (mapped resv).part? h.part = some p from hp]
    rfl
  have asked : (resv.any fun v => v.waiting && (mapped resv).overShare h v) = true ↔ above := by
    simp only [Option.any_eq_true, Bool.and_eq_true, share, decide_eq_true_iff]
    rfl
  rw [run]
  refine ⟨fun h => (if_pos (asked.2 h)).trans ?_, fun h => if_neg (asked.not.2 h)⟩
  exact congrArg (State.queueError · p x.q 6) (setHw_setHw rfl)

/-! ### Leases -/

theorem leaseExpire_spec {s : State} {h : HwSlot} {v : Resv} (hh : s.hw? h.n = some h) (hv : h.resv = some v) :
    let renewed := ∃ x ∈ s.cadence.pending, x.2.2 ≤ v.until_ + 200 * nsUnits
    let ended := v.waiting = false ∧ v.until_ ≤ s.time ∧ (v.lapsing = true ∨ h.queue = none ∨ ¬ renewed)
    (ended → exec (.leaseExpire h.n) s = .next (s.setHw { h with resv := none })) ∧ (¬ ended → exec (.leaseExpire h.n) s = .next s) := by
  intro renewed ended
  have due : s.renewalDue v = true ↔ renewed := by
    simp only [State.renewalDue, List.any_eq_true, decide_eq_true_iff]
    rfl
  have expired : h.resv.any (s.leaseOver h) = true ↔ ended := by
    rw [hv, Option.any_some, State.leaseOver, Bool.and_eq_true, Bool.and_eq_true, Bool.or_eq_true, Bool.or_eq_true, Bool.not_eq_true',
      Bool.not_eq_true', decide_eq_true_iff, Option.isNone_iff_eq_none, ← Bool.not_eq_true, ← Bool.not_eq_true, due, and_assoc, or_assoc]
    exact and_congr_left' (Bool.not_eq_true _ ▸ Iff.rfl)
  have run : exec (.leaseExpire h.n) s = .next (if h.resv.any (s.leaseOver h) then s.setHw { h with resv := none } else s) := by
    show execLeaseExpire h.n s = _
    unfold execLeaseExpire
    rw [hh]
  rw [run]
  exact ⟨fun h => congrArg _ (if_pos (expired.2 h)), fun h => congrArg _ (if_neg (expired.not.2 h))⟩

/-! ### The slot of a priority eviction -/

/-- A mapped slot that a queue of some priority may take. -/
def State.Lower (s : State) (part prio : Nat) (x : HwSlot × Mapped) : Prop :=
  x.1 ∈ s.hws ∧ x.1.part = part ∧ x.1.queue = some x.2 ∧ x.2.stopped = false ∧ x.2.prio < prio

theorem mem_lower {s : State} {part prio : Nat} {x : HwSlot × Mapped} :
    x ∈ (s.mappedSlots part).filter (fun x => decide (x.2.prio < prio)) ↔ s.Lower part prio x := by
  obtain ⟨h, m⟩ := x
  simp only [State.mappedSlots, State.Lower, List.mem_filter, List.mem_filterMap, decide_eq_true_iff, beq_iff_eq]
  constructor
  · rintro ⟨⟨g, ⟨mem, part⟩, mapped⟩, prio⟩
    obtain ⟨n, queue, runs⟩ := Option.bind_eq_some_iff.1 mapped
    split at runs
    · cases runs
    · next go =>
      cases runs
      exact ⟨mem, part, queue, Bool.not_eq_true _ ▸ go, prio⟩
  · rintro ⟨mem, part, queue, runs, prio⟩
    refine ⟨⟨h, ⟨mem, part⟩, ?_⟩, prio⟩
    rw [queue, Option.bind_some, if_neg (by rw [runs]; decide)]

/-- Of some mapped queues one has the least priority, and of these the least time of mapping. -/
theorem exists_least {xs : List (HwSlot × Mapped)} (h : xs ≠ []) :
    ∃ x ∈ xs, ∀ y ∈ xs, x.2.prio < y.2.prio ∨ (x.2.prio = y.2.prio ∧ x.2.since ≤ y.2.since) := by
  let key (x : HwSlot × Mapped) := toLex (x.2.prio, x.2.since)
  obtain ⟨x, hx⟩ := Option.ne_none_iff_exists'.1 (mt List.argmin_eq_none.1 h : List.argmin key xs ≠ none)
  refine ⟨x, List.argmin_mem hx, fun y hy => ?_⟩
  exact Prod.Lex.toLex_le_toLex.1 (List.le_of_mem_argmin hy hx)

theorem victim_spec (s : State) (part prio : Nat) :
    (∀ x, s.victim part prio = some x → s.Lower part prio x
      ∧ ∀ y, s.Lower part prio y → x.2.prio < y.2.prio ∨ (x.2.prio = y.2.prio ∧ x.2.since ≤ y.2.since))
    ∧ (s.victim part prio = none → ∀ y, ¬ s.Lower part prio y) := by
  have least : ∀ x : HwSlot × Mapped, (((s.mappedSlots part).filter fun x => decide (x.2.prio < prio)).all fun y =>
      decide (x.2.prio < y.2.prio) || (x.2.prio == y.2.prio && decide (x.2.since ≤ y.2.since))) = true
      ↔ ∀ y, s.Lower part prio y → x.2.prio < y.2.prio ∨ (x.2.prio = y.2.prio ∧ x.2.since ≤ y.2.since) := fun x => by
    simp only [List.all_eq_true, mem_lower, Bool.or_eq_true, Bool.and_eq_true, decide_eq_true_iff, beq_iff_eq]
  unfold State.victim
  dsimp only
  refine ⟨fun x hx => ?_, fun none y hy => ?_⟩
  · have low := List.find?_some hx
    exact ⟨mem_lower.1 (List.mem_of_find?_eq_some hx), (least x).1 low⟩
  · obtain ⟨x, mem, low⟩ := exists_least (List.ne_nil_of_mem (mem_lower.2 hy))
    exact List.find?_eq_none.1 none x mem ((least x).2 fun z hz => low z (mem_lower.2 hz))

theorem priorityEviction_victim {s : State} {p : Partition} {k : Nat} {x : HwSlot × Mapped} (hp : s.part? p.p = some p)
    (hk : s.pendPrio p.p = some k) (full : s.slotFree p.p = false) (hx : s.victim p.p k = some x) :
    exec (.priorityEviction p.p) s = .next (if x.2.evicting = true then s else s.evict x.1 x.2 p) := by
  show execPriorityEviction p.p s = _
  unfold execPriorityEviction
  rw [hp, hk]
  dsimp only
  rw [if_neg (by rw [full]; decide), hx]

/-- Settles O44: each event is the model's, its checks passed or failed in order; the search for a place, a lane or a slot finds the first. -/
theorem queueAndPlacementEventsComplete : Obligations.QueueAndPlacementEventsComplete := by
  unfold Obligations.QueueAndPlacementEventsComplete
  refine ⟨restoresContexts, notifyWrite_spec, fun s p q x hp => notify_spec hp, fun s n => rfl, fun s l => teamPlace_spec,
    fun s l p hp hn => ?_, fun s l p num core cset hp => placeTeam_eq hp num core cset, placeShare_spec, fun rs x xs => ?_,
    fun s h v hh hv => tryPin_spec hh hv, fun s part => rfl, fun s t b l x ht hb hl hx => ?_, fun s h p hh hp => ?_, victim_spec,
    fun s p k x => priorityEviction_victim⟩
  · obtain ⟨single, several⟩ := placeNext_spec hp hn
    exact ⟨single, several, fun n cs => ⟨rfl, fun num nums => firstState_firstOf _ _⟩⟩
  · exact ⟨fun n align => firstFit_lowest, rfl, fitAll_cons_none, fun a => fitAll_cons_some⟩
  · exact ⟨bindingIssue_empty ht hb hl hx, bindingIssue_fetch ht hb hl hx⟩
  · refine ⟨fun x d => queueMap_free hh hp, mapQueue_spec hp, fun m d hq hd => ⟨evict_ok hd, evictOn_spec hh hp hq hd⟩,
      fun m => evicting_spec hh hp, fun m hq stays => ⟨queueMap_mapped hh hp hq stays, fun k => sliceEviction_due hh hp hq stays,
        fun d hd empty idle saved => ⟨idleUnmap_empty hh hp hq stays hd empty idle saved, vacate_empty hp hd empty saved⟩⟩,
      fun v => leaseExpire_spec hh⟩

end Sys2Proof.Machine
end

section
/-! PROOFS. The exactly rounded functions (06 R159): the clause of VEXP2 on irrational values takes in the operand 1.0, whose power is the
rational number 2, since `CutOf` does not ask that its number be irrational. A cut that never answers `.eq` then demands NX, which the exact
result 2.0 does not raise. -/

namespace Sys2Proof.Machine
open Sys2Proof.Claims

/-- How a rational compares with 2, 2 itself counted as above. -/
def belowTwo (q : Rat) : Ordering := if q < 2 then .lt else .gt

theorem cutOf_belowTwo : CutOf 2 belowTwo := by
  intro q
  unfold belowTwo
  split
  · next below => exact ⟨by decide, fun _ => by exact_mod_cast below, fun _ => rfl⟩
  · next above => exact ⟨by decide, fun e => (nomatch e), fun below => absurd (by exact_mod_cast below) above⟩

theorem expGo_zero (n k acc : Nat) : expGo n 0 k 0 acc = acc := by
  induction n generalizing k with
  | zero => rfl
  | succ n ih =>
    unfold expGo
    simp only [Nat.zero_mul, Nat.zero_div, Nat.add_zero]
    exact ih (k + 1)

/-- The fixed-point power e^0 is 1. -/
theorem fxExp_zero : fxExp 0 = 2 ^ fxP := by
  unfold fxExp expGo
  simp only [Nat.mul_zero, Nat.zero_div, Nat.zero_add]
  exact expGo_zero ..

theorem fexp2_one : fexp2 .f32 0x3F800000 = (0x40000000, fNone) := by decide

theorem decF_one : decF .f32 0x3F800000 = .fin false (2 ^ 23) (-23) false := by decide

theorem fxOf_one : fxOf (2 ^ 23) (-23) = 2 ^ fxP := by decide

/-- The place below 2.0 lies below 2, and 2.0 does not. -/
theorem gridAt_two : gridAt .f32 0x3FFFFFFF < 2 ∧ gridAt .f32 0x40000000 = 2 := by
  constructor <;> norm_num [gridAt, FTy.mbits, FTy.bias]

/-- The exact result 2.0 without NX is not what that cut demands. -/
theorem not_roundsTo_two : ¬ RoundsTo .f32 .rn false false belowTwo (0x40000000, fNone) := by
  intro h
  obtain ⟨below, two⟩ := gridAt_two
  have at_ : belowTwo (gridAt .f32 0x3FFFFFFF) = .lt := if_pos below
  have above : belowTwo (gridAt .f32 (0x3FFFFFFF + 1)) = .gt := if_neg (by rw [two]; decide)
  have mid : belowTwo ((gridAt .f32 0x3FFFFFFF + gridAt .f32 (0x3FFFFFFF + 1)) / 2) = .lt :=
    if_pos (by rw [show 0x3FFFFFFF + 1 = 0x40000000 from rfl, two]; linarith)
  have flags := congrArg Prod.snd (h 0x3FFFFFFF (by rw [at_]; decide) above)
  rw [at_, mid] at flags
  generalize belowTwo (gridAt .f32 (2 ^ FTy.f32.mbits)) = tiny at flags
  cases tiny <;> exact absurd flags (by decide)

theorem fixedPoint_one : (if false = true then -((2 ^ fxP : Nat) : Int) else ((2 ^ fxP : Nat) : Int)) = 2 ^ fxP := by
  rw [if_neg Bool.false_ne_true, Nat.cast_pow, Nat.cast_ofNat]

theorem integerPart_one : (2 ^ fxP : Int) / 2 ^ fxP = 1 := Int.ediv_self (by positivity)

theorem fraction_one : ((2 ^ fxP : Int) % 2 ^ fxP).toNat * fxLn2 / 2 ^ fxP = 0 := by
  rw [Int.emod_self, Int.toNat_zero, Nat.zero_mul, Nat.zero_div]

/-- The operand is 1. -/
theorem operand_one : (if false = true then -1 else 1 : ℝ) * (((2 ^ 23 : Nat) : ℝ) * 2 ^ (-23 : Int)) = 1 := by norm_num

/-- The fixed-point interval of its power holds 2. -/
theorem interval_two : (((2 ^ fxP : Nat) : ℝ) - 2 ^ 40) * 2 ^ (1 - (fxP : Int)) < 2
    ∧ 2 < (((2 ^ fxP : Nat) : ℝ) + 2 ^ 40 + 1) * 2 ^ (1 - (fxP : Int)) := by
  have unit : ((2 ^ fxP : Nat) : ℝ) * 2 ^ (1 - (fxP : Int)) = 2 := by
    rw [Nat.cast_pow, Nat.cast_ofNat, ← zpow_natCast, ← zpow_add₀ two_ne_zero, add_sub_cancel, zpow_one]
  have positive : (0 : ℝ) < 2 ^ (1 - (fxP : Int)) := by positivity
  constructor
  · rw [sub_mul, unit]
    linarith
  · rw [add_assoc, add_mul, unit]
    linarith

/-- Refutes O9: the operand 1.0 of VEXP2 in .f32. Its power 2 is rational, and the statement's cut says of no rational that it equals the value;
so it demands NX of a result that is exact. -/
theorem not_floatFunctionsCommitLater : ¬ Obligations.FloatFunctionsCommitLater := by
  unfold Obligations.FloatFunctionsCommitLater
  rintro ⟨-, functions⟩
  obtain ⟨-, -, -, -, -, -, -, -, -, values⟩ := functions .f32 .rn rfl 0x7FC00000 rfl
  obtain ⟨-, -, -, -, finite⟩ := values 0x3F800000
  obtain ⟨-, -, -, -, -, -, -, -, -, irrational⟩ := finite false (2 ^ 23) (-23) decF_one
  obtain ⟨power, -⟩ := irrational (by decide) belowTwo
  dsimp only at power
  rw [fxOf_one] at power
  simp only [fixedPoint_one, integerPart_one, fraction_one, operand_one, Real.rpow_one, fxExp_zero] at power
  exact not_roundsTo_two (fexp2_one ▸ power (by decide) (by decide) cutOf_belowTwo ⟨Nat.pow_le_pow_right (by decide) (by decide), interval_two⟩)

end Sys2Proof.Machine
end

section
/-! PROOFS. Special registers (02 R47, 07 R178, R179, 14 R284, R285, 17 R367): their values, the counter that %dsel selects, and what RDSR
and WRSR answer. -/

namespace Sys2Proof.Machine
open Sys2Proof.Claims

/-! ### Values (R179) -/

theorem special_clock_first {s : State} {g : Group} (h : g.core < 48) : s.special g .clock = .ofNat 64 s.cycle :=
  if_pos (show g.core / 4 / 12 = 0 by omega)

theorem special_clock_other {s : State} {g : Group} (h : 48 ≤ g.core) :
    s.special g .clock = .ofNat 64 s.cycle + Config.dieClockOffset (g.core / 4 / 12) :=
  if_neg (show ¬ g.core / 4 / 12 = 0 by omega)

section Launched
variable {s : State} {g : Group} {t : Team} {l : Launch} (ht : s.team? g.team = some t)
include ht

theorem special_team : s.special g .team = .ofNat 64 t.num ∧ s.special g .kdata = .ofNat 64 t.krec.kdata
    ∧ s.special g .ngroups = .ofNat 64 t.krec.groups := by
  simp only [State.special, ht, Option.map_some, Option.getD_some, and_self]

theorem launchOf_team (hl : s.launch? t.launch = some l) : s.launchOf g = some l := by
  simp only [State.launchOf, ht, Option.bind_some, hl]

theorem diagOk_iff (hl : s.launch? t.launch = some l) : s.diagOk g = true ↔ l.diag = true ∨ l.priv = true := by
  simp only [State.diagOk, launchOf_team ht hl, Option.any_some, Bool.or_eq_true]

theorem special_kargs (hl : s.launch? t.launch = some l) : s.special g .kargs = l.kargs := by
  simp only [State.special, launchOf_team ht hl, Option.map_some, Option.getD_some]

end Launched

/-! ### The counter that %dsel selects (R367) -/

/-- The counter of a selector, in the cases of its kind field. -/
theorem ddata_eq (s : State) (sel : DWord) :
    let kind := sel.toNat / 2 ^ 12 % 2 ^ 4
    let sk := sel.toNat / 2 ^ 8 % 2 ^ 4
    let pos := sel.toNat % 2 ^ 7
    let y := s.lane sk pos
    s.ddata sel = if kind = 5 then .ofNat 64 (s.cadence.tick.toNat + 2 ^ 32 * s.cadence.level)
      else if kind = 3 then .ofNat 64 (s.socket sk).resumes
      else if kind = 4 then .ofNat 64 (s.socket sk).discards
      else if 67 < pos then 0xFFFFFFFFFFFFFFFF
      else if kind = 1 then .ofNat 64 y.age
      else if kind = 2 then .ofNat 64 (y.st + 2 ^ 8 * (if y.st = 2 then y.replaced else 0) + 2 ^ 16 * (if y.st = 0 then 0x1FF else y.plane))
      else 0xFFFFFFFFFFFFFFFF := by
  simp only [State.ddata, fld_low]
  rfl

/-! ### What RDSR and WRSR answer -/

section Answers
variable {s : State} {c : Cur} {g : Group} (hg : s.GroupIssuing c g) (gd : MReg) (d : Byte) (r : SpReg) (a : SReg)

section
include hg

theorem rdsr_group : exec (.rdsr gd r d) s = .next (if isDiag r && !s.diagOk g then s.trap c 0x04
    else if r = .lane then s.putV c g d.toNat (g.lanes gd) fun i => (i, fNone)
    else State.finish (s.setSregA c.agent d.toNat (s.special g r)) c) := by
  show execRdsr gd r d s = _
  rw [execRdsr, withAgent_issuing (GroupIssuing.issuing hg)]
  simp only [hg.2.1, hg.2.2]
  rfl

theorem rdsr_open (hr : r ≠ .lane) (hd : isDiag r = true → s.diagOk g = true) :
    exec (.rdsr gd r d) s = .next (State.finish (s.setSregA c.agent d.toNat (s.special g r)) c) := by
  rw [rdsr_group hg, if_neg (by simpa using hd), if_neg hr]

theorem rdsr_lane : exec (.rdsr gd .lane d) s = .next (s.putV c g d.toNat (g.lanes gd) fun i => (i, fNone)) :=
  rdsr_group hg gd d .lane

theorem rdsr_closed (hr : isDiag r = true) (hd : s.diagOk g = false) : exec (.rdsr gd r d) s = .next (s.trap c 0x04) := by
  rw [rdsr_group hg, if_pos (by rw [hr, hd]; rfl)]

theorem wrsr_fstat : exec (.wrsr .fstat a) s = .next (State.finish (s.setGroup { g with
    fstat := .ofNat 6 (s.sreg g a.toNat).toNat ||| (if g.late.1 = s.cycle then g.late.2 else 0) }) c) :=
  withGroup_group hg _

theorem wrsr_dsel : exec (.wrsr .dsel a) s = .next (if s.diagOk g then
    State.finish (s.setGroup { g with dsel := s.sreg g a.toNat &&& 0xFF7F }) c else s.trap c 0x04) :=
  withGroup_group hg _

theorem wrsr_ddata : exec (.wrsr .ddata a) s = .next (s.trap c (if s.diagOk g then 0x01 else 0x04)) :=
  withGroup_group hg _

end

theorem rdsr_proof {k : Nat} (hk : s.ProofIssuing c k) : exec (.rdsr gd r d) s = .next (s.proofRdsr c k r d.toNat) := by
  show execRdsr gd r d s = _
  rw [execRdsr, withAgent_issuing (ProofIssuing.issuing hk)]
  simp only [hk.2]

/-- A proof core has %clock and %cluster alone (R285). -/
theorem proofRdsr_other {k n : Nat} (clock : r ≠ .clock) (cluster : r ≠ .cluster) : s.proofRdsr c k r n = s.trap c 0x01 := by
  cases r with
  | clock => exact absurd rfl clock
  | cluster => exact absurd rfl cluster
  | _ => rfl

end Answers

/-! ### The obligation -/

/-- Settles O17: each value is a field of the group, its team or its launch, and each instruction answers by the register's privilege. -/
theorem specialRegistersAreReadAndWritten : Obligations.SpecialRegistersAreReadAndWritten := by
  refine ⟨fun s g t l ht hl => ?values, fun s sel => ?counters, fun s c g hg gd d a => ?group, fun s c k hk gd d => ?proof⟩
  case values =>
    obtain ⟨team, kdata, ngroups⟩ := special_team ht
    exact ⟨special_clock_first, special_clock_other, rfl, team, rfl, rfl, (BitVec.ofNat_toNat ..).symm, kdata, ngroups, rfl, rfl, special_kargs ht hl, rfl, rfl,
      diagOk_iff ht hl⟩
  case counters =>
    rw [ddata_eq s sel]
    refine ⟨fun unlisted => ?_, fun lanes gone => ?_, fun age here => ?_, fun state here => ?_, fun resumes => ?_, fun discards => ?_,
      fun cadence => if_pos cadence⟩
    · rw [if_neg (by omega), if_neg (by omega), if_neg (by omega), if_neg (by omega : ¬ _ = 1), if_neg (by omega : ¬ _ = 2), ite_self]
    · rw [if_neg (by omega), if_neg (by omega), if_neg (by omega), if_pos gone]
    · rw [if_neg (by omega), if_neg (by omega), if_neg (by omega), if_neg (by omega), if_pos age]
    · rw [if_neg (by omega), if_neg (by omega), if_neg (by omega), if_neg (by omega), if_neg (by omega), if_pos state]
    · rw [if_neg (by omega), if_pos resumes]
    · rw [if_neg (by omega), if_neg (by omega), if_pos discards]
  case group =>
    refine ⟨fun r => rdsr_open hg gd d r, rdsr_lane hg gd d, wrsr_fstat hg a, fun granted => ?_, fun closed => ⟨?_, rdsr_closed hg gd d .dsel rfl closed,
      rdsr_closed hg gd d .ddata rfl closed, ?_⟩, fun granted => ?_⟩
    · rw [wrsr_dsel hg, if_pos granted]
    · rw [wrsr_dsel hg, closed]
      rfl
    · rw [wrsr_ddata hg, closed]
      rfl
    · rw [wrsr_ddata hg, if_pos granted]
  case proof =>
    exact ⟨rdsr_proof gd d .clock hk, rdsr_proof gd d .cluster hk,
      fun r clock cluster => (rdsr_proof gd d r hk).trans (congrArg _ (proofRdsr_other r clock cluster))⟩

end Sys2Proof.Machine
end

section
/-! PROOFS. Codes and rounding (02 R39, R40, R42): the grid of a format's magnitudes, the values of codes, and that `roundFin` answers the
code of the neighbour that the mode picks. -/

namespace Sys2Proof.Machine
open Sys2Proof.Claims

/-! ### How a magnitude compares (R42 step 4) -/

theorem cutAt_eq_lt {x q : Rat} : cutAt x q = .lt ↔ q < x := by
  unfold cutAt compareOfLessAndEq
  split_ifs <;> simp_all

theorem cutAt_eq_eq {x q : Rat} : cutAt x q = .eq ↔ q = x := by
  unfold cutAt compareOfLessAndEq
  split_ifs with below same
  · simpa using below.ne
  · simpa using same
  · simpa using same

theorem cutAt_eq_gt {x q : Rat} : cutAt x q = .gt ↔ x < q := by
  unfold cutAt compareOfLessAndEq
  split_ifs with below same
  · simpa using below.le
  · simpa using same.le
  · simpa using lt_of_le_of_ne (not_lt.1 below) (Ne.symm same)

theorem cutAt_mul {u : Rat} (h : 0 < u) (x q : Rat) : cutAt (x * u) (q * u) = cutAt x q := by
  simp only [cutAt, compareOfLessAndEq, mul_lt_mul_iff_left₀ h, mul_eq_mul_right_iff, h.ne', or_false]

theorem cutAt_add (a x q : Rat) : cutAt (a + x) (a + q) = cutAt x q := by
  simp only [cutAt, compareOfLessAndEq, add_lt_add_iff_left, add_right_inj]

/-- The middle between two neighbours against a remainder of what lies between them. -/
theorem cutAt_half {r den : Nat} (h : r < den) : cutAt ((r : Rat) / den) (1 / 2) = compareOfLessAndEq den (2 * r) := by
  have positive : (0 : Rat) < den := by exact_mod_cast (by omega : 0 < den)
  have less : (1 / 2 : Rat) < r / den ↔ den < 2 * r := by
    rw [div_lt_div_iff₀ two_pos positive, one_mul, mul_comm]
    exact_mod_cast Iff.rfl
  have same : (1 / 2 : Rat) = r / den ↔ den = 2 * r := by
    rw [div_eq_div_iff two_ne_zero positive.ne', one_mul, mul_comm]
    exact_mod_cast Iff.rfl
  simp only [cutAt, compareOfLessAndEq, less, same]

/-! ### The grid (R39, R40) -/

section Grid
variable (t : FTy)

/-- Place `lo` of binade `j`, its upper end included, counts in units of the binade's last digit. -/
theorem gridAt_binade {j lo : Nat} (binade : j = 0 ∨ 2 ^ t.mbits ≤ lo) (le : lo ≤ 2 * 2 ^ t.mbits) :
    gridAt t (j * 2 ^ t.mbits + lo) = lo * 2 ^ ((j : Int) + 1 - t.bias - t.mbits) := by
  have positive : 0 < 2 ^ t.mbits := by positivity
  unfold gridAt
  generalize 2 ^ t.mbits = size at *
  by_cases low : j * size + lo < size
  · have first : j = 0 := binade.resolve_right (by omega)
    rw [if_pos low, first]
    simp
  · have upper : size ≤ lo := binade.elim (fun first => by simpa [first] using low) id
    rw [if_neg low]
    rcases le.lt_or_eq with inside | last
    · have digit : j * size + lo = (lo - size) + size * (j + 1) := by
        rw [Nat.mul_add, Nat.mul_comm size]
        omega
      rw [digit, Nat.add_mul_mod_self_left, Nat.add_mul_div_left _ _ positive, Nat.mod_eq_of_lt (by omega), Nat.div_eq_of_lt (by omega),
        Nat.add_sub_cancel' upper, Nat.zero_add]
      push_cast
      rfl
    · have digit : j * size + lo = 0 + size * (j + 2) := by rw [last]; ring
      rw [digit, Nat.add_mul_mod_self_left, Nat.add_mul_div_left _ _ positive, Nat.zero_mod, Nat.zero_div, last]
      push_cast
      rw [show (0 : Int) + (j + 2) - t.bias - t.mbits = (j + 1 - t.bias - t.mbits) + 1 by ring, zpow_add_one₀ two_ne_zero]
      ring

/-- Every place lies in a binade. -/
theorem exists_binade (k : Nat) : ∃ j lo, k = j * 2 ^ t.mbits + lo ∧ (j = 0 ∨ 2 ^ t.mbits ≤ lo) ∧ lo < 2 * 2 ^ t.mbits := by
  have positive : 0 < 2 ^ t.mbits := by positivity
  generalize 2 ^ t.mbits = size at *
  have digits := Nat.div_add_mod k size
  have rest := Nat.mod_lt k positive
  rcases h : k / size with _ | j
  · exact ⟨0, k, by omega, .inl rfl, by rw [h] at digits; omega⟩
  · refine ⟨j, size + k % size, ?_, .inr (by omega), by omega⟩
    rw [h, Nat.mul_succ, Nat.mul_comm] at digits
    omega

theorem gridAt_strictMono : StrictMono (gridAt t) := by
  refine strictMono_nat_of_lt_succ fun k => ?_
  obtain ⟨j, lo, rfl, binade, lt⟩ := exists_binade t k
  rw [Nat.add_assoc, gridAt_binade t binade lt.le, gridAt_binade t (binade.imp id Nat.le_succ_of_le) lt]
  exact mul_lt_mul_of_pos_right (by exact_mod_cast Nat.lt_succ_self lo) (by positivity)

theorem gridAt_zero : gridAt t 0 = 0 := by
  rw [gridAt, if_pos (by positivity), Nat.cast_zero, zero_mul]

theorem gridAt_nonneg (k : Nat) : 0 ≤ gridAt t k := (gridAt_zero t).symm.le.trans ((gridAt_strictMono t).monotone (Nat.zero_le k))

theorem gridAt_pos {k : Nat} (h : k ≠ 0) : 0 < gridAt t k := (gridAt_zero t).symm.le.trans_lt (gridAt_strictMono t (Nat.pos_of_ne_zero h))

/-- The least normal magnitude. -/
theorem gridAt_normal : gridAt t (2 ^ t.mbits) = 2 ^ (1 - t.bias) := by
  have := gridAt_binade t (j := 0) (lo := 2 ^ t.mbits) (.inl rfl) (by omega)
  rw [Nat.zero_mul, Nat.zero_add] at this
  rw [this, Nat.cast_pow, Nat.cast_ofNat, ← zpow_natCast, ← zpow_add₀ two_ne_zero]
  congr 1
  push_cast
  ring

/-- A place is told by the magnitudes on both sides. -/
theorem gridAt_unique {x : Rat} {k l : Nat} (hk : gridAt t k ≤ x) (hk' : x < gridAt t (k + 1)) (hl : gridAt t l ≤ x)
    (hl' : x < gridAt t (l + 1)) : k = l := by
  have := (gridAt_strictMono t).lt_iff_lt.1 (hk.trans_lt hl')
  have := (gridAt_strictMono t).lt_iff_lt.1 (hl.trans_lt hk')
  omega

end Grid

/-! ### A number in units of a place (R42 step 4, R43) -/

/-- The whole part, remainder and divisor of a number in units of 2^q. -/
theorem intParts_spec (m : Nat) (e q : Int) :
    let p := intParts m (e - q)
    (m : Rat) * 2 ^ e = (p.1 + p.2.1 / p.2.2) * 2 ^ q ∧ p.2.1 < p.2.2 := by
  by_cases whole : 0 ≤ e - q
  · obtain ⟨n, hn⟩ := Int.eq_ofNat_of_zero_le whole
    have power : (2 : Rat) ^ e = 2 ^ n * 2 ^ q := by
      rw [← zpow_natCast, ← zpow_add₀ two_ne_zero, show (n : Int) + q = e by omega]
    have parts : intParts m (e - q) = (m * 2 ^ n, 0, 1) := by rw [intParts, if_pos whole, hn, Int.toNat_natCast]
    simp only [parts, power]
    push_cast
    exact ⟨by ring, by decide⟩
  · obtain ⟨n, hn⟩ := Int.eq_ofNat_of_zero_le (show 0 ≤ -(e - q) by omega)
    have power : (2 : Rat) ^ q = 2 ^ n * 2 ^ e := by
      rw [← zpow_natCast, ← zpow_add₀ two_ne_zero, show (n : Int) + e = q by omega]
    have positive : 0 < 2 ^ n := by positivity
    have parts : intParts m (e - q) = (m / 2 ^ n, m % 2 ^ n, 2 ^ n) := by rw [intParts, if_neg whole, hn, Int.toNat_natCast]
    simp only [parts]
    refine ⟨?_, Nat.mod_lt _ positive⟩
    have digits : ((2 ^ n : Nat) : Rat) * (m / 2 ^ n : Nat) + (m % 2 ^ n : Nat) = m := by exact_mod_cast Nat.div_add_mod m (2 ^ n)
    have nonzero : ((2 ^ n : Nat) : Rat) ≠ 0 := by positivity
    rw [power, ← digits, Nat.cast_pow, Nat.cast_ofNat] at *
    field_simp

/-- The remainder's choice between two neighbours is that of the mode. -/
theorem roundUpP_eq_picksUpper {r den : Nat} (h : r < den) (mode : RMode) (neg odd : Bool) :
    (decide (r ≠ 0) && roundUpP mode neg odd r den false) = picksUpper mode neg (decide (r = 0)) odd (cutAt ((r : Rat) / den) (1 / 2)) := by
  rw [cutAt_half h, decide_not]
  refine congrArg (!decide (r = 0) && ·) ?_
  cases mode with
  | rn =>
    simp only [roundUpP, compareOfLessAndEq, Bool.false_or]
    rcases lt_trichotomy den (2 * r) with above | middle | below
    · simp [above]
    · simp [← middle]
    · simp [below.not_gt, below.ne, below.ne']
  | rz | ru | rd => rfl


/-! ### Codes (R39, R40) -/

section Codes
variable (t : FTy)

theorem bits_fields : t.bits - 1 = t.mbits + t.ebits := by cases t <;> rfl

theorem code_lt : t.maxCode < 2 ^ (t.bits - 1) := by cases t <;> decide

/-- The place after the greatest finite one has the highest exponent field where the format has infinity; the others use it for
numbers, but for the last place of .e4m3. -/
theorem maxCode_last : if t.hasInf then t.maxCode + 1 = (2 ^ t.ebits - 1) * 2 ^ t.mbits
    else t.maxCode + (if t = .e4m3 then 2 else 1) = 2 ^ (t.bits - 1) := by
  cases t <;> decide

/-- The value of a code by the place of its magnitude. -/
theorem decF_eq (x : Nat) :
    let k := x % 2 ^ (t.bits - 1)
    let neg := x / 2 ^ (t.bits - 1) % 2 == 1
    decF t x = if t.hasInf && k / 2 ^ t.mbits == 2 ^ t.ebits - 1 then (if k % 2 ^ t.mbits = 0 then .inf neg else .nan)
      else if t == .e4m3 && k == 0x7F then .nan
      else if k / 2 ^ t.mbits = 0 then .mk neg (k % 2 ^ t.mbits) (1 - t.bias - t.mbits)
      else .mk neg (2 ^ t.mbits + k % 2 ^ t.mbits) ((k / 2 ^ t.mbits : Nat) - t.bias - t.mbits) := by
  have low : x % 2 ^ (t.bits - 1) % 2 ^ t.mbits = x % 2 ^ t.mbits :=
    Nat.mod_mod_of_dvd _ (Nat.pow_dvd_pow 2 (by rw [bits_fields]; omega))
  have high : x % 2 ^ (t.bits - 1) / 2 ^ t.mbits = x / 2 ^ t.mbits % 2 ^ t.ebits := by
    rw [bits_fields, Nat.pow_add, Nat.mod_mul_right_div_self]
  simp only [low, high]
  rfl

section
variable {t} {x : Nat}

theorem decF_inf (inf : t.hasInf = true) (h : x % 2 ^ (t.bits - 1) = t.maxCode + 1) :
    decF t x = .inf (x / 2 ^ (t.bits - 1) % 2 == 1) := by
  have last := maxCode_last t
  rw [if_pos inf] at last
  rw [decF_eq, h, last, Nat.mul_div_cancel _ (by positivity), Nat.mul_mod_left, inf, beq_self_eq_true]
  rfl

theorem decF_nan (above : t.maxCode < x % 2 ^ (t.bits - 1)) (h : t.hasInf = false ∨ x % 2 ^ (t.bits - 1) ≠ t.maxCode + 1) : decF t x = .nan := by
  have last := maxCode_last t
  have lt : x % 2 ^ (t.bits - 1) < 2 ^ (t.bits - 1) := Nat.mod_lt _ (by positivity)
  rw [decF_eq]
  generalize x % 2 ^ (t.bits - 1) = k at *
  cases inf : t.hasInf with
  | true =>
    rw [inf, if_pos rfl] at last
    rw [bits_fields, Nat.pow_add] at lt
    have positive : 0 < 2 ^ t.mbits := by positivity
    have digits := Nat.div_add_mod k (2 ^ t.mbits)
    have top : k / 2 ^ t.mbits = 2 ^ t.ebits - 1 := by
      have := Nat.div_lt_of_lt_mul lt
      have := (Nat.le_div_iff_mul_le positive).2 (last ▸ above : (2 ^ t.ebits - 1) * 2 ^ t.mbits ≤ k)
      omega
    have rest : k % 2 ^ t.mbits ≠ 0 := fun none => h.elim (by simp [inf]) fun other => other <| by
      rw [last, ← digits, none, top, Nat.add_zero, Nat.mul_comm]
    simp only [top, rest, beq_self_eq_true, Bool.and_true, if_true, if_false]
  | false =>
    simp only [inf, Bool.false_eq_true, if_false] at last
    have e4m3 : t = .e4m3 := by
      by_contra other
      rw [if_neg other] at last
      omega
    subst e4m3
    have : k = 0x7F := by simp only [FTy.maxCode, FTy.bits] at above lt; omega
    rw [this]
    rfl

theorem decF_finite (h : x % 2 ^ (t.bits - 1) ≤ t.maxCode) : ∃ (m : Nat) (e : Int),
    decF t x = .mk (x / 2 ^ (t.bits - 1) % 2 == 1) m e ∧ (m : Rat) * 2 ^ e = gridAt t (x % 2 ^ (t.bits - 1)) := by
  have last := maxCode_last t
  rw [decF_eq]
  generalize x % 2 ^ (t.bits - 1) = k at *
  have positive : 0 < 2 ^ t.mbits := by positivity
  have noInf : (t.hasInf && k / 2 ^ t.mbits == 2 ^ t.ebits - 1) = false := by
    cases inf : t.hasInf with
    | false => rfl
    | true =>
      rw [inf, if_pos rfl] at last
      have := Nat.div_lt_of_lt_mul (by rw [Nat.mul_comm]; omega : k < 2 ^ t.mbits * (2 ^ t.ebits - 1))
      simpa using this.ne
  have noNan : (t == .e4m3 && k == 0x7F) = false := by
    by_contra nan
    simp only [Bool.not_eq_false, Bool.and_eq_true, beq_iff_eq] at nan
    obtain ⟨rfl, rfl⟩ := nan
    exact absurd h (by decide)
  simp only [noInf, noNan, Bool.false_eq_true, if_false]
  split
  · next least => exact ⟨_, _, rfl, by rw [gridAt, if_pos (Nat.lt_of_div_eq_zero positive least), Nat.mod_eq_of_lt (Nat.lt_of_div_eq_zero positive least)]⟩
  · next above => exact ⟨_, _, rfl, by rw [gridAt, if_neg fun low => above (Nat.div_eq_of_lt low)]⟩

end

end Codes

/-! ### Rounding (R42) -/

section Rounding
variable (t : FTy) (m : Nat) (e : Int)

/-- The unit in which a number is rounded: the last digit of its binade, or of the least one. -/
def roundUnit : Int := (if (m.log2 : Int) + e < 1 - t.bias then 1 - t.bias else m.log2 + e) - t.mbits

/-- The binade of a number. -/
def roundBinade : Nat := (roundUnit t m e + t.bias + t.mbits - 1).toNat

theorem roundBinade_unit : (roundBinade t m e : Int) + 1 - t.bias - t.mbits = roundUnit t m e := by
  have : 0 ≤ roundUnit t m e + t.bias + t.mbits - 1 := by
    unfold roundUnit
    split <;> omega
  rw [roundBinade, Int.toNat_of_nonneg this]
  ring

variable {m} (hm : m ≠ 0)
include hm

theorem log2_bounds : (2 : Rat) ^ ((m.log2 : Int) + e) ≤ m * 2 ^ e ∧ (m : Rat) * 2 ^ e < 2 ^ ((m.log2 : Int) + e + 1) := by
  have positive : (0 : Rat) < 2 ^ e := by positivity
  rw [add_right_comm, zpow_add₀ two_ne_zero, zpow_add₀ two_ne_zero _ e, mul_le_mul_iff_left₀ positive, mul_lt_mul_iff_left₀ positive]
  exact ⟨by exact_mod_cast Nat.log2_self_le hm, by exact_mod_cast Nat.lt_log2_self⟩

theorem tiny_iff : (m.log2 : Int) + e < 1 - t.bias ↔ (m : Rat) * 2 ^ e < gridAt t (2 ^ t.mbits) := by
  obtain ⟨low, high⟩ := log2_bounds e hm
  rw [gridAt_normal]
  constructor
  · intro tiny
    exact high.trans_le (zpow_le_zpow_right₀ one_le_two (by omega))
  · intro below
    exact (zpow_lt_zpow_iff_right₀ one_lt_two).1 (low.trans_lt below)

/-- The whole part of a number in its unit is a place of its binade. -/
theorem roundUnit_place : let lo := (intParts m (e - roundUnit t m e)).1
    (roundBinade t m e = 0 ∨ 2 ^ t.mbits ≤ lo) ∧ lo < 2 * 2 ^ t.mbits := by
  obtain ⟨parts, rest⟩ := intParts_spec m e (roundUnit t m e)
  obtain ⟨low, high⟩ := log2_bounds e hm
  have unit : (0 : Rat) < 2 ^ roundUnit t m e := by positivity
  generalize intParts m (e - roundUnit t m e) = p at *
  have divisor : (0 : Rat) < p.2.2 := by exact_mod_cast (by omega : 0 < p.2.2)
  have below : (p.2.1 : Rat) / p.2.2 < 1 := (div_lt_one divisor).2 (by exact_mod_cast rest)
  have above : (0 : Rat) ≤ (p.2.1 : Rat) / p.2.2 := by positivity
  rw [parts] at low high
  by_cases tiny : (m.log2 : Int) + e < 1 - t.bias
  · have h : roundUnit t m e = 1 - t.bias - t.mbits := by rw [roundUnit, if_pos tiny]
    refine ⟨.inl (by rw [roundBinade, h]; omega), ?_⟩
    have : ((p.1 : Rat) + p.2.1 / p.2.2) * 2 ^ roundUnit t m e < 2 ^ (t.mbits : Int) * 2 ^ roundUnit t m e := by
      rw [← zpow_add₀ two_ne_zero]
      exact high.trans_le (zpow_le_zpow_right₀ one_le_two (by rw [h]; omega))
    have := (mul_lt_mul_iff_left₀ unit).1 this
    have : (p.1 : Rat) < 2 ^ t.mbits := by
      rw [zpow_natCast] at this
      linarith
    have : p.1 < 2 ^ t.mbits := by exact_mod_cast this
    omega
  · have h : (m.log2 : Int) + e = t.mbits + roundUnit t m e := by
      rw [roundUnit, if_neg tiny]
      ring
    rw [h, add_right_comm, zpow_add₀ two_ne_zero] at high
    rw [h, zpow_add₀ two_ne_zero] at low
    have low := (mul_le_mul_iff_left₀ unit).1 low
    have high := (mul_lt_mul_iff_left₀ unit).1 high
    rw [zpow_natCast] at low
    rw [zpow_add_one₀ two_ne_zero, zpow_natCast] at high
    have low : ((2 ^ t.mbits : Nat) : Rat) < (p.1 + 1 : Nat) := by push_cast; linarith
    have high : (p.1 : Rat) < (2 * 2 ^ t.mbits : Nat) := by push_cast; linarith
    have := Nat.cast_lt.1 low
    exact ⟨.inr (by omega), Nat.cast_lt.1 high⟩

omit hm in
/-- `roundFin` in the parts of the number. -/
theorem roundFin_eq (mode : RMode) (sat neg : Bool) :
    let p := intParts m (e - roundUnit t m e)
    let inexact := decide (p.2.1 ≠ 0)
    let place := roundBinade t m e * 2 ^ t.mbits + (if inexact && roundUpP mode neg (p.1 % 2 == 1) p.2.1 p.2.2 false then p.1 + 1 else p.1)
    roundFin t mode sat neg m e false = if t.maxCode < place then (overflowF t mode sat neg, fOF ||| fNX)
      else (signed t neg place, if inexact then (if (m.log2 : Int) + e < 1 - t.bias then fUF ||| fNX else fNX) else fNone) := by
  have unit : (if decide ((m.log2 : Int) + e < 1 - t.bias) = true then 1 - t.bias else (m.log2 : Int) + e) - t.mbits = roundUnit t m e := by
    simp only [decide_eq_true_eq, roundUnit]
  simp only [roundFin, unit, Bool.false_or]
  rw [← roundBinade]
  by_cases whole : roundUnit t m e ≤ e
  · have parts : intParts m (e - roundUnit t m e) = (m * 2 ^ (e - roundUnit t m e).toNat, 0, 1) := by rw [intParts, if_pos (by omega)]
    simp [whole, parts]
  · have parts : intParts m (e - roundUnit t m e) =
        (m / 2 ^ (roundUnit t m e - e).toNat, m % 2 ^ (roundUnit t m e - e).toNat, 2 ^ (roundUnit t m e - e).toNat) := by
      rw [intParts, if_neg (by omega), show -(e - roundUnit t m e) = roundUnit t m e - e by ring]
    simp only [whole, parts, if_false, decide_eq_true_eq]

/-- Rounding a non-zero number gives the code that R42 picks. -/
theorem roundFin_spec (mode : RMode) (sat neg : Bool) :
    RoundsTo t mode sat neg (cutAt ((m : Rat) * 2 ^ e)) (roundFin t mode sat neg m e false) := by
  intro k below above exact_ n stays
  obtain ⟨parts, rest⟩ := intParts_spec m e (roundUnit t m e)
  obtain ⟨binade, inside⟩ := roundUnit_place t e hm
  have tiny := tiny_iff t e hm
  have odd : (roundBinade t m e * 2 ^ t.mbits + (intParts m (e - roundUnit t m e)).1) % 2 = (intParts m (e - roundUnit t m e)).1 % 2 := by
    have : 2 ∣ roundBinade t m e * 2 ^ t.mbits := (dvd_pow_self 2 (by cases t <;> decide)).mul_left _
    omega
  have here := gridAt_binade t binade inside.le
  have after := gridAt_binade t (binade.imp id Nat.le_succ_of_le) inside
  rw [roundBinade_unit] at here after
  rw [roundFin_eq, roundUpP_eq_picksUpper rest]
  have unit : (0 : Rat) < 2 ^ roundUnit t m e := by positivity
  generalize intParts m (e - roundUnit t m e) = p at *
  generalize roundUnit t m e = q at *
  have divisor : (0 : Rat) < p.2.2 := by exact_mod_cast (by omega : 0 < p.2.2)
  have fraction : (p.2.1 : Rat) / p.2.2 < 1 := (div_lt_one divisor).2 (by exact_mod_cast rest)
  have : k = roundBinade t m e * 2 ^ t.mbits + p.1 := by
    refine gridAt_unique t (x := (m : Rat) * 2 ^ e) ?_ (cutAt_eq_gt.1 above) ?_ ?_
    · exact not_lt.1 fun h => below (cutAt_eq_gt.2 h)
    · rw [here, parts]
      exact mul_le_mul_of_nonneg_right (le_add_of_nonneg_right (by positivity)) unit.le
    · rw [Nat.add_assoc, after, parts]
      push_cast
      exact mul_lt_mul_of_pos_right (by linarith) unit
  subst this
  have exact_eq : exact_ = decide (p.2.1 = 0) := by
    have : cutAt ((m : Rat) * 2 ^ e) (gridAt t (roundBinade t m e * 2 ^ t.mbits + p.1)) = .eq ↔ p.2.1 = 0 := by
      rw [cutAt_eq_eq, here, parts, mul_left_inj' unit.ne', left_eq_add, div_eq_zero_iff, or_iff_left divisor.ne', Nat.cast_eq_zero]
    simp only [exact_, beq_eq_decide, this]
  have middle : cutAt ((m : Rat) * 2 ^ e) ((gridAt t (roundBinade t m e * 2 ^ t.mbits + p.1)
      + gridAt t (roundBinade t m e * 2 ^ t.mbits + p.1 + 1)) / 2) = cutAt ((p.2.1 : Rat) / p.2.2) (1 / 2) := by
    have half : ((p.1 : Rat) * 2 ^ q + (p.1.succ : Nat) * 2 ^ q) / 2 = (p.1 + 1 / 2) * 2 ^ q := by
      push_cast
      ring
    rw [Nat.add_assoc, here, after, half, parts, cutAt_mul unit, cutAt_add]
  have picked : n = roundBinade t m e * 2 ^ t.mbits
      + if picksUpper mode neg (decide (p.2.1 = 0)) (p.1 % 2 == 1) (cutAt ((p.2.1 : Rat) / p.2.2) (1 / 2)) = true then p.1 + 1 else p.1 := by
    simp only [n, middle, exact_eq, odd]
    split <;> rfl
  rw [← picked]
  by_cases overflows : t.maxCode < n
  · rw [if_pos overflows, if_neg (not_le.2 overflows)]
    simp only [overflowF, stays]
    split <;> rfl
  · rw [if_neg overflows, if_pos (not_lt.1 overflows), exact_eq]
    simp only [cutAt_eq_gt, ← tiny]
    congr 1
    by_cases whole : p.2.1 = 0 <;> simp [whole]

end Rounding

end Sys2Proof.Machine
end

section
/-! PROOFS. Float selection and conversion (02 R40 to R45, 06 R157, R158, R160, R161): exact sums and products, the order of codes, the whole
number that a mode picks, and the instructions on them. -/

namespace Sys2Proof.Machine
open Sys2Proof.Claims

/-! ### Exact sums (R44) -/

/-- The number that a value stands for, 0 where it stands for none. -/
def XVal.number : XVal → Rat
  | .fin neg m e _ => (if neg then -1 else 1) * ((m : Rat) * 2 ^ e)
  | _ => 0

theorem number_mk (neg : Bool) (m : Nat) (e : Int) : (XVal.mk neg m e).number = (if neg then -1 else 1) * ((m : Rat) * 2 ^ e) := by
  by_cases zero : m = 0
  · rw [XVal.mk, if_pos zero, zero, Nat.cast_zero, zero_mul, mul_zero]
    rfl
  · rw [XVal.mk, if_neg zero]
    rfl

theorem number_negate (x : XVal) : x.negate.number = -x.number := by
  cases x with
  | fin neg m e k => cases neg <;> simp [XVal.negate, XVal.number]
  | nan | inf | zero => exact neg_zero.symm

theorem lowExp_le (xs : List XVal) (d : Int) : lowExp xs d ≤ d ∧ ∀ neg m e k, .fin neg m e k ∈ xs → lowExp xs d ≤ e := by
  induction xs generalizing d with
  | nil => exact ⟨le_rfl, fun _ _ _ _ h => absurd h List.not_mem_nil⟩
  | cons x xs ih =>
    cases x with
    | fin neg m e k =>
      obtain ⟨start, rest⟩ := ih (if e < d then e else d)
      refine ⟨?_, fun neg' m' e' k' h => ?_⟩
      · exact start.trans (by split <;> omega)
      · rcases List.mem_cons.1 h with first | later
        · cases first
          exact start.trans (by split <;> omega)
        · exact rest _ _ _ _ later
    | nan | inf | zero =>
      obtain ⟨start, rest⟩ := ih d
      exact ⟨start, fun neg' m' e' k' h => rest _ _ _ _ ((List.mem_cons.1 h).resolve_left XVal.noConfusion)⟩

theorem scaled_neg {y : Int} {unit : Rat} (h : 0 < unit) : (y : Rat) * unit < 0 ↔ y < 0 := by
  rw [← zero_mul unit, mul_lt_mul_iff_left₀ h, Int.cast_lt_zero]

/-- The sum in units of an exponent no greater than the terms'. -/
theorem sumAt_number {e : Int} {xs : List XVal} (h : ∀ neg m g k, .fin neg m g k ∈ xs → e ≤ g) :
    (sumAt e xs : Rat) * 2 ^ e = (xs.map XVal.number).sum := by
  induction xs with
  | nil => simp [sumAt]
  | cons x xs ih =>
    have rest := ih fun neg m g k later => h neg m g k (List.mem_cons_of_mem _ later)
    cases x with
    | fin neg m g k =>
      obtain ⟨n, hn⟩ := Int.eq_ofNat_of_zero_le (Int.sub_nonneg.2 (h neg m g k List.mem_cons_self))
      have power : (2 : Rat) ^ g = 2 ^ n * 2 ^ e := by
        rw [← zpow_natCast, ← zpow_add₀ two_ne_zero, show (n : Int) + e = g by omega]
      simp only [sumAt, hn, Int.toNat_natCast, List.map_cons, List.sum_cons, XVal.number, ← rest, power]
      push_cast
      split <;> ring
    | nan | inf | zero => simp only [sumAt, List.map_cons, List.sum_cons, XVal.number, zero_add, rest]

section Sum
variable {mode : RMode} {xs : List XVal}

theorem any_eq_mem (x : XVal) : xs.any (· == x) = decide (x ∈ xs) := by
  rw [Bool.eq_iff_iff, List.any_eq_true, decide_eq_true_eq]
  simp

theorem sumX_nan (nan : .nan ∈ xs) : sumX mode xs = (.nan, fNone) := by
  simp [sumX, any_eq_mem, nan]

theorem sumX_invalid (noNan : .nan ∉ xs) (pos : .inf false ∈ xs) (neg : .inf true ∈ xs) : sumX mode xs = (.nan, fNV) := by
  simp [sumX, any_eq_mem, noNan, pos, neg]

theorem sumX_inf {b : Bool} (noNan : .nan ∉ xs) (inf : .inf b ∈ xs) (only : .inf (!b) ∉ xs) : sumX mode xs = (.inf b, fNone) := by
  cases b with
  | false => simp [sumX, any_eq_mem, noNan, inf, (show .inf true ∉ xs from only)]
  | true => simp [sumX, any_eq_mem, noNan, inf, (show .inf false ∉ xs from only)]

theorem sumX_finite (noNan : .nan ∉ xs) (noInf : ∀ b, .inf b ∉ xs) : sumX mode xs =
    if sumAt (lowExp xs 0) xs = 0 then (.zero (xs.all (· == .zero true) || mode == .rd), fNone)
    else (.fin (decide (sumAt (lowExp xs 0) xs < 0)) (sumAt (lowExp xs 0) xs).natAbs (lowExp xs 0) false, fNone) := by
  simp [sumX, any_eq_mem, noNan, noInf]

/-- The exact sum of numbers. -/
theorem sumX_number (noNan : .nan ∉ xs) (noInf : ∀ b, .inf b ∉ xs) : let v := (xs.map XVal.number).sum
    (v ≠ 0 → ∃ (m : Nat) (e : Int), m ≠ 0 ∧ sumX mode xs = (.fin (decide (v < 0)) m e false, fNone)
      ∧ (if v < 0 then -1 else 1) * ((m : Rat) * 2 ^ e) = v)
    ∧ (v = 0 → sumX mode xs = (.zero (xs.all (· == .zero true) || mode == .rd), fNone)) := by
  have sum := sumAt_number (lowExp_le xs 0).2
  rw [sumX_finite noNan noInf, ← sum]
  generalize sumAt (lowExp xs 0) xs = y
  generalize lowExp xs 0 = e
  have unit : (0 : Rat) < 2 ^ e := by positivity
  have zero : (y : Rat) * 2 ^ e = 0 ↔ y = 0 := by rw [mul_eq_zero, or_iff_left unit.ne', Int.cast_eq_zero]
  have negative : (y : Rat) * 2 ^ e < 0 ↔ y < 0 := scaled_neg unit
  dsimp only
  simp only [ne_eq, zero, negative]
  refine ⟨fun nonzero => ⟨y.natAbs, e, Int.natAbs_ne_zero.2 nonzero, by rw [if_neg nonzero], ?_⟩, fun none => by rw [if_pos none]⟩
  rw [Nat.cast_natAbs, ← mul_assoc]
  congr 1
  split
  · next below => rw [abs_of_neg below]; push_cast; ring
  · next above => rw [abs_of_nonneg (not_lt.1 above), one_mul]

end Sum

/-! ### Exact products (R44) -/

theorem mulX_comm (a b : XVal) : mulX a b = mulX b a := by
  cases a <;> cases b <;> simp [mulX, bne_comm, Nat.mul_comm, Int.add_comm, Bool.or_comm]

section Product
variable (x y : Bool) (m n : Nat) (e f : Int)

theorem mulX_zero_mk : mulX (.zero x) (.mk y m e) = (.zero (x != y), fNone) := by
  unfold XVal.mk
  split <;> rfl

theorem mulX_finite : mulX (.fin x m e false) (.fin y n f false) = (.fin (x != y) (m * n) (e + f) false, fNone)
    ∧ ((m * n : Nat) : Rat) * 2 ^ (e + f) = (m : Rat) * 2 ^ e * ((n : Rat) * 2 ^ f) := by
  refine ⟨rfl, ?_⟩
  rw [zpow_add₀ two_ne_zero]
  push_cast
  ring

end Product

/-! ### The order of codes (R45) -/

theorem ltX_number {a b : XVal} (ha : a ≠ .nan) (hb : b ≠ .nan) (ha' : ∀ s, a ≠ .inf s) (hb' : ∀ s, b ≠ .inf s) :
    ltX a b = decide (a.number < b.number) := by
  have order : decide (sumAt (lowExp [a, b] 0) [a, b.negate] < 0) = decide (a.number < b.number) := by
    have low := (lowExp_le [a, b] 0).2
    have exponents : ∀ neg m g k, .fin neg m g k ∈ [a, b.negate] → lowExp [a, b] 0 ≤ g := by
      intro neg m g k h
      simp only [List.mem_cons, List.not_mem_nil, or_false] at h
      rcases h with first | second
      · exact low neg m g k (by simp [first])
      · refine low (!neg) m g k ?_
        cases b with
        | fin => simp only [XVal.negate, XVal.fin.injEq] at second; simp [second]
        | nan | inf | zero => cases second
    have sum := sumAt_number exponents
    simp only [List.map_cons, List.map_nil, List.sum_cons, List.sum_nil, add_zero, number_negate] at sum
    have unit : (0 : Rat) < 2 ^ lowExp [a, b] 0 := by positivity
    rw [decide_eq_decide, ← sub_neg (a := a.number), sub_eq_add_neg, ← sum, scaled_neg unit]
  cases a with
  | nan => exact absurd rfl ha
  | inf s => exact absurd rfl (ha' s)
  | zero | fin =>
    cases b with
    | nan => exact absurd rfl hb
    | inf s => exact absurd rfl (hb' s)
    | zero | fin => exact order

section Order
variable (t : FTy)

/-- The place of a code in the order of values, both zeros at 0. -/
def codeNumber (x : Nat) : Int := if x < 2 ^ (t.bits - 1) then x else (2 ^ (t.bits - 1) : Nat) - x

/-- The place of a code where −0.0 lies below +0.0. -/
def codePlace (x : Nat) : Int := if x < 2 ^ (t.bits - 1) then x else (2 ^ (t.bits - 1) : Nat) - 1 - x

/-- The value at a place of the grid on both sides of 0. -/
def gridBoth (n : Int) : Rat := if n < 0 then -gridAt t n.natAbs else gridAt t n.natAbs

theorem gridBoth_strictMono : StrictMono (gridBoth t) := by
  intro x y h
  have mono := gridAt_strictMono t
  unfold gridBoth
  split
  · split
    · exact neg_lt_neg (mono (by omega))
    · exact (neg_lt_zero.2 (gridAt_pos t (by omega))).trans_le (gridAt_nonneg t _)
  · rw [if_neg (by omega)]
    exact mono (by omega)

variable {t} {x : Nat} (hx : x < 2 ^ t.bits)
include hx

/-- A code is a sign and a place. -/
theorem code_split : x / 2 ^ (t.bits - 1) % 2 = x / 2 ^ (t.bits - 1)
    ∧ x = (if x / 2 ^ (t.bits - 1) % 2 == 1 then 2 ^ (t.bits - 1) else 0) + x % 2 ^ (t.bits - 1)
    ∧ (x < 2 ^ (t.bits - 1) ↔ (x / 2 ^ (t.bits - 1) % 2 == 1) = false) := by
  have double : 2 ^ t.bits = 2 * 2 ^ (t.bits - 1) := by cases t <;> rfl
  have digits := Nat.div_add_mod x (2 ^ (t.bits - 1))
  have rest := Nat.mod_lt x (show 0 < 2 ^ (t.bits - 1) by positivity)
  have top : x / 2 ^ (t.bits - 1) < 2 := Nat.div_lt_of_lt_mul (by omega)
  generalize 2 ^ (t.bits - 1) = half at *
  generalize x / half = d at *
  obtain rfl | rfl : d = 0 ∨ d = 1 := by omega
  · exact ⟨rfl, by simpa using digits.symm, by simpa using by omega⟩
  · exact ⟨rfl, by simpa using digits.symm, by simpa using by omega⟩

theorem codeNumber_split : codeNumber t x = if x / 2 ^ (t.bits - 1) % 2 == 1 then -((x % 2 ^ (t.bits - 1) : Nat) : Int)
    else (x % 2 ^ (t.bits - 1) : Nat) := by
  obtain ⟨-, parts, sign⟩ := code_split hx
  have := Nat.mod_lt x (show 0 < 2 ^ (t.bits - 1) by positivity)
  unfold codeNumber
  generalize x % 2 ^ (t.bits - 1) = k at *
  cases neg : x / 2 ^ (t.bits - 1) % 2 == 1 with
  | false =>
    rw [neg] at parts sign
    simp only [Bool.false_eq_true, if_false, sign.2 rfl, if_true] at parts ⊢
    omega
  | true =>
    rw [neg] at parts sign
    simp only [Bool.true_eq_false, iff_false] at sign
    simp only [if_true, sign, if_false] at parts ⊢
    omega

omit hx in
/-- What a code that is no NaN stands for. -/
theorem decF_cases (h : decF t x ≠ .nan) :
    (decF t x = .inf (x / 2 ^ (t.bits - 1) % 2 == 1) ∧ t.hasInf = true ∧ x % 2 ^ (t.bits - 1) = t.maxCode + 1)
    ∨ (x % 2 ^ (t.bits - 1) ≤ t.maxCode ∧ ∃ (m : Nat) (e : Int), decF t x = .mk (x / 2 ^ (t.bits - 1) % 2 == 1) m e
      ∧ (m : Rat) * 2 ^ e = gridAt t (x % 2 ^ (t.bits - 1))) := by
  by_cases finite : x % 2 ^ (t.bits - 1) ≤ t.maxCode
  · exact .inr ⟨finite, decF_finite finite⟩
  · by_cases inf : t.hasInf = true ∧ x % 2 ^ (t.bits - 1) = t.maxCode + 1
    · exact .inl ⟨decF_inf inf.1 inf.2, inf⟩
    · refine absurd (decF_nan (not_le.1 finite) ?_) h
      rw [not_and_or, Bool.not_eq_true] at inf
      exact inf

theorem number_decF {m : Nat} {e : Int} (h : decF t x = .mk (x / 2 ^ (t.bits - 1) % 2 == 1) m e)
    (place : (m : Rat) * 2 ^ e = gridAt t (x % 2 ^ (t.bits - 1))) : (decF t x).number = gridBoth t (codeNumber t x) := by
  rw [h, number_mk, place, codeNumber_split hx, gridBoth]
  generalize x % 2 ^ (t.bits - 1) = k
  cases x / 2 ^ (t.bits - 1) % 2 == 1 with
  | false => simp
  | true =>
    by_cases zero : k = 0
    · simp [zero, gridAt_zero]
    · simp [Nat.pos_of_ne_zero zero]

omit hx in
theorem mk_ne (neg : Bool) (m : Nat) (e : Int) : XVal.mk neg m e ≠ .nan ∧ ∀ s, XVal.mk neg m e ≠ .inf s := by
  unfold XVal.mk
  split <;> exact ⟨XVal.noConfusion, fun _ => XVal.noConfusion⟩

omit hx in
theorem ltX_inf_left {s : Bool} {b : XVal} (hb : b ≠ .nan) (hb' : ∀ s, b ≠ .inf s) : ltX (.inf s) b = s := by
  cases b with
  | nan => exact absurd rfl hb
  | inf s => exact absurd rfl (hb' s)
  | zero | fin => rfl

omit hx in
theorem ltX_inf_right {s : Bool} {a : XVal} (ha : a ≠ .nan) (ha' : ∀ s, a ≠ .inf s) : ltX a (.inf s) = !s := by
  cases a with
  | nan => exact absurd rfl ha
  | inf s => exact absurd rfl (ha' s)
  | zero | fin => rfl

/-- The order of codes is that of their places. -/
theorem ltX_codes {y : Nat} (hy : y < 2 ^ t.bits) (nx : decF t x ≠ .nan) (ny : decF t y ≠ .nan) :
    ltX (decF t x) (decF t y) = decide (codeNumber t x < codeNumber t y) := by
  rcases decF_cases nx with ⟨dx, -, kx⟩ | ⟨kx, m, e, dx, px⟩ <;> rcases decF_cases ny with ⟨dy, -, ky⟩ | ⟨ky, n, f, dy, py⟩
  case inl.inl =>
    rw [dx, dy, codeNumber_split hx, codeNumber_split hy, kx, ky]
    cases x / 2 ^ (t.bits - 1) % 2 == 1 <;> cases y / 2 ^ (t.bits - 1) % 2 == 1 <;> simp [ltX] <;> omega
  case inl.inr =>
    rw [dx, ltX_inf_left ny fun s => dy ▸ (mk_ne _ n f).2 s, codeNumber_split hx, codeNumber_split hy, kx]
    generalize y % 2 ^ (t.bits - 1) = k at *
    cases x / 2 ^ (t.bits - 1) % 2 == 1 <;> cases y / 2 ^ (t.bits - 1) % 2 == 1 <;> simp <;> omega
  case inr.inl =>
    rw [dy, ltX_inf_right nx fun s => dx ▸ (mk_ne _ m e).2 s, codeNumber_split hx, codeNumber_split hy, ky]
    generalize x % 2 ^ (t.bits - 1) = k at *
    cases x / 2 ^ (t.bits - 1) % 2 == 1 <;> cases y / 2 ^ (t.bits - 1) % 2 == 1 <;> simp <;> omega
  case inr.inr =>
    rw [ltX_number nx ny (fun s => dx ▸ (mk_ne _ m e).2 s) fun s => dy ▸ (mk_ne _ n f).2 s, number_decF hx dx px, number_decF hy dy py,
      decide_eq_decide, (gridBoth_strictMono t).lt_iff_lt]

end Order


/-! ### Minimum, maximum, sign and comparison (R45, R157, R158) -/

section Selection
variable {t : FTy} {a b : Nat}

theorem fminmax_nan (ha : decF t a = .nan) (hb : decF t b = .nan) {n : Nat} (hn : t.nanCode = some n) (isMax : Bool) : fminmax t isMax a b = n := by
  simp only [fminmax, ha, hb, hn, Option.getD_some]

theorem fminmax_nan_left (ha : decF t a = .nan) (hb : decF t b ≠ .nan) (isMax : Bool) : fminmax t isMax a b = b := by
  simp only [fminmax, ha]

theorem fminmax_nan_right (ha : decF t a = .nan) (hb : decF t b ≠ .nan) (isMax : Bool) : fminmax t isMax b a = b := by
  simp only [fminmax, ha]

theorem fminmax_numbers (na : decF t a ≠ .nan) (nb : decF t b ≠ .nan) (isMax : Bool) :
    fminmax t isMax a b = if pickLeft isMax (decF t a) (decF t b) then a else b := by
  unfold fminmax
  split <;> simp_all

theorem fcmp_nan (h : decF t a = .nan ∨ decF t b = .nan) (cd : FCond) : fcmp t cd a b = (cd == .ne || cd == .un) := by
  have unordered : (decF t a == .nan || decF t b == .nan) = true := by simpa using h
  simp only [fcmp, unordered]
  cases cd <;> rfl

theorem fsignOp_nan (h : decF t a = .nan) {n : Nat} (hn : t.nanCode = some n) (neg : Bool) : fsignOp t neg a = n := by
  simp only [fsignOp, h, hn, Option.getD_some]

theorem fsignOp_number (h : decF t a ≠ .nan) (neg : Bool) :
    fsignOp t neg a = signed t (neg && !(a / 2 ^ (t.bits - 1) % 2 == 1)) (a % 2 ^ (t.bits - 1)) := by
  unfold fsignOp
  split
  · next nan => exact absurd nan h
  · rfl

theorem signed_of_signed_zero (h : t ≠ .e2m1) (neg : Bool) (k : Nat) : signed t neg k = if neg then 2 ^ (t.bits - 1) + k else k := by
  simp [signed, h]

variable (ha : a < 2 ^ t.bits)
include ha

theorem signed_code {neg : Bool} {k : Nat} (h : t ≠ .e2m1) (sign : (a / 2 ^ (t.bits - 1) % 2 == 1) = neg) (place : a % 2 ^ (t.bits - 1) = k) :
    signed t neg k = a := by
  obtain ⟨-, parts, -⟩ := code_split ha
  rw [signed_of_signed_zero h, ← sign, ← place]
  refine Eq.trans ?_ parts.symm
  split <;> simp

omit ha in
theorem fsignOp_abs (na : decF t a ≠ .nan) : fsignOp t false a = a % 2 ^ (t.bits - 1) := by
  rw [fsignOp_number na]
  rfl

theorem fsignOp_neg (na : decF t a ≠ .nan) (h : t ≠ .e2m1) :
    fsignOp t true a = (a + 2 ^ (t.bits - 1)) % (2 * 2 ^ (t.bits - 1)) := by
  obtain ⟨-, parts, -⟩ := code_split ha
  have lt := Nat.mod_lt a (show 0 < 2 ^ (t.bits - 1) by positivity)
  rw [fsignOp_number na, signed_of_signed_zero h]
  generalize a % 2 ^ (t.bits - 1) = k at *
  cases neg : a / 2 ^ (t.bits - 1) % 2 == 1 with
  | false =>
    rw [neg] at parts
    simp only [Bool.false_eq_true, if_false, Nat.zero_add] at parts
    simp only [Bool.not_false, Bool.and_self, if_true]
    rw [parts, Nat.mod_eq_of_lt (by omega), Nat.add_comm]
  | true =>
    rw [neg] at parts
    simp only [if_true] at parts
    simp only [Bool.not_true, Bool.and_false, Bool.false_eq_true, if_false]
    rw [parts, show 2 ^ (t.bits - 1) + k + 2 ^ (t.bits - 1) = k + 2 * 2 ^ (t.bits - 1) by ring, Nat.add_mod_right, Nat.mod_eq_of_lt (by omega)]

omit ha in
/-- A zero is the place 0 with its sign. -/
theorem decF_zero_iff {s : Bool} : decF t a = .zero s ↔ (a / 2 ^ (t.bits - 1) % 2 == 1) = s ∧ a % 2 ^ (t.bits - 1) = 0 := by
  constructor
  · intro zero
    rcases decF_cases (t := t) (x := a) (by simp [zero]) with ⟨inf, -⟩ | ⟨-, m, e, value, place⟩
    · simp [zero] at inf
    · rw [zero, XVal.mk] at value
      split at value
      · next none =>
        refine ⟨(XVal.zero.inj value).symm, by_contra fun above => ?_⟩
        rw [none, Nat.cast_zero, zero_mul] at place
        exact (gridAt_pos t above).ne place
      · cases value
  · rintro ⟨rfl, zero⟩
    obtain ⟨m, e, value, place⟩ := decF_finite (t := t) (x := a) (by omega)
    rw [zero, gridAt_zero, mul_eq_zero, Nat.cast_eq_zero, or_iff_left (by positivity)] at place
    rw [value, XVal.mk, if_pos place]

theorem codePlace_split : codePlace t a = if a / 2 ^ (t.bits - 1) % 2 == 1 then -1 - ((a % 2 ^ (t.bits - 1) : Nat) : Int)
    else (a % 2 ^ (t.bits - 1) : Nat) := by
  have number := codeNumber_split ha
  obtain ⟨-, -, sign⟩ := code_split ha
  unfold codePlace
  unfold codeNumber at number
  cases neg : a / 2 ^ (t.bits - 1) % 2 == 1 with
  | false => simpa [neg, sign.2 neg] using number
  | true =>
    have high : ¬ a < 2 ^ (t.bits - 1) := fun low => by simp [sign.1 low] at neg
    rw [if_neg high, neg, if_pos rfl] at number
    rw [if_neg high, if_pos rfl]
    omega

variable (hb : b < 2 ^ t.bits) (na : decF t a ≠ .nan) (nb : decF t b ≠ .nan)
include hb na nb

/-- The left operand is selected by the order in which −0.0 lies below +0.0. -/
theorem pickLeft_codes (isMax : Bool) : pickLeft isMax (decF t a) (decF t b)
    = decide (if isMax then codePlace t b ≤ codePlace t a else codePlace t a ≤ codePlace t b) := by
  by_cases zeros : (∃ x, decF t a = .zero x) ∧ ∃ y, decF t b = .zero y
  · obtain ⟨⟨x, hx⟩, y, hy⟩ := zeros
    obtain ⟨sx, kx⟩ := (decF_zero_iff).1 hx
    obtain ⟨sy, ky⟩ := (decF_zero_iff).1 hy
    rw [hx, hy, codePlace_split ha, codePlace_split hb, sx, sy, kx, ky]
    cases isMax <;> cases x <;> cases y <;> decide
  · have ordered : pickLeft isMax (decF t a) (decF t b) = if isMax then !ltX (decF t a) (decF t b) else !ltX (decF t b) (decF t a) := by
      unfold pickLeft
      split
      · next x y hx hy => exact absurd ⟨⟨x, hx⟩, y, hy⟩ zeros
      · rfl
    have some : a % 2 ^ (t.bits - 1) ≠ 0 ∨ b % 2 ^ (t.bits - 1) ≠ 0 := by
      by_contra none
      push Not at none
      exact zeros ⟨⟨_, (decF_zero_iff).2 ⟨rfl, none.1⟩⟩, _, (decF_zero_iff).2 ⟨rfl, none.2⟩⟩
    rw [ordered, ltX_codes ha hb na nb, ltX_codes hb ha nb na, codePlace_split ha, codePlace_split hb, codeNumber_split ha, codeNumber_split hb]
    generalize a % 2 ^ (t.bits - 1) = k at *
    generalize b % 2 ^ (t.bits - 1) = l at *
    generalize (a / 2 ^ (t.bits - 1) % 2 == 1) = x
    generalize (b / 2 ^ (t.bits - 1) % 2 == 1) = y
    rw [Bool.eq_iff_iff]
    cases isMax <;> cases x <;> cases y <;> simp <;> omega

theorem fcmp_numbers (cd : FCond) : fcmp t cd a b = match cd with
    | .eq => decide (codeNumber t a = codeNumber t b) | .ne => decide (codeNumber t a ≠ codeNumber t b)
    | .lt => decide (codeNumber t a < codeNumber t b) | .le => decide (codeNumber t a ≤ codeNumber t b)
    | .gt => decide (codeNumber t b < codeNumber t a) | .ge => decide (codeNumber t b ≤ codeNumber t a)
    | .un => false | .ord => true := by
  have ordered : (decF t a == .nan || decF t b == .nan) = false := by simp [na, nb]
  simp only [fcmp, ordered, ltX_codes ha hb na nb, ltX_codes hb ha nb na]
  generalize codeNumber t a = x
  generalize codeNumber t b = y
  rcases lt_trichotomy x y with below | same | above
  · cases cd <;> simp [below, below.le, below.not_gt, below.ne]
  · cases cd <;> simp [same]
  · cases cd <;> simp [above, above.le, above.not_gt, above.ne']

end Selection

/-! ### The whole number that a mode picks (R43, R161) -/

theorem toIntMag_pickInt {m n : Nat} {e : Int} (low : (n : Rat) ≤ m * 2 ^ e) (high : (m : Rat) * 2 ^ e < n + 1) (mode : RMode) (neg : Bool) :
    toIntMag mode neg m e = (pickInt mode neg (m * 2 ^ e) n, !decide ((n : Rat) = m * 2 ^ e)) := by
  obtain ⟨parts, rest⟩ := intParts_spec m e 0
  rw [sub_zero, zpow_zero, mul_one] at *
  have whole := roundUpP_eq_picksUpper rest mode neg ((intParts m e).1 % 2 == 1)
  generalize hp : intParts m e = p at *
  have divisor : (0 : Rat) < p.2.2 := by exact_mod_cast (by omega : 0 < p.2.2)
  have below : (p.2.1 : Rat) / p.2.2 < 1 := (div_lt_one divisor).2 (by exact_mod_cast rest)
  have above : (0 : Rat) ≤ (p.2.1 : Rat) / p.2.2 := by positivity
  rw [parts] at low high ⊢
  have : n = p.1 := by
    have : n < p.1 + 1 := by exact_mod_cast (by linarith : (n : Rat) < p.1 + 1)
    have : p.1 < n + 1 := by exact_mod_cast (by linarith : (p.1 : Rat) < n + 1)
    omega
  subst this
  have exact_ : (p.1 : Rat) = p.1 + p.2.1 / p.2.2 ↔ p.2.1 = 0 := by
    rw [left_eq_add, div_eq_zero_iff, or_iff_left divisor.ne', Nat.cast_eq_zero]
  simp only [toIntMag, hp, pickInt, exact_, cutAt_add, ← whole]
  simp only [bne, beq_eq_decide, decide_not]


/-! ### Whole numbers and conversions (R43, R160, R161) -/

section Conversion
variable {t : FTy} {a : Nat} (mode : RMode)

theorem frint_nan (h : decF t a = .nan) {n : Nat} (hn : t.nanCode = some n) : frint t mode a = (n, fNone) := by
  simp only [frint, h, xOut, roundF, hn]

theorem frint_inf (ha : a < 2 ^ t.bits) (inf : t.hasInf = true) {neg : Bool} (h : decF t a = .inf neg) : frint t mode a = (a, fNone) := by
  have signs : t ≠ .e2m1 := fun e => by simp [e, FTy.hasInf] at inf
  rcases decF_cases (t := t) (x := a) (by simp [h]) with ⟨value, -, place⟩ | ⟨-, m, e, value, -⟩
  · simp only [frint, h, xOut, roundF, inf, if_true]
    rw [signed_code ha signs (XVal.inf.inj (value.symm.trans h)) place]
  · exact absurd (value.symm.trans h) ((mk_ne _ m e).2 neg)

theorem frint_zero (ha : a < 2 ^ t.bits) (inf : t.hasInf = true) {neg : Bool} (h : decF t a = .zero neg) : frint t mode a = (a, fNone) := by
  have signs : t ≠ .e2m1 := fun e => by simp [e, FTy.hasInf] at inf
  obtain ⟨sign, place⟩ := decF_zero_iff.1 h
  simp only [frint, h, xOut, roundF]
  rw [signed_code ha signs sign place]

variable {neg : Bool} {m n : Nat} {e : Int} (low : (n : Rat) ≤ m * 2 ^ e) (high : (m : Rat) * 2 ^ e < n + 1)
include low high

theorem frint_finite (h : decF t a = .fin neg m e false) : frint t mode a = ((roundF t .rn false (.mk neg (pickInt mode neg (m * 2 ^ e) n) 0)).1,
    if (n : Rat) = m * 2 ^ e then fNone else fNX) := by
  simp only [frint, h, toIntMag_pickInt low high, Bool.not_eq_true', decide_eq_false_iff_not, ite_not]

theorem toInt_finite (td : ITy) : let v : Int := (if neg then -1 else 1) * (pickInt mode neg (m * 2 ^ e) n : Int)
    toInt td mode (.fin neg m e false) = if v < minI td then (minI td, fNV) else if maxI td < v then (maxI td, fNV)
      else (v, if (n : Rat) = m * 2 ^ e then fNone else fNX) := by
  have sign (y : Nat) : (if neg then -(y : Int) else y) = (if neg then -1 else 1) * (y : Int) := by cases neg <;> simp
  simp only [toInt, toIntMag_pickInt low high, sign, Bool.not_eq_true', decide_eq_false_iff_not, ite_not]

end Conversion

theorem vcvtLane_int (td ts : ITy) (mode : RMode) (sat : Bool) (x : Nat) : vcvtLane (.int td) (.int ts) mode sat x = (let v := valI ts x
    if sat = false then (putI td 32 v, fNone)
    else if v < minI td then (putI td 32 (minI td), fIS)
    else if maxI td < v then (putI td 32 (maxI td), fIS) else (putI td 32 v, fNone)) := by
  cases sat with
  | false => rfl
  | true =>
    simp only [vcvtLane, satI, if_true, Bool.true_eq_false, if_false]
    repeat' split
    all_goals rfl

/-! ### The obligation -/

/-- Settles O8: a code is a sign and a place of its format's grid, which rounding, comparison and conversion go by; the instructions apply
these to lanes. -/
theorem floatSelectionAndConversionComplete : Obligations.FloatSelectionAndConversionComplete := by
  refine ⟨fun s c g hg gd d a => ?group, fun t x => ⟨decF_finite, decF_inf, decF_nan⟩,
    fun t mode sat neg => ⟨fun n hn => ?nan, fun hn => ?noNan, rfl, rfl, fun m e hm => roundFin_spec t e hm mode sat neg⟩,
    fun mode xs => ⟨sumX_nan, sumX_invalid, fun b => sumX_inf, fun ys hxs => ?sum⟩, fun t a b ha hb => ?codes, fun mode sat x => ?convert,
    fun a b => ?product, ?table⟩
  case group =>
    refine ⟨fun t => ⟨⟨fun b => ?_, fun w => ?_⟩, ⟨fun b => ?_, fun w => ?_⟩, ?_, ?_, fun rm => ?_, fun cd m => ⟨fun b => ?_, fun w => ?_⟩⟩,
      fun e => ⟨?_, ?_⟩, fun td ts rm sat => ?_⟩ <;>
    exact withGroup_group hg _
  case nan | noNan => simp only [roundF, hn]
  case sum =>
    have terms : xs.map XVal.number = ys.map fun y => (if y.1 then -1 else 1) * ((y.2.1 : Rat) * 2 ^ y.2.2) := by
      rw [hxs, List.map_map]
      exact List.map_congr_left fun y _ => number_mk ..
    have finite (z : XVal) (hz : z ∈ xs) : z ≠ .nan ∧ ∀ b, z ≠ .inf b := by
      rw [hxs] at hz
      obtain ⟨y, -, rfl⟩ := List.mem_map.1 hz
      exact mk_ne ..
    have sum := sumX_number (mode := mode) (xs := xs) (fun h => (finite _ h).1 rfl) fun b h => (finite _ h).2 b rfl
    rw [terms] at sum
    exact sum
  case codes =>
    refine ⟨fun na nb n hn => fminmax_nan na nb hn, fun na nb isMax => ⟨fminmax_nan_left na nb isMax, fminmax_nan_right na nb isMax⟩,
      fun na nb => ?_, fun n na hn => ⟨fsignOp_nan na hn false, fsignOp_nan na hn true⟩, fun na h => ⟨fsignOp_abs na, fsignOp_neg ha na h⟩,
      fcmp_nan, fun na nb cd => (fcmp_numbers ha hb na nb cd).trans (by cases cd <;> rfl), fun mode => ⟨fun n na hn => frint_nan mode na hn,
        fun inf neg h => h.elim (frint_inf mode ha inf) (frint_zero mode ha inf), fun neg m e n h low high => frint_finite mode low high h⟩⟩
    simp only [fminmax_numbers na nb, pickLeft_codes ha hb na nb, Bool.false_eq_true, if_false, if_true, decide_eq_true_eq]
    exact ⟨rfl, rfl⟩
  case convert =>
    refine ⟨fun td ts => rfl, fun td ts => rfl, fun td ts => vcvtLane_int td ts mode sat x, fun td ts => ⟨fun h => ?_, fun neg h => ?_, fun neg h => ?_,
      fun neg m e n h low high => ?_⟩⟩
    case refine_4 =>
      simp only [vcvtLane, h, toInt_finite mode low high td]
      generalize (if neg then -1 else 1) * (pickInt mode neg ((m : Rat) * 2 ^ e) n : Int) = v
      split
      · rfl
      · split <;> rfl
    all_goals simp only [vcvtLane, h, toInt]
  case product =>
    have both {r : XVal × Flags} (h : mulX a b = r) : mulX a b = r ∧ mulX b a = r := ⟨h, mulX_comm b a ▸ h⟩
    refine ⟨fun ha => both (by rw [ha]; rfl), fun x y ha hb => both (by rw [ha, hb]; rfl), fun x y ha hb => both (by rw [ha, hb]; rfl),
      fun x y m e ha hb => both (by rw [ha, hb]; rfl), fun x y m e ha hb => both (by rw [ha, hb, mulX_zero_mk]),
      fun x m e y n f hm hn ha hb => ?_⟩
    obtain ⟨product, value⟩ := mulX_finite x y m n e f
    exact ⟨m * n, e + f, mul_ne_zero hm hn, by rw [ha, hb, product], value⟩
  case table =>
    refine ⟨?_, ?_, ?_, ?_, ?_, fun mode => rfl, ?_, ?_, ?_, ?_, ?_, ?_, ?_, fun mode => rfl⟩ <;> decide

end Sys2Proof.Machine
end

section
/-! PROOFS. The work of matrix operations (02 R53, R54, 09 R215 to R220, R224): what each operation writes, the sums of blocks and of integers,
and the shared exponent of a converted row. -/

namespace Sys2Proof.Machine
open Sys2Proof.Claims

/-! ### Uncorrectable words that an operation reads (R224) -/

theorem badKey_eq_none_iff {s : State} {a n : Nat} : s.badKey a n = none ↔ s.poisoned a n = false := by
  refine ⟨fun h => ?_, badKey_none⟩
  unfold State.badKey at h
  split at h
  · next clean => exact List.any_eq_false.2 (List.filter_eq_nil_iff.1 clean)
  · cases h

theorem firstBad_eq_none_iff {s : State} {rs : List (Nat × Nat)} : s.firstBad rs = none ↔ ∀ r ∈ rs, s.poisoned r.1 r.2 = false := by
  unfold State.firstBad
  split
  · next clean => simp [State.poisoned, List.isEmpty_iff.1 clean]
  · simp only [List.findSome?_eq_none_iff, Option.map_eq_none_iff, badKey_eq_none_iff]

theorem matWork_bad (s : State) (op : MatOp) : (s.matWork op).bad = s.firstBad (matReads op op.folio op.folio2) := by
  unfold State.matWork
  cases kind : op.kind with
  | mma sg a b k => cases op.pairTile <;> rfl
  | mzero => simp [matReads, kind, State.firstBad]
  | mldg | mstg | mcvt | maddg => rfl

theorem fNone_or (f : Flags) : fNone ||| f = f := BitVec.zero_or

theorem or_fNone (f : Flags) : f ||| fNone = f := BitVec.or_zero

theorem orFlags_fNone {α : Type} (xs : List α) : orFlags (xs.map fun _ => fNone) = fNone := by
  unfold orFlags
  induction xs with
  | nil => rfl
  | cons x xs ih => rw [List.map_cons, List.foldl_cons, show (0 : Flags) ||| fNone = 0 from rfl, ih]

/-! ### MADDG (R220) -/

/-- Word i of a MADDG. -/
def State.maddgWord (s : State) (isInt : Bool) (mode : RMode) (core a b i : Nat) : Nat × Flags :=
  let ka := tileKey core a + 4 * i
  let kb := tileKey core b + 4 * i
  if s.poisoned ka 4 = true ∨ s.poisoned kb 4 = true then (if isInt then 0 else 0x7FC00000, fNone)
  else if isInt then ((s.le ka 4 + s.le kb 4) % 2 ^ 32, fNone)
  else
    let y := sumX mode [decF .f32 (s.le ka 4), decF .f32 (s.le kb 4)]
    ((roundF .f32 mode false y.1).1, y.2 ||| (roundF .f32 mode false y.1).2)

theorem maddgTile_eq (s : State) (isInt : Bool) (mode : RMode) (core tile a b : Nat) : s.maddgTile isInt mode core tile a b
    = ((List.range 1024).flatMap fun i => cellsLE (tileKey core tile + 4 * i) 4 (s.maddgWord isInt mode core a b i).1,
      orFlags ((List.range 1024).map fun i => (s.maddgWord isInt mode core a b i).2)) := by
  simp only [State.maddgTile, State.maddgWord, List.flatMap_map, List.map_map, Function.comp_def, Bool.or_eq_true]

/-! ### MCVT (R219) -/

theorem packCodes_half (xs : List Nat) (j : Nat) :
    (packCodes true xs).getD j 0 = BitVec.ofNat 8 (xs.getD (2 * j) 0 + 16 * xs.getD (2 * j + 1) 0) := by
  induction j generalizing xs with
  | zero => match xs with
    | [] | [_] | _ :: _ :: _ => rfl
  | succ j ih => match xs with
    | [] | [_] => rfl
    | _ :: _ :: xs => exact ih xs

theorem packCodes_whole : ∀ xs : List Nat, packCodes false xs = xs.map (BitVec.ofNat 8)
  | [] | [_] => rfl
  | a :: b :: xs => congrArg (BitVec.ofNat 8 a :: ·) (packCodes_whole (b :: xs))

theorem packCodes_getD (half : Bool) (xs : List Nat) (j : Nat) : (packCodes half xs).getD j 0
    = BitVec.ofNat 8 (if half then xs.getD (2 * j) 0 + 16 * xs.getD (2 * j + 1) 0 else xs.getD j 0) := by
  cases half with
  | true => exact packCodes_half xs j
  | false => rw [packCodes_whole, show (0 : Byte) = BitVec.ofNat 8 0 from rfl, List.getD_map]; rfl

theorem reluX_eq (relu : Bool) (x : XVal) : reluX relu x = if relu = true ∧ x ≠ XVal.nan ∧ x.isNeg = true then XVal.zero false else x := by
  simp only [reluX, Bool.and_eq_true, bne_iff_ne, and_assoc]

/-- Row m of a tile as MCVT converts it: its exponent, codes and flags. -/
def State.mcvtRowOf (s : State) (relu : Bool) (mode : RMode) (d : Line) (core tile m : Nat) : Nat × List Nat × Flags :=
  if s.poisoned (tileWord core tile m 0) 128 = true then (0, List.replicate 32 0, fNone)
  else mcvtRow (efmtFloat (fEfmt d)) mode ((List.range 32).map fun n => reluX relu (decF .f32 (s.le (tileWord core tile m n) 4)))

theorem mcvtTile_eq (s : State) (relu : Bool) (mode : RMode) (d : Line) (k fk core tile : Nat) :
    let row := s.mcvtRowOf relu mode d core tile
    s.mcvtTile relu mode d k fk core tile = ((List.range 32).flatMap fun m =>
      ((List.range (mcvtW (fEfmt d))).map fun j => (fk + sliceOff d (mcvtW (fEfmt d)) k m j, BitVec.ofNat 8 (
        if efmtFloat (fEfmt d) == .e2m1 then (row m).2.1.getD (2 * j) 0 + 16 * (row m).2.1.getD (2 * j + 1) 0 else (row m).2.1.getD j 0)))
        ++ cellsLE (fk + entryOff d (mcvtW (fEfmt d)) k m 0) 2 (row m).1,
      orFlags ((List.range 32).map fun m => (row m).2.2)) := by
  have zeros (m : Nat) : ((List.range 32).map fun n => reluX relu (decF .f32 (s.le (tileWord core tile m n) 4))).map (fun _ => 0)
      = List.replicate 32 0 := by
    rw [List.map_map, Function.comp_def, List.map_const', List.length_range]
  simp only [State.mcvtTile, State.mcvtRowOf, zeros, List.flatMap_map, List.map_map, Function.comp_def, packCodes_getD, ← List.map_eq_flatMap]

/-! ### Sums of blocks and of integers (R53, R54, R215) -/

theorem mmaFloat_nil_left (acc : Nat) (bs : List (List XVal × XVal)) : mmaFloat acc [] bs = (acc, fNone) := rfl

theorem mmaFloat_nil_right (acc : Nat) (as : List (List XVal × XVal)) : mmaFloat acc as [] = (acc, fNone) := by
  rw [mmaFloat, List.zip_nil_right]
  rfl

/-- The flags of a step of an accumulation go beside those of the rest. -/
theorem foldl_flags {α : Type} (f : Nat → α → Nat × Flags) (xs : List α) (acc : Nat) (fl : Flags) :
    xs.foldl (fun (r : Nat × Flags) p => ((f r.1 p).1, r.2 ||| (f r.1 p).2)) (acc, fl)
      = ((xs.foldl (fun (r : Nat × Flags) p => ((f r.1 p).1, r.2 ||| (f r.1 p).2)) (acc, fNone)).1,
        fl ||| (xs.foldl (fun (r : Nat × Flags) p => ((f r.1 p).1, r.2 ||| (f r.1 p).2)) (acc, fNone)).2) := by
  induction xs generalizing acc fl with
  | nil => rw [List.foldl_nil, List.foldl_nil, or_fNone]
  | cons x xs ih =>
    simp only [List.foldl_cons]
    rw [ih (f acc x).1 (fl ||| (f acc x).2), ih (f acc x).1 (fNone ||| (f acc x).2)]
    rw [fNone_or, BitVec.or_assoc]

theorem mmaFloat_cons (acc : Nat) (a b : List XVal × XVal) (as bs : List (List XVal × XVal)) :
    let t := blockSum a.1 b.1 a.2 b.2
    let y := sumX .rn [decF .f32 acc, decF .f32 t.1]
    let z := roundF .f32 .rn false y.1
    let r := mmaFloat z.1 as bs
    mmaFloat acc (a :: as) (b :: bs) = (r.1, t.2 ||| y.2 ||| z.2 ||| r.2) := by
  have steps (acc : Nat) (as bs : List (List XVal × XVal)) : mmaFloat acc as bs = (as.zip bs).foldl (fun (r : Nat × Flags) p =>
      ((faddRN .f32 r.1 (blockSum p.1.1 p.2.1 p.1.2 p.2.2).1).1,
        r.2 ||| ((blockSum p.1.1 p.2.1 p.1.2 p.2.2).2 ||| (faddRN .f32 r.1 (blockSum p.1.1 p.2.1 p.1.2 p.2.2).1).2))) (acc, fNone) := by
    simp only [mmaFloat, BitVec.or_assoc]
  intro t y z r
  rw [steps, List.zip_cons_cons, List.foldl_cons, foldl_flags fun acc (p : (List XVal × XVal) × (List XVal × XVal)) =>
    ((faddRN .f32 acc (blockSum p.1.1 p.2.1 p.1.2 p.2.2).1).1,
      (blockSum p.1.1 p.2.1 p.1.2 p.2.2).2 ||| (faddRN .f32 acc (blockSum p.1.1 p.2.1 p.1.2 p.2.2).1).2), ← steps]
  simp only [faddRN, fNone_or, BitVec.or_assoc, t, y, z, r]

theorem mmaInt_eq (acc : Nat) (as bs : List Int) :
    (mmaInt acc as bs : Int) = ((acc : Int) + (List.zipWith (· * ·) as bs).foldr (· + ·) 0) % 2 ^ 32 := by
  have sum (ps : List Int) (x : Int) : ps.foldl (· + ·) x = x + ps.foldr (· + ·) 0 := by
    induction ps generalizing x with
    | nil => simp
    | cons p ps ih => rw [List.foldl_cons, ih, List.foldr_cons, Int.add_assoc]
  rw [mmaInt, wrapN, sum, Int.toNat_of_nonneg (Int.emod_nonneg _ (by decide))]

/-! ### MMA (R215, R216) -/

/-- Word (m, n) of an MMA with A from folio key `fa` and B from `fb`. -/
def State.mmaWord (s : State) (sg : MmaSign) (a b : Line) (k fa fb core tile m n : Nat) : Nat × Flags :=
  let wa := mmaW (fEfmt a) (fEfmt b)
  let wb := mmaW (fEfmt b) (fEfmt a)
  let nb := mmaK (fEfmt a) (fEfmt b) / 32
  let key := tileWord core tile m n
  let lost := s.rowBad fa a wa k m = true ∨ s.rowBad fb b wb k n = true ∨ s.poisoned key 4 = true
  if fEfmt a = 8 then (if lost then 0 else mmaInt (s.le key 4) (s.intRow fa a k m (signA sg)) (s.intRow fb b k n (signB sg)), fNone)
  else if lost then (0x7FC00000, fNone)
  else
    let y := mmaFloat (s.le key 4) (s.operandRow fa a wa k m nb) (s.operandRow fb b wb k n nb)
    (canonF32 y.1, y.2)

theorem getD_map_range {α : Type} (f : Nat → α) (d : α) {k n : Nat} (h : k ∈ List.range n) : ((List.range n).map f).getD k d = f k := by
  rw [List.getD_eq_getElem?_getD, List.getElem?_map, List.getElem?_range (List.mem_range.1 h)]
  rfl

theorem signA_eq (sg : MmaSign) : signA sg = (sg == .ss || sg == .su) := by cases sg <;> rfl

theorem signB_eq (sg : MmaSign) : signB sg = (sg == .ss || sg == .us) := by cases sg <;> rfl

theorem mmaTile_eq (s : State) (sg : MmaSign) (a b : Line) (k fa fb core tile : Nat) :
    let word := s.mmaWord sg a b k fa fb core tile
    s.mmaTile sg a b k fa fb core tile = (
      (List.range 32).flatMap fun m => (List.range 32).flatMap fun n => cellsLE (tileWord core tile m n) 4 (word m n).1,
      orFlags ((List.range 32).flatMap fun m => (List.range 32).map fun n => (word m n).2)) := by
  by_cases int : fEfmt a = 8
  · have flags : orFlags ((List.range 32).flatMap fun m => (List.range 32).map fun n => (s.mmaWord sg a b k fa fb core tile m n).2) = fNone := by
      simp only [State.mmaWord, int, if_true]
      refine (congrArg orFlags ?_).trans (orFlags_fNone ((List.range 32).flatMap fun _ => List.range 32))
      rw [List.map_flatMap]
    simp only [flags, State.mmaTile, int, if_true]
    refine congrArg (Prod.mk · fNone) (List.flatMap_congr fun m _ => List.flatMap_congr fun n hn => ?_)
    simp only [getD_map_range _ _ hn, State.mmaWord, int, if_true, Bool.or_eq_true, or_assoc]
  · have word (m n : Nat) (hn : n ∈ List.range 32) :
        (if (s.rowBad fa a (mmaW (fEfmt a) (fEfmt b)) k m
            || ((List.range 32).map fun n => s.rowBad fb b (mmaW (fEfmt b) (fEfmt a)) k n).getD n false
            || s.poisoned (tileWord core tile m n) 4) = true then (cellsLE (tileWord core tile m n) 4 0x7FC00000, fNone)
          else
            let y := mmaFloat (s.le (tileWord core tile m n) 4)
              (s.operandRow fa a (mmaW (fEfmt a) (fEfmt b)) k m (mmaK (fEfmt a) (fEfmt b) / 32))
              (((List.range 32).map fun n => s.operandRow fb b (mmaW (fEfmt b) (fEfmt a)) k n (mmaK (fEfmt a) (fEfmt b) / 32)).getD n [])
            (cellsLE (tileWord core tile m n) 4 (canonF32 y.1), y.2))
        = (cellsLE (tileWord core tile m n) 4 (s.mmaWord sg a b k fa fb core tile m n).1, (s.mmaWord sg a b k fa fb core tile m n).2) := by
      simp only [getD_map_range _ _ hn, State.mmaWord, int, if_false, Bool.or_eq_true, or_assoc]
      split <;> rfl
    simp only [State.mmaTile, int, if_false]
    rw [List.flatMap_congr fun m _ => List.map_congr_left fun n hn => word m n hn]
    simp only [List.flatMap_assoc, List.flatMap_map, List.map_flatMap, List.map_map, Function.comp_def]

/-! ### The result of an operation -/

theorem matrixResults (s : State) (op : MatOp) : MatrixResults s op := by
  refine ⟨?bad, fun kind => ?mzero, fun f k kind => ?mldg, fun f k kind => ?mstg, fun isInt mode a b kind => ?maddg,
    fun relu mode f k kind => ?mcvt, fun sg a b k kind => ⟨fun alone => ?mma, fun t pair => ?pair⟩⟩
  case bad => rw [matWork_bad, firstBad_eq_none_iff]
  case mzero | mldg | mstg => constructor <;> simp only [State.matWork, kind] <;> rfl
  case maddg =>
    simp only [State.matWork, kind, maddgTile_eq]
    exact ⟨rfl, rfl⟩
  case mcvt =>
    constructor <;> simp only [State.matWork, kind, mcvtTile_eq, State.mcvtRowOf, reluX_eq, beq_iff_eq] <;> rfl
  case mma =>
    simp only [State.matWork, kind, alone, mmaTile_eq, State.mmaWord, signA_eq, signB_eq]
    exact ⟨rfl, rfl⟩
  case pair =>
    simp only [State.matWork, kind, pair, mmaTile_eq, State.mmaWord, signA_eq, signB_eq]
    exact ⟨rfl, rfl⟩

/-! ### Elements of a slice (R50, R52, R53) -/

section Elements
variable (s : State) (fk : Nat) (f : Line) (w k m j : Nat)

theorem elemCode_half (h : fEfmt f = 7) : s.elemCode fk f w k m j = (s.byte (fk + sliceOff f w k m (j / 2))).toNat / 16 ^ (j % 2) % 16 := by
  have halves : elemHalves (fEfmt f) = 1 := by rw [h]; rfl
  simp only [State.elemCode, halves, fld]
  rw [Nat.pow_mul]
  rfl

theorem elemCode_byte (h : fEfmt f ∈ [3, 4, 5, 6, 8]) : s.elemCode fk f w k m j = (s.byte (fk + sliceOff f w k m j)).toNat := by
  have halves : elemHalves (fEfmt f) = 2 := (by decide : ∀ c ∈ [3, 4, 5, 6, 8], elemHalves c = 2) _ h
  simp only [State.elemCode, halves]

theorem elemCode_pair (h : fEfmt f ∈ [1, 2, 9]) : s.elemCode fk f w k m j = s.le (fk + sliceOff f w k m (2 * j)) 2 := by
  have halves : elemHalves (fEfmt f) = 4 := (by decide : ∀ c ∈ [1, 2, 9], elemHalves c = 4) _ h
  simp only [State.elemCode, halves]

theorem entryCode_plain (h : fScaled f = false) : s.entryCode fk f w k m j = 127 := by
  rw [State.entryCode, h]
  rfl

theorem entryCode_scaled (h : fScaled f = true) : s.entryCode fk f w k m j = s.le (fk + entryOff f w k m j) 2 := if_pos h

end Elements

theorem elemValue_code {efmt code : Nat} (entry : Nat) (h : efmt ≠ 7 ∨ code ≠ 8) :
    elemValue efmt entry code = decF (efmtFloat efmt) (code % 2 ^ (efmtFloat efmt).bits) :=
  if_neg fun both => h.elim (· both.1) (· both.2)

theorem specialValue_eq (entry : Nat) : specialValue entry = (let neg := entry / 2 ^ 10 % 2 == 1
    match entry / 2 ^ 8 % 4 with
    | 0 => .zero neg | 1 => .fin neg 8 0 false | 2 => .fin neg 12 0 false | _ => .fin neg 1 (-2) false) := by
  unfold specialValue
  rfl

theorem scaleValue_eq (entry : Nat) :
    scaleValue entry = if entry % 2 ^ 8 = 255 then .nan else .fin false 1 ((entry % 2 ^ 8 : Nat) - 127) false := by
  simp only [scaleValue, fld_low]

/-! ### The exponent of a converted row (R219) -/

/-- The least exponent whose multiple of a format's greatest value is no less than a number. -/
def ScaleOf (x top : Rat) (e : Int) : Prop := x ≤ top * 2 ^ e ∧ top * 2 ^ (e - 1) < x

theorem scaleOf_unique {x top : Rat} {d e : Int} (positive : 0 < top) (hd : ScaleOf x top d) (he : ScaleOf x top e) : d = e := by
  have less {d e : Int} (hd : ScaleOf x top d) (he : ScaleOf x top e) : e - 1 < d :=
    (zpow_lt_zpow_iff_right₀ one_lt_two).1 ((mul_lt_mul_iff_right₀ positive).1 (he.2.trans_le hd.1))
  have := less hd he
  have := less he hd
  omega

theorem scaleOf_scaleExp {m n : Nat} (hm : m ≠ 0) (hn : n ≠ 0) (g h : Int) :
    ScaleOf (m * 2 ^ g) (n * 2 ^ h) (scaleExp m g n h) := by
  obtain ⟨lowM, highM⟩ := log2_bounds g hm
  obtain ⟨lowN, highN⟩ := log2_bounds h hn
  have shift (d : Int) : (n : Rat) * 2 ^ h * 2 ^ d = n * 2 ^ (h + d) := by rw [mul_assoc, ← zpow_add₀ two_ne_zero]
  have scaled {d e : Int} : (2 : Rat) ^ d * 2 ^ e = 2 ^ (d + e) := (zpow_add₀ two_ne_zero d e).symm
  have lowN' (d : Int) : (2 : Rat) ^ ((n.log2 : Int) + h + d) ≤ n * 2 ^ h * 2 ^ d := by
    rw [← scaled]
    exact mul_le_mul_of_nonneg_right lowN (by positivity)
  have highN' (d : Int) : (n : Rat) * 2 ^ h * 2 ^ d < 2 ^ ((n.log2 : Int) + h + 1 + d) := by
    rw [← scaled]
    exact mul_lt_mul_of_pos_right highN (by positivity)
  unfold scaleExp
  generalize base : (m.log2 : Int) + g - n.log2 - h = e
  have fits : m * 2 ^ (g - h - e).toNat ≤ n * 2 ^ (-(g - h - e)).toNat ↔ (m : Rat) * 2 ^ g ≤ n * 2 ^ h * 2 ^ e := by
    have powers : (2 : Rat) ^ g * 2 ^ (-(g - h - e)).toNat = 2 ^ h * 2 ^ e * 2 ^ (g - h - e).toNat := by
      rw [← zpow_natCast, ← zpow_natCast, scaled, scaled, scaled]
      congr 1
      omega
    have left : (0 : Rat) < 2 ^ (-(g - h - e)).toNat := by positivity
    have right : (0 : Rat) < 2 ^ h * 2 ^ e := by positivity
    rw [← mul_le_mul_iff_left₀ left, mul_assoc, powers, ← Nat.cast_le (α := Rat)]
    push_cast
    rw [← mul_le_mul_iff_left₀ right]
    constructor <;> intro le <;> linarith
  dsimp only
  rw [ScaleOf]
  split
  · next le =>
    refine ⟨fits.1 le, (highN' _).trans_le (le_trans (zpow_le_zpow_right₀ one_le_two (by omega)) lowM)⟩
  · next gt =>
    refine ⟨highM.le.trans ((zpow_le_zpow_right₀ one_le_two (by omega)).trans (lowN' _)), ?_⟩
    rw [add_sub_cancel_right]
    exact not_le.1 fun le => gt (fits.2 le)

/-- A magnitude of a row: zero, or a positive number. -/
def XVal.IsMag (x : XVal) : Prop := x = .zero false ∨ ∃ m g, m ≠ 0 ∧ x = .fin false m g false

theorem maxMag_finite {x : XVal} (hx : x.IsMag) (neg : Bool) (m : Nat) (g : Int) :
    maxMag x (.fin neg m g false) = if (m : Rat) * 2 ^ g < x.number then x else .fin false m g false := by
  have mag : (if (XVal.fin neg m g false).isNeg then (XVal.fin neg m g false).negate else .fin neg m g false) = .fin false m g false := by
    cases neg <;> rfl
  have number : (XVal.fin false m g false).number = (m : Rat) * 2 ^ g := by simp [XVal.number]
  have same : (if x.isNeg then x.negate else x) = x := by
    rcases hx with rfl | ⟨_, _, -, rfl⟩ <;> rfl
  have finite : x ≠ .nan ∧ ∀ s, x ≠ .inf s := by
    rcases hx with rfl | ⟨_, _, -, rfl⟩ <;> exact ⟨XVal.noConfusion, fun _ => XVal.noConfusion⟩
  simp only [maxMag, mag, same]
  rw [ltX_number XVal.noConfusion finite.1 (fun _ => XVal.noConfusion) finite.2, number]
  simp only [decide_eq_true_eq]

/-- Values of a row that are finite and not zero. -/
def RowNumbers (ys : List XVal) : Prop := ∀ y ∈ ys, ∃ neg m g, m ≠ 0 ∧ y = .fin neg m g false

/-- The greatest magnitude of a row. -/
theorem foldl_maxMag {ys : List XVal} (hy : RowNumbers ys) {x : XVal} (hx : x.IsMag) :
    let r := ys.foldl maxMag x
    r.IsMag ∧ x.number ≤ r.number ∧ (r = x ∨ ∃ neg m g, .fin neg m g false ∈ ys ∧ r = .fin false m g false)
      ∧ ∀ (neg : Bool) (m : Nat) (g : Int), .fin neg m g false ∈ ys → (m : Rat) * 2 ^ g ≤ r.number := by
  induction ys generalizing x with
  | nil => exact ⟨hx, le_rfl, .inl rfl, fun _ _ _ h => absurd h List.not_mem_nil⟩
  | cons y ys ih =>
    have later : RowNumbers ys := fun z hz => hy z (List.mem_cons_of_mem _ hz)
    obtain ⟨neg, m, g, hm, rfl⟩ := hy y List.mem_cons_self
    have step := maxMag_finite hx neg m g
    rw [List.foldl_cons, step]
    split
    · next less =>
      obtain ⟨mag, grows, origin, bounds⟩ := ih later hx
      refine ⟨mag, grows, origin.imp id fun ⟨neg', m', g', h, e⟩ => ⟨neg', m', g', List.mem_cons_of_mem _ h, e⟩, fun neg' m' g' h => ?_⟩
      rcases List.mem_cons.1 h with first | rest
      · cases first
        exact less.le.trans grows
      · exact bounds neg' m' g' rest
    · next more =>
      have number : (XVal.fin false m g false).number = (m : Rat) * 2 ^ g := by simp [XVal.number]
      obtain ⟨mag, grows, origin, bounds⟩ := ih later (.inr ⟨m, g, hm, rfl⟩)
      rw [number] at grows
      refine ⟨mag, (not_lt.1 more).trans grows, .inr ?_, fun neg' m' g' h => ?_⟩
      · rcases origin with here | ⟨neg', m', g', h, e⟩
        · exact ⟨neg, m, g, List.mem_cons_self, here⟩
        · exact ⟨neg', m', g', List.mem_cons_of_mem _ h, e⟩
      · rcases List.mem_cons.1 h with first | rest
        · cases first
          exact grows
        · exact bounds neg' m' g' rest

/-- The greatest value of a format as the number that its code stands for. -/
theorem decF_maxCode (f : FTy) : ∃ n h, n ≠ 0 ∧ decF f f.maxCode = .fin false n h false ∧ (n : Rat) * 2 ^ h = gridAt f f.maxCode := by
  have low := Nat.mod_eq_of_lt (code_lt f)
  have positive : 0 < gridAt f f.maxCode := gridAt_pos f (by cases f <;> decide)
  obtain ⟨n, h, value, place⟩ := decF_finite (t := f) (x := f.maxCode) low.le
  rw [low] at place
  have nonzero : n ≠ 0 := fun zero => by simp [zero] at place; exact positive.ne place
  rw [Nat.div_eq_of_lt (code_lt f), XVal.mk, if_neg nonzero] at value
  exact ⟨n, h, nonzero, value, place⟩

/-- A row converted under an exponent, held to the range of the format's scale entries. -/
def mcvtCodes (f : FTy) (mode : RMode) (xs : List XVal) (e : Int) : Nat × List Nat × Flags :=
  let ex := min (max (e + 127) (if f = .e2m1 then 112 else 0)) (if f = .e2m1 then 143 else 254)
  let rs := xs.map fun x => roundF f mode true (scaleDown (ex - 127) x)
  (ex.toNat, rs.map (·.1), orFlags (rs.map (·.2)))

/-- The exponent that a row asks for. -/
def rowScale (f : FTy) (xs : List XVal) : Int :=
  match (xs.filter XVal.isFin).foldl maxMag (.zero false), decF f f.maxCode with
  | .fin _ m g _, .fin _ n h _ => scaleExp m g n h
  | _, _ => 0

section Row
variable {f : FTy} {mode : RMode} {xs : List XVal}

theorem mcvtRow_nan (h : f ≠ .e2m1) (nan : .nan ∈ xs) : mcvtRow f mode xs = (255, xs.map fun _ => 0, fNone) := by
  have : f ≠ .e2m1 ∧ (xs.any (· == .nan)) = true := ⟨h, by rw [any_eq_mem, decide_eq_true_eq]; exact nan⟩
  simp only [mcvtRow, if_pos this]

theorem mcvtRow_codes (h : f = .e2m1 ∨ .nan ∉ xs) : mcvtRow f mode xs = mcvtCodes f mode xs (rowScale f xs) := by
  have : ¬ (f ≠ .e2m1 ∧ (xs.any (· == .nan)) = true) := by
    rw [any_eq_mem, decide_eq_true_eq]
    exact fun both => h.elim both.1 (· both.2)
  simp only [mcvtRow, if_neg this]
  rfl

theorem mem_isFin {neg : Bool} {m : Nat} {g : Int} {k : Bool} : .fin neg m g k ∈ xs.filter XVal.isFin ↔ .fin neg m g k ∈ xs := by
  rw [List.mem_filter]
  exact and_iff_left rfl

theorem mcvtRow_none (h : f = .e2m1 ∨ .nan ∉ xs) (none : ∀ neg m g k, XVal.fin neg m g k ∉ xs) : mcvtRow f mode xs = mcvtCodes f mode xs 0 := by
  have empty : xs.filter XVal.isFin = [] := List.filter_eq_nil_iff.2 fun x hx => by
    cases x with
    | fin neg m g k => exact absurd hx (none neg m g k)
    | nan | inf | zero => exact Bool.false_ne_true
  rw [mcvtRow_codes h, rowScale, empty]
  rfl

theorem mcvtRow_scaled (numbers : ∀ neg m g k, .fin neg m g k ∈ xs → m ≠ 0 ∧ k = false) (h : f = .e2m1 ∨ .nan ∉ xs) {neg : Bool} {m : Nat}
    {g : Int} {k : Bool} {e : Int} (hx : XVal.fin neg m g k ∈ xs)
    (greatest : ∀ (neg' : Bool) (m' : Nat) (g' : Int) (k' : Bool), XVal.fin neg' m' g' k' ∈ xs → (m' : Rat) * 2 ^ g' ≤ (m : Rat) * 2 ^ g)
    (scale : ScaleOf (m * 2 ^ g) (gridAt f f.maxCode) e) : mcvtRow f mode xs = mcvtCodes f mode xs e := by
  have row : RowNumbers (xs.filter XVal.isFin) := fun y hy => by
    obtain ⟨member, finite⟩ := List.mem_filter.1 hy
    cases y with
    | fin neg m g k =>
      obtain ⟨hm, rfl⟩ := numbers neg m g k member
      exact ⟨neg, m, g, hm, rfl⟩
    | nan | inf | zero => exact absurd finite Bool.false_ne_true
  obtain ⟨hm, rfl⟩ := numbers neg m g k hx
  obtain ⟨-, -, origin, bounds⟩ := foldl_maxMag row (x := .zero false) (.inl rfl)
  have above := bounds neg m g (mem_isFin.2 hx)
  have positive : (0 : Rat) < m * 2 ^ g := mul_pos (by exact_mod_cast Nat.pos_of_ne_zero hm) (by positivity)
  obtain ⟨n, l, hn, top, place⟩ := decF_maxCode f
  rcases origin with zero | ⟨neg', m', g', member, greatest'⟩
  · rw [zero] at above
    exact absurd positive (not_lt.2 above)
  · have number : (m : Rat) * 2 ^ g = m' * 2 ^ g' := by
      refine le_antisymm ?_ (greatest neg' m' g' false (mem_isFin.1 member))
      rw [greatest'] at above
      simpa [XVal.number] using above
    rw [number, ← place] at scale
    have hm' : m' ≠ 0 := (numbers neg' m' g' false (mem_isFin.1 member)).1
    rw [mcvtRow_codes h]
    simp only [rowScale, greatest', top]
    refine congrArg _ <| scaleOf_unique (mul_pos (by exact_mod_cast Nat.pos_of_ne_zero hn) (by positivity)) (scaleOf_scaleExp hm' hn g' l) scale

end Row

end Sys2Proof.Machine
end

section
/-! PROOFS. The queue of the matrix unit (09 R211 to R213, R221 to R224): entering it, starting at its head, retiring in its order, and what a
retired operation leaves to its group. -/

namespace Sys2Proof.Machine
open Sys2Proof.Claims

/-! ### Entering (R211, R224) -/

section Enter
variable {s : State} {g : Group} {c : Cur} {op : MatOp} (hg : s.group? g.core g.slot = some g) (hw : g.run = .waiting (.matrixQ c op))
include hg hw

theorem matrixQueueEnter_full (room : s.matRoom op = false) : exec (.matrixQueueEnter g.core g.slot) s = .next s := by
  show execMatrixQueueEnter g.core g.slot s = _
  simp only [execMatrixQueueEnter, hg, hw, room, Bool.false_eq_true, if_false]

theorem matrixQueueEnter_room (room : s.matRoom op = true) : exec (.matrixQueueEnter g.core g.slot) s
    = .next (s.lateM c g (State.resume { s with mats := s.mats ++ [{ op with issued := s.cycle }] } c)) := by
  show execMatrixQueueEnter g.core g.slot s = _
  simp only [execMatrixQueueEnter, hg, hw, room, if_true]

end Enter

section Late
variable (s k : State) (c : Cur) {g : Group}

theorem lateM_nil (h : g.uncorrM = []) : s.lateM c g k = k := by
  simp only [State.lateM, h]

theorem lateM_cons {e : Nat × Nat} {es : List (Nat × Nat)} (h : g.uncorrM = e :: es) : s.lateM c g k
    = State.trapAt (s.setGroup { g with uncorrM := es }) c c.pc 0x0E 0 (.ofNat 64 e.1) (.ofNat 64 e.2) := by
  simp only [State.lateM, h]
  rfl

theorem lateL_nil (h : g.uncorrL = []) : s.lateL c g k = k := by
  simp only [State.lateL, h]

theorem lateL_cons {e : Nat × Nat} {es : List (Nat × Nat)} (h : g.uncorrL = e :: es) : s.lateL c g k
    = State.trapAt (s.setGroup { g with uncorrL := es }) c c.pc 0x0E 0 (.ofNat 64 e.1) (.ofNat 64 e.2) := by
  simp only [State.lateL, h]
  rfl

end Late

/-! ### Starting (R211) -/

theorem matrixOpStart_starts {s : State} {op : MatOp} (head : (s.matQueue op.core).head? = some op) (may : s.matStarts op = true) :
    let before := (s.mats.filter (·.start.isSome)).foldl (fun (t : State) o => t.write (gated o.gate o.cells)) s
    let w := (before.gateView op.gate).matWork op
    let r := s.cycle + matP op.kind + 7
    let op' := { op with start := some s.cycle, retire := r, cells := w.cells, flags := w.flags, bad := w.bad }
    let t := State.setArray { s with mats := replaceBy (·.uid == op.uid) op' s.mats } op.core (s.cycle + matP op.kind)
    exec (.matrixOpStart op.core) s = .next (if op.pairTile.isSome then t.setArray (op.core + 1) (r + 1) else t) := by
  intro before w r op' t
  show execMatrixOpStart op.core s = _
  simp only [execMatrixOpStart, head, may, bne_self_eq_false, Bool.not_true, Bool.or_self, Bool.false_eq_true, if_false]
  rfl

theorem ownBefore_iff {s : State} {core slot uid : Nat} : s.ownBefore core slot uid = true
    ↔ ¬ ∃ l ∈ s.locals, l.agent = .group core slot ∧ l.op.writes = true ∧ l.uid < uid := by
  simp [State.ownBefore, and_assoc]

theorem arrayAt_le_iff {s : State} {core n : Nat} :
    s.arrayAt core ≤ n ↔ ∀ x, (s.arrayFree.find? (·.1 == core)).map (·.2) = some x → x ≤ n := by
  unfold State.arrayAt
  cases (s.arrayFree.find? (·.1 == core)).map (·.2) <;> simp

theorem inQueue_iff {m : MatOp} {core : Nat} : m.inQueue core = true ↔ m.core = core ∨ (m.pairTile ≠ none ∧ m.core + 1 = core) := by
  simp [MatOp.inQueue, Option.isSome_iff_ne_none]

theorem matQueue_next (s : State) (core : Nat) : s.matQueue (core + 1)
    = s.mats.filter fun m => decide ((m.core = core + 1 ∨ (m.pairTile ≠ none ∧ m.core = core)) ∧ m.start = none) := by
  refine List.filter_congr fun m _ => ?_
  rw [Bool.eq_iff_iff, Bool.and_eq_true, inQueue_iff, Option.isNone_iff_eq_none, decide_eq_true_eq, Nat.add_right_cancel_iff]

theorem matStarts_iff (s : State) (op : MatOp) :
    let at_ := fun (core : Nat) => (s.arrayFree.find? (·.1 == core)).map (·.2)
    let own := ∃ l ∈ s.locals, l.agent = .group op.core op.slot ∧ l.op.writes = true ∧ l.uid < op.uid
    let first := (s.mats.filter fun m => decide ((m.core = op.core + 1 ∨ (m.pairTile ≠ none ∧ m.core = op.core)) ∧ m.start = none)).head?
    s.matStarts op = true ↔ op.issued < s.cycle ∧ (∀ n, at_ op.core = some n → n ≤ s.cycle) ∧ ¬ own
      ∧ (op.pairTile ≠ none → (∀ n, at_ (op.core + 1) = some n → n ≤ s.cycle) ∧ first.map (·.uid) = some op.uid) := by
  dsimp only
  rw [← arrayAt_le_iff, ← arrayAt_le_iff, ← ownBefore_iff, ← matQueue_next]
  simp only [State.matStarts, Bool.and_eq_true, Bool.or_eq_true, decide_eq_true_eq, beq_iff_eq, Option.isNone_iff_eq_none, and_assoc,
    ne_eq, or_iff_not_imp_left]

/-! ### Retiring (R212, R222, R224) -/

theorem matBefore_iff {s : State} {op : MatOp} {xs ys : List MatOp} (split : s.mats = xs ++ op :: ys) (other : ∀ o ∈ xs, o.uid ≠ op.uid) :
    s.matBefore op = true ↔ ∃ o ∈ xs, ∃ core, (core = op.core ∨ (op.pairTile ≠ none ∧ core = op.core + 1))
      ∧ (o.core = core ∨ (o.pairTile ≠ none ∧ o.core + 1 = core)) := by
  have earlier : s.mats.takeWhile (fun o => o.uid != op.uid) = xs := by
    rw [split, List.takeWhile_append_of_pos fun o ho => bne_iff_ne.2 (other o ho), List.takeWhile_cons_of_neg (by simp), List.append_nil]
  simp only [State.matBefore, earlier, List.any_eq_true, Bool.or_eq_true, Bool.and_eq_true, inQueue_iff, Option.isSome_iff_ne_none]
  refine exists_congr fun o => and_congr_right fun _ => ?_
  simp only [or_and_right, exists_or, and_assoc, exists_and_left, exists_eq_left]

section Retire
variable {s : State} {op : MatOp} (found : s.mats.find? (·.uid == op.uid) = some op) (started : op.start.isSome = true)
include found

theorem matrixOpRetire_stays (h : s.cycle < op.retire ∨ s.matBefore op = true) : exec (.matrixOpRetire op.uid) s = .next s := by
  show execMatrixOpRetire op.uid s = _
  have early : (op.start.isNone || decide (s.cycle < op.retire) || s.matBefore op) = true := by
    rcases h with h | h <;> simp [h]
  simp only [execMatrixOpRetire, found, early, if_true]

include started in
theorem matrixOpRetire_retires (due : op.retire ≤ s.cycle) (first : s.matBefore op = false) :
    let t := State.write { s with mats := s.mats.filter (·.uid != op.uid) } (gated op.gate op.cells)
    let t := if op.gate.isSome then t else t.lateFlags op.core op.slot op.flags
    let t := t.lateError op.core op.slot op.team op.gate.isSome op.bad
    exec (.matrixOpRetire op.uid) s = .next (State.reap ((t.mwaitDone op.core op.slot).releaseSlot op.core op.slot) op.team) := by
  show execMatrixOpRetire op.uid s = _
  have late : (op.start.isNone || decide (s.cycle < op.retire) || s.matBefore op) = false := by
    rw [first, decide_eq_false (not_lt.2 due), Option.isNone_eq_false_iff.2 started]
    rfl
  simp only [execMatrixOpRetire, found, late, Bool.false_eq_true, if_false]

end Retire

/-! ### What is left to the group (R221, R224, 10 R238, R239) -/

section Group
variable {s : State} {core slot : Nat} {g : Group} (hg : s.group? core slot = some g)

theorem ownMats_iff : s.ownMats core slot = true ↔ ∃ m ∈ s.mats, m.core = core ∧ m.slot = slot ∧ m.gate = none := by
  simp [State.ownMats, and_assoc]

theorem ownLigs_iff : s.ownLigs core slot = true ↔ ∃ m ∈ s.ligOps, m.core = core ∧ m.slot = slot ∧ m.gate = none := by
  simp [State.ownLigs, and_assoc]

include hg

theorem mwaitDone_own {c : Cur} (hw : g.run = .waiting (.mwait c)) (h : ∃ m ∈ s.mats, m.core = core ∧ m.slot = slot ∧ m.gate = none) :
    s.mwaitDone core slot = s := by
  simp only [State.mwaitDone, hg, hw, ownMats_iff.2 h, if_true]

theorem mwaitDone_last {c : Cur} (hw : g.run = .waiting (.mwait c)) (h : ∀ m ∈ s.mats, m.core = core → m.slot = slot → m.gate ≠ none) :
    s.mwaitDone core slot = s.setGroup { g with run := .ready, notBefore := s.cycle + 1 } := by
  have none : ¬ s.ownMats core slot = true := fun own => by
    obtain ⟨m, hm, hc, hs, gate⟩ := ownMats_iff.1 own
    exact h m hm hc hs gate
  simp only [State.mwaitDone, hg, hw, if_neg none, State.wake]

theorem mwaitDone_other (hw : ∀ c, g.run ≠ .waiting (.mwait c)) : s.mwaitDone core slot = s := by
  simp only [State.mwaitDone, hg]

theorem ligwaitDone_own {c : Cur} (hw : g.run = .waiting (.ligwait c)) (h : ∃ m ∈ s.ligOps, m.core = core ∧ m.slot = slot ∧ m.gate = none) :
    s.ligwaitDone core slot = s := by
  simp only [State.ligwaitDone, hg, hw, ownLigs_iff.2 h, if_true]

theorem ligwaitDone_last {c : Cur} (hw : g.run = .waiting (.ligwait c)) (h : ∀ m ∈ s.ligOps, m.core = core → m.slot = slot → m.gate ≠ none) :
    s.ligwaitDone core slot = s.setGroup { g with run := .ready, notBefore := s.cycle + 1 } := by
  have none : ¬ s.ownLigs core slot = true := fun own => by
    obtain ⟨m, hm, hc, hs, gate⟩ := ownLigs_iff.1 own
    exact h m hm hc hs gate
  simp only [State.ligwaitDone, hg, hw, if_neg none, State.wake]

theorem ligwaitDone_other (hw : ∀ c, g.run ≠ .waiting (.ligwait c)) : s.ligwaitDone core slot = s := by
  simp only [State.ligwaitDone, hg]

theorem lateFlags_group (f : Flags) : s.lateFlags core slot f = if g.run = .exited then s else s.setGroup (g.commitFlags s.cycle f) := by
  simp only [State.lateFlags, hg, beq_iff_eq]

omit hg in
theorem lateError_none (team : Nat) (old : Bool) :
    s.lateError core slot team old none = s ∧ s.lateErrorL core slot team old none = s := ⟨rfl, rfl⟩

theorem lateError_some (team : Nat) (old : Bool) (x : Nat × Nat) : s.lateError core slot team old (some x)
    = if old = false ∧ g.team = team ∧ g.run ≠ .exited then s.setGroup { g with uncorrM := g.uncorrM ++ [x] } else s.orphan g x := by
  simp only [State.lateError, hg, Bool.and_eq_true, Bool.not_eq_true', beq_iff_eq, bne_iff_ne, and_assoc]

theorem lateErrorL_some (team : Nat) (old : Bool) (x : Nat × Nat) : s.lateErrorL core slot team old (some x)
    = if old = false ∧ g.team = team ∧ g.run ≠ .exited then s.setGroup { g with uncorrL := g.uncorrL ++ [x] } else s.orphan g x := by
  simp only [State.lateErrorL, hg, Bool.and_eq_true, Bool.not_eq_true', beq_iff_eq, bne_iff_ne, and_assoc]

end Group

end Sys2Proof.Machine
end

section
/-! PROOFS. The queue of the ligature engine (10 R226, R230, R231, R233, R234, R237 to R240, R242): entering it, starting at its head,
completing, and what a fault leaves. -/

namespace Sys2Proof.Machine
open Sys2Proof.Claims

/-! ### Waiting operations (R231) -/

theorem mem_insert {o op : LigOp} {xs : List LigOp} : o ∈ op.insert xs ↔ o = op ∨ o ∈ xs := by
  induction xs with
  | nil => simp [LigOp.insert]
  | cons x xs ih =>
    unfold LigOp.insert
    split
    · simp
    · simp only [List.mem_cons, ih, or_left_comm]

theorem mem_foldr_insert {o : LigOp} {xs : List LigOp} : o ∈ xs.foldr LigOp.insert [] ↔ o ∈ xs := by
  induction xs with
  | nil => rfl
  | cons x xs ih => rw [List.foldr_cons, mem_insert, ih, List.mem_cons]

theorem mem_ligWaiters {s : State} {core : Nat} {o : LigOp} :
    o ∈ s.ligWaiters core ↔ ∃ g ∈ s.groups, g.core = core ∧ ∃ c, g.run = .waiting (.ligQ c o) := by
  simp only [State.ligWaiters, mem_foldr_insert, List.mem_filterMap, List.mem_filter, beq_iff_eq, and_assoc]
  refine exists_congr fun g => and_congr_right fun _ => and_congr_right fun _ => ?_
  split
  · next c op h => simp [h, eq_comm]
  · next h => simp only [reduceCtorEq, false_iff, not_exists]; exact fun c hc => h c o hc

theorem ligQueue_eq (s : State) (core : Nat) : s.ligQueue core = s.ligOps.filter fun o => decide (o.core = core ∧ o.start = none) := by
  refine List.filter_congr fun o _ => ?_
  rw [Bool.eq_iff_iff]
  simp

theorem ligRoom_iff {s : State} {core uid : Nat} : s.ligRoom core uid = true
    ↔ (s.ligOps.filter fun o => decide (o.core = core ∧ o.start = none)).length < 8
      ∧ ∀ o, (∃ g ∈ s.groups, g.core = core ∧ ∃ c, g.run = .waiting (.ligQ c o)) → uid ≤ o.uid := by
  simp only [State.ligRoom, ligQueue_eq, Bool.and_eq_true, decide_eq_true_eq, List.all_eq_true, mem_ligWaiters]

theorem ligIdle_iff {s : State} {core : Nat} : s.ligIdle core = true
    ↔ (s.ligOps.filter fun o => decide (o.core = core ∧ o.start = none)) = []
      ∧ (∀ o, ¬ ∃ g ∈ s.groups, g.core = core ∧ ∃ c, g.run = .waiting (.ligQ c o)) ∧ (s.lig core).freeAt ≤ s.cycle := by
  simp only [State.ligIdle, ligQueue_eq, Bool.and_eq_true, decide_eq_true_eq, List.isEmpty_iff, and_assoc]
  refine and_congr_right fun _ => and_congr_left fun _ => ?_
  rw [List.eq_nil_iff_forall_not_mem]
  simp only [mem_ligWaiters]

/-! ### Entering (R231, R233, R234, R237, R238) -/

section Enter
variable {s : State} {g : Group} {c : Cur} {op : LigOp} {t : Team} (hg : s.group? g.core g.slot = some g)
include hg

section
variable (hw : g.run = .waiting (.ligQ c op)) (ht : s.team? g.team = some t)
include hw ht

theorem ligQueueEnter_full (room : s.ligRoom g.core op.uid = false) : exec (.ligQueueEnter g.core g.slot) s = .next s := by
  show execLigQueueEnter g.core g.slot s = _
  simp only [execLigQueueEnter, hg, hw, ht, room, Bool.not_false, if_true]

/-- What an operation's instruction does now that it may enter. -/
def State.ligAgain (s : State) (c : Cur) (g : Group) (t : Team) (op : LigOp) : State :=
  match op.kind with
  | .bind .. => s.enterLig c g op.uid op.kind
  | .eval addr _ => s.ligevalAt c g t op.uid addr
  | .emit bf addr f n q _ => s.ligemitAt c g t op.uid bf addr f n q

theorem ligQueueEnter_room (room : s.ligRoom g.core op.uid = true) :
    let g' := { g with run := .ready, notBefore := s.cycle + 1 }
    let u := s.setGroup g'
    exec (.ligQueueEnter g.core g.slot) s = .next (u.ligReady c g' (u.ligAgain c g' t op)) := by
  intro g' u
  show execLigQueueEnter g.core g.slot s = _
  simp only [execLigQueueEnter, hg, hw, ht, room, Bool.not_true, Bool.false_eq_true, if_false]
  rfl

end

theorem ligclrClear_idle (hw : g.run = .waiting (.ligclr c)) (idle : s.ligIdle g.core = true) :
    exec (.ligclrClear g.core g.slot) s = .next (State.resume (s.clearLig g.core) c) := by
  show execLigclrClear g.core g.slot s = _
  simp only [execLigclrClear, hg, hw, idle, if_true]

end Enter

section Ready
variable {s : State} (c : Cur) {g : Group} (k : State)

theorem ligReady_faulted {f : LigFault} (h : (s.lig g.core).fault = some f) : s.ligReady c g k = s.ligTrap c g.core g.slot f := by
  simp only [State.ligReady, h]

theorem ligReady_sound (h : (s.lig g.core).fault = none) : s.ligReady c g k = s.lateL c g k := by
  simp only [State.ligReady, h]

end Ready

/-- What the issue of an operation does to its engine. -/
theorem issue_earlier {e : LigEngine} {op : LigOp} (h : op.uid < e.marked) : e.issue op = e := if_pos h

theorem issue_later {e : LigEngine} {op : LigOp} (h : e.marked ≤ op.uid) : e.issue op = match op.kind with
    | .bind c n p base => { e with bound := some (c, n, p, base), mark := 0, marked := op.uid }
    | .eval _ hi => { e with mark := max e.mark hi }
    | .emit .. => e := if_neg (not_lt.2 h)

/-! ### Starting (R231, R242) -/

@[simp] theorem freshLig_cycle (s : State) (core : Nat) (op : LigOp) : (s.freshLig core op).cycle = s.cycle := by
  unfold State.freshLig
  split <;> rfl

section Start
variable {s : State} {core : Nat} {op : LigOp}

theorem freshLig_same (h : (s.lig core).stale = false ∨ op.gate ≠ none) : s.freshLig core op = s := by
  refine if_neg fun both => ?_
  simp only [Bool.and_eq_true, Option.isNone_iff_eq_none] at both
  exact h.elim (by simp [both.1]) (· both.2)

theorem freshLig_clears (stale : (s.lig core).stale = true) (own : op.gate = none) : s.freshLig core op = { s with
    mem := s.mem.filter fun x => !(decide (valueKey core 0 ≤ x.1) && decide (x.1 < valueKey core 16384))
    poison := s.poison.filter fun w => !(decide (valueKey core 0 ≤ 8 * w) && decide (8 * w < valueKey core 16384))
    ligs := s.ligs.map fun (e : LigEngine) => if e.core == core then { e with run := none, levels := [], stale := false } else e } :=
  if_pos (by rw [stale, own]; rfl)

/-- The start of an operation by its kind. -/
def State.startLig (s : State) (op : LigOp) : State × LigOp :=
  match op.kind with
  | .bind c n p base => s.startBind op (c, n, p, base)
  | .eval sheet _ => s.startEval op sheet
  | .emit bf dst first count pitch cols => s.startEmit op bf dst first count pitch cols

theorem ligOpStart_starts (head : (s.ligQueue op.core).head? = some op) (issued : op.issued < s.cycle) (free : (s.lig op.core).freeAt ≤ s.cycle)
    (own : s.ownBefore op.core op.slot op.uid = true) :
    let r := (s.freshLig op.core op).startLig op
    exec (.ligOpStart op.core) s = .next { r.1 with ligOps := replaceBy (·.uid == op.uid) { r.2 with start := some s.cycle } r.1.ligOps } := by
  show execLigOpStart op.core s = _
  have now : (decide (s.cycle ≤ op.issued) || decide (s.cycle < (s.lig op.core).freeAt) || !s.ownBefore op.core op.slot op.uid) = false := by
    rw [own, decide_eq_false (not_le.2 issued), decide_eq_false (not_lt.2 free)]
    rfl
  simp only [execLigOpStart, head, now, Bool.false_eq_true, if_false, freshLig_cycle]
  rfl

end Start

/-! ### Completing (R237, R238, R242) -/

/-- Memory, flags and late error of an operation that completes. -/
def State.ligResults (s : State) (op : LigOp) : State :=
  let t := State.write { s with ligOps := s.ligOps.filter (·.uid != op.uid) } (gated op.gate op.cells)
  let t := if op.gate.isSome then t else t.lateFlags op.core op.slot op.flags
  t.lateErrorL op.core op.slot op.team op.gate.isSome op.bad

/-- What follows, with the fault if there is one. -/
def State.ligEnds (s : State) (op : LigOp) : State :=
  State.reap (((s.ligwaitDone op.core op.slot).freeOldLig op.core op.team).releaseSlot op.core op.slot) op.team

section Complete
variable {s : State} {op : LigOp} (found : s.ligOps.find? (·.uid == op.uid) = some op) (started : op.start.isSome = true)
  (due : op.finish ≤ s.cycle)
include found started due

theorem ligOpComplete_eq : exec (.ligOpComplete op.uid) s = .next (State.ligEnds (match op.fault with
    | some f => if op.gate.isSome then (s.ligResults op).oldLigFault op f else (s.ligResults op).ligFault op f
    | none => s.ligResults op) op) := by
  show execLigOpComplete op.uid s = _
  have now : (op.start.isNone || decide (s.cycle < op.finish)) = false := by
    rw [decide_eq_false (not_lt.2 due), Option.isNone_eq_false_iff.2 started]
    rfl
  simp only [execLigOpComplete, found, now, Bool.false_eq_true, if_false]
  rfl

end Complete

theorem freeOldLig_kept {s : State} {core team : Nat} (h : ¬ ((∃ e ∈ s.ligs, e.core = core ∧ e.team = some team) ∧ (∀ o ∈ s.ligOps, o.core ≠ core)
    ∧ ∃ t, s.team? team = some t ∧ t.krec.lig = false)) : s.freeOldLig core team = s := by
  refine if_neg fun last => h ?_
  simpa [Option.any_eq_true, and_assoc] using last

theorem freeOldLig_freed {s : State} {core team : Nat} (h : (∃ e ∈ s.ligs, e.core = core ∧ e.team = some team) ∧ (∀ o ∈ s.ligOps, o.core ≠ core)
    ∧ ∃ t, s.team? team = some t ∧ t.krec.lig = false) :
    s.freeOldLig core team = { s.clearLig core with ligs := s.ligs.filter (·.core != core) } := by
  have others : (s.clearLig core).ligs.filter (·.core != core) = s.ligs.filter (·.core != core) := by
    simp only [State.clearLig]
    induction s.ligs with
    | nil => rfl
    | cons e es ih =>
      rw [List.map_cons, List.filter_cons, List.filter_cons, ih]
      by_cases here : e.core = core <;> simp [here, LigEngine.cleared]
  refine (if_pos ?_).trans (congrArg (fun es => { s.clearLig core with ligs := es }) others)
  simpa [Option.any_eq_true, and_assoc] using h

/-! ### Faults (R237, R242) -/

@[simp] theorem setLig_group? (s : State) (e : LigEngine) (core slot : Nat) : (s.setLig e).group? core slot = s.group? core slot := rfl

/-- The slots and places that discarded operations held are given up. -/
def State.freesAll (s : State) (gone : List LigOp) : State := gone.foldl (fun s o => (s.releaseSlot o.core o.slot).reap o.team) s

/-- The waiting groups of an operation's team take the cause. -/
def State.ligTraps (s : State) (op : LigOp) (f : LigFault) : State :=
  (s.groups.filter fun g => g.core == op.core && g.team == op.team).foldl (fun s g =>
    match g.run with
    | .waiting (.ligwait c) => s.ligTrap c g.core g.slot f
    | .waiting (.ligQ c _) => s.ligTrap c g.core g.slot f
    | _ => s) s

theorem ligTraps_eq (s : State) (op : LigOp) (f : LigFault) : (s.groups.filter fun g => g.core == op.core && g.team == op.team).foldl (fun s g =>
    match g.ligCur with
    | some c => s.ligTrap c g.core g.slot f
    | none => s) s = s.ligTraps op f := by
  refine congrArg (List.foldl · s _) (funext₂ fun s g => ?_)
  unfold Group.ligCur
  generalize g.run = r
  cases r with
  | waiting w => cases w <;> rfl
  | ready | trapped | saving | exited => rfl

section Fault
variable (s : State) (op : LigOp) (f : LigFault)

/-- The machine with the queue discarded and the engine faulted. -/
def State.faulted : State :=
  State.setLig { s with ligOps := s.ligOps.filter fun o => !decide (o.core = op.core ∧ o.start = none) }
    { s.lig op.core with fault := some f, faultBy := some op.slot }

theorem ligFault_eq : s.ligFault op f = State.freesAll (State.ligTraps (
    if (s.group? op.core op.slot).any (fun g => g.team == op.team && g.run != .exited) then s.faulted op f else
      match s.group? op.core op.slot with
      | some g => (s.faulted op f).orphanLig g
      | none => s.faulted op f) op f) (s.ligOps.filter fun o => decide (o.core = op.core ∧ o.start = none)) := by
  have discarded : (s.ligOps.filter fun o => !(o.core == op.core && o.start.isNone))
      = s.ligOps.filter fun o => !decide (o.core = op.core ∧ o.start = none) := by
    refine List.filter_congr fun o _ => congrArg not ?_
    rw [Bool.eq_iff_iff]
    simp
  simp only [State.ligFault, ligQueue_eq, discarded]
  exact congrArg (State.freesAll · _) (ligTraps_eq _ op f)

theorem oldLigFault_eq {g : Group} (hg : s.group? op.core op.slot = some g) :
    let gone := s.ligOps.filter fun o => decide (o.core = op.core ∧ o.start = none) && o.gate.isSome
    let v : State := { s with ligOps := s.ligOps.filter fun o => !(decide (o.core = op.core ∧ o.start = none) && o.gate.isSome) }
    s.oldLigFault op f = (v.orphanFault g f).freesAll gone := by
  have queued (o : LigOp) : (o.core == op.core && o.start.isNone) = decide (o.core = op.core ∧ o.start = none) := by
    rw [Bool.eq_iff_iff]
    simp
  have found (q : List LigOp) : ({ s with ligOps := q } : State).group? op.core op.slot = some g := hg
  simp only [State.oldLigFault, ligQueue_eq, List.filter_filter, queued, found, Bool.and_comm]
  rfl

theorem orphanFault_uncorr (g : Group) (h : f.cause = 0x0E) : s.orphanFault g f = s.nostop g 0x17 (.ofNat 64 f.c.toNat)
    (.ofNat 64 (f.d.toNat + 2 ^ 48 * (((s.team? g.team).map (·.num)).getD 0 / 2 ^ 16 % 2 ^ 16))) := if_pos h

omit s op f in
/-- The high part of a word with a free low part. -/
theorem free_low_part (x : DWord) {q : Nat} (hq : q < 2 ^ 16) : (x &&& 3 ||| BitVec.ofNat 64 (2 ^ 48 * q)).toNat / 2 ^ 48 = q := by
  have low : (x &&& 3).toNat < 2 ^ 48 := by
    rw [BitVec.toNat_and]
    exact Nat.and_le_right.trans_lt (by decide)
  have high : (BitVec.ofNat 64 (2 ^ 48 * q)).toNat = 2 ^ 48 * q := by
    rw [BitVec.toNat_ofNat, Nat.mod_eq_of_lt (by omega)]
  rw [BitVec.toNat_or, high, ← Nat.shiftRight_eq_div_pow, Nat.shiftRight_or_distrib, Nat.shiftRight_eq_div_pow, Nat.shiftRight_eq_div_pow,
    Nat.div_eq_of_lt low, Nat.mul_div_cancel_left _ (by decide), Nat.zero_or]

theorem orphanFault_free (g : Group) (h : f.cause ≠ 0x0E) : ∃ x y : DWord, s.orphanFault g f = s.freeWord.2.nostop g 0x17 x y
    ∧ y.toNat / 2 ^ 48 = ((s.team? g.team).map (·.num)).getD 0 / 2 ^ 16 % 2 ^ 16 := by
  exact ⟨_, _, if_neg h, free_low_part _ (Nat.mod_lt _ (by decide))⟩

theorem orphanLig_owed {g : Group} {e : LigEngine}
    (found : s.ligs.find? (fun e => e.core == g.core && e.team == some g.team && e.faultBy == some g.slot) = some e) (fault : e.fault = some f) :
    s.orphanLig g = State.orphanFault { s with ligs := s.ligs.map fun (e : LigEngine) =>
      if e.core == g.core then { e with faultBy := none } else e } g f := by
  simp only [State.orphanLig, found, Option.bind_some, fault]

end Fault

end Sys2Proof.Machine
end

section
/-! PROOFS. The operations of the ligature engine (02 R57, 10 R228, R230, R231, R235, R236): sums over terms, the checks of a ligature in their
order, the run over a sheet, and what a LIGEMIT copies. -/

namespace Sys2Proof.Machine
open Sys2Proof.Claims

/-! ### Sums of a ligature (R57) -/

theorem termSize_eq (tfmt : Nat) : termSize tfmt = if tfmt = 0 then 4 else if tfmt = 2 then 2 else 1 := by
  unfold termSize
  split
  · rfl
  · rfl
  · next h0 h2 => rw [if_neg h0, if_neg h2]

theorem badAt_sound {s : State} {key n : Nat} (h : s.poisoned key n = false) : s.badAt key n = none := by
  rw [State.badAt, h]
  rfl

theorem badAt_isSome (s : State) (key n : Nat) : (s.badAt key n).isSome = s.poisoned key n := by
  unfold State.badAt
  cases s.poisoned key n <;> rfl

theorem badAt_eq_none_iff {s : State} {key n : Nat} : s.badAt key n = none ↔ s.poisoned key n = false := by
  rw [← badAt_isSome, Option.isSome_eq_false_iff, Option.isNone_iff_eq_none]

section Sum
variable (s : State) (core cols c tfmt inKey : Nat)

/-- A bad word met earlier stays. -/
theorem ligSum_bad (ws : List Nat) (tk acc : Nat) (fl : Flags) (x : Nat × Nat) :
    (s.ligSum core cols c tfmt inKey ws tk acc fl (some x)).2.2 = some x := by
  induction ws generalizing tk acc fl with
  | nil => rfl
  | cons w ws ih =>
    unfold State.ligSum
    split <;> exact ih ..

variable {w tk : Nat} (ws : List Nat) (acc : Nat) (fl : Flags)

theorem ligSum_term (h : w / 2 ^ 30 = 0) (value : s.poisoned tk (termSize tfmt) = false) (input : s.poisoned (inKey + 4 * (w % 2 ^ 20)) 4 = false) :
    let r := ligAdd acc (mulX (decF (efmtFloat tfmt) (s.le tk (termSize tfmt))) (decF .f32 (s.le (inKey + 4 * (w % 2 ^ 20)) 4)))
    s.ligSum core cols c tfmt inKey (w :: ws) tk acc fl none = s.ligSum core cols c tfmt inKey ws (tk + termSize tfmt) r.1 (fl ||| r.2) none := by
  intro r
  simp only [State.ligSum, h, if_true, fld_low, badAt_sound value, badAt_sound input, Option.or_none]
  rfl

theorem ligSum_reference (h : w / 2 ^ 30 ≠ 0) (value : s.poisoned (ligKey core cols c (w % 2 ^ 14)) 4 = false) :
    let r := ligAdd acc (decF .f32 (s.le (ligKey core cols c (w % 2 ^ 14)) 4), fNone)
    s.ligSum core cols c tfmt inKey (w :: ws) tk acc fl none = s.ligSum core cols c tfmt inKey ws tk r.1 (fl ||| r.2) none := by
  intro r
  simp only [State.ligSum, h, if_false, fld_low, badAt_sound value, Option.or_none]
  rfl

theorem ligSum_poisoned (h : (w / 2 ^ 30 = 0 ∧ (s.poisoned tk (termSize tfmt) = true ∨ s.poisoned (inKey + 4 * (w % 2 ^ 20)) 4 = true))
    ∨ (w / 2 ^ 30 ≠ 0 ∧ s.poisoned (ligKey core cols c (w % 2 ^ 14)) 4 = true)) :
    (s.ligSum core cols c tfmt inKey (w :: ws) tk acc fl none).2.2 ≠ none := by
  have kept {bad : Option (Nat × Nat)} (some : bad ≠ none) (ws : List Nat) (tk acc : Nat) (fl : Flags) :
      (s.ligSum core cols c tfmt inKey ws tk acc fl bad).2.2 ≠ none := by
    obtain ⟨x, rfl⟩ := Option.ne_none_iff_exists'.1 some
    simp [ligSum_bad]
  unfold State.ligSum
  rcases h with ⟨term, bad⟩ | ⟨reference, bad⟩
  · rw [if_pos term]
    refine kept (bad := Option.or none _) ?_ _ _ _ _
    simpa [badAt_eq_none_iff, fld_low, or_iff_not_imp_left] using bad
  · rw [if_neg reference]
    refine kept (bad := Option.or none _) ?_ _ _ _ _
    simpa [badAt_eq_none_iff, fld_low] using bad

end Sum

/-! ### The items of a ligature (R228, R235) -/

/-- An item word without a reserved bit or kind. -/
def ItemForm (w : Nat) : Prop := w / 2 ^ 30 < 2 ∧ (w / 2 ^ 30 = 0 → w / 2 ^ 20 % 2 ^ 10 = 0) ∧ (w / 2 ^ 30 = 1 → w / 2 ^ 14 % 2 ^ 16 = 0)

theorem reserved_iff (w : Nat) :
    (decide (2 ≤ w / 2 ^ 30) || (w / 2 ^ 30 == 0 && fld w 20 10 != 0) || (w / 2 ^ 30 == 1 && fld w 14 16 != 0)) = true ↔ ¬ ItemForm w := by
  simp only [Bool.or_eq_true, Bool.and_eq_true, decide_eq_true_eq, beq_iff_eq, bne_iff_ne, fld, ItemForm]
  omega

section Items
variable {items : List Nat}

theorem badItem_none (h : ∀ i < items.length, ItemForm (items.getD i 0)) : badItem items = none := by
  rw [badItem, List.findIdx?_eq_none_iff]
  intro w hw
  obtain ⟨i, hi, rfl⟩ := List.mem_iff_getElem.1 hw
  have := h i hi
  rw [List.getD_eq_getElem _ _ hi] at this
  exact Bool.eq_false_iff.2 fun bad => (reserved_iff _).1 bad this

theorem badItem_first {i : Nat} (hi : i < items.length) (bad : ¬ ItemForm (items.getD i 0)) (first : ∀ k < i, ItemForm (items.getD k 0)) :
    badItem items = some i := by
  rw [badItem, List.findIdx?_eq_some_iff_getElem]
  rw [List.getD_eq_getElem _ _ hi] at bad
  refine ⟨hi, (reserved_iff _).2 bad, fun k hk reserved => ?_⟩
  have := first k hk
  rw [List.getD_eq_getElem _ _ (hk.trans hi)] at this
  exact (reserved_iff _).1 reserved this

variable {n cap lev : Nat} {levels : List (Nat × Nat)}

/-- The level of a referenced value and one more, 0 where there is none. -/
def levelAfter (levels : List (Nat × Nat)) (w : Nat) : Nat := ((levels.find? fun p => p.1 == w % 2 ^ 14).map (·.2 + 1)).getD 0

theorem itemCheck_fault {w cause : Nat} (h : itemFault n cap lev levels w = some cause) : itemCheck n cap lev levels w = .error cause := by
  unfold itemFault at h
  simp only [itemCheck, fld_low]
  split at h
  · next term =>
    rw [if_pos term]
    split at h
    · next out => rw [if_pos out, ← Option.some.inj h]; rfl
    · cases h
  · next reference =>
    rw [if_neg reference]
    split at h
    · next out => rw [if_pos out, ← Option.some.inj h]; rfl
    · next inside =>
      rw [if_neg inside]
      split at h
      · rw [← Option.some.inj h]; rfl
      · next p found =>
        split at h
        · next deep => rw [if_pos deep, ← Option.some.inj h]; rfl
        · next shallow =>
          rw [if_neg shallow]
          split at h
          · next high => rw [if_pos high, ← Option.some.inj h]; rfl
          · cases h

theorem itemCheck_sound {w : Nat} (h : itemFault n cap lev levels w = none) : itemCheck n cap lev levels w
    = .ok (if w / 2 ^ 30 = 0 then -1 else (levelAfter levels w : Int) - 1) := by
  unfold itemFault at h
  simp only [itemCheck, fld_low, levelAfter]
  split at h
  · next term =>
    rw [if_pos term, if_pos term]
    split at h
    · cases h
    · next inside => rw [if_neg inside]
  · next reference =>
    rw [if_neg reference, if_neg reference]
    split at h
    · cases h
    · next inside =>
      rw [if_neg inside]
      split at h
      · cases h
      · next p found =>
        simp only [found]
        split at h
        · cases h
        · next shallow =>
          rw [if_neg shallow]
          split at h
          · cases h
          · next low => rw [if_neg low]; simp

theorem itemsCheck_fault {i cause : Nat} (hi : i < items.length) (fault : itemFault n cap lev levels (items.getD i 0) = some cause)
    (first : ∀ k < i, itemFault n cap lev levels (items.getD k 0) = none) (k : Nat) (top : Int) :
    itemsCheck n cap lev levels k items top = .error (k + i, cause) := by
  induction items generalizing i k top with
  | nil => exact absurd hi (Nat.not_lt_zero i)
  | cons w ws ih =>
    unfold itemsCheck
    cases i with
    | zero =>
      rw [itemCheck_fault (w := w) fault]
      rfl
    | succ i =>
      rw [itemCheck_sound (w := w) (first 0 (Nat.succ_pos i))]
      exact (ih (Nat.lt_of_succ_lt_succ hi) fault (fun k hk => first (k + 1) (Nat.succ_lt_succ hk)) (k + 1) _).trans
        (by rw [Nat.add_assoc, Nat.add_comm 1])

theorem itemsCheck_sound (sound : ∀ w ∈ items, itemFault n cap lev levels w = none) (k top : Nat) :
    itemsCheck n cap lev levels k items ((top : Int) - 1)
      = .ok ((((items.filter fun w => w / 2 ^ 30 != 0).map (levelAfter levels)).foldl max top : Nat) - 1) := by
  induction items generalizing k top with
  | nil => rfl
  | cons w ws ih =>
    have rest := ih fun x hx => sound x (List.mem_cons_of_mem _ hx)
    unfold itemsCheck
    rw [itemCheck_sound (sound w List.mem_cons_self)]
    by_cases term : w / 2 ^ 30 = 0
    · simp only [term, if_true]
      rw [if_neg (by omega), rest (k + 1) top, List.filter_cons_of_neg (by simpa using term)]
    · simp only [term, if_false]
      rw [List.filter_cons_of_pos (by simpa using term), List.map_cons, List.foldl_cons, ← rest (k + 1)]
      congr 1
      split <;> omega

end Items

/-! ### One ligature (R235) -/

theorem le_lt (s : State) (a n : Nat) : s.le a n < 2 ^ (8 * n) := by
  unfold State.le
  induction n generalizing a with
  | zero => exact Nat.one_pos
  | succ n ih =>
    have byte := (s.byte a).isLt
    have rest := ih (a + 1)
    rw [State.bytes, leNat, Nat.mul_succ, Nat.pow_add]
    omega

section One
variable (v : LigEval) (core fk sheet tfmt base hi bytes j : Nat) (bnd : Nat × Nat × Nat × Nat)

/-- The header of a ligature, its number of items, its level and its items. -/
def LigEval.head (v : LigEval) (fk sheet : Nat) : Nat := v.st.le (fk + sheet + v.pos) 4
def LigEval.itemCount (v : LigEval) (fk sheet : Nat) : Nat := v.head fk sheet % 2 ^ 12
def LigEval.level (v : LigEval) (fk sheet : Nat) : Nat := v.head fk sheet / 2 ^ 28
def LigEval.items (v : LigEval) (fk sheet : Nat) : List Nat :=
  (List.range (v.itemCount fk sheet)).map fun i => v.st.le (fk + sheet + v.pos + 4 + 4 * i) 4

/-- The bytes of a ligature. -/
def LigEval.size (v : LigEval) (fk sheet tfmt : Nat) : Nat :=
  4 + 4 * v.itemCount fk sheet + 4 * ((((v.items fk sheet).filter fun w => w / 2 ^ 30 == 0).length
    * (if tfmt = 0 then 4 else if tfmt = 2 then 2 else 1) + 3) / 4)

/-- A stop with a cause, a number of cycles into the items. -/
def LigEval.stops (v : LigEval) (sheet j cause item cycles : Nat) : LigEval :=
  { v with cycle := v.cycle + 1 + cycles, fault := some { cause := cause, c := .ofNat 64 (sheet + 2 ^ 32 * j + 2 ^ 46 * item), d := 0 } }

/-- The bytes of a ligature pass the end of its sheet, or its header has a reserved bit. -/
def LigEval.Short (v : LigEval) (fk sheet tfmt bytes : Nat) : Prop :=
  bytes < v.pos + 4 + 4 * v.itemCount fk sheet ∨ bytes < v.pos + v.size fk sheet tfmt ∨ v.head fk sheet / 2 ^ 12 % 2 ^ 16 ≠ 0

/-- The sum of a column, with its flags and an uncorrectable word that went into it. -/
def LigEval.sum (v : LigEval) (core fk sheet tfmt : Nat) (bnd : Nat × Nat × Nat × Nat) (c : Nat) : Nat × Flags × Option (Nat × Nat) :=
  v.st.ligSum core bnd.1 c tfmt (fk + bnd.2.2.2 + c * bnd.2.2.1) (v.items fk sheet)
    (fk + sheet + v.pos + 4 + 4 * v.itemCount fk sheet) 0x80000000 fNone none

/-- A ligature that passes its checks is evaluated. -/
def LigEval.evaluated (v : LigEval) (core fk sheet tfmt base j : Nat) (bnd : Nat × Nat × Nat × Nat) : LigEval :=
  let sum := v.sum core fk sheet tfmt bnd
  let writes := (List.range bnd.1).flatMap fun c =>
    cellsLE (valueKey core (c * (16384 / bnd.1) + (base + j))) 4 (if (sum c).2.2 = none then (sum c).1 else 0x7FC00000)
  { v with
    st := v.st.write writes, out := v.out ++ writes, levels := (base + j, v.level fk sheet) :: v.levels.filter (·.1 != base + j)
    pos := v.pos + v.size fk sheet tfmt, prev := v.level fk sheet, cycle := v.cycle + 1 + v.itemCount fk sheet
    flags := v.flags ||| orFlags ((List.range bnd.1).map fun c => if (sum c).2.2 = none then (sum c).2.1 else fNone)
    late := v.late.or ((List.range bnd.1).findSome? fun c => (sum c).2.2) }

/-- The checks of a ligature from its items' forms on, in their order. -/
def LigEval.judged (v : LigEval) (core fk sheet tfmt base hi j : Nat) (bnd : Nat × Nat × Nat × Nat) : LigEval :=
  match badItem (v.items fk sheet) with
  | some i => v.stops sheet j 0x0A (i + 1) (i + 1)
  | none =>
    if v.level fk sheet < v.prev ∨ hi < v.level fk sheet then v.stops sheet j 0x0C 0 0
    else
      match itemsCheck bnd.2.1 (16384 / bnd.1) (v.level fk sheet) v.levels 0 (v.items fk sheet) (-1) with
      | .error e => v.stops sheet j e.2 (e.1 + 1) (e.1 + 1)
      | .ok top => if (v.level fk sheet : Int) ≠ top + 1 then v.stops sheet j 0x0D 0 (v.itemCount fk sheet)
        else v.evaluated core fk sheet tfmt base j bnd

theorem items_length : (v.items fk sheet).length = v.itemCount fk sheet := by
  rw [LigEval.items, List.length_map, List.length_range]

section
variable {v fk sheet tfmt bytes}

theorem one_ends (h : bytes < v.pos + 4) : v.one core fk sheet tfmt base hi bytes j bnd = v.stops sheet j 0x0A 0 0 := by
  simp only [LigEval.one, if_pos h]
  rfl

variable (room : v.pos + 4 ≤ bytes)
include room

theorem one_bad_head (bad : v.st.poisoned (fk + sheet + v.pos) 4 = true) :
    (v.one core fk sheet tfmt base hi bytes j bnd).fault.map (·.cause) = some 0x0E := by
  simp only [LigEval.one, if_neg (not_lt.2 room), bad, if_true]
  rfl

variable (sound : v.st.poisoned (fk + sheet + v.pos) 4 = false)
include sound

omit room sound in
theorem fld_level (s : State) (a : Nat) : fld (s.le a 4) 28 4 = s.le a 4 / 2 ^ 28 :=
  Nat.mod_eq_of_lt (Nat.div_lt_of_lt_mul (le_lt s a 4))

theorem one_short (short : v.Short fk sheet tfmt bytes) : v.one core fk sheet tfmt base hi bytes j bnd = v.stops sheet j 0x0A 0 0 := by
  simp only [LigEval.one, if_neg (not_lt.2 room), sound, Bool.false_eq_true, if_false, fld_low, words_eq_map, termSize_eq]
  exact if_pos short

variable (whole : ¬ v.Short fk sheet tfmt bytes)
include whole

/-- A ligature that is whole faults at its first uncorrectable item word, or is judged by its items. -/
theorem one_whole : v.one core fk sheet tfmt base hi bytes j bnd
    = ((List.range (v.itemCount fk sheet)).find? fun i => v.st.poisoned (fk + sheet + v.pos + 4 + 4 * i) 4).elim
        (v.judged core fk sheet tfmt base hi j bnd) fun i =>
          let place := badPlace (fk + sheet + v.pos + 4 + 4 * i)
          { v with cycle := v.cycle + 1 + (i + 1), fault := some { cause := 0x0E, c := .ofNat 64 place.1, d := .ofNat 64 place.2 } } := by
  have lost {α : Type} (o : Option (Nat × Nat)) (a b : α) : (if o.isSome = true then a else b) = if o = none then b else a := by
    cases o <;> rfl
  simp only [LigEval.one, if_neg (not_lt.2 room), sound, Bool.false_eq_true, if_false, fld_low, words_eq_map, termSize_eq]
  refine (if_neg whole).trans ?_
  rw [show v.itemCount fk sheet = v.st.le (fk + sheet + v.pos) 4 % 2 ^ 12 from rfl]
  cases (List.range (v.st.le (fk + sheet + v.pos) 4 % 2 ^ 12)).find? fun i => v.st.poisoned (fk + sheet + v.pos + 4 + 4 * i) 4 with
  | some i => rfl
  | none =>
    simp only [Option.elim, fld_level, State.ligColumns, List.flatMap_map, List.map_map, List.findSome?_map, Function.comp_def, lost]
    rfl

theorem one_bad_item (bad : ∃ i < v.itemCount fk sheet, v.st.poisoned (fk + sheet + v.pos + 4 + 4 * i) 4 = true) :
    (v.one core fk sheet tfmt base hi bytes j bnd).fault.map (·.cause) = some 0x0E := by
  obtain ⟨i, item, poisoned⟩ := bad
  have some := (List.find?_isSome (p := fun i => v.st.poisoned (fk + sheet + v.pos + 4 + 4 * i) 4)).2 ⟨i, List.mem_range.2 item, poisoned⟩
  obtain ⟨k, found⟩ := Option.isSome_iff_exists.1 some
  rw [one_whole core base hi j bnd room sound whole, found]
  rfl

theorem one_judged (items : ∀ i < v.itemCount fk sheet, v.st.poisoned (fk + sheet + v.pos + 4 + 4 * i) 4 = false) :
    v.one core fk sheet tfmt base hi bytes j bnd = v.judged core fk sheet tfmt base hi j bnd := by
  have clean : ((List.range (v.itemCount fk sheet)).find? fun i => v.st.poisoned (fk + sheet + v.pos + 4 + 4 * i) 4) = none :=
    List.find?_eq_none.2 fun i hi => by rw [items i (List.mem_range.1 hi)]; exact Bool.false_ne_true
  rw [one_whole core base hi j bnd room sound whole, clean]
  rfl

end

/-! ### The checks of a ligature's items (R235) -/

section Judged
variable {v fk sheet}

theorem judged_bad_item {i : Nat} (item : i < v.itemCount fk sheet) (bad : ¬ ItemForm ((v.items fk sheet).getD i 0))
    (first : ∀ k < i, ItemForm ((v.items fk sheet).getD k 0)) :
    v.judged core fk sheet tfmt base hi j bnd = v.stops sheet j 0x0A (i + 1) (i + 1) := by
  rw [LigEval.judged, badItem_first ((items_length v fk sheet).symm ▸ item) bad first]

variable (formed : ∀ i < v.itemCount fk sheet, ItemForm ((v.items fk sheet).getD i 0))
include formed

theorem judged_formed : v.judged core fk sheet tfmt base hi j bnd =
    if v.level fk sheet < v.prev ∨ hi < v.level fk sheet then v.stops sheet j 0x0C 0 0
    else
      match itemsCheck bnd.2.1 (16384 / bnd.1) (v.level fk sheet) v.levels 0 (v.items fk sheet) (-1) with
      | .error e => v.stops sheet j e.2 (e.1 + 1) (e.1 + 1)
      | .ok top => if (v.level fk sheet : Int) ≠ top + 1 then v.stops sheet j 0x0D 0 (v.itemCount fk sheet)
        else v.evaluated core fk sheet tfmt base j bnd := by
  rw [LigEval.judged, badItem_none fun i hi => formed i (items_length v fk sheet ▸ hi)]

theorem judged_level (h : v.level fk sheet < v.prev ∨ hi < v.level fk sheet) :
    v.judged core fk sheet tfmt base hi j bnd = v.stops sheet j 0x0C 0 0 := by
  rw [judged_formed core tfmt base hi j bnd formed, if_pos h]

variable {hi : Nat} (low : v.prev ≤ v.level fk sheet) (high : v.level fk sheet ≤ hi)
include low high

theorem judged_fault {i cause : Nat} (item : i < v.itemCount fk sheet)
    (fault : itemFault bnd.2.1 (16384 / bnd.1) (v.level fk sheet) v.levels ((v.items fk sheet).getD i 0) = some cause)
    (first : ∀ k < i, itemFault bnd.2.1 (16384 / bnd.1) (v.level fk sheet) v.levels ((v.items fk sheet).getD k 0) = none) :
    v.judged core fk sheet tfmt base hi j bnd = v.stops sheet j cause (i + 1) (i + 1) := by
  rw [judged_formed core tfmt base hi j bnd formed, if_neg (not_or.2 ⟨not_lt.2 low, not_lt.2 high⟩),
    itemsCheck_fault ((items_length v fk sheet).symm ▸ item) fault first, Nat.zero_add]

/-- The level that a ligature's references ask for. -/
def LigEval.need (v : LigEval) (fk sheet : Nat) : Nat := maxL (((v.items fk sheet).filter fun w => w / 2 ^ 30 != 0).map (levelAfter v.levels))

theorem judged_sound (sound : ∀ i < v.itemCount fk sheet,
      itemFault bnd.2.1 (16384 / bnd.1) (v.level fk sheet) v.levels ((v.items fk sheet).getD i 0) = none) :
    v.judged core fk sheet tfmt base hi j bnd = if v.level fk sheet ≠ v.need fk sheet then v.stops sheet j 0x0D 0 (v.itemCount fk sheet)
      else v.evaluated core fk sheet tfmt base j bnd := by
  have all : ∀ w ∈ v.items fk sheet, itemFault bnd.2.1 (16384 / bnd.1) (v.level fk sheet) v.levels w = none := by
    intro w hw
    obtain ⟨i, item, rfl⟩ := List.mem_iff_getElem.1 hw
    rw [← List.getD_eq_getElem _ 0 item]
    exact sound i (items_length v fk sheet ▸ item)
  have top : itemsCheck bnd.2.1 (16384 / bnd.1) (v.level fk sheet) v.levels 0 (v.items fk sheet) (-1) = .ok ((v.need fk sheet : Int) - 1) :=
    itemsCheck_sound all 0 0
  rw [judged_formed core tfmt base hi j bnd formed, if_neg (not_or.2 ⟨not_lt.2 low, not_lt.2 high⟩), top]
  simp only [sub_add_cancel, ne_eq, Nat.cast_inj]

end Judged

theorem ligatureFollowsR235 : LigatureFollowsR235 v core fk sheet tfmt base hi bytes j bnd := by
  refine ⟨one_ends core base hi j bnd, one_bad_head core base hi j bnd,
    fun room clean => ⟨fun short => ?short, fun long bad => ?item,
      fun long sound => ⟨fun i item bad first => ?form,
        fun formed => ⟨fun order => ?order,
          fun low high => ⟨fun i item cause fault first => ?fault, fun sane => ⟨fun other => ?depth, fun same => ?result⟩⟩⟩⟩⟩⟩
  case short => exact one_short core base hi j bnd room clean (or_left_comm.1 short)
  case item => exact one_bad_item core base hi j bnd room clean (mt or_left_comm.1 long) bad
  all_goals have judged := one_judged core base hi j bnd room clean (mt or_left_comm.1 long) sound
  case form => exact judged.trans (judged_bad_item core tfmt base hi j bnd item bad first)
  case order => exact judged.trans (judged_level core tfmt base hi j bnd formed order)
  case fault => exact judged.trans (judged_fault core tfmt base j bnd formed low high item fault first)
  case depth => exact judged.trans ((judged_sound core tfmt base j bnd formed low high sane).trans (if_pos other))
  case result => exact judged.trans ((judged_sound core tfmt base j bnd formed low high sane).trans (if_neg (not_not.2 same)))

end One

end Sys2Proof.Machine
end

section
/-! PROOFS. Runs of the ligature engine over a sheet (10 R235), and what a LIGEMIT copies (R236). -/

namespace Sys2Proof.Machine
open Sys2Proof.Claims

/-! ### LIGEVAL (R235) -/

section Run
variable (core fk sheet tfmt base hi bytes : Nat) (bnd : Nat × Nat × Nat × Nat)

theorem one_cycle (j : Nat) (v : LigEval) : 0 < (v.one core fk sheet tfmt base hi bytes j bnd).cycle := by
  unfold LigEval.one
  dsimp only
  repeat' split
  all_goals exact Nat.lt_of_lt_of_le (Nat.succ_pos v.cycle) (Nat.le_add_right ..)

variable {core fk sheet tfmt base hi bytes bnd} {n j : Nat} {v : LigEval}

theorem ligRun_stops (h : (v.one core fk sheet tfmt base hi bytes j bnd).fault ≠ none) :
    ligRun core fk sheet tfmt base hi bytes bnd (n + 1) j v = v.one core fk sheet tfmt base hi bytes j bnd :=
  if_pos (Option.isSome_iff_ne_none.2 h)

theorem ligRun_goes_on (h : (v.one core fk sheet tfmt base hi bytes j bnd).fault = none) :
    ligRun core fk sheet tfmt base hi bytes bnd (n + 1) j v
      = ligRun core fk sheet tfmt base hi bytes bnd n (j + 1) (v.one core fk sheet tfmt base hi bytes j bnd) :=
  if_neg (by rw [h]; exact Bool.false_ne_true)

theorem ligRun_cycle (h : 0 < v.cycle) : 0 < (ligRun core fk sheet tfmt base hi bytes bnd n j v).cycle := by
  induction n generalizing j v with
  | zero => exact h
  | succ n ih =>
    have next := one_cycle core fk sheet tfmt base hi bytes bnd j v
    by_cases stop : (v.one core fk sheet tfmt base hi bytes j bnd).fault = none
    · rw [ligRun_goes_on stop]
      exact ih next
    · rw [ligRun_stops stop]
      exact next

end Run

theorem startEval_run (s : State) (op : LigOp) (sheet : Nat) (clean : (s.ligView op).poisoned (op.folio + sheet) 16 = false) :
    let e := s.lig op.core
    let x := s.ligView op
    let h := x.sheet (op.folio + sheet)
    let v := ligRun op.core op.folio sheet h.tfmt h.base h.hi h.bytes (e.run.getD (1, 0, 0, 0)) h.count 0
      { st := x, out := [], levels := e.levels, pos := 16, prev := h.lo, cycle := 4, flags := 0, late := none, fault := none }
    s.startEval op sheet = (State.setLig (s.write v.out) { e with levels := v.levels, freeAt := s.cycle + v.cycle },
      { op with finish := s.cycle + v.cycle - 1 + (if v.fault = none then 8 else 0), flags := v.flags, fault := v.fault, bad := v.late }) := by
  intro e x h v
  have used : 0 < v.cycle := ligRun_cycle (Nat.succ_pos 3)
  have last : s.cycle + v.cycle - 1 + 1 = s.cycle + v.cycle := Nat.sub_add_cancel (used.trans_le (Nat.le_add_left ..))
  have finish : (if v.fault.isSome = true then s.cycle + v.cycle - 1 else s.cycle + v.cycle - 1 + 8)
      = s.cycle + v.cycle - 1 + if v.fault = none then 8 else 0 := by
    cases v.fault <;> rfl
  simp only [State.startEval, clean, Bool.false_eq_true, if_false]
  rw [last, finish]

/-! ### LIGEMIT (R236) -/

theorem findSome?_flatMap {α β γ : Type} (f : β → Option γ) (g : α → List β) (xs : List α) :
    (xs.flatMap g).findSome? f = xs.findSome? fun x => (g x).findSome? f := by
  induction xs with
  | nil => rfl
  | cons x xs ih =>
    rw [List.flatMap_cons, List.findSome?_append, List.findSome?_cons, ih]
    cases (g x).findSome? f <;> rfl

section Emit
variable (s : State) (op : LigOp) (bf : Bool) (dst first count pitch cols : Nat)

/-- The place of a copied value in the value file. -/
def emitKey (core cols first c j : Nat) : Nat := valueKey core (c * (16384 / cols) + (first + j))

/-- A value as a LIGEMIT writes it, with its flags. -/
def State.emitWord (s : State) (core : Nat) (bf : Bool) (first cols c j : Nat) : Nat × Flags :=
  let x := if s.poisoned (emitKey core cols first c j) 4 = true then 0x7FC00000 else s.le (emitKey core cols first c j) 4
  if bf then roundF .bf16 .rn false (decF .f32 x) else (x, fNone)

variable {s op first count}

theorem valid_iff (levels : List (Nat × Nat)) (i : Nat) : levels.any (·.1 == i) = true ↔ ∃ l, (i, l) ∈ levels := by
  simp only [List.any_eq_true, beq_iff_eq, Prod.exists]
  exact ⟨fun ⟨_, l, h, e⟩ => ⟨l, e ▸ h⟩, fun ⟨l, h⟩ => ⟨i, l, h, rfl⟩⟩

theorem startEmit_invalid {j : Nat} (hj : j < count) (invalid : ¬ ∃ l, (first + j, l) ∈ (s.lig op.core).levels)
    (before : ∀ i < j, ∃ l, (first + i, l) ∈ (s.lig op.core).levels) : s.startEmit op bf dst first count pitch cols
      = (s.setLig { s.lig op.core with freeAt := s.cycle + 1 },
        { op with finish := s.cycle, fault := some { cause := 0x0C, c := .ofNat 64 (2 ^ 32 * (first + j) + 2 ^ 63), d := 0 } }) := by
  have found : (List.range count).find? (fun j => !(s.lig op.core).levels.any (·.1 == first + j)) = some j := by
    rw [List.find?_range_eq_some]
    simp only [← valid_iff, Bool.not_eq_true] at invalid before
    exact ⟨by rw [invalid]; rfl, List.mem_range.2 hj, fun i hi => by rw [before i hi]; rfl⟩
  simp only [State.startEmit, found]
  rfl

theorem startEmit_valid (valid : ∀ j < count, ∃ l, (first + j, l) ∈ (s.lig op.core).levels) :
    let p := (cols * count + 15) / 16
    s.startEmit op bf dst first count pitch cols = (s.setLig { s.lig op.core with freeAt := s.cycle + p },
      { op with
        finish := s.cycle + p + 7
        cells := (List.range cols).flatMap fun c => (List.range count).flatMap fun j =>
          cellsLE (op.folio + dst + c * pitch + (if bf then 2 else 4) * j) (if bf then 2 else 4) (s.emitWord op.core bf first cols c j).1
        flags := orFlags ((List.range cols).flatMap fun c => (List.range count).map fun j => (s.emitWord op.core bf first cols c j).2)
        bad := (List.range cols).findSome? fun c => (List.range count).findSome? fun j => s.badAt (emitKey op.core cols first c j) 4 }) := by
  have none : (List.range count).find? (fun j => !(s.lig op.core).levels.any (·.1 == first + j)) = none :=
    List.find?_eq_none.2 fun j hj => by rw [(valid_iff ..).2 (valid j (List.mem_range.1 hj))]; exact Bool.false_ne_true
  simp only [State.startEmit, none, badAt_isSome, List.flatMap_assoc, List.flatMap_map, List.map_flatMap, List.map_map, State.emitWord, emitKey,
    findSome?_flatMap, List.findSome?_map, Function.comp_def]
  rfl

theorem emitBad_none : ((List.range cols).findSome? fun c => (List.range count).findSome? fun j => s.badAt (emitKey op.core cols first c j) 4) = none
    ↔ ∀ c < cols, ∀ j < count, s.poisoned (emitKey op.core cols first c j) 4 = false := by
  simp only [List.findSome?_eq_none_iff, List.mem_range, badAt_eq_none_iff]

end Emit

end Sys2Proof.Machine
end

section
/-! PROOFS. The queues of the matrix unit and of the ligature engine: O31. -/

namespace Sys2Proof.Machine
open Sys2Proof.Claims

theorem ligReady_takes {s : State} (c : Cur) {g : Group} (k : State) {e : Nat × Nat} {es : List (Nat × Nat)} (sound : (s.lig g.core).fault = none)
    (late : g.uncorrL = e :: es) : s.ligReady c g k
      = State.trapAt (s.setGroup { g with uncorrL := es }) c c.pc 0x0E 0 (.ofNat 64 e.1) (.ofNat 64 e.2) :=
  (ligReady_sound c k sound).trans (lateL_cons s k c late)

theorem ligReady_goes_on {s : State} (c : Cur) {g : Group} (k : State) (sound : (s.lig g.core).fault = none) (clean : g.uncorrL = []) :
    s.ligReady c g k = k :=
  (ligReady_sound c k sound).trans (lateL_nil s k c clean)

theorem ligTrap_eq (s : State) (c : Cur) (core slot : Nat) (f : LigFault) : s.ligTrap c core slot f
    = State.trapAt (s.setLig { s.lig core with faultBy := if (s.lig core).faultBy = some slot then none else (s.lig core).faultBy })
        c c.pc f.cause 0 f.c f.d := by
  simp only [State.ligTrap, beq_iff_eq]

/-- Settles O31: each clause is a lemma about the event or the operation that it speaks of. -/
theorem engineQueuesRun : Obligations.EngineQueuesRun := by
  refine ⟨⟨fun s g c op hg hw => ⟨matrixQueueEnter_full hg hw, fun room => ?matEnter⟩, matrixResults, fun _ _ _ _ => rfl,
    fun acc a b as bs => ⟨mmaFloat_nil_left acc bs, mmaFloat_nil_right acc as, mmaFloat_cons acc a b as bs⟩, mmaInt_eq,
    fun s fk f w k m j => ⟨elemCode_half s fk f w k m j, elemCode_byte s fk f w k m j, elemCode_pair s fk f w k m j,
      entryCode_plain s fk f w k m j, entryCode_scaled s fk f w k m j⟩,
    fun efmt entry code => ⟨elemValue_code entry, specialValue_eq entry, scaleValue_eq entry⟩,
    fun f mode xs numbers => ⟨mcvtRow_nan, fun plain => ?rows⟩,
    fun s op head may => matrixOpStart_starts head may, matStarts_iff, fun s op xs ys => matBefore_iff,
    fun s op found started => ⟨matrixOpRetire_stays found, matrixOpRetire_retires found started⟩,
    fun s core slot g hg => ⟨fun c hw => ⟨mwaitDone_own hg hw, mwaitDone_last hg hw⟩, mwaitDone_other hg,
      fun c hw => ⟨ligwaitDone_own hg hw, ligwaitDone_last hg hw⟩, ligwaitDone_other hg, fun f => ?flags, fun team old x => ?late⟩⟩,
    fun s g c hg => ⟨fun op t hw ht => ⟨ligQueueEnter_full hg hw ht, fun room => ?ligEnter⟩, ligclrClear_idle hg⟩,
    fun s op head issued free own => ?ligStart, fun s op => ?push,
    fun s core uid => ⟨ligRoom_iff, ligIdle_iff⟩, fun s core op => ⟨freshLig_same, freshLig_clears⟩, fun _ _ _ => rfl,
    fun s op bf dst first count pitch cols => ⟨fun j => startEmit_invalid bf dst pitch cols, fun valid => ?emit⟩, startEval_run,
    fun core fk sheet tfmt base hi bytes bnd n j v =>
      ⟨rfl, ligRun_stops, ligRun_goes_on, ligatureFollowsR235 v core fk sheet tfmt base hi bytes j bnd⟩,
    fun s core cols c tfmt inKey w tk acc ws fl => ?sum, fun s op found started due => ?complete, fun s op f => ?faults,
    fun s core team => ⟨freeOldLig_kept, freeOldLig_freed⟩⟩
  case matEnter =>
    have enters := matrixQueueEnter_room hg hw room
    exact ⟨fun clean => enters.trans (congrArg _ (lateM_nil _ _ c clean)), fun e es late => enters.trans (congrArg _ (lateM_cons _ _ c late))⟩
  case rows =>
    exact ⟨mcvtRow_none plain, fun neg m g k e member greatest low high => mcvtRow_scaled numbers plain member greatest ⟨low, high⟩⟩
  case flags =>
    have flags := lateFlags_group hg f
    exact ⟨fun gone => flags.trans (if_pos gone), fun here => flags.trans (if_neg here)⟩
  case late =>
    have matrix := lateError_some hg team old x
    have ligature := lateErrorL_some hg team old x
    refine ⟨(lateError_none team old).1, (lateError_none team old).2, fun own same here => ?_, fun gone => ?_⟩
    · exact ⟨matrix.trans (if_pos ⟨own, same, here⟩), ligature.trans (if_pos ⟨own, same, here⟩)⟩
    · have owed : ¬ (old = false ∧ g.team = team ∧ g.run ≠ .exited) := by
        rintro ⟨own, same, here⟩
        exact gone.elim (by simp [own]) (·.elim (· same) here)
      exact ⟨matrix.trans (if_neg owed), ligature.trans (if_neg owed)⟩
  case ligEnter =>
    let g' := { g with run := .ready, notBefore := s.cycle + 1 }
    have enters := ligQueueEnter_room hg hw ht room
    refine ⟨fun f fault => enters.trans (congrArg Host.Outcome.next (ligReady_faulted c (g := g') _ fault)),
      fun sound e es late => enters.trans (congrArg Host.Outcome.next (ligReady_takes c (g := g') _ sound late)), fun sound clean => ?_⟩
    have again := enters.trans (congrArg Host.Outcome.next (ligReady_goes_on c (g := g') _ sound clean))
    refine ⟨fun _ _ _ _ kind => ?_, fun _ _ kind => ?_, fun _ _ _ _ _ _ kind => ?_⟩
    all_goals simpa only [State.ligAgain, kind] using again
  case ligStart =>
    have starts := ligOpStart_starts head issued free own
    refine ⟨fun _ _ _ _ kind => ?_, fun _ _ kind => ?_, fun _ _ _ _ _ _ kind => ?_⟩
    all_goals simpa only [State.startLig, kind] using starts
  case push =>
    have pushes {e : LigEngine} (h : (s.lig op.core).issue op = e) :
        s.pushLig op = State.setLig { s with ligOps := s.ligOps ++ [op] } e ∧ (s.lig op.core).issue op = e := ⟨by rw [← h]; rfl, h⟩
    refine ⟨fun earlier => pushes (issue_earlier earlier), fun later =>
      ⟨fun _ _ _ _ kind => pushes ?_, fun _ _ kind => pushes ?_, fun _ _ _ _ _ _ kind => pushes ?_⟩⟩
    all_goals rw [issue_later later, kind]
  case emit =>
    rw [startEmit_valid bf dst pitch cols valid]
    exact ⟨rfl, rfl, rfl, rfl, emitBad_none cols⟩
  case sum =>
    simp only [← termSize_eq]
    exact ⟨rfl, ligSum_term s core cols c tfmt inKey ws acc fl, ligSum_reference s core cols c tfmt inKey ws acc fl,
      ligSum_poisoned s core cols c tfmt inKey ws acc fl⟩
  case complete =>
    have completes := ligOpComplete_eq found started due
    refine ⟨fun sound => ?_, fun f fault => ⟨fun own => ?_, fun old => ?_⟩⟩
    · rw [sound] at completes
      exact completes
    · rw [fault, own] at completes
      exact completes
    · rw [fault] at completes
      exact completes.trans (congrArg (fun u => Host.Outcome.next (State.ligEnds u op)) (if_pos (Option.isSome_iff_ne_none.2 old)))
  case faults =>
    have fault := ligFault_eq s op f
    have any : ((s.group? op.core op.slot).any fun g => g.team == op.team && g.run != .exited) = true
        ↔ ∃ g, s.group? op.core op.slot = some g ∧ g.team = op.team ∧ g.run ≠ .exited := by
      simp [Option.any_eq_true]
    refine ⟨fun live => ?_, fun gone g hg => ?_, fun empty => ?_, fun g hg => oldLigFault_eq s op f hg, fun c core slot => ligTrap_eq s c core slot f,
      fun g => ⟨fun e found owes => orphanLig_owed s f found owes, orphanFault_uncorr s f g, orphanFault_free s f g⟩⟩
    · exact fault.trans (congrArg (fun u => State.freesAll (State.ligTraps u op f) _) (if_pos (any.2 live)))
    · rw [if_neg (mt any.1 gone), hg] at fault
      exact fault
    · rw [if_neg (mt any.1 (by simp [empty])), empty] at fault
      exact fault

end Sys2Proof.Machine
end

section
/-! PROOFS. Engine commands (03 R80 to R85, 04 R98, R101, 08 R181, R197, 18 R390): what a command does that is not held back, how it is taken up, and
what becomes of its reads at issue. -/

namespace Sys2Proof.Machine

open Sys2Proof.Claims

/-! ### The command as it issues (04 R101, 08 R197) -/

section Command
variable {s : State} {c : Cur} {g : Group} {t : Team} (hg : s.GroupIssuing c g)
include hg

theorem src_group (r : SReg) : s.src c r = (s.sreg g r.toNat).toNat := by
  simp only [State.src, State.sregA, hg.2.1, hg.2.2]

variable (ht : s.team? g.team = some t)
include ht

/-- A command that has not waited waits for the group's acquires, and then makes its checks. -/
theorem engineOp_ordered (hm : s.heldCmd c.agent = none) (d : SReg) (k : Cur → Group → Team → State) :
    engineOp s d k = .next (s.ordered c false 2 (k c g t)) := by
  rw [engineOp, withGroup_group hg]
  simp only [ht, hm]

theorem engineOp_timely (timely : Timely s c false 2) (hm : s.heldCmd c.agent = none) (d : SReg) (k : Cur → Group → Team → State) :
    engineOp s d k = .next (k c g t) := by
  rw [engineOp_ordered hg ht hm, ordered_ok timely]

end Command

/-! ### Taking a command up (08 R197 steps 2 to 4) -/

/-- The machine without a command: as it stands while the allowance is asked (08 R197 step 3). -/
def State.withoutCmd (s : State) (k : Nat) : State := { s with cmds := s.cmds.filter (·.uid != k) }

section TakeUp
variable {s u : State} {c : Cur} {d : SReg} {m : Cmd} {i : Instr}

theorem takeUp_waits (h : s.chaseFits m = false) :
    s.takeUp c d m = State.waitAgain { s with cmds := s.cmds.filter (·.uid != m.uid) ++ [m] } c (.chase c d m.uid) := by
  rw [State.takeUp, h]
  rfl

theorem takeUp_issues (h : s.chaseFits m = true) (zero : (s.withoutCmd m.uid).allowance m = 0) :
    s.takeUp c d m = State.resume (((s.withoutCmd m.uid).sendCmd m).setSregA c.agent d.toNat 0) c := by
  unfold State.withoutCmd at zero
  simp only [State.takeUp, h, zero]
  rfl

theorem takeUp_refused {x : Nat} (h : s.chaseFits m = true) (answer : (s.withoutCmd m.uid).allowance m = x) (hx : x ≠ 0) :
    s.takeUp c d m = State.resume ((s.withoutCmd m.uid).setSregA c.agent d.toNat (.ofNat 64 x)) c := by
  unfold State.withoutCmd at answer
  simp only [State.takeUp, h, answer, if_neg hx]
  rfl

/-- The allowance's answer by the two limits of the team (03 R85, 08 R197 step 3). -/
theorem allowance_team {t : Team} (ht : s.team? m.team = some t) :
    let o := s.outstanding m.team
    (t.limC < o.2 + 1 → s.allowance m = 1)
    ∧ (o.2 + 1 ≤ t.limC → t.limB < o.1 + m.bytes → (t.limB < m.bytes → o ≠ (0, 0)) → s.allowance m = 2)
    ∧ (o.2 + 1 ≤ t.limC → o.1 + m.bytes ≤ t.limB ∨ o = (0, 0) → s.allowance m = 0) := by
  simp only [State.allowance, ht]
  generalize s.outstanding m.team = o
  refine ⟨fun past => if_pos past, fun within past alone => ?_, fun within room => ?_⟩ <;> rw [if_neg (Nat.not_lt.2 within)]
  · by_cases large : t.limB < m.bytes
    · rw [if_pos large, if_neg fun zero => alone large (Prod.ext zero.1 zero.2)]
    · rw [if_neg large, if_pos past]
  · obtain room | rfl := room
    · rw [if_neg (by omega), if_neg (by omega)]
    · simp

/-- An instruction that takes up a command does so as 08 R197 says. -/
theorem takesUp_of_takeUp (h : exec i s = .next ((numbered u).takeUp c d m)) : TakesUp s u c d m i := by
  have admitted : Admits u m → exec i s = .next (accepted u c d m) := fun ⟨fits, zero⟩ => h.trans (congrArg _ (takeUp_issues fits zero))
  refine ⟨admitted, fun full => h.trans (congrArg _ (takeUp_waits full)), fun t ht fits => ?_⟩
  obtain ⟨one, two, zero⟩ := allowance_team (s := (numbered u).withoutCmd m.uid) ht
  exact ⟨fun past => h.trans (congrArg _ (takeUp_refused fits (one past) (by decide))),
    fun within past alone => h.trans (congrArg _ (takeUp_refused fits (two within past alone) (by decide))),
    fun within room => admitted ⟨fits, zero within room⟩⟩

end TakeUp

/-! ### Reads at issue (03 R60, 04 R98) -/

section Read
variable {s k : State} {c : Cur} {g : Group} {acc : List Nat} {rel : Bool} {addr n : Nat} {f : Nat → State} {i : Instr}

/-- What a read of bytes that passes the checks of R181 waits for, in order. -/
theorem readHeld_of_steps (h : s.addrStep g acc false false addr n = 0 → exec i s = .next (
      if s.ownPending c.agent (s.locate g addr).1 n then s.waitAgain c (.ownWrites (s.locate g addr).1 n)
      else if !(s.opsOver c.agent (s.locate g addr).1 n).isEmpty then s.retryAt c 0
      else s.ordered c rel 2 (s.sound c [((s.locate g addr).1, n)] k))) : ReadHeld s c g acc rel addr n i := by
  refine fun sound => ⟨fun own => ?_, fun own ops => ?_, fun own ops => ?_⟩ <;> have h := h sound
  · rw [h, if_pos own]
  all_goals rw [if_neg (by simp [own])] at h
  · rw [h, if_pos (by simpa using ops)]
  · rw [if_neg (by simp [ops])] at h
    exact ⟨heldBack_of_ordered h, fun timely => takesUncorr_of_sound (h.trans (congrArg _ (ordered_ok timely)))⟩

/-- An instruction that is a read at issue traps at its address, is held back, or goes on with the bytes. -/
theorem read_goes (h : exec i s = .next (s.readAtIssue c g acc rel addr n f)) :
    TrapsAt s c g acc false false n [(0, addr)] i ∧ ReadHeld s c g acc rel addr n i
    ∧ (ReadsAtIssue s c g acc addr n → Timely s c rel 2 → exec i s = .next (f (s.le (s.locate g addr).1 n))) :=
  ⟨trapsAt_of_checked h, readHeld_of_steps fun ok => h.trans (congrArg _ (checked_ok (by simpa using ok))),
    fun ⟨ok, clean, own, ops⟩ timely => h.trans (congrArg _ (readAtIssue_ok ok clean own ops timely))⟩

end Read

end Sys2Proof.Machine
end

section
/-! PROOFS. TATOM, BULKLD and BULKST (08 R199, R200): the checks of their addresses in order, and the command that passes them. -/

namespace Sys2Proof.Machine

open Sys2Proof.Claims

/-! ### Checks of two addresses, or of three -/

theorem meets_some {a n lo hi : Nat} : meets a n (some (lo, hi)) = true ↔ a < hi ∧ lo < a + n := by simp [meets]

section Either
variable {s k : State} {c : Cur} {p q r : Prop} [Decidable p] [Decidable q] [Decidable r] {n x y z : Nat}

theorem cmdTrap_either (h : p ∨ q) :
    (if p then s.cmdTrap c n x else if q then s.cmdTrap c n y else k) = s.cmdTrap c n (if p then x else y) := by
  by_cases hp : p
  · rw [if_pos hp, if_pos hp]
  · rw [if_neg hp, if_neg hp, if_pos (h.resolve_left hp)]

theorem cmdTrap_any (h : p ∨ q ∨ r) :
    (if p then s.cmdTrap c n x else if q then s.cmdTrap c n y else if r then s.cmdTrap c n z else k)
      = s.cmdTrap c n (if p then x else if q then y else z) := by
  by_cases hp : p
  · rw [if_pos hp, if_pos hp]
  · rw [if_neg hp, if_neg hp, cmdTrap_either (h.resolve_left hp)]

end Either

section Apertures
variable {s k : State} {c : Cur} {i : Instr} {loc arr folio : Nat}

/-- Both local addresses of the command must lie in aperture 0x0. -/
theorem near_checks (e : exec i s = .next (
      if loc / 2 ^ 28 ≠ 0 then s.cmdTrap c cLOCALRANGE loc else if arr / 2 ^ 28 ≠ 0 then s.cmdTrap c cLOCALRANGE arr else k)) :
    (¬ (loc < 2 ^ 28 ∧ arr < 2 ^ 28) → exec i s = .next (s.cmdTrap c 0x06 (if loc < 2 ^ 28 then arr else loc)))
    ∧ (loc < 2 ^ 28 ∧ arr < 2 ^ 28 → exec i s = .next k) := by
  refine ⟨fun away => ?_, fun near => ?_⟩
  · rw [e, cmdTrap_either (by omega)]
    by_cases slot : loc < 2 ^ 28
    · rw [if_neg (by omega), if_pos slot]
      rfl
    · rw [if_pos (by omega), if_neg slot]
      rfl
  · rwa [if_neg (by omega), if_neg (by omega)] at e

/-- The runs of both addresses lie in the folio. -/
theorem inside_checks {m n : Nat} (e : exec i s = .next (
      if folio < loc + m then s.cmdTrap c cLOCALRANGE loc else if folio < arr + n then s.cmdTrap c cLOCALRANGE arr else k)) :
    (¬ (loc + m ≤ folio ∧ arr + n ≤ folio) → exec i s = .next (s.cmdTrap c 0x06 (if folio < loc + m then loc else arr)))
    ∧ (loc + m ≤ folio ∧ arr + n ≤ folio → exec i s = .next k) := by
  refine ⟨fun outside => ?_, fun inside => ?_⟩
  · rw [e, cmdTrap_either (by omega)]
    rfl
  · rwa [if_neg (by omega), if_neg (by omega)] at e

end Apertures

/-- The checks of BULKLD and BULKST in order (08 R200). -/
theorem bulk_checks {s k : State} {c : Cur} {i : Instr} {va loc n arr folio : Nat} (e : exec i s = .next (
      if loc / 2 ^ 28 ≠ 0 then s.cmdTrap c cLOCALRANGE loc
      else if arr / 2 ^ 28 ≠ 0 then s.cmdTrap c cLOCALRANGE arr
      else if va % 16 ≠ 0 then s.cmdTrap c cALIGN va
      else if loc % 16 ≠ 0 then s.cmdTrap c cALIGN loc
      else if n % 16 ≠ 0 then s.cmdTrap c cALIGN loc
      else if arr % 16 ≠ 0 then s.cmdTrap c cALIGN arr
      else if n = 0 ∨ 1048576 < n then s.trap c cDESCRIPTOR
      else if folio < loc + n then s.cmdTrap c cLOCALRANGE loc
      else if folio < arr + 16 then s.cmdTrap c cLOCALRANGE arr
      else if meets arr 16 (some (loc, loc + n)) then s.trap c cDESCRIPTOR
      else k)) :
    let near := loc < 2 ^ 28 ∧ arr < 2 ^ 28
    let even := va % 16 = 0 ∧ loc % 16 = 0 ∧ n % 16 = 0 ∧ arr % 16 = 0
    let sized := 0 < n ∧ n ≤ 2 ^ 20
    let inside := loc + n ≤ folio ∧ arr + 16 ≤ folio
    (¬ near → exec i s = .next (s.cmdTrap c 0x06 (if loc < 2 ^ 28 then arr else loc)))
    ∧ (near → ¬ even → exec i s
      = .next (s.cmdTrap c 0x05 (if va % 16 ≠ 0 then va else if loc % 16 ≠ 0 ∨ n % 16 ≠ 0 then loc else arr)))
    ∧ (near → even → ¬ sized → exec i s = .next (s.trap c 0x0A))
    ∧ (near → even → sized → ¬ inside → exec i s = .next (s.cmdTrap c 0x06 (if folio < loc + n then loc else arr)))
    ∧ (near → even → sized → inside → arr < loc + n → loc < arr + 16 → exec i s = .next (s.trap c 0x0A))
    ∧ (near → even → sized → inside → arr + 16 ≤ loc ∨ loc + n ≤ arr → exec i s = .next k) := by
  intro near even sized inside
  obtain ⟨away, e⟩ := near_checks e
  have aligned : near → even → exec i s = .next _ := fun h h' => by
    have e := e h
    obtain ⟨hva, hloc, hn, harr⟩ := h'
    rwa [if_neg (not_not.2 hva), if_neg (not_not.2 hloc), if_neg (not_not.2 hn), if_neg (not_not.2 harr)] at e
  have placed : near → even → sized → exec i s = .next _ := fun h h' h'' => by
    have e := aligned h h'
    rwa [if_neg (by omega)] at e
  refine ⟨away, fun h odd => ?_, fun h h' wrong => ?_, fun h h' h'' => (inside_checks (placed h h' h'')).1, fun h h' h'' here below above => ?_,
    fun h h' h'' here apart => ?_⟩
  · rw [e h]
    by_cases hva : va % 16 ≠ 0
    · rw [if_pos hva, if_pos hva]
      rfl
    · rw [if_neg hva, if_neg hva, cmdTrap_any (by omega), ite_or]
      rfl
  · rw [aligned h h', if_pos (by omega)]
    rfl
  · rw [(inside_checks (placed h h' h'')).2 here, if_pos (meets_some.2 ⟨below, above⟩)]
    rfl
  · rw [(inside_checks (placed h h' h'')).2 here, if_neg (by rw [meets_some]; omega)]

/-- A new command of the issuing group, by its agent. -/
theorem newCmd_eq {s : State} {c : Cur} {g : Group} (hc : c.agent = .group g.core g.slot) (t : Team) (kind : CmdKind) (recvs : List Recv) :
    Cmd.of s.uid kind c.agent g.core t recvs = cmdOf s g t kind recvs := by
  rw [hc]
  rfl

/-- Settles O28: each command makes its checks in order and is then taken up. -/
theorem bulkAndAtomicCommandsAreSent : Obligations.BulkAndAtomicCommandsAreSent := by
  intro s c g t hg ht timely hm d a b x
  refine ⟨fun op ty => ?atom, ?bulk⟩
  case atom =>
    have e : exec (.tatom op ty d a b x) s = .next _ := engineOp_timely hg ht timely hm _ _
    simp only [← src_group hg, newCmd_eq hg.2.1] at e
    dsimp only
    generalize s.src c a = va at e ⊢
    generalize (if a = 0 then 0 else (s.sreg g (a.toNat + 1)).toNat) = w at e ⊢
    generalize w % 2 ^ 32 = slot at e ⊢
    generalize w / 2 ^ 32 = arr at e ⊢
    obtain ⟨away, e⟩ := near_checks e
    have aligned : va < 2 ^ 57 ∧ va % atomicSize ty = 0 ∧ slot % 8 = 0 ∧ arr % 16 = 0 → slot < 2 ^ 28 ∧ arr < 2 ^ 28 →
        exec (.tatom op ty d a b x) s = .next _ := fun even near => by
      have e := e near
      rwa [if_neg (by omega), if_neg (by omega), if_neg (by omega)] at e
    refine ⟨fun low whole here there apart => ?issue, away, fun near odd => ?odd, fun near even => (inside_checks (aligned even near)).1,
      fun near even inside below above => ?overlap⟩
    case issue =>
      have e := (inside_checks (aligned ⟨low, whole, here.2.1, there.2.1⟩ ⟨here.1, there.1⟩)).2 ⟨here.2.2, there.2.2⟩
      rw [if_neg (by rw [meets_some]; omega)] at e
      exact takesUp_of_takeUp e
    case odd =>
      rw [e near, cmdTrap_any (by omega)]
      have high : va / 2 ^ 57 ≠ 0 ↔ 2 ^ 57 ≤ va := by omega
      simp only [high]
      rfl
    case overlap =>
      rw [(inside_checks (aligned even near)).2 inside, if_pos (meets_some.2 ⟨below, above⟩)]
      rfl
  case bulk =>
    have ld : exec (.bulkld d a b x) s = .next _ := engineOp_timely hg ht timely hm _ _
    have st : exec (.bulkst d a b x) s = .next _ := engineOp_timely hg ht timely hm _ _
    simp only [← src_group hg, newCmd_eq hg.2.1] at ld st
    dsimp only
    generalize s.src c a % 2 ^ 57 = va at ld st ⊢
    generalize s.src c b % 2 ^ 32 = loc at ld st ⊢
    generalize s.src c x % 2 ^ 32 = n at ld st ⊢
    generalize s.src c x / 2 ^ 32 = arr at ld st ⊢
    obtain ⟨away, odd, size, outside, overlap, goes⟩ := bulk_checks ld
    obtain ⟨away', odd', size', outside', overlap', goes'⟩ := bulk_checks st
    exact ⟨fun whole ⟨near, even, inside⟩ even' some' most ⟨near', even'', inside'⟩ apart =>
        ⟨takesUp_of_takeUp (goes ⟨near, near'⟩ ⟨whole, even, even', even''⟩ ⟨some', most⟩ ⟨inside, inside'⟩ apart),
          takesUp_of_takeUp (goes' ⟨near, near'⟩ ⟨whole, even, even', even''⟩ ⟨some', most⟩ ⟨inside, inside'⟩ apart)⟩,
      fun h => ⟨away h, away' h⟩, fun h h' => ⟨odd h h', odd' h h'⟩, fun h h' h'' => ⟨size h h' h'', size' h h' h''⟩,
      fun h h' h'' o => ⟨outside h h' h'' o, outside' h h' h'' o⟩,
      fun h h' h'' o lo hi => ⟨overlap h h' h'' o lo hi, overlap' h h' h'' o lo hi⟩⟩

end Sys2Proof.Machine
end

section
/-! PROOFS. TSTORE and TREDUCE (08 R197, R198): the plane that a command names, the checks of R66, and the command that passes them. -/

namespace Sys2Proof.Machine

open Sys2Proof.Claims

/-- A command with a plane reads its descriptor at issue and checks the plane's base (08 R197 step 1). -/
theorem plane_goes {s : State} {c : Cur} {g : Group} {i : Instr} {a b : SReg} {f : Desc → Nat → State} (hg : s.GroupIssuing c g)
    (timely : Timely s c false 2) (h : exec i s = .next (s.withPlane c g a b f)) :
    let reads := ReadsAtIssue s c g apAll (s.src c a % 2 ^ 32) 64
    let base := s.src c b
    TrapsAt s c g apAll false false 64 [(0, s.src c a % 2 ^ 32)] i ∧ ReadHeld s c g apAll false (s.src c a % 2 ^ 32) 64 i
    ∧ (reads → base % 768 ≠ 0 → exec i s = .next (s.trapAt c c.pc 0x05 0 (.ofNat 64 base) 1))
    ∧ (reads → base % 768 = 0 → exec i s = .next (f (descAt s c g a) base)) := by
  rw [State.withPlane, ← src_group hg, ← src_group hg] at h
  obtain ⟨traps, held, goes⟩ := read_goes h
  refine ⟨traps, held, fun reads odd => ?_, fun reads even => ?_⟩
  · exact (goes reads timely).trans (congrArg _ (if_pos odd))
  · exact (goes reads timely).trans (congrArg _ (if_neg (not_not.2 even)))

/-- The checks of a store or a reduction, in order, with the command that it takes up (08 R198). -/
theorem storeOp_goes {s : State} {c : Cur} {g : Group} {t : Team} {i : Instr} {kind : CmdKind} {own : Desc → Bool} {d a b x : SReg}
    (hg : s.GroupIssuing c g) (ht : s.team? g.team = some t) (timely : Timely s c false 2) (hm : s.heldCmd c.agent = none)
    (h : exec i s = storeOp s kind own d a b x) :
    let ds := descAt s c g a
    let base := s.src c b
    let org := s.originAt g x.toNat
    let its := ds.items { plane := true, fetch := false } base org none
    let f := t.base g.core
    let m : Cmd := { cmdOf s g t kind [recvOf g.core f ds.arrw (some ds.resw)] with
      items := its, units := itemUnits kind its, bytes := itemCount its, esize := ds.esize, efmt := ds.efmt, desc := ds.raw
      held := s.sourceHolds c.agent g.core f (itemLocs its)
      spans := mkSpan g.core f false (spanOf (itemLocs its)) ++ mkSpan g.core f true (some (16 * ds.resw, 16 * ds.resw + 8)) }
    let fits := itemsOk ds (spanOf (itemLocs its)) (itemUnits kind its) = true
    let reads := ReadsAtIssue s c g apAll (s.src c a % 2 ^ 32) 64
    let wrong := ds.check true base t.krec.folio (ds.orgN org 0)
    TrapsAt s c g apAll false false 64 [(0, s.src c a % 2 ^ 32)] i ∧ ReadHeld s c g apAll false (s.src c a % 2 ^ 32) 64 i
    ∧ (reads → base % 768 ≠ 0 → exec i s = .next (s.trapAt c c.pc 0x05 0 (.ofNat 64 base) 1))
    ∧ (reads → base % 768 = 0 →
      (∀ n, wrong = some n → exec i s = .next (s.trap c n))
      ∧ (wrong = none → ¬ fits → exec i s = .next (s.trap c 0x0A))
      ∧ (wrong = none → fits → own ds = false → exec i s = .next (s.trap c 0x09))
      ∧ (wrong = none → fits → own ds = true → TakesUp s s c d m i)) := by
  obtain ⟨traps, held, odd, goes⟩ := plane_goes hg timely (h.trans (engineOp_timely hg ht timely hm _ _))
  refine ⟨traps, held, odd, fun reads even => ?_⟩
  have e := goes reads even
  refine ⟨fun n wrong => ?_, fun right unfit => ?_, fun right fit other => ?_, fun right fit takes => ?_⟩
  · simpa only [wrong] using e
  all_goals simp only [right] at e
  · rw [if_pos (by simpa using unfit)] at e
    exact e
  all_goals rw [if_neg (by simpa using fit)] at e
  · rw [if_pos (by simpa using other)] at e
    exact e
  · rw [if_neg (by simpa using takes)] at e
    exact takesUp_of_takeUp e

/-- Settles O26: a store and a reduction differ by their kind and by the storage that they take. -/
theorem storeCommandsAreSent : Obligations.StoreCommandsAreSent := by
  intro s c g t hg ht timely hm d a b x
  obtain ⟨traps, held, odd, goes⟩ := storeOp_goes (i := .tstore d a b x) hg ht timely hm rfl
  have reduce (op : FarRed) := storeOp_goes (i := .treduce op d a b x) hg ht timely hm rfl
  have storage (ds : Desc) : (ds.store == 0 && [0, 1, 2, 8, 9, 10].any (· == ds.efmt)) = true
      ↔ ds.store = 0 ∧ ds.efmt ∈ [0, 1, 2, 8, 9, 10] := by
    rw [Bool.and_eq_true, beq_iff_eq, List.any_beq', List.contains_iff_mem]
  refine ⟨⟨traps, held, odd, fun reads even => ?_⟩, fun op => ?_, fun reads even right => ⟨fun fits takes => ?_, fun op fits plain form => ?_⟩⟩
  · obtain ⟨wrong, unfit, other, -⟩ := goes reads even
    exact ⟨wrong, unfit, fun right fit takes => other right fit (by simpa using takes)⟩
  · obtain ⟨traps, held, odd, goes⟩ := reduce op
    refine ⟨traps, held, odd, fun reads even => ?_⟩
    obtain ⟨wrong, unfit, other, -⟩ := goes reads even
    exact ⟨wrong, unfit, fun right fit takes => other right fit (Bool.eq_false_iff.2 fun h => takes ((storage _).1 h))⟩
  · obtain ⟨-, -, -, issue⟩ := goes reads even
    exact issue right fits (by simpa using takes)
  · obtain ⟨-, -, -, goes⟩ := reduce op
    obtain ⟨-, -, -, issue⟩ := goes reads even
    exact issue right fits ((storage _).2 ⟨plain, form⟩)

end Sys2Proof.Machine
end

section
/-! PROOFS. TFETCH, TMCAST and TGATHER (03 R66, R80, 08 R197, R198): the steps of R66, the receivers of a multicast, the list of a gather, and the
commands that pass their checks. -/

namespace Sys2Proof.Machine

open Sys2Proof.Claims

/-! ### The steps of 03 R66 -/

section Steps
variable {ds : Desc} {plane : Bool} {b folio o0 : Nat}

theorem step1_iff : ds.step1 plane = true ↔
    ds.ndim = 0 ∨ 5 < ds.ndim ∨ ds.store = 3 ∨ 10 < ds.efmt ∨ (∃ i < ds.ndim, ds.boxN i = 0) ∨ (plane = true ∧ ds.ph = 0) := by
  simp [Desc.step1, or_assoc]

theorem any_stride_iff {u : Nat} : ((List.range (ds.ndim - 1)).map fun i => ds.strideN (i + 1)).any (fun x => x % u != 0) = true
    ↔ ∃ i, 0 < i ∧ i < ds.ndim ∧ ds.strideN i % u ≠ 0 := by
  rw [List.any_map, List.any_eq_true]
  simp only [List.mem_range, Function.comp, bne_iff_ne]
  constructor
  · rintro ⟨i, hi, odd⟩
    exact ⟨i + 1, by omega, by omega, odd⟩
  · rintro ⟨i, pos, hi, odd⟩
    obtain ⟨j, rfl⟩ := Nat.exists_eq_succ_of_ne_zero pos.ne'
    exact ⟨j, by omega, odd⟩

theorem step2_iff : ds.step2 plane o0 = true ↔ (ds.store = 0 ∧ ds.efmt ∈ [5, 6, 7]) ∨ (ds.store = 1 ∧ ds.efmt ∉ [3, 4, 5, 6, 7])
    ∨ (ds.store = 2 ∧ ds.efmt ∉ [1, 2, 3, 4, 8, 9])
    ∨ (plane = true ∧ ds.rowmode = true ∧ (ds.store ≠ 0 ∨ elemHalves ds.efmt ∉ [2, 4] ∨ ds.ndim < 2))
    ∨ (ds.store = 0 ∧ ds.base % ds.unitBytes ≠ 0) ∨ (∃ i, 0 < i ∧ i < ds.ndim ∧ ds.strideN i % ds.unitBytes ≠ 0)
    ∨ (ds.store ≠ 0 ∧ (o0 % ds.unitElems ≠ 0 ∨ ds.boxN 0 % ds.unitElems ≠ 0 ∨ ds.ext.getD 0 0 % ds.unitElems ≠ 0))
    ∨ (plane = true ∧ ds.dbyte % (if ds.store = 1 then bytesPerBlock ds.efmt else 16) ≠ 0) := by
  have records : ds.efmt ∉ [3, 4, 5, 6, 7] ↔ ¬ (3 ≤ ds.efmt ∧ ds.efmt ≤ 7) := by
    simp only [List.mem_cons, List.not_mem_nil, or_false]
    omega
  have tiles : [1, 2, 3, 4, 8, 9].any (· == ds.efmt) = true ↔ ds.efmt ∈ [1, 2, 3, 4, 8, 9] := by
    rw [List.any_beq', List.contains_iff_mem]
  have plain : ds.efmt ∈ [5, 6, 7] ↔ ds.efmt = 5 ∨ ds.efmt = 6 ∨ ds.efmt = 7 := by simp
  have rows : elemHalves ds.efmt ∉ [2, 4] ↔ ¬ (elemHalves ds.efmt = 2 ∨ elemHalves ds.efmt = 4) := by simp
  rw [records, ← tiles, plain, rows, ← any_stride_iff]
  simp only [Desc.step2, Bool.or_eq_true, Bool.and_eq_true, Bool.not_eq_true', ← Bool.not_eq_true, beq_iff_eq, bne_iff_ne, decide_eq_true_eq,
    or_assoc, and_assoc]

theorem step3_iff : ds.step3 plane b folio = true ↔
    (plane = true ∧ (ds.ph < ds.drow + ds.rowsH ∨ 128 * (ds.pw + 1) < ds.dbyte + ds.rowBytes ∨ folio < ds.planeEnd b))
      ∨ folio < 16 * ds.arrw + 16 ∨ folio < 16 * ds.resw + 8 := by
  simp [Desc.step3, or_assoc]

end Steps

/-! ### The receivers of a multicast (08 R198) -/

/-- Every receiver is there, or the multicast reaches fewer cores than its mask names. -/
theorem filterMap_length_lt {α β : Type} {f : α → Option β} {xs : List α} (h : ∃ x ∈ xs, f x = none) : (xs.filterMap f).length < xs.length := by
  refine Nat.lt_of_le_of_ne (List.length_filterMap_le f xs) fun same => ?_
  obtain ⟨x, hx, absent⟩ := h
  have there := List.filterMap_length_eq_length.1 same x hx
  rw [absent] at there
  cases there

/-! ### The list of a gather (08 R181, R198) -/

theorem listStep_le (s : State) (g : Group) (a n : Nat) : s.listStep g a n ≤ 5 := by
  unfold State.listStep
  repeat' split
  all_goals decide

section Gather
variable {s : State} {c : Cur} {g : Group} {a n : Nat} {f : List Nat → State}

theorem readList_traps (h : s.listStep g a (4 * n) ≠ 0) :
    s.readList c g a n f = s.cmdTrap c ([0, 0x06, 0x08, 0x05, 0x06, 0x07].getD (s.listStep g a (4 * n)) 0) a := by
  rw [State.readList, if_pos h, stepCause_eq h (listStep_le ..)]

theorem readList_waits (h : s.listStep g a (4 * n) = 0) (own : s.ownPending c.agent (s.locate g a).1 (4 * n) = true) :
    s.readList c g a n f = s.waitAgain c (.ownWrites (s.locate g a).1 (4 * n)) := by
  rw [State.readList, if_neg (not_not.2 h)]
  exact if_pos own

variable (h : s.listStep g a (4 * n) = 0) (own : s.ownPending c.agent (s.locate g a).1 (4 * n) = false)
include h own

theorem readList_retries (ops : s.opsOver c.agent (s.locate g a).1 (4 * n) ≠ []) : s.readList c g a n f = s.retryAt c 0 := by
  rw [State.readList, if_neg (not_not.2 h)]
  dsimp only
  rw [if_neg (by simp [own]), if_pos (by simpa using ops)]

theorem readList_reads (ops : s.opsOver c.agent (s.locate g a).1 (4 * n) = []) : s.readList c g a n f =
    s.sound c [((s.locate g a).1, 4 * n)] (f ((List.range n).map fun i => s.le ((s.locate g a).1 + 4 * i) 4)) := by
  rw [State.readList, if_neg (not_not.2 h)]
  dsimp only
  rw [if_neg (by simp [own]), if_neg (by simp [ops])]

end Gather

/-! ### The commands -/

section Commands
variable {s : State} {c : Cur} {g : Group} {t : Team} (hg : s.GroupIssuing c g) (ht : s.team? g.team = some t)
  (timely : Timely s c false 2) (hm : s.heldCmd c.agent = none) (d a b x : SReg)
include hg ht timely hm

/-- TFETCH after its plane: the checks of R66, and then its items (08 R198). -/
theorem tfetch_goes (reads : ReadsAtIssue s c g apAll (s.src c a % 2 ^ 32) 64) (even : s.src c b % 768 = 0) :
    let ds := descAt s c g a
    let base := s.src c b
    let org := s.originAt g x.toNat
    let its := ds.items { plane := true, fetch := true } base org none
    let fits := itemsOk ds (spanOf (itemLocs its ++ ds.padBytes base)) (itemUnits .fetch its) = true
    let wrong := ds.check true base t.krec.folio (ds.orgN org 0)
    (∀ n, wrong = some n → exec (.tfetch d a b x) s = .next (s.trap c n))
    ∧ (wrong = none → ¬ fits → exec (.tfetch d a b x) s = .next (s.trap c 0x0A))
    ∧ (wrong = none → fits → TakesUp s s c d (fetchCmd s g t .fetch ds base its [(g.core, t.base g.core)]) (.tfetch d a b x)) := by
  obtain ⟨-, -, -, goes⟩ := plane_goes (i := .tfetch d a b x) hg timely (engineOp_timely hg ht timely hm _ _)
  have e := goes reads even
  refine ⟨fun n wrong => by simpa only [wrong] using e, fun right unfit => ?_, fun right fit => ?_⟩ <;> simp only [right] at e
  · rw [if_pos (by simpa using unfit)] at e
    exact e
  · rw [if_neg (by simpa using fit)] at e
    exact takesUp_of_takeUp e

/-- TMCAST is a fetch into the folios of the cores that its mask names. -/
theorem tmcast_goes (mask : BitVec 4) (reads : ReadsAtIssue s c g apAll (s.src c a % 2 ^ 32) 64) (even : s.src c b % 768 = 0) :
    let ds := descAt s c g a
    let base := s.src c b
    let org := s.originAt g x.toNat
    let its := ds.items { plane := true, fetch := true } base org none
    let fits := itemsOk ds (spanOf (itemLocs its ++ ds.padBytes base)) (itemUnits .mcast its) = true
    let wrong := ds.check true base t.krec.folio (ds.orgN org 0)
    let ks := ((List.range 4).filter fun q => mask.getLsbD q).map fun q => 4 * (g.core / 4) + q
    let fs := ks.filterMap (s.mcastFolio t)
    let i := Instr.tmcast mask d a b x
    (∀ n, wrong = some n → exec i s = .next (s.trap c n))
    ∧ (wrong = none → ¬ fits → exec i s = .next (s.trap c 0x0A))
    ∧ (wrong = none → fits → fs.length < ks.length → exec i s = .next (s.cmdTrap c 0x08 base))
    ∧ (wrong = none → fits → fs.length = ks.length → TakesUp s s c d (fetchCmd s g t .mcast ds base its fs) i) := by
  obtain ⟨-, -, -, goes⟩ := plane_goes (i := .tmcast mask d a b x) hg timely (engineOp_timely hg ht timely hm _ _)
  have e := goes reads even
  refine ⟨fun n wrong => by simpa only [wrong] using e, fun right unfit => ?_, fun right fit few => ?_, fun right fit all => ?_⟩
    <;> simp only [right] at e
  · rw [if_pos (by simpa using unfit)] at e
    exact e
  all_goals rw [if_neg (by simpa using fit)] at e
  · exact e.trans (congrArg _ (if_pos few))
  · exact takesUp_of_takeUp (e.trans (congrArg _ (if_neg (Nat.not_lt.2 all.ge))))

/-- TGATHER reads its list once the descriptor and the span have passed (08 R198). -/
theorem tgather_goes (reads : ReadsAtIssue s c g apAll (s.src c a % 2 ^ 32) 64) (even : s.src c b % 768 = 0) :
    let ds := descAt s c g a
    let base := s.src c b
    let org := [s.src c x / 2 ^ 32, 0, 0, 0, 0]
    let box := fun idx => ds.items { plane := true, fetch := true } base org (some idx)
    let spans := itemsOk ds (spanOf (itemLocs (box []) ++ ds.padBytes base)) [] = true
    let form := ds.ndim = 2 ∧ ds.rowmode = false ∧ ds.store = 0
    let wrong := ds.check true base t.krec.folio (ds.orgN org 0)
    let i := Instr.tgather d a b x
    (∀ n, wrong = some n → exec i s = .next (s.trap c n))
    ∧ (wrong = none → ¬ spans ∨ ¬ form → exec i s = .next (s.trap c 0x0A))
    ∧ (wrong = none → spans → form → exec i s = .next (s.readList c g (s.src c x % 2 ^ 32) (ds.boxN 1) fun idx =>
        if 64 < (itemUnits .gather (box idx)).length then s.trap c cDESCRIPTOR
        else s.fetchInto c g t .gather d ds base (box idx) [(g.core, t.base g.core)])) := by
  obtain ⟨-, -, -, goes⟩ := plane_goes (i := .tgather d a b x) hg timely (engineOp_timely hg ht timely hm _ _)
  have e := goes reads even
  simp only [← src_group hg] at e
  refine ⟨fun n wrong => by simpa only [wrong] using e, fun right bad => ?_, fun right span form => ?_⟩ <;> simp only [right] at e
  · rw [← ite_or, if_pos (by simpa only [not_and_or, Bool.not_eq_true', Bool.not_eq_true, Bool.not_eq_false] using bad)] at e
    exact e
  · obtain ⟨two, rows, plain⟩ := form
    rw [if_neg (by simpa using span)] at e
    exact e.trans (congrArg _ (if_neg (by simp [two, rows, plain])))

end Commands

/-- Settles O25: each command makes the checks of R66 on its plane, then its own, and is taken up. -/
theorem fetchCommandsAreSent : Obligations.FetchCommandsAreSent := by
  refine ⟨fun ds plane b folio o0 => ⟨fun one => if_pos (step1_iff.2 one),
    fun one two => (if_neg (mt step1_iff.1 one)).trans (if_pos (step2_iff.2 two)),
    fun one two three => (if_neg (mt step1_iff.1 one)).trans ((if_neg (mt step2_iff.1 two)).trans (if_pos (step3_iff.2 three))),
    fun one two three => (if_neg (mt step1_iff.1 one)).trans ((if_neg (mt step2_iff.1 two)).trans (if_neg (mt step3_iff.1 three)))⟩,
    fun s c g t hg ht timely hm d a b x => ?_⟩
  have plane : ∀ mask, ∀ i ∈ [Instr.tfetch d a b x, .tmcast mask d a b x, .tgather d a b x],
      ∃ f, exec i s = .next (s.withPlane c g a b f) := fun mask => by
    simp only [List.forall_mem_cons, List.not_mem_nil, IsEmpty.forall_iff, implies_true, and_true]
    exact ⟨⟨_, engineOp_timely hg ht timely hm _ _⟩, ⟨_, engineOp_timely hg ht timely hm _ _⟩, ⟨_, engineOp_timely hg ht timely hm _ _⟩⟩
  have fetch := tfetch_goes hg ht timely hm d a b x
  have mcast (mask : BitVec 4) := tmcast_goes hg ht timely hm d a b x mask
  have gather := tgather_goes hg ht timely hm d a b x
  refine ⟨fun mask i hi => ?reads, fun reads odd mask i hi => ?base,
    fun reads even => ⟨⟨fun n wrong => ?wrong, fun right => ⟨(fetch reads even).2.1 right, ?unfit, ?absent⟩⟩, (gather reads even).1, ?list⟩,
    fun reads even => ⟨fun right => ⟨(fetch reads even).2.2 right, fun mask fit all => ?mcast⟩, ?gather⟩⟩
  case reads =>
    obtain ⟨f, e⟩ := plane mask i hi
    obtain ⟨traps, held, -⟩ := plane_goes hg timely e
    exact ⟨traps, held⟩
  case base =>
    obtain ⟨f, e⟩ := plane mask i hi
    obtain ⟨-, -, trap, -⟩ := plane_goes hg timely e
    exact trap reads odd
  case wrong => exact ⟨(fetch reads even).1 n wrong, fun mask => (mcast mask reads even).1 n wrong⟩
  case unfit => exact fun unfit mask => (mcast mask reads even).2.1 right unfit
  case absent =>
    rintro fit mask ⟨q, hq, named, absent⟩
    obtain ⟨-, -, few, -⟩ := mcast mask reads even
    exact few right fit (filterMap_length_lt ⟨4 * (g.core / 4) + q,
      List.mem_map.2 ⟨q, List.mem_filter.2 ⟨List.mem_range.2 hq, named⟩, rfl⟩, absent⟩)
  case mcast =>
    obtain ⟨-, -, -, issue⟩ := mcast mask reads even
    exact issue right fit all
  case list =>
    obtain ⟨-, bad, goes⟩ := gather reads even
    refine fun right => ⟨bad right, fun span form => ?_⟩
    have e := goes right span form
    refine ⟨fun fails => ?_, fun step own => ?_, fun step own ops => ?_, fun step own ops => ?_, fun step clean own ops many => ?_⟩
    · exact e.trans (congrArg _ (readList_traps fails))
    · exact e.trans (congrArg _ (readList_waits step own))
    · exact e.trans (congrArg _ (readList_retries step own ops))
    · exact takesUncorr_of_sound (e.trans (congrArg _ (readList_reads step own ops)))
    · rw [readList_reads step own ops, sound_ok (by simpa using clean)] at e
      exact e.trans (congrArg _ (if_pos many))
  case gather =>
    intro list key n org its m right span two rows plain step clean own ops few
    obtain ⟨-, -, goes⟩ := gather reads even
    have e := goes right span ⟨two, rows, plain⟩
    rw [readList_reads step own ops, sound_ok (by simpa using clean)] at e
    exact takesUp_of_takeUp (e.trans (congrArg _ (if_neg (Nat.not_lt.2 few))))

end Sys2Proof.Machine
end

section
/-! PROOFS. TFILL, TCOPY and PAGEREQ (03 R66, 08 R197, R198, R201): their reads of descriptors, their own checks, and the commands that pass them. -/

namespace Sys2Proof.Machine

open Sys2Proof.Claims

/-- The word of a PAGEREQ: aperture 0x0, a multiple of its size, inside the folio (08 R201). -/
theorem wordStep_spec {folio w n : Nat} (hw : w < 2 ^ 32) :
    (2 ^ 28 ≤ w → wordStep folio w n n = 1) ∧ (w < 2 ^ 28 → w % n ≠ 0 → wordStep folio w n n = 3)
    ∧ (w < 2 ^ 28 → w % n = 0 → folio < w + n → wordStep folio w n n = 4)
    ∧ (w < 2 ^ 28 → w % n = 0 → w + n ≤ folio → wordStep folio w n n = 0) := by
  unfold wordStep
  refine ⟨fun far => if_pos (by omega), fun near odd => ?_, fun near even outside => ?_, fun near even inside => ?_⟩
    <;> rw [if_neg (by omega)]
  · rw [if_pos odd]
  all_goals rw [if_neg (not_not.2 even)]
  · rw [if_pos outside]
  · rw [if_neg (Nat.not_lt.2 inside)]

/-- The descriptor that a command has read. -/
theorem descOf_read (s : State) (c : Cur) (g : Group) (a : SReg) : descOf (s.le (s.locate g (s.src c a % 2 ^ 32)).1 64) = descAt s c g a := rfl

section Commands
variable {s : State} {c : Cur} {g : Group} {t : Team} (hg : s.GroupIssuing c g) (ht : s.team? g.team = some t)
  (timely : Timely s c false 2) (hm : s.heldCmd c.agent = none) (d a b x : SReg)
include hg ht timely hm

/-- Each of the three reads its first descriptor when it issues. -/
theorem far_reads : ∀ i ∈ [Instr.tfill d a b x, .tcopy d a b x, .pagereq d a b x],
    ∃ f, exec i s = .next (s.readAtIssue c g apAll false (s.src c a % 2 ^ 32) 64 f) := by
  simp only [List.forall_mem_cons, List.not_mem_nil, IsEmpty.forall_iff, implies_true, and_true, src_group hg]
  exact ⟨⟨_, engineOp_timely hg ht timely hm _ _⟩, ⟨_, engineOp_timely hg ht timely hm _ _⟩, ⟨_, engineOp_timely hg ht timely hm _ _⟩⟩

/-- TFILL past its descriptor (08 R198). -/
theorem tfill_goes (reads : ReadsAtIssue s c g apAll (s.src c a % 2 ^ 32) 64) :
    let ds := descAt s c g a
    let org := s.originAt g x.toNat
    let its := ds.items { plane := false, fetch := false } 0 org none
    let us := itemUnits .fill its
    let wrong := ds.check false 0 t.krec.folio (ds.orgN org 0)
    let m : Cmd := { farCmd s g t .fill ds (recvOf g.core (t.base g.core) ds.arrw (some ds.resw)) us with
      items := its, bytes := itemCount its, operand := s.sreg g b.toNat }
    let i := Instr.tfill d a b x
    (∀ n, wrong = some n → exec i s = .next (s.trap c n))
    ∧ (wrong = none → 64 < us.length → exec i s = .next (s.trap c 0x0A))
    ∧ (wrong = none → us.length ≤ 64 → ds.store ≠ 0 → exec i s = .next (s.trap c 0x09))
    ∧ (wrong = none → us.length ≤ 64 → ds.store = 0 → TakesUp s s c d m i) := by
  have e : exec (.tfill d a b x) s = .next _ := engineOp_timely hg ht timely hm _ _
  rw [← src_group hg] at e
  obtain ⟨-, -, e⟩ := read_goes e
  have e := e reads timely
  refine ⟨fun n wrong => e.trans ?_, fun right many => ?_, fun right few other => ?_, fun right few plain => ?_⟩
  · simp only [descOf_read, wrong]
  all_goals simp only [descOf_read, right, newCmd_eq hg.2.1] at e
  · exact e.trans (congrArg _ (if_pos many))
  all_goals rw [if_neg (Nat.not_lt.2 few)] at e
  · exact e.trans (congrArg _ (if_pos other))
  · rw [if_neg (not_not.2 plain)] at e
    exact takesUp_of_takeUp e

/-- PAGEREQ past its descriptor: its completion word (08 R201). -/
theorem pagereq_goes (reads : ReadsAtIssue s c g apAll (s.src c a % 2 ^ 32) 64) :
    let ds := descAt s c g a
    let org := s.originAt g x.toNat
    let us := itemUnits .pagereq (ds.items { plane := false, fetch := false } 0 org none)
    let wrong := ds.check false 0 t.krec.folio (ds.orgN org 0)
    let w := s.src c b % 2 ^ 32
    let f := t.base g.core
    let m := farCmd s g t .pagereq ds { core := g.core, folio := f, arr := f + w, resw := some (f + 16 * ds.resw) } us
    let i := Instr.pagereq d a b x
    (∀ n, wrong = some n → exec i s = .next (s.trap c n))
    ∧ (wrong = none → 64 < us.length → exec i s = .next (s.trap c 0x0A))
    ∧ (wrong = none → us.length ≤ 64 → ∀ k, wordStep t.krec.folio w 16 16 = k → k ≠ 0 → exec i s = .next (s.cmdTrap c (stepCause k) w))
    ∧ (wrong = none → us.length ≤ 64 → wordStep t.krec.folio w 16 16 = 0 → TakesUp s s c d m i) := by
  have e : exec (.pagereq d a b x) s = .next _ := engineOp_timely hg ht timely hm _ _
  simp only [← src_group hg] at e
  obtain ⟨-, -, e⟩ := read_goes e
  have e := e reads timely
  refine ⟨fun n wrong => e.trans ?_, fun right many => ?_, fun right few k bad hk => ?_, fun right few sound => ?_⟩
  · simp only [descOf_read, wrong]
  all_goals simp only [descOf_read, right, newCmd_eq hg.2.1] at e
  · exact e.trans (congrArg _ (if_pos many))
  all_goals rw [if_neg (Nat.not_lt.2 few)] at e
  · rw [bad] at e
    exact e.trans (congrArg _ (if_pos hk))
  · rw [if_neg (not_not.2 sound)] at e
    exact takesUp_of_takeUp e

/-- TCOPY reads its second descriptor when it has the first. -/
theorem tcopy_reads (reads : ReadsAtIssue s c g apAll (s.src c a % 2 ^ 32) 64) :
    ∃ f, exec (.tcopy d a b x) s = .next (s.readAtIssue c g apAll false (s.src c b % 2 ^ 32) 64 f) := by
  have e : exec (.tcopy d a b x) s = .next _ := engineOp_timely hg ht timely hm _ _
  simp only [← src_group hg] at e
  obtain ⟨-, -, e⟩ := read_goes e
  exact ⟨_, e reads timely⟩

/-- TCOPY past both descriptors: R66 on each, then that both boxes have one form, and the pages (08 R198). -/
theorem tcopy_goes (reads : ReadsAtIssue s c g apAll (s.src c a % 2 ^ 32) 64) (reads' : ReadsAtIssue s c g apAll (s.src c b % 2 ^ 32) 64) :
    let ds := descAt s c g a
    let dd := descAt s c g b
    let org := s.originAt g x.toNat
    let org2 := s.originAt g (if x.toNat = 0 then 0 else x.toNat + 3)
    let one := ds.step1 false = true
    let two := ds.step2 false (ds.orgN org 0) = true
    let one' := dd.step1 false = true
    let two' := dd.step2 false (dd.orgN org2 0) = true
    let like := dd.efmt = ds.efmt ∧ dd.store = ds.store ∧ ∀ i < 5, dd.boxN i = ds.boxN i
    let cp := ((ds.boxRows org none).zip (dd.boxRows org2 none)).flatMap fun p => copyRow ds dd org org2 p.1 p.2
    let us := itemUnits .copy cp
    let fits := like ∧ ds.step3 false 0 t.krec.folio = false ∧ us.length ≤ 64
    let m : Cmd := { farCmd s g t .copy ds (recvOf g.core (t.base g.core) ds.arrw (some ds.resw)) us with items := cp, bytes := itemCount cp }
    let i := Instr.tcopy d a b x
    (one → exec i s = .next (s.trap c 0x0A)) ∧ (¬ one → two → exec i s = .next (s.trap c 0x09))
    ∧ (¬ one → ¬ two → one' → exec i s = .next (s.trap c 0x0A)) ∧ (¬ one → ¬ two → ¬ one' → two' → exec i s = .next (s.trap c 0x09))
    ∧ (¬ one → ¬ two → ¬ one' → ¬ two' → ¬ fits → exec i s = .next (s.trap c 0x0A))
    ∧ (¬ one → ¬ two → ¬ one' → ¬ two' → fits → TakesUp s s c d m i) := by
  have e : exec (.tcopy d a b x) s = .next _ := engineOp_timely hg ht timely hm _ _
  simp only [← src_group hg] at e
  obtain ⟨-, -, e⟩ := read_goes e
  obtain ⟨-, -, e⟩ := read_goes (e reads timely)
  have e := e reads' timely
  simp only [descOf_read, newCmd_eq hg.2.1] at e
  dsimp only
  generalize descAt s c g a = ds at e ⊢
  generalize descAt s c g b = dd at e ⊢
  have boxes : (List.range 5).any (fun i => dd.boxN i != ds.boxN i) = true ↔ ¬ ∀ i < 5, dd.boxN i = ds.boxN i := by
    simp only [List.any_eq_true, List.mem_range, bne_iff_ne, ne_eq, not_forall, exists_prop]
  refine ⟨fun one => ?_, fun one two => ?_, fun one two one' => ?_, fun one two one' two' => ?_, fun one two one' two' unfit => ?_,
    fun one two one' two' ⟨⟨efmt, store, box⟩, placed, few⟩ => ?_⟩
  · exact e.trans (congrArg _ (if_pos one))
  all_goals rw [if_neg one] at e
  · exact e.trans (congrArg _ (if_pos two))
  all_goals rw [if_neg two] at e
  · exact e.trans (congrArg _ (if_pos one'))
  all_goals rw [if_neg one'] at e
  · exact e.trans (congrArg _ (if_pos two'))
  all_goals rw [if_neg two'] at e
  · simp only [← ite_or, boxes] at e
    refine e.trans (congrArg _ (if_pos ?_))
    simpa only [not_and_or, or_assoc, Bool.not_eq_false, Nat.not_le] using unfit
  · have alike := not_or.2 ⟨not_not.2 efmt, not_or.2 ⟨not_not.2 store, fun h => boxes.1 h box⟩⟩
    rw [if_neg alike, if_neg (by simp [placed]), if_neg (Nat.not_lt.2 few)] at e
    exact takesUp_of_takeUp e

end Commands

/-- Settles O27: each command reads its descriptors, makes its own checks, and is taken up. -/
theorem farCommandsAreSent : Obligations.FarCommandsAreSent := by
  intro s c g t hg ht timely hm d a b x
  have first := far_reads hg ht timely hm d a b x
  have fill := tfill_goes hg ht timely hm d a b x
  have page := pagereq_goes hg ht timely hm d a b x
  have second := tcopy_reads hg ht timely hm d a b x
  have copy := tcopy_goes hg ht timely hm d a b x
  refine ⟨fun i hi => ?first, fun reads => ⟨fun n wrong => ⟨(fill reads).1 n wrong, (page reads).1 n wrong⟩,
      fun right => ?words, ?traps, ?held, ?copy⟩,
    fun reads => ⟨fun right => ⟨?fill, ?page⟩, ?issue⟩⟩
  case first =>
    obtain ⟨f, e⟩ := first i hi
    obtain ⟨traps, held, -⟩ := read_goes e
    exact ⟨traps, held⟩
  case words =>
    obtain ⟨-, many, other, -⟩ := fill reads
    obtain ⟨-, many', bad, -⟩ := page reads
    refine ⟨many right, other right, many' right, fun few => ?_⟩
    obtain ⟨far, odd, outside, -⟩ := wordStep_spec (folio := t.krec.folio) (n := 16) (Nat.mod_lt (s.src c b) (show 0 < 2 ^ 32 by decide))
    exact ⟨fun h => bad right few 1 (far h) (by decide), fun h h' => bad right few 3 (odd h h') (by decide),
      fun h h' h'' => bad right few 4 (outside h h' h'') (by decide)⟩
  case traps =>
    obtain ⟨f, e⟩ := second reads
    exact (read_goes e).1
  case held =>
    obtain ⟨f, e⟩ := second reads
    exact (read_goes e).2.1
  case copy =>
    intro reads'
    obtain ⟨one, two, one', two', unfit, -⟩ := copy reads reads'
    refine ⟨one, two, one', two', fun no1 no2 no1' no2' bad => unfit no1 no2 no1' no2' fun ⟨⟨efmt, store, box⟩, placed, few⟩ => ?_⟩
    obtain (other | other | ⟨k, hk, other⟩) | misplaced | many := bad
    · exact other efmt
    · exact other store
    · exact other (box k hk)
    · exact Bool.false_ne_true (placed.symm.trans misplaced)
    · exact absurd few (Nat.not_le.2 many)
  case fill =>
    obtain ⟨-, -, -, issue⟩ := fill reads
    exact issue right
  case page =>
    intro w us m few near even inside
    obtain ⟨-, -, -, issue⟩ := page reads
    obtain ⟨-, -, -, sound⟩ := wordStep_spec (folio := t.krec.folio) (n := 16) (Nat.mod_lt (s.src c b) (show 0 < 2 ^ 32 by decide))
    exact issue right few (sound near even inside)
  case issue =>
    intro cp m reads' one two one' two' efmt store box placed few
    obtain ⟨-, -, -, -, -, issue⟩ := copy reads reads'
    exact issue (Bool.eq_false_iff.1 one) (Bool.eq_false_iff.1 two) (Bool.eq_false_iff.1 one') (Bool.eq_false_iff.1 two')
      ⟨⟨efmt, store, box⟩, placed, few⟩

end Sys2Proof.Machine
end

section
/-! PROOFS. The chase table, the allowance and hints (03 R80 to R85, 08 R197 step 2, R202, R203): what fits, what is outstanding, a command that issues
anew, TWIN, THINT, and the end of a wait for the chase table. -/

namespace Sys2Proof.Machine

open Sys2Proof.Claims

/-! ### The chase table and what is outstanding (03 R80, R82, R85) -/

theorem chaseFits_iff {s : State} {m : Cmd} (order : ∀ x ∈ m.spans, x.lo ≤ x.hi) : s.chaseFits m = true ↔ ∀ x ∈ m.spans,
    (s.chases.filter (·.span.core == x.core)).length + (m.spans.filter (·.core == x.core)).length ≤ 64
    ∧ ∀ e ∈ s.chases, e.span.core = x.core → e.span.dest ≠ x.dest → x.hi ≤ e.span.lo ∨ e.span.hi ≤ x.lo := by
  rw [State.chaseFits, List.all_eq_true]
  refine forall₂_congr fun x hx => ?_
  rw [Bool.and_eq_true, decide_eq_true_iff, Bool.not_eq_true', List.any_eq_false]
  refine and_congr_right fun _ => forall₂_congr fun e _ => ?_
  have ends : x.lo + (x.hi - x.lo) = x.hi := Nat.add_sub_cancel' (order x hx)
  simp only [Span.overlaps, ends, Bool.and_eq_true, bne_iff_ne, beq_iff_eq, decide_eq_true_eq, not_and, Nat.not_lt]
  constructor
  · intro h core dest
    by_cases below : x.lo < e.span.hi
    · exact .inl (h dest ⟨core, below⟩)
    · exact .inr (Nat.not_lt.1 below)
  · rintro h dest ⟨core, below⟩
    exact (h core dest).resolve_right (Nat.not_le.2 below)

theorem outstanding_eq (s : State) (team : Nat) : s.outstanding team =
    (let ms := s.cmds.filter fun m => decide (m.team = team ∧ m.charged = true ∧ (m.spans = [] ∨ ∃ e ∈ s.chases, e.tag = m.uid));
    ((ms.map (·.bytes)).sum, ms.length)) := by
  have same : (fun m : Cmd => m.team == team && m.charged && (m.spans.isEmpty || s.chases.any (·.tag == m.uid)))
      = fun m => decide (m.team = team ∧ m.charged = true ∧ (m.spans = [] ∨ ∃ e ∈ s.chases, e.tag = m.uid)) := by
    funext m
    rw [Bool.eq_iff_iff]
    simp [and_assoc]
  rw [State.outstanding, same]
  simp only [sumL_eq_sum]

/-! ### Commands that issue, at once or anew (04 R101, 08 R197) -/

/-- Every engine command is the shared operation with its own checks. -/
theorem commandDest_engineOp {s : State} {i : Instr} {d : SReg} (h : commandDest i = some d) : ∃ k, exec i s = engineOp s d k := by
  cases i <;> cases h <;> exact ⟨_, rfl⟩

section Again
variable {s : State} {c : Cur} {g : Group} {t : Team} {i : Instr} {d : SReg} (hg : s.GroupIssuing c g) (ht : s.team? g.team = some t)
  (hi : commandDest i = some d)
include hg ht hi

theorem command_heldBack (hm : s.heldCmd c.agent = none) : HeldBack s c false 2 i := by
  obtain ⟨k, e⟩ := commandDest_engineOp (s := s) hi
  exact heldBack_of_ordered (e.trans (engineOp_ordered hg ht hm d k))

/-- A command that has waited for the chase table is taken up under a new number, with its checks behind it. -/
theorem command_again {m : Cmd} (hm : m ∈ s.cmds) (own : m.agent = c.agent) (waits : m.charged = false)
    (only : ∀ x ∈ s.cmds, x.agent = c.agent → x.charged = false → x = m) :
    TakesUp s (s.dropHeld c.agent) c d { m with uid := s.uid } i := by
  obtain ⟨k, e⟩ := commandDest_engineOp (s := s) hi
  have held : s.heldCmd c.agent = some m := by
    unfold State.heldCmd
    cases h : s.cmds.find? fun m => m.agent == c.agent && !m.charged with
    | none => exact absurd (List.find?_eq_none.1 h m hm) (by simp [own, waits])
    | some x =>
      have found := List.find?_some h
      rw [Bool.and_eq_true, beq_iff_eq, Bool.not_eq_true'] at found
      rw [only x (List.mem_of_find?_eq_some h) found.1 found.2]
  rw [engineOp, withGroup_group hg] at e
  simp only [ht, held] at e
  exact takesUp_of_takeUp e

end Again

/-! ### TWIN (08 R202) -/

section Twin
variable {s : State} {c : Cur} {g : Group} {t : Team} (hg : s.GroupIssuing c g) (d : SReg)
include hg

theorem twinOut_fits {o : Nat × Nat} (ho : s.outstanding g.team = o) (fits : o.1 < 2 ^ 32) :
    exec (.twinOut d) s = .next (s.putS c d (o.1 + 2 ^ 32 * o.2)) := by
  subst ho
  exact (withGroup_group hg _).trans (congrArg _ (if_pos fits))

/-- More bytes than the field holds leave it free. -/
theorem twinOut_free {o : Nat × Nat} (ho : s.outstanding g.team = o) (large : 2 ^ 32 ≤ o.1) :
    ∃ bytes < 2 ^ 32, exec (.twinOut d) s = .next (s.freeWord.2.putS c d (bytes + 2 ^ 32 * o.2)) := by
  subst ho
  exact ⟨s.freeWord.1.toNat % 2 ^ 32, Nat.mod_lt _ (by decide), (withGroup_group hg _).trans (congrArg _ (if_neg (Nat.not_lt.2 large)))⟩

variable (ht : s.team? g.team = some t)
include ht

theorem twinLim_puts : exec (.twinLim d) s = .next (s.putS c d (t.limB + 2 ^ 32 * t.limC)) := by
  refine (withGroup_group hg _).trans ?_
  simp only [ht]
  rfl

theorem twinSet_puts (a : SReg) {lb lc : Nat} (hb : max 4096 (min (s.src c a % 2 ^ 32) (s.ceilings g.core).1) = lb)
    (hc : max 1 (min (s.src c a / 2 ^ 32 % 2 ^ 16) (s.ceilings g.core).2) = lc) :
    exec (.twinSet d a) s = .next (State.putS (s.setTeam { t with limB := lb, limC := lc }) c d (lb + 2 ^ 32 * lc)) := by
  subst hb hc
  refine (withGroup_group hg _).trans ?_
  simp only [ht, ← src_group hg, fld_low]
  rfl

end Twin

/-! ### THINT (04 R108, 08 R203) -/

section Hint
variable {s : State} {c : Cur} {g : Group} (hg : s.GroupIssuing c g) (a b : SReg)
include hg

theorem thint_none (h : s.part? (s.partOf g.core) = none) : exec (.thint a b) s = .next (s.finish c) := by
  refine (withGroup_group hg _).trans ?_
  simp only [h]

theorem thint_hints {p : Partition} (h : s.part? (s.partOf g.core) = some p) : exec (.thint a b) s = .next
    (State.finish { s with hints := s.hints ++ s.hintRuns p (g.core / 4) (s.src c a % 2 ^ 57) (s.src c b % 2 ^ 32) } c) := by
  refine (withGroup_group hg _).trans ?_
  simp only [h, ← src_group hg]
  rfl

end Hint

/-! ### The end of a wait (08 R197 step 2, 11 R262) -/

section WaitEnd
variable {s : State} {g : Group} {c : Cur} {d : SReg} (hg : s.group? g.core g.slot = some g)
include hg

theorem chaseWaitEnd_chase {uid : Nat} {m : Cmd} (run : g.run = .waiting (.chase c d uid)) (hm : s.cmd? uid = some m)
    (fits : s.chaseFits m = true) :
    exec (.chaseWaitEnd g.core g.slot) s = .next (s.setGroup { g with run := .ready, notBefore := s.cycle + 1 }) := by
  change execChaseWaitEnd g.core g.slot s = _
  simp only [execChaseWaitEnd, hg, run, State.chaseAgain, hm]
  exact congrArg _ (if_pos fits)

theorem chaseWaitEnd_taskq {slot word : Nat} (run : g.run = .waiting (.taskq c d slot word)) (fits : s.slotFits g.core slot = true) :
    exec (.chaseWaitEnd g.core g.slot) s = .next (s.setGroup { g with run := .ready, notBefore := s.cycle + 1 }) := by
  change execChaseWaitEnd g.core g.slot s = _
  simp only [execChaseWaitEnd, hg, run]
  exact congrArg _ (if_pos fits)

end WaitEnd

/-- Settles O29: each clause is a law of the chase table, of the allowance, or of the instruction that it speaks of. -/
theorem allowanceAndHintsComplete : Obligations.AllowanceAndHintsComplete :=
  ⟨fun _ _ => chaseFits_iff, outstanding_eq,
    fun _ _ _ _ hg ht _ _ hi => ⟨command_heldBack hg ht hi, fun _ hm own waits only => command_again hg ht hi hm own waits only⟩,
    fun _ _ _ _ hg ht d a b => ⟨twinLim_puts hg d ht, ⟨twinOut_fits hg d rfl, twinOut_free hg d rfl⟩, twinSet_puts hg d ht a rfl rfl,
      thint_none hg a b, fun _ => thint_hints hg a b⟩,
    fun _ _ _ _ hg => ⟨fun _ _ => chaseWaitEnd_chase hg, fun _ _ => chaseWaitEnd_taskq hg⟩⟩

end Sys2Proof.Machine
end

section
/-! PROOFS. Counted additions and initialisations of arrival words (03 R72 to R74): the four words after each, and the groups that a firing wakes. -/

namespace Sys2Proof.Machine

open Sys2Proof.Claims

/-! ### Words written one after another -/

section Words
variable {s : State} (hs : s.Inv) {a b n x word : Nat} {cs ds : List Host.Cell}

theorem cellsFrom_cellsAt (k o : Nat) (bs : List Byte) : cellsFrom k (cellsAt o bs) = cellsAt (k + o) bs := by
  induction bs generalizing o with
  | nil => rfl
  | cons b bs ih => exact congrArg _ (ih (o + 1))

theorem cellsFrom_cellsLE (k o n x : Nat) : cellsFrom k (cellsLE o n x) = cellsLE (k + o) n x := cellsFrom_cellsAt ..

theorem cellsFrom_append (k : Nat) : cellsFrom k (cs ++ ds) = cellsFrom k cs ++ cellsFrom k ds := List.map_append

theorem le_of_mem {t : State} (h : t.mem = s.mem) (a n : Nat) : t.le a n = s.le a n := congrArg leNat (bytes_mem _ _ h a n)

/-- Two runs of cells are written one after the other. -/
theorem le_write_append (a n : Nat) : (s.write (cs ++ ds)).le a n = ((s.write cs).write ds).le a n := by
  refine le_of_mem ?_ a n
  simp only [State.write, memSetAll, List.foldl_append]

include hs

theorem le_write_word (h : x < 2 ^ 32) : (s.write (cellsLE a 4 x)).le a 4 = x := by
  rw [le_write hs]
  exact Nat.mod_eq_of_lt h

theorem le_write_apart (h : b + n ≤ a ∨ a + 4 ≤ b) : (s.write (cellsLE a 4 x)).le b n = s.le b n :=
  le_write_outside hs fun c hc => by have := mem_cellsLE hc; omega

end Words

/-! ### A target that is passed (03 R73, R74) -/

section Pass
variable {s : State} (hs : s.Inv) {word count gen target flags : Nat} {z : List Host.Cell}
include hs

theorem write_passTarget (hc : count < 2 ^ 32) (hf : flags < 2 ^ 32) :
    let t := s.write (cellsFrom word (passTarget count gen target flags z))
    t.le word 4 = (s.write (cellsFrom word z)).le word 4 ∧ t.le (word + 4) 4 = count % target
    ∧ t.le (word + 8) 4 = (gen + count / target) % 2 ^ 32 ∧ t.le (word + 12) 4 = if target < count then flags ||| 2 else flags := by
  have left : count % target < 2 ^ 32 := (Nat.mod_le count target).trans_lt hc
  have wrapped : (gen + count / target) % 2 ^ 32 < 2 ^ 32 := Nat.mod_lt _ (Nat.two_pow_pos 32)
  have told : (if target < count then flags ||| 2 else flags) < 2 ^ 32 := by
    split
    · exact Nat.or_lt_two_pow hf (by decide)
    · exact hf
  simp only [passTarget, cellsFrom_append, le_write_append, cellsFrom_cellsLE]
  refine ⟨?target, ?count, ?gen, le_write_word (write_inv hs) told⟩
  all_goals rw [le_write_apart (write_inv hs) (by omega), le_write_append]
  case gen => exact le_write_word (write_inv hs) wrapped
  all_goals rw [le_write_apart (write_inv hs) (by omega), le_write_append]
  case count => exact le_write_word (write_inv hs) left
  case target => exact le_write_apart (write_inv hs) (by omega)

end Pass

/-! ### Groups that a firing wakes -/

/-- A group that is woken in turn is ready in the end. -/
theorem fold_wake_ready {core slot : Nat} {s : State} {gs : List Group}
    (h : (s.group? core slot).map (·.run) = some .ready ∨ (∃ g ∈ gs, g.core = core ∧ g.slot = slot) ∧ (s.group? core slot).isSome = true) :
    ((gs.foldl (fun s g => s.wake g) s).group? core slot).map (·.run) = some .ready := by
  induction gs generalizing s with
  | nil => simpa using h
  | cons g gs ih =>
    refine ih (s := s.wake g) ?_
    by_cases here : core = g.core ∧ slot = g.slot
    · obtain ⟨rfl, rfl⟩ := here
      have there : (s.group? g.core g.slot).isSome = true := h.elim (fun ready => by
        obtain ⟨x, hx, -⟩ := Option.map_eq_some_iff.1 ready
        rw [hx]
        rfl) And.right
      obtain ⟨x, hx⟩ := Option.isSome_iff_exists.1 there
      exact .inl (congrArg (Option.map (·.run)) (group?_setGroup_self (g := { g with run := .ready, notBefore := s.cycle + 1 }) hx))
    · have other : (s.wake g).group? core slot = s.group? core slot := group?_setGroup_other here
      rw [other]
      refine h.imp_right fun ⟨⟨x, hx, core, slot⟩, stands⟩ => ⟨⟨x, ?_, core, slot⟩, stands⟩
      obtain rfl | hx := List.mem_cons.1 hx
      · exact absurd ⟨core.symm, slot.symm⟩ here
      · exact hx

theorem fire_ready {s : State} {g : Group} {word : Nat} (hg : g ∈ s.groups) (waits : g.run = .waiting (.arrival word))
    (found : s.group? g.core g.slot = some g) : ((s.fire word).group? g.core g.slot).map (·.run) = some .ready :=
  fold_wake_ready (.inr ⟨⟨g, List.mem_filter.2 ⟨hg, by simp [waits]⟩, rfl, rfl⟩, by rw [found]; rfl⟩)

/-! ### Additions and initialisations -/

/-- A state that may have fired reads as it did before. -/
theorem fired_le {p : Prop} [Decidable p] (s : State) (word a n : Nat) : (if p then s.fire word else s).le a n = s.le a n := by
  split
  · exact le_of_mem (fire_mem ..) a n
  · rfl

section Count
variable {s : State} {word n target : Nat}

/-- A word that has no target yet counts the bytes and tells of them (03 R73). -/
theorem countAdd_open (hs : s.Inv) (h : s.le (word + 12) 4 % 2 = 0 ∨ s.le word 4 = 0) :
    let t := s.countAdd word n 0
    t.le word 4 = s.le word 4 ∧ t.le (word + 4) 4 = (s.le (word + 4) 4 + n) % 2 ^ 32 ∧ t.le (word + 8) 4 = s.le (word + 8) 4
    ∧ t.le (word + 12) 4 = s.le (word + 12) 4 ||| 16 := by
  have add : s.countAdd word n 0 =
      s.write (cellsFrom word (cellsLE 4 4 ((s.le (word + 4) 4 + n) % 2 ^ 32) ++ cellsLE 12 4 (s.le (word + 12) 4 ||| 16))) := by
    rw [State.countAdd, Nat.or_zero]
    exact if_pos h
  have wrapped : (s.le (word + 4) 4 + n) % 2 ^ 32 < 2 ^ 32 := Nat.mod_lt _ (Nat.two_pow_pos 32)
  have told : s.le (word + 12) 4 ||| 16 < 2 ^ 32 := Nat.or_lt_two_pow (le_lt s (word + 12) 4) (by decide)
  simp only [add, cellsFrom_append, le_write_append, cellsFrom_cellsLE]
  refine ⟨?target, ?count, ?gen, le_write_word (write_inv hs) told⟩ <;> rw [le_write_apart (write_inv hs) (by omega)]
  case count => exact le_write_word hs wrapped
  all_goals exact le_write_apart hs (by omega)

/-- A word with a target takes its count down by what the target divides out of it (03 R73). -/
theorem countAdd_eq (hv : s.le (word + 12) 4 % 2 = 1) (ht : s.le word 4 ≠ 0) : s.countAdd word n 0 =
    let t := s.write (cellsFrom word (passTarget ((s.le (word + 4) 4 + n) % 2 ^ 32) (s.le (word + 8) 4) (s.le word 4) (s.le (word + 12) 4) []))
    if s.le word 4 ≤ (s.le (word + 4) 4 + n) % 2 ^ 32 then t.fire word else t := by
  rw [State.countAdd, Nat.or_zero]
  exact if_neg (by omega)

theorem countAdd_passes (hs : s.Inv) (hv : s.le (word + 12) 4 % 2 = 1) (ht : s.le word 4 ≠ 0) :
    let count := (s.le (word + 4) 4 + n) % 2 ^ 32
    let t := s.countAdd word n 0
    t.le word 4 = s.le word 4 ∧ t.le (word + 4) 4 = count % s.le word 4
    ∧ t.le (word + 8) 4 = (s.le (word + 8) 4 + count / s.le word 4) % 2 ^ 32
    ∧ t.le (word + 12) 4 = if s.le word 4 < count then s.le (word + 12) 4 ||| 2 else s.le (word + 12) 4 := by
  simp only [countAdd_eq hv ht, fired_le]
  obtain ⟨target, rest⟩ := write_passTarget hs (z := []) (word := word) (gen := s.le (word + 8) 4) (target := s.le word 4)
    (Nat.mod_lt (s.le (word + 4) 4 + n) (Nat.two_pow_pos 32)) (le_lt s (word + 12) 4)
  exact ⟨target.trans (le_write_outside hs fun c hc => by cases hc), rest⟩

theorem initWord_eq (ht : target ≠ 0) : s.initWord word target =
    let t := s.write (cellsFrom word (passTarget (s.le (word + 4) 4) (s.le (word + 8) 4) target (s.le (word + 12) 4 / 16 * 16 + 1) (cellsLE 0 4 target)))
    if target ≤ s.le (word + 4) 4 then t.fire word else t := if_neg ht

/-- The flags of an initialisation: V alone, under the bits that it keeps (03 R72, R74). -/
theorem initFlags_lt (s : State) (word : Nat) : s.le (word + 12) 4 / 16 * 16 + 1 < 2 ^ 32 := by
  have old := le_lt s (word + 12) 4
  omega

/-- An initialisation passes its target as often as the count already reaches it (03 R74). -/
theorem initWord_passes (hs : s.Inv) (small : target < 2 ^ 32) (ht : target ≠ 0) :
    let count := s.le (word + 4) 4
    let flags := s.le (word + 12) 4 / 16 * 16 + 1
    let t := s.initWord word target
    t.le word 4 = target ∧ t.le (word + 4) 4 = count % target ∧ t.le (word + 8) 4 = (s.le (word + 8) 4 + count / target) % 2 ^ 32
    ∧ t.le (word + 12) 4 = if target < count then flags ||| 2 else flags := by
  simp only [initWord_eq ht, fired_le]
  obtain ⟨set, rest⟩ := write_passTarget hs (z := cellsLE 0 4 target) (gen := s.le (word + 8) 4) (target := target)
    (le_lt s (word + 4) 4) (initFlags_lt s word)
  refine ⟨set.trans ?_, rest⟩
  rw [cellsFrom_cellsLE]
  exact le_write_word hs small

/-- An initialisation without a target sets V and clears the flags (03 R74). -/
theorem initWord_zero (hs : s.Inv) :
    let t := s.initWord word 0
    t.le word 4 = 0 ∧ t.le (word + 4) 4 = s.le (word + 4) 4 ∧ t.le (word + 8) 4 = s.le (word + 8) 4
    ∧ t.le (word + 12) 4 = s.le (word + 12) 4 / 16 * 16 + 1 := by
  have init : s.initWord word 0 = s.write (cellsFrom word (cellsLE 0 4 0 ++ cellsLE 12 4 (s.le (word + 12) 4 / 16 * 16 + 1))) := by
    rw [State.initWord, if_pos rfl]
  simp only [init, cellsFrom_append, le_write_append, cellsFrom_cellsLE]
  refine ⟨?set, ?count, ?gen, le_write_word (write_inv hs) (initFlags_lt s word)⟩ <;> rw [le_write_apart (write_inv hs) (by omega)]
  case set => exact le_write_word hs (by decide)
  all_goals exact le_write_apart hs (by omega)

/-- The groups that wait on the word are ready once the target has been passed. -/
theorem fired_ready {p : Prop} [Decidable p] {g : Group} {cs : List Host.Cell} (hp : p) (hg : g ∈ s.groups) (waits : g.run = .waiting (.arrival word))
    (found : s.group? g.core g.slot = some g) :
    (State.group? (if p then (s.write cs).fire word else s.write cs) g.core g.slot).map (·.run) = some .ready := by
  rw [if_pos hp]
  exact fire_ready (s := s.write cs) hg waits found

end Count

/-- Settles O22: an addition or an initialisation writes the four words, and fires where it passes the target. -/
theorem countedAdditionFollowsR73 : Obligations.CountedAdditionFollowsR73 := by
  refine ⟨fun s word n hs => ⟨?target, fun noTarget => (countAdd_open hs noTarget).2, fun valid target => (countAdd_passes hs valid target).2,
    fun a outside => (countAdd_still outside n 0).byte hs, fun g hg waits found valid target reached => ?ready⟩,
    fun s word target hs small => ⟨?set, fun zero => ?zero, fun some => (initWord_passes hs small some).2,
      fun a outside => (initWord_still outside target).byte hs, fun g hg waits found some reached => ?ready'⟩⟩
  case target =>
    by_cases noTarget : s.le (word + 12) 4 % 2 = 0 ∨ s.le word 4 = 0
    · exact (countAdd_open hs noTarget).1
    · exact (countAdd_passes hs (by omega) (by omega)).1
  case ready =>
    rw [countAdd_eq valid target]
    exact fired_ready reached hg waits found
  case set =>
    by_cases zero : target = 0
    · exact zero ▸ (initWord_zero hs).1
    · exact (initWord_passes hs small zero).1
  case zero => exact zero ▸ (initWord_zero hs).2
  case ready' =>
    rw [initWord_eq some]
    exact fired_ready reached hg waits found

end Sys2Proof.Machine
end

section
/-! PROOFS. ARINIT, ARADD, ARWAIT and ARTEST (04 R100, R101, 08 R190, R194, 18 R390): what each does with the address of an arrival word. -/

namespace Sys2Proof.Machine

open Sys2Proof.Claims

/-- An instruction that no agent with a lock may issue (08 R190). -/
theorem lockTraps_of_unlocked {s k : State} {c : Cur} {i : Instr} (h : exec i s = .next (s.unlocked c k)) : LockTraps s c i := by
  intro held
  obtain ⟨x, hx⟩ := Option.ne_none_iff_exists'.1 held
  exact h.trans (congrArg _ (unlocked_held hx))

section Arrival
variable {s k : State} {c : Cur} {g : Group} {i : Instr} {addr : Nat}

/-- A write to an arrival word: it traps, is held back, takes UNCORR, or goes in flight (08 R194). -/
theorem arrWrite_goes {rel : Bool} {k : Nat → State} (h : exec i s = .next (s.arrChecked c g true addr fun key =>
      s.ordered c rel 20 (s.sound c [(key, 16)] (k key)))) :
    let key := (s.locate g addr).1
    TrapsAt s c g [0, 8] true true 16 [(0, addr)] i
    ∧ (s.addrStep g [0, 8] true true addr 16 = 0 →
      HeldBack s c rel 20 i ∧ (Timely s c rel 20 → TakesUncorr s c [(key, 16)] i))
    ∧ (s.addrStep g [0, 8] true true addr 16 = 0 ∧ s.poisoned key 16 = false → Timely s c rel 20 → exec i s = .next (k key)) := by
  have goes (ok : s.addrStep g [0, 8] true true addr 16 = 0) : exec i s = .next _ := h.trans (congrArg _ (checked_ok (by simpa using ok)))
  refine ⟨trapsAt_of_checked h, fun ok => ⟨heldBack_of_ordered (goes ok), fun timely => ?_⟩, fun ⟨ok, clean⟩ timely => ?_⟩
  · exact takesUncorr_of_sound ((goes ok).trans (congrArg _ (ordered_ok timely)))
  · exact (goes ok).trans (congrArg _ ((ordered_ok timely).trans (sound_ok (by simpa using clean))))

/-- A read of an arrival word: it waits for the group's own writes to the word as well (08 R194). -/
theorem arrRead_goes {k : Nat → State} (h : exec i s = .next (s.arrRead c g addr k)) :
    let key := (s.locate g addr).1
    let own := s.ownPending c.agent key 16
    TrapsAt s c g [0, 8] false true 16 [(0, addr)] i
    ∧ (s.addrStep g [0, 8] false true addr 16 = 0 → (own = true → exec i s = .next (s.waitAgain c (.ownWrites key 16)))
      ∧ (own = false → HeldBack s c false 2 i ∧ (Timely s c false 2 → TakesUncorr s c [(key, 16)] i)))
    ∧ (s.addrStep g [0, 8] false true addr 16 = 0 ∧ s.poisoned key 16 = false → own = false → Timely s c false 2 →
      exec i s = .next (k key)) := by
  have goes (ok : s.addrStep g [0, 8] false true addr 16 = 0) : exec i s = .next _ := h.trans (congrArg _ (checked_ok (by simpa using ok)))
  have free (ok : s.addrStep g [0, 8] false true addr 16 = 0) (own : s.ownPending c.agent (s.locate g addr).1 16 = false) :
      exec i s = .next _ := (goes ok).trans (congrArg _ (if_neg (by simp [own])))
  refine ⟨trapsAt_of_checked h, fun ok => ⟨fun own => (goes ok).trans (congrArg _ (if_pos own)),
    fun own => ⟨heldBack_of_ordered (free ok own), fun timely => ?_⟩⟩, fun ⟨ok, clean⟩ own timely => ?_⟩
  · exact takesUncorr_of_sound ((free ok own).trans (congrArg _ (ordered_ok timely)))
  · exact (free ok own).trans (congrArg _ ((ordered_ok timely).trans (sound_ok (by simpa using clean))))

/-- The generation that a snapshot carries in its low word. -/
theorem snapshot_low (s : State) (key : Nat) : s.snapshot key % 2 ^ 32 = s.le (key + 8) 4 := by
  have gen := le_lt s (key + 8) 4
  rw [State.snapshot]
  omega

/-- The condition of a wait: how far the word's generation is ahead of the expected one. -/
theorem passed_iff {s : State} {key expect : Nat} : passed (s.snapshot key % 2 ^ 32) expect = true ↔
    0 < (s.le (key + 8) 4 + 2 ^ 32 - expect) % 2 ^ 32 ∧ (s.le (key + 8) 4 + 2 ^ 32 - expect) % 2 ^ 32 < 2 ^ 31 := by
  rw [snapshot_low]
  simp [passed]

/-- Bit 63 of ARTEST's answer tells that the condition holds. -/
theorem test_passed {s : State} {key expect : Nat}
    (h : 0 < (s.le (key + 8) 4 + 2 ^ 32 - expect) % 2 ^ 32 ∧ (s.le (key + 8) 4 + 2 ^ 32 - expect) % 2 ^ 32 < 2 ^ 31) :
    s.snapshot key + (if passed (s.snapshot key % 2 ^ 32) expect then 2 ^ 63 else 0) = s.snapshot key + 2 ^ 63 := by
  rw [if_pos (passed_iff.2 h)]

theorem test_waits {s : State} {key expect : Nat}
    (h : ¬ (0 < (s.le (key + 8) 4 + 2 ^ 32 - expect) % 2 ^ 32 ∧ (s.le (key + 8) 4 + 2 ^ 32 - expect) % 2 ^ 32 < 2 ^ 31)) :
    s.snapshot key + (if passed (s.snapshot key % 2 ^ 32) expect then 2 ^ 63 else 0) = s.snapshot key := by
  rw [if_neg (mt passed_iff.1 h), Nat.add_zero]

end Arrival

/-- Settles O23: each instruction is a checked write or read of the word; what a read then does turns on its generation. -/
theorem arrivalWordInstructionsComplete : Obligations.ArrivalWordInstructionsComplete := by
  intro s c g hg sc a off
  have init (b : SReg) := arrWrite_goes (i := .arinitLong a off b) (withGroup_group hg _)
  have init' (w : Word) := arrWrite_goes (i := .arinitLiteral a off w) (withGroup_group hg _)
  have add (b : SReg) := arrWrite_goes (i := .araddLong sc a off b) (withGroup_group hg _)
  have add' (w : Word) := arrWrite_goes (i := .araddLiteral sc a off w) (withGroup_group hg _)
  have test (d b : SReg) := arrRead_goes (i := .artest sc d a off b) (withGroup_group hg _)
  have wait (free : s.heldLock c.agent = none) (d b : SReg) :=
    arrRead_goes (i := .arwait sc d a off b) ((withGroup_group hg _).trans (congrArg _ (unlocked_ok free)))
  refine ⟨fun b w => ⟨(init b).1, (init' w).1, (add b).1, (add' w).1, fun d => ⟨(test d b).1, fun free => (wait free d b).1⟩⟩,
    fun d b => lockTraps_of_unlocked (withGroup_group hg _),
    fun ok b w => ⟨(init b).2.1 ok, (init' w).2.1 ok, (add b).2.1 ok, (add' w).2.1 ok⟩,
    fun ok d b => ⟨(test d b).2.1 ok, fun free => (wait free d b).2.1 ok⟩,
    fun ok timely => ⟨fun b => (init b).2.2 ok timely, fun w => (init' w).2.2 ok timely⟩,
    fun ok timely => ⟨fun b => (add b).2.2 ok timely, fun w => (add' w).2.2 ok timely⟩,
    fun ok own timely d b => ⟨fun free passes => ?_, fun free waits => ?_, fun passes => ?_, fun waits => ?_⟩⟩
  · exact ((wait free d b).2.2 ok own timely).trans (congrArg _ (if_pos (passed_iff.2 passes)))
  · exact ((wait free d b).2.2 ok own timely).trans (congrArg _ (if_neg (mt passed_iff.1 waits)))
  · exact ((test d b).2.2 ok own timely).trans (congrArg (fun x => Host.Outcome.next (s.putS c d x)) (test_passed passes))
  · exact ((test d b).2.2 ok own timely).trans (congrArg (fun x => Host.Outcome.next (s.putS c d x)) (test_waits waits))

end Sys2Proof.Machine
end

section
/-! PROOFS. The end of a group (07 R176): where the clause on its run state fails (O15). -/

namespace Sys2Proof.Machine
open Sys2Proof.Claims

/-! ### A barrier whose record names the group that ends -/

/-- A kernel of two groups. -/
def crossKernel : KRec :=
  { addr := 0, entry := 0, kdata := 0, safetab := 0, nsafe := 0, width := 8, paired := false, lig := false, nsucc := 0, groups := 2
    vregs := 16, sregs := 128, galley := 4, folio := 0, binds := [], succs := [] }

/-- Its team, on core 0. -/
def crossTeam : Team :=
  { uid := 1, launch := 2, num := 0, krec := crossKernel, seats := [{ core := 0, folio := 0, tiles := [0, 1, 2, 3] }], cset := none
    formes := .replicate 16 0, limB := 262144, limC := 64, tqOut := 0, bound := 0, started := true, hand := none, notBefore := 0
    exited := false }

/-- The group that ends, in slot 0. -/
def crossEnding : Group := Group.new 0 0 1 0 0 0 crossKernel 0x40000 0x30000 (0, 0)

/-- A matrix operation of slot 0; it keeps the slot past its group's EXIT. -/
def crossOp : MatOp :=
  { uid := 0, core := 0, slot := 0, team := 1, kind := .mzero, tile := 0, pairTile := none, folio := 0, folio2 := 0, issued := 0
    start := none, retire := 0, cells := [], flags := 0, bad := none, gate := none }

/-- The group of slot 1 waits at TMBAR, and the instruction on its record is one of slot 0. -/
def crossPeer : Group :=
  { Group.new 0 1 1 1 0 0 crossKernel 0x50000 0x38000 (0, 0) with
    run := .waiting (.tmbar { agent := .group 0 0, pc := 20, next := 32, tail := none, last := none }) }

/-- One team of two groups. That a wait record names another group than its own, the statement's hypotheses do not exclude. -/
def crossed : State :=
  { State.reset with groups := [crossEnding, crossPeer], teams := [crossTeam], mats := [crossOp] }

theorem crossed_inv : crossed.Inv := by unfold State.Inv; decide

/-- With the group of slot 0 gone the barrier completes, and completing it makes that group ready. -/
theorem crossed_endGroup : ((crossed.endGroup 0 0).group? 0 0).map (·.run) = some .ready := by decide

/-- Refutes O15, in its fourth clause: the end of a group completes its team's barrier, which resumes the agent that the waiting
group's record names. The clause does not ask that this agent is the waiting group itself; where it is the group that ends,
its slot held by a matrix operation, that group is ready afterwards and not exited. -/
theorem not_safePointYieldAndExitComplete : ¬ Obligations.SafePointYieldAndExitComplete := by
  unfold Obligations.SafePointYieldAndExitComplete
  rintro ⟨-, -, -, hends, -⟩
  have hself : ∀ h ∈ crossed.groups, crossed.group? h.core h.slot = some h := by decide
  obtain ⟨-, -, -, -, hexited, -⟩ := hends crossed crossEnding crossed_inv (hself _ List.mem_cons_self) hself
  obtain ⟨h, hslot, hready⟩ := Option.map_eq_some_iff.1 crossed_endGroup
  exact absurd (hready.symm.trans (hexited h hslot)) (by decide)

end Sys2Proof.Machine
end

section
/-! PROOFS. The fetch path before the answers (03 R77, R83 to R87, 16 R331, R333, 17 R352, R355, R357, R358): requests that may be sent,
units whose walk has ended, and streams that go on. -/

namespace Sys2Proof.Machine
open Sys2Proof.Claims

/-! ### Requests (03 R86, R87) -/

theorem requestSend_goes {s : State} {m : Cmd} {r : Req} (hm : s.cmd? m.uid = some m) (hr : s.req? m.uid r.n = some r) (may : s.maySend m r = true)
    (first : r.run = .unsent) : exec (.requestSend m.uid r.n) s = .next (s.sendReq m r) := by
  show execRequestSend m.uid r.n s = _
  simp only [execRequestSend, hm, hr]
  rw [if_pos ⟨first, may⟩]

theorem requestRetry_goes {s : State} {m : Cmd} {r : Req} {h due : Nat} (hm : s.cmd? m.uid = some m) (hr : s.req? m.uid r.n = some r)
    (may : s.maySend m r = true) (refused : r.run = .refused h due) (past : due ≤ s.time) :
    exec (.requestRetry m.uid r.n) s = .next (s.sendReq m r) := by
  show execRequestRetry m.uid r.n s = _
  simp only [execRequestRetry, hm, hr, refused]
  rw [if_pos ⟨past, may⟩]

/-- The two of `maySend`'s conditions that speak of the team's other requests at the module. -/
theorem maySend_turn {s : State} {m : Cmd} {r : Req} (may : s.maySend m r = true) :
    (s.reqs.filter fun q => q.team == r.team && q.ep == r.ep && q.run.pends).length < 8
    ∧ ∀ q ∈ s.reqsBefore r, q.team = r.team → q.ep = r.ep → q.run.due s.time = false := by
  simp only [State.maySend, Bool.and_eq_true, Bool.not_eq_true', decide_eq_true_eq, List.any_eq_false, beq_iff_eq, and_assoc, not_and] at may
  obtain ⟨-, slots, turn, -⟩ := may
  exact ⟨slots, fun q hq team ep => Bool.eq_false_iff.2 (turn q hq team ep)⟩

/-- A request that is not due is neither new nor past the hint of its refusal. -/
theorem not_due {x : ReqRun} {now : Nat} (h : x.due now = false) : x ≠ .unsent ∧ ∀ hint due, x = .refused hint due → now < due := by
  refine ⟨?_, ?_⟩
  · rintro rfl; simp [ReqRun.due] at h
  · rintro hint due rfl; simpa [ReqRun.due] using h

theorem sendReq_stays {s : State} (m : Cmd) {r : Req} (h : 16 ≤ (s.txOf s.boot.endpoint r.ep (s.streamFor r) 0).copies.length
    ∨ s.way s.boot.endpoint r.ep 0 (s.hwOf r.team) = none) : s.sendReq m r = s := by
  rw [State.sendReq]
  exact if_pos (by simpa using h)

/-! ### Units whose walk has ended (16 R331, R333) -/

/-- A unit's walk comes to a module and a page, or to a reason; the cache takes only the first. -/
theorem serveUnit_ends (s : State) (m : Cmd) (u : FUnit) (o : XOut) :
    let t := s.cache m.cluster u.va o
    let part := t.partOf (agentCore m.agent)
    let put := fun (t : State) (f : FUnit → FUnit) =>
      t.setCmd { m with units := m.units.map fun v => if v.va = u.va ∧ v.write = u.write then f v else v }
    (∀ ep page cls cmp wr first n ts, o = .ok ep page cls cmp wr first n ts →
      s.serveUnit m u o = put t fun v => { v with res := .served o, done := true })
    ∧ ∀ r l e, o = .bad r l e →
      let x := t.faultOf m.team (agentCore m.agent) u.va r l e (if m.kind = .pagereq then 2 else if u.write then 1 else 0)
      let late := m.kind == .pagereq && u.refused
      let t' := if late then t else t.postFault part x
      s.serveUnit m u o = put t' fun v =>
        { v with res := .served o, done := late, posted := (t'.part? part).any fun p => p.holds x, faulted := true } := by
  refine ⟨?_, ?_⟩
  · rintro ep page cls cmp wr first n ts rfl
    simp only [State.serveUnit, Bool.and_eq_true, beq_iff_eq]
  · rintro r l e rfl
    simp only [State.serveUnit, Bool.and_eq_true, beq_iff_eq, Cmd.accessOf]

theorem unitsDone_unarmed {s : State} {m : Cmd} (hm : s.cmd? m.uid = some m) (h : s.armed m = false) : s.unitsDone m.uid = s := by
  simp [State.unitsDone, hm, h]

theorem unitsDone_pagereq {s : State} {m : Cmd} (hm : s.cmd? m.uid = some m) (h : s.armed m = true) (hk : m.kind = .pagereq) :
    s.unitsDone m.uid = s.pagereqEnd m.uid := by
  simp [State.unitsDone, hm, h, hk]

theorem unitsDone_data {s : State} {m : Cmd} (hm : s.cmd? m.uid = some m) (h : s.armed m = true) (hk : m.kind ≠ .pagereq) :
    s.unitsDone m.uid = if m.resDone = false ∧ ∀ u ∈ m.units, u.over = true then s.startData m.uid else s := by
  simp [State.unitsDone, hm, h, hk, List.all_eq_true]

/-- Every unit of a run is served, unit by unit. -/
theorem runServed_iff (m : Cmd) (write : Bool) (va len : Nat) : m.runServed write va len = true
    ↔ ∀ u ∈ unitsOf va len, ∃ x, m.unitOf write (u * 65536) = some x ∧ x.served = true := by
  simp only [Cmd.runServed, List.all_eq_true, Option.any_eq_true]

theorem settleItem_near {m : Cmd} {i : Item} {a : Nat} (ha : i.far = some a) (hb : i.far2 = none) :
    m.settleItem i = if m.runServed (m.kind.writes || m.kind == .copy) a i.len then i else { i with fill := true, nrf := true } := by
  simp only [Cmd.settleItem, ha, hb]

theorem settleItem_copy {m : Cmd} {i : Item} {a b : Nat} (ha : i.far = some a) (hb : i.far2 = some b) :
    m.settleItem i = if m.runServed false a i.len then i
      else if m.runServed true b i.len then { i with far := some b, far2 := none, nrf := true } else { i with fill := true, nrf := true } := by
  simp only [Cmd.settleItem, ha, hb]

/-- What keeps a command from settling: it ends by its walk alone, its data has not begun, or a request of it is out. -/
theorem settleCmd_known {s : State} {m : Cmd} (hm : s.cmd? m.uid = some m) : s.settleCmd m.uid =
    if m.kind = .pagereq ∨ m.resDone = false ∨ ∃ r ∈ s.reqs, r.cmd = m.uid ∧ r.run ≠ .finished then s
    else if ∀ i ∈ m.items, i.fill = true → i.done = true then s.retireCmd m
    else { s with chases := s.chases.filter fun e => !(e.tag == m.uid && !e.span.dest) } := by
  have busy : (m.kind == .pagereq || !m.resDone || s.reqs.any (fun r => r.cmd == m.uid && r.run != .finished)) = true
      ↔ m.kind = .pagereq ∨ m.resDone = false ∨ ∃ r ∈ s.reqs, r.cmd = m.uid ∧ r.run ≠ .finished := by
    simp [or_assoc]
  have counted : (m.items.all fun i => !i.fill || i.done) = true ↔ ∀ i ∈ m.items, i.fill = true → i.done = true := by
    simp [List.all_eq_true, imp_iff_not_or]
  simp only [State.settleCmd, hm, busy, counted]

theorem unitsAreServed (s : State) : UnitsAreServed s := by
  refine ⟨serveUnit_ends s, fun m hm => ⟨unitsDone_unarmed hm, fun ha hk => ?_, fun ha hk hw => ?_, fun ha hk hd hu => ?_⟩,
    fun m i a ha => ⟨fun hb hs => ?_, fun hb hs => ?_, fun b hb => ⟨fun hs => ?_, fun hs ht => ?_, fun hs ht => ?_⟩⟩,
    fun m hm => ⟨fun h => ?_, fun h hc => ?_, fun h hc => ?_⟩⟩
  · rw [unitsDone_pagereq hm ha hk]
    simp only [State.pagereqEnd, hm, arrFlags, Bool.false_eq_true, if_false, Nat.zero_add]
  · rw [unitsDone_data hm ha hk, if_neg]
    rintro ⟨hd, hu⟩
    rcases hw with hw | ⟨u, mem, hu'⟩
    · simp [hd] at hw
    · simp [hu u mem] at hu'
  · rw [unitsDone_data hm ha hk, if_pos ⟨hd, hu⟩]
    simp only [State.startData, hm]
  · rw [settleItem_near ha hb, if_pos ((runServed_iff ..).2 hs)]
  · rw [settleItem_near ha hb, if_neg fun h => hs ((runServed_iff ..).1 h)]
  · rw [settleItem_copy ha hb, if_pos ((runServed_iff ..).2 hs)]
  · rw [settleItem_copy ha hb, if_neg fun h => hs ((runServed_iff ..).1 h), if_pos ((runServed_iff ..).2 ht)]
  · rw [settleItem_copy ha hb, if_neg fun h => hs ((runServed_iff ..).1 h), if_neg fun h => ht ((runServed_iff ..).1 h)]
  · rw [settleCmd_known hm, if_pos h]
  · rw [settleCmd_known hm, if_neg h, if_pos hc]; rfl
  · rw [settleCmd_known hm, if_neg h, if_neg hc]

/-! ### Streams that go on (17 R352, R355, R357, R358) -/

theorem adrift_iff (x : TxStream) : x.adrift = true ↔ x.copies ≠ [] ∧ (x.lane = none ∨ ∃ c ∈ x.copies, c.lane = none) := by
  simp [TxStream.adrift]

theorem emitAgain_nil (s : State) (x : TxStream) (n : Nat) : s.emitAgain x n [] = (s, []) := by
  cases n <;> rfl

theorem streamsGoOn (s : State) : StreamsGoOn s := by
  refine ⟨fun p => ?_, fun x n => ⟨rfl, fun h => ?_, fun t l h e => ?_⟩, fun x cs => rfl, fun c d cs => ⟨rfl, rfl, rfl⟩,
    fun x cs n => ⟨emitAgain_nil .., rfl, fun h e => ?_, fun t l h e => ?_⟩, fun x cs => ?_⟩
  · simp only [State.flow, adrift_iff]
  · rw [State.pump]
    rcases h with h | h
    · exact if_pos (List.isEmpty_iff.2 h)
    · simp only [h, ite_self]
  · rw [State.pump, if_neg (by simpa using h)]
    simp only [e, onLane, List.isEmpty_iff]
  · rw [State.emitAgain, if_neg (by simpa using h)]
    simp only [e, onLane]
  · rw [State.emitAgain, if_neg (by simpa using h)]
    simp only [e, onLane]
  · simp only [State.resend, List.isEmpty_iff]

end Sys2Proof.Machine
end

section
/-! PROOFS. What a chunk delivers (03 R71, R76, R391): its parts, what it does to each item of its request, and the one addition that
counts all of it. -/

namespace Sys2Proof.Machine
open Sys2Proof.Claims

/-! ### A chunk at its command -/

theorem deliver_unknown {s : State} {c : Chunk} (h : s.cmd? c.cmd = none ∨ s.req? c.cmd c.req = none) : s.deliver c = s := by
  rcases h with h | h
  · simp only [State.deliver, h]
  · cases hm : s.cmd? c.cmd <;> simp only [State.deliver, hm, h]

theorem deliver_known {s : State} {c : Chunk} {m : Cmd} {r : Req} (hm : s.cmd? c.cmd = some m) (hr : s.req? c.cmd c.req = some r) :
    let x := partsArrive c.bad r.piece c.bytes c.parts
    let as := x.1.filter fun a => r.owed.any (· == (a.lo, a.hi))
    let q : Req := { r with piece := x.2 }
    s.deliver c = if r.run ≠ .accepted then s else if as = [] then s.setReq q else s.deliverTo m q as := by
  simp only [State.deliver, hm, hr, List.isEmpty_iff]

/-- An accepted request is finished with the last of it, nothing of it left to be carried out or answered. -/
theorem settled_accepted {r : Req} (h : r.run = .accepted) : r.settled = if r.left = [] ∧ r.owed = [] then { r with run := .finished } else r := by
  simp only [Req.settled, h, Req.over, true_and, Bool.and_eq_true, List.isEmpty_iff]

theorem deliverTo_accepted (s : State) (m : Cmd) {r : Req} (h : r.run = .accepted) (as : List Arrived) :
    let t := as.foldl (fun t a => t.add r a) { m := m, out := [], n := 0, err := false, nrf := false : Taken }
    let rest : Req := { r with owed := r.owed.filter fun w => !as.any fun a => w == (a.lo, a.hi) }
    s.deliverTo m r as = State.settleCmd (State.countRecvs
      (State.writeFolio ((s.setCmd t.m).setReq (if rest.left = [] ∧ rest.owed = [] then { rest with run := .finished } else rest)) t.m t.out)
      t.m t.n ((if t.nrf then 8 else 0) + if t.err then 4 else 0)) m.uid := by
  intro t rest
  have ends : rest.settled = if rest.left = [] ∧ rest.owed = [] then { rest with run := .finished } else rest := settled_accepted h
  rw [← ends]
  rfl

theorem partsArrive_cons (bad : Bool) (piece : List Byte × Bool) (bs : List Byte) (p : Part) (ps : List Part) :
    let here := bs.take p.n
    let whole := (piece.1 ++ here, piece.2 || bad)
    (p.coded = false → partsArrive bad piece bs (p :: ps)
      = (let r := partsArrive bad piece (bs.drop p.n) ps; ({ lo := p.lo, hi := p.hi, cells := cellsAt p.lo here, bad := bad } :: r.1, r.2)))
    ∧ (p.coded = true → p.more = true → partsArrive bad piece bs (p :: ps) = partsArrive bad whole (bs.drop p.n) ps)
    ∧ (p.coded = true → p.more = false → partsArrive bad piece bs (p :: ps)
      = (let r := partsArrive bad ([], false) (bs.drop p.n) ps; (blockArrived p whole :: r.1, r.2))) := by
  refine ⟨fun h => ?_, fun h more => ?_, fun h last => ?_⟩
  · simp only [partsArrive, h, Bool.false_eq_true, if_false]
  · simp only [partsArrive, h, more, if_true]
  · simp only [partsArrive, h, last, if_true, Bool.false_eq_true, if_false]

/-! ### A chunk at one item -/

theorem deliverItem_atom {m : Cmd} {op : AtOp} {ty : Ty} (hk : m.kind = .atom op ty) {i : Item} (hi : i.form = .plain) (w : Nat × Nat)
    (bs old got : List Host.Cell) (bad : Bool) : deliverItem m w bs old got bad i
      = (i, i.loc.zip ((List.range 8).map fun k => if bad then 0 else memGet bs (w.1 + k)), i.cnt, bad, i.nrf) := by
  simp only [deliverItem, hi, hk]

theorem deliverItem_plain {m : Cmd} (hk : ∀ op ty, m.kind ≠ .atom op ty) {i : Item} (hi : i.form = .plain) {a : Nat} (ha : i.far = some a)
    (w : Nat × Nat) (bs old got : List Host.Cell) (bad : Bool) : deliverItem m w bs old got bad i
      = (i, if m.kind.fetches then (plainPart i w bs).map fun b => (b.1, if bad then 0 else b.2) else [],
        min (a + i.len) w.2 - max a w.1, bad || i.bad, i.nrf) := by
  cases h : m.kind
  case atom op ty => exact absurd h (hk op ty)
  all_goals simp [deliverItem, hi, h, ha]

theorem deliverItem_record {m : Cmd} {i : Item} (hi : i.form ≠ .plain) (w : Nat × Nat) (bs old got : List Host.Cell) (bad : Bool) :
    let n := i.sourceDone got - i.sourceDone old
    let j : Item := { i with bad := i.bad || bad }
    deliverItem m w bs old got bad i =
      if i.done = true ∨ i.fill = true ∧ m.kind.fetches = true then (j, [], 0, false, false)
      else if m.kind.fetches = true then
        if i.whole got then ({ j with done := true }, (j.expand got).1, i.cnt, (j.expand got).2, i.nrf) else (j, [], 0, false, false)
      else ({ j with done := !i.fill && i.whole got, cnt := i.cnt - n }, [], n, j.bad, i.nrf && !i.fill) := by
  have whole : Item.whole { i with bad := i.bad || bad } got = i.whole got := rfl
  have source : ∀ xs, Item.sourceDone { i with bad := i.bad || bad } xs = i.sourceDone xs := fun _ => rfl
  rw [deliverItem]
  split
  · contradiction
  · simp only [whole, source, Bool.or_eq_true, Bool.and_eq_true, Bool.not_eq_true', ← Bool.not_eq_true, ite_not]

theorem chunksAreDelivered (s : State) : ChunksAreDelivered s := by
  refine ⟨fun c => deliver_unknown, fun c m r hm hr => ⟨fun h => ?_, fun h ha => ?_, fun h ha => ?_⟩,
    fun bad piece bs p ps => ⟨rfl, partsArrive_cons bad piece bs p ps⟩, fun t r a => ⟨rfl, rfl, rfl, rfl, rfl⟩,
    fun m w bs old got bad i => ⟨fun op ty hi hk => deliverItem_atom hk hi .., fun a hi hk ha => deliverItem_plain hk hi ha ..,
      fun hi h => ?_, fun hi hd hf hn => ?_, fun hi hd hf => ?_⟩⟩
  · rw [deliver_known hm hr, if_pos h]
  · rw [deliver_known hm hr, if_neg (by simp [h]), if_pos ha]
  · rw [deliver_known hm hr, if_neg (by simp [h]), if_neg ha]
    exact deliverTo_accepted s m (r := { r with piece := (partsArrive c.bad r.piece c.bytes c.parts).2 }) h _
  · rw [deliverItem_record hi, if_pos h]
  · rw [deliverItem_record hi, if_neg (by simp [hd, hn]), if_pos hf]
  · rw [deliverItem_record hi, if_neg (by simp [hd, hf]), if_neg (by simp [hf])]

end Sys2Proof.Machine
end

section
/-! PROOFS. The fetch path after the requests (03 R73, R78, 17 R347, R352 to R358, R391): bursts and their acknowledgements, zero fill in
the order of the box, replays, and grants in their turn (O39). -/

namespace Sys2Proof.Machine
open Sys2Proof.Claims

/-! ### The end of a walk (16 R331) -/

theorem translationWalk_held {s : State} {m : Cmd} (hm : s.cmd? m.uid = some m) (h : m.charged = false ∨ s.saving m.team = true) (k : Nat) :
    exec (.translationWalkComplete m.uid k) s = .next s := by
  show execTranslationWalkComplete m.uid k s = _
  cases hu : nth m.units k
  case none => simp only [execTranslationWalkComplete, hm, hu]
  case some u =>
    simp only [execTranslationWalkComplete, hm, hu]
    exact if_pos (by simpa using h)

theorem translationWalk_ended {s : State} {m : Cmd} {u : FUnit} {k : Nat} {o : XOut} (hm : s.cmd? m.uid = some m) (hc : m.charged = true)
    (hs : s.saving m.team = false) (hu : nth m.units k = some u) (ho : u.res = .ended o) :
    exec (.translationWalkComplete m.uid k) s = .next (if m.resDone then s.reaim m u o else (s.serveUnit m u o).unitsDone m.uid) := by
  show execTranslationWalkComplete m.uid k s = _
  simp only [execTranslationWalkComplete, hm, hu, hc, hs, ho, Bool.not_true, Bool.or_self, Bool.false_eq_true, if_false]

theorem translationWalk_pending {s : State} {m : Cmd} {u : FUnit} {k : Nat} (hm : s.cmd? m.uid = some m) (hc : m.charged = true)
    (hs : s.saving m.team = false) (hu : nth m.units k = some u) (ho : u.res = .pending) :
    exec (.translationWalkComplete m.uid k) s = .next (s.setCmd (s.beginUnits m)) := by
  show execTranslationWalkComplete m.uid k s = _
  simp only [execTranslationWalkComplete, hm, hu, hc, hs, ho, Bool.not_true, Bool.or_self, Bool.false_eq_true, if_false]

theorem beginUnits_part {s : State} {m : Cmd} {p : Partition} (h : s.part? (s.partOf (agentCore m.agent)) = some p) :
    s.beginUnits m = { m with units := s.beginList p m.cluster (32 - s.walksIn m.cluster) m.units } := by
  simp only [State.beginUnits, h]

/-! ### Bursts that arrive (17 R347, R352, R356) -/

/-- A burst is taken at the port to which its wavelength leads, with its chunks on the lane by which it came. -/
theorem arrivedBurst_own {s : State} {own : Nat} {b c : Burst} {t : Transit} (h : s.arrivedBurst own b t = some c) :
    (b.src + b.wave) % 128 = own ∧ c.lane = b.lane := by
  unfold State.arrivedBurst at h
  split at h
  · contradiction
  · next port =>
    refine ⟨not_not.1 port, ?_⟩
    cases t
    case intact => cases h; rfl
    case uncorrected => cases h
    case changed xs =>
      dsimp only at h
      split at h
      · cases h; rfl
      · cases h

theorem arrivedBurst_elsewhere (s : State) {own : Nat} {b : Burst} (h : (b.src + b.wave) % 128 ≠ own) (t : Transit) :
    s.arrivedBurst own b t = none := if_pos h

theorem arrivedBurst_intact (s : State) {own : Nat} {b : Burst} (h : (b.src + b.wave) % 128 = own) :
    s.arrivedBurst own b .intact = some b := if_neg (not_not.2 h)

theorem arrivedBurst_uncorrected (s : State) (own : Nat) (b : Burst) : s.arrivedBurst own b .uncorrected = none := ite_self _

/-- The machine with a burst off the wire, its lane's run of discards at an end. -/
def State.soundBurst (s : State) (k : Nat) (b : Burst) : State :=
  let s' := { s with wire := dropNth s.wire k }
  let l := s.lane b.lane.1 b.lane.2
  if l.bad = 0 then s' else s'.setLane { l with bad := 0 }

theorem responseBurst_discard {s : State} {k : Nat} {b : Burst} {t : Transit} (hb : nth s.wire k = some b) (hc : b.chunks ≠ [])
    (h : s.arrivedBurst s.boot.endpoint b t = none) :
    exec (.responseBurstReceive k t) s = .next (State.discard { s with wire := dropNth s.wire k } b) := by
  show execResponseBurstReceive k t s = _
  simp only [execResponseBurstReceive, hb, List.isEmpty_iff, hc, if_false, h]

theorem responseBurst_taken {s : State} {k : Nat} {b c : Burst} {t : Transit} (hb : nth s.wire k = some b) (hc : b.chunks ≠ [])
    (h : s.arrivedBurst s.boot.endpoint b t = some c) :
    exec (.responseBurstReceive k t) s = .next (State.acceptChunks (((s.soundBurst k b).takeAck c).oweAck c) c c.chunks) := by
  show execResponseBurstReceive k t s = _
  simp only [execResponseBurstReceive, hb, List.isEmpty_iff, hc, if_false, h, (arrivedBurst_own h).2, State.soundBurst]
  rfl

theorem ackOnly_discard {s : State} {k : Nat} {b : Burst} {t : Transit} (hb : nth s.wire k = some b) (hc : b.chunks = [])
    (h : s.arrivedBurst s.boot.endpoint b t = none) :
    exec (.ackOnlyReceive k t) s = .next (State.discard { s with wire := dropNth s.wire k } b) := by
  show execAckOnlyReceive k t s = _
  simp only [execAckOnlyReceive, hb, hc, List.isEmpty_nil, Bool.not_true, Bool.false_eq_true, if_false, h]

theorem ackOnly_taken {s : State} {k : Nat} {b c : Burst} {t : Transit} (hb : nth s.wire k = some b) (hc : b.chunks = [])
    (h : s.arrivedBurst s.boot.endpoint b t = some c) : exec (.ackOnlyReceive k t) s = .next ((s.soundBurst k b).takeAck c) := by
  show execAckOnlyReceive k t s = _
  simp only [execAckOnlyReceive, hb, hc, List.isEmpty_nil, Bool.not_true, Bool.false_eq_true, if_false, h, (arrivedBurst_own h).2,
    State.soundBurst]
  rfl

/-- A burst at its module: not taken, refused with its reservation over, or taken with its acknowledgement and its chunks. -/
theorem carry_arrives {s : State} {n : Nat} {b : Burst} (t : Transit) (hb : nth s.out n = some b) :
    let s' := { s with out := dropNth s.out n }
    (s.arrivedBurst b.dst b t = none → s.carry n t = s')
    ∧ ∀ c, s.arrivedBurst b.dst b t = some c →
      s.carry n t = if s.lapsed c = true then s'.refuseBurst c else ((s'.takeAck c).oweAck c).takeChunks c c.chunks := by
  refine ⟨fun h => ?_, fun c h => ?_⟩
  · simp only [State.carry, hb, h]
  · simp only [State.carry, hb, h]
    rfl

/-! ### Acknowledgements that are owed (17 R356) -/

theorem ackFor_some {s : State} {src dst : Nat} {y : RxStream} (h : s.ackFor src dst = some y) :
    y ∈ s.rx ∧ y.dst = src ∧ y.src = dst ∧ y.owes = true := by
  have hy := List.find?_some h
  simp only [Bool.and_eq_true, beq_iff_eq, and_assoc] at hy
  exact ⟨List.mem_of_find?_eq_some h, hy⟩

theorem ackFor_none {s : State} {src dst : Nat} (h : s.ackFor src dst = none) {y : RxStream} (mem : y ∈ s.rx) (hd : y.dst = src)
    (hs : y.src = dst) : y.owes = false := by
  have := List.find?_eq_none.1 h y mem
  simpa [hd, hs] using this

/-- A burst goes on its wavelength with the acknowledgement that its receiver is owed. -/
theorem send_acks {s : State} {src dst : Nat} {y : RxStream} (h : s.ackFor src dst = some y) (w : Way) (stream vc : Nat) (cs : List Chunk) :
    let b : Burst := { src := src, dst := dst, wave := (dst + 128 - src) % 128, stream := stream, vc := vc, lane := w.lane, chunks := cs
                       ack := some (y.stream, y.vc, y.next), pin := w.pin }
    let t := (s.use w).setRx { y with owes := false }
    s.send w src dst stream vc cs = if dst = s.boot.endpoint then { t with wire := t.wire ++ [b] } else { t with out := t.out ++ [b] } := by
  simp only [State.send, h]
  rfl

theorem ackOnly_way {s : State} {y : RxStream} {w : Way} (h : s.ackFor y.dst y.src ≠ none) (hw : s.way y.dst y.src 1 none = some w) :
    s.ackOnly y = s.send w y.dst y.src y.stream 1 [] := by
  simp only [State.ackOnly, Option.isSome_iff_ne_none.2 h, if_true, hw]

theorem ackOnly_stays {s : State} {y : RxStream} (h : s.ackFor y.dst y.src = none ∨ s.way y.dst y.src 1 none = none) : s.ackOnly y = s := by
  rcases h with h | h
  · simp only [State.ackOnly, h, Option.isSome_none, Bool.false_eq_true, if_false]
  · simp only [State.ackOnly, h, ite_self]

end Sys2Proof.Machine
end

section
/-! PROOFS. Zero fill in the order of the box, replays, and grants in their turn (03 R73, R78, 17 R355, R357, R358, R391): O39. -/

namespace Sys2Proof.Machine
open Sys2Proof.Claims

/-! ### Zero fill (03 R78, R391) -/

theorem writeOwed_iff (s : State) (uid key n : Nat) : s.writeOwed uid key n = true
    ↔ ∃ l ∈ s.locals, l.op.writes = true ∧ l.onStore = true ∧ l.uid < uid ∧ l.addr < key + n ∧ key < l.addr + l.size := by
  simp only [State.writeOwed, List.any_eq_true, Bool.and_eq_true, decide_eq_true_eq, and_assoc]

theorem armed_iff (s : State) (m : Cmd) : s.armed m = true
    ↔ (∀ r ∈ m.recvs, s.writeOwed m.uid (storeKey r.core r.arr) 16 = false)
      ∧ ∀ x ∈ m.spans, x.dest = true → s.writeOwed m.uid (storeKey x.core x.lo) (x.hi - x.lo) = false := by
  simp only [State.armed, Bool.and_eq_true, Bool.not_eq_true', List.any_eq_false, Bool.not_eq_true, not_and]

theorem zeroFill_held {s : State} {m : Cmd} (hm : s.cmd? m.uid = some m)
    (h : s.saving m.team = true ∨ m.charged = false ∨ s.armed m = false) : exec (.zeroFillAddition m.uid) s = .next s := by
  show execZeroFillAddition m.uid s = _
  simp only [execZeroFillAddition, hm]
  rcases h with h | h | h
  · exact if_pos h
  · simp [h]
  · simp [h]

theorem zeroFill_unitsDone {s : State} {m : Cmd} (hm : s.cmd? m.uid = some m) (hs : s.saving m.team = false) (hc : m.charged = true)
    (ha : s.armed m = true) (h : m.kind = .pagereq ∨ m.resDone = false) :
    exec (.zeroFillAddition m.uid) s = .next (s.unitsDone m.uid) := by
  show execZeroFillAddition m.uid s = _
  by_cases hk : m.kind = .pagereq
  · simp [execZeroFillAddition, hm, hs, hc, ha, hk, unitsDone_pagereq hm ha hk]
  · simp [execZeroFillAddition, hm, hs, hc, ha, hk, h.resolve_left hk]

/-- The kinds that write the bytes that an addition counts, as one choice. -/
theorem zeroes_either {α : Type} (k : CmdKind) (written left : α) :
    (match k with
      | .atom .. => written
      | k => if k.fetches then written else left)
    = if (match k with
        | .atom .. => true
        | k => k.fetches) then written else left := by
  cases k <;> rfl

/-- The bytes that one addition counts are written as zero by a command that writes its folio. -/
theorem zeroFill_fills {s : State} {m : Cmd} (hm : s.cmd? m.uid = some m) (hc : m.charged = true) (hs : s.saving m.team = false)
    (ha : s.armed m = true) (hr : m.resDone = true) (hk : m.kind ≠ .pagereq) :
    let x := takeFill 256 (s.toFill m)
    let s' := s.setCmd { m with items := m.numbered.map fun p => ((x.items.find? (·.2 == p.2)).map (·.1)).getD p.1 }
    let zeroes := match m.kind with
      | .atom .. => true
      | k => k.fetches
    exec (.zeroFillAddition m.uid) s
      = .next (State.settleCmd ((if zeroes then s'.zeroFolio m x.locs else s').countRecvs m x.count (arrFlags x.nrf x.err)) m.uid) := by
  intro x s' zeroes
  show execZeroFillAddition m.uid s = _
  simp only [execZeroFillAddition, hm]
  rw [if_neg (by simp [hs]), if_neg (by simp [hk]), if_neg (by simp [hc, ha]), if_neg (by simp [hr])]
  exact congrArg (fun t => Host.Outcome.next (State.settleCmd (State.countRecvs t m x.count (arrFlags x.nrf x.err)) m.uid)) (zeroes_either m.kind _ _)

/-! ### The order of the box -/

theorem before_iff (i j : Item) : i.before j = true ↔ i.box.1 < j.box.1 ∨ (i.box.1 = j.box.1 ∧ i.box.2 ≤ j.box.2) := by
  simp only [Item.before, Bool.or_eq_true, Bool.and_eq_true, decide_eq_true_eq, beq_iff_eq]

theorem mem_insertItem {p q : Item × Nat} {ps : List (Item × Nat)} : q ∈ insertItem p ps ↔ q = p ∨ q ∈ ps := by
  induction ps with
  | nil => simp [insertItem]
  | cons x xs ih =>
    rw [insertItem]
    split
    · rw [List.mem_cons]
    · rw [List.mem_cons, ih, List.mem_cons, or_left_comm]

theorem insertItem_pairwise (p : Item × Nat) {ps : List (Item × Nat)} (h : ps.Pairwise fun x y => x.1.before y.1 = true) :
    (insertItem p ps).Pairwise fun x y => x.1.before y.1 = true := by
  induction ps with
  | nil => simp [insertItem]
  | cons x xs ih =>
    obtain ⟨first, rest⟩ := List.pairwise_cons.1 h
    rw [insertItem]
    split
    · next le =>
      refine List.pairwise_cons.2 ⟨fun y hy => ?_, h⟩
      rcases List.mem_cons.1 hy with rfl | hy
      · exact le
      · have := first y hy
        rw [before_iff] at *
        omega
    · next gt =>
      refine List.pairwise_cons.2 ⟨fun y hy => ?_, ih rest⟩
      rcases mem_insertItem.1 hy with rfl | hy
      · rw [before_iff] at *
        omega
      · exact first y hy

theorem mem_sortItems {p : Item × Nat} {ps : List (Item × Nat)} : p ∈ ps.foldr insertItem [] ↔ p ∈ ps := by
  induction ps with
  | nil => rfl
  | cons x xs ih => rw [List.foldr_cons, mem_insertItem, ih, List.mem_cons]

theorem sortItems_pairwise (ps : List (Item × Nat)) : (ps.foldr insertItem []).Pairwise fun x y => x.1.before y.1 = true := by
  induction ps with
  | nil => exact .nil
  | cons x xs ih => exact insertItem_pairwise x ih

theorem mem_toFill {s : State} {m : Cmd} {p : Item × Nat} (h : p ∈ s.toFill m) : p ∈ m.numbered ∧ p.1.fill = true ∧ p.1.done = false := by
  rw [State.toFill, mem_sortItems, List.mem_filter] at h
  simp only [Bool.and_eq_true, Bool.not_eq_true', and_assoc] at h
  obtain ⟨mem, fill, done, -⟩ := h
  exact ⟨mem, fill, done⟩

theorem toFill_box (s : State) (m : Cmd) :
    (s.toFill m).Pairwise fun p q => p.1.box.1 < q.1.box.1 ∨ (p.1.box.1 = q.1.box.1 ∧ p.1.box.2 ≤ q.1.box.2) :=
  (sortItems_pairwise _).imp fun h => (before_iff _ _).1 h

theorem takeFill_cons (n : Nat) (p : Item × Nat) (ps : List (Item × Nat)) :
    let i := p.1
    let rest := takeFill (n - i.cnt) ps
    takeFill n (p :: ps) =
      if i.cnt ≤ n then { items := ({ i with done := true }, p.2) :: rest.items, count := i.cnt + rest.count
                          nrf := i.nrf || rest.nrf, err := i.bad || rest.err, locs := i.loc ++ i.aux ++ rest.locs }
      else if n = 0 ∨ i.form ≠ .plain then takeFill n []
      else { takeFill n [] with
        items := [({ i with loc := i.loc.drop n, cnt := i.cnt - n, box := (i.box.1, i.box.2 + n) }, p.2)], count := n, nrf := i.nrf
        locs := i.loc.take n } := rfl

theorem takeFill_whole {n : Nat} {p : Item × Nat} (ps : List (Item × Nat)) (h : p.1.cnt ≤ n) :
    let i := p.1
    let rest := takeFill (n - i.cnt) ps
    takeFill n (p :: ps) = { items := ({ i with done := true }, p.2) :: rest.items, count := i.cnt + rest.count
                             nrf := i.nrf || rest.nrf, err := i.bad || rest.err, locs := i.loc ++ i.aux ++ rest.locs } := by
  rw [takeFill_cons]
  exact if_pos h

theorem takeFill_none {n : Nat} {p : Item × Nat} (ps : List (Item × Nat)) (h : n < p.1.cnt) (h' : n = 0 ∨ p.1.form ≠ .plain) :
    takeFill n (p :: ps) = takeFill n [] := by
  rw [takeFill_cons, if_neg (by omega), if_pos h']

theorem takeFill_cut {n : Nat} {p : Item × Nat} (ps : List (Item × Nat)) (h0 : 0 < n) (h : n < p.1.cnt) (hp : p.1.form = .plain) :
    let i := p.1
    takeFill n (p :: ps) = { takeFill n [] with
      items := [({ i with loc := i.loc.drop n, cnt := i.cnt - n, box := (i.box.1, i.box.2 + n) }, p.2)], count := n, nrf := i.nrf
      locs := i.loc.take n } := by
  have plain : ¬ (n = 0 ∨ p.1.form ≠ .plain) := by
    rintro (h | h)
    · omega
    · exact h hp
  rw [takeFill_cons, if_neg (by omega), if_neg plain]

/-! ### Replays (17 R357) -/

theorem replay_goes {s : State} {k : Nat} {x : TxStream} (hx : nth s.tx k = some x) (hc : x.copies ≠ [])
    (late : x.progress + 1000 * nsUnits ≤ s.time) : exec (.replayTimeout k) s = .next (s.resend x x.copies) := by
  show execReplayTimeout k s = _
  simp only [execReplayTimeout, hx]
  rw [if_neg (by simpa [hc] using late)]

theorem resume_goes {s : State} {k : Nat} {x : TxStream} (hx : nth s.tx k = some x) (w : Word) :
    exec (.resumeReceive k w) s = .next (s.resend x (x.copies.filter fun c => !precedes c.seq w)) := by
  show execResumeReceive k w s = _
  simp only [execResumeReceive, hx]

/-! ### Grants (17 R355) -/

theorem grantRequest_asks {s : State} {peer plane slot : Nat} (vc bursts : Nat) (h4 : slot < 4) (hl : (s.planeLane plane slot).isSome = true)
    (hc : s.controlTo peer = true) : exec (.grantRequestReceive peer plane slot vc bursts 0) s
      = .next (State.serveAsks { s with asks := s.asks ++ [{ peer := peer, plane := plane, slot := slot, vc := vc, bursts := min 16 bursts }] }
          (s.asks.length + 1)) := by
  refine if_neg ?_
  simp only [hc, ne_eq, not_true_eq_false, Bool.not_true, Bool.false_eq_true, or_false, false_or, not_or, not_le]
  exact ⟨h4, by simpa [Option.isSome_iff_ne_none] using hl⟩

theorem grantRequest_refused (s : State) (peer plane : Nat) {slot h : Nat} (vc bursts : Nat) (hh : h ≠ 0 ∨ 4 ≤ slot) :
    exec (.grantRequestReceive peer plane slot vc bursts h) s = .next s := by
  refine if_pos ?_
  rcases hh with hh | hh
  · exact .inl hh
  · exact .inr (.inl hh)

theorem grant_taken {s : State} {peer plane vc : Nat} (bursts : Nat) (hc : s.controlTo peer = true)
    (free : ∀ h ∈ s.grants, ¬ (h.peer = peer ∧ h.plane = plane ∧ h.vc = vc)) : exec (.grantReceive peer plane 0 vc bursts) s
      = .next (State.flow { s with
          grants := s.grants ++ [{ peer := peer, plane := plane, slot := 0, vc := vc, bursts := min 16 bursts }]
          grantWait := s.grantWait.filter fun x => !(x.1 == peer && x.2.1 == plane && x.2.2.1 == vc) }
            fun x => x.src == s.boot.endpoint && x.dst == peer && x.vc == vc) := by
  refine if_neg ?_
  simpa [hc] using free

theorem grant_ignored {s : State} {peer plane slot vc : Nat} (bursts : Nat)
    (h : slot ≠ 0 ∨ ∃ h ∈ s.grants, h.peer = peer ∧ h.plane = plane ∧ h.vc = vc) :
    exec (.grantReceive peer plane slot vc bursts) s = .next s := by
  refine if_pos ?_
  rcases h with h | h
  · exact .inl h
  · exact .inr (.inr (by simpa [and_assoc] using h))

/-- The request for a grant whose turn it is: its slot has none open, and no other request for the slot stands before it. -/
theorem nextAsk_turn {s : State} {g : Grant} (hg : s.nextAsk = some g) : g ∈ s.asks
    ∧ (∀ h ∈ s.given, ¬ (h.plane = g.plane ∧ h.slot = g.slot ∧ h.vc = g.vc))
    ∧ ∀ h ∈ s.asks, h.plane = g.plane → h.slot = g.slot → h.vc = g.vc →
      let last := ((s.granted.find? fun x => x.1 == g.plane && x.2.1 == g.slot && x.2.2.1 == g.vc).map (·.2.2.2)).getD 127
      turnsAfter last g.peer ≤ turnsAfter last h.peer := by
  have turn := List.find?_some hg
  simp only [Bool.and_eq_true, Bool.not_eq_true', List.any_eq_false, List.all_eq_true, Bool.or_eq_true, decide_eq_true_eq, beq_iff_eq,
    and_assoc] at turn
  obtain ⟨free, least⟩ := turn
  refine ⟨List.mem_of_find?_eq_some hg, free, fun h mem plane slot vc => ?_⟩
  exact (least h mem).resolve_left (by simp [plane, slot, vc])

/-! ### The statement -/

/-- Settles O39, part by part: what each event of the fetch path does to the state it finds. -/
theorem fetchPathEventsComplete : Obligations.FetchPathEventsComplete := by
  intro s
  refine ⟨fun m r hm hr may => ⟨requestSend_goes hm hr may, fun h due => requestRetry_goes hm hr may, (maySend_turn may).1,
      fun q hq team ep => not_due ((maySend_turn may).2 q hq team ep), sendReq_stays m⟩,
    unitsAreServed s, streamsGoOn s, chunksAreDelivered s, fun m k hm h => translationWalk_held hm h k,
    fun m u k hm hc hs hu => ⟨fun o ho => ⟨fun hr => ?ended, fun hr => ?anew⟩, fun p ho hp => ?pending⟩,
    fun k b hb => ⟨arrivedBurst_intact s, arrivedBurst_elsewhere s, arrivedBurst_uncorrected s _ b, fun t =>
      ⟨fun hc => ⟨responseBurst_discard hb hc, fun c => responseBurst_taken hb hc⟩,
        fun hc => ⟨ackOnly_discard hb hc, fun c => ackOnly_taken hb hc⟩⟩⟩,
    fun b => rfl, fun n b c t hb => ⟨(carry_arrives t hb).1, fun h hl => ?refused, fun h hl => ?carried⟩, fun b => ?owe,
    fun src dst => ⟨fun y => ackFor_some, fun h y => ackFor_none h, fun w stream vc cs y h => send_acks h w stream vc cs⟩,
    fun y => ⟨fun w => ackOnly_way, ackOnly_stays⟩, fun b c cs => ⟨rfl, rfl⟩,
    fun m hm hc hs ha hr hk => zeroFill_fills hm hc hs ha hr hk,
    fun m hm => ⟨zeroFill_held hm, zeroFill_unitsDone hm, armed_iff s m⟩, writeOwed_iff s,
    fun m => ⟨fun p => mem_toFill, toFill_box s m⟩,
    fun n p ps => ⟨rfl, takeFill_whole ps, takeFill_none ps, takeFill_cut ps⟩,
    fun k x w hx => ⟨replay_goes hx, resume_goes hx w⟩,
    fun peer plane slot vc bursts => ⟨grantRequest_asks vc bursts, fun h => grantRequest_refused s peer plane vc bursts,
      grant_taken bursts, grant_ignored bursts, fun h => rfl, rfl⟩,
    fun g => nextAsk_turn, fun cmd req => rfl⟩
  case ended => rw [translationWalk_ended hm hc hs hu ho, hr]; rfl
  case anew => rw [translationWalk_ended hm hc hs hu ho, hr]; rfl
  case pending => rw [translationWalk_pending hm hc hs hu ho, beginUnits_part hp]
  case refused => exact ((carry_arrives t hb).2 c h).trans (if_pos hl)
  case carried => exact ((carry_arrives t hb).2 c h).trans (if_neg (by simp [hl]))
  case owe => simp only [State.oweAck, List.isEmpty_iff]

end Sys2Proof.Machine
end

section

/-! PROOFS. Memory's canonical form (log 4): every step keeps it.

Memory changes through `write` and `zero` alone, and both keep its form. So a lemma stands here for each function of the model that a
step runs, in the model's order: `f_mem` where `f` leaves memory as it is, `f_wf` where it makes a memory in its form of one in its
form, `f_holds` where its outcome, if it goes on, has one. -/

namespace Sys2Proof.Machine
open Sys2Proof.Claims

/-- An outcome that goes on holds memory in its canonical form. -/
def HoldsForm : Out → Prop
  | .next t => Memory.wf t.mem = true
  | _ => True

section Rules
variable {s t : State}

@[simp] theorem holdsForm_next : HoldsForm (.next t) ↔ Memory.wf t.mem = true := Iff.rfl
@[simp] theorem holdsForm_fault {r : Fault} : HoldsForm (.fault r) := trivial

@[simp] theorem write_wf {cs : List Host.Cell} (h : Memory.wf s.mem) : Memory.wf (s.write cs).mem := memSetAll_wf h
@[simp] theorem zero_wf {a n : Nat} (h : Memory.wf s.mem) : Memory.wf (s.zero a n).mem := filter_wf h

@[simp] theorem ite_wf {c : Prop} [Decidable c] (h : Memory.wf s.mem) (h' : Memory.wf t.mem) : Memory.wf (if c then s else t).mem := by
  split
  · exact h
  · exact h'

@[simp] theorem ite_holds {c : Prop} [Decidable c] {o p : Out} (h : HoldsForm o) (h' : HoldsForm p) : HoldsForm (if c then o else p) := by
  split
  · exact h
  · exact h'

theorem foldl_wf {α : Type} {f : State → α → State} {xs : List α} (hf : ∀ s x, Memory.wf s.mem → Memory.wf (f s x).mem)
    (h : Memory.wf s.mem) : Memory.wf (xs.foldl f s).mem := by
  induction xs generalizing s with
  | nil => exact h
  | cons x xs ih => exact ih (hf s x h)

end Rules

/-! ### What Ops keeps -/

@[simp] theorem freeWord_mem (s : State) : s.freeWord.2.mem = s.mem := rfl

@[simp] theorem setSregA_wf {s : State} {a : Agent} {r : Nat} {x : DWord} (h : Memory.wf s.mem) : Memory.wf (s.setSregA a r x).mem := by
  unfold State.setSregA
  split
  · split <;> simp [h]
  · simp [h]

@[simp] theorem raiseLate_mem (s : State) (a : Agent) (f : Flags) : (s.raiseLate a f).mem = s.mem := by
  unfold State.raiseLate
  split
  · split <;> rfl
  · rfl

@[simp] theorem jump_mem (s : State) (c : Cur) (pc : DWord) : (s.jump c pc).mem = s.mem :=
  (jump_calm ..).mem

@[simp] theorem withGroup_holds {s : State} {k : Cur → Group → State} (h : Memory.wf s.mem) (hk : ∀ c g, Memory.wf (k c g).mem) :
    HoldsForm (withGroup s k) := by
  unfold withGroup
  split
  · simp
  · split
    · simp [h]
    · split <;> simp [hk]

@[simp] theorem withAgent_holds {s : State} {k : Cur → State} (_h : Memory.wf s.mem) (hk : ∀ c, Memory.wf (k c).mem) : HoldsForm (withAgent s k) := by
  unfold withAgent
  split
  · simp
  · split
    · simp [hk]
    · split <;> simp [hk]

@[simp] theorem withProof_holds {s : State} {k : Cur → ProofCore → State} (h : Memory.wf s.mem) (hk : ∀ c x, Memory.wf (k c x).mem) :
    HoldsForm (withProof s k) := by
  unfold withProof
  split
  · simp
  · split
    · simp [hk]
    · split <;> simp [h]

@[simp] theorem addrTrap_mem (s : State) (c : Cur) (step a : Nat) : (s.addrTrap c step a).mem = s.mem :=
  (addrTrap_calm ..).mem

/-! ### What Operands keeps -/

theorem operandTrap_mem {s t : State} {c : Cur} {i : Instr} (e : s.operandTrap c i = some t) : t.mem = s.mem := by
  unfold State.operandTrap at e
  split at e
  · cases e
  · split at e
    · cases e
    · dsimp only at e
      split at e
      · cases e
        exact trap_mem ..
      · split at e
        · cases e
          exact trapAt_mem ..
        · cases e

@[simp] theorem putS_wf {s : State} {c : Cur} {d : SReg} {x : Nat} (h : Memory.wf s.mem) : Memory.wf (s.putS c d x).mem := by
  simp [State.putS, h]

@[simp] theorem scalarOp_holds {s : State} {d : SReg} {f : Agent → Nat} (h : Memory.wf s.mem) : HoldsForm (scalarOp s d f) := by
  simp [scalarOp, h]

@[simp] theorem scalar1_holds {s : State} {d a : SReg} {f : Nat → Nat} (h : Memory.wf s.mem) : HoldsForm (scalar1 s d a f) := by
  simp [scalar1, h]

@[simp] theorem scalar2_holds {s : State} {d a : SReg} {b : SrcB} {f : Nat → Nat → Nat} (h : Memory.wf s.mem) : HoldsForm (scalar2 s d a b f) := by
  simp [scalar2, h]

@[simp] theorem putV_wf {s : State} {c : Cur} {g : Group} {d : Nat} {ls : List Nat} {f : Nat → Nat × Flags} (h : Memory.wf s.mem) :
    Memory.wf (s.putV c g d ls f).mem := by
  simp [State.putV, h]

@[simp] theorem vectorOp_holds {s : State} {gd : MReg} {d : VReg} {f : Group → Nat → Nat × Flags} (h : Memory.wf s.mem) :
    HoldsForm (vectorOp s gd d f) := by
  simp [vectorOp, h]

@[simp] theorem vector1_holds {s : State} {gd : MReg} {d : VReg} {a : Nat} {f : Nat → Nat × Flags} (h : Memory.wf s.mem) :
    HoldsForm (vector1 s gd d a f) := by
  simp [vector1, h]

@[simp] theorem vector2_holds {s : State} {gd : MReg} {d a : VReg} {b : SrcB} {f : Nat → Nat → Nat × Flags} (h : Memory.wf s.mem) :
    HoldsForm (vector2 s gd d a b f) := by
  simp [vector2, h]

@[simp] theorem vector3_holds {s : State} {gd : MReg} {d a b x : VReg} {f : Nat → Nat → Nat → Nat × Flags} (h : Memory.wf s.mem) :
    HoldsForm (vector3 s gd d a b x f) := by
  simp [vector3, h]

@[simp] theorem compareOp_holds {s : State} {gd d : MReg} {p : Group → Nat → Bool} (h : Memory.wf s.mem) : HoldsForm (compareOp s gd d p) := by
  simp [compareOp, h]

/-! ### What Translate keeps -/

@[simp] theorem setModule_mem (s : State) (m : Module) : (s.setModule m).mem = s.mem := rfl

@[simp] theorem cache_mem (s : State) (cluster va : Nat) (o : XOut) : (s.cache cluster va o).mem = s.mem := by
  unfold State.cache
  split
  · split <;> rfl
  · rfl

@[simp] theorem farCache_mem (s : State) (p : Partition) (cluster : Nat) (write : Bool) (va : Nat) : (s.farCache p cluster write va).mem = s.mem := by
  unfold State.farCache
  split
  · simp
  · rfl

@[simp] theorem postFault_mem (s : State) (part : Nat) (r : FaultRec) : (s.postFault part r).mem = s.mem :=
  (postFault_calm ..).mem

/-! ### What Code keeps -/

@[simp] theorem codeFault_mem (s : State) (c : Cur) (va reason level ep : Nat) : (s.codeFault c va reason level ep).mem = s.mem :=
  (codeFault_calm ..).mem

@[simp] theorem transfer_wf {s : State} {c : Cur} {addr : Nat} {eff : State → State} (h : Memory.wf s.mem)
    (heff : ∀ t, Memory.wf t.mem → Memory.wf (eff t).mem) : Memory.wf (s.transfer c addr eff).mem := by
  unfold State.transfer
  split
  · simp [h, heff]
  · simp [h]
  · simp [h]
  · simp [h]

/-! ### What Scalar keeps -/

@[simp] theorem scalarBin_holds {s : State} {op : IBin} {t : ITy} {d a : SReg} {b : SrcB} (h : Memory.wf s.mem) :
    HoldsForm (scalarBin s op t d a b) := by
  simp [scalarBin, h]

@[simp] theorem scalarCmp_holds {s : State} {cd : ICond} {t : ITy} {d a : SReg} {b : SrcB} (h : Memory.wf s.mem) :
    HoldsForm (scalarCmp s cd t d a b) := by
  simp [scalarCmp, h]

@[simp] theorem execSmovShort_holds {d : SReg} {e : EReg} {s : State} (h : Memory.wf s.mem) : HoldsForm (execSmovShort d e s) := by
  simp [execSmovShort, h]

@[simp] theorem execSmovLong_holds {t : Option ITy} {d a : SReg} {s : State} (h : Memory.wf s.mem) : HoldsForm (execSmovLong t d a s) := by
  simp [execSmovLong, h]

@[simp] theorem execSli_holds {t : ITy} {d : SReg} {lit : Word} {s : State} (h : Memory.wf s.mem) : HoldsForm (execSli t d lit s) := by
  simp [execSli, h]

@[simp] theorem execSsel_holds {d a b x : SReg} {s : State} (h : Memory.wf s.mem) : HoldsForm (execSsel d a b x s) := by
  simp [execSsel, h]

@[simp] theorem execSpopcShort_holds {d : SReg} {e : EReg} {s : State} (h : Memory.wf s.mem) : HoldsForm (execSpopcShort d e s) := by
  simp [execSpopcShort, h]

@[simp] theorem execSclzShort_holds {d : SReg} {e : EReg} {s : State} (h : Memory.wf s.mem) : HoldsForm (execSclzShort d e s) := by
  simp [execSclzShort, h]

@[simp] theorem execSbfx_holds {t : ITy} {d a : SReg} {pos : BitVec 6} {len : BitVec 7} {s : State} (h : Memory.wf s.mem) :
    HoldsForm (execSbfx t d a pos len s) := by
  simp [execSbfx, h]

@[simp] theorem execSbfi_holds {t : ITy} {d a : SReg} {pos : BitVec 6} {len : BitVec 7} {s : State} (h : Memory.wf s.mem) :
    HoldsForm (execSbfi t d a pos len s) := by
  simp [execSbfi, h]

@[simp] theorem execSaddr_holds {t : ITy} {d a b x : SReg} {k : BitVec 3} {s : State} (h : Memory.wf s.mem) :
    HoldsForm (execSaddr t d a b x k s) := by
  simp [execSaddr, h]

/-! ### What Local keeps -/

@[simp] theorem countAdd_wf {s : State} {word n flags : Nat} (h : Memory.wf s.mem) : Memory.wf (s.countAdd word n flags).mem := by
  unfold State.countAdd
  dsimp only
  split <;> simp [h]

@[simp] theorem initWord_wf {s : State} {word target : Nat} (h : Memory.wf s.mem) : Memory.wf (s.initWord word target).mem := by
  unfold State.initWord
  dsimp only
  split <;> simp [h]

@[simp] theorem freeLocks_mem (s : State) (p : Lock → Bool) : (s.freeLocks p).mem = s.mem :=
  (freeLocks_calm ..).mem

@[simp] theorem dropLocks_mem (s : State) (a : Agent) : (s.dropLocks a).mem = s.mem :=
  (dropLocks_calm ..).mem

@[simp] theorem dropGrants_mem (s : State) (a : Agent) : (s.dropGrants a).mem = s.mem :=
  (dropGrants_calm ..).mem

@[simp] theorem expireLocks_mem (s : State) : s.expireLocks.mem = s.mem := by
  simp [State.expireLocks]

@[simp] theorem queueLocks_mem (s : State) (c : Cur) (ll : Bool) (bs : List (Nat × Nat × Nat)) : (s.queueLocks c ll bs).mem = s.mem :=
  (queueLocks_calm ..).mem

@[simp] theorem retryLocks_mem (s : State) : s.retryLocks.mem = s.mem :=
  foldl_mem _ (fun _ _ => by rfl) _ _

@[simp] theorem ordered_wf {s : State} {c : Cur} {rel : Bool} {lat : Nat} {k : State} (h : Memory.wf s.mem) (hk : Memory.wf k.mem) :
    Memory.wf (s.ordered c rel lat k).mem := by
  simp [State.ordered, h, hk]

@[simp] theorem feed_mem (s : State) (uid : Nat) (cs : List Host.Cell) (rs : List (Nat × DWord)) (f : Flags) : (s.feed uid cs rs f).mem = s.mem := rfl

@[simp] theorem feedForme_mem (s : State) (uid team r : Nat) (x : Line) : (s.feedForme uid team r x).mem = s.mem := rfl

@[simp] theorem performOne_wf {s : State} {l : Local} (h : Memory.wf s.mem) : Memory.wf (s.performOne l).mem := by
  unfold State.performOne
  split <;> simp [h]

@[simp] theorem wakeOwn_mem (s : State) : s.wakeOwn.mem = s.mem :=
  foldl_mem _ (fun _ _ => by rfl) _ _

@[simp] theorem applyCommit_wf {s : State} {m : Commit} (h : Memory.wf s.mem) : Memory.wf (s.applyCommit m).mem := by
  unfold State.applyCommit
  dsimp only
  rw [raiseLate_mem]
  refine foldl_wf ?_ ?_
  · intro _ _ h'
    split <;> exact h'
  · split
    · exact foldl_wf (fun _ _ h' => by simp [h']) (by simp [h])
    · simp [h]

@[simp] theorem checked_wf {s : State} {c : Cur} {g : Group} {acc : List Nat} {store plain8 : Bool} {n : Nat} {as : List (Nat × Nat)} {k : State}
    (h : Memory.wf s.mem) (hk : Memory.wf k.mem) : Memory.wf (s.checked c g acc store plain8 n as k).mem := by
  unfold State.checked
  split
  · simp [h]
  · exact hk

@[simp] theorem sound_wf {s : State} {c : Cur} {rs : List (Nat × Nat)} {k : State} (h : Memory.wf s.mem) (hk : Memory.wf k.mem) :
    Memory.wf (s.sound c rs k).mem := by
  unfold State.sound
  split
  · simp [h]
  · exact hk

@[simp] theorem scalarAccess_wf {s : State} {c : Cur} {acc : List Nat} {store plain8 : Bool} {addr n : Nat} {k : Nat → Nat → State}
    (h : Memory.wf s.mem) (hk : ∀ n1 n2, Memory.wf (k n1 n2).mem) : Memory.wf (s.scalarAccess c acc store plain8 addr n k).mem := by
  unfold State.scalarAccess
  split
  · simp [h, hk]
  · split <;> simp [h, hk]

@[simp] theorem launchLoad_mem (s : State) (c : Cur) (la key lat size : Nat) (sx acq : Bool) (d : Nat) :
    (s.launchLoad c la key lat size sx acq d).mem = s.mem :=
  (launchLoad_calm ..).mem

@[simp] theorem launchStore_mem (s : State) (c : Cur) (key lat size : Nat) (op : LocalOp) : (s.launchStore c key lat size op).mem = s.mem :=
  (launchStore_calm ..).mem

@[simp] theorem unlocked_wf {s : State} {c : Cur} {k : State} (h : Memory.wf s.mem) (hk : Memory.wf k.mem) : Memory.wf (s.unlocked c k).mem := by
  simp [State.unlocked, h, hk]

@[simp] theorem withBits_wf {s : State} {c : Cur} {ll : Bool} {keys : List Nat} {k : State} (h : Memory.wf s.mem) (hk : Memory.wf k.mem) :
    Memory.wf (s.withBits c ll keys k).mem := by
  unfold State.withBits
  split
  · exact hk
  · simp [h, hk]

@[simp] theorem holdLL_mem (s : State) (a : Agent) (b : Nat × Nat × Nat) : (s.holdLL a b).mem = s.mem := rfl

@[simp] theorem execLl_holds {la : BitVec 4} {dbl : Bool} {acq : Option Scope} {d a : SReg} {disp : Byte} {s : State} (h : Memory.wf s.mem) :
    HoldsForm (execLl la dbl acq d a disp s) := by
  refine withAgent_holds h fun _ => ?_
  dsimp only
  split
  · simp [h]
  · refine scalarAccess_wf h fun _ _ => withBits_wf h (ordered_wf h ?_)
    refine sound_wf h ?_
    split <;> simp [h]

@[simp] theorem execSu_holds {dbl : Bool} {rel : Option Scope} {d a : SReg} {disp : Byte} {s : State} (h : Memory.wf s.mem) :
    HoldsForm (execSu dbl rel d a disp s) := by
  refine withAgent_holds h fun _ => ?_
  dsimp only
  split <;> split <;> simp [h]

/-! ### What Life keeps -/

@[simp] theorem freeRegion_wf {s : State} {core lo n : Nat} (h : Memory.wf s.mem) : Memory.wf (s.freeRegion core lo n).mem := by
  simp [State.freeRegion, h]

@[simp] theorem freeTile_wf {s : State} {core tile : Nat} (h : Memory.wf s.mem) : Memory.wf (s.freeTile core tile).mem := by
  simp [State.freeTile, h]

@[simp] theorem give_wf {s : State} {core : Nat} {rs : List (Nat × Nat)} {tiles : List Nat} (h : Memory.wf s.mem) :
    Memory.wf (s.give core rs tiles).mem := by
  unfold State.give
  dsimp only
  exact foldl_wf (fun _ _ h' => by simp [h']) (foldl_wf (fun _ _ h' => by simp [h']) h)

@[simp] theorem nostop_mem (s : State) (g : Group) (cause : Nat) (x y : DWord) : (s.nostop g cause x y).mem = s.mem := by
  simp [State.nostop]

@[simp] theorem orphan_mem (s : State) (g : Group) (e : Nat × Nat) : (s.orphan g e).mem = s.mem := by
  simp [State.orphan]

@[simp] theorem orphanFault_mem (s : State) (g : Group) (f : LigFault) : (s.orphanFault g f).mem = s.mem := by
  unfold State.orphanFault
  split <;> simp

@[simp] theorem orphanLig_mem (s : State) (g : Group) : (s.orphanLig g).mem = s.mem := by
  unfold State.orphanLig
  split
  · simp
  · rfl

@[simp] theorem orphans_mem (s : State) (g : Group) : (s.orphans g).mem = s.mem := by
  unfold State.orphans
  rw [orphanLig_mem]
  exact foldl_mem _ (fun _ _ => by simp) _ _

@[simp] theorem clearLig_wf {s : State} {core : Nat} (h : Memory.wf s.mem) : Memory.wf (s.clearLig core).mem := filter_wf h

@[simp] theorem reap_wf {s : State} {team : Nat} (h : Memory.wf s.mem) : Memory.wf (s.reap team).mem := by
  unfold State.reap
  split
  · exact h
  · split
    · exact h
    · dsimp only
      exact foldl_wf (fun _ _ h' => by simp [h']) h

@[simp] theorem releaseSlot_wf {s : State} {core slot : Nat} (h : Memory.wf s.mem) : Memory.wf (s.releaseSlot core slot).mem := by
  unfold State.releaseSlot
  split <;> simp [h]

@[simp] theorem endGroup_wf {s : State} {core slot : Nat} (h : Memory.wf s.mem) : Memory.wf (s.endGroup core slot).mem := by
  unfold State.endGroup
  split
  · exact h
  · dsimp only
    refine foldl_wf (fun _ _ h' => by simp [h']) (releaseSlot_wf ?_)
    split
    · split <;> simp [h]
    · simp [h]

/-! ### What Flow keeps -/

@[simp] theorem execCallLong_holds {d a : SReg} {s : State} (h : Memory.wf s.mem) : HoldsForm (execCallLong d a s) :=
  withAgent_holds h fun _ => transfer_wf h fun _ h' => by simp [h']

@[simp] theorem execCallLiteral_holds {d : SReg} {t : Target} {s : State} (h : Memory.wf s.mem) : HoldsForm (execCallLiteral d t s) :=
  withAgent_holds h fun _ => transfer_wf h fun _ h' => by simp [h']

@[simp] theorem releaseJoin_mem (s : State) (c : Cur) (g : Group) (d : JReg) (j : Rejoin) : (s.releaseJoin c g d j).mem = s.mem := by
  unfold State.releaseJoin
  split <;> simp

@[simp] theorem execEnrol_holds {gd : MReg} {d : JReg} {t : Target} {s : State} (h : Memory.wf s.mem) : HoldsForm (execEnrol gd d t s) := by
  refine withGroup_holds h fun _ _ => ?_
  dsimp only
  split <;> simp [h]

@[simp] theorem execPark_holds {gd : MReg} {d : JReg} {s : State} (h : Memory.wf s.mem) : HoldsForm (execPark gd d s) := by
  refine withGroup_holds h fun _ _ => ?_
  dsimp only
  exact unlocked_wf h (by simp [h])

@[simp] theorem execStrike_holds {gd : MReg} {d : JReg} {s : State} (h : Memory.wf s.mem) : HoldsForm (execStrike gd d s) := by
  simp [execStrike, h]

@[simp] theorem safeptEnd_mem (s : State) (c : Cur) (idx : Nat) : (s.safeptEnd c idx).mem = s.mem := by
  unfold State.safeptEnd
  dsimp only
  split
  · simp
  · split
    · simp
    · split <;> simp

@[simp] theorem execSafept_holds {idx : Byte} {s : State} (h : Memory.wf s.mem) : HoldsForm (execSafept idx s) := by
  refine withGroup_holds h fun _ _ => ?_
  split <;> simp [h]

@[simp] theorem execYield_holds {s : State} (h : Memory.wf s.mem) : HoldsForm (execYield s) := by
  refine withAgent_holds h fun _ => unlocked_wf h ?_
  split
  · simp [h]
  · split <;> simp [h]

@[simp] theorem execTrap_holds {code : Byte} {s : State} (h : Memory.wf s.mem) : HoldsForm (execTrap code s) := by
  refine withAgent_holds h fun _ => ?_
  split <;> simp [h]

@[simp] theorem execBrk_holds {code : Byte} {s : State} (h : Memory.wf s.mem) : HoldsForm (execBrk code s) := by
  simp [execBrk, h]

@[simp] theorem setLane_mem (s : State) (l : Lane) : (s.setLane l).mem = s.mem := rfl

@[simp] theorem setSocket_mem (s : State) (x : Socket) : (s.setSocket x).mem = s.mem := rfl

@[simp] theorem proofRdsr_wf {s : State} {c : Cur} {k : Nat} {r : SpReg} {d : Nat} (h : Memory.wf s.mem) : Memory.wf (s.proofRdsr c k r d).mem := by
  unfold State.proofRdsr
  split <;> simp [h]

@[simp] theorem execRdsr_holds {gd : MReg} {r : SpReg} {d : Byte} {s : State} (h : Memory.wf s.mem) : HoldsForm (execRdsr gd r d s) := by
  refine withAgent_holds h fun _ => ?_
  split
  · simp [h]
  · split
    · exact h
    · split <;> simp [h]

@[simp] theorem execWrsr_holds {r : SpReg} {a : SReg} {s : State} (h : Memory.wf s.mem) : HoldsForm (execWrsr r a s) := by
  refine withGroup_holds h fun _ _ => ?_
  dsimp only
  split <;> simp [h]

/-! ### What Arrival keeps -/

@[simp] theorem arrChecked_wf {s : State} {c : Cur} {g : Group} {store : Bool} {addr : Nat} {k : Nat → State} (h : Memory.wf s.mem)
    (hk : ∀ n, Memory.wf (k n).mem) : Memory.wf (s.arrChecked c g store addr k).mem := by
  simp [State.arrChecked, h, hk]

@[simp] theorem arrRead_wf {s : State} {c : Cur} {g : Group} {addr : Nat} {k : Nat → State} (h : Memory.wf s.mem) (hk : ∀ n, Memory.wf (k n).mem) :
    Memory.wf (s.arrRead c g addr k).mem := by
  refine arrChecked_wf h fun _ => ?_
  split
  · simp [h]
  · simp [h, hk]

@[simp] theorem execArwait_holds {x : Scope} {d a : SReg} {off : Byte} {b : SReg} {s : State} (h : Memory.wf s.mem) :
    HoldsForm (execArwait x d a off b s) := by
  have answer (c : Cur) (b : Bool) (x : Nat) (w : Wait) : State.Inv (if b then s.putS c d x else s.waitAgain c w) := by
    split
    · exact putS_inv h ..
    · exact inv_of_mem h (waitAgain_mem ..)
  exact withGroup_holds h fun c g => unlocked_wf h (arrRead_wf h fun key =>
    show State.Inv (let x := s.snapshot key
      if passed (x % 2 ^ 32) (lowWord b s c.agent) then s.putS c d x else s.waitAgain c (.arrival key)) from answer c _ _ _)

@[simp] theorem execArtest_holds {x : Scope} {d a : SReg} {off : Byte} {b : SReg} {s : State} (h : Memory.wf s.mem) :
    HoldsForm (execArtest x d a off b s) :=
  withGroup_holds h fun _ _ => by simp [h]

@[simp] theorem execTmbar_holds {s : State} (h : Memory.wf s.mem) : HoldsForm (execTmbar s) := by
  simp [execTmbar, h]

@[simp] theorem execClbar_holds {s : State} (h : Memory.wf s.mem) : HoldsForm (execClbar s) := by
  simp [execClbar, h]

@[simp] theorem execFenceWaitEnd_holds {a : Agent} {s : State} (h : Memory.wf s.mem) : HoldsForm (execFenceWaitEnd a s) := by
  unfold execFenceWaitEnd
  split
  · split
    · exact h
    · split <;> simp [h]
  · split <;> simp [h]

/-! ### What Matrix keeps -/

@[simp] theorem setArray_mem (s : State) (core t : Nat) : (s.setArray core t).mem = s.mem := rfl

@[simp] theorem execMatrixOpStart_holds {core : Nat} {s : State} (h : Memory.wf s.mem) : HoldsForm (execMatrixOpStart core s) := by
  unfold execMatrixOpStart
  split <;> simp [h]

@[simp] theorem lateM_wf {s : State} {c : Cur} {g : Group} {k : State} (h : Memory.wf s.mem) (hk : Memory.wf k.mem) :
    Memory.wf (s.lateM c g k).mem := by
  unfold State.lateM
  split
  · simp [h]
  · exact hk

@[simp] theorem mwaitDone_mem (s : State) (core slot : Nat) : (s.mwaitDone core slot).mem = s.mem := by
  unfold State.mwaitDone
  split
  · rfl
  · split
    · split <;> rfl
    · rfl

@[simp] theorem lateError_mem (s : State) (core slot team : Nat) (old : Bool) (e : Option (Nat × Nat)) :
    (s.lateError core slot team old e).mem = s.mem := by
  unfold State.lateError
  split
  · split
    · rfl
    · simp
  · rfl

@[simp] theorem lateFlags_mem (s : State) (core slot : Nat) (f : Flags) : (s.lateFlags core slot f).mem = s.mem := by
  unfold State.lateFlags
  split
  · split <;> rfl
  · rfl

@[simp] theorem execMatrixOpRetire_holds {uid : Nat} {s : State} (h : Memory.wf s.mem) : HoldsForm (execMatrixOpRetire uid s) := by
  unfold execMatrixOpRetire
  split
  · exact h
  · split
    · exact h
    · dsimp only
      rw [holdsForm_next]
      exact reap_wf (releaseSlot_wf (by simp [h]))

@[simp] theorem execMatrixQueueEnter_holds {core slot : Nat} {s : State} (h : Memory.wf s.mem) : HoldsForm (execMatrixQueueEnter core slot s) := by
  unfold execMatrixQueueEnter
  split
  · exact h
  · split <;> simp [h]

/-! ### What Ligature keeps -/

@[simp] theorem setLig_mem (s : State) (e : LigEngine) : (s.setLig e).mem = s.mem := rfl

@[simp] theorem startEval_wf {s : State} {op : LigOp} {sheet : Nat} (h : Memory.wf s.mem) : Memory.wf (s.startEval op sheet).1.mem :=
  write_wf h

@[simp] theorem startEmit_mem (s : State) (op : LigOp) (bf : Bool) (dst first count pitch cols : Nat) :
    (s.startEmit op bf dst first count pitch cols).1.mem = s.mem := by
  unfold State.startEmit
  dsimp only
  split <;> rfl

@[simp] theorem freshLig_wf {s : State} {core : Nat} {op : LigOp} (h : Memory.wf s.mem) : Memory.wf (s.freshLig core op).mem :=
  ite_wf (filter_wf h) h

@[simp] theorem execLigOpStart_holds {core : Nat} {s : State} (h : Memory.wf s.mem) : HoldsForm (execLigOpStart core s) := by
  unfold execLigOpStart
  split
  · exact h
  · split
    · exact h
    · rw [holdsForm_next]
      dsimp only
      split
      · exact freshLig_wf h
      · simp [h]
      · simp [h]

@[simp] theorem ligTrap_mem (s : State) (c : Cur) (core slot : Nat) (f : LigFault) : (s.ligTrap c core slot f).mem = s.mem :=
  (ligTrap_calm ..).mem

@[simp] theorem lateL_wf {s : State} {c : Cur} {g : Group} {k : State} (h : Memory.wf s.mem) (hk : Memory.wf k.mem) :
    Memory.wf (s.lateL c g k).mem := by
  unfold State.lateL
  split
  · simp [h]
  · exact hk

@[simp] theorem ligwaitDone_mem (s : State) (core slot : Nat) : (s.ligwaitDone core slot).mem = s.mem := by
  unfold State.ligwaitDone
  split
  · rfl
  · split
    · split <;> rfl
    · rfl

@[simp] theorem lateErrorL_mem (s : State) (core slot team : Nat) (old : Bool) (e : Option (Nat × Nat)) :
    (s.lateErrorL core slot team old e).mem = s.mem := by
  unfold State.lateErrorL
  split
  · split
    · rfl
    · simp
  · rfl

@[simp] theorem oldLigFault_wf {s : State} {op : LigOp} {f : LigFault} (h : Memory.wf s.mem) : Memory.wf (s.oldLigFault op f).mem := by
  unfold State.oldLigFault
  dsimp only
  refine foldl_wf (fun _ _ h' => by simp [h']) ?_
  split <;> simp [h]

@[simp] theorem ligFault_wf {s : State} {op : LigOp} {f : LigFault} (h : Memory.wf s.mem) : Memory.wf (s.ligFault op f).mem := by
  unfold State.ligFault
  dsimp only
  refine foldl_wf (fun _ _ h' => by simp [h']) (foldl_wf ?_ ?_)
  · intro _ _ h'
    split <;> simp [h']
  · split
    · exact h
    · split <;> simp [h]

@[simp] theorem freeOldLig_wf {s : State} {core team : Nat} (h : Memory.wf s.mem) : Memory.wf (s.freeOldLig core team).mem := by
  simp [State.freeOldLig, h]

@[simp] theorem execLigOpComplete_holds {uid : Nat} {s : State} (h : Memory.wf s.mem) : HoldsForm (execLigOpComplete uid s) := by
  unfold execLigOpComplete
  split
  · exact h
  · split
    · exact h
    · dsimp only
      rw [holdsForm_next]
      refine reap_wf (releaseSlot_wf ?_)
      refine freeOldLig_wf ?_
      rw [ligwaitDone_mem]
      split
      · split <;> simp [h]
      · simp [h]

@[simp] theorem execLigclrClear_holds {core slot : Nat} {s : State} (h : Memory.wf s.mem) : HoldsForm (execLigclrClear core slot s) := by
  unfold execLigclrClear
  split
  · exact h
  · split <;> simp [h]

@[simp] theorem ligatureOp_holds {s : State} {k : Cur → Group → Team → State} (h : Memory.wf s.mem) (hk : ∀ c g x, Memory.wf (k c g x).mem) :
    HoldsForm (ligatureOp s k) := by
  refine withGroup_holds h fun _ _ => ?_
  split <;> simp [h, hk]

@[simp] theorem ligReady_wf {s : State} {c : Cur} {g : Group} {k : State} (h : Memory.wf s.mem) (hk : Memory.wf k.mem) :
    Memory.wf (s.ligReady c g k).mem := by
  unfold State.ligReady
  split
  · simp [h]
  · simp [h, hk]

@[simp] theorem enterLig_mem (s : State) (c : Cur) (g : Group) (since : Nat) (kind : LigKind) : (s.enterLig c g since kind).mem = s.mem :=
  (enterLig_calm ..).mem

@[simp] theorem ligevalAt_mem (s : State) (c : Cur) (g : Group) (t : Team) (since addr : Nat) : (s.ligevalAt c g t since addr).mem = s.mem :=
  (ligevalAt_calm ..).mem

@[simp] theorem ligemitAt_mem (s : State) (c : Cur) (g : Group) (t : Team) (since : Nat) (bf : Bool) (addr f n q : Nat) :
    (s.ligemitAt c g t since bf addr f n q).mem = s.mem :=
  (ligemitAt_calm ..).mem

@[simp] theorem execLigQueueEnter_holds {core slot : Nat} {s : State} (h : Memory.wf s.mem) : HoldsForm (execLigQueueEnter core slot s) := by
  unfold execLigQueueEnter
  split
  · exact h
  · split
    · split
      · exact h
      · dsimp only
        rw [holdsForm_next]
        refine ligReady_wf h ?_
        split <;> simp [h]
    · exact h

@[simp] theorem execLigclr_holds {s : State} (h : Memory.wf s.mem) : HoldsForm (execLigclr s) :=
  ligatureOp_holds h fun _ _ _ => by simp [h]

/-! ### What Engine keeps -/

@[simp] theorem readAtIssue_wf {s : State} {c : Cur} {g : Group} {acc : List Nat} {rel : Bool} {addr n : Nat} {k : Nat → State}
    (h : Memory.wf s.mem) (hk : ∀ n1, Memory.wf (k n1).mem) : Memory.wf (s.readAtIssue c g acc rel addr n k).mem := by
  refine checked_wf h ?_
  dsimp only
  split
  · simp [h]
  · split
    · simp [h]
    · simp [h, hk]

@[simp] theorem writeRes_wf {s : State} {m : Cmd} (h : Memory.wf s.mem) : Memory.wf (s.writeRes m).mem := by
  refine foldl_wf (fun _ _ h' => ?_) h
  split <;> simp [h']

@[simp] theorem countRecvs_wf {s : State} {m : Cmd} {n flags : Nat} (h : Memory.wf s.mem) : Memory.wf (s.countRecvs m n flags).mem := by
  unfold State.countRecvs
  split
  · exact h
  · exact foldl_wf (fun _ _ h' => by simp [h']) h

@[simp] theorem writeFolio_wf {s : State} {m : Cmd} {bs : List (Nat × Byte)} (h : Memory.wf s.mem) : Memory.wf (s.writeFolio m bs).mem :=
  foldl_wf (fun _ _ h' => by simp [h']) h

@[simp] theorem zeroFolio_wf {s : State} {m : Cmd} {os : List Nat} (h : Memory.wf s.mem) : Memory.wf (s.zeroFolio m os).mem := by
  simp [State.zeroFolio, h]

@[simp] theorem retireCmd_wf {s : State} {m : Cmd} (h : Memory.wf s.mem) : Memory.wf (s.retireCmd m).mem := by
  unfold State.retireCmd
  dsimp only
  exact foldl_wf (fun _ _ h' => by simp [h']) (by simp [h])

@[simp] theorem settleCmd_wf {s : State} {uid : Nat} (h : Memory.wf s.mem) : Memory.wf (s.settleCmd uid).mem := by
  unfold State.settleCmd
  split
  · exact h
  · split <;> simp [h]

@[simp] theorem unitFault_mem (s : State) (m : Cmd) (va reason level ep access : Nat) : (s.unitFault m va reason level ep access).mem = s.mem := by
  simp [State.unitFault]

@[simp] theorem startData_wf {s : State} {uid : Nat} (h : Memory.wf s.mem) : Memory.wf (s.startData uid).mem := by
  unfold State.startData
  split
  · exact h
  · dsimp only
    refine settleCmd_wf ?_
    dsimp only
    split <;> simp [h]

@[simp] theorem pagereqEnd_wf {s : State} {uid : Nat} (h : Memory.wf s.mem) : Memory.wf (s.pagereqEnd uid).mem := by
  unfold State.pagereqEnd
  split
  · exact h
  · split
    · dsimp only
      exact retireCmd_wf (by simp [h])
    · exact h

@[simp] theorem unitsDone_wf {s : State} {uid : Nat} (h : Memory.wf s.mem) : Memory.wf (s.unitsDone uid).mem := by
  unfold State.unitsDone
  split
  · exact h
  · split
    · exact h
    · split <;> simp [h]

@[simp] theorem sendCmd_wf {s : State} {m : Cmd} (h : Memory.wf s.mem) : Memory.wf (s.sendCmd m).mem := by
  simp [State.sendCmd, h]

@[simp] theorem takeUp_wf {s : State} {c : Cur} {d : SReg} {m : Cmd} (h : Memory.wf s.mem) : Memory.wf (s.takeUp c d m).mem := by
  unfold State.takeUp
  split
  · simp [h]
  · dsimp only
    rw [resume_mem]
    exact setSregA_wf (by simp [h])

@[simp] theorem dropHeld_mem (s : State) (a : Agent) : (s.dropHeld a).mem = s.mem := rfl

@[simp] theorem chaseAgain_mem (s : State) (g : Group) (uid : Nat) : (s.chaseAgain g uid).mem = s.mem := by
  unfold State.chaseAgain
  split
  · split <;> rfl
  · rfl

@[simp] theorem execZeroFillAddition_holds {uid : Nat} {s : State} (h : Memory.wf s.mem) : HoldsForm (execZeroFillAddition uid s) := by
  unfold execZeroFillAddition
  split
  · exact h
  · split
    · exact h
    · split
      · simp [h]
      · split
        · exact h
        · split
          · simp [h]
          · dsimp only
            rw [holdsForm_next]
            refine settleCmd_wf (countRecvs_wf ?_)
            split <;> simp [h]

@[simp] theorem failReq_wf {s : State} {r : Req} {reason level ep : Nat} {lost : Bool} (h : Memory.wf s.mem) :
    Memory.wf (s.failReq r reason level ep lost).mem := by
  unfold State.failReq
  split <;> simp [h]

/-! ### What Command keeps -/

@[simp] theorem engineOp_holds {s : State} {d : SReg} {k : Cur → Group → Team → State} (h : Memory.wf s.mem)
    (hk : ∀ c g x, Memory.wf (k c g x).mem) : HoldsForm (engineOp s d k) := by
  refine withGroup_holds h fun _ _ => ?_
  split
  · exact h
  · split
    · simp [h]
    · simp [h, hk]

@[simp] theorem cmdTrap_mem (s : State) (c : Cur) (cause addr : Nat) : (s.cmdTrap c cause addr).mem = s.mem :=
  (cmdTrap_calm ..).mem

@[simp] theorem withPlane_wf {s : State} {c : Cur} {g : Group} {a b : SReg} {k : Desc → Nat → State} (h : Memory.wf s.mem)
    (hk : ∀ x n, Memory.wf (k x n).mem) : Memory.wf (s.withPlane c g a b k).mem := by
  simp [State.withPlane, h, hk]

@[simp] theorem fetchInto_wf {s : State} {c : Cur} {g : Group} {t : Team} {kind : CmdKind} {d : SReg} {x : Desc} {base : Nat} {its : List Item}
    {cores : List (Nat × Nat)} (h : Memory.wf s.mem) : Memory.wf (s.fetchInto c g t kind d x base its cores).mem := by
  simp [State.fetchInto, h]

@[simp] theorem execTfetch_holds {d a b x : SReg} {s : State} (h : Memory.wf s.mem) : HoldsForm (execTfetch d a b x s) := by
  refine engineOp_holds h fun _ _ _ => withPlane_wf h fun _ _ => ?_
  dsimp only
  split <;> simp [h]

@[simp] theorem execTmcast_holds {mask : BitVec 4} {d a b x : SReg} {s : State} (h : Memory.wf s.mem) : HoldsForm (execTmcast mask d a b x s) := by
  refine engineOp_holds h fun _ _ _ => withPlane_wf h fun _ _ => ?_
  dsimp only
  split
  · simp [h]
  · split <;> simp [h]

@[simp] theorem readList_wf {s : State} {c : Cur} {g : Group} {a n : Nat} {k : List Nat → State} (h : Memory.wf s.mem)
    (hk : ∀ xs, Memory.wf (k xs).mem) : Memory.wf (s.readList c g a n k).mem := by
  unfold State.readList
  split
  · simp [h]
  · dsimp only
    split
    · simp [h]
    · simp [h, hk]

@[simp] theorem execTgather_holds {d a b x : SReg} {s : State} (h : Memory.wf s.mem) : HoldsForm (execTgather d a b x s) := by
  refine engineOp_holds h fun c g t => withPlane_wf h fun ds base => ?_
  dsimp only
  split
  · simp [h]
  · exact ite_wf (by simp [h]) (ite_wf (by simp [h]) (readList_wf h fun idx => ite_wf (by simp [h]) (fetchInto_wf h)))

@[simp] theorem storeFrom_wf {s : State} {c : Cur} {g : Group} {t : Team} {kind : CmdKind} {d : SReg} {x : Desc} {its : List Item}
    (h : Memory.wf s.mem) : Memory.wf (s.storeFrom c g t kind d x its).mem := by
  simp [State.storeFrom, h]

@[simp] theorem storeOp_holds {s : State} {kind : CmdKind} {own : Desc → Bool} {d a b x : SReg} (h : Memory.wf s.mem) :
    HoldsForm (storeOp s kind own d a b x) := by
  refine engineOp_holds h fun _ _ _ => withPlane_wf h fun _ _ => ?_
  dsimp only
  split
  · simp [h]
  · split <;> simp [h]

@[simp] theorem farOnly_wf {s : State} {c : Cur} {g : Group} {t : Team} {m : Cmd} {d : SReg} {x : Desc} (h : Memory.wf s.mem) :
    Memory.wf (s.farOnly c g t m d x).mem := by
  simp [State.farOnly, h]

@[simp] theorem execTfill_holds {d a b x : SReg} {s : State} (h : Memory.wf s.mem) : HoldsForm (execTfill d a b x s) := by
  refine engineOp_holds h fun c g t => readAtIssue_wf h fun y => ?_
  dsimp only
  split
  · simp [h]
  · exact ite_wf (by simp [h]) (ite_wf (by simp [h]) (farOnly_wf h))

@[simp] theorem execTcopy_holds {d a b x : SReg} {s : State} (h : Memory.wf s.mem) : HoldsForm (execTcopy d a b x s) := by
  refine engineOp_holds h fun c g t => readAtIssue_wf h fun y => readAtIssue_wf h fun z => ?_
  iterate 7 refine ite_wf (by simp [h]) ?_
  exact farOnly_wf h

@[simp] theorem execPagereq_holds {d a b x : SReg} {s : State} (h : Memory.wf s.mem) : HoldsForm (execPagereq d a b x s) := by
  refine engineOp_holds h fun c g t => readAtIssue_wf h fun y => ?_
  dsimp only
  split
  · simp [h]
  · exact ite_wf (by simp [h]) (ite_wf (by simp [h]) (farOnly_wf h))

@[simp] theorem execTatom_holds {op : AtOp} {ty : Ty} {d a b x : SReg} {s : State} (h : Memory.wf s.mem) :
    HoldsForm (execTatom op ty d a b x s) := by
  refine engineOp_holds h fun c g t => ?_
  iterate 8 refine ite_wf (by simp [h]) ?_
  exact takeUp_wf h

@[simp] theorem bulkOp_holds {s : State} {kind : CmdKind} {d a b x : SReg} (h : Memory.wf s.mem) : HoldsForm (bulkOp s kind d a b x) := by
  refine engineOp_holds h fun c g t => ?_
  iterate 10 refine ite_wf (by simp [h]) ?_
  exact takeUp_wf h

@[simp] theorem execTwinLim_holds {d : SReg} {s : State} (h : Memory.wf s.mem) : HoldsForm (execTwinLim d s) := by
  refine withGroup_holds h fun _ _ => ?_
  split <;> simp [h]

@[simp] theorem execTwinOut_holds {d : SReg} {s : State} (h : Memory.wf s.mem) : HoldsForm (execTwinOut d s) :=
  withGroup_holds h fun _ _ => by simp [h]

@[simp] theorem execTwinSet_holds {d a : SReg} {s : State} (h : Memory.wf s.mem) : HoldsForm (execTwinSet d a s) := by
  refine withGroup_holds h fun _ _ => ?_
  split <;> simp [h]

/-! ### What Kernel keeps -/

@[simp] theorem addGroups_mem (s : State) (core team first : Nat) (k : KRec) (xs : List (Nat × Nat × Nat)) :
    (s.addGroups core team first k xs).mem = s.mem := by
  induction xs generalizing s first with
  | nil => rfl
  | cons x xs ih => exact ih ..

theorem placeShare_wf {s t : State} {u : Team} {core n first : Nat} (h : Memory.wf s.mem) (e : s.placeShare u core n first = some t) :
    Memory.wf t.mem := by
  unfold State.placeShare at e
  dsimp only at e
  split at e
  · cases e
  · split at e
    · cases e
    · cases e
      rw [addGroups_mem]
      exact give_wf (ite_wf h h)

theorem placeTeam_wf {s t : State} {l : Launch} {num : Nat} {cset : Option Nat} {core : Nat} (h : Memory.wf s.mem)
    (e : s.placeTeam l num cset core = some t) : Memory.wf t.mem := by
  unfold State.placeTeam at e
  split at e
  · cases e
  · dsimp only at e
    split at e
    · cases e
    · next placed =>
      have seated := placeShare_wf (s := { s with uid := s.uid + 1 }) h placed
      obtain ⟨u, hu, rfl⟩ := Option.map_eq_some_iff.1 e
      have both : Memory.wf u.mem := by
        split at hu
        · exact placeShare_wf seated hu
        · exact Option.some.inj hu ▸ seated
      exact both

theorem firstState_wf {α : Type} {f : α → Option State} {xs : List α} {t : State} (hf : ∀ x t, f x = some t → Memory.wf t.mem)
    (e : firstState f xs = some t) : Memory.wf t.mem := by
  induction xs with
  | nil => cases e
  | cons x xs ih =>
    unfold firstState at e
    split at e
    · next ht => exact Option.some.inj e ▸ hf x _ ht
    · exact ih e

theorem placeSet_wf {s t : State} {l : Launch} {set : Nat} {cs nums : List Nat} (h : Memory.wf s.mem)
    (e : s.placeSet l set cs nums = some t) : Memory.wf t.mem := by
  induction nums generalizing s t cs with
  | nil => exact Option.some.inj e ▸ h
  | cons num nums ih =>
    refine firstState_wf (fun k u hk => ?_) e
    obtain ⟨v, hv, rest⟩ := Option.bind_eq_some_iff.1 hk
    exact ih (placeTeam_wf h hv) rest

theorem placeNext_wf {s t : State} {l : Launch} (h : Memory.wf s.mem) (e : s.placeNext l = some t) : Memory.wf t.mem := by
  unfold State.placeNext at e
  split at e
  · cases e
  · obtain ⟨u, hu, rfl⟩ := Option.map_eq_some_iff.1 e
    rw [setLaunch_mem]
    split at hu
    · exact firstState_wf (fun k t => placeTeam_wf h) hu
    · exact firstState_wf (fun k t => placeSet_wf h) hu

/-! ### What Handoff keeps -/

@[simp] theorem handTrap_mem (s : State) (team cause : Nat) (x y : DWord) : (s.handTrap team cause x y).mem = s.mem :=
  (handTrap_calm ..).mem

@[simp] theorem handCheck_mem (s : State) (team : Nat) : (s.handCheck team).mem = s.mem :=
  (handCheck_calm ..).mem

@[simp] theorem handArrive_mem (s : State) (core slot : Nat) : (s.handArrive core slot).mem = s.mem :=
  (handArrive_calm ..).mem

@[simp] theorem execExit_holds {s : State} (h : Memory.wf s.mem) : HoldsForm (execExit s) := by
  refine withAgent_holds h fun _ => unlocked_wf h ?_
  split <;> simp [h]

@[simp] theorem scrubGroup_wf {s : State} {g : Group} {x : Hand} (h : Memory.wf s.mem) : Memory.wf (s.scrubGroup g x).mem := by
  unfold State.scrubGroup
  dsimp only
  exact foldl_wf (fun _ _ h' => by simp [h']) (foldl_wf (fun _ _ h' => by simp [h']) h)

@[simp] theorem handSeat_wf {s : State} {t : Team} {x : Hand} {y : Seat} {folio : Nat} (h : Memory.wf s.mem) :
    Memory.wf (s.handSeat t x y folio).1.mem := by
  have frees : ∀ (s : State) (n : Nat), Memory.wf s.mem → Memory.wf (s.freeTile y.core n).mem := fun _ _ => freeTile_wf
  refine give_wf (foldl_wf (fun s p => frees s p.1) (foldl_wf frees (foldl_wf (fun s r => zero_wf) ?_)))
  exact freeRegion_wf h

@[simp] theorem handLig_wf {s : State} {t : Team} {x : Hand} {core : Nat} (h : Memory.wf s.mem) : Memory.wf (s.handLig t x core).mem := by
  unfold State.handLig
  dsimp only
  split
  · split <;> simp [h]
  · simp [h]

/-- The seats of a team that is handed on, one after another. -/
theorem handSeats_wf {t : Team} {x : Hand} {ps : List (Seat × Nat)} {r : State × List Seat} (h : Memory.wf r.1.mem) :
    Memory.wf (ps.foldl (fun (r : State × List Seat) p =>
      let q := r.1.handSeat t x p.1 p.2
      (q.1, r.2 ++ [q.2])) r).1.mem := by
  induction ps generalizing r with
  | nil => exact h
  | cons p ps ih => exact ih (handSeat_wf h)

@[simp] theorem handTransfer_wf {s : State} {t : Team} {x : Hand} (h : Memory.wf s.mem) : Memory.wf (s.handTransfer t x).mem := by
  refine foldl_wf (fun s p hs => hs) ?_
  refine foldl_wf (fun s g => scrubGroup_wf) (foldl_wf (fun s x => handLig_wf) (handSeats_wf ?_))
  refine foldl_wf (fun s g => freeRegion_wf) (foldl_wf (fun s g => endGroup_wf) (foldl_wf (fun s g hs => ?_) h))
  simpa using hs

@[simp] theorem execHandoffTransfer_holds {team : Nat} {s : State} (h : Memory.wf s.mem) : HoldsForm (execHandoffTransfer team s) := by
  unfold execHandoffTransfer
  split
  · exact h
  · split <;> simp [h]

@[simp] theorem execSuccessorStart_holds {team : Nat} {s : State} (h : Memory.wf s.mem) : HoldsForm (execSuccessorStart team s) := by
  unfold execSuccessorStart
  split <;> simp [h]

@[simp] theorem execScrubWrite_holds {core granule : Nat} {s : State} (h : Memory.wf s.mem) : HoldsForm (execScrubWrite core granule s) :=
  h

/-! ### What Mailbox keeps -/

@[simp] theorem hostFault_mem (s : State) (part va reason level ep access : Nat) : (s.hostFault part va reason level ep access).mem = s.mem := by
  simp [State.hostFault]

@[simp] theorem windowRead_mem (s : State) (n o k : Nat) : (s.windowRead n o k).1.mem = s.mem := by
  unfold State.windowRead
  split
  · rfl
  · rfl
  · split
    · rfl
    · exact hostFault_mem ..
    · rfl

@[simp] theorem windowWrite_wf {s : State} {n o : Nat} {bs : List Byte} (h : Memory.wf s.mem) : Memory.wf (s.windowWrite n o bs).mem := by
  unfold State.windowWrite
  split
  · exact h
  · simp [h]
  · split <;> simp [h]

@[simp] theorem hostRead_mem (s : State) (win off size : Nat) : (s.hostRead win off size).mem = s.mem := by
  have pieces (ps : List (Nat × Nat)) (r : State × List Byte) : (ps.foldl (fun (a : State × List Byte) p =>
      let x := a.1.windowRead win p.1 p.2; (x.1, a.2 ++ x.2)) r).1.mem = r.1.mem := by
    induction ps generalizing r with
    | nil => rfl
    | cons p ps ih => exact (ih _).trans (windowRead_mem ..)
  exact pieces ..

@[simp] theorem hostWrite_wf {s : State} {win off : Nat} {bs : List Byte} (h : Memory.wf s.mem) : Memory.wf (s.hostWrite win off bs).mem :=
  foldl_wf (fun _ _ h' => by simp [h']) h

@[simp] theorem ppFault_mem (s : State) (part hw va reason level ep access : Nat) :
    (s.ppFault part hw va reason level ep access).mem = s.mem := postFault_mem ..

@[simp] theorem stopQueue_mem (s : State) (part q : Nat) : (s.stopQueue part q).mem = s.mem := rfl

/-- Stated of the function itself: the index in a queue table is not to be evaluated. -/
theorem ppLost_eq : State.ppLost = fun s p hw va reason level ep =>
    match p.indexAt va with
    | some q => (s.ppFault p.p hw va reason level ep 1).stopQueue p.p q
    | none => s.ppFault p.p hw va reason level ep 1 := rfl

@[simp] theorem ppLost_mem (s : State) (p : Partition) (hw va reason level ep : Nat) : (s.ppLost p hw va reason level ep).mem = s.mem := by
  have e := congrFun (congrFun (congrFun (congrFun (congrFun (congrFun (congrFun ppLost_eq s) p) hw) va) reason) level) ep
  rw [e]
  split <;> simp

@[simp] theorem ppWrite_wf {s : State} {p : Partition} {hw va : Nat} {bs : List Byte} (h : Memory.wf s.mem) :
    Memory.wf (s.ppWrite p hw va bs).mem := by
  unfold State.ppWrite
  split
  · exact h
  · split <;> simp [h]

@[simp] theorem retryWrites_wf {s : State} (h : Memory.wf s.mem) : Memory.wf s.retryWrites.mem := by
  refine foldl_wf (fun _ _ h' => ?_) h
  split <;> simp [h']

@[simp] theorem inOrder_wf {s : State} {o : HostOp} {k : State} (h : Memory.wf s.mem) (hk : Memory.wf k.mem) : Memory.wf (s.inOrder o k).mem := by
  simp [State.inOrder, h, hk]

/-! ### What Module keeps -/

@[simp] theorem ackOnly_mem (s : State) (y : RxStream) : (s.ackOnly y).mem = s.mem := by
  unfold State.ackOnly
  split
  · simp
  · rfl

@[simp] theorem sendAcks_mem (s : State) : s.sendAcks.mem = s.mem :=
  foldl_mem _ (fun _ _ => by simp) _ _

@[simp] theorem takeAck_mem (s : State) (b : Burst) : (s.takeAck b).mem = s.mem := by
  unfold State.takeAck
  split
  · rfl
  · simp

@[simp] theorem oweAck_mem (s : State) (b : Burst) : (s.oweAck b).mem = s.mem := by
  unfold State.oweAck
  split <;> rfl

@[simp] theorem serveAsks_mem (s : State) (n : Nat) : (s.serveAsks n).mem = s.mem := by
  induction n generalizing s with
  | zero => rfl
  | succ n ih =>
    unfold State.serveAsks
    split
    · rfl
    · simp [ih]

@[simp] theorem readSource_mem (s : State) (m : Cmd) : (s.readSource m).mem = s.mem := by
  unfold State.readSource
  split <;> rfl

@[simp] theorem sendReq_mem (s : State) (m : Cmd) (r : Req) : (s.sendReq m r).mem = s.mem := by
  unfold State.sendReq
  dsimp only
  split
  · rfl
  · simp

@[simp] theorem execRequestSend_holds {cmd req : Nat} {s : State} (h : Memory.wf s.mem) : HoldsForm (execRequestSend cmd req s) := by
  unfold execRequestSend
  split <;> simp [h]

@[simp] theorem execRequestRetry_holds {cmd req : Nat} {s : State} (h : Memory.wf s.mem) : HoldsForm (execRequestRetry cmd req s) := by
  unfold execRequestRetry
  split
  · split <;> simp [h]
  · exact h

@[simp] theorem takeRequest_mem (s : State) (c : Chunk) : (s.takeRequest c).mem = s.mem := by
  unfold State.takeRequest
  split
  · rfl
  · split <;> rfl

@[simp] theorem takeChunks_mem (s : State) (b : Burst) (cs : List Chunk) : (s.takeChunks b cs).mem = s.mem := by
  induction cs generalizing s with
  | nil => rfl
  | cons c cs ih =>
    refine (ih _).trans ?_
    split <;> simp

@[simp] theorem carry_mem (s : State) (n : Nat) (t : Transit) : (s.carry n t).mem = s.mem := by
  unfold State.carry
  split
  · rfl
  · dsimp only
    split
    · rfl
    · split
      · rfl
      · simp

@[simp] theorem refuseReq_wf {s : State} {r : Req} {x : Nat} (h : Memory.wf s.mem) : Memory.wf (s.refuseReq r x).mem := by
  simp [State.refuseReq, h]

@[simp] theorem acceptReq_wf {s : State} {r : Req} {w : Answer} {k : State → Req → Nat → State} (h : Memory.wf s.mem)
    (hk : ∀ t x n, Memory.wf t.mem → Memory.wf (k t x n).mem) : Memory.wf (s.acceptReq r w k).mem := by
  unfold State.acceptReq
  split
  · exact h
  · split
    · simp [h]
    · split
      · simp [h]
      · split
        · simp [h]
        · simp [h]
        · simp [h, hk]

@[simp] theorem execModuleRead_holds {ep n : Nat} {w : Answer} {s : State} (h : Memory.wf s.mem) : HoldsForm (execModuleRead ep n w s) := by
  unfold execModuleRead
  split <;> simp [h]

@[simp] theorem execModuleWrite_holds {ep n : Nat} {w : Answer} {s : State} (h : Memory.wf s.mem) : HoldsForm (execModuleWrite ep n w s) := by
  unfold execModuleWrite
  split
  · exact h
  · rw [holdsForm_next]
    exact acceptReq_wf h fun _ _ _ h' => by simp [h']

@[simp] theorem reduceRun_wf {s : State} {op : FarRed} {efmt size key : Nat} {src : List Host.Cell} {bad : Nat → Bool} {va n : Nat}
    (h : Memory.wf s.mem) : Memory.wf (s.reduceRun op efmt size key src bad va n).mem := by
  induction n generalizing s key va with
  | zero => exact h
  | succ n ih => exact ih (write_wf h)

@[simp] theorem execModuleReduce_holds {ep n : Nat} {w : Answer} {s : State} (h : Memory.wf s.mem) : HoldsForm (execModuleReduce ep n w s) := by
  unfold execModuleReduce
  split
  · exact h
  · rw [holdsForm_next]
    refine acceptReq_wf h fun _ _ _ h' => ?_
    split <;> simp [h']

@[simp] theorem execModuleFill_holds {ep n : Nat} {w : Answer} {s : State} (h : Memory.wf s.mem) : HoldsForm (execModuleFill ep n w s) := by
  unfold execModuleFill
  split
  · exact h
  · rw [holdsForm_next]
    exact acceptReq_wf h fun _ _ _ h' => by simp [h']

@[simp] theorem execModuleAtomic_holds {ep n : Nat} {w : Answer} {s : State} (h : Memory.wf s.mem) : HoldsForm (execModuleAtomic ep n w s) := by
  unfold execModuleAtomic
  split
  · exact h
  · rw [holdsForm_next]
    refine acceptReq_wf h fun _ _ _ h' => ?_
    split <;> simp [h']

@[simp] theorem destGone_wf {s : State} {m : Cmd} {r : Req} {d : Nat} {a : FarAns} (h : Memory.wf s.mem) : Memory.wf (s.destGone m r d a).mem := by
  unfold State.destGone
  split <;> simp [h]

@[simp] theorem copyBlock_wf {s : State} {m : Cmd} {r : Req} {frame k : Nat} {bad : Bool} (h : Memory.wf s.mem) :
    Memory.wf (s.copyBlock m r frame k bad).mem := by
  unfold State.copyBlock
  dsimp only
  split
  · exact h
  · split <;> simp [h]

@[simp] theorem copyAll_wf {s : State} {cmd req frame : Nat} {bad ks : List Nat} (h : Memory.wf s.mem) :
    Memory.wf (s.copyAll cmd req frame bad ks).mem := by
  induction ks generalizing s with
  | nil => exact h
  | cons k ks ih =>
    unfold State.copyAll
    split
    · exact ih (copyBlock_wf h)
    · exact h

@[simp] theorem execModuleCopy_holds {ep n : Nat} {w : Answer} {s : State} (h : Memory.wf s.mem) : HoldsForm (execModuleCopy ep n w s) := by
  unfold execModuleCopy
  split
  · exact h
  · dsimp only
    split
    · rw [holdsForm_next]
      exact acceptReq_wf h fun _ _ _ h' => by simp [h']
    · split <;> simp [h]

@[simp] theorem deliverTo_wf {s : State} {m : Cmd} {r : Req} {as : List Arrived} (h : Memory.wf s.mem) : Memory.wf (s.deliverTo m r as).mem := by
  unfold State.deliverTo
  dsimp only
  exact settleCmd_wf (by simp [h])

@[simp] theorem deliver_wf {s : State} {c : Chunk} (h : Memory.wf s.mem) : Memory.wf (s.deliver c).mem := by
  unfold State.deliver
  split
  · split <;> simp [h]
  · exact h

@[simp] theorem acceptChunks_wf {s : State} {b : Burst} {cs : List Chunk} (h : Memory.wf s.mem) : Memory.wf (s.acceptChunks b cs).mem := by
  induction cs generalizing s with
  | nil => exact h
  | cons c cs ih => exact ih (ite_wf (deliver_wf h) h)

@[simp] theorem discard_mem (s : State) (b : Burst) : (s.discard b).mem = s.mem := by
  unfold State.discard
  dsimp only
  split <;> rfl

@[simp] theorem execResponseBurstReceive_holds {n : Nat} {t : Transit} {s : State} (h : Memory.wf s.mem) :
    HoldsForm (execResponseBurstReceive n t s) := by
  unfold execResponseBurstReceive
  split
  · exact h
  · split
    · exact h
    · dsimp only
      split <;> simp [h]

@[simp] theorem execAckOnlyReceive_holds {n : Nat} {t : Transit} {s : State} (h : Memory.wf s.mem) : HoldsForm (execAckOnlyReceive n t s) := by
  unfold execAckOnlyReceive
  split
  · exact h
  · split
    · exact h
    · dsimp only
      split <;> simp [h]

@[simp] theorem execReplayTimeout_holds {stream : Nat} {s : State} (h : Memory.wf s.mem) : HoldsForm (execReplayTimeout stream s) := by
  unfold execReplayTimeout
  split <;> simp [h]

@[simp] theorem execResumeReceive_holds {stream : Nat} {r : Word} {s : State} (h : Memory.wf s.mem) : HoldsForm (execResumeReceive stream r s) := by
  unfold execResumeReceive
  split <;> simp [h]

@[simp] theorem execGrantRequestReceive_holds {src plane slot vc bursts refuse : Nat} {s : State} (h : Memory.wf s.mem) :
    HoldsForm (execGrantRequestReceive src plane slot vc bursts refuse s) := by
  simp [execGrantRequestReceive, h]

@[simp] theorem execGrantReceive_holds {peer plane slot vc bursts : Nat} {s : State} (h : Memory.wf s.mem) :
    HoldsForm (execGrantReceive peer plane slot vc bursts s) := by
  simp [execGrantReceive, h]

@[simp] theorem execGrantRefusalReceive_holds {peer plane vc hint : Nat} {s : State} (h : Memory.wf s.mem) :
    HoldsForm (execGrantRefusalReceive peer plane vc hint s) :=
  h

@[simp] theorem execGrantRetry_holds {peer plane vc : Nat} {s : State} (h : Memory.wf s.mem) : HoldsForm (execGrantRetry peer plane vc s) :=
  h

theorem cross_mem {s : State} {src dst stream vc : Nat} {bs : List Byte} {r : State × List Byte} (e : s.cross src dst stream vc bs = some r) :
    r.1.mem = s.mem := by
  obtain ⟨w, -, e⟩ := Option.bind_eq_some_iff.1 e
  obtain ⟨b, -, rfl⟩ := Option.map_eq_some_iff.1 e
  rfl

theorem ask_mem {s : State} {ep : Nat} {b : Body} {r : State × Body} (e : s.ask ep b = some r) : r.1.mem = s.mem := by
  obtain ⟨x, hx, rfl⟩ := Option.map_eq_some_iff.1 e
  exact cross_mem hx

theorem exchange_mem {s : State} {ep : Nat} {b : Body} {f : Body → List Byte} {r : State × Body × List Byte} (e : s.exchange ep b f = some r) :
    r.1.mem = s.mem := by
  obtain ⟨x, hx, e⟩ := Option.bind_eq_some_iff.1 e
  obtain ⟨y, hy, rfl⟩ := Option.map_eq_some_iff.1 e
  exact (cross_mem hy).trans (ask_mem hx)

@[simp] theorem execModuleHint_holds {ep n : Nat} {drop : Bool} {s : State} (h : Memory.wf s.mem) : HoldsForm (execModuleHint ep n drop s) := by
  unfold execModuleHint
  split
  · exact h
  · split
    · exact h
    · next e =>
      have asked := ask_mem e
      dsimp only at asked ⊢
      split <;> simp [asked, h]

@[simp] theorem execModuleTableRead_holds {ep addr : Nat} {s : State} (h : Memory.wf s.mem) : HoldsForm (execModuleTableRead ep addr s) := by
  unfold execModuleTableRead
  split
  · exact h
  · next e =>
    have asked := exchange_mem e
    dsimp only at asked ⊢
    split <;> simp [asked, h]

@[simp] theorem execModuleTableWrite_holds {ep : Nat} {s : State} (h : Memory.wf s.mem) : HoldsForm (execModuleTableWrite ep s) := by
  unfold execModuleTableWrite
  split
  · exact h
  · split
    · exact h
    · next e =>
      have asked := exchange_mem e
      dsimp only at asked ⊢
      split
      · simp [asked, h]
      · split
        · simp [asked, h]
        · split <;> simp [asked, h]

@[simp] theorem execPageMoveComplete_holds {ep page : Nat} {s : State} (h : Memory.wf s.mem) : HoldsForm (execPageMoveComplete ep page s) := by
  have written (cs : List Host.Cell) (b : Boot) (m : Module) : HoldsForm (.next (State.setModule { s.write cs with boot := b } m)) := write_wf h
  unfold execPageMoveComplete
  dsimp only
  split
  · exact h
  · split
    · exact h
    · exact written ..

@[simp] theorem execModuleThermalStep_holds {ep stack temp : Nat} {s : State} (h : Memory.wf s.mem) :
    HoldsForm (execModuleThermalStep ep stack temp s) :=
  h

/-! ### What Queue keeps -/

@[simp] theorem queueError_wf {s : State} {p : Partition} {q code : Nat} (h : Memory.wf s.mem) : Memory.wf (s.queueError p q code).mem := by
  simp [State.queueError, h]

@[simp] theorem tableFault_wf {s : State} {p : Partition} {q : Nat} {x : FarAns} (h : Memory.wf s.mem) : Memory.wf (s.tableFault p q x).mem := by
  unfold State.tableFault
  split <;> simp [h]

@[simp] theorem makePending_mem (s : State) (part q prio : Nat) (cursor : Option Nat) (packets : List Packet) (replay : Option (List Nat × Nat)) :
    (s.makePending part q prio cursor packets replay).mem = s.mem := by
  unfold State.makePending
  dsimp only
  split
  · rfl
  · split <;> rfl

@[simp] theorem notify_wf {s : State} {part q x : Nat} (h : Memory.wf s.mem) : Memory.wf (s.notify part q x).mem := by
  unfold State.notify
  split
  · exact h
  · split
    · exact h
    · split
      · simp [h]
      · dsimp only
        split
        · exact h
        · split
          · simp [h]
          · split
            · exact h
            · split
              · simp [h]
              · split <;> simp [h]

@[simp] theorem execNotifyWrite_holds {part q : Nat} {x : DWord} {s : State} (h : Memory.wf s.mem) : HoldsForm (execNotifyWrite part q x s) := by
  simp [execNotifyWrite, h]

@[simp] theorem setMapped_mem (s : State) (n : Nat) (m : Mapped) : (s.setMapped n m).mem = s.mem := rfl

@[simp] theorem settleRidx_wf {s : State} {n : Nat} (h : Memory.wf s.mem) : Memory.wf (s.settleRidx n).mem := by
  unfold State.settleRidx
  split
  · exact h
  · split <;> simp [h]

@[simp] theorem setPacket_wf {s : State} {n : Nat} {k : Packet} (h : Memory.wf s.mem) : Memory.wf (s.setPacket n k).mem := by
  unfold State.setPacket
  split <;> simp [h]

@[simp] theorem completePacket_wf {s : State} {n part q : Nat} {k : Packet} (h : Memory.wf s.mem) : Memory.wf (s.completePacket n part q k).mem := by
  unfold State.completePacket
  split
  · exact h
  · dsimp only
    split
    · split
      · simp [h]
      · split
        · exact setPacket_wf (by simp [h])
        · exact queueError_wf (by simp [h])
        · exact h
    · simp [h]

theorem nextPacket_error_mem {s t : State} {x : HwSlot} {m : Mapped} {p : Partition} {code : Nat} (e : s.nextPacket x m p = .error code t) :
    t.mem = s.mem := by
  unfold State.nextPacket at e
  split at e
  · split at e
    · cases e
    · cases e
      exact ppFault_mem ..
  · cases e
  · split at e
    · cases e
    · dsimp only at e
      split at e
      · cases e
        exact ppFault_mem ..
      · cases e
      · split at e
        · cases e
          rfl
        · split at e <;> cases e

@[simp] theorem startPacket_holds {s : State} {n type : Nat} {k : State → HwSlot → Mapped → Partition → Packet → State}
    (h : Memory.wf s.mem) (hk : ∀ t x m p w, Memory.wf t.mem → Memory.wf (k t x m p w).mem) : HoldsForm (startPacket s n type k) := by
  unfold startPacket
  split
  · exact h
  · split
    · split
      · exact h
      · next e =>
        exact queueError_wf (by rwa [nextPacket_error_mem e])
      · refine ite_holds h (hk _ _ _ _ _ ?_)
        rw [setMapped_mem]
        exact h
    · exact h

@[simp] theorem execPacketNoop_holds {n : Nat} {s : State} (h : Memory.wf s.mem) : HoldsForm (execPacketNoop n s) :=
  startPacket_holds h fun _ _ _ _ _ h' => by simp [h']

@[simp] theorem execPacketWait_holds {n : Nat} {s : State} (h : Memory.wf s.mem) : HoldsForm (execPacketWait n s) :=
  startPacket_holds h fun _ _ _ _ _ h' => by simp [h']

@[simp] theorem execWaitPacketPoll_holds {n idx : Nat} {s : State} (h : Memory.wf s.mem) : HoldsForm (execWaitPacketPoll n idx s) := by
  unfold execWaitPacketPoll
  split
  · exact h
  · split
    · split
      · exact h
      · split
        · exact h
        · dsimp only
          split <;> simp [h]
    · exact h

theorem readBinds_error_mem {s t : State} {p : Partition} {hw : Nat} {k : KRec} {bs : List Binding} {code : Nat}
    (e : s.readBinds p hw k bs = .error code t) : t.mem = s.mem := by
  induction bs with
  | nil => cases e
  | cons b bs ih =>
    unfold State.readBinds at e
    split at e
    · split at e
      · cases e
      · exact ih e
    · split at e
      · cases e
        exact ppFault_mem ..
      · cases e
      · split at e
        · cases e
          rfl
        · split at e
          · cases e
          · exact ih e

@[simp] theorem execPacketKernel_holds {n : Nat} {s : State} (h : Memory.wf s.mem) : HoldsForm (execPacketKernel n s) := by
  refine startPacket_holds h fun t x m p w ht => ?_
  dsimp only
  split
  · simp [ht]
  · exact h
  · refine ite_wf (by simp [ht]) ?_
    split
    · exact h
    · next e => simp [readBinds_error_mem e, ht]
    · split <;> simp [h, ht]

@[simp] theorem execPacketComplete_holds {n idx : Nat} {s : State} (h : Memory.wf s.mem) : HoldsForm (execPacketComplete n idx s) := by
  unfold execPacketComplete
  split
  · exact h
  · split
    · exact h
    · split
      · exact h
      · split <;> simp [h]

@[simp] theorem afterPlace_wf {s : State} {lid : Nat} (h : Memory.wf s.mem) : Memory.wf (s.afterPlace lid).mem := by
  unfold State.afterPlace
  split
  · exact h
  · split
    · exact h
    · split <;> simp [h]

@[simp] theorem execTeamPlace_holds {lid : Nat} {s : State} (h : Memory.wf s.mem) : HoldsForm (execTeamPlace lid s) := by
  unfold execTeamPlace
  split
  · exact h
  · refine ite_holds h ?_
    split
    · next e => simp [placeNext_wf h e]
    · exact h

@[simp] theorem execPlacementRetry_holds {part : Nat} {s : State} (h : Memory.wf s.mem) : HoldsForm (execPlacementRetry part s) := by
  refine foldl_wf (fun s l hs => ite_wf ?_ hs) h
  split
  · next e => simp [placeNext_wf hs e]
  · exact hs

@[simp] theorem execBindingIssue_holds {team : Nat} {s : State} (h : Memory.wf s.mem) : HoldsForm (execBindingIssue team s) := by
  have sends (key bytes : Nat) (t : Team) (m : Cmd) :
      HoldsForm (.next (State.sendCmd ((State.initWord { s with uid := s.uid + 1 } key bytes).setTeam t) m)) :=
    sendCmd_wf (initWord_wf h)
  unfold execBindingIssue
  split
  · exact h
  · split
    · split
      · exact h
      · dsimp only
        split
        · exact h
        · exact sends ..
    · exact h

@[simp] theorem tryPin_wf {s : State} {n : Nat} (h : Memory.wf s.mem) : Memory.wf (s.tryPin n).mem := by
  unfold State.tryPin
  split
  · exact h
  · split
    · exact h
    · dsimp only
      split
      · exact h
      · split
        · exact h
        · split
          · exact h
          · split <;> simp [h]

@[simp] theorem releaseLanes_mem (s : State) (n : Nat) : (s.releaseLanes n).mem = s.mem := rfl

@[simp] theorem execPacketReserveLanes_holds {n : Nat} {s : State} (h : Memory.wf s.mem) : HoldsForm (execPacketReserveLanes n s) := by
  refine startPacket_holds h fun _ _ _ _ _ h' => ?_
  dsimp only
  split
  · simp [h']
  · exact h
  · split <;> simp [h']

@[simp] theorem execPacketReleaseLanes_holds {n : Nat} {s : State} (h : Memory.wf s.mem) : HoldsForm (execPacketReleaseLanes n s) :=
  startPacket_holds h fun _ _ _ _ _ h' => by simp [h']

@[simp] theorem execLeaseExpire_holds {n : Nat} {s : State} (h : Memory.wf s.mem) : HoldsForm (execLeaseExpire n s) := by
  unfold execLeaseExpire
  split <;> simp [h]

@[simp] theorem vacate_mem (s : State) (x : HwSlot) (m : Mapped) : (s.vacate x m).mem = s.mem := by
  unfold State.vacate
  dsimp only
  repeat' split
  all_goals simp

@[simp] theorem execIdleUnmap_holds {n : Nat} {s : State} (h : Memory.wf s.mem) : HoldsForm (execIdleUnmap n s) := by
  unfold execIdleUnmap
  split
  · exact h
  · split <;> simp [h]

/-! ### What Tasks keeps -/

@[simp] theorem growTake_wf {s : State} {g : Group} {n : Nat} (h : Memory.wf s.mem) : Memory.wf (s.growTake g n).mem := by
  simp [State.growTake, h]

@[simp] theorem growEnd_wf {s : State} {c : Cur} {d : SReg} {x : Nat} (h : Memory.wf s.mem) : Memory.wf (s.growEnd c d x).mem := by
  simp [State.growEnd, h]

@[simp] theorem execGrow_holds {d : SReg} {m : Byte} {s : State} (h : Memory.wf s.mem) : HoldsForm (execGrow d m s) := by
  refine withGroup_holds h fun _ _ => unlocked_wf h ?_
  dsimp only
  split
  · simp [h]
  · split <;> simp [h]

@[simp] theorem execGrowRecheck_holds {core slot : Nat} {s : State} (h : Memory.wf s.mem) : HoldsForm (execGrowRecheck core slot s) := by
  unfold execGrowRecheck
  split
  · exact h
  · split
    · rw [holdsForm_next]
      split <;> simp [h]
    · exact h

@[simp] theorem execAllWaitingFailure_holds {core : Nat} {s : State} (h : Memory.wf s.mem) : HoldsForm (execAllWaitingFailure core s) := by
  unfold execAllWaitingFailure
  dsimp only
  split
  · exact h
  · split
    · exact h
    · split <;> simp [h]

@[simp] theorem execShrink_holds {m : Byte} {s : State} (h : Memory.wf s.mem) : HoldsForm (execShrink m s) :=
  withGroup_holds h fun _ _ => by simp [h]

@[simp] theorem drainPending_mem (s : State) (c n : Nat) : (s.drainPending c n).mem = s.mem :=
  (drainPending_calm ..).mem

@[simp] theorem domainEnd_mem (s : State) (lid : Nat) : (s.domainEnd lid).mem = s.mem :=
  (domainEnd_calm ..).mem

@[simp] theorem status_wf {s : State} {c : Cur} {d : SReg} {x : DWord} (h : Memory.wf s.mem) : Memory.wf (s.status c d x).mem := by
  simp [State.status, h]

@[simp] theorem readRecord_wf {s : State} {c : Cur} {g : Group} {a : SReg} {k : Nat → State} (h : Memory.wf s.mem)
    (hk : ∀ n, Memory.wf (k n).mem) : Memory.wf (s.readRecord c g a k).mem := by
  simp [State.readRecord, h, hk]

@[simp] theorem sealDomain_mem (s : State) (lid x : Nat) : (s.sealDomain lid x).mem = s.mem :=
  (sealDomain_calm ..).mem

@[simp] theorem execTaskpush_holds {d a b : SReg} {s : State} (h : Memory.wf s.mem) : HoldsForm (execTaskpush d a b s) := by
  refine withGroup_holds h fun _ _ => ?_
  dsimp only
  split
  · simp [h]
  · refine readRecord_wf h fun _ => ?_
    split
    · exact h
    · split
      · simp [h]
      · split
        · simp [h]
        · split <;> simp [h]

@[simp] theorem doneHandle_mem (s : State) (lid n : Nat) : (s.doneHandle lid n).1.mem = s.mem := by
  unfold State.doneHandle
  split
  · rfl
  · split
    · rfl
    · iterate 3
        split
        · rfl
      exact drainPending_mem ..

@[simp] theorem execTaskdone_holds {d a : SReg} {s : State} (h : Memory.wf s.mem) : HoldsForm (execTaskdone d a s) := by
  refine withGroup_holds h fun c g => readRecord_wf h fun x => ?_
  split
  · exact h
  · simp [h]

@[simp] theorem askTask_wf {s : State} {c : Cur} {g : Group} {d : SReg} {slot word : Nat} (h : Memory.wf s.mem) :
    Memory.wf (s.askTask c g d slot word).mem := by
  unfold State.askTask
  split <;> simp [h]

@[simp] theorem execTaskq_holds {d a b : SReg} {s : State} (h : Memory.wf s.mem) : HoldsForm (execTaskq d a b s) := by
  refine withGroup_holds h fun _ _ => ?_
  dsimp only
  split
  · simp [h]
  · split
    · simp [h]
    · split
      · simp [h]
      · split <;> simp [h]

@[simp] theorem execChaseWaitEnd_holds {core slot : Nat} {s : State} (h : Memory.wf s.mem) : HoldsForm (execChaseWaitEnd core slot s) := by
  unfold execChaseWaitEnd
  split
  · exact h
  · split <;> simp [h]

@[simp] theorem execTaskqAnswer_holds {cluster n : Nat} {s : State} (h : Memory.wf s.mem) : HoldsForm (execTaskqAnswer cluster n s) := by
  unfold execTaskqAnswer
  split
  · exact h
  · split
    · exact h
    · split
      · exact h
      · dsimp only
        split
        · exact h
        · split
          · rw [holdsForm_next]
            refine reap_wf ?_
            rw [drainPending_mem]
            split <;> simp [h]
          · split
            · exact h
            · rw [holdsForm_next]
              refine reap_wf ?_
              rw [drainPending_mem]
              split <;> simp [h]

@[simp] theorem execPendingRecordMove_holds {cluster index : Nat} {s : State} (h : Memory.wf s.mem) :
    HoldsForm (execPendingRecordMove cluster index s) := by
  unfold execPendingRecordMove
  split <;> simp [h]

@[simp] theorem moveRecords_mem (s : State) (lid c dest m : Nat) : (s.moveRecords lid c dest m).1.mem = s.mem := by
  unfold State.moveRecords
  dsimp only
  split <;> rfl

/-- Records move to one neighbour after another; what is moved is counted beside the state. -/
theorem moves_mem {α : Type} {f : State × α → Nat → State × α} (hf : ∀ r k, (f r k).1.mem = r.1.mem) (ks : List Nat) (r : State × α) :
    (ks.foldl f r).1.mem = r.1.mem := by
  induction ks generalizing r with
  | nil => rfl
  | cons k ks ih => exact (ih _).trans (hf r k)

@[simp] theorem balanceOne_mem (s : State) (lid : Nat) (cs : List Nat) (occ : Nat → Int) (negs : List Nat) (i : Nat) (free : List Nat) :
    (s.balanceOne lid cs occ negs i free).1.mem = s.mem := by
  have moved (f : State × List Nat × List Nat → Nat → Nat) : ∀ (r : State × List Nat × List Nat) (k : Nat),
      (r.1.moveRecords lid (cs.getD i 0) (cs.getD k 0) (f r k)).1.mem = r.1.mem := fun r k => moveRecords_mem ..
  unfold State.balanceOne
  dsimp only
  split
  · split
    · exact moves_mem (by exact moved _) ..
    · rw [moveRecords_mem]
      exact moves_mem (by exact moved _) ..
  · exact moves_mem (by exact moved _) ..

theorem launchesBalance_mem {f : Launch → State × List Nat → Nat → State × List Nat} (hf : ∀ l r i, (f l r i).1.mem = r.1.mem)
    (is : List Nat) (ls : List Launch) (r : State × List Nat) : (ls.foldl (fun r l => is.foldl (f l) r) r).1.mem = r.1.mem := by
  induction ls generalizing r with
  | nil => rfl
  | cons l ls ih => exact (ih _).trans (moves_mem (hf l) ..)

@[simp] theorem execImposerBalance_holds {part : Nat} {s : State} (h : Memory.wf s.mem) : HoldsForm (execImposerBalance part s) := by
  unfold execImposerBalance
  split
  · exact h
  · rw [holdsForm_next]
    dsimp only
    rw [launchesBalance_mem (fun l r i => balanceOne_mem ..)]
    exact h

@[simp] theorem execMovedRecordArrive_holds {n : Nat} {s : State} (h : Memory.wf s.mem) : HoldsForm (execMovedRecordArrive n s) := by
  unfold execMovedRecordArrive
  split <;> simp [h]

@[simp] theorem launchPacket_wf {s : State} {p : Partition} {q : Nat} {d : QDesc} {x : Nat} (h : Memory.wf s.mem) :
    Memory.wf (s.launchPacket p q d x).mem := by
  unfold State.launchPacket
  dsimp only
  split <;> simp [h]

@[simp] theorem execLaunch_holds {d a b : SReg} {s : State} (h : Memory.wf s.mem) : HoldsForm (execLaunch d a b s) := by
  refine withGroup_holds h fun _ _ => ?_
  dsimp only
  split
  · simp [h]
  · refine readRecord_wf h fun _ => ?_
    split
    · simp [h]
    · split
      · simp [h]
      · split
        · simp [h]
        · simp [h]
        · split
          · simp [h]
          · split
            · simp [h]
            · split <;> simp [h]

/-! ### What Preempt keeps -/

@[simp] theorem leaveWait_mem (s : State) (g : Group) (w : Wait) : (s.leaveWait g w).mem = s.mem := by
  unfold State.leaveWait
  dsimp only
  split
  · simp
  · rfl
  · split <;> rfl
  · rfl

@[simp] theorem stopWaiting_mem (s : State) : s.stopWaiting.mem = s.mem := by
  refine foldl_mem _ (fun _ _ => ?_) _ _
  split
  · split
    · simp
    · rfl
  · rfl

@[simp] theorem requestPreempt_mem (s : State) (hw cluster root : Nat) (space : Option Nat) (sched : Bool) :
    (s.requestPreempt hw cluster root space sched).mem = s.mem := by
  simp [State.requestPreempt]

@[simp] theorem execPreempt_holds {d a b : SReg} {s : State} (h : Memory.wf s.mem) : HoldsForm (execPreempt d a b s) := by
  refine withProof_holds h fun _ _ => ?_
  dsimp only
  split
  · simp [h]
  · split
    · simp [h]
    · split <;> simp [h]

@[simp] theorem execPreemptQ_holds {d a : SReg} {s : State} (h : Memory.wf s.mem) : HoldsForm (execPreemptQ d a s) :=
  withProof_holds h fun _ _ => by simp [h]

@[simp] theorem setPreempt_mem (s : State) (p : Preempt) : (s.setPreempt p).mem = s.mem := rfl

@[simp] theorem forceGroup_mem (s : State) (p : Preempt) (g : Group) : (s.forceGroup p g).mem = s.mem := by
  simp [State.forceGroup]

@[simp] theorem forceStop_mem (s : State) (p : Preempt) (g : Group) : (s.forceStop p g).mem = s.mem := by
  unfold State.forceStop
  split
  · simp
  · rfl
  · rfl
  · rfl
  · split <;> simp
  · simp

@[simp] theorem execPreemptDeadline_holds {n : Nat} {s : State} (h : Memory.wf s.mem) : HoldsForm (execPreemptDeadline n s) := by
  unfold execPreemptDeadline
  split
  · exact h
  · split
    · exact h
    · rw [holdsForm_next]
      exact foldl_wf (fun _ _ h' => by simp [h']) h

@[simp] theorem contextRecord_mem (s : State) (p : Preempt) (cause : Nat) (x y : DWord) : (s.contextRecord p cause x y).mem = s.mem := by
  simp [State.contextRecord]

@[simp] theorem resumeInPlace_mem (s : State) (g : Group) : (s.resumeInPlace g).mem = s.mem := by
  unfold State.resumeInPlace
  split <;> rfl

@[simp] theorem saveFail_wf {s : State} {p : Preempt} {addr reason : Nat} (h : Memory.wf s.mem) : Memory.wf (s.saveFail p addr reason).mem := by
  have kept (x y : DWord) : Memory.wf (State.contextRecord (State.setPreempt ((s.contextGroups p).foldl State.resumeInPlace s)
      { p with st := 5 }) p cSAVEFAIL x y).mem := by
    rw [contextRecord_mem, setPreempt_mem]
    exact foldl_wf (fun _ _ h' => by simp [h']) h
  unfold State.saveFail
  dsimp only
  repeat' split
  · refine queueError_wf ?_
    rw [setMapped_mem]
    exact kept ..
  all_goals exact kept ..

@[simp] theorem safeFaults_mem (s : State) (p : Preempt) (q : Partition) : (s.safeFaults p q).mem = s.mem := by
  refine foldl_mem _ (fun _ _ => ?_) _ _
  split
  · simp
  · rfl

@[simp] theorem clearStale_wf {s : State} {p : Preempt} (h : Memory.wf s.mem) : Memory.wf (s.clearStale p).mem :=
  foldl_wf (fun _ _ h' => by simp [h']) h

@[simp] theorem execContextSave_holds {n : Nat} {s : State} (h : Memory.wf s.mem) : HoldsForm (execContextSave n s) := by
  unfold execContextSave
  dsimp only
  split
  · exact h
  · split
    · exact h
    · refine ite_holds h (ite_holds (by simp [h]) ?_)
      split
      · exact h
      · simp [h]
      · simp [h]

@[simp] theorem freeTeam_wf {s : State} {t : Team} (h : Memory.wf s.mem) : Memory.wf (s.freeTeam t).mem := by
  unfold State.freeTeam
  dsimp only
  refine foldl_wf (fun _ _ h' => ?_) (foldl_wf (fun _ _ h' => by simp [h']) h)
  split
  · dsimp only
    exact clearLig_wf (foldl_wf (fun _ _ h'' => by simp [h'']) (by simp [h']))
  · exact foldl_wf (fun _ _ h'' => by simp [h'']) (by simp [h'])

@[simp] theorem askClusters_mem (s : State) (n : Nat) (d : QDesc) : (s.askClusters n d).mem = s.mem := by
  refine foldl_mem _ (fun _ _ => ?_) _ _
  split
  · rfl
  · simp

@[simp] theorem evictOn_wf {s : State} {n : Nat} (h : Memory.wf s.mem) : Memory.wf (s.evictOn n).mem := by
  unfold State.evictOn
  split
  · exact h
  · split
    · split
      · exact h
      · split
        · simp [h]
        · split <;> simp [h]
    · exact h

@[simp] theorem execSaveComplete_holds {n : Nat} {s : State} (h : Memory.wf s.mem) : HoldsForm (execSaveComplete n s) := by
  unfold execSaveComplete
  split
  · exact h
  · split
    · exact h
    · dsimp only
      rw [holdsForm_next]
      refine evictOn_wf ?_
      rw [setPreempt_mem]
      dsimp only
      exact foldl_wf (fun _ _ h' => by simp [h']) (by simp [h])

@[simp] theorem evict_wf {s : State} {x : HwSlot} {m : Mapped} {p : Partition} (h : Memory.wf s.mem) : Memory.wf (s.evict x m p).mem := by
  unfold State.evict
  split <;> simp [h]

@[simp] theorem execPriorityEviction_holds {part : Nat} {s : State} (h : Memory.wf s.mem) : HoldsForm (execPriorityEviction part s) := by
  unfold execPriorityEviction
  split
  · split
    · exact h
    · split <;> simp [h]
  · exact h

@[simp] theorem execSliceEviction_holds {n : Nat} {s : State} (h : Memory.wf s.mem) : HoldsForm (execSliceEviction n s) := by
  unfold execSliceEviction
  split
  · exact h
  · split <;> simp [h]

theorem restoreShare_wf {s t : State} {u : Team} {gs : List Group} {core : Nat} (h : Memory.wf s.mem)
    (e : s.restoreShare u gs core = some t) : Memory.wf t.mem := by
  unfold State.restoreShare at e
  dsimp only at e
  split at e
  · cases e
  · split at e
    · cases e
    · cases e
      exact foldl_wf (fun s p hs => hs) (give_wf (ite_wf h h))

theorem restoreChases_mem {s t : State} {sv : Saved} {u : Team} (e : s.restoreChases sv u = some t) : t.mem = s.mem := by
  unfold State.restoreChases at e
  dsimp only at e
  split at e
  · cases e
    rfl
  · cases e

theorem restoreTeams_wf {s t : State} {sv : Saved} {cores : List Nat} {used : List (Nat × Nat × Nat)} {xs : List (Team × List Group)}
    (h : Memory.wf s.mem) (e : s.restoreTeams sv cores used xs = some t) : Memory.wf t.mem := by
  induction xs generalizing s t used with
  | nil => exact Option.some.inj e ▸ h
  | cons x xs ih =>
    refine firstState_wf (fun k u hk => ?_) e
    obtain ⟨v, hv, rest⟩ := Option.bind_eq_some_iff.1 hk
    obtain ⟨w, hw, chases⟩ := Option.bind_eq_some_iff.1 hv
    obtain ⟨y, hy, other⟩ := Option.bind_eq_some_iff.1 hw
    have seated : Memory.wf w.mem := by
      split at other
      · exact restoreShare_wf (restoreShare_wf h hy) other
      · exact Option.some.inj other ▸ restoreShare_wf h hy
    refine ih ?_ rest
    rw [restoreChases_mem chases]
    exact seated

@[simp] theorem restoreGroup_mem (s : State) (g : Group) : (s.restoreGroup g).mem = s.mem := by
  unfold State.restoreGroup
  split
  · simp
  · rfl
  · rfl

theorem restoreIn_wf {s t : State} {sv : Saved} {cluster : Nat} (h : Memory.wf s.mem) (e : s.restoreIn sv cluster = some t) :
    Memory.wf t.mem := by
  obtain ⟨u, hu, rfl⟩ := Option.map_eq_some_iff.1 e
  have placed := restoreTeams_wf h hu
  refine foldl_wf (fun s g hs => by simp [hs]) (foldl_wf (fun s x hs => hs) (foldl_wf (fun s m hs => hs) ?_))
  exact write_wf placed

theorem restoreAll_wf {s t : State} {p : Partition} {svs : List Saved} (h : Memory.wf s.mem) (e : s.restoreAll p svs = some t) :
    Memory.wf t.mem := by
  induction svs generalizing s t with
  | nil => exact Option.some.inj e ▸ h
  | cons sv svs ih =>
    refine firstState_wf (fun c u hc => ?_) e
    obtain ⟨v, hv, rest⟩ := Option.bind_eq_some_iff.1 hc
    exact ih (restoreIn_wf h hv) rest

@[simp] theorem tryRestore_wf {s : State} {p : Partition} {q : Nat} (h : Memory.wf s.mem) : Memory.wf (s.tryRestore p q).mem := by
  unfold State.tryRestore
  split
  · next e => exact restoreAll_wf h e
  · exact h

@[simp] theorem mapQueue_wf {s : State} {p : Partition} {x : HwSlot} {x1 : PendingQ} {d : QDesc} (h : Memory.wf s.mem) :
    Memory.wf (s.mapQueue p x x1 d).mem := by
  simp [State.mapQueue, h]

@[simp] theorem execQueueMap_holds {part slot : Nat} {s : State} (h : Memory.wf s.mem) : HoldsForm (execQueueMap part slot s) := by
  unfold execQueueMap
  split
  · split
    · exact h
    · split
      · simp [h]
      · split
        · exact h
        · split <;> simp [h]
  · exact h

/-! ### What Proof keeps -/

@[simp] theorem execDbgmap_holds {d a : SReg} {s : State} (h : Memory.wf s.mem) : HoldsForm (execDbgmap d a s) :=
  withProof_holds h fun _ _ => by simp [h]

@[simp] theorem execDbgmapU_holds {d : SReg} {s : State} (h : Memory.wf s.mem) : HoldsForm (execDbgmapU d s) := by
  simp [execDbgmapU, h]

@[simp] theorem debugAccess_holds {s : State} {la : Nat} {wd : Width} {a : SReg} {m : Byte} {wr : Option SReg} {d : Nat} (h : Memory.wf s.mem) :
    HoldsForm (debugAccess s la wd a m wr d) := by
  refine withProof_holds h fun _ _ => ?_
  dsimp only
  split <;> simp [h]

@[simp] theorem execDbgrd_holds {la : BitVec 4} {wd : Width} {d a : SReg} {m : Byte} {s : State} (h : Memory.wf s.mem) :
    HoldsForm (execDbgrd la wd d a m s) := by
  simp [execDbgrd, h]

@[simp] theorem execDbgwr_holds {wd : Width} {d a : SReg} {m : Byte} {s : State} (h : Memory.wf s.mem) : HoldsForm (execDbgwr wd d a m s) := by
  simp [execDbgwr, h]

@[simp] theorem performAny_wf {s : State} {l : Local} (h : Memory.wf s.mem) : Memory.wf (s.performAny l).mem := by
  unfold State.performAny
  split
  · split
    · rw [debugWrite_mem]
      simp [h]
    · split <;> exact h
  · simp [h]

@[simp] theorem tretOp_holds {s : State} {k : State → Group → State} (h : Memory.wf s.mem) (hk : ∀ t g, Memory.wf t.mem → Memory.wf (k t g).mem) :
    HoldsForm (tretOp s k) := by
  refine withProof_holds h fun _ _ => ?_
  split
  · simp [h]
  · split
    · simp [h]
    · simp [h, hk]

@[simp] theorem execTret_holds {s : State} (h : Memory.wf s.mem) : HoldsForm (execTret s) :=
  tretOp_holds h fun _ _ h' => h'

@[simp] theorem execTretExit_holds {s : State} (h : Memory.wf s.mem) : HoldsForm (execTretExit s) :=
  tretOp_holds h fun _ _ h' => by simp [h']

@[simp] theorem execCsrrd_holds {d : SReg} {r : Csr} {s : State} (h : Memory.wf s.mem) : HoldsForm (execCsrrd d r s) := by
  simp [execCsrrd, h]

@[simp] theorem execCsrwr_holds {r : Csr} {a : SReg} {s : State} (h : Memory.wf s.mem) : HoldsForm (execCsrwr r a s) := by
  refine withProof_holds h fun _ _ => ?_
  dsimp only
  split <;> simp [h]

theorem takeTrap_wf {s t : State} {c : Cur} {p : ProofCore} {d : SReg} (h : Memory.wf s.mem) (e : s.takeTrap c p d = some t) :
    Memory.wf t.mem := by
  unfold State.takeTrap at e
  split at e
  · cases e
  · cases e
    exact setSregA_wf h

@[simp] theorem execTqnextRead_holds {d : SReg} {s : State} (h : Memory.wf s.mem) : HoldsForm (execTqnextRead d s) := by
  refine withProof_holds h fun c p => ?_
  split
  · next e => simp [takeTrap_wf h e]
  · exact h

@[simp] theorem execTqnextWaitEnd_holds {cluster : Nat} {s : State} (h : Memory.wf s.mem) : HoldsForm (execTqnextWaitEnd cluster s) := by
  unfold execTqnextWaitEnd
  dsimp only
  split
  · split
    · next e => simp [takeTrap_wf h e]
    · exact h
  · exact h

theorem takeEvent_wf {s t : State} {c : Cur} {p : ProofCore} {d : SReg} (h : Memory.wf s.mem) (e : s.takeEvent c p d = some t) :
    Memory.wf t.mem := by
  unfold State.takeEvent at e
  split at e
  · cases e
  · cases e
    exact setSregA_wf h

@[simp] theorem execFevnextRead_holds {d : SReg} {s : State} (h : Memory.wf s.mem) : HoldsForm (execFevnextRead d s) := by
  refine withProof_holds h fun c p => ?_
  split
  · next e => simp [takeEvent_wf h e]
  · exact h

@[simp] theorem execFevnextWaitEnd_holds {cluster : Nat} {s : State} (h : Memory.wf s.mem) : HoldsForm (execFevnextWaitEnd cluster s) := by
  unfold execFevnextWaitEnd
  dsimp only
  split
  · split
    · next e => simp [takeEvent_wf h e]
    · exact h
  · exact h

@[simp] theorem beginShoot_wf {s : State} {part : Nat} (h : Memory.wf s.mem) : Memory.wf (s.beginShoot part).mem := by
  unfold State.beginShoot
  split
  · exact h
  · split
    · exact h
    · split
      · exact h
      · dsimp only
        refine foldl_wf (fun _ _ h' => ?_) h
        split <;> simp [h']

@[simp] theorem shoot_wf {s : State} {part kind operand : Nat} {from_ : Option Nat} (h : Memory.wf s.mem) :
    Memory.wf (s.shoot part kind operand from_).mem := by
  unfold State.shoot
  split <;> simp [h]

@[simp] theorem execShootdownComplete_holds {part : Nat} {s : State} (h : Memory.wf s.mem) : HoldsForm (execShootdownComplete part s) := by
  unfold execShootdownComplete
  split
  · exact h
  · split
    · exact h
    · split
      · exact h
      · dsimp only
        rw [holdsForm_next]
        refine beginShoot_wf ?_
        split
        · exact h
        · split <;> simp [h]

@[simp] theorem xlatinv_holds {s : State} {d a : SReg} {kind : Nat} {ok : Nat → Bool} (h : Memory.wf s.mem) : HoldsForm (xlatinv s d a kind ok) :=
  withProof_holds h fun _ _ => by simp [h]

@[simp] theorem execXlatinvPg_holds {d a : SReg} {s : State} (h : Memory.wf s.mem) : HoldsForm (execXlatinvPg d a s) := by
  simp [execXlatinvPg, h]

@[simp] theorem execXlatinvAll_holds {d a : SReg} {s : State} (h : Memory.wf s.mem) : HoldsForm (execXlatinvAll d a s) := by
  simp [execXlatinvAll, h]

@[simp] theorem execXlatinvUnreach_holds {d a : SReg} {s : State} (h : Memory.wf s.mem) : HoldsForm (execXlatinvUnreach d a s) := by
  simp [execXlatinvUnreach, h]

@[simp] theorem execXlatinvReach_holds {d a : SReg} {s : State} (h : Memory.wf s.mem) : HoldsForm (execXlatinvReach d a s) := by
  simp [execXlatinvReach, h]

/-! ### What Fabric keeps -/

@[simp] theorem giveEvent_mem (s : State) (a b : DWord) (c : Nat) : (s.giveEvent a b c).mem = s.mem := by
  unfold State.giveEvent
  dsimp only
  split <;> rfl

@[simp] theorem hostEvent_mem (s : State) (a b : DWord) : (s.hostEvent a b).mem = s.mem := by
  unfold State.hostEvent
  split <;> rfl

@[simp] theorem postEvent_mem (s : State) (kind : Nat) (peer plane sk pos : Option Nat) (b : Nat) :
    (s.postEvent kind peer plane sk pos b).mem = s.mem :=
  (hostEvent_mem ..).trans (foldl_mem _ (fun _ _ => giveEvent_mem ..) _ _)

@[simp] theorem laneEvent_mem (s : State) (kind sk pos b : Nat) : (s.laneEvent kind sk pos b).mem = s.mem := postEvent_mem ..

@[simp] theorem withTopology_wf {s : State} {k : State → State} (h : Memory.wf (k s).mem) : Memory.wf (s.withTopology k).mem :=
  foldl_wf (fun s e hs => by simp [hs]) h

@[simp] theorem grantLane_mem (s : State) (x : TxStream) (l : Nat × Nat) : (s.grantLane x l).mem = s.mem := by
  unfold State.grantLane
  dsimp only
  split <;> rfl

@[simp] theorem sendResume_mem (s : State) (sk : Nat) (x : TxStream) : (s.sendResume sk x).mem = s.mem := by
  unfold State.sendResume
  dsimp only
  split <;> rfl

@[simp] theorem carryOn_mem (s : State) (sk : Nat) (failed : Bool) (l : Option (Nat × Nat)) (x : TxStream) :
    (s.carryOn sk failed l x).mem = s.mem := by
  unfold State.carryOn
  dsimp only
  split
  · split
    · rw [sendResume_mem]
      rw [setTx_mem]
      split
      · simp
      · rfl
    · rw [setTx_mem]
      split
      · simp
      · rfl
  · rw [resend_mem]
    split
    · simp
    · rfl

@[simp] theorem moveStreams_mem (s : State) (sk : Nat) (failed : Bool) (xs : List TxStream) : (s.moveStreams sk failed xs).mem = s.mem := by
  induction xs generalizing s with
  | nil => rfl
  | cons x xs ih => exact (ih _).trans (carryOn_mem ..)

@[simp] theorem repin_mem (s : State) (n : Nat) : (s.repin n).mem = s.mem := by
  unfold State.repin
  split
  · rfl
  · split
    · rfl
    · split <;> rfl

@[simp] theorem repinAll_mem (s : State) : s.repinAll.mem = s.mem :=
  foldl_mem _ (fun _ _ => by simp) _ _

@[simp] theorem execLaneReservationPin_holds {n : Nat} {s : State} (h : Memory.wf s.mem) : HoldsForm (execLaneReservationPin n s) := by
  simp [execLaneReservationPin, h]

@[simp] theorem badCmd_mem (s : State) (sk : Nat) : (s.badCmd sk).mem = s.mem := rfl

@[simp] theorem goLive_wf {s : State} {sk : Nat} (h : Memory.wf s.mem) : Memory.wf (s.goLive sk).mem := by
  unfold State.goLive
  dsimp only
  rw [repinAll_mem]
  exact foldl_wf (fun s i hs => by simp [hs]) (withTopology_wf (foldl_wf (fun _ _ hs => hs) h))

@[simp] theorem execSockGo_holds {sk : Nat} {s : State} (h : Memory.wf s.mem) : HoldsForm (execSockGo sk s) := by
  unfold execSockGo
  split
  · exact h
  · rw [holdsForm_next]
    exact inOrder_wf h (by simp [h])

@[simp] theorem quiesced_mem (s : State) (sk : Nat) : (s.quiesced sk).mem = s.mem := postEvent_mem ..

@[simp] theorem drainMove_mem (s : State) (sk : Nat) : (s.drainMove sk).mem = s.mem := by
  simp [State.drainMove]

@[simp] theorem quiesce_wf {s : State} {sk : Nat} (h : Memory.wf s.mem) : Memory.wf (s.quiesce sk).mem := by
  simp [State.quiesce, h]

@[simp] theorem execSockQuiesce_holds {sk : Nat} {s : State} (h : Memory.wf s.mem) : HoldsForm (execSockQuiesce sk s) := by
  unfold execSockQuiesce
  split
  · exact h
  · rw [holdsForm_next]
    exact inOrder_wf h (by simp [h])

@[simp] theorem execDrainComplete_holds {sk : Nat} {s : State} (h : Memory.wf s.mem) : HoldsForm (execDrainComplete sk s) := by
  simp [execDrainComplete, h]

@[simp] theorem execDrainTimeout_holds {sk : Nat} {s : State} (h : Memory.wf s.mem) : HoldsForm (execDrainTimeout sk s) :=
  ite_wf (by simp [h]) h

@[simp] theorem resetSocket_mem (s : State) (sk : Nat) : (s.resetSocket sk).mem = s.mem := rfl

@[simp] theorem execSockReset_holds {sk : Nat} {s : State} (h : Memory.wf s.mem) : HoldsForm (execSockReset sk s) := by
  unfold execSockReset
  split <;> simp [h]

@[simp] theorem execEngineInsert_holds {sk : Nat} {rom : List Byte} {s : State} (h : Memory.wf s.mem) : HoldsForm (execEngineInsert sk rom s) := by
  unfold execEngineInsert
  dsimp only
  split <;> simp [h]

@[simp] theorem failLane_mem (s : State) (sk pos reason : Nat) : (s.failLane sk pos reason).mem = s.mem := by
  simp [State.failLane]

@[simp] theorem execEngineRemove_holds {sk : Nat} {s : State} (h : Memory.wf s.mem) : HoldsForm (execEngineRemove sk s) := by
  unfold execEngineRemove
  refine ite_holds h (ite_holds ?_ h)
  rw [holdsForm_next, repinAll_mem, moveStreams_mem]
  exact withTopology_wf (foldl_wf (fun s i hs => by simp [hs]) h)

@[simp] theorem execRomVerifyDone_holds {sk : Nat} {s : State} (h : Memory.wf s.mem) : HoldsForm (execRomVerifyDone sk s) := by
  unfold execRomVerifyDone
  dsimp only
  split <;> simp [h]

@[simp] theorem loseLane_mem (s : State) (sk pos reason : Nat) : (s.loseLane sk pos reason).mem = s.mem := by
  unfold State.loseLane
  dsimp only
  split <;> split <;> simp

@[simp] theorem offPlane_mem (s : State) (ep plane : Nat) : (s.offPlane ep plane).mem = s.mem := rfl

@[simp] theorem moduleFail_wf {s : State} {k pos : Nat} (h : Memory.wf s.mem) : Memory.wf (s.moduleFail k pos).mem := by
  simp [State.moduleFail, h]

@[simp] theorem execLaneFail_holds {sk pos reason : Nat} {s : State} (h : Memory.wf s.mem) : HoldsForm (execLaneFail sk pos reason s) := by
  have lost : Memory.wf (s.withTopology fun s => s.loseLane sk pos reason).mem := withTopology_wf (by simp [h])
  refine ite_holds (by simp [h]) (ite_holds h ?_)
  rw [holdsForm_next, repinAll_mem, moveStreams_mem]
  exact ite_wf lost lost

@[simp] theorem steer_mem (s : State) (sk spare : Nat) (l : Lane) : (s.steer sk spare l).mem = s.mem := rfl

@[simp] theorem moduleSpare_wf {s : State} {k pos spare : Nat} (h : Memory.wf s.mem) : Memory.wf (s.moduleSpare k pos spare).mem := by
  simp [State.moduleSpare, h]

@[simp] theorem moduleRetrain_mem (s : State) (k pos b : Nat) : (s.moduleRetrain k pos b).mem = s.mem := postEvent_mem ..

@[simp] theorem carryOver_mem (s : State) (sk pos spare : Nat) (id : Nat × Nat × Nat × Nat) : (s.carryOver sk pos spare id).mem = s.mem := by
  unfold State.carryOver
  dsimp only
  split
  · simp
  · split
    · simp
    · rfl

@[simp] theorem execSpareLock_holds {sk pos spare : Nat} {s : State} (h : Memory.wf s.mem) : HoldsForm (execSpareLock sk pos spare s) := by
  unfold execSpareLock
  refine ite_holds (by simp [h]) (ite_holds h ?_)
  rw [holdsForm_next, repinAll_mem]
  refine foldl_wf (fun s x hs => by simp [hs]) ?_
  rw [setLane_mem, laneEvent_mem]
  exact withTopology_wf (by simp [h])

@[simp] theorem execLaneRetry_holds {sk pos : Nat} {pass : Bool} {s : State} (h : Memory.wf s.mem) : HoldsForm (execLaneRetry sk pos pass s) := by
  unfold execLaneRetry
  dsimp only
  split <;> simp [h]

@[simp] theorem execRetrain_holds {sk pos : Nat} {pass : Bool} {s : State} (h : Memory.wf s.mem) : HoldsForm (execRetrain sk pos pass s) := by
  unfold execRetrain
  refine ite_holds (by simp [h]) (ite_holds h ?_)
  simp [h]

@[simp] theorem execAgeingUpdate_holds {sk pos current : Nat} {s : State} (h : Memory.wf s.mem) : HoldsForm (execAgeingUpdate sk pos current s) := by
  have either (c : Prop) [Decidable c] : (if c then s.freeWord.2 else s).mem = s.mem := by split <;> rfl
  unfold execAgeingUpdate
  refine ite_holds h ?_
  dsimp only
  exact ite_wf (by simp [either, h]) (by simp [either, h])

@[simp] theorem execLaserRetire_holds {sk pos spare : Nat} {s : State} (h : Memory.wf s.mem) : HoldsForm (execLaserRetire sk pos spare s) := by
  unfold execLaserRetire
  refine ite_holds h ?_
  rw [holdsForm_next, laneEvent_mem]
  simp [h]

/-! ### What Float keeps -/

@[simp] theorem floatCmp_holds {s : State} {gd : MReg} {cd : FCond} {t : FTy} {d : MReg} {a : VReg} {b : SrcB} (h : Memory.wf s.mem) :
    HoldsForm (floatCmp s gd cd t d a b) := by
  simp [floatCmp, h]

@[simp] theorem execVfma_holds {g : MReg} {t : FTy} {rm : RMode} {d a b x : VReg} {s : State} (h : Memory.wf s.mem) :
    HoldsForm (execVfma g t rm d a b x s) := by
  simp [execVfma, h]

@[simp] theorem execVfrint_holds {g : MReg} {t : FTy} {rm : RMode} {d a : VReg} {s : State} (h : Memory.wf s.mem) :
    HoldsForm (execVfrint g t rm d a s) := by
  simp [execVfrint, h]

/-! ### What Power keeps -/

@[simp] theorem setDemand_mem (s : State) : s.setDemand.mem = s.mem := rfl

@[simp] theorem sendDemand_mem (s : State) : s.sendDemand.mem = s.mem := by
  unfold State.sendDemand
  split <;> rfl

@[simp] theorem emergency_mem (s : State) : s.emergency.mem = s.mem := by
  simp [State.emergency]

@[simp] theorem execThermalEmergency_holds {s : State} (h : Memory.wf s.mem) : HoldsForm (execThermalEmergency s) := by
  simp [execThermalEmergency, h]

@[simp] theorem execPowerSample_holds {m : Monitors} {s : State} (h : Memory.wf s.mem) : HoldsForm (execPowerSample m s) := by
  simp [execPowerSample, h]

@[simp] theorem execThrottleDemandReceive_holds {ep : Nat} {on : Bool} {s : State} (h : Memory.wf s.mem) :
    HoldsForm (execThrottleDemandReceive ep on s) := by
  simp [execThrottleDemandReceive, h]

@[simp] theorem execCadenceTickSend_holds {s : State} (h : Memory.wf s.mem) : HoldsForm (execCadenceTickSend s) := by
  simp [execCadenceTickSend, h]

@[simp] theorem execCadenceTickReceive_holds {n level : Nat} {s : State} (h : Memory.wf s.mem) : HoldsForm (execCadenceTickReceive n level s) := by
  simp [execCadenceTickReceive, h]

@[simp] theorem renewLeases_mem (s : State) : s.renewLeases.mem = s.mem := rfl

@[simp] theorem execLevelApply_holds {s : State} (h : Memory.wf s.mem) : HoldsForm (execLevelApply s) := by
  unfold execLevelApply
  dsimp only
  split <;> simp [h]

@[simp] theorem execDemandReceive_holds {member level : Nat} {s : State} (h : Memory.wf s.mem) : HoldsForm (execDemandReceive member level s) := by
  simp [execDemandReceive, h]

@[simp] theorem execCadenceLost_holds {s : State} (h : Memory.wf s.mem) : HoldsForm (execCadenceLost s) := by
  simp [execCadenceLost, h]

@[simp] theorem corrected_mem (s : State) (key : Nat) : (s.corrected key).mem = s.mem := rfl

@[simp] theorem execRowSelfTestDone_holds {core row : Nat} {pass : Bool} {s : State} (h : Memory.wf s.mem) :
    HoldsForm (execRowSelfTestDone core row pass s) := by
  simp [execRowSelfTestDone, h]

@[simp] theorem uncorrectable_mem (s : State) (key : Nat) : (s.uncorrectable key).mem = s.mem := by
  unfold State.uncorrectable
  dsimp only
  split <;> rfl

/-! ### What Host keeps -/

@[simp] theorem bootTo_mem (s : State) (st code : Nat) : (s.bootTo st code).mem = s.mem := rfl

@[simp] theorem execBootVerifyFirmware_holds {s : State} (h : Memory.wf s.mem) : HoldsForm (execBootVerifyFirmware s) := by
  simp [execBootVerifyFirmware, h]

@[simp] theorem execBootVerifyConfiguration_holds {s : State} (h : Memory.wf s.mem) : HoldsForm (execBootVerifyConfiguration s) := by
  simp [execBootVerifyConfiguration, h]

@[simp] theorem execFirmwareVerifyDone_holds {s : State} (h : Memory.wf s.mem) : HoldsForm (execFirmwareVerifyDone s) := by
  unfold execFirmwareVerifyDone
  split
  · exact h
  · split <;> simp [h]

@[simp] theorem configure_mem (s : State) (img : Image) (x : Settings) : (s.configure img x).mem = s.mem := by
  unfold State.configure
  dsimp only
  exact foldl_mem _ (fun _ _ => by rfl) _ _

@[simp] theorem loadFirmware_wf {s : State} {c : Nat} (h : Memory.wf s.mem) : Memory.wf (s.loadFirmware c).mem := by
  unfold State.loadFirmware
  split
  · exact h
  · exact write_wf h

@[simp] theorem ready_wf {s : State} (h : Memory.wf s.mem) : Memory.wf s.ready.mem := by
  unfold State.ready
  generalize List.range 96 = cores
  exact foldl_wf (f := State.loadFirmware) (fun _ _ => loadFirmware_wf) h

@[simp] theorem execConfigurationBringupDone_holds {ok : Bool} {s : State} (h : Memory.wf s.mem) :
    HoldsForm (execConfigurationBringupDone ok s) := by
  have live (ks : List Nat) {t : State} (ht : Memory.wf t.mem) :
      Memory.wf (ks.foldl (fun s k => if (s.socket k).st = 2 then s.goLive k else s) t).mem :=
    foldl_wf (fun s k hs => ite_wf (goLive_wf hs) hs) ht
  unfold execConfigurationBringupDone
  generalize List.range 16 = sockets
  refine ite_holds h ?_
  split
  · dsimp only
    refine ite_holds h (ite_holds h (ite_holds ?_ (ite_holds ?_ ?_)))
    · simp [h]
    · exact holdsForm_next.2 (ready_wf (live sockets (by simp [h])))
    · rw [holdsForm_next, bootTo_mem]
      exact live sockets (by simp [h])
  · simp [h]

@[simp] theorem lockFeatures_mem (s : State) : s.lockFeatures.mem = s.mem := rfl

@[simp] theorem execFeatureLock_holds {s : State} (h : Memory.wf s.mem) : HoldsForm (execFeatureLock s) := by
  simp [execFeatureLock, h]

@[simp] theorem startReport_mem (s : State) : s.startReport.mem = s.mem := by
  unfold State.startReport
  split <;> rfl

@[simp] theorem execAttestGo_holds {s : State} (h : Memory.wf s.mem) : HoldsForm (execAttestGo s) := by
  simp [execAttestGo, h]

@[simp] theorem execAttestReportDone_holds {s : State} (h : Memory.wf s.mem) : HoldsForm (execAttestReportDone s) := by
  simp [execAttestReportDone, h]

@[simp] theorem sendTable_mem (s : State) : s.sendTable.mem = s.mem := by
  unfold State.sendTable
  dsimp only
  split <;> rfl

@[simp] theorem execMmgmtSend_holds {s : State} (h : Memory.wf s.mem) : HoldsForm (execMmgmtSend s) := by
  simp [execMmgmtSend, h]

@[simp] theorem execPackageReset_holds {s : State} (h : Memory.wf s.mem) : HoldsForm (execPackageReset s) := by
  unfold execPackageReset
  exact filter_wf h

@[simp] theorem restart_wf {s : State} {c : Nat} (h : Memory.wf s.mem) : Memory.wf (s.restart c).mem := by
  unfold State.restart
  dsimp only
  split
  · exact h
  · rw [setProof_mem]
    refine loadFirmware_wf ?_
    dsimp only
    exact foldl_wf (fun _ _ h' => by simp [h']) h

@[simp] theorem execProofCoreRestart_holds {cluster : Nat} {s : State} (h : Memory.wf s.mem) : HoldsForm (execProofCoreRestart cluster s) := by
  simp [execProofCoreRestart, h]

@[simp] theorem xinv_wf {s : State} {part x : Nat} (h : Memory.wf s.mem) : Memory.wf (s.xinv part x).mem := by
  unfold State.xinv
  split
  · exact h
  · split <;> simp [h]

@[simp] theorem execXinvWrite_holds {part : Nat} {x : DWord} {s : State} (h : Memory.wf s.mem) : HoldsForm (execXinvWrite part x s) := by
  simp [execXinvWrite, h]

@[simp] theorem fresolve_mem (s : State) (part x : Nat) : (s.fresolve part x).mem = s.mem := rfl

@[simp] theorem execFresolveWrite_holds {part : Nat} {x : DWord} {s : State} (h : Memory.wf s.mem) : HoldsForm (execFresolveWrite part x s) := by
  simp [execFresolveWrite, h]

@[simp] theorem repostUnit_mem (s : State) (uid : Nat) (u : FUnit) : (s.repostUnit uid u).mem = s.mem := by
  unfold State.repostUnit
  split
  · split
    · rfl
    · simp
  · rfl

@[simp] theorem repost_mem (s : State) (part : Nat) : (s.repost part).mem = s.mem :=
  foldl_mem _ (fun _ _ => foldl_mem _ (fun _ _ => by simp) _ _) _ _

@[simp] theorem setFbget_mem (s : State) (part : Nat) (x : BitVec 32) : (s.setFbget part x).mem = s.mem := by
  unfold State.setFbget
  split
  · rfl
  · split
    · rfl
    · dsimp only
      split
      · simp
      · rfl

@[simp] theorem execFbgetWrite_holds {part : Nat} {x : DWord} {s : State} (h : Memory.wf s.mem) : HoldsForm (execFbgetWrite part x s) := by
  simp [execFbgetWrite, h]

@[simp] theorem writeGlobal_wf {s : State} {o x : Nat} (h : Memory.wf s.mem) : Memory.wf (s.writeGlobal o x).mem := by
  have restarts (cs : List Nat) : Memory.wf (cs.foldl State.restart s).mem := foldl_wf (fun s c => restart_wf) h
  unfold State.writeGlobal
  refine ite_wf (ite_wf h h) (ite_wf (ite_wf h h) (ite_wf (ite_wf h (ite_wf h h)) (ite_wf h (ite_wf h (ite_wf h ?_)))))
  refine ite_wf (restarts _) (ite_wf (restarts _) (ite_wf h (ite_wf (ite_wf (by simp [h]) h) ?_)))
  exact ite_wf h (ite_wf h (ite_wf h (ite_wf (ite_wf (by simp [h]) h) (ite_wf h h))))

@[simp] theorem writePart_wf {s : State} {part o x : Nat} (h : Memory.wf s.mem) : Memory.wf (s.writePart part o x).mem := by
  unfold State.writePart
  split
  · exact h
  · split
    · exact h
    · split
      · simp [h]
      · split
        · exact h
        · split
          · simp [h]
          · split
            · simp [h]
            · split
              · simp [h]
              · split <;> simp [h]

@[simp] theorem sockCmd_wf {s : State} {sk cmd : Nat} (h : Memory.wf s.mem) : Memory.wf (s.sockCmd sk cmd).mem := by
  exact ite_wf (goLive_wf h) (ite_wf (by simp [h]) (ite_wf (by simp [h]) (by simp [h])))

@[simp] theorem writeFabric_wf {s : State} {o x : Nat} (h : Memory.wf s.mem) : Memory.wf (s.writeFabric o x).mem := by
  unfold State.writeFabric
  split
  · dsimp only
    split
    · simp [h]
    · split <;> simp [h]
  · simp [h]

@[simp] theorem regWrite_wf {s : State} {off : Nat} {x : DWord} (h : Memory.wf s.mem) : Memory.wf (s.regWrite off x).mem := by
  unfold State.regWrite
  split
  · simp [h]
  · split <;> simp [h]

@[simp] theorem execRegisterWrite_holds {off : Nat} {x : DWord} {s : State} (h : Memory.wf s.mem) : HoldsForm (execRegisterWrite off x s) := by
  unfold execRegisterWrite
  split <;> simp [h]

@[simp] theorem execMailboxRead_holds {win off size : Nat} {s : State} (h : Memory.wf s.mem) : HoldsForm (execMailboxRead win off size s) := by
  simp [execMailboxRead, h]

@[simp] theorem execMailboxWrite_holds {win off size x : Nat} {s : State} (h : Memory.wf s.mem) : HoldsForm (execMailboxWrite win off size x s) := by
  simp [execMailboxWrite, h]

@[simp] theorem hostDo_wf {s : State} {x : HostOp} (h : Memory.wf s.mem) : Memory.wf (s.hostDo x).mem := by
  unfold State.hostDo
  split <;> simp [h]

@[simp] theorem hostNext_wf {s : State} (h : Memory.wf s.mem) : Memory.wf s.hostNext.mem := by
  unfold State.hostNext
  split <;> simp [h]

/-! ### What Lanes keeps -/

@[simp] theorem maskOp_holds {s : State} {d a b : MReg} {f : DWord → DWord → DWord} (h : Memory.wf s.mem) : HoldsForm (maskOp s d a b f) := by
  simp [maskOp, h]

@[simp] theorem maskScalar_holds {s : State} {d : SReg} {a : MReg} {f : Nat → Nat} (h : Memory.wf s.mem) : HoldsForm (maskScalar s d a f) := by
  simp [maskScalar, h]

@[simp] theorem execMandn_holds {d a b : MReg} {s : State} (h : Memory.wf s.mem) : HoldsForm (execMandn d a b s) := by
  simp [execMandn, h]

@[simp] theorem execMnot_holds {d e : MReg} {s : State} (h : Memory.wf s.mem) : HoldsForm (execMnot d e s) := by
  simp [execMnot, h]

@[simp] theorem execMmovToMask_holds {d : MReg} {a : SReg} {s : State} (h : Memory.wf s.mem) : HoldsForm (execMmovToMask d a s) := by
  simp [execMmovToMask, h]

@[simp] theorem execMballot_holds {d : MReg} {a : VReg} {k : MReg} {s : State} (h : Memory.wf s.mem) : HoldsForm (execMballot d a k s) := by
  simp [execMballot, h]

@[simp] theorem execMset_holds {d : MReg} {first : BitVec 6} {count : BitVec 7} {s : State} (h : Memory.wf s.mem) :
    HoldsForm (execMset d first count s) := by
  simp [execMset, h]

/-! ### What Perform keeps -/

@[simp] theorem settleGroup_mem (s : State) (core slot : Nat) : (s.settleGroup core slot).mem = s.mem := by
  unfold State.settleGroup
  dsimp only
  split
  · simp
  · split
    · split <;> simp
    · simp
    · simp
    · simp
    · simp

@[simp] theorem afterCommit_mem (s : State) (a : Agent) : (s.afterCommit a).mem = s.mem := by
  unfold State.afterCommit
  split
  · split <;> rfl
  · rfl

@[simp] theorem execLookaheadCommit_holds {uid : Nat} {s : State} (h : Memory.wf s.mem) : HoldsForm (execLookaheadCommit uid s) := by
  unfold execLookaheadCommit
  split
  · exact h
  · split
    · exact h
    · dsimp only
      split <;> simp [h]

@[simp] theorem performAll_wf {s : State} {ls : List Local} (h : Memory.wf s.mem) : Memory.wf (s.performAll ls).mem := by
  unfold State.performAll
  dsimp only
  exact foldl_wf (fun _ _ h' => by simp [h']) h

@[simp] theorem reapExited_wf {s : State} (h : Memory.wf s.mem) : Memory.wf s.reapExited.mem :=
  foldl_wf (fun _ _ h' => by simp [h']) h

@[simp] theorem execLocalAccessPerform_holds {uid : Nat} {s : State} (h : Memory.wf s.mem) : HoldsForm (execLocalAccessPerform uid s) := by
  unfold execLocalAccessPerform
  dsimp only
  split
  · exact h
  · rw [holdsForm_next]
    exact reapExited_wf (foldl_wf (fun _ _ h' => by simp [h']) (by simp [h]))

@[simp] theorem serveUnit_mem (s : State) (m : Cmd) (u : FUnit) (o : XOut) : (s.serveUnit m u o).mem = s.mem := by
  unfold State.serveUnit
  dsimp only
  split
  · simp
  · rw [setCmd_mem]
    split
    · rfl
    · simp

@[simp] theorem reaim_wf {s : State} {m : Cmd} {u : FUnit} {o : XOut} (h : Memory.wf s.mem) : Memory.wf (s.reaim m u o).mem := by
  unfold State.reaim
  dsimp only
  split
  · simp [h]
  · split
    · split
      · rw [unitFault_mem]
        refine writeRes_wf (foldl_wf (fun _ _ h' => ?_) h)
        split <;> simp [h']
      · refine foldl_wf (fun _ _ h' => ?_) h
        split <;> simp [h']
    · refine foldl_wf (fun _ _ h' => ?_) h
      split <;> simp [h']

@[simp] theorem execTranslationWalkComplete_holds {cmd unit : Nat} {s : State} (h : Memory.wf s.mem) :
    HoldsForm (execTranslationWalkComplete cmd unit s) := by
  unfold execTranslationWalkComplete
  split
  · exact h
  · split
    · exact h
    · split
      · exact h
      · split <;> simp [h]

/-! ### What Vector keeps -/

@[simp] theorem vectorBin_holds {s : State} {gd : MReg} {op : IBin} {t : ITy} {d a : VReg} {b : SrcB} (h : Memory.wf s.mem) :
    HoldsForm (vectorBin s gd op t d a b) := by
  simp [vectorBin, h]

@[simp] theorem vectorSat_holds {s : State} {gd : MReg} {op : IBin} {t : ITy} {d a : VReg} {b : SrcB} (h : Memory.wf s.mem) :
    HoldsForm (vectorSat s gd op t d a b) := by
  simp [vectorSat, h]

@[simp] theorem vectorCmp_holds {s : State} {gd : MReg} {cd : ICond} {t : ITy} {d : MReg} {a : VReg} {b : SrcB} (h : Memory.wf s.mem) :
    HoldsForm (vectorCmp s gd cd t d a b) := by
  simp [vectorCmp, h]

@[simp] theorem execVmad_holds {g : MReg} {t : ITy} {d a b x : VReg} {s : State} (h : Memory.wf s.mem) : HoldsForm (execVmad g t d a b x s) := by
  simp [execVmad, h]

/-! ### What Dispatch keeps -/

theorem holdsForm_of_mem {s : State} {o : Out} (h : Memory.wf s.mem) (same : ∀ t, o = .next t → t.mem = s.mem) : HoldsForm o := by
  cases o with
  | next t => rwa [holdsForm_next, same t rfl]
  | fault | refused => trivial

/-- Of a memory in its canonical form every instruction and every event makes one in its canonical form: those that change none, those
of one mould together, and the others by the lemma about each. -/
theorem exec_holds {i : Instr} {s : State} (h : Memory.wf s.mem) : HoldsForm (exec i s) := by
  by_cases later : changesLater i = true
  · exact holdsForm_of_mem h fun t e => (changesLater_calm later e).mem
  by_cases queues : queuesAtIssue i = true
  · exact holdsForm_of_mem h fun t e => LateCalm.mem (queuesAtIssue_late queues e)
  cases i with
  | nop | bra | brs | brm | jmp | ret | sdivLong | sdivLiteral | sremLong | sremLiteral | vrcpShort | vrcpLong | vrsqShort | vrsqLong
      | vsqrtShort | vsqrtLong | vdivShort | vdivLong | vexp2Short | vexp2Long | vlog2Short | vlog2Long | vsinShort | vsinLong | vcosShort
      | vcosLong | vtanhShort | vtanhLong | vshfl | vrotLong | vrotLiteral | vbcast | vred | vscan | vcompact | vexpand | vldLong | vldLiteral
      | vstLong | vstLiteral | sldLong | sldLiteral | sstLong | sstLiteral | vatom | satom | arinitLong | arinitLiteral | araddLong
      | araddLiteral | fence =>
    exact (later rfl).elim
  | spopcLong | sclzLong => exact scalar1_holds h
  | saddLong | saddLiteral | ssubLong | ssubLiteral | smulLong | smulLiteral | smulhLong | smulhLiteral | sandLong | sandLiteral | sorLong
      | sorLiteral | sxorLong | sxorLiteral | sshlLong | sshlLiteral | sshrLong | sshrLiteral | ssarLong | ssarLiteral | sminLong | sminLiteral
      | smaxLong | smaxLiteral =>
    exact scalarBin_holds h
  | scmpLong | scmpLiteral => exact scalarCmp_holds h
  | vmovShort | vmovLong | vabsShort | vabsLong | vpopcShort | vpopcLong | vclzShort | vclzLong | vbfx | vfabsShort | vfabsLong | vfnegShort
      | vfnegLong | vcvt =>
    exact vector1_holds h
  | vmovBcast | vli | vsel => exact vectorOp_holds h
  | vaddLong | vaddLiteral | vsubLong | vsubLiteral | vmulLong | vmulLiteral | vmulhLong | vmulhLiteral | vandLong | vandLiteral | vorLong
      | vorLiteral | vxorLong | vxorLiteral | vshlLong | vshlLiteral | vshrLong | vshrLiteral | vsarLong | vsarLiteral | vminLong | vminLiteral
      | vmaxLong | vmaxLiteral =>
    exact vectorBin_holds h
  | vdot4 => exact vector3_holds h
  | vaddsatLong | vaddsatLiteral | vsubsatLong | vsubsatLiteral => exact vectorSat_holds h
  | vcmpLong | vcmpLiteral => exact vectorCmp_holds h
  | vfaddLong | vfaddLiteral | vfsubLong | vfsubLiteral | vfmulLong | vfmulLiteral | vfminLong | vfminLiteral | vfmaxLong | vfmaxLiteral =>
    exact vector2_holds h
  | vfcmpLong | vfcmpLiteral => exact floatCmp_holds h
  | mand | mor | mxor => exact maskOp_holds h
  | mmovToScalar | mpopc | mfirst => exact maskScalar_holds h
  | tstore | treduce => exact storeOp_holds h
  | bulkld | bulkst => exact bulkOp_holds h
  | thint | forme | formeR | mma | mzero | mldg | mstg | mcvt | maddg | mwait | ligbind | ligeval | ligemit | ligwait | handoff =>
    exact (queues rfl).elim
  | completionNoticeReceive => exact h
  | _ => simp [exec, h]

/-! ### What Cycle keeps -/

@[simp] theorem orSame_wf {s : State} {o : Out} (h : Memory.wf s.mem) (ho : HoldsForm o) : Memory.wf (orSame s o).mem := by
  cases o with
  | next t => exact ho
  | fault | refused => exact h

@[simp] theorem noteIssue_mem (s : State) (a : Agent) : (s.noteIssue a).mem = s.mem := by
  unfold State.noteIssue
  split
  · rfl
  · split <;> rfl

@[simp] theorem noteIssued_mem (s : State) (a : Agent) (b : Nat) : (s.noteIssued a b).mem = s.mem := by
  unfold State.noteIssued
  split
  · rfl
  · split <;> rfl

@[simp] theorem runFetched_holds {s : State} {c : Cur} {ws : List Word} (h : Memory.wf s.mem) : HoldsForm (s.runFetched c ws) := by
  unfold State.runFetched
  dsimp only
  split
  · simp [h]
  · simp [h]
  · refine ite_holds (by simp [h]) ?_
    split
    · next e => rwa [holdsForm_next, operandTrap_mem e]
    · exact exec_holds h

@[simp] theorem settle_mem (s : State) : s.settle.mem = s.mem := by
  simp [State.settle]

@[simp] theorem settleOut_holds {o : Out} (h : HoldsForm o) : HoldsForm (settleOut o) := by
  cases o with
  | next t => simpa [settleOut] using h
  | fault | refused => trivial

@[simp] theorem issueOut_holds {a : Agent} {b : Nat} {o : Out} (h : HoldsForm o) : HoldsForm (issueOut a b o) := by
  cases o with
  | next t => simpa [issueOut] using h
  | fault | refused => trivial

@[simp] theorem issue_holds {s : State} {a : Agent} (h : Memory.wf s.mem) : HoldsForm (s.issue a) := by
  unfold State.issue
  split
  · exact h
  · dsimp only
    split
    · simp [h]
    · exact issueOut_holds (by simp [h])
    · exact issueOut_holds (by simp [h])
    · exact issueOut_holds (runFetched_holds (by simp [h]))

@[simp] theorem planned_mem (s : State) : s.planned.mem = s.mem := by
  unfold State.planned
  split
  · rfl
  · dsimp only
    exact foldl_mem _ (fun _ _ => by rfl) _ _

@[simp] theorem issueTurn_holds {s : State} {a : Agent} (h : Memory.wf s.mem) : HoldsForm (s.issueTurn a) := by
  unfold State.issueTurn
  dsimp only
  split <;> simp [h]

@[simp] theorem issueRest_holds {as : List Agent} {s : State} (h : Memory.wf s.mem) : HoldsForm (State.issueRest as s) := by
  induction as generalizing s with
  | nil => exact h
  | cons a as ih =>
    have issued : HoldsForm (State.issue { s with plan := some as } a) := issue_holds h
    unfold State.issueRest
    split
    · next e =>
      rw [e] at issued
      exact ih issued
    · exact issued

@[simp] theorem commitDue_wf {s : State} {n : Nat} (h : Memory.wf s.mem) : Memory.wf (s.commitDue n).mem := by
  induction n generalizing s with
  | zero => exact h
  | succ n ih =>
    unfold State.commitDue
    split
    · exact h
    · exact ih (orSame_wf h (execLookaheadCommit_holds h))

@[simp] theorem performDue_wf {s : State} (h : Memory.wf s.mem) : Memory.wf s.performDue.mem :=
  commitDue_wf (foldl_wf (fun _ _ hs => orSame_wf hs (execLocalAccessPerform_holds hs)) h)

@[simp] theorem balanceAll_wf {s : State} (h : Memory.wf s.mem) : Memory.wf s.balanceAll.mem :=
  ite_wf (foldl_wf (fun _ _ hs => orSame_wf hs (execImposerBalance_holds hs)) h) h

@[simp] theorem noteReady_mem (s : State) : s.noteReady.mem = s.mem := rfl

@[simp] theorem scrubOne_mem (s : State) : s.scrubOne.mem = s.mem := by
  unfold State.scrubOne
  split <;> rfl

@[simp] theorem tick_wf {s : State} (h : Memory.wf s.mem) : Memory.wf s.tick.mem := by
  have performed : Memory.wf (s.performDue.expireLocks.retryLocks).mem := by simp [h]
  unfold State.tick
  dsimp only
  rw [scrubOne_mem, noteReady_mem]
  exact balanceAll_wf (by rwa [sendAcks_mem, serveAsks_mem])

/-- Events, each of which holds memory in its canonical form. -/
def Holding (es : List (State → Out)) : Prop := ∀ e ∈ es, ∀ s, Memory.wf s.mem → HoldsForm (e s)

theorem holding_append {es fs : List (State → Out)} : Holding (es ++ fs) ↔ Holding es ∧ Holding fs := by
  simp only [Holding, List.mem_append]
  exact ⟨fun h => ⟨fun e he => h e (.inl he), fun e he => h e (.inr he)⟩, fun h e he => he.elim (h.1 e) (h.2 e)⟩

theorem holding_cons {e : State → Out} {es : List (State → Out)} : Holding (e :: es) ↔ (∀ s, Memory.wf s.mem → HoldsForm (e s)) ∧ Holding es := by
  simp only [Holding, List.mem_cons, forall_eq_or_imp]

theorem holding_nil : Holding [] := fun _ he => by cases he

theorem holding_flatMap {α : Type} {f : α → List (State → Out)} {xs : List α} (h : ∀ x, Holding (f x)) : Holding (xs.flatMap f) := by
  intro e he
  obtain ⟨x, -, hx⟩ := List.mem_flatMap.1 he
  exact h x e hx

theorem holding_map {α : Type} {f : α → State → Out} {xs : List α} (h : ∀ x s, Memory.wf s.mem → HoldsForm (f x s)) : Holding (xs.map f) := by
  intro e he
  obtain ⟨x, -, rfl⟩ := List.mem_map.1 he
  exact h x

theorem moduleGrant_holds {s t : State} {ep vc : Nat} {hw : Option Nat} {e : State → Out} (h : Memory.wf t.mem)
    (he : s.moduleGrant ep vc hw = some e) : HoldsForm (e t) := by
  unfold State.moduleGrant at he
  split at he
  · cases he
  · obtain ⟨p, -, rfl⟩ := Option.map_eq_some_iff.1 he
    exact execGrantReceive_holds h

theorem packageGrant_holds {s t : State} {ep vc : Nat} {e : State → Out} (h : Memory.wf t.mem) (he : s.packageGrant ep vc = some e) :
    HoldsForm (e t) := by
  unfold State.packageGrant at he
  split at he
  · cases he
  · obtain ⟨p, -, rfl⟩ := Option.map_eq_some_iff.1 he
    exact execGrantRequestReceive_holds h

theorem grantNeeded_holding (s : State) : Holding s.grantNeeded.toList := by
  intro e he t h
  obtain ⟨w, -, hw⟩ := List.exists_of_findSome?_eq_some (Option.mem_toList.1 he)
  split at hw
  · cases hw
  · split at hw
    · exact moduleGrant_holds h hw
    · exact packageGrant_holds h hw

theorem coreEvents_holding (s : State) : Holding s.coreEvents := by
  unfold State.coreEvents
  dsimp only
  simp only [holding_append]
  refine ⟨⟨⟨⟨⟨⟨⟨⟨holding_flatMap fun g => ?_, holding_map fun k s h => execMatrixOpStart_holds h⟩, holding_map fun m s h =>
    execMatrixOpRetire_holds h⟩,
    holding_map fun k s h => execLigOpStart_holds h⟩, holding_map fun m s h => execLigOpComplete_holds h⟩, holding_flatMap fun p => ?_⟩,
    holding_flatMap fun t => ?_⟩, holding_map fun g s h => execGrowRecheck_holds h⟩, holding_map fun k s h => execAllWaitingFailure_holds h⟩
  all_goals simp +contextual [holding_cons, holding_nil]

@[simp] theorem carryFirst_holds {s : State} (h : Memory.wf s.mem) : HoldsForm (carryFirst s) := by
  simp [carryFirst, h]

@[simp] theorem hostGoesOn_holds {s : State} (h : Memory.wf s.mem) : HoldsForm (hostGoesOn s) := by
  simp [hostGoesOn, h]

@[simp] theorem writesGoOn_holds {s : State} (h : Memory.wf s.mem) : HoldsForm (writesGoOn s) := by
  simp [writesGoOn, h]

theorem farEvents_holding (s : State) : Holding s.farEvents := by
  unfold State.farEvents
  simp only [holding_append]
  refine ⟨⟨⟨⟨⟨⟨⟨⟨⟨⟨⟨holding_flatMap fun m => holding_map fun k s h => execTranslationWalkComplete_holds h, holding_flatMap fun m => ?walks⟩,
    holding_map fun m s h => execZeroFillAddition_holds h⟩, holding_flatMap fun r => ?sends⟩, holding_flatMap fun k => holding_flatMap fun x => ?_⟩,
    ?wire⟩, ?out⟩, holding_map fun x s h => execReplayTimeout_holds h⟩, holding_map fun g s h => execGrantRetry_holds h⟩, grantNeeded_holding s⟩,
    holding_map fun x s h => execModuleHint_holds h⟩, holding_flatMap fun m => ?tables⟩
  case walks =>
    intro e he t h
    obtain ⟨u, -, hu⟩ := List.mem_filterMap.1 he
    split at hu
    · cases hu
      exact execModuleTableRead_holds h
    · cases hu
  case sends => split <;> simp +contextual [holding_cons, holding_nil]
  case wire => split <;> simp +contextual [holding_cons, holding_nil]
  case out => split <;> simp +contextual [holding_cons, holding_nil]
  case tables =>
    rw [holding_append, holding_cons]
    exact ⟨⟨fun s h => execModuleTableWrite_holds h, holding_nil⟩, holding_map fun v s h => execPageMoveComplete_holds h⟩
  simp +contextual [holding_cons, holding_nil]

theorem queueEvents_holding (s : State) : Holding s.queueEvents := by
  unfold State.queueEvents
  simp only [holding_append]
  refine ⟨⟨⟨⟨⟨⟨⟨⟨⟨holding_flatMap fun k => holding_map fun x s h => execTaskqAnswer_holds h, holding_map fun r s h => execPendingRecordMove_holds h⟩,
    holding_map fun x s h => execMovedRecordArrive_holds h⟩, holding_flatMap fun p => ?_⟩, holding_map fun t s h => execBindingIssue_holds h⟩,
    holding_map fun l s h => execTeamPlace_holds h⟩, holding_flatMap fun p => ?_⟩, holding_flatMap fun g => ?slots⟩,
    holding_map fun g s h => execLeaseExpire_holds h⟩, ?maps⟩
  case slots =>
    simp only [holding_append]
    refine ⟨⟨?_, holding_flatMap fun k => ?_⟩, ?_⟩
    all_goals simp +contextual [holding_cons, holding_nil]
  case maps =>
    split
    · exact holding_nil
    · rw [holding_append]
      exact ⟨holding_map fun g s h => execQueueMap_holds h, holding_map fun p s h => execPriorityEviction_holds h⟩
  all_goals simp +contextual [holding_cons, holding_nil]

theorem laneEvents_holding (s : State) : Holding s.laneEvents := by
  refine holding_flatMap fun l => ?_
  split
  · simp +contextual [holding_cons, holding_nil]
  · split
    · exact holding_nil
    · split <;> simp +contextual [holding_cons, holding_nil]

theorem packageEvents_holding (s : State) : Holding s.packageEvents := by
  unfold State.packageEvents
  simp only [holding_append]
  refine ⟨⟨⟨?_, laneEvents_holding s⟩, holding_flatMap fun k => ?_⟩, ?_⟩
  all_goals simp +contextual [holding_cons, holding_nil]

theorem firstOf_wf {s t : State} {es : List (State → Out)} (h : Memory.wf s.mem) (hes : Holding es) (e : s.firstOf es = some t) :
    Memory.wf t.mem := by
  induction es with
  | nil => cases e
  | cons f fs ih =>
    obtain ⟨first, rest⟩ := holding_cons.1 hes
    have hf := first s h
    unfold State.firstOf at e
    split at e
    · next ht =>
      rw [ht] at hf
      split at e
      · exact ih rest e
      · exact Option.some.inj e ▸ hf
    · exact ih rest e

theorem auto_wf {s t : State} (h : Memory.wf s.mem) (e : s.auto = some t) : Memory.wf t.mem := by
  refine firstOf_wf h ?_ e
  simp only [holding_append]
  exact ⟨⟨⟨coreEvents_holding s, farEvents_holding s⟩, queueEvents_holding s⟩, packageEvents_holding s⟩

@[simp] theorem turn_holds {s : State} {t : Turn} (h : Memory.wf s.mem) : HoldsForm (s.turn t) := by
  cases t with
  | issue a => exact issueTurn_holds h
  | event i => exact ite_holds (settleOut_holds (exec_holds h)) h
  | carry n t => exact settleOut_holds (holdsForm_next.2 (by simp [h]))
  | resume n r => exact settleOut_holds (execResumeReceive_holds h)
  | laneLost k pos => exact settleOut_holds (execLaneFail_holds h)
  | tick =>
    have issued : HoldsForm (State.issueRest (s.planned.plan.getD []) s.planned) := issueRest_holds (by simp [h])
    unfold State.turn
    dsimp only
    split
    · next e =>
      rw [e] at issued
      exact settleOut_holds (tick_wf issued)
    · exact issued
  | elapse n => exact h
  | corrected key => simp [State.turn, h]
  | uncorrectable key => simp [State.turn, h]

@[simp] theorem runOn_holds {s : State} (h : Memory.wf s.mem) : HoldsForm s.runOn := by
  unfold State.runOn
  split
  · simp [h]
  · exact issue_holds h
  · split
    · next e => exact settleOut_holds (auto_wf h e)
    · exact settleOut_holds (tick_wf h)

theorem stepOnce_holds {s : State} (h : Memory.wf s.mem) : HoldsForm s.stepOnce := by
  unfold State.stepOnce
  split
  · exact turn_holds h
  · exact runOn_holds h

/-! ### What Step keeps -/

/-- Settles O60: a step is a turn of one instruction or event, or a run on to the next, and each is made of functions that keep the form. -/
theorem everyStepKeepsTheInvariant : Obligations.EveryStepKeepsTheInvariant := by
  intro s t h e
  have held : HoldsForm (step s) := stepOnce_holds h
  rw [e] at held
  exact held

end Sys2Proof.Machine

end

section

/-! PROOFS. The imposer's events (11 R261 to R265, 15 R327). -/

namespace Sys2Proof.Machine
open Sys2Proof.Claims

/-! ### The ring -/

theorem ringNeighbours_three {n i : Nat} (h : 3 ≤ n) (hi : i < n) :
    ringNeighbours n i = [min ((i + n - 1) % n) ((i + 1) % n), max ((i + n - 1) % n) ((i + 1) % n)] := by
  have apart : (i + n - 1) % n ≠ (i + 1) % n := by
    intro e
    obtain rfl | pos := Nat.eq_zero_or_pos i
    · rw [Nat.zero_add, Nat.zero_add, Nat.mod_eq_of_lt (by omega), Nat.mod_eq_of_lt (by omega)] at e
      omega
    · rw [show i + n - 1 = i - 1 + n by omega, Nat.add_mod_right, Nat.mod_eq_of_lt (by omega)] at e
      obtain last | inner := Nat.lt_or_ge (i + 1) n
      · rw [Nat.mod_eq_of_lt last] at e
        omega
      · rw [show i + 1 = n by omega, Nat.mod_self] at e
        omega
  simp [ringNeighbours, show ¬ n < 2 by omega, apart]

theorem ringNeighbours_two {i : Nat} (hi : i < 2) : ringNeighbours 2 i = [(i + 2 - 1) % 2] := by
  interval_cases i <;> rfl

/-! ### Records that move -/

section Move
variable (s : State) (lid c dest m : Nat)

/-- A domain's records at a cluster. -/
def State.domainAt : List TaskRec := s.tready.filter fun x => x.launch == lid && x.cluster == c

theorem moveRecords_none (h : min m (s.domainAt lid c).length = 0) : s.moveRecords lid c dest m = (s, 0) := by
  have none_ : ((s.domainAt lid c).drop ((s.domainAt lid c).length - min m (s.domainAt lid c).length)).isEmpty = true := by
    simp [h]
  exact if_pos none_

theorem moveRecords_some (h : min m (s.domainAt lid c).length ≠ 0) :
    let k := min m (s.domainAt lid c).length
    let n := (s.domainAt lid c).length
    s.moveRecords lid c dest m = ({ s with
      tready := s.tready.filter (fun x => !(x.launch == lid && x.cluster == c)) ++ (s.domainAt lid c).take (n - k)
      ttransit := s.ttransit ++ ((s.domainAt lid c).drop (n - k)).map fun (x : TaskRec) => { x with cluster := dest, idx := s.cycle + 64 } }, k) := by
  intro k n
  have len : ((s.domainAt lid c).drop (n - k)).length = k := by
    rw [List.length_drop]
    omega
  have some_ : ¬ ((s.domainAt lid c).drop (n - k)).isEmpty = true := by
    rw [List.isEmpty_iff_length_eq_zero, len]
    exact h
  exact (if_neg some_).trans (congrArg (Prod.mk _) len)

end Move

/-! ### One cluster's moves -/

/-- What a cluster of the ring gives a neighbour: the state, what the queues can still take, and who was given to. -/
def balanceStep (lid : Nat) (cs : List Nat) (i : Nat) (r : State × List Nat × List Nat) (k m : Nat) : State × List Nat × List Nat :=
  let x := r.1.moveRecords lid (cs.getD i 0) (cs.getD k 0) (min m (r.2.1.getD k 0))
  (x.1, r.2.1.set k (r.2.1.getD k 0 - x.2), if x.2 = 0 then r.2.2 else k :: r.2.2)

/-- A quarter of the difference to each neighbour. -/
def balanceQuarter (s : State) (lid : Nat) (cs : List Nat) (occ : Nat → Int) (i : Nat) (free : List Nat) : State × List Nat × List Nat :=
  (ringNeighbours cs.length i).foldl (fun r k => balanceStep lid cs i r k ((occ i - occ k) / 4).toNat) (s, free, [])

section Balance
variable {s : State} {lid : Nat} {cs : List Nat} {occ : Nat → Int} {negs : List Nat} {i : Nat} {free : List Nat}

theorem balanceOne_eq : s.balanceOne lid cs occ negs i free =
    let r := balanceQuarter s lid cs occ i free
    let r := match (if 0 < occ i then toward cs.length i negs else none) with
      | some k => if r.2.2.any (· == k) then r else balanceStep lid cs i r k 1
      | none => r
    (r.1, r.2.1) := rfl

theorem balanceOne_reaches {k : Nat} (pos : 0 < occ i) (near : toward cs.length i negs = some k)
    (fresh : k ∉ (balanceQuarter s lid cs occ i free).2.2) :
    s.balanceOne lid cs occ negs i free = ((balanceStep lid cs i (balanceQuarter s lid cs occ i free) k 1).1,
      (balanceStep lid cs i (balanceQuarter s lid cs occ i free) k 1).2.1) := by
  have new : ¬ ((balanceQuarter s lid cs occ i free).2.2.any (· == k)) = true := by simpa using fresh
  simp only [balanceOne_eq, if_pos pos, near, if_neg new]

theorem balanceOne_stays (h : ∀ k, ¬ (0 < occ i ∧ toward cs.length i negs = some k ∧ k ∉ (balanceQuarter s lid cs occ i free).2.2)) :
    s.balanceOne lid cs occ negs i free = ((balanceQuarter s lid cs occ i free).1, (balanceQuarter s lid cs occ i free).2.1) := by
  rw [balanceOne_eq]
  by_cases pos : 0 < occ i
  · cases near : toward cs.length i negs with
    | none => simp only [if_pos pos]
    | some k =>
      have old : (balanceQuarter s lid cs occ i free).2.2.any (· == k) = true := by
        by_contra new
        exact h k ⟨pos, near, by simpa using new⟩
      simp only [if_pos pos, old, if_true]
  · simp only [if_neg pos]

end Balance

/-! ### An answer -/

/-- The group's own writes that an answer waits for. -/
def Owed (s : State) (r : TaskReq) (key n : Nat) : Prop :=
  ∃ l ∈ s.locals, l.op.writes = true ∧ l.onStore = true ∧ l.uid < r.uid ∧ l.addr < key + n ∧ key < l.addr + l.size

/-- What holds an answer back: the team is saved, or the group's writes to the arrival word or the slot are not performed. -/
def AnswerHeld (s : State) (r : TaskReq) : Prop :=
  s.saving r.team = true ∨ Owed s r (storeKey r.core r.word) 16 ∨ Owed s r (storeKey r.core r.slot) 64

/-- A record in the answer slot, its arrival counted, the request over. -/
def State.answer (s : State) (r : TaskReq) (k x : Nat) : State :=
  let s1 := { s with treqs := s.treqs.filter (·.uid != r.uid), chases := s.chases.filter (·.tag != r.uid) }
  let s2 := State.countAdd (s1.write (cellsLE (storeKey r.core r.slot) 64 x)) (storeKey r.core r.word) 64 0
  let s3 := match s2.team? r.team with
    | some t => s2.setTeam { t with tqOut := t.tqOut - 1 }
    | none => s2
  State.reap (s3.drainPending k pendingMax) r.team

section Answer
variable {s : State} {k n : Nat} {r : TaskReq} {l : Launch}

theorem answerHeld_iff : AnswerHeld s r ↔ (decide (r.uid ≠ r.uid) || s.saving r.team || s.writeOwed r.uid (storeKey r.core r.word) 16
    || s.writeOwed r.uid (storeKey r.core r.slot) 64) = true := by
  simp [AnswerHeld, Owed, writeOwed_iff, or_assoc]

variable (hn : nth (s.treqs.filter (·.cluster == k)) n = some r)
  (hq : s.treqs.find? (fun q => q.cluster == k && q.launch == r.launch) = some r)
include hn hq

theorem taskqAnswer_held (h : AnswerHeld s r) : execTaskqAnswer k n s = .next s := by
  simp only [execTaskqAnswer, hn, hq, if_pos (answerHeld_iff.1 h)]

variable (hl : s.launch? r.launch = some l)
include hl

theorem taskqAnswer_ended (h : ¬ AnswerHeld s r) (ended : l.ended = true) : execTaskqAnswer k n s = .next (s.answer r k (2 ^ 256)) := by
  simp only [execTaskqAnswer, hn, hq, if_neg (mt answerHeld_iff.2 h), hl, if_pos ended]
  rfl

theorem taskqAnswer_gives {x : TaskRec} (h : ¬ AnswerHeld s r) (live : l.ended = false)
    (hx : s.tready.find? (fun x => x.cluster == k && x.launch == r.launch) = some x) :
    execTaskqAnswer k n s = .next (State.answer
      (State.setLaunch { s with tready := s.tready.erase x } { l with outstanding := l.outstanding + 1 }) r k x.image.toNat) := by
  simp only [execTaskqAnswer, hn, hq, if_neg (mt answerHeld_iff.2 h), hl, live, hx]
  rfl

end Answer

theorem pendingRecordMove_stalled {s : State} {k : Nat} {x : TaskRec} (hx : s.stalled k = some x) :
    execPendingRecordMove k x.idx s = .next (s.drainPending k 1) := by
  simp [execPendingRecordMove, hx]

theorem movedRecordArrive_arrives {s : State} {n : Nat} {x : TaskRec} (hx : nth s.ttransit n = some x)
    (room : 0 < (s.drainPending x.cluster pendingMax).readyRoom x.cluster)
    (first : (s.drainPending x.cluster pendingMax).ttransit.find? (fun y => y.cluster == x.cluster && y.launch == x.launch) = some x) :
    execMovedRecordArrive n s = .next { s.drainPending x.cluster pendingMax with
      tready := (s.drainPending x.cluster pendingMax).tready ++ [{ x with idx := 0 }]
      ttransit := dropNth (s.drainPending x.cluster pendingMax).ttransit n } := by
  have goes : ¬ ((s.drainPending x.cluster pendingMax).readyRoom x.cluster = 0
      ∨ (s.drainPending x.cluster pendingMax).ttransit.find? (fun y => y.cluster == x.cluster && y.launch == x.launch) ≠ some x) := by
    simp only [not_or, not_not]
    exact ⟨Nat.ne_of_gt room, first⟩
  simp only [execMovedRecordArrive, hx, if_neg goes]

/-- Settles O42: the ring's arithmetic, a cluster's moves step by step, and each event in the case its guards name. -/
theorem imposerEventsComplete : Obligations.ImposerEventsComplete := by
  refine ⟨fun s lid c dest m => ⟨moveRecords_none s lid c dest m, moveRecords_some s lid c dest m, rfl⟩,
    fun n i js hi => ⟨fun h => by simp [ringNeighbours, h], ?two, fun h => ringNeighbours_three h hi, rfl⟩,
    fun s lid cs occ negs i free => ⟨fun k ⟨pos, near, fresh⟩ => balanceOne_reaches pos near fresh, balanceOne_stays⟩,
    fun s => ⟨fun k n r l hn hq hl => ⟨taskqAnswer_held hn hq, fun ended h => taskqAnswer_ended hn hq hl h ended,
      fun x live h hx => taskqAnswer_gives hn hq hl h live hx⟩, ?stalled, ?balance, ?arrive⟩⟩
  case two =>
    rintro rfl
    exact ringNeighbours_two hi
  case stalled => exact fun k x hx => pendingRecordMove_stalled hx
  case balance =>
    intro p hp
    show execImposerBalance p.p s = _
    simp only [execImposerBalance, hp]
  case arrive => exact fun n x hx room first => movedRecordArrive_arrives hx room first

end Sys2Proof.Machine
end

section

/-! PROOFS. Barriers and fences (08 R195, R196). -/

namespace Sys2Proof.Machine
open Sys2Proof.Claims

/-! ### A group of a team that waits at no cluster barrier -/

section Holdout
variable {s : State} {u : Nat} {c : Cur}

/-- A group of a team has not exited, and waits at no cluster barrier. -/
def State.Holdout (s : State) (u : Nat) : Prop := ∃ g ∈ s.groups, g.team = u ∧ g.run ≠ .exited ∧ g.inClbar = false

theorem mem_replaceBy_of_mem {α : Type} {p : α → Bool} {x y z : α} {xs : List α} (hy : y ∈ xs) (hz : xs.find? p = some z) :
    y ∈ replaceBy p x xs ∨ y = z ∧ x ∈ replaceBy p x xs := by
  induction xs with
  | nil => cases hy
  | cons a as ih =>
    by_cases pa : p a = true
    · obtain rfl : a = z := by simpa [pa] using hz
      obtain rfl | old := List.mem_cons.1 hy
      · exact .inr ⟨rfl, by simp [replaceBy, pa]⟩
      · exact .inl (by simp [replaceBy, pa, old])
    · have rest : as.find? p = some z := by simpa [pa] using hz
      obtain rfl | old := List.mem_cons.1 hy
      · exact .inl (by simp [replaceBy, pa])
      · obtain kept | ⟨rfl, new⟩ := ih old rest
        · exact .inl (by simp [replaceBy, pa, kept])
        · exact .inr ⟨rfl, by simp [replaceBy, pa, new]⟩

theorem holdout_setGroup {g h : Group} (ho : s.Holdout u) (e : s.group? h.core h.slot = some g) (team : h.team = g.team)
    (run : h.run = g.run ∨ h.run ≠ .exited ∧ h.inClbar = false) : (s.setGroup h).Holdout u := by
  obtain ⟨x, hx, mine, live, out⟩ := ho
  obtain kept | ⟨rfl, new⟩ := mem_replaceBy_of_mem (x := h) hx e
  · exact ⟨x, kept, mine, live, out⟩
  · refine ⟨h, new, team.trans mine, ?_⟩
    obtain same | other := run
    · exact ⟨same ▸ live, by rwa [Group.inClbar, same]⟩
    · exact other

theorem holdout_setPc {a : Agent} {pc : DWord} (ho : s.Holdout u) : (s.setPc a pc).Holdout u := by
  unfold State.setPc
  split
  · exact ho
  · split
    · next g e =>
      obtain ⟨rfl, rfl⟩ := group?_slot e
      exact holdout_setGroup ho e rfl (.inl rfl)
    · exact ho

theorem holdout_queueRecord {n : Nat} {b : Bool} {r : TrapRec} (ho : s.Holdout u) : (s.queueRecord n b r).Holdout u := by
  unfold State.queueRecord
  dsimp only
  split <;> exact ho

theorem holdout_settleTrap {k n : Nat} (ho : s.Holdout u) : (s.settleTrap k n).Holdout u := by
  unfold State.settleTrap
  split
  · next g e =>
    obtain ⟨rfl, rfl⟩ := group?_slot e
    split
    · split
      · exact holdout_queueRecord (holdout_setGroup ho e rfl (.inr ⟨nofun, rfl⟩))
      · exact ho
    · exact ho
  · exact ho

theorem holdout_trapAt {pc x y : DWord} {cause code : Nat} (ho : s.Holdout u) : (s.trapAt c pc cause code x y).Holdout u := by
  unfold State.trapAt
  split
  · exact ho
  · split
    · exact ho
    · next g e =>
      obtain ⟨rfl, rfl⟩ := group?_slot e
      exact holdout_settleTrap (holdout_setGroup (s := { s with commits := _ }) ho e rfl (.inr ⟨nofun, rfl⟩))

theorem holdout_finish (ho : s.Holdout u) : (s.finish c).Holdout u := by
  have gone : (s.goTo c (c.tail.getD c.next)).Holdout u := holdout_setPc (s := { s with commits := _ }) ho
  unfold State.finish State.tailTrap
  split
  · exact gone
  · exact holdout_trapAt gone

theorem holdout_resume (ho : s.Holdout u) : (s.resume c).Holdout u := by
  unfold State.resume
  split
  · exact holdout_finish (s := s.setProof _) ho
  · split
    · next g e =>
      obtain ⟨rfl, rfl⟩ := group?_slot e
      exact holdout_finish (holdout_setGroup ho e rfl (.inr ⟨nofun, rfl⟩))
    · exact ho

theorem holdout_release {gs : List Group} (ho : s.Holdout u) : (s.release gs).Holdout u := by
  unfold State.release
  induction gs generalizing s with
  | nil => exact ho
  | cons g gs ih =>
    refine ih ?_
    dsimp only
    split
    · exact holdout_resume ho
    · exact ho

end Holdout

/-! ### Barriers -/

theorem inTmbar_iff {g : Group} : g.inTmbar = true ↔ ∃ c, g.run = .waiting (.tmbar c) := by
  unfold Group.inTmbar
  split <;> simp_all

theorem inClbar_iff {g : Group} : g.inClbar = true ↔ ∃ c, g.run = .waiting (.clbar c) := by
  unfold Group.inClbar
  split <;> simp_all

theorem arrived_iff {s : State} {g : Group} : s.arrived g = true ↔ ∀ l ∈ s.locals, l.agent ≠ .group g.core g.slot := by
  simp [State.arrived]

section Barriers
variable (s : State) (t : Team)

/-- The groups of a team that have not exited. -/
def State.liveTeam : List Group := s.groups.filter fun g => g.team == t.uid && g.run != .exited

/-- The groups of a team's cluster set that have not exited. -/
def State.liveSet : List Group := s.groups.filter fun g => (s.setOf t).any (fun u => u == g.team) && g.run != .exited

/-- The team's groups wait at the team's barrier with no local access left. -/
def State.TeamArrived : Prop :=
  s.liveTeam t ≠ [] ∧ ∀ g ∈ s.liveTeam t, (∃ c, g.run = .waiting (.tmbar c)) ∧ ∀ l ∈ s.locals, l.agent ≠ .group g.core g.slot

/-- The set's groups wait at the cluster barrier with no local access left. -/
def State.SetArrived : Prop :=
  s.liveSet t ≠ [] ∧ ∀ g ∈ s.liveSet t, (∃ c, g.run = .waiting (.clbar c)) ∧ ∀ l ∈ s.locals, l.agent ≠ .group g.core g.slot

/-- The check of the team's barrier. -/
def State.teamMet : Bool := !(s.liveTeam t).isEmpty && (s.liveTeam t).all fun g => g.inTmbar && s.arrived g

/-- The check of the cluster set's barrier. -/
def State.setMet : Bool := !(s.liveSet t).isEmpty && (s.liveSet t).all fun g => g.inClbar && s.arrived g

variable {s t}

theorem teamMet_iff : s.teamMet t = true ↔ s.TeamArrived t := by
  simp [State.teamMet, State.TeamArrived, inTmbar_iff, arrived_iff]

theorem setMet_iff : s.setMet t = true ↔ s.SetArrived t := by
  simp [State.setMet, State.SetArrived, inClbar_iff, arrived_iff]

theorem liveTeam_eq : s.liveTeam t = (s.members t.uid).filter (·.run != .exited) := by
  simp only [State.liveTeam, State.members, List.filter_filter, Bool.and_comm]

theorem liveSet_eq : s.liveSet t = (s.groups.filter fun g => (s.setOf t).any (· == g.team)).filter (·.run != .exited) := by
  simp only [State.liveSet, List.filter_filter, Bool.and_comm]

/-- The steps of R195: the team's barrier first, then the cluster set's. -/
theorem barriers_eq (ht : s.team? t.uid = some t) : s.barriers t.uid =
    let s := if s.teamMet t then s.release (s.liveTeam t) else s
    if s.setMet t then s.release (s.liveSet t) else s := by
  simp only [State.barriers, ht, State.teamMet, State.setMet, liveTeam_eq, liveSet_eq]

theorem uid_mem_setOf (ht : s.team? t.uid = some t) : t.uid ∈ s.setOf t := by
  have mine : t ∈ s.teams := List.mem_of_find?_eq_some ht
  unfold State.setOf
  split
  · exact List.mem_singleton.2 rfl
  · next n e => exact List.mem_map.2 ⟨t, List.mem_filter.2 ⟨mine, by simp [e]⟩, rfl⟩

theorem not_setArrived_of_holdout (mine : t.uid ∈ s.setOf t) (ho : s.Holdout t.uid) : ¬ s.SetArrived t := by
  obtain ⟨g, hg, team, live, out⟩ := ho
  rintro ⟨-, all⟩
  have waits := (all g (List.mem_filter.2 ⟨hg, by simpa [team, live] using mine⟩)).1
  rw [← inClbar_iff, out] at waits
  cases waits

theorem holdout_of_teamArrived (h : s.TeamArrived t) : s.Holdout t.uid := by
  obtain ⟨some_, all⟩ := h
  obtain ⟨g, hg⟩ := List.exists_mem_of_ne_nil _ some_
  obtain ⟨⟨c, run⟩, -⟩ := all g hg
  obtain ⟨mem, mine⟩ := List.mem_filter.1 hg
  simp only [Bool.and_eq_true, beq_iff_eq] at mine
  exact ⟨g, mem, mine.1, by simp [run], by simp [Group.inClbar, run]⟩

theorem barriers_team (ht : s.team? t.uid = some t) (h : s.TeamArrived t) : s.barriers t.uid = s.release (s.liveTeam t) := by
  have mine : t.uid ∈ (s.release (s.liveTeam t)).setOf t := by
    have same : (s.release (s.liveTeam t)).setOf t = s.setOf t := by
      simp only [State.setOf, (release_rest s _).teams]
    exact same ▸ uid_mem_setOf ht
  rw [barriers_eq ht, if_pos (teamMet_iff.2 h)]
  exact if_neg (mt setMet_iff.1 (not_setArrived_of_holdout mine (holdout_release (holdout_of_teamArrived h))))

theorem not_teamArrived_of_setArrived (ht : s.team? t.uid = some t) (h : s.SetArrived t) : ¬ s.TeamArrived t := fun team =>
  not_setArrived_of_holdout (uid_mem_setOf ht) (holdout_of_teamArrived team) h

theorem barriers_set (ht : s.team? t.uid = some t) (h : s.SetArrived t) : s.barriers t.uid = s.release (s.liveSet t) := by
  rw [barriers_eq ht, if_neg (mt teamMet_iff.1 (not_teamArrived_of_setArrived ht h))]
  exact if_pos (setMet_iff.2 h)

theorem barriers_none (ht : s.team? t.uid = some t) (team : ¬ s.TeamArrived t) (set : ¬ s.SetArrived t) : s.barriers t.uid = s := by
  rw [barriers_eq ht, if_neg (mt teamMet_iff.1 team)]
  exact if_neg (mt setMet_iff.1 set)

end Barriers

/-! ### Completing -/

theorem resume_group {s : State} {c : Cur} {g : Group} (ha : c.agent = .group g.core g.slot) (e : s.group? g.core g.slot = some g)
    (whole : c.tail = none) : (s.resume c).group? g.core g.slot
      = some { g with run := .ready, notBefore := s.cycle + 1, pc := c.next, fresh := false, checkPc := false } := by
  have ready : s.resume c = (s.setGroup { g with run := .ready, notBefore := s.cycle + 1 }).finish c := by
    unfold State.resume
    rw [ha]
    simp only [e]
  rw [ready]
  exact finish_group (g := { g with run := .ready, notBefore := s.cycle + 1 }) ha (group?_setGroup_self e) whole

/-! ### Fences -/

section Fence
variable {s : State} {c : Cur} {k : FenceKind} {sc : Scope} {us : List Nat}

/-- The accesses that a fence waits for, as the statement names them. -/
def State.fenced (s : State) (a : Agent) (k : FenceKind) (sc : Scope) : List Nat :=
  let away := fun (l : Local) => match a with
    | .group core _ => l.onStore && keyCore l.addr != core
    | .proof _ => false
  dedup ((s.locals.filter fun l => (l.agent == a && (k != .acq || l.op.reads)) && (sc != .grp || away l)).map (·.uid))

theorem fenceUids_eq (a : Agent) : s.fenceUids a k sc = s.fenced a k sc := by
  have named (l : Local) : fenceNames k l = (k != .acq || l.op.reads) := by cases k <;> rfl
  simp only [State.fenceUids, State.fenced, State.localsOf, List.filter_filter]
  congr 3
  funext l
  rw [named]
  cases a <;> simp only [fenceWaits] <;> ac_rfl

theorem fenceCmds_locals (a : Agent) : (s.fenceCmds a k sc).locals = s.locals := by
  unfold State.fenceCmds
  split <;> rfl

theorem fence_goes (hc : s.Issuing c) : exec (.fence k sc) s = .next (
    if s.fenced c.agent k sc = [] then (s.fenceCmds c.agent k sc).finish c
    else match c.agent with
      | .group .. => (s.fenceCmds c.agent k sc).wait c (.fence c (s.fenced c.agent k sc))
      | .proof p => (s.fenceCmds c.agent k sc).pwait p (.fence c (s.fenced c.agent k sc))) := by
  have same : (s.fenceCmds c.agent k sc).fenceUids c.agent k sc = s.fenced c.agent k sc := by
    rw [fenceUids_eq]
    simp only [State.fenced, fenceCmds_locals]
  rw [← same]
  exact withAgent_issuing hc _

theorem fenceDone_of {us : List Nat} (h : ∀ l ∈ s.locals, l.uid ∉ us) : s.fenceDone us = true := by
  simp only [State.fenceDone, Bool.not_eq_true', List.any_eq_false]
  rintro l hl here
  obtain ⟨u, hu, same⟩ := List.any_eq_true.1 here
  exact h l hl (beq_iff_eq.1 same ▸ hu)

theorem fenceWaitEnd_group {g : Group} (h : ∀ l ∈ s.locals, l.uid ∉ us) (e : s.group? g.core g.slot = some g)
    (run : g.run = .waiting (.fence c us)) : exec (.fenceWaitEnd (.group g.core g.slot)) s = .next (s.resume c) := by
  show execFenceWaitEnd (.group g.core g.slot) s = _
  simp only [execFenceWaitEnd, e, run, fenceDone_of h, if_true]

theorem fenceWaitEnd_proof {p : Nat} (h : ∀ l ∈ s.locals, l.uid ∉ us) (wait : (s.proof p).wait = some (.fence c us)) :
    exec (.fenceWaitEnd (.proof p)) s = .next (s.resume c) := by
  show execFenceWaitEnd (.proof p) s = _
  simp only [execFenceWaitEnd, wait, fenceDone_of h, if_true]

end Fence

/-- Settles O24: the two barriers in turn, where a team whose groups are released keeps its cluster set's barrier closed, and the accesses
that a fence names. -/
theorem barriersAndFencesComplete : Obligations.BarriersAndFencesComplete := by
  refine ⟨fun s c g hg => ⟨lockTraps_of_unlocked (withGroup_group hg _), lockTraps_of_unlocked (withGroup_group hg _)⟩,
    fun s c g hg free => ⟨?tm, ?cl⟩, fun s t ht => ⟨barriers_team ht, barriers_set ht, barriers_none ht⟩,
    fun s c g ha e whole => resume_group ha e whole, fun s c hc k sc => ⟨?done, ?waits⟩,
    fun s c us h => ⟨fun g => fenceWaitEnd_group h, fun p => fenceWaitEnd_proof h⟩⟩
  case tm => exact (withGroup_group hg _).trans (congrArg _ (unlocked_ok free))
  case cl => exact (withGroup_group hg _).trans (congrArg _ (unlocked_ok free))
  case done => exact fun none_ => (fence_goes hc).trans (congrArg _ (if_pos none_))
  case waits =>
    intro some_
    have waits := (fence_goes hc).trans (congrArg _ (if_neg some_))
    refine ⟨fun g hg => ?_, fun p hp => ?_⟩
    · obtain ⟨-, agent, -⟩ := hg
      rw [waits, agent]
      rfl
    · obtain ⟨-, agent⟩ := hp
      rw [waits, agent]
      rfl

end Sys2Proof.Machine
end

section

/-! PROOFS. Lock bits, LL, SU and scratch atomics (08 R188 to R193). -/

namespace Sys2Proof.Machine
open Sys2Proof.Claims

/-! ### The queues of lock bits (R191) -/

section Queue
variable {s : State} {x y : LockReq} {a : Agent}

/-- The bit that a request is for. -/
def LockReq.spot (x : LockReq) : Nat × Nat × Nat := (x.core, x.bank, x.bit)

/-- A request stands at the head of the queue of a free bit, and its agent asks for no lower one. -/
def State.FirstInLine (s : State) (x : LockReq) : Prop :=
  x ∈ s.lockReqs ∧ s.lockOf x.spot = none ∧ ∀ y ∈ s.lockReqs,
    (y.spot = x.spot → y ≠ x → x.since < y.since ∨ (x.since = y.since ∧ agentOrder x.agent < agentOrder y.agent))
    ∧ (y.agent = x.agent → x.rank ≤ y.rank)

theorem rank_eq_iff (hx : x.bank < 48 ∧ x.bit < 8) (hy : y.bank < 48 ∧ y.bit < 8) : y.rank = x.rank ↔ y.spot = x.spot := by
  simp only [LockReq.rank, LockReq.spot, Prod.mk.injEq]
  omega

theorem lockReq_before_iff : x.before y = true ↔ x.since < y.since ∨ (x.since = y.since ∧ agentOrder x.agent < agentOrder y.agent) := by
  simp [LockReq.before]

/-- The search for a request that may be granted, in the statement's words. -/
theorem firstInLine_iff (ranks : ∀ x ∈ s.lockReqs, x.bank < 48 ∧ x.bit < 8) (hx : x ∈ s.lockReqs) : s.FirstInLine x
    ↔ ((s.lockOf (x.core, x.bank, x.bit)).isNone
      && s.lockReqs.all fun y => (y == x || y.rank != x.rank || x.before y) && (!(y.agent == x.agent) || decide (x.rank ≤ y.rank))) = true := by
  have ahead (y : LockReq) (hy : y ∈ s.lockReqs) : (y == x || y.rank != x.rank || x.before y) = true
      ↔ (y.spot = x.spot → y ≠ x → x.since < y.since ∨ (x.since = y.since ∧ agentOrder x.agent < agentOrder y.agent)) := by
    rw [← rank_eq_iff (ranks x hx) (ranks y hy), ← lockReq_before_iff]
    by_cases same : y = x
    · simp [same]
    · by_cases level : y.rank = x.rank
      · simp [same, level]
      · simp [level]
  have lowest (y : LockReq) : (!(y.agent == x.agent) || decide (x.rank ≤ y.rank)) = true ↔ (y.agent = x.agent → x.rank ≤ y.rank) := by
    by_cases own : y.agent = x.agent
    · simp [own]
    · simp [own]
  rw [Bool.and_eq_true, Option.isNone_iff_eq_none, List.all_eq_true]
  constructor
  · rintro ⟨-, free, all⟩
    exact ⟨free, fun y hy => Bool.and_eq_true_iff.2 ⟨(ahead y hy).2 (all y hy).1, (lowest y).2 (all y hy).2⟩⟩
  · rintro ⟨free, all⟩
    exact ⟨hx, free, fun y hy => (Bool.and_eq_true_iff.1 (all y hy)).imp (ahead y hy).1 (lowest y).1⟩

theorem grantable_some (ranks : ∀ x ∈ s.lockReqs, x.bank < 48 ∧ x.bit < 8) (h : s.grantable = some x) : s.FirstInLine x := by
  unfold State.grantable at h
  have met := List.find?_some h
  exact (firstInLine_iff ranks (List.mem_of_find?_eq_some h)).2 met

theorem grantable_none (ranks : ∀ x ∈ s.lockReqs, x.bank < 48 ∧ x.bit < 8) (h : s.grantable = none) (x : LockReq) : ¬ s.FirstInLine x :=
  fun first => List.find?_eq_none.1 h x first.1 ((firstInLine_iff ranks first.1).1 first)

theorem grantLocks_none (h : s.grantable = none) (n : Nat) : s.grantLocks n = s := by
  cases n with
  | zero => rfl
  | succ n => simp only [State.grantLocks, h]

theorem grantLocks_some (h : s.grantable = some x) (n : Nat) : s.grantLocks (n + 1) = State.grantLocks (State.lockReady { s with
    locks := s.locks ++ [{ core := x.core, bank := x.bank, bit := x.bit, holder := x.agent, atomic := true, until_ := 0, ll := x.ll }]
    lockReqs := s.lockReqs.filter (· != x) } x.agent) n := by
  simp only [State.grantLocks, h]

theorem lockReady_stays {g : Group} (e : s.group? g.core g.slot = some g)
    (h : (∃ x ∈ s.lockReqs, x.agent = .group g.core g.slot) ∨ g.run ≠ .waiting .lock) : s.lockReady (.group g.core g.slot) = s := by
  unfold State.lockReady
  split
  · rfl
  · next idle =>
    have busy : ¬ (g.run == .waiting .lock) = true := by
      obtain ⟨x, hx, mine⟩ | out := h
      · exact absurd (List.any_eq_true.2 ⟨x, hx, by simp [mine]⟩) idle
      · simpa using out
    simp only [e, if_neg busy]

theorem lockReady_wakes {g : Group} (e : s.group? g.core g.slot = some g)
    (none_ : ¬ ∃ x ∈ s.lockReqs, x.agent = .group g.core g.slot) (run : g.run = .waiting .lock) :
    s.lockReady (.group g.core g.slot) = s.setGroup { g with run := .ready, notBefore := s.cycle + 1, held := true } := by
  have idle : ¬ s.lockReqs.any (·.agent == .group g.core g.slot) = true := by simpa using none_
  simp only [State.lockReady, if_neg idle, e, run, beq_self_eq_true, if_true]

theorem behindLL_iff : s.behindLL a = true ↔ ∃ x ∈ s.lockReqs, x.agent = a ∧ (∀ y ∈ s.lockReqs, y.agent = a → x.rank ≤ y.rank)
    ∧ ∃ l, s.lockOf x.spot = some l ∧ l.ll = true := by
  have lowest (x y : LockReq) : (!(y.agent == a) || decide (x.rank ≤ y.rank)) = true ↔ (y.agent = a → x.rank ≤ y.rank) := by
    by_cases own : y.agent = a
    · simp [own]
    · simp [own]
  simp only [State.behindLL, List.any_eq_true, Bool.and_eq_true, beq_iff_eq, List.all_eq_true, lowest, Option.any_eq_true, and_assoc]
  rfl

end Queue

/-! ### An instruction that needs lock bits -/

section Bits
variable {s k : State} {c : Cur} {i : Instr} {ll : Bool} {keys : List Nat}

theorem mem_dedupBits {b : Nat × Nat × Nat} {bs : List (Nat × Nat × Nat)} (h : b ∈ dedupBits bs) : b ∈ bs := by
  induction bs with
  | nil => exact h
  | cons x bs ih =>
    obtain rfl | later := List.mem_cons.1 h
    · exact List.mem_cons_self
    · exact List.mem_cons_of_mem _ (ih (List.mem_filter.1 later).1)

theorem allFree_of_bitsFree {core slot : Nat} (ha : c.agent = .group core slot) (h : BitsFree s c keys) :
    s.allFree (s.lacking c.agent (dedupBits (keys.map lockId))) = true := by
  refine List.all_eq_true.2 fun b hb => ?_
  obtain ⟨needed, lacks⟩ := List.mem_filter.1 hb
  obtain ⟨key, hkey, rfl⟩ := List.mem_map.1 (mem_dedupBits needed)
  obtain ⟨l, held, own⟩ | ⟨free, alone⟩ := h core slot ha key hkey
  · rw [held, Option.any_some, own, beq_self_eq_true] at lacks
    cases lacks
  · simp [free, alone]

theorem withBits_free (h : BitsFree s c keys) : s.withBits c ll keys k = k := by
  unfold State.withBits
  split
  · rfl
  · next core slot agent => exact if_pos (Bool.or_eq_true_iff.2 (.inr (allFree_of_bitsFree agent h)))

theorem withBits_queues {core slot : Nat} (ha : c.agent = .group core slot) (h : exec i s = .next (s.withBits c ll keys k)) :
    QueuesForBits s c ll keys i := by
  unfold QueuesForBits
  intro lack joins t
  rintro ⟨b, hb, taken⟩
  have busy : ¬ (lack.isEmpty || s.allFree lack) = true := by
    have held : s.allFree lack = false := by
      refine List.all_eq_false.2 ⟨b, hb, ?_⟩
      obtain held | queued := taken
      · simp [held]
      · simp [queued]
    simp [held, List.ne_nil_of_mem hb]
  have queues : exec i s = .next (if t.behindLL c.agent then t.waitAgain c .lock else t.bankRetry c) := by
    rw [h, State.withBits, ha]
    dsimp only
    rw [← ha]
    exact congrArg _ (if_neg busy)
  exact ⟨fun behind => queues.trans (congrArg _ (if_pos behind)), fun front => queues.trans (congrArg _ (if_neg (by simp [front])))⟩

end Bits

/-! ### The checks of a scalar access -/

section Scalar
variable {s k : State} {c : Cur} {i : Instr} {acc : List Nat} {store plain8 : Bool} {addr n : Nat} {f : Nat → Nat → State}

theorem scalarTraps_of_access (h : exec i s = .next (s.scalarAccess c acc store plain8 addr n f)) :
    ScalarTraps s c acc store plain8 addr n i := by
  refine ⟨fun g hg => trapsAt_of_checked (k := f (s.locate g addr).1 (s.locate g addr).2) (h.trans ?_), fun p hp bad => h.trans ?_⟩
  · obtain ⟨-, agent, here⟩ := hg
    simp only [State.scalarAccess, agent, here]
  · obtain ⟨-, agent⟩ := hp
    simp only [State.scalarAccess, agent, if_pos bad, State.trap, State.trapAt]

theorem scalarAccess_goes {reads : Bool} (ok : AccessOk s c store reads plain8 addr n) :
    s.scalarAccess c apAll store plain8 addr n f = f (accessOf s c addr).1 (accessOf s c addr).2 := by
  cases agent : c.agent with
  | proof p =>
    simp only [AccessOk, agent] at ok
    simp only [accessOf, agent]
    exact scalarAccess_proof agent ok.1 ok.2.1
  | group core slot =>
    simp only [AccessOk, agent] at ok
    obtain ⟨g, here, passes, -⟩ := ok
    simp only [accessOf, State.scalarAccess, agent, here]
    exact checked_ok (by simpa using passes)

theorem accessOk_sound (ok : AccessOk s c store true plain8 addr n) : s.poisoned (accessOf s c addr).1 n = false := by
  cases agent : c.agent with
  | proof p =>
    simp only [AccessOk, agent] at ok
    simpa only [accessOf, agent] using ok.2.2 trivial
  | group core slot =>
    simp only [AccessOk, agent] at ok
    obtain ⟨g, here, -, clean⟩ := ok
    simpa only [accessOf, agent, here] using clean trivial

/-- A scalar access that needs a lock bit and reads: it traps, queues, is held back, takes UNCORR, or goes. -/
theorem lockedAccess_goes {ll rel : Bool} (h : exec i s = .next (s.scalarAccess c apAll store false addr n fun key lat =>
      s.withBits c ll [key] (s.ordered c rel lat (s.sound c [(key, n)] (f key lat))))) :
    let key := (accessOf s c addr).1
    let lat := (accessOf s c addr).2
    ScalarTraps s c apAll store false addr n i
    ∧ (AccessOk s c store false false addr n →
      (∀ g, State.GroupIssuing s c g → QueuesForBits s c ll [key] i)
      ∧ (BitsFree s c [key] → HeldBack s c rel lat i ∧ (Timely s c rel lat → TakesUncorr s c [(key, n)] i)))
    ∧ (AccessOk s c store true false addr n → BitsFree s c [key] → Timely s c rel lat → exec i s = .next (f key lat)) := by
  have goes {reads : Bool} (ok : AccessOk s c store reads false addr n) := h.trans (congrArg _ (scalarAccess_goes ok))
  refine ⟨scalarTraps_of_access h, fun ok => ⟨fun g hg => withBits_queues hg.2.1 (goes ok), fun free => ?_⟩, fun ok free timely => ?_⟩
  · have orders := (goes ok).trans (congrArg _ (withBits_free free))
    exact ⟨heldBack_of_ordered orders, fun timely => takesUncorr_of_sound (orders.trans (congrArg _ (ordered_ok timely)))⟩
  · rw [goes ok, withBits_free free, ordered_ok timely, sound_ok (by simpa using accessOk_sound ok)]

end Scalar

/-! ### LL and SU (R189, R190) -/

/-- What an LL that passes its checks leaves: its read in flight, and the granule that its agent holds. -/
def State.linked (s : State) (c : Cur) (la d n addr : Nat) (acq : Bool) (key lat : Nat) : State :=
  let t := s.launchLoad c la key lat n false acq d
  match c.agent with
  | .proof _ => t.setHeld c.agent (some (0, addr / 16 * 16))
  | .group .. => State.setHeld (t.holdLL c.agent (lockId key)) c.agent (some (keyCore key, keyOff key / 16 * 16))

/-- What an SU that passes its checks leaves: its write in flight, and the lock bit that ends with it. -/
def State.unlinked (s : State) (c : Cur) (d : SReg) (n addr key lat : Nat) : State :=
  let t := State.setHeld (s.launchStore c key lat n
    (if isZeroReg addr n then .store [] else .store (leBytes n (s.src c d % 2 ^ (8 * n))))) c.agent none
  { t with locks := t.locks.map fun l =>
      if l.at_ (lockId key) && l.holder == c.agent && !l.atomic then { l with atomic := true, until_ := s.cycle + lat - 1 } else l }

section Linked
variable {s : State} {c : Cur} (hc : s.Issuing c) (dbl : Bool) (o : Option Scope) (d a : SReg) (m : Byte)

/-- Bytes of an LL or SU. -/
def linkSize (dbl : Bool) : Nat := if dbl then 8 else 4

/-- The address of an LL or SU. -/
def linkAddr (s : State) (c : Cur) (dbl : Bool) (a : SReg) (m : Byte) : Nat := (s.src c a % 2 ^ 32 + m.toNat * linkSize dbl) % 2 ^ 32

include hc

theorem ll_free (la : BitVec 4) (free : s.heldLock c.agent = none) : exec (.ll la dbl o d a m) s = .next (
    s.scalarAccess c apAll false false (linkAddr s c dbl a m) (linkSize dbl) fun key lat => s.withBits c true [key] (s.ordered c false lat
      (s.sound c [(key, linkSize dbl)] (s.linked c la.toNat d.toNat (linkSize dbl) (linkAddr s c dbl a m) o.isSome key lat)))) :=
  (withAgent_issuing hc _).trans (congrArg _ (if_neg (by simp [free])))

theorem ll_held (la : BitVec 4) (held : s.heldLock c.agent ≠ none) : exec (.ll la dbl o d a m) s = .next (s.trap c 0x15) :=
  (withAgent_issuing hc _).trans (congrArg _ (if_pos (Option.isSome_iff_ne_none.2 held)))

theorem su_same (same : sameGranule s c.agent (linkAddr s c dbl a m) = true) : exec (.su dbl o d a m) s = .next (
    s.scalarAccess c apAll true false (linkAddr s c dbl a m) (linkSize dbl) fun key lat => s.ordered c o.isSome lat
      (s.unlinked c d (linkSize dbl) (linkAddr s c dbl a m) key lat)) :=
  (withAgent_issuing hc _).trans (congrArg _ (if_neg (by
    show ¬ (!sameGranule s c.agent (linkAddr s c dbl a m)) = true
    simp [same])))

theorem su_other (other : sameGranule s c.agent (linkAddr s c dbl a m) = false) : exec (.su dbl o d a m) s = .next (s.trap c 0x15) :=
  (withAgent_issuing hc _).trans (congrArg _ (if_pos (by
    show (!sameGranule s c.agent (linkAddr s c dbl a m)) = true
    simp [other])))

omit hc in
theorem linked_group {g : Group} (hg : s.GroupIssuing c g) (la n addr key lat : Nat) (acq : Bool) :
    s.linked c la d.toNat n addr acq key lat = State.setHeld ((s.launchLoad c la key lat n false acq d.toNat).holdLL c.agent (lockId key)) c.agent
      (some (key / 2 ^ 22, key % 2 ^ 22 / 16 * 16)) := by
  obtain ⟨-, agent, -⟩ := hg
  simp only [State.linked, agent]
  rfl

omit hc in
theorem linked_proof {p : Nat} (hp : s.ProofIssuing c p) (la n addr key lat : Nat) (acq : Bool) :
    s.linked c la d.toNat n addr acq key lat
      = (s.launchLoad c la key lat n false acq d.toNat).setHeld c.agent (some (0, addr / 16 * 16)) := by
  obtain ⟨-, agent⟩ := hp
  simp only [State.linked, agent]

/-- An SU at its LL's granule traps, is held back, or goes in flight. -/
theorem su_goes (same : sameGranule s c.agent (linkAddr s c dbl a m) = true) :
    let key := (accessOf s c (linkAddr s c dbl a m)).1
    let lat := (accessOf s c (linkAddr s c dbl a m)).2
    ScalarTraps s c apAll true false (linkAddr s c dbl a m) (linkSize dbl) (.su dbl o d a m)
    ∧ (AccessOk s c true false false (linkAddr s c dbl a m) (linkSize dbl) → HeldBack s c o.isSome lat (.su dbl o d a m)
      ∧ (Timely s c o.isSome lat →
        exec (.su dbl o d a m) s = .next (s.unlinked c d (linkSize dbl) (linkAddr s c dbl a m) key lat))) := by
  have goes := su_same hc dbl o d a m same
  refine ⟨scalarTraps_of_access goes, fun ok => ?_⟩
  have orders := goes.trans (congrArg _ (scalarAccess_goes ok))
  exact ⟨heldBack_of_ordered orders, fun timely => orders.trans (congrArg _ (ordered_ok timely))⟩

end Linked

/-! ### Scratch atomics (R192, R193) -/

section Lanes
variable {s : State} {c : Cur} {g : Group} (hg : s.GroupIssuing c g) (gd : MReg) (la : BitVec 4) (op : AtOp) (o : AOrd) (sc : AScope) (t : Ty)
  (d a b x : VReg)

/-- What a VATOM that passes its checks leaves: its lanes' operations in flight, their lock bits held, and its commit. -/
def State.laneAtomics (s : State) (c : Cur) (g : Group) (la : BitVec 4) (op : AtOp) (o : AOrd) (t : Ty) (d b x : VReg)
    (as : List (Nat × Nat)) : State :=
  let bits := dedupBits ((as.map fun y => (s.locate g y.2).1).map lockId)
  let r := State.holdBits { s with uid := s.uid + 1 } c.agent bits (s.cycle + s.latOf g as - 1)
  (r.later c (s.latOf g as) la.toNat id).launchLocals (as.map fun y =>
    { uid := s.uid, agent := c.agent, due := s.cycle + (s.locate g y.2).2 - 1, commit := s.uid + 1, addr := (s.locate g y.2).1
      size := atomicSize t, acq := orderAcq o, op := atomicOp op t (s.vlane g b.toNat y.1) (s.vlane g x.toNat y.1) y.2
        ((List.range 4).map (g.vkey d.toNat y.1 + ·)) none })

include hg

theorem vatom_eq : exec (.vatom gd la op o sc t d a b x) s = .next (
    let as := lanesAt (g.lanes gd) fun i => s.vlane g a.toNat i
    s.checked c g apAll true false (atomicSize t) as <|
      if as.isEmpty then s.finish c
      else s.withBits c false (as.map fun y => (s.locate g y.2).1) <| s.ordered c (orderRel o) (min (s.latOf g as) 20) <|
        s.sound c (s.runsAt g (atomicSize t) as) <| s.laneAtomics c g la op o t d b x as) :=
  withGroup_group hg _

theorem vatom_goes :
    let as := lanesAt (g.lanes gd) fun i => s.vlane g a.toNat i
    let n := atomicSize t
    let lat := s.latOf g as
    let keys := as.map fun y => (s.locate g y.2).1
    let i : Instr := .vatom gd la op o sc t d a b x
    TrapsAt s c g apAll true false n as i
    ∧ (LanesOk s g true false false n as → as ≠ [] → QueuesForBits s c false keys i
      ∧ (BitsFree s c keys → HeldBack s c (orderRel o) (min lat 20) i
        ∧ (Timely s c (orderRel o) (min lat 20) → TakesUncorr s c (as.map fun y => ((s.locate g y.2).1, n)) i)))
    ∧ (LanesOk s g true true false n as →
      (as = [] → exec i s = .next (s.finish c))
      ∧ (as ≠ [] → BitsFree s c keys → Timely s c (orderRel o) (min lat 20) → exec i s = .next (s.laneAtomics c g la op o t d b x as))) := by
  intro as n lat keys i
  have all := vatom_eq hg gd la op o sc t d a b x
  have goes {reads : Bool} (ok : LanesOk s g true reads false n as) := all.trans (congrArg _ (checked_ok fun y hy => (ok y hy).1))
  have some_ {reads : Bool} (ok : LanesOk s g true reads false n as) (h : as ≠ []) :=
    (goes ok).trans (congrArg _ (if_neg (mt List.isEmpty_iff.1 h)))
  refine ⟨trapsAt_of_checked all, fun ok h => ⟨withBits_queues hg.2.1 (some_ ok h), fun free => ?_⟩,
    fun ok => ⟨fun h => ?_, fun h free timely => ?_⟩⟩
  · have orders := (some_ ok h).trans (congrArg _ (withBits_free free))
    exact ⟨heldBack_of_ordered orders, fun timely => takesUncorr_of_sound (orders.trans (congrArg _ (ordered_ok timely)))⟩
  · exact (goes ok).trans (congrArg _ (if_pos (List.isEmpty_iff.2 h)))
  · have clean : ∀ r ∈ s.runsAt g n as, s.poisoned r.1 r.2 = false := List.forall_mem_map.2 fun y hy => (ok y hy).2 rfl
    exact (some_ ok h).trans (congrArg _ ((withBits_free free).trans ((ordered_ok timely).trans (sound_ok clean))))

end Lanes

section One
variable {s : State} {c : Cur} (hc : s.Issuing c) (la : BitVec 4) (op : AtOp) (o : AOrd) (sc : AScope) (t : Ty) (d a b x : SReg)

/-- What a SATOM that passes its checks leaves: its operation in flight, a group's lock bit held, and its commit. -/
def State.oneAtomic (s : State) (c : Cur) (la : BitVec 4) (op : AtOp) (o : AOrd) (t : Ty) (d b x : SReg) (addr key lat : Nat) : State :=
  let r := match c.agent with
    | .proof _ => { s with uid := s.uid + 1 }
    | .group .. => State.holdBits { s with uid := s.uid + 1 } c.agent [lockId key] (s.cycle + lat - 1)
  (r.later c lat la.toNat id).launchLocals [{ uid := s.uid, agent := c.agent, due := s.cycle + lat - 1, commit := s.uid + 1, addr := key
                                              size := atomicSize t, acq := orderAcq o
                                              op := atomicOp op t (s.src c b) (s.src c x) addr (scalarDst s c.agent d.toNat).1
                                                (scalarDst s c.agent d.toNat).2 }]

include hc in
theorem satom_eq : exec (.satom la op o sc t d a b x) s = .next (
    s.scalarAccess c apAll true false (s.src c a % 2 ^ 32) (atomicSize t) fun key lat => s.withBits c false [key] <|
      s.ordered c (orderRel o) lat <| s.sound c [(key, atomicSize t)] <| s.oneAtomic c la op o t d b x (s.src c a % 2 ^ 32) key lat) :=
  withAgent_issuing hc _

theorem oneAtomic_group {g : Group} (hg : s.GroupIssuing c g) (addr key lat : Nat) : s.oneAtomic c la op o t d b x addr key lat
    = ((State.holdBits { s with uid := s.uid + 1 } c.agent [lockId key] (s.cycle + lat - 1)).later c lat la.toNat id).launchLocals
      [{ uid := s.uid, agent := c.agent, due := s.cycle + lat - 1, commit := s.uid + 1, addr := key, size := atomicSize t, acq := orderAcq o
         op := atomicOp op t (s.src c b) (s.src c x) addr (scalarDst s c.agent d.toNat).1 (scalarDst s c.agent d.toNat).2 }] := by
  obtain ⟨-, agent, -⟩ := hg
  simp only [State.oneAtomic, agent]

theorem oneAtomic_proof {p : Nat} (hp : s.ProofIssuing c p) (addr key lat : Nat) : s.oneAtomic c la op o t d b x addr key lat
    = (State.later { s with uid := s.uid + 1 } c lat la.toNat id).launchLocals
      [{ uid := s.uid, agent := c.agent, due := s.cycle + lat - 1, commit := s.uid + 1, addr := key, size := atomicSize t, acq := orderAcq o
         op := atomicOp op t (s.src c b) (s.src c x) addr (scalarDst s c.agent d.toNat).1 (scalarDst s c.agent d.toNat).2 }] := by
  obtain ⟨-, agent⟩ := hp
  simp only [State.oneAtomic, agent]

end One

/-- Settles O20: the queues of lock bits by the search for the request that may be granted, and each instruction by its checks in their
order. -/
theorem lockedAccessesAndAtomicsComplete : Obligations.LockedAccessesAndAtomicsComplete := by
  refine ⟨fun s => ⟨fun ranks => ⟨fun x => grantable_some ranks, grantable_none ranks⟩, fun _ _ => rfl, fun _ => rfl, rfl,
      fun n h => grantLocks_none h n, fun n x h => grantLocks_some h n, fun g e => ⟨lockReady_stays e, lockReady_wakes e⟩, fun a => behindLL_iff⟩,
    fun s c hc dbl o d a m => ?links, fun s c g hg gd la op o sc t d a b x => vatom_goes hg gd la op o sc t d a b x,
    fun s c hc la op o sc t d a b x => ?one⟩
  case links =>
    have link (la : BitVec 4) (free : s.heldLock c.agent = none) := lockedAccess_goes (ll_free hc dbl o d a m la free)
    refine ⟨fun la free ok bits timely => ⟨fun g hg => ?_, fun p hp => ?_⟩, fun same ok timely => ?_, fun la free ok => ?_, fun same ok => ?_,
      fun held la => ll_held hc dbl o d a m la held, su_other hc dbl o d a m, fun free la => ?_, fun same => ?_⟩
    · exact ((link la free).2.2 ok bits timely).trans (congrArg _ (linked_group d hg ..))
    · exact ((link la free).2.2 ok bits timely).trans (congrArg _ (linked_proof d hp ..))
    · exact ((su_goes hc dbl o d a m same).2 ok).2 timely
    · exact (link la free).2.1 ok
    · exact ((su_goes hc dbl o d a m same).2 ok).1
    · exact (link la free).1
    · exact (su_goes hc dbl o d a m same).1
  case one =>
    obtain ⟨traps, waits, goes⟩ := lockedAccess_goes (satom_eq hc la op o sc t d a b x)
    exact ⟨traps, waits, fun ok bits timely => ⟨fun g hg => (goes ok bits timely).trans (congrArg _ (oneAtomic_group la op o t d b x hg ..)),
      fun p hp => (goes ok bits timely).trans (congrArg _ (oneAtomic_proof la op o t d b x hp ..))⟩⟩

end Sys2Proof.Machine
end

section

/-! PROOFS. Records, domains, TASKQ, TASKPUSH, TASKDONE and LAUNCH (11 R261 to R266). -/

namespace Sys2Proof.Machine
open Sys2Proof.Claims

/-! ### Stalled entries (R264) -/

section Stalled
variable {s : State} {cl : Nat}

/-- An entry of a cluster's pending table whose count reached zero. -/
def State.StalledAt (s : State) (cl : Nat) (y : TaskRec) (k : Nat) : Prop := y ∈ s.tpending ∧ y.cluster = cl ∧ y.zeroAt = some k

theorem mem_stalled {y : TaskRec} : y ∈ s.tpending.filter (fun x => x.cluster == cl && x.zeroAt.isSome) ↔ ∃ k, s.StalledAt cl y k := by
  simp only [List.mem_filter, Bool.and_eq_true, beq_iff_eq, Option.isSome_iff_exists, State.StalledAt, exists_and_left]

theorem stalled_none : s.stalled cl = none ↔ ∀ y k, ¬ s.StalledAt cl y k := by
  constructor
  · intro none_ y k hy
    have some_ : (s.tpending.filter fun x => x.cluster == cl && x.zeroAt.isSome).toFinset.Nonempty :=
      ⟨y, List.mem_toFinset.2 (mem_stalled.2 ⟨k, hy⟩)⟩
    obtain ⟨x, hx, least⟩ := Finset.exists_min_image _ (fun y => y.zeroAt.getD 0) some_
    refine List.find?_eq_none.1 none_ x (List.mem_toFinset.1 hx) (List.all_eq_true.2 fun z hz => ?_)
    exact decide_eq_true (least z (List.mem_toFinset.2 hz))
  · intro h
    have empty : s.tpending.filter (fun x => x.cluster == cl && x.zeroAt.isSome) = [] :=
      List.eq_nil_iff_forall_not_mem.2 fun y hy => (mem_stalled.1 hy).elim (h y)
    simp only [State.stalled, empty, List.find?_nil]

theorem stalled_some {x : TaskRec} (h : s.stalled cl = some x) : ∃ k, s.StalledAt cl x k ∧ ∀ y j, s.StalledAt cl y j → k ≤ j := by
  obtain ⟨k, hk⟩ := mem_stalled.1 (List.mem_of_find?_eq_some h)
  refine ⟨k, hk, fun y j hy => ?_⟩
  have least := List.find?_some h
  have below := of_decide_eq_true (List.all_eq_true.1 least y (mem_stalled.2 ⟨j, hy⟩))
  simpa [hk.2.2, hy.2.2] using below

theorem drainPending_stays (h : s.stalled cl = none ∨ s.readyRoom cl = 0) (n : Nat) : s.drainPending cl (n + 1) = s := by
  unfold State.drainPending
  split
  · rfl
  · next x hx => exact if_pos (h.resolve_left (by simp [hx]))

theorem drainPending_moves {x : TaskRec} (hx : s.stalled cl = some x) (room : s.readyRoom cl ≠ 0) (n : Nat) :
    s.drainPending cl (n + 1) = State.drainPending { s with
      tready := s.tready ++ [{ x with zeroAt := none }], tpending := s.tpending.filter (· != x) } cl n := by
  simp only [State.drainPending, hx, if_neg room]

end Stalled

/-! ### Domains (R261) -/

section Domain
variable {s : State} {l : Launch} (hl : s.launch? l.uid = some l)

/-- Nothing of a sealed domain is ready, pending, moving or handed out. -/
def State.Drained (s : State) (l : Launch) : Prop :=
  l.sealed = true ∧ l.outstanding = 0 ∧ (∀ x ∈ s.tready, x.launch ≠ l.uid) ∧ (∀ x ∈ s.tpending, x.launch ≠ l.uid)
    ∧ ∀ x ∈ s.ttransit, x.launch ≠ l.uid

theorem drained_iff : (s.Drained l ∧ l.ended = false) ↔ (l.sealed && !l.ended && l.outstanding == 0 && !s.tready.any (fun x => x.launch == l.uid)
    && !s.tpending.any (fun x => x.launch == l.uid) && !s.ttransit.any (fun x => x.launch == l.uid)) = true := by
  simp [State.Drained]
  tauto

include hl

theorem domainEnd_ends (h : s.Drained l) (live : l.ended = false) : s.domainEnd l.uid = s.setLaunch { l with ended := true } := by
  simp only [State.domainEnd, hl]
  exact if_pos (drained_iff.1 ⟨h, live⟩)

theorem domainEnd_stays (h : ¬ s.Drained l ∨ l.ended = true) : s.domainEnd l.uid = s := by
  simp only [State.domainEnd, hl]
  refine if_neg fun all => ?_
  obtain ⟨drained, live⟩ := drained_iff.2 all
  obtain not_ | ended := h
  · exact not_ drained
  · exact Bool.false_ne_true (live.symm.trans ended)

theorem sealDomain_seals {x : Nat} (h : x / 2 ^ 257 % 2 = 1) : s.sealDomain l.uid x = s.setLaunch { l with sealed := true } := by
  simp only [State.sealDomain, hl]
  exact if_pos h

theorem sealDomain_stays {x : Nat} (h : x / 2 ^ 257 % 2 = 0) : s.sealDomain l.uid x = s := by
  simp only [State.sealDomain, hl]
  exact if_neg fun one => absurd (h.symm.trans one) (by decide)

end Domain

/-! ### A successor's handle (R264) -/

section Handle
variable {s : State} {lid h : Nat} {y : TaskRec}

/-- The pending entry that a handle names. -/
def State.handled (s : State) (lid h : Nat) : Option TaskRec :=
  s.tpending.find? fun y => y.cluster == h / 1024 && y.idx == h % 1024 && y.launch == lid

theorem doneHandle_bad (h1 : h ≠ 2 ^ 32 - 1) (h2 : 2 ^ 17 ≤ h ∨ s.handled lid h = none) : s.doneHandle lid h = (s, true) := by
  refine (if_neg h1).trans ?_
  split
  · rfl
  · next y hy => exact if_pos (h2.resolve_right (by simp [State.handled, hy]))

theorem doneHandle_good (small : h < 2 ^ 17) (hy : s.handled lid h = some y) : s.doneHandle lid h =
    if y.count = 0 then (s, false)
    else if 1 < y.count then ({ s with tpending := replaceBy (· == y) { y with count := y.count - 1 } s.tpending }, false)
    else (State.drainPending { s with
      tpending := replaceBy (· == y) { y with count := 0, zeroAt := some s.uid } s.tpending, uid := s.uid + 1 } y.cluster pendingMax, false) := by
  unfold State.handled at hy
  refine (if_neg (by omega)).trans ?_
  simp only [hy]
  exact if_neg (by omega)

end Handle

/-! ### Completing with a status (R245) -/

/-- The instruction completes with a word in its status register. -/
def State.ends (s : State) (c : Cur) (d : SReg) (v : Nat) : State := State.finish (s.setSregA c.agent d.toNat (.ofNat 64 v)) c

theorem status_code (s : State) (c : Cur) (d : SReg) (code : Nat) : s.status c d (statusWord code 0) = s.ends c d code := by
  simp only [State.status, State.ends, statusWord, Nat.mul_zero, Nat.add_zero]

theorem status_value (s : State) (c : Cur) (d : SReg) (k : Nat) : s.status c d (statusWord 0 k) = s.ends c d (2 ^ 32 * k) := by
  simp only [State.status, State.ends, statusWord, Nat.zero_add]

section Issue
variable {s : State} {c : Cur} {g : Group} {t : Team} {l : Launch} (hg : s.GroupIssuing c g) (ht : s.team? g.team = some t)
  (hl : s.launch? t.launch = some l) (d a b : SReg)

theorem step_ne_iff {n : Nat} : n ∉ [0, 5] ↔ n ≠ 0 ∧ n ≠ 5 := by simp

/-! ### TASKQ (R262) -/

theorem slotFits_iff {core off : Nat} : s.slotFits core off = true ↔ (s.chases.filter (·.span.core == core)).length < 64
    ∧ ∀ e ∈ s.chases, e.span.dest = false → e.span.core = core → e.span.hi ≤ off ∨ off + 64 ≤ e.span.lo := by
  have clear (e : Chase) : ¬ (e.span.dest = false ∧ e.span.overlaps core off 64 = true)
      ↔ (e.span.dest = false → e.span.core = core → e.span.hi ≤ off ∨ off + 64 ≤ e.span.lo) := by
    simp only [Span.overlaps, Bool.and_eq_true, beq_iff_eq, decide_eq_true_eq, and_assoc, not_and]
    refine imp_congr_right fun _ => imp_congr_right fun _ => ?_
    omega
  simp only [State.slotFits, Bool.and_eq_true, decide_eq_true_eq, Bool.not_eq_true', List.any_eq_false]
  exact and_congr_right fun _ => forall₂_congr fun e _ => clear e

include ht in
theorem askTask_eq (slot word : Nat) : s.askTask c g d slot word = State.resume (State.setSregA (State.setTeam { s with
    uid := s.uid + 1
    treqs := s.treqs ++ [{ uid := s.uid, cluster := g.core / 4, launch := t.launch, team := t.uid, core := g.core, slot := slot, word := word }]
    chases := s.chases ++ [{ span := { core := g.core, lo := slot, hi := slot + 64, dest := true }, team := t.uid, tag := s.uid }] }
      { t with tqOut := t.tqOut + 1 }) c.agent d.toNat 0) c := by
  simp only [State.askTask, ht]
  rfl

theorem addrTrap_eq {n : Nat} (h : n ≠ 0 ∧ n ≠ 5) (low : n ≤ 5) (addr : Nat) :
    s.addrTrap c n addr = s.trapAt c c.pc ([0, 0x06, 0x08, 0x05, 0x06].getD n 0) 0 (.ofNat 64 addr) 1 := by
  have cause : stepCause n = [0, 0x06, 0x08, 0x05, 0x06].getD n 0 := by
    have : n < 5 := by omega
    interval_cases n
    · exact absurd rfl h.1
    all_goals rfl
  rw [State.addrTrap, cause]

include hg ht

/-- The checks of R262 in their order. -/
theorem taskq_eq : exec (.taskq d a b) s = .next (
    let addr := s.src c a % 2 ^ 32
    let word := s.src c b % 2 ^ 32
    let s1 := s.addrStep g ap0 false true addr 64
    let s2 := s.addrStep g ap0 false true word 16
    if s1 ≠ 0 ∧ s1 ≠ 5 then s.addrTrap c s1 addr
    else if s2 ≠ 0 ∧ s2 ≠ 5 then s.addrTrap c s2 word
    else if addr ≤ word ∧ word < addr + 64 then s.trap c cDESCRIPTOR
    else if 16 ≤ t.tqOut then s.ends c d 0x11
    else if s.slotFits g.core (keyOff (s.locate g addr).1) then s.askTask c g d (keyOff (s.locate g addr).1) (keyOff (s.locate g word).1)
    else s.waitAgain c (.taskq c d (keyOff (s.locate g addr).1) (keyOff (s.locate g word).1))) := by
  refine (withGroup_group hg _).trans (congrArg _ ?_)
  simp only [src_group hg, ht, status_code, Option.map_some, Option.getD_some]

theorem taskq_slotTraps (h : s.addrStep g ap0 false true (s.src c a % 2 ^ 32) 64 ∉ [0, 5]) : exec (.taskq d a b) s = .next (
    s.trapAt c c.pc ([0, 0x06, 0x08, 0x05, 0x06].getD (s.addrStep g ap0 false true (s.src c a % 2 ^ 32) 64) 0) 0
      (.ofNat 64 (s.src c a % 2 ^ 32)) 1) :=
  (taskq_eq hg ht d a b).trans (congrArg _ ((if_pos (step_ne_iff.1 h)).trans (addrTrap_eq (step_ne_iff.1 h) (addrStep_le ..) _)))

section Slot
variable (hs : s.addrStep g ap0 false true (s.src c a % 2 ^ 32) 64 ∈ [0, 5])
include hs

theorem taskq_wordTraps (h : s.addrStep g ap0 false true (s.src c b % 2 ^ 32) 16 ∉ [0, 5]) : exec (.taskq d a b) s = .next (
    s.trapAt c c.pc ([0, 0x06, 0x08, 0x05, 0x06].getD (s.addrStep g ap0 false true (s.src c b % 2 ^ 32) 16) 0) 0
      (.ofNat 64 (s.src c b % 2 ^ 32)) 1) :=
  (taskq_eq hg ht d a b).trans (congrArg _ ((if_neg fun bad => step_ne_iff.2 bad hs).trans
    ((if_pos (step_ne_iff.1 h)).trans (addrTrap_eq (step_ne_iff.1 h) (addrStep_le ..) _))))

variable (hw : s.addrStep g ap0 false true (s.src c b % 2 ^ 32) 16 ∈ [0, 5])
include hw

theorem taskq_within (h1 : s.src c a % 2 ^ 32 ≤ s.src c b % 2 ^ 32) (h2 : s.src c b % 2 ^ 32 < s.src c a % 2 ^ 32 + 64) :
    exec (.taskq d a b) s = .next (s.trap c 0x0A) :=
  (taskq_eq hg ht d a b).trans (congrArg _ ((if_neg fun bad => step_ne_iff.2 bad hs).trans
    ((if_neg fun bad => step_ne_iff.2 bad hw).trans (if_pos ⟨h1, h2⟩))))

theorem taskq_asks (h : s.src c b % 2 ^ 32 < s.src c a % 2 ^ 32 ∨ s.src c a % 2 ^ 32 + 64 ≤ s.src c b % 2 ^ 32) :
    exec (.taskq d a b) s = .next (
      let slot := keyOff (s.locate g (s.src c a % 2 ^ 32)).1
      let word := keyOff (s.locate g (s.src c b % 2 ^ 32)).1
      if 16 ≤ t.tqOut then s.ends c d 0x11
      else if s.slotFits g.core slot then s.askTask c g d slot word
      else s.waitAgain c (.taskq c d slot word)) :=
  (taskq_eq hg ht d a b).trans (congrArg _ ((if_neg fun bad => step_ne_iff.2 bad hs).trans
    ((if_neg fun bad => step_ne_iff.2 bad hw).trans (if_neg fun both => by omega))))

end Slot

omit hg in
include hl in
theorem launchOf_eq : s.launchOf g = some l := by
  simp only [State.launchOf, ht, Option.bind_some, hl]

/-! ### TASKPUSH (R263) -/

omit hg ht in
theorem pushed_image (x : Nat) : x - 2 ^ 256 * fld x 256 1 = x - 2 ^ 256 * (x / 2 ^ 256 % 2) := by
  rw [fld, pow_one]

/-- The record that a TASKPUSH makes. -/
def pushedRec (l : Launch) (cl y image i : Nat) : TaskRec :=
  { cluster := cl, launch := l.uid, image := .ofNat 512 image, idx := i, count := y, zeroAt := none }

/-- The lowest free index of a cluster's pending table. -/
def State.freeIndex (s : State) (cl : Nat) : Option Nat :=
  (List.range pendingMax).find? fun i => !s.tpending.any fun z => z.cluster == cl && z.idx == i

/-- What a TASKPUSH of a domain that has not ended does with its record. -/
def State.pushedLive (s : State) (c : Cur) (d : SReg) (l : Launch) (cl y image : Nat) : State :=
  if y = 0 then
    if s.readyRoom cl = 0 then s.ends c d 0x12
    else State.ends (State.sealDomain { s with tready := s.tready ++ [pushedRec l cl y image 0] } l.uid image) c d 0
  else
    match s.freeIndex cl with
    | none => s.ends c d 0x13
    | some i => State.ends (State.sealDomain { s with tpending := s.tpending ++ [pushedRec l cl y image i] } l.uid image) c d
      (2 ^ 32 * (i + 1024 * cl))

/-- What a TASKPUSH does with the bytes of its record. -/
def State.pushed (s : State) (c : Cur) (d : SReg) (l : Launch) (cl y x : Nat) : State :=
  let s' := s.drainPending cl pendingMax
  if l.ended then s'.ends c d 0x17 else s'.pushedLive c d l cl y (x - 2 ^ 256 * (x / 2 ^ 256 % 2))

section Pushed
variable {cl y image i : Nat}

omit hg ht in
theorem pushedLive_ready (zero : y = 0) (room : 0 < s.readyRoom cl) : s.pushedLive c d l cl y image
    = State.ends (State.sealDomain { s with tready := s.tready ++ [pushedRec l cl y image 0] } l.uid image) c d 0 :=
  (if_pos zero).trans (if_neg (Nat.ne_of_gt room))

omit hg ht in
theorem pushedLive_full (zero : y = 0) (room : s.readyRoom cl = 0) : s.pushedLive c d l cl y image = s.ends c d 0x12 :=
  (if_pos zero).trans (if_pos room)

omit hg ht in
theorem pushedLive_pending (pos : 0 < y) (free : s.freeIndex cl = some i) : s.pushedLive c d l cl y image
    = State.ends (State.sealDomain { s with tpending := s.tpending ++ [pushedRec l cl y image i] } l.uid image) c d
      (2 ^ 32 * (i + 1024 * cl)) := by
  refine (if_neg (Nat.ne_of_gt pos)).trans ?_
  simp only [free]

omit hg ht in
theorem pushedLive_crowded (pos : 0 < y) (full : ∀ i < 1024, ∃ z ∈ s.tpending, z.cluster = cl ∧ z.idx = i) :
    s.pushedLive c d l cl y image = s.ends c d 0x13 := by
  have none_ : s.freeIndex cl = none := by
    refine List.find?_eq_none.2 fun i hi => ?_
    obtain ⟨z, hz, here, at_⟩ := full i (List.mem_range.1 hi)
    have taken : s.tpending.any (fun z => z.cluster == cl && z.idx == i) = true := List.any_eq_true.2 ⟨z, hz, by simp [here, at_]⟩
    simp [taken]
  refine (if_neg (Nat.ne_of_gt pos)).trans ?_
  simp only [none_]

end Pushed

omit ht in
theorem taskpush_large (h : 2 ^ 16 ≤ s.src c b) : exec (.taskpush d a b) s = .next (s.trap c 0x01) := by
  rw [src_group hg] at h
  exact (withGroup_group hg _).trans (congrArg _ (if_pos h))

include hl in
theorem taskpush_reads (h : s.src c b < 2 ^ 16) : exec (.taskpush d a b) s
    = .next (s.readAtIssue c g ap0 true (s.src c a % 2 ^ 32) 64 (s.pushed c d l (g.core / 4) (s.src c b))) := by
  rw [src_group hg] at h
  rw [src_group hg, src_group hg]
  refine (withGroup_group hg _).trans (congrArg _ ((if_neg (Nat.not_le.2 h)).trans ?_))
  unfold State.readRecord
  congr 1
  funext x
  simp only [launchOf_eq ht hl, status_code, status_value, pushed_image, State.pushed, State.pushedLive, State.freeIndex, pushedRec, clusterOf]
    <;> generalize List.find? _ _ = index
    <;> cases index
    <;> rfl

/-! ### TASKDONE (R264) -/

/-- What a TASKDONE does with the bytes of its record. -/
def State.doneWith (s : State) (c : Cur) (d : SReg) (l : Launch) (x : Nat) : State :=
  let s' := s.setLaunch { l with outstanding := l.outstanding - 1 }
  let r0 := s'.doneHandle l.uid (x / 2 ^ 192 % 2 ^ 32)
  let r1 := r0.1.doneHandle l.uid (x / 2 ^ 224 % 2 ^ 32)
  State.ends (r1.1.domainEnd l.uid) c d (if r0.2 || r1.2 then 0x14 else 0)

include hl in
theorem taskdone_reads : exec (.taskdone d a) s
    = .next (s.readAtIssue c g ap0 true (s.src c a % 2 ^ 32) 64 (s.doneWith c d l)) := by
  rw [src_group hg]
  refine (withGroup_group hg _).trans (congrArg _ ?_)
  unfold State.readRecord
  congr 1
  funext x
  simp only [launchOf_eq ht hl, status_code]
  rfl

/-! ### LAUNCH (R266) -/

/-- What a LAUNCH does with a packet, once its queue's descriptor is read. -/
def State.launched (s : State) (c : Cur) (d : SReg) (l : Launch) (p : Partition) (y x : Nat) : Except FarAns QDesc → State
  | .error .busy => s.retryAt c 0
  | .error e => (s.tableFault p y e).ends c d 0x15
  | .ok q =>
    if !q.en || decide (q.rsize < 4) || decide (16 < q.rsize) || !(q.devw || l.priv) then s.ends c d 0x15
    else if 2 ^ q.rsize ≤ (q.widx - q.ridx).toNat then s.ends c d 0x16
    else
      match s.farKey p p.ppUnit true (farWrap (q.rbase + 64 * (q.widx.toNat % 2 ^ q.rsize))) with
      | .busy => s.retryAt c 0
      | _ => (s.launchPacket p y q x).ends c d 0

omit ht in
theorem launch_large (h : 2 ^ 14 ≤ s.src c b) : exec (.launch d a b) s = .next (s.trap c 0x01) := by
  rw [src_group hg] at h
  exact (withGroup_group hg _).trans (congrArg _ (if_pos h))

/-- What a LAUNCH does with the bytes of its packet. -/
def State.launchWith (s : State) (c : Cur) (g : Group) (d : SReg) (l : Launch) (y x : Nat) : State :=
  match s.part? (s.partOf g.core) with
  | none => s.ends c d 0x15
  | some p => if !s.boot.lock || decide (p.qtcount ≤ y) then s.ends c d 0x15 else s.launched c d l p y x (s.qdesc p y)

include hl in
theorem launch_reads (h : s.src c b < 2 ^ 14) : exec (.launch d a b) s
    = .next (s.readAtIssue c g ap0 true (s.src c a % 2 ^ 32) 64 (s.launchWith c g d l (s.src c b))) := by
  rw [src_group hg] at h
  rw [src_group hg, src_group hg]
  refine (withGroup_group hg _).trans (congrArg _ ((if_neg (Nat.not_le.2 h)).trans ?_))
  unfold State.readRecord
  congr 1
  funext x
  simp only [launchOf_eq ht hl, status_code, Option.any_some]
  unfold State.launchWith State.launched
  rfl


section Launched
variable {p : Partition} {q : QDesc} {y x : Nat}

omit hg ht in
theorem launched_refused {r : Except FarAns QDesc} (hr : r = .ok q)
    (h : q.en = false ∨ q.rsize < 4 ∨ 16 < q.rsize ∨ (q.devw = false ∧ l.priv = false)) : s.launched c d l p y x r = s.ends c d 0x15 := by
  subst hr
  exact if_pos (by simpa [or_assoc] using h)

omit hg ht in
theorem launched_checked {r : Except FarAns QDesc} (hr : r = .ok q) (en : q.en = true) (low : 4 ≤ q.rsize) (high : q.rsize ≤ 16)
    (may : q.devw = true ∨ l.priv = true) : s.launched c d l p y x r =
      if 2 ^ q.rsize ≤ (q.widx - q.ridx).toNat then s.ends c d 0x16
      else
        match s.farKey p p.ppUnit true (farWrap (q.rbase + 64 * (q.widx.toNat % 2 ^ q.rsize))) with
        | .busy => s.retryAt c 0
        | _ => (s.launchPacket p y q x).ends c d 0 := by
  subst hr
  refine if_neg ?_
  obtain devw | priv := may
  · simp [en, devw, low, high]
  · simp [en, priv, low, high]

omit hg ht in
theorem launchPacket_bad {r v e : Nat} (h : s.farKey p p.ppUnit true (farWrap (q.rbase + 64 * (q.widx.toNat % 2 ^ q.rsize))) = .bad r v e) :
    s.launchPacket p y q x = (s.ppFault p.p (s.hwSlotOf p.p y) (farWrap (q.rbase + 64 * (q.widx.toNat % 2 ^ q.rsize))) r v e 1).queueError p y 5 := by
  simp only [State.launchPacket, h]

omit hg ht in
theorem launchPacket_key {k : Nat} (h : s.farKey p p.ppUnit true (farWrap (q.rbase + 64 * (q.widx.toNat % 2 ^ q.rsize))) = .key k) :
    s.launchPacket p y q x = (s.ppWrite p (s.hwSlotOf p.p y) (farWrap (q.rbase + 64 * (q.widx.toNat % 2 ^ q.rsize)))
      (leBytes 64 x)).notify p.p y (q.widx + 1).toNat := by
  simp only [State.launchPacket, h]

omit hg ht in
theorem launchWith_refused (hp : s.part? (s.partOf g.core) = some p) (h : s.boot.lock = false ∨ p.qtcount ≤ y) :
    s.launchWith c g d l y x = s.ends c d 0x15 := by
  simp only [State.launchWith, hp]
  exact if_pos (by simpa using h)

omit hg ht in
theorem launchWith_mapped (hp : s.part? (s.partOf g.core) = some p) (lock : s.boot.lock = true) (hy : y < p.qtcount) :
    s.launchWith c g d l y x = s.launched c d l p y x (s.qdesc p y) := by
  simp only [State.launchWith, hp]
  exact if_neg (by simpa [lock] using hy)

end Launched
end Issue

/-- Settles O35: pending tables, domains and handles by their definitions, and each instruction by its checks, its read and what it does with
the bytes read. -/
theorem taskInstructionsComplete : Obligations.TaskInstructionsComplete := by
  refine ⟨fun s cl n => ⟨rfl, stalled_none, fun x => stalled_some, rfl, fun h => drainPending_stays h n,
      fun x hx room => drainPending_moves hx room n⟩,
    fun s l hl => ⟨domainEnd_ends hl, domainEnd_stays hl, fun x => sealDomain_seals hl, fun x => sealDomain_stays hl⟩,
    fun s lid h => ⟨?_, doneHandle_bad, fun y small hy => ?handle⟩,
    fun s c g t l hg ht hl d a b => ⟨?asks, ⟨taskq_slotTraps hg ht d a b, taskq_wordTraps hg ht d a b, taskq_within hg ht d a b⟩,
      taskpush_large hg d a b, launch_large hg d a b, ?fails, ?ended, ?pushes, ?done, ?launch, ?sent⟩⟩
  case handle =>
    rw [doneHandle_good small hy]
    exact ⟨fun zero => if_pos zero, fun more => (if_neg (by omega)).trans (if_pos more), fun one => (if_neg (by omega)).trans (if_neg (by omega))⟩
  case asks =>
    intro word slotOff wordOff hs hw apart
    have asks := taskq_asks hg ht d a b hs hw apart
    exact ⟨fun few fits => asks.trans (congrArg _ ((if_neg (Nat.not_le.2 few)).trans (if_pos fits))), askTask_eq ht d slotOff wordOff, slotFits_iff,
      fun few full => asks.trans (congrArg _ ((if_neg (Nat.not_le.2 few)).trans (if_neg (Bool.eq_false_iff.1 full)))),
      fun many => asks.trans (congrArg _ (if_pos many))⟩
  case fails =>
    have held {i : Instr} {f : Nat → State} (h : exec i s = .next (s.readAtIssue c g ap0 true (s.src c a % 2 ^ 32) 64 f)) :=
      And.intro (read_goes h).1 (read_goes h).2.1
    exact ⟨fun h => held (taskpush_reads hg ht hl d a b h), fun h => held (launch_reads hg ht hl d a b h), held (taskdone_reads hg ht hl d a)⟩
  case ended =>
    rintro ⟨reads, timely⟩ small ended
    exact ((read_goes (taskpush_reads hg ht hl d a b small)).2.2 reads timely).trans (congrArg _ (if_pos ended))
  case pushes =>
    rintro ⟨reads, timely⟩ small live
    have goes := ((read_goes (taskpush_reads hg ht hl d a b small)).2.2 reads timely).trans
      (congrArg _ (if_neg (Bool.eq_false_iff.1 live)))
    exact ⟨fun zero room => goes.trans (congrArg _ (pushedLive_ready d zero room)),
      fun zero room => goes.trans (congrArg _ (pushedLive_full d zero room)),
      fun i pos free => goes.trans (congrArg _ (pushedLive_pending d pos free)),
      fun pos full => goes.trans (congrArg _ (pushedLive_crowded d pos full))⟩
  case done =>
    rintro ⟨reads, timely⟩
    exact (read_goes (taskdone_reads hg ht hl d a)).2.2 reads timely
  case launch =>
    rintro ⟨reads, timely⟩ small p hp
    have goes := (read_goes (launch_reads hg ht hl d a b small)).2.2 reads timely
    refine ⟨fun h => goes.trans (congrArg _ (launchWith_refused d hp h)), fun lock hy => ?_⟩
    have mapped := goes.trans (congrArg _ (launchWith_mapped d hp lock hy))
    refine ⟨fun q hq h => mapped.trans (congrArg _ (launched_refused d hq h)), fun r v e hq => ?_, fun hq => ?_,
      fun q hq => ⟨fun r v e => launchPacket_bad, fun k => launchPacket_key⟩⟩
    · rw [mapped, hq]
      rfl
    · rw [mapped, hq]
      rfl
  case sent =>
    rintro ⟨reads, timely⟩ p q hp lock hy small hq en low high may
    have goes := (read_goes (launch_reads hg ht hl d a b small)).2.2 reads timely
    have checked := goes.trans (congrArg _ ((launchWith_mapped d hp lock hy).trans (launched_checked d hq en low high may)))
    refine ⟨fun room served => ?_, fun full => checked.trans (congrArg _ (if_pos full))⟩
    refine checked.trans (congrArg _ ((if_neg (Nat.not_le.2 room)).trans ?_))
    split
    · next e => exact absurd e served
    · rfl
  rfl

end Sys2Proof.Machine
end
